-- ==== Sys2Proof/Word.lean ====
section
/-! DEFINITION. The word types of the part (R5: a byte is 8 bits, a word 32 bits, little-endian) and their
plainest arithmetic. -/

namespace Sys2Proof

/-- A 32-bit word (R5). -/
abbrev Word := BitVec 32
/-- A byte (R5). -/
abbrev Byte := BitVec 8
/-- A 256-bit vector register (R46). -/
abbrev Vec := BitVec 256

end Sys2Proof
end

