-- ==== Sys2Proof/Syntax.lean ====
section
/-! DEFINITION. The instruction type: one constructor for each row of the table of operations and events, with the
records that the part's own steps carry (messages in flight, requests of engines, packets of the host). -/

namespace Sys2Proof

/-- The 128 cause codes (R282), each under its own name, in ascending code. (DESIGN CHOICE, log 49). -/
inductive Cause where
  | illegalOp | codeRange | misaligned | srIllegal | breakpoint | softwareTrap | ecall | codeEcc | xregEcc
  | vregEcc | sregEcc | trapNested | handlerTrap | coreHang | pipeEcc | debugHalt | localRange | localProtect
  | feTimeout | remoteBusy | localEcc | feEcc | remoteLocalEcc | feParkEcc | mailboxEcc | tmapRecordEcc
  | holdPieceEcc | retentionLoss | localScrub | loopbackEcc | bankPowerFail | feWakeLost | pageFault
  | permRead | permWrite | permExec | discardWrite | pteMalformed | memUncorrectable | remoteUnreachable
  | tmapRange | tmapUnbound | sliceEcc | tcacheEcc | pinEcc | shootdownTimeout | pagerTimeout | hostAbort
  | tileShape | tileBank | prismIwc | prismLease | prismOperand | tileEcc | prismEcc | prtNeighbour
  | slotTableEcc | mcfgEcc | vunitResidue | arrayStuck | landingEcc | pctrEcc | tokenEcc | leaseEcc
  | copyFault | copyShape | gatherIndex | transferId | engineEcc | gatherEcc | scatterEcc | cqEcc | wpEcc
  | resumeRecord | regranuleFail | sketchEcc | transferStall | faultAtRelease | indexEcc | genEcc | dequeFull
  | handlerBudget | mailboxClass | frameInvalid | barrierInvalid | barrierProducer | taskVectorLive
  | stealLost | frameEcc | barrierEcc | dbarEcc | messageEcc | deliveryBusy | termImbalance | handlerTableEcc
  | dequeEcc | linkDown | claspListFull | claspTruncate | umqOverflow | sendAcl | linkRetrain
  | flitUncorrectable | retryExhausted | claspEcc | rnrTimeout | rendezvousFail | ringBreak
  | routeUnreachable | forwardTableEcc | channelPoolEcc | fabricNotifyLost | contextKilled | queueError
  | stalePacket | watchdog | mirrorEcc | spillEcc | saveLayout | preemptTimeout | thermalLimit | powerLimit
  | droopStop | handover | featureDenied | signatureBad | launchResource | firmwareError
  deriving DecidableEq, Repr

/-- The number of a cause (R282). -/
def Cause.code : Cause → Nat
  | .illegalOp => 0x00
  | .codeRange => 0x01
  | .misaligned => 0x02
  | .srIllegal => 0x03
  | .breakpoint => 0x04
  | .softwareTrap => 0x05
  | .ecall => 0x06
  | .codeEcc => 0x07
  | .xregEcc => 0x08
  | .vregEcc => 0x09
  | .sregEcc => 0x0A
  | .trapNested => 0x0B
  | .handlerTrap => 0x0C
  | .coreHang => 0x0D
  | .pipeEcc => 0x0E
  | .debugHalt => 0x0F
  | .localRange => 0x10
  | .localProtect => 0x11
  | .feTimeout => 0x12
  | .remoteBusy => 0x13
  | .localEcc => 0x14
  | .feEcc => 0x15
  | .remoteLocalEcc => 0x16
  | .feParkEcc => 0x17
  | .mailboxEcc => 0x18
  | .tmapRecordEcc => 0x19
  | .holdPieceEcc => 0x1A
  | .retentionLoss => 0x1B
  | .localScrub => 0x1C
  | .loopbackEcc => 0x1D
  | .bankPowerFail => 0x1E
  | .feWakeLost => 0x1F
  | .pageFault => 0x20
  | .permRead => 0x21
  | .permWrite => 0x22
  | .permExec => 0x23
  | .discardWrite => 0x24
  | .pteMalformed => 0x25
  | .memUncorrectable => 0x26
  | .remoteUnreachable => 0x27
  | .tmapRange => 0x28
  | .tmapUnbound => 0x29
  | .sliceEcc => 0x2A
  | .tcacheEcc => 0x2B
  | .pinEcc => 0x2C
  | .shootdownTimeout => 0x2D
  | .pagerTimeout => 0x2E
  | .hostAbort => 0x2F
  | .tileShape => 0x30
  | .tileBank => 0x31
  | .prismIwc => 0x32
  | .prismLease => 0x33
  | .prismOperand => 0x34
  | .tileEcc => 0x35
  | .prismEcc => 0x36
  | .prtNeighbour => 0x37
  | .slotTableEcc => 0x38
  | .mcfgEcc => 0x39
  | .vunitResidue => 0x3A
  | .arrayStuck => 0x3B
  | .landingEcc => 0x3C
  | .pctrEcc => 0x3D
  | .tokenEcc => 0x3E
  | .leaseEcc => 0x3F
  | .copyFault => 0x40
  | .copyShape => 0x41
  | .gatherIndex => 0x42
  | .transferId => 0x43
  | .engineEcc => 0x44
  | .gatherEcc => 0x45
  | .scatterEcc => 0x46
  | .cqEcc => 0x47
  | .wpEcc => 0x48
  | .resumeRecord => 0x49
  | .regranuleFail => 0x4A
  | .sketchEcc => 0x4B
  | .transferStall => 0x4C
  | .faultAtRelease => 0x4D
  | .indexEcc => 0x4E
  | .genEcc => 0x4F
  | .dequeFull => 0x50
  | .handlerBudget => 0x51
  | .mailboxClass => 0x52
  | .frameInvalid => 0x53
  | .barrierInvalid => 0x54
  | .barrierProducer => 0x55
  | .taskVectorLive => 0x56
  | .stealLost => 0x57
  | .frameEcc => 0x58
  | .barrierEcc => 0x59
  | .dbarEcc => 0x5A
  | .messageEcc => 0x5B
  | .deliveryBusy => 0x5C
  | .termImbalance => 0x5D
  | .handlerTableEcc => 0x5E
  | .dequeEcc => 0x5F
  | .linkDown => 0x60
  | .claspListFull => 0x61
  | .claspTruncate => 0x62
  | .umqOverflow => 0x63
  | .sendAcl => 0x64
  | .linkRetrain => 0x65
  | .flitUncorrectable => 0x66
  | .retryExhausted => 0x67
  | .claspEcc => 0x68
  | .rnrTimeout => 0x69
  | .rendezvousFail => 0x6A
  | .ringBreak => 0x6B
  | .routeUnreachable => 0x6C
  | .forwardTableEcc => 0x6D
  | .channelPoolEcc => 0x6E
  | .fabricNotifyLost => 0x6F
  | .contextKilled => 0x70
  | .queueError => 0x71
  | .stalePacket => 0x72
  | .watchdog => 0x73
  | .mirrorEcc => 0x74
  | .spillEcc => 0x75
  | .saveLayout => 0x76
  | .preemptTimeout => 0x77
  | .thermalLimit => 0x78
  | .powerLimit => 0x79
  | .droopStop => 0x7A
  | .handover => 0x7B
  | .featureDenied => 0x7C
  | .signatureBad => 0x7D
  | .launchResource => 0x7E
  | .firmwareError => 0x7F

/-- A context of a core (R72): its two task contexts and its handler context. -/
inductive CtxSel where
  | tc0 | tc1 | handler
  deriving DecidableEq, Repr

/-- The agent that issued an operation: a coreid and one of the core's contexts. -/
structure Issuer where
  core : Nat
  ctx  : CtxSel
  deriving DecidableEq, Repr

/-- A trap to take: its cause, its A bit and its tval; epc names the instruction at which it is taken (R278). -/
structure Trap where
  cause : Cause
  a     : Bool
  tval  : Word
  deriving DecidableEq, Repr

/-- A 64-byte record of sixteen words: a continuation record (R167), a packet (R296), a bind record (R327). -/
abbrev Rec := Vector Word 16

/-- A remote load or store (R93, classes 1 and 2). -/
structure RemMsg where
  src  : Issuer
  dst  : Nat
  off  : Nat
  reg  : BitVec 4
  data : Word
  /-- The issuer's group (R94, R320). -/
  group : Nat
  /-- Its place among its issuer's accesses (R236). -/
  seq  : Nat := 0
  deriving DecidableEq, Repr

/-- The full/empty operations that may wait or that set the bit (R90). -/
inductive FeOp where
  | lwf | lwfe | swe | swf
  deriving DecidableEq, Repr

/-- A full/empty operation at its word: local or carried by classes 3 and 4 (R90, R92, R93). -/
structure FeMsg where
  src  : Issuer
  dst  : Nat
  off  : Nat
  op   : FeOp
  reg  : BitVec 4
  data : Word
  wait : Nat
  limit : Word
  remote : Bool
  /-- The issuer's group, which holds its answer while it is SAVED (R285). -/
  group : Nat
  deriving DecidableEq, Repr

/-- The operations of AMO (R96). -/
inductive AmoOp where
  | add | and | or | xor | min | max | swap | cas
  deriving DecidableEq, Repr

/-- A local atomic (R96, class 5). -/
structure AmoMsg where
  src   : Issuer
  dst   : Nat
  off   : Nat
  op    : AmoOp
  reg   : BitVec 4
  data  : Word
  data2 : Word
  acq   : Bool
  /-- The issuer's group (R94, R320). -/
  group : Nat
  /-- What the word held when the owner read it, once it has; the value is then still to be written (R252). -/
  old   : Option Word := none
  /-- Its place among its issuer's accesses (R236). -/
  seq   : Nat := 0
  deriving DecidableEq, Repr

/-- Where a barrier record stands (R195): a core's local memory, or a virtual address of a context. -/
inductive BarPlace where
  | loc (core addr : Nat)
  | vault (ctx va : Nat)
  deriving DecidableEq, Repr

/-- The barrier instructions (R221). -/
inductive BarOp where
  | binit | bexp | barr | bwait | bwaitm | btest
  deriving DecidableEq, Repr

/-- A barrier operation on its way to the record's owner (R215, R221). -/
structure BarMsg where
  src   : Issuer
  place : BarPlace
  op    : BarOp
  ref   : Word
  rd    : BitVec 4
  a     : Word
  b     : Word
  wait  : Nat
  /-- The issuer's group, which holds its answer while it is SAVED (R285). -/
  group : Nat
  deriving DecidableEq, Repr

/-- The answer to a barrier operation: the value for the destination register, or its trap (R221). -/
structure BarReply where
  dst   : Issuer
  rd    : Option (BitVec 4)
  value : Word
  acq   : Bool
  trap  : Option Trap
  /-- The core that sent it as a message, and the issuer's group (R320). -/
  src   : Option (Nat × Nat)
  deriving DecidableEq, Repr

/-- What made an engine arrival (R204, R355). -/
inductive ArrivalBy where
  | transfer (core slot : Nat)
  | landing (id : Nat)
  deriving DecidableEq, Repr

/-- An engine's update of a barrier record: an arrival with or without a chunk bit, or a poisoning (R198, R201, R218). -/
structure Arrival where
  from_ : ArrivalBy
  place : BarPlace
  coreid : Nat
  sel   : Nat
  chunk : Option Nat
  poison : Bool
  /-- The group of the transfer's core as it was sent, which may have left since (R201). -/
  group : Nat := 0
  deriving DecidableEq, Repr

/-- A dissemination notification (R230): context c, episode bit s, round k. For another part, dst is the rank of the participant in
that part's group of the context and binary in there. -/
structure Notify where
  dst : Nat
  src : Nat
  /-- The sender's context and group. -/
  ctx : Nat
  group : Nat
  c   : Nat
  s   : Bool
  k   : Nat
  part : Nat
  there : Option (Nat × Nat)
  deriving DecidableEq, Repr

/-- An ENQ request at the target hub (R309). -/
structure EnqMsg where
  src   : Issuer
  rd    : BitVec 4
  /-- The word that names the queue. -/
  ref   : Word
  queue : Nat
  img   : Rec
  spart : Nat
  sctx  : Nat
  local_ : Bool
  deriving DecidableEq, Repr

/-- A completion token with the value that its fault recorded (R144, R146). -/
structure Token where
  f    : Option Cause
  seq  : BitVec 16
  tval : Word
  deriving DecidableEq, Repr

/-- The destination of a non-blocking load (R73, R136). -/
inductive Dest where
  | none
  | x (r : BitVec 4)
  | v (r : BitVec 3)
  deriving DecidableEq, Repr

/-- The reply to a non-blocking load or atomic (R73), a fault that it carries, and where that fault is taken. -/
structure Reply where
  dst   : Issuer
  dest  : Dest
  value : Vec
  acq   : Bool
  atomic : Bool
  trap  : Option Trap
  /-- The core that sent it as a message, and the issuer's group (R320). -/
  src   : Option (Nat × Nat)
  deriving DecidableEq, Repr

/-- The operations that a NACK or a link failure answers (R94, R176, R186, R231). -/
inductive NackKind where
  | load (d : Dest) (acq atomic : Bool)
  | store
  | message
  | join (group : Nat)
  | notify (rd : BitVec 4)
  deriving DecidableEq, Repr

/-- A negative answer and the trap it raises at the issuer (R94). -/
structure Nack where
  to_  : Issuer
  kind : NackKind
  cause : Cause
  tval : Word
  /-- The issuer's group, which holds it while it is SAVED (R285). -/
  group : Nat
  deriving DecidableEq, Repr

/-- An FE wake (class 12): the end of a parked remote full/empty operation or barrier wait (R91, R226). -/
inductive Wake where
  | feLoad (to_ : Issuer) (reg : BitVec 4) (value : Word) (src group : Nat)
  | feStore (to_ : Issuer) (src group : Nat)
  | barrier (r : BarReply)
  deriving DecidableEq, Repr

/-- A continuation delivery (class 9, R182): the record, its flags bit 0 with the failed access's address and cause
(R268), the part that sent it with the sending group there (R271), and the traps that the task holds, asynchronous ones and those that
replies left at its registers (R94, R268, R279). -/
structure Delivery where
  dst  : Nat
  /-- The group of that core, which holds it while it is SAVED (R285). -/
  group : Nat
  rec_ : Rec
  fail : Option (Cause × Word)
  part : Option (Nat × Nat)
  traps : List Trap := []
  faults : List (Nat × Trap) := []
  deriving DecidableEq, Repr

/-- What a delivery gives its record beside its words: a failed access (R268), the task's origin part with the group there (R271), and
the traps that it holds (R94, R279). -/
structure Mark where
  fail   : Option (Cause × Word)
  origin : Option (Nat × Nat)
  traps  : List Trap := []
  faults : List (Nat × Trap) := []
  deriving DecidableEq, Repr

/-- An active message of a software class (R181). -/
structure AmMsg where
  src  : Issuer
  dst  : Nat
  /-- The source part and the sending context there (R181, R186). -/
  part : Nat
  ctx  : Nat
  /-- The sender's group there (R320). -/
  group : Nat
  /-- The destination word, which a NACK gives in tval (R186). -/
  dword : Word
  words : Vector Word 8
  deriving DecidableEq, Repr

/-- The global atomics (R102). -/
inductive GAtomic where
  | add | min | max | minn | maxn | swap | cas | fadd
  deriving DecidableEq, Repr

/-- What a global access does at its elements (R102, R134). -/
inductive AccOp where
  | read
  | write (lanes : Vec)
  | atomic (k : GAtomic) (a b : Word)
  | discard
  /-- A scatter-add's addition of bytes to an element of a number format (R209). -/
  | add (fmt : Nat) (bytes : List Byte)
  deriving DecidableEq, Repr

/-- A global access on its way to its translating slice (R255, R262): the elements still to be performed with lane and
virtual address (at the home part of a REMOTE page, physical), the element size, what it does, the reply's destination,
whether its lines fill the L1, its place in issue order, its reuse class, and the lanes already read. -/
structure Access where
  src   : Issuer
  ctx   : Nat
  size  : Nat
  elems : List (Nat × Nat)
  op    : AccOp
  dest  : Dest
  fill  : Bool
  acq   : Bool
  seq   : Nat
  reuse : Nat
  got   : List (Nat × Nat)
  /-- The parked task that it belongs to (R268). -/
  park  : Option Nat
  /-- The issuer's group, which holds its answer while its cores stand in a saved image (R285). -/
  group : Nat := 0
  deriving DecidableEq, Repr

/-- The answers to a SEND header (R345): admitted with its payload taken, or with its payload still to land, whose end follows (R348). -/
inductive SendAns where
  | refuse | admitted | landing | rnr
  deriving DecidableEq, Repr

/-- A tagged-message header (R345 to R348), with the eager payload when there is one. Its slot is the sender's launch number,
which names the SEND on the part. -/
structure Header where
  spart : Nat
  sid   : BitVec 20
  sctx  : Nat
  score : Nat
  slot  : Nat
  dpart : Nat
  dctx  : Nat
  tag   : Word
  len   : Nat
  trig  : Option Nat
  eager : Option (List Byte)
  resend : Bool
  /-- The ring port by which the sender sent it (R344). -/
  ring : Option Nat
  deriving DecidableEq, Repr

/-- What crosses the fabric to or from another part (R343). -/
inductive FabReq where
  | am (m : AmMsg)
  | access (part id age : Nat) (a : Access)
  | accessAns (id : Nat) (lanes : List (Nat × Nat)) (fault : Option Cause)
  | enq (part : Nat) (m : EnqMsg)
  | enqAns (to_ : Issuer) (rd : BitVec 4) (value : Word)
  | header (h : Header)
  | sendAns (core slot : Nat) (resend : Bool) (ans : SendAns)
  | pull (part core slot landing chunk bytes : Nat)
  | pulled (landing chunk : Nat) (bytes : Option (List Byte))
  | sendDone (core slot : Nat)
  | sendCancel (part core slot : Nat)
  | delivery (part home ctx handle rank node : Nat) (back : Nat × Nat) (d : Delivery)
  | deliveryAns (nack : Bool) (req : FabReq)
  /-- A join decrement with the sender's group and the group of the frame's owner there (R176, R271). -/
  | join (part : Nat) (frame : Word) (src : Issuer) (group there : Nat)
  | notify (n : Notify)
  | nack (n : Nack)
  | retry (req : FabReq)
  /-- The request has arrived at its destination, which ends what is known of it here; or a link on its way has used up its retries
  (R339). -/
  | arrived (req : FabReq)
  | failed (req : FabReq)
  | record (port channel addr : Nat) (bytes : List Byte)
  deriving DecidableEq, Repr

/-- A firmware image offered by the update path (R372): its digest, whether its signature verifies, the state-table
versions and save layouts that its manifest lists. -/
structure FwImage where
  digest  : BitVec 512
  sigOk   : Bool
  tables  : List Nat
  layouts : List Nat
  deriving DecidableEq, Repr

/-- What firmware sets: at bring-up the part's address and route table, the neighbours on the ring ports, and the provisioned keys
(R313, R337, R344); at any time the pin threshold, the ageing quantum in µs, ECC32C, and X of a kernel's code (R212, R262, R264, R306). -/
inductive Setting where
  | partAddress (a : Nat)
  | dimension (d : Fin 4) (size : Nat) (wraps : Bool)
  | ringPeer (r : Fin 2) (part : Option Nat)
  | key (index : Nat) (bytes : List Byte)
  | pinThreshold (n : BitVec 8)
  | quantum (n : Nat)
  | ecc32c (b : Bool)
  | codeExec (handle node : Nat) (x : Bool)
  deriving DecidableEq, Repr

/-- An error of the part's own storage, by where it shows (R281, R282): corrected, by structure and die; at an instruction of a task
context; at a core; at a bank's oldest command; in a transfer or a landing; at the owner of a remote operation or in its park table; in a
saved image; or at a place of a structure whose error is only
counted. -/
inductive SoftError where
  | corrected (structure_ die : Nat)
  | trap (i : Issuer) (c : Cause) (v : Word)
  | core (k : Nat) (c : Cause) (v : Word)
  | command (cluster : Nat) (bank : Bool) (c : Cause) (v : Word)
  | transfer (core slot chunk : Nat) (c : Cause) (va : Nat)
  | remote (i : Issuer) (number : Nat)
  | park (owner wait : Nat)
  | landing (id : Nat)
  | image (group : Nat) (c : Cause) (v : Word)
  | counter (c : Cause) (unit index : Nat)
  deriving DecidableEq, Repr

/-- An event of the part with what it carries: each constructor belongs to the row of the table with the same name, which
is an operation or event without an encoding (R7). -/
inductive Event where
  | feTimeout (owner wait : Nat)
  | remoteBusyResend (m : FeMsg) (expired : Bool)
  | idleTimeout (core : Nat) (ctx : CtxSel)
  | asynchronousTrap (core : Nat) (ctx : CtxSel)
  | coreHang (core : Nat) (ctx : CtxSel)
  | coreLeaveGroup (core : Nat)
  | barrierOperation (m : BarMsg)
  | barrierWaitResend (m : BarMsg)
  | engineArrival (a : Arrival)
  | dbarNotification (n : Notify)
  | enqRequest (m : EnqMsg)
  | arrayCommandTurn (cluster : Nat) (bank : Bool)
  | tokenPush (to_ : Issuer) (t : Token)
  | prtLanding (cluster : Nat) (bank : Bool) (group step : Nat) (toW : Bool) (tile : List Host.Cell)
  | leaseGrant (cluster : Nat) (bank : Bool)
  | slotEnd (cluster : Nat)
  | slotTableWrite (cluster : Nat) (reg : Option (BitVec 4)) (w : Word)
  | loadReply (r : Reply)
  | storeAck (to_ : Issuer)
  | remoteNack (n : Nack)
  | messageAccept (by_ : Issuer)
  | remoteLoad (m : RemMsg)
  | remoteStore (m : RemMsg)
  | feLoad (m : FeMsg)
  | feStore (m : FeMsg)
  | localAtomic (m : AmoMsg)
  | feWake (w : Wake)
  | steal (thief victim : Nat)
  | stealReply (thief victim : Nat) (rec_ : Option Rec) (mark : Option Mark)
  | joinDecrement (frame : Word) (src : Issuer) (group : Nat)
  | continuationDelivery (d : Delivery)
  | deliveryResend (d : Delivery)
  | deliveryBusy (d : Delivery)
  | ownerPop (core : Nat) (ctx : CtxSel)
  | stealIssue (core : Nat)
  | stealBackoffEnd (core : Nat)
  | activeMessage (core : Nat)
  | handlerBudget (core : Nat)
  | localGather (core slot row : Nat)
  | localScatterAdd (core slot row : Nat)
  | victimPieceStore (core slot ctx va : Nat) (bytes : List Byte)
  | victimPieceRecall (core slot : Nat)
  | terminationProbe (group rank : Nat)
  | terminationWave (group : Nat)
  | terminationWaveEnd (group : Nat)
  | chunkDelivered (core slot chunk : Nat)
  | chunkFault (core slot chunk : Nat) (cause : Cause) (tval : Word)
  | transferStop (core slot : Nat)
  | transferStall (core slot : Nat)
  | rowRequest (core slot row : Nat)
  | gatherRow (core slot row : Nat)
  | scatterAddRow (core slot row : Nat)
  | sketchHalve (slice : Nat)
  | sliceRequest (a : Access)
  | pagerMap (ctx va frame : Nat)
  | pagerFail (ctx va : Nat)
  | pagerRevive (ctx va : Nat)
  | pagerReclaim (ctx va : Nat) (fresh : Option Nat)
  | pagerDiscard (ctx va : Nat)
  | pagerTimeout (ctx va : Nat)
  | parkedDelivery (park : Nat)
  | migrationBegin (ctx va : Nat)
  | migrationEnd (ctx va : Nat) (leaf : BitVec 64)
  | shootdown (ctx lo hi : Nat)
  | shootdownTimeout (ctx va : Nat)
  | taskMigrate (core : Nat) (ctx : CtxSel) (part : Nat)
  | hostCompletionTimeout (id : Nat)
  | fabricRequest (r : FabReq)
  | retryResend (r : FabReq)
  | linkRetrain (port : Nat)
  | flitUncorrectable (port : Nat)
  | linkDown (port : Nat)
  | detourSet (part : Nat) (bit : Bool)
  | sendHeader (h : Header)
  | sendAnswer (core slot : Nat) (resend : Bool) (ans : SendAns)
  | sendResend (core slot : Nat)
  | rnrTimeout (core slot : Nat)
  | pullRead (part core slot landing chunk bytes : Nat)
  | payloadArrival (landing chunk : Nat) (bytes : List Byte)
  | landingComplete (landing : Nat)
  | triggerArrival (entry ctx : Nat) (again : Bool)
  | kick (q : Nat) (n : Word)
  | suspend (q : Nat)
  | resume (q : Nat)
  | skip (q : Nat)
  | enable (q : Nat)
  | disable (q : Nat)
  | disableDrained (q : Nat)
  | prioChange (q : Nat) (prio : BitVec 4)
  | launch (q : Nat)
  | waitdep (q : Nat)
  | waitdepPoll (q : Nat)
  | signal (q : Nat)
  | arm (q : Nat)
  | copy (q : Nat)
  | hubCopyEnd (q : Nat) (idx : Word)
  | nopPacket (q : Nat)
  | stampReread (q : Nat)
  | schedulingPass
  | ageingStep (q : Nat)
  | ageMicro (q : Nat)
  | slotQuiescent (slot : Nat)
  | bindRecord (group : Nat) (rec_ : Rec)
  | bindComplete (group : Nat)
  | drainEnd (group : Nat)
  | groupRelease (group : Nat)
  | preempt (group : Nat)
  | preemptSave (group : Nat)
  | preemptTimeout (group : Nat)
  | resumeGroup (group : Nat)
  | spill (ctx : Nat)
  | reload (ctx : Nat)
  | watchdog (group : Nat)
  | contextFree (ctx : Nat)
  | ctxCreate
  | ctxReady
  | ctxReset
  | ctxDestroy
  | firmwareKill (ctx : Nat)
  | ctxSet
  | aclSet
  | ctxQuery
  | binLoad (bytes : List Byte)
  | binUnload
  | followSet
  | dsetSet (bytes : List Byte)
  | map
  | unmap
  | unknownCommand
  | fcommit
  | ckpt (desc : List Word)
  | checkpointComplete (ok : Bool)
  | registerWrite (off : Nat) (w : Word)
  | bar2Access (write : Bool) (off : Nat) (bytes : List Byte)
  | powerOn
  | bringupEnd (ok : Bool) (step : BitVec 16)
  | firmwareSetting (x : Setting)
  | imageReceived (im : FwImage)
  | imageBooted
  | importTimeout
  | importComplete
  | spdmRequest
  | pldmRequest (req : Nat)
  | sensed (rails temps : List (Nat × Nat))
  | recordWrite
  | minutePassed (heat supply : List (Nat × Nat))
  | powerOff
  | powerLimit (rail : Nat) (persists : Bool)
  | thermalLimit (die : Nat) (persists : Bool)
  | droopStop (die : Nat)
  | illegalOp (w : Word)
  | codeRange (off : Word) (perm : Bool)
  | mailboxArrival (m : AmMsg)
  | malformedPacket (q : Nat)
  | enqAnswer (to_ : Issuer) (rd : BitVec 4) (value : Word) (reached : Bool)
  | barrierReply (r : BarReply)
  | hostCompletion (id : Nat) (ok : Bool) (data : List Byte)
  | hostLinkDown
  | abruptLossOfPower
  | activeComplexStopsAnswering
  | retentionLoss (core : Nat)
  | scrubber (core : Nat)
  | softError (e : SoftError)
  | memoryError (pa : Nat) (symbols : List (Nat × Nat × Nat × Byte))
  | keyRevocation (key : Nat)
  | debugHaltRequest (core : Nat) (ctx : CtxSel)
  | coreClockCycle
  deriving DecidableEq, Repr

/-- One step of the part: every row of the table of operations and events, under the row's name. An encoded
instruction carries its fields; an event without an encoding carries nothing here, since State.now holds the Event whose
turn it is. -/
inductive Instr where
  /-- R78. Writes rs1 plus rs2, wrapping, to rd. -/
  | add (b : BitVec 4) (d : BitVec 4) (a : BitVec 4)
  /-- R78. Writes rs1 minus rs2, wrapping, to rd. -/
  | sub (b : BitVec 4) (d : BitVec 4) (a : BitVec 4)
  /-- R78. Writes the bitwise AND of rs1 and rs2 to rd. -/
  | and (b : BitVec 4) (d : BitVec 4) (a : BitVec 4)
  /-- R78. Writes the bitwise OR of rs1 and rs2 to rd. -/
  | or (b : BitVec 4) (d : BitVec 4) (a : BitVec 4)
  /-- R78. Writes the bitwise XOR of rs1 and rs2 to rd. -/
  | xor (b : BitVec 4) (d : BitVec 4) (a : BitVec 4)
  /-- R78. Writes rs1 AND NOT rs2 to rd. -/
  | andn (b : BitVec 4) (d : BitVec 4) (a : BitVec 4)
  /-- R78. Shifts rs1 left by rs2[4:0] into rd. -/
  | sll (b : BitVec 4) (d : BitVec 4) (a : BitVec 4)
  /-- R78. Shifts rs1 right logically by rs2[4:0] into rd. -/
  | srl (b : BitVec 4) (d : BitVec 4) (a : BitVec 4)
  /-- R78. Shifts rs1 right arithmetically by rs2[4:0] into rd. -/
  | sra (b : BitVec 4) (d : BitVec 4) (a : BitVec 4)
  /-- R78. Rotates rs1 left by rs2[4:0] into rd. -/
  | rol (b : BitVec 4) (d : BitVec 4) (a : BitVec 4)
  /-- R78. Writes 1 to rd if rs1 is less than rs2 signed, else 0. -/
  | slt (b : BitVec 4) (d : BitVec 4) (a : BitVec 4)
  /-- R78. Writes 1 to rd if rs1 is less than rs2 unsigned, else 0. -/
  | sltn (b : BitVec 4) (d : BitVec 4) (a : BitVec 4)
  /-- R78. Writes the signed lesser of rs1 and rs2 to rd. -/
  | min (b : BitVec 4) (d : BitVec 4) (a : BitVec 4)
  /-- R78. Writes the signed greater of rs1 and rs2 to rd. -/
  | max (b : BitVec 4) (d : BitVec 4) (a : BitVec 4)
  /-- R78. Writes the unsigned lesser of rs1 and rs2 to rd. -/
  | minn (b : BitVec 4) (d : BitVec 4) (a : BitVec 4)
  /-- R78. Writes the unsigned greater of rs1 and rs2 to rd. -/
  | maxn (b : BitVec 4) (d : BitVec 4) (a : BitVec 4)
  /-- R80. Writes the low 32 bits of rs1 times rs2 to rd. -/
  | mul (b : BitVec 4) (d : BitVec 4) (a : BitVec 4)
  /-- R80. Writes the high 32 bits of the signed product to rd. -/
  | mulh (b : BitVec 4) (d : BitVec 4) (a : BitVec 4)
  /-- R80. Writes the high 32 bits of the unsigned product to rd. -/
  | mulhn (b : BitVec 4) (d : BitVec 4) (a : BitVec 4)
  /-- R27. Signed quotient rounded towards zero, with the fixed results for divisor 0 and overflow. -/
  | div (b : BitVec 4) (d : BitVec 4) (a : BitVec 4)
  /-- R27. Unsigned quotient, all ones for divisor 0. -/
  | divn (b : BitVec 4) (d : BitVec 4) (a : BitVec 4)
  /-- R27. Signed remainder taking the sign of the dividend. -/
  | rem (b : BitVec 4) (d : BitVec 4) (a : BitVec 4)
  /-- R27. Unsigned remainder, the dividend for divisor 0. -/
  | remn (b : BitVec 4) (d : BitVec 4) (a : BitVec 4)
  /-- R81. Counts leading zero bits of rs1 into rd. -/
  | clz (d : BitVec 4) (a : BitVec 4)
  /-- R81. Counts trailing zero bits of rs1 into rd. -/
  | ctz (d : BitVec 4) (a : BitVec 4)
  /-- R81. Counts set bits of rs1 into rd. -/
  | popc (d : BitVec 4) (a : BitVec 4)
  /-- R81. Reverses the bits of rs1 into rd. -/
  | brev (d : BitVec 4) (a : BitVec 4)
  /-- R81. Sign-extends the low byte of rs1 into rd. -/
  | sextb (d : BitVec 4) (a : BitVec 4)
  /-- R81. Sign-extends the low halfword of rs1 into rd. -/
  | sexth (d : BitVec 4) (a : BitVec 4)
  /-- R81. Zero-extends the low halfword of rs1 into rd. -/
  | zexth (d : BitVec 4) (a : BitVec 4)
  /-- R81. Reverses the byte order of rs1 into rd. -/
  | bswap (d : BitVec 4) (a : BitVec 4)
  /-- R79. Adds the sign-extended immediate to rs1. -/
  | addi (i : BitVec 16) (d : BitVec 4) (a : BitVec 4)
  /-- R79. ANDs rs1 with the zero-extended immediate. -/
  | andi (i : BitVec 16) (d : BitVec 4) (a : BitVec 4)
  /-- R79. ORs rs1 with the zero-extended immediate. -/
  | ori (i : BitVec 16) (d : BitVec 4) (a : BitVec 4)
  /-- R79. XORs rs1 with the zero-extended immediate. -/
  | xori (i : BitVec 16) (d : BitVec 4) (a : BitVec 4)
  /-- R79. Signed compare of rs1 with the sign-extended immediate. -/
  | slti (i : BitVec 16) (d : BitVec 4) (a : BitVec 4)
  /-- R79. Unsigned compare of rs1 with the zero-extended immediate. -/
  | sltni (i : BitVec 16) (d : BitVec 4) (a : BitVec 4)
  /-- R79. Shifts rs1 left by an immediate amount. -/
  | slli (n : BitVec 5) (d : BitVec 4) (a : BitVec 4)
  /-- R79. Shifts rs1 right logically by an immediate amount. -/
  | srli (n : BitVec 5) (d : BitVec 4) (a : BitVec 4)
  /-- R79. Shifts rs1 right arithmetically by an immediate amount. -/
  | srai (n : BitVec 5) (d : BitVec 4) (a : BitVec 4)
  /-- R79. Rotates rs1 right by an immediate amount. -/
  | rori (n : BitVec 5) (d : BitVec 4) (a : BitVec 4)
  /-- R79. Writes the immediate shifted left by 16 to rd. -/
  | lui (i : BitVec 16) (d : BitVec 4)
  /-- R82. Branches to PC plus twice the offset when rs1 equals rs2. -/
  | beq (o : BitVec 16) (a : BitVec 4) (b : BitVec 4)
  /-- R82. Branches when rs1 differs from rs2. -/
  | bne (o : BitVec 16) (a : BitVec 4) (b : BitVec 4)
  /-- R82. Branches when rs1 is less than rs2, signed. -/
  | blt (o : BitVec 16) (a : BitVec 4) (b : BitVec 4)
  /-- R82. Branches when rs1 is greater or equal to rs2, signed. -/
  | bge (o : BitVec 16) (a : BitVec 4) (b : BitVec 4)
  /-- R82. Branches when rs1 is less than rs2, unsigned. -/
  | bltn (o : BitVec 16) (a : BitVec 4) (b : BitVec 4)
  /-- R82. Branches when rs1 is greater or equal to rs2, unsigned. -/
  | bgen (o : BitVec 16) (a : BitVec 4) (b : BitVec 4)
  /-- R83. Writes PC plus 4 to rd and jumps to the 20-bit relative target. -/
  | jal (o : BitVec 16) (d : BitVec 4) (h : BitVec 4)
  /-- R83. Jumps to rs1 plus immediate with bit 0 cleared and writes the link to rd. -/
  | jalr (i : BitVec 16) (d : BitVec 4) (a : BitVec 4)
  /-- R84. Arms hardware loop i with an immediate count, start and end offsets, skipping the body for a count of 0. -/
  | lset (e : BitVec 10) (s : BitVec 6) (l : BitVec 1) (c : BitVec 6)
  /-- R84. Arms hardware loop i with a count taken from a register. -/
  | lsetReg (e : BitVec 10) (s : BitVec 6) (l : BitVec 1) (r : BitVec 4)
  /-- R89. Loads a sign-extended byte from local memory. -/
  | lb (i : BitVec 16) (d : BitVec 4) (a : BitVec 4)
  /-- R89. Loads a zero-extended byte from local memory. -/
  | lbn (i : BitVec 16) (d : BitVec 4) (a : BitVec 4)
  /-- R89. Loads a sign-extended halfword from local memory. -/
  | lh (i : BitVec 16) (d : BitVec 4) (a : BitVec 4)
  /-- R89. Loads a zero-extended halfword from local memory. -/
  | lhn (i : BitVec 16) (d : BitVec 4) (a : BitVec 4)
  /-- R89. Loads a word from local memory. -/
  | lw (i : BitVec 16) (d : BitVec 4) (a : BitVec 4)
  /-- R89. Stores the low byte of the data register to local memory. -/
  | sb (i : BitVec 16) (d : BitVec 4) (b : BitVec 4)
  /-- R89. Stores the low halfword of the data register to local memory. -/
  | sh (i : BitVec 16) (d : BitVec 4) (b : BitVec 4)
  /-- R89. Stores the data register word to local memory. -/
  | sw (i : BitVec 16) (d : BitVec 4) (b : BitVec 4)
  /-- R90. Waits until the word is full and loads it. -/
  | lwf (o : BitVec 14) (d : BitVec 4) (a : BitVec 4)
  /-- R90. Waits until the word is full, loads it and marks it empty. -/
  | lwfe (o : BitVec 14) (d : BitVec 4) (a : BitVec 4)
  /-- R90. Reads the word's full/empty bit into rd. -/
  | fetest (o : BitVec 14) (d : BitVec 4) (a : BitVec 4)
  /-- R90. Waits until the word is empty, stores it and marks it full. -/
  | swe (o : BitVec 14) (d : BitVec 4) (b : BitVec 4)
  /-- R90. Stores the word and marks it full. -/
  | swf (o : BitVec 14) (d : BitVec 4) (b : BitVec 4)
  /-- R90. Marks the word full. -/
  | feset (o : BitVec 14) (b : BitVec 4)
  /-- R90. Marks the word empty. -/
  | feclr (o : BitVec 14) (b : BitVec 4)
  /-- R93. Non-blocking load of a word from another core's local memory. -/
  | rlw (b : BitVec 4) (d : BitVec 4) (a : BitVec 4)
  /-- R93. Remote load performed at the owner as LWF. -/
  | rlwf (b : BitVec 4) (d : BitVec 4) (a : BitVec 4)
  /-- R93. Remote load performed at the owner as LWFE. -/
  | rlwfe (b : BitVec 4) (d : BitVec 4) (a : BitVec 4)
  /-- R93. Stores a word to another core's local memory. -/
  | rsw (b : BitVec 4) (d : BitVec 4) (a : BitVec 4)
  /-- R93. Remote store performed at the owner as SWE. -/
  | rswe (b : BitVec 4) (d : BitVec 4) (a : BitVec 4)
  /-- R93. Remote store performed at the owner as SWF. -/
  | rswf (b : BitVec 4) (d : BitVec 4) (a : BitVec 4)
  /-- R96. Atomic add on a local-memory word, performed in the owner's handler context. -/
  | amoAdd (b : BitVec 4) (o : BitVec 2) (d : BitVec 4) (a : BitVec 4)
  /-- R96. Atomic AND on a local-memory word. -/
  | amoAnd (b : BitVec 4) (o : BitVec 2) (d : BitVec 4) (a : BitVec 4)
  /-- R96. Atomic OR on a local-memory word. -/
  | amoOr (b : BitVec 4) (o : BitVec 2) (d : BitVec 4) (a : BitVec 4)
  /-- R96. Atomic XOR on a local-memory word. -/
  | amoXor (b : BitVec 4) (o : BitVec 2) (d : BitVec 4) (a : BitVec 4)
  /-- R96. Atomic signed minimum on a local-memory word. -/
  | amoMin (b : BitVec 4) (o : BitVec 2) (d : BitVec 4) (a : BitVec 4)
  /-- R96. Atomic signed maximum on a local-memory word. -/
  | amoMax (b : BitVec 4) (o : BitVec 2) (d : BitVec 4) (a : BitVec 4)
  /-- R96. Atomic swap on a local-memory word. -/
  | amoSwap (b : BitVec 4) (o : BitVec 2) (d : BitVec 4) (a : BitVec 4)
  /-- R96. Atomic compare-and-swap using the register pair rd, rd+1. -/
  | amoCas (b : BitVec 4) (o : BitVec 2) (d : BitVec 3) (a : BitVec 4)
  /-- R100. Binds a tensor-map slot to a snapshot of its local record, trapping TMAP_UNBOUND if the record is malformed. -/
  | tmset (s : BitVec 4)
  /-- R100. Unbinds a tensor-map slot. -/
  | tmoff (s : BitVec 4)
  /-- R102. Loads a 32-bit global element through a map, possibly served from the L1. -/
  | glw (t : BitVec 4) (i : BitVec 8) (d : BitVec 4) (x : BitVec 4)
  /-- R102. Stores a 32-bit global element through a map, write-through. -/
  | gsw (t : BitVec 4) (i : BitVec 8) (d : BitVec 4) (x : BitVec 4)
  /-- R104. Global load as an acquire that bypasses and then invalidates the L1. -/
  | glwa (t : BitVec 4) (i : BitVec 8) (d : BitVec 4) (x : BitVec 4)
  /-- R104. Global store as a release, sent after earlier writes are acknowledged. -/
  | gswl (t : BitVec 4) (i : BitVec 8) (d : BitVec 4) (x : BitVec 4)
  /-- R102. Global atomic add returning the old element. -/
  | gaadd (t : BitVec 4) (i : BitVec 8) (d : BitVec 4) (x : BitVec 4)
  /-- R102. Global atomic minimum returning the old element. -/
  | gamin (t : BitVec 4) (i : BitVec 8) (d : BitVec 4) (x : BitVec 4)
  /-- R102. Global atomic maximum returning the old element. -/
  | gamax (t : BitVec 4) (i : BitVec 8) (d : BitVec 4) (x : BitVec 4)
  /-- R102. Global atomic swap returning the old element. -/
  | gaswap (t : BitVec 4) (i : BitVec 8) (d : BitVec 4) (x : BitVec 4)
  /-- R102. Global atomic compare-and-swap using an even register pair. -/
  | gacas (t : BitVec 4) (i : BitVec 8) (d : BitVec 3) (x : BitVec 4)
  /-- R102. Global atomic f32 add, rounded RNE, returning the old element. -/
  | gafadd (t : BitVec 4) (i : BitVec 8) (d : BitVec 4) (x : BitVec 4)
  /-- R105. Waits for earlier accesses per type, scope and LB, and invalidates the L1 for acquire or full fences at cluster scope or wider. -/
  | fence (y : BitVec 2) (l : BitVec 1) (s : BitVec 3)
  /-- R106. Reads a special register into a scalar register. -/
  | mfs (n : BitVec 12) (d : BitVec 4)
  /-- R50. Reads cycle and latches the counter's high half for the next read of cycleh. -/
  | mfsCycle (d : BitVec 4)
  /-- R144. Pops the oldest prism completion token, stalling while commands are outstanding, trapping on a faulted token. -/
  | mfsPq (d : BitVec 4)
  /-- R199. Launches a copy from the copy shadow set and returns its transfer ID. -/
  | mfsCpGo (d : BitVec 4)
  /-- R200. Pops the oldest copy completion record, stalling while Q transfers are live, delivering a held fault. -/
  | mfsCq (d : BitVec 4)
  /-- R207. Launches a gather or scatter-add from the gather shadow set and returns its transfer ID. -/
  | mfsGpGo (d : BitVec 4)
  /-- R356. Pops the context's oldest clasp completion record, or returns all ones when empty. -/
  | mfsRq (d : BitVec 4)
  /-- R363. Pops the next block index from the group's block queue on a bezel core. -/
  | mfsBq (d : BitVec 4)
  /-- R106. Writes a scalar register to a special register. -/
  | mts (n : BitVec 12) (x : BitVec 4)
  /-- R106. Writes a zero-extended 4-bit immediate to a special register. -/
  | mtsi (n : BitVec 12) (i : BitVec 4)
  /-- R106. Sets in a special register the bits that are 1 in the source. -/
  | mss (n : BitVec 12) (x : BitVec 4)
  /-- R106. Clears in a special register the bits that are 1 in the source. -/
  | mcs (n : BitVec 12) (x : BitVec 4)
  /-- R107. Stalls until each ocnt field is at or below its coded limit, then delivers held copy faults. -/
  | waito (l : BitVec 4) (s : BitVec 4) (c : BitVec 4) (t : BitVec 4) (m : BitVec 4)
  /-- R108. Traps SOFTWARE_TRAP with the 8-bit code in tval. -/
  | trap (c : BitVec 8)
  /-- R175. Continues as an acquire if the frame count is zero, else parks a waiter record in the frame and frees the task context. -/
  | sync (f : BitVec 4)
  /-- R188. Ends the task as HALT and names successor kernel slot k for the core to be reserved for. -/
  | haltr (k : BitVec 2)
  /-- R186. Sends a 32-byte active message of a software class to a core of this or another part. -/
  | sendam (c : BitVec 4) (d : BitVec 4)
  /-- R172. Initialises a join frame in local memory and returns its frame reference. -/
  | frinit (d : BitVec 4) (a : BitVec 4)
  /-- R174. Increments the frame count and pushes a continuation record for the target at the bottom of the deque. -/
  | spawn (o : BitVec 16) (f : BitVec 4)
  /-- R274. Prefetches or recalls the pages of a map range without trapping. -/
  | pgpre (t : BitVec 4) (n : BitVec 4) (i : BitVec 4)
  /-- R273. Discards the whole pages of a map range, making their bytes read zero. -/
  | pgdisc (t : BitVec 4) (n : BitVec 4) (i : BitVec 4)
  /-- R222. Arms a barrier record with a chunk mask and generic expected count, incrementing gen. -/
  | binit (b : BitVec 4) (d : BitVec 4) (a : BitVec 4)
  /-- R222. Sets a producer slot's coreid and expected count, or the generic count, then tests the phase. -/
  | bexp (b : BitVec 4) (d : BitVec 4) (a : BitVec 4)
  /-- R223. Releases and arrives on a barrier count, returning the phase joined. -/
  | barr (b : BitVec 4) (d : BitVec 4) (a : BitVec 4)
  /-- R224. Awaits completion of a named barrier phase, returning 0 or 1 for poison. -/
  | bwait (b : BitVec 4) (d : BitVec 4) (a : BitVec 4)
  /-- R224. Awaits the chunk bits of a mask, returning 0, or 2 if the phase completes first. -/
  | bwaitm (b : BitVec 4) (d : BitVec 4) (a : BitVec 4)
  /-- R225. Reads a barrier's gen, mask coverage, poison and phase without waiting. -/
  | btest (b : BitVec 4) (d : BitVec 4) (a : BitVec 4)
  /-- R230. Runs one dissemination-barrier episode over the span's participants in log rounds, returning the episode count. -/
  | dbar (s : BitVec 3) (c : BitVec 2) (d : BitVec 4)
  /-- R347. Sends a tagged message described by a send descriptor, as an eager or rendezvous transfer. -/
  | send (b : BitVec 4) (d : BitVec 4) (a : BitVec 4)
  /-- R350. Posts a receive descriptor to the clasp engine, matching it first against the unexpected-message queue. -/
  | rpost (d : BitVec 4) (a : BitVec 4)
  /-- R358. Removes a posted receive if still unmatched and reports its status. -/
  | rcancel (d : BitVec 4) (a : BitVec 4)
  /-- R359. Searches the unexpected-message queue for a match and writes its description without taking it. -/
  | rprobe (d : BitVec 4) (a : BitVec 4)
  /-- R309. Writes a 64-byte packet image into a queue with prod = 1, locally or on another part, returning a status. -/
  | enq (b : BitVec 4) (d : BitVec 4) (a : BitVec 4)
  /-- R203. Delivers a held fault, then returns the status of a transfer ID. -/
  | cptest (d : BitVec 4) (a : BitVec 4)
  /-- R203. Requests that a transfer stop and returns the status with which it ended. -/
  | cpcancel (d : BitVec 4) (a : BitVec 4)
  /-- R203. Stalls until a transfer ends and returns its status. -/
  | cpwait (d : BitVec 4) (a : BitVec 4)
  /-- R142. Checks a tile shape and, as an array command, sets the tile's mcfg register in its turn. -/
  | mcfg (m : BitVec 3) (x : BitVec 4)
  /-- R151. Array command that zeroes the bytes of a tile covered by its shape. -/
  | mzero (m : BitVec 3)
  /-- R149. Requests or refreshes the array lease of n commands for the task context. -/
  | lease (n : BitVec 6)
  /-- R152. Array command that loads a tile from the map's view, reading every element before writing. -/
  | mld (t : BitVec 4) (x : BitVec 4) (d : BitVec 3)
  /-- R153. Array command that stores a tile to the map's view in ascending element order. -/
  | mst (t : BitVec 4) (x : BitVec 4) (d : BitVec 3)
  /-- R155. Ternary matrix-vector accumulation of s8 activations into s32 with weights streamed through a t5 map. -/
  | pmv (t : BitVec 4) (x : BitVec 4) (d : BitVec 3) (a : BitVec 3)
  /-- R156. Ternary accumulation of mx8 activations into f32 per block. -/
  | pmvx (t : BitVec 4) (x : BitVec 4) (d : BitVec 3) (a : BitVec 3)
  /-- R157. Ternary accumulation with weights taken from a tile. -/
  | pmt (w : BitVec 3) (d : BitVec 3) (a : BitVec 3)
  /-- R158. Bit-plane s8 by s8 matrix accumulation into s32. -/
  | pbp (b : BitVec 3) (d : BitVec 3) (a : BitVec 3)
  /-- R159. Performs PMT, then shifts weights west and activations north across the rotation rectangle and awaits the landed tiles. -/
  | prt (w : BitVec 3) (d : BitVec 3) (a : BitVec 3)
  /-- R115. Adds integer lanes, wrapping. -/
  | vadd (b : BitVec 3) (e : BitVec 3) (d : BitVec 3) (a : BitVec 3) (p : BitVec 2)
  /-- R115. Subtracts integer lanes, wrapping. -/
  | vsub (b : BitVec 3) (e : BitVec 3) (d : BitVec 3) (a : BitVec 3) (p : BitVec 2)
  /-- R115. Adds integer lanes with saturation. -/
  | vadds (b : BitVec 3) (e : BitVec 3) (d : BitVec 3) (a : BitVec 3) (p : BitVec 2)
  /-- R115. Subtracts integer lanes with saturation. -/
  | vsubs (b : BitVec 3) (e : BitVec 3) (d : BitVec 3) (a : BitVec 3) (p : BitVec 2)
  /-- R115. Low half of lane products. -/
  | vmul (b : BitVec 3) (e : BitVec 3) (d : BitVec 3) (a : BitVec 3) (p : BitVec 2)
  /-- R115. High half of lane products. -/
  | vmulh (b : BitVec 3) (e : BitVec 3) (d : BitVec 3) (a : BitVec 3) (p : BitVec 2)
  /-- R115. Multiply-accumulate into vd, wrapping. -/
  | vmac (b : BitVec 3) (e : BitVec 3) (d : BitVec 3) (a : BitVec 3) (p : BitVec 2)
  /-- R115. Lane minimum. -/
  | vmin (b : BitVec 3) (e : BitVec 3) (d : BitVec 3) (a : BitVec 3) (p : BitVec 2)
  /-- R115. Lane maximum. -/
  | vmax (b : BitVec 3) (e : BitVec 3) (d : BitVec 3) (a : BitVec 3) (p : BitVec 2)
  /-- R115. Bitwise AND of lanes. -/
  | vand (b : BitVec 3) (e : BitVec 3) (d : BitVec 3) (a : BitVec 3) (p : BitVec 2)
  /-- R115. Bitwise OR of lanes. -/
  | vor (b : BitVec 3) (e : BitVec 3) (d : BitVec 3) (a : BitVec 3) (p : BitVec 2)
  /-- R115. Bitwise XOR of lanes. -/
  | vxor (b : BitVec 3) (e : BitVec 3) (d : BitVec 3) (a : BitVec 3) (p : BitVec 2)
  /-- R115. Bitwise AND NOT of lanes. -/
  | vandn (b : BitVec 3) (e : BitVec 3) (d : BitVec 3) (a : BitVec 3) (p : BitVec 2)
  /-- R115. Shifts lanes left by lanes of vs2. -/
  | vshl (b : BitVec 3) (e : BitVec 3) (d : BitVec 3) (a : BitVec 3) (p : BitVec 2)
  /-- R115. Shifts lanes right logically. -/
  | vshr (b : BitVec 3) (e : BitVec 3) (d : BitVec 3) (a : BitVec 3) (p : BitVec 2)
  /-- R115. Shifts lanes right arithmetically. -/
  | vsra (b : BitVec 3) (e : BitVec 3) (d : BitVec 3) (a : BitVec 3) (p : BitVec 2)
  /-- R115. Wrapping absolute value of signed lanes. -/
  | vabs (e : BitVec 3) (d : BitVec 3) (a : BitVec 3) (p : BitVec 2)
  /-- R115. Wrapping negation of signed lanes. -/
  | vneg (e : BitVec 3) (d : BitVec 3) (a : BitVec 3) (p : BitVec 2)
  /-- R115. Writes a predicate of lane equality. -/
  | vcmpeq (b : BitVec 3) (e : BitVec 3) (d : BitVec 2) (a : BitVec 3) (p : BitVec 2)
  /-- R115. Writes a predicate of lane less-than. -/
  | vcmplt (b : BitVec 3) (e : BitVec 3) (d : BitVec 2) (a : BitVec 3) (p : BitVec 2)
  /-- R115. Writes a predicate of lane less-or-equal. -/
  | vcmple (b : BitVec 3) (e : BitVec 3) (d : BitVec 2) (a : BitVec 3) (p : BitVec 2)
  /-- R115. Selects each lane from vs1 or vs2 by the predicate, writing every lane. -/
  | vsel (b : BitVec 3) (e : BitVec 3) (d : BitVec 3) (a : BitVec 3) (p : BitVec 2)
  /-- R116. Floating lane addition, RNE. -/
  | vfadd (b : BitVec 3) (e : BitVec 3) (d : BitVec 3) (a : BitVec 3) (p : BitVec 2)
  /-- R116. Floating lane subtraction, RNE. -/
  | vfsub (b : BitVec 3) (e : BitVec 3) (d : BitVec 3) (a : BitVec 3) (p : BitVec 2)
  /-- R116. Floating lane multiplication, RNE. -/
  | vfmul (b : BitVec 3) (e : BitVec 3) (d : BitVec 3) (a : BitVec 3) (p : BitVec 2)
  /-- R116. Fused multiply-add into vd with one rounding. -/
  | vfma (b : BitVec 3) (e : BitVec 3) (d : BitVec 3) (a : BitVec 3) (p : BitVec 2)
  /-- R116. Floating lane minimum. -/
  | vfmin (b : BitVec 3) (e : BitVec 3) (d : BitVec 3) (a : BitVec 3) (p : BitVec 2)
  /-- R116. Floating lane maximum. -/
  | vfmax (b : BitVec 3) (e : BitVec 3) (d : BitVec 3) (a : BitVec 3) (p : BitVec 2)
  /-- R116. Clears the sign bit of floating lanes. -/
  | vfabs (e : BitVec 3) (d : BitVec 3) (a : BitVec 3) (p : BitVec 2)
  /-- R116. Inverts the sign bit of floating lanes. -/
  | vfneg (e : BitVec 3) (d : BitVec 3) (a : BitVec 3) (p : BitVec 2)
  /-- R117. Correctly rounded reciprocal of floating lanes. -/
  | vrcp (e : BitVec 3) (d : BitVec 3) (a : BitVec 3) (p : BitVec 2)
  /-- R117. Correctly rounded reciprocal square root of floating lanes. -/
  | vrsq (e : BitVec 3) (d : BitVec 3) (a : BitVec 3) (p : BitVec 2)
  /-- R117. Correctly rounded power of two of floating lanes. -/
  | vexp2 (e : BitVec 3) (d : BitVec 3) (a : BitVec 3) (p : BitVec 2)
  /-- R116. Writes a predicate of floating equality. -/
  | vfcmpeq (b : BitVec 3) (e : BitVec 3) (d : BitVec 2) (a : BitVec 3) (p : BitVec 2)
  /-- R116. Writes a predicate of floating less-than. -/
  | vfcmplt (b : BitVec 3) (e : BitVec 3) (d : BitVec 2) (a : BitVec 3) (p : BitVec 2)
  /-- R116. Writes a predicate of floating less-or-equal. -/
  | vfcmple (b : BitVec 3) (e : BitVec 3) (d : BitVec 2) (a : BitVec 3) (p : BitVec 2)
  /-- R118. Converts lanes between element types under a rounding mode. -/
  | vcvt (s : BitVec 3) (e : BitVec 3) (r : BitVec 2) (d : BitVec 3) (a : BitVec 3) (p : BitVec 2)
  /-- R119. Converts s32 accumulators to f32 and adds them times a scale into vd. -/
  | vscl (b : BitVec 3) (d : BitVec 3) (a : BitVec 3) (p : BitVec 2)
  /-- R120. Decodes six t5 bytes into thirty s8 trits. -/
  | vtrit (d : BitVec 3) (a : BitVec 3) (p : BitVec 2)
  /-- R120. Packs thirty s8 lanes by sign into six t5 bytes. -/
  | vpackt (d : BitVec 3) (a : BitVec 3) (p : BitVec 2)
  /-- R121. Copies active lanes of vs1. -/
  | vmov (e : BitVec 3) (d : BitVec 3) (a : BitVec 3) (p : BitVec 2)
  /-- R121. Permutes lanes of vs1 by indices in vs2. -/
  | vperm (b : BitVec 3) (e : BitVec 3) (d : BitVec 3) (a : BitVec 3) (p : BitVec 2)
  /-- R121. Compresses selected lanes to the bottom of vd, zeroing the rest. -/
  | vcompr (e : BitVec 3) (d : BitVec 3) (a : BitVec 3) (p : BitVec 2)
  /-- R121. Expands the low lanes of vs1 into selected lanes, zeroing the rest. -/
  | vexpnd (e : BitVec 3) (d : BitVec 3) (a : BitVec 3) (p : BitVec 2)
  /-- R121. Interleaves the low halves of vs1 and vs2. -/
  | vzipl (b : BitVec 3) (e : BitVec 3) (d : BitVec 3) (a : BitVec 3) (p : BitVec 2)
  /-- R121. Interleaves the high halves of vs1 and vs2. -/
  | vziph (b : BitVec 3) (e : BitVec 3) (d : BitVec 3) (a : BitVec 3) (p : BitVec 2)
  /-- R121. Reverses lane order. -/
  | vrev (e : BitVec 3) (d : BitVec 3) (a : BitVec 3) (p : BitVec 2)
  /-- R128. ANDs two bitmaps, resets xc and counts set bits into xn. -/
  | vband (b : BitVec 3) (d : BitVec 3) (a : BitVec 3) (p : BitVec 2)
  /-- R128. ORs two bitmaps, resets xc and counts set bits into xn. -/
  | vbor (b : BitVec 3) (d : BitVec 3) (a : BitVec 3) (p : BitVec 2)
  /-- R129. Writes prefix popcounts of 16-bit chunks. -/
  | vpopp (d : BitVec 3) (a : BitVec 3) (p : BitVec 2)
  /-- R130. Emits up to sixteen rank pairs of common bitmap positions from the cursor xc. -/
  | vxsect (b : BitVec 3) (d : BitVec 3) (a : BitVec 3) (p : BitVec 2)
  /-- R131. Writes a predicate of active nonzero lanes. -/
  | vnzm (e : BitVec 3) (d : BitVec 2) (a : BitVec 3) (p : BitVec 2)
  /-- R132. Loads 32 bytes of local memory into a vector register. -/
  | vld (i : BitVec 11) (v : BitVec 3) (x : BitVec 4)
  /-- R132. Stores a vector register to 32 bytes of local memory. -/
  | vst (i : BitVec 11) (v : BitVec 3) (x : BitVec 4)
  /-- R133. Indexed load of local elements into lanes. -/
  | vldx (i : BitVec 3) (z : BitVec 2) (v : BitVec 3) (x : BitVec 4)
  /-- R133. Indexed store of lanes to local memory. -/
  | vstx (i : BitVec 3) (z : BitVec 2) (v : BitVec 3) (x : BitVec 4)
  /-- R134. Non-blocking load of consecutive global elements through a map. -/
  | vldg (t : BitVec 4) (i : BitVec 9) (v : BitVec 3) (o : BitVec 1) (x : BitVec 4)
  /-- R134. Stores lanes to consecutive global elements through a map. -/
  | vstg (t : BitVec 4) (i : BitVec 9) (v : BitVec 3) (o : BitVec 1) (x : BitVec 4)
  /-- R134. Non-blocking load of global elements down dimension 1. -/
  | vldgs (t : BitVec 4) (i : BitVec 9) (v : BitVec 3) (o : BitVec 1) (x : BitVec 4)
  /-- R122. Broadcasts a scalar to active lanes. -/
  | vbcast (x : BitVec 4) (e : BitVec 3) (d : BitVec 3) (p : BitVec 2)
  /-- R122. Extracts one lane to a scalar register. -/
  | vext (x : BitVec 4) (e : BitVec 3) (l : BitVec 5) (a : BitVec 3) (p : BitVec 2)
  /-- R122. Inserts a scalar into one lane. -/
  | vins (x : BitVec 4) (e : BitVec 3) (l : BitVec 5) (d : BitVec 3) (p : BitVec 2)
  /-- R124. Narrows two registers of lanes with rounding right shift and saturation. -/
  | vnarrow (e : BitVec 3) (s : BitVec 5) (d : BitVec 3) (a : BitVec 2) (p : BitVec 2)
  /-- R124. Widens one half of the source lanes exactly. -/
  | vwiden (e : BitVec 3) (h : BitVec 1) (d : BitVec 3) (a : BitVec 3) (p : BitVec 2)
  /-- R125. Quantises 32 f32 values into one mx8 block and scale. -/
  | vmxq (x : BitVec 4) (d : BitVec 3) (q : BitVec 1) (p : BitVec 2)
  /-- R125. Dequantises one mx8 block into 32 f32 values. -/
  | vmxd (x : BitVec 4) (q : BitVec 1) (a : BitVec 3) (p : BitVec 2)
  /-- R126. Adds two mx8 blocks exactly and requantises the sum. -/
  | badq (x : BitVec 4) (d : BitVec 3) (a : BitVec 3) (p : BitVec 2)
  /-- R123. Counts active nonzero lanes into a scalar. -/
  | vnzc (x : BitVec 4) (e : BitVec 3) (a : BitVec 3) (p : BitVec 2)
  /-- R123. Sums active lanes in a fixed pairwise tree into a scalar. -/
  | vsumr (x : BitVec 4) (e : BitVec 3) (a : BitVec 3) (p : BitVec 2)
  /-- R123. Reduces active lanes to their maximum in a scalar. -/
  | vmaxr (x : BitVec 4) (e : BitVec 3) (a : BitVec 3) (p : BitVec 2)
  /-- R122. Slides lanes down by n, filling from a scalar. -/
  | vslide (x : BitVec 4) (e : BitVec 3) (n : BitVec 5) (d : BitVec 3) (a : BitVec 3) (p : BitVec 2)
  /-- R62. 16-bit form of ADD rd, rs, x0. -/
  | cMov (d : BitVec 4) (s : BitVec 4)
  /-- R62. 16-bit form of ADD rd, rd, rs. -/
  | cAdd (d : BitVec 4) (s : BitVec 4)
  /-- R62. 16-bit form of SUB rd, rd, rs. -/
  | cSub (d : BitVec 4) (s : BitVec 4)
  /-- R62. 16-bit form of AND rd, rd, rs. -/
  | cAnd (d : BitVec 4) (s : BitVec 4)
  /-- R62. 16-bit form of OR rd, rd, rs. -/
  | cOr (d : BitVec 4) (s : BitVec 4)
  /-- R62. 16-bit form of XOR rd, rd, rs. -/
  | cXor (d : BitVec 4) (s : BitVec 4)
  /-- R62. 16-bit form of SLL rd, rd, rs. -/
  | cSll (d : BitVec 4) (s : BitVec 4)
  /-- R62. 16-bit form of SRL rd, rd, rs. -/
  | cSrl (d : BitVec 4) (s : BitVec 4)
  /-- R62. 16-bit form of SRA rd, rd, rs. -/
  | cSra (d : BitVec 4) (s : BitVec 4)
  /-- R62. 16-bit form of SLT rd, rd, rs. -/
  | cSlt (d : BitVec 4) (s : BitVec 4)
  /-- R62. 16-bit form of JALR x0, rs, 0. -/
  | cJr (s : BitVec 4)
  /-- R62. 16-bit form of JALR lr, rs, 0 with link PC plus 2. -/
  | cJalr (s : BitVec 4)
  /-- R62. 16-bit form of ADDI rd, rd, sext(imm6). -/
  | cAddi (d : BitVec 4) (i : BitVec 6)
  /-- R62. 16-bit form of ADDI rd, x0, sext(imm6). -/
  | cLi (d : BitVec 4) (i : BitVec 6)
  /-- R62. 16-bit form of SLLI rd, rd, n. -/
  | cSlli (d : BitVec 4) (n : BitVec 5)
  /-- R62. 16-bit form of SRLI rd, rd, n. -/
  | cSrli (d : BitVec 4) (n : BitVec 5)
  /-- R62. 16-bit form of SRAI rd, rd, n. -/
  | cSrai (d : BitVec 4) (n : BitVec 5)
  /-- R62. 16-bit form of ANDI rd, rd, zext(imm6). -/
  | cAndi (d : BitVec 4) (i : BitVec 6)
  /-- R62. 16-bit form of LW rd, [sp + 4 × imm6]. -/
  | cLwsp (d : BitVec 4) (i : BitVec 6)
  /-- R62. 16-bit form of SW rd, [sp + 4 × imm6]. -/
  | cSwsp (d : BitVec 4) (i : BitVec 6)
  /-- R62. 16-bit form of LUI rd with a sign-extended 6-bit immediate. -/
  | cLui (d : BitVec 4) (i : BitVec 6)
  /-- R62. 16-bit form of BEQ rs, x0, off7. -/
  | cBeqz (s : BitVec 4) (o : BitVec 7)
  /-- R62. 16-bit form of BNE rs, x0, off7. -/
  | cBnez (s : BitVec 4) (o : BitVec 7)
  /-- R62. 16-bit form of LW rd, [base + 4 × off3]. -/
  | cLw (d : BitVec 4) (b : BitVec 4) (o : BitVec 3)
  /-- R62. 16-bit form of SW rd, [base + 4 × off3]. -/
  | cSw (d : BitVec 4) (b : BitVec 4) (o : BitVec 3)
  /-- R62. 16-bit form of JAL x0, off11. -/
  | cJ (o : BitVec 11)
  /-- R108. Does nothing. -/
  | nop
  /-- R108. Traps ECALL with tval 0. -/
  | ecall
  /-- R109. Leaves trap mode, completing a software trap or re-issuing the instruction at epc. -/
  | tret
  /-- R108. Traps BREAKPOINT with tval 0. -/
  | brk
  /-- R72. Makes the other task context preferred for the next issue cycle. -/
  | yield
  /-- R110. Stalls the task context until a wake event. -/
  | idle
  /-- R176. Ends the task after the end-of-task steps and decrements its join frame locally or by message. -/
  | done
  /-- R188. Ends the task as DONE and removes the task context from the set that takes work. -/
  | halt
  /-- R185. Waits for the handler's remote stores to be accepted, frees the mailbox entry and ends the handler run. -/
  | hret
  /-- R149. Withdraws a lease request or ends a held lease. -/
  | unlease
  /-- R127. Waits for pending vectors, zeroes v0-v7 and p1-p3 and clears status.VL. -/
  | vclear
  /-- R62. 16-bit form of VCLEAR. -/
  | cVclear
  /-- R62. 16-bit form of NOP. -/
  | cNop
  /-- R62. 16-bit form of DONE. -/
  | cDone
  /-- R62. 16-bit form of HRET. -/
  | cHret
  /-- R62. 16-bit form of JALR x0, lr, 0. -/
  | cRet
  /-- R92. A full/empty wait not satisfied within fetmo cycles is withdrawn and traps FE_TIMEOUT, or the owner answers TIMEOUT for a remote wait. -/
  | feTimeout
  /-- R92. A remote FE operation answered BUSY is resent after 64 cycles, or traps REMOTE_BUSY once fetmo cycles have passed. -/
  | remoteBusyResend
  /-- R110. An IDLE ends after 65,536 cycles without a wake event. -/
  | idleTimeout
  /-- R279. A held asynchronous trap is taken at the next instruction boundary outside trap mode, oldest first. -/
  | asynchronousTrap
  /-- R282. A running task context that retires nothing for 2^24 cycles while not stalled escalates CORE_HANG. -/
  | coreHang
  /-- R188. Once both task contexts have left and the deque, steals, mailbox and handler are clear, the core goes OFF or RESERVED. -/
  | coreLeaveGroup
  /-- R215. A barrier instruction from another core, carried as a class-5 message, is performed at the record's owner. -/
  | barrierOperation
  /-- R226. A remote barrier wait answered BUSY is resent after 64 cycles. -/
  | barrierWaitResend
  /-- R218. A transfer's or landing's arrival reaches a barrier owner and is credited, possibly completing the phase. -/
  | engineArrival
  /-- R231. A dissemination notification arrives and is held for its episode and round, completing a waiting round. -/
  | dbarNotification
  /-- R309. An ENQ request reaches the target hub and is applied to the queue in one step, or dropped by the ACL. -/
  | enqRequest
  /-- R162. An accepted array command begins its busy cycles in its turn in the bank's stream. -/
  | arrayCommandTurn
  /-- R144. A completed array command decrements ocnt.tile and pushes its completion token to the issuer's queue. -/
  | tokenPush
  /-- R159. Tiles sent by a neighbour's PRT step arrive and are held in the landing buffer for the same step. -/
  | prtLanding
  /-- R149. The request at the head of the bank's queue is granted the lease in an owned slot. -/
  | leaseGrant
  /-- R147. An array slot's length expires; the next slot begins and a held lease returns to WAITING at the head. -/
  | slotEnd
  /-- R147. Firmware writes pslen or a pslot register, restarting the rotation at slot 0. -/
  | slotTableWrite
  /-- R73. A class-0 reply to a non-blocking load or atomic arrives and writes its pending register, or carries its fault. -/
  | loadReply
  /-- R93. The owner's acknowledgement of a remote or global store arrives and decrements ocnt.stores. -/
  | storeAck
  /-- R94. A NACK from a target's network interface arrives and traps REMOTE_UNREACHABLE at the issuer. -/
  | remoteNack
  /-- R405. The network accepts a message once its last flit passes into the network with a credit, decrementing ocnt.messages. -/
  | messageAccept
  /-- R182. A class-1 remote load message is performed at the owner and answered. -/
  | remoteLoad
  /-- R182. A class-2 remote store message is performed at the owner and acknowledged. -/
  | remoteStore
  /-- R182. A class-3 remote FE load is performed or parked at the owner. -/
  | feLoad
  /-- R182. A class-4 remote FE store is performed or parked at the owner. -/
  | feStore
  /-- R96. A class-5 local atomic is performed in the owner's handler context and answered with the old value. -/
  | localAtomic
  /-- R182. A class-12 wake arrives and completes a parked remote FE operation or barrier wait. -/
  | feWake
  /-- R180. A class-6 steal reaches the victim's deque controller and is answered with the top record or empty. -/
  | steal
  /-- R180. A class-7 steal reply lands a record that starts on the waiting task context, or lets it fall back. -/
  | stealReply
  /-- R176. A class-8 join decrement reaches the frame's owner and decrements the count, pushing a waiter at zero. -/
  | joinDecrement
  /-- R182. A class-9 delivery pushes its 64-byte record at the deque bottom or is answered BUSY. -/
  | continuationDelivery
  /-- R182. A continuation delivery answered BUSY is resent after 64 cycles. -/
  | deliveryResend
  /-- R282. A continuation delivery still answered BUSY after 1 ms escalates. -/
  | deliveryBusy
  /-- R178. A FREE task context of a bound core pops the bottom deque entry and starts the task. -/
  | ownerPop
  /-- R179. A FREE task context with an empty deque sends a steal to the next candidate of its round. -/
  | stealIssue
  /-- R179. After a round of empty replies, the 512-cycle wait ends and a new round may begin. -/
  | stealBackoffEnd
  /-- R184. The handler context takes a software-class message from the mailbox and runs its routine. -/
  | activeMessage
  /-- R184. A handler run that exhausts hbudget instructions escalates HANDLER_BUDGET. -/
  | handlerBudget
  /-- R208. A class-10 local gather row request is performed in microcode at the owner core. -/
  | localGather
  /-- R208. A class-11 local scatter-add row request is performed in microcode at the owner core. -/
  | localScatterAdd
  /-- R75. A class-14 victim piece is stored in a core that is OFF or HOLDING. -/
  | victimPieceStore
  /-- R75. A class-14 recall reads a piece back to the slice, powering the core down after its last piece. -/
  | victimPieceRecall
  /-- R321. A class-13 probe reaches a core, which answers idle, sent, received and wrap flag. -/
  | terminationProbe
  /-- R321. Dispatch starts a termination wave, 256 cycles after the previous one returned. -/
  | terminationWave
  /-- R321. A wave's combined answer returns; the tree fires after two balanced all-idle waves, or escalates on wrap. -/
  | terminationWaveEnd
  /-- R198. A transfer chunk's writes are acknowledged and it is credited by its delivery mode, ending the transfer after the last. -/
  | chunkDelivered
  /-- R201. A transfer chunk faults and the transfer stops at a chunk boundary with F set, poisoning a bound barrier. -/
  | chunkFault
  /-- R192. At pre-emption, a transfer not ended within 8 µs stops at a chunk boundary and is SAVED. -/
  | transferStop
  /-- R282. A transfer that delivers no chunk for 1 s outside page waits escalates. -/
  | transferStall
  /-- R208. The copy engine sends a gather or scatter-add row request to its slice, vault port or owner core. -/
  | rowRequest
  /-- R208. A gather row request is served and its row lands in the destination. -/
  | gatherRow
  /-- R209. A scatter-add row is added element by element, indivisibly, at its performing slice or port. -/
  | scatterAddRow
  /-- R211. After 2^20 class-2 requests, a slice halves every sketch counter. -/
  | sketchHalve
  /-- R262. A global access reaches its translating slice, is translated, checked and performed or passed to its target. -/
  | sliceRequest
  /-- R269. The pager maps a frame for an ABSENT page and replays the parked accesses. -/
  | pagerMap
  /-- R269. The pager fails and the parked accesses fail with PAGE_FAULT. -/
  | pagerFail
  /-- R269. The pager revives a DISCARDED page for a parked write, zero-filling it and replaying. -/
  | pagerRevive
  /-- R269. The pager reclaims a DISCARDED frame, unmapping it or mapping a fresh zeroed frame for parked writes. -/
  | pagerReclaim
  /-- R269. The pager discards a RESIDENT or VICTIM page. -/
  | pagerDiscard
  /-- R282. A pager that does not answer in 100 ms fails its parked accesses with PAGE_FAULT. -/
  | pagerTimeout
  /-- R268. The pager delivers a parked task's record as class 9 after performing its accesses. -/
  | parkedDelivery
  /-- R269. The pager begins a migration, home change or granule change, making the page MIGRATING. -/
  | migrationBegin
  /-- R269. The pager ends a migration with a new frame, home, kind or granule. -/
  | migrationEnd
  /-- R261. Firmware publishes a page-table change by a shoot-down to the slices for a context and range. -/
  | shootdown
  /-- R282. A shoot-down not complete in 1 ms is counted. -/
  | shootdownTimeout
  /-- R271. After a REMOTE follow access, the task migrates at the next boundary as a kind-01 record to the home part. -/
  | taskMigrate
  /-- R267. A HOST access with no completion within the host-set timeout traps REMOTE_UNREACHABLE. -/
  | hostCompletionTimeout
  /-- R343. A request from another part arrives over the fabric and is performed at this part or passed on. -/
  | fabricRequest
  /-- R342. A request answered RETRY is sent again after 2 µs with the same age. -/
  | retryResend
  /-- R339. A port retrains, which is counted. -/
  | linkRetrain
  /-- R339. A flit that FEC cannot correct is retried and counted. -/
  | flitUncorrectable
  /-- R339. A port whose retries are used up leaves service and its outstanding requests receive error answers. -/
  | linkDown
  /-- R338. Firmware sets or clears a destination's detour bit while holding new requests to it. -/
  | detourSet
  /-- R345. A tagged-message header reaches the clasp engine and is answered REFUSE, ADMIT or RNR. -/
  | sendHeader
  /-- R347. The answer to a SEND header arrives at the sender, completing the SEND or trapping SEND_ACL. -/
  | sendAnswer
  /-- R348. A header answered RNR is sent again by the sender's hub. -/
  | sendResend
  /-- R348. A header answered RNR for 1 s ends the SEND with a chunk fault. -/
  | rnrTimeout
  /-- R354. A rendezvous pull read is served by the sender's hub through the sender's page tables. -/
  | pullRead
  /-- R355. Eager payload or pulled data arrives and lands in the matched destination view chunk by chunk. -/
  | payloadArrival
  /-- R355. A landing ends: the descriptor's w8-w15 are written, the trigger tag counted and a record pushed to rq. -/
  | landingComplete
  /-- R323. An arrival carrying a trigger tag adds to the entry's count and may inject its armed packet. -/
  | triggerArrival
  /-- R295. A host write of a write index to KICK advances wi, is ignored, or puts the queue in ERROR with OVERRUN. -/
  | kick
  /-- R294. CMD value 3 suspends the queue, unbinding it at the next packet boundary. -/
  | suspend
  /-- R294. CMD value 4 returns a SUSPENDED or ERROR queue to PENDING or IDLE. -/
  | resume
  /-- R294. CMD value 5 advances ri past the packet at ri of a SUSPENDED or ERROR queue. -/
  | skip
  /-- R294. A write of 1 to the QCB state enables a DISABLED queue with valid ring parameters. -/
  | enable
  /-- R294. A write of 0 to the QCB state disables the queue once inflight is zero. -/
  | disable
  /-- R294. A waiting DISABLE takes effect when inflight reaches zero. -/
  | disableDrained
  /-- R307. A write of the queue's prio takes effect at the scheduling pass it causes. -/
  | prioChange
  /-- R316. Dispatch examines and dispatches a LAUNCH packet, creating a group and counting it in inflight. -/
  | launch
  /-- R298. Dispatch examines a WAITDEP and dispatches it once every used signal holds. -/
  | waitdep
  /-- R298. A waiting WAITDEP's signals are read again every 1 µs. -/
  | waitdepPoll
  /-- R299. Dispatch writes or adds to a signal as a system-scope release and may raise an MSI-X vector. -/
  | signal
  /-- R324. Dispatch copies an ARM packet's image into a trigger-table entry and tests it. -/
  | arm
  /-- R300. Dispatch starts a hub DMA copy through the queue context's page tables. -/
  | copy
  /-- R300. A hub DMA copy ends, writing its signal on success or putting the queue in ERROR on a fault. -/
  | hubCopyEnd
  /-- R300. Dispatch passes a NOP packet, which does nothing. -/
  | nopPacket
  /-- R302. A packet whose stamp mismatched is read again 1 µs later and every 2 µs, entering ERROR STALE at 20 µs. -/
  | stampReread
  /-- R306. Firmware unbinds drained queues and binds or swaps pending queues by effective priority. -/
  | schedulingPass
  /-- R306. An ageing quantum passes, raising a pending queue's eff and making bound queues eligible. -/
  | ageingStep
  /-- R305. A hardware queue slot written V = 0 stops at a packet boundary and reports quiescent. -/
  | slotQuiescent
  /-- R327. Firmware writes a bind record, moving the group and its cores into BINDING. -/
  | bindRecord
  /-- R317. Dispatch finishes the bind broadcast on every core and places the root task on rank 0. -/
  | bindComplete
  /-- R322. A DRAINING launch's transfers have all ended; the group is released and the completion signal written, or FAULTED. -/
  | drainEnd
  /-- R335. Firmware releases a group, stopping its transfers and powering its cores down. -/
  | groupRelease
  /-- R283. Firmware pre-empts a group, stopping issue and commands and quiescing its agents. -/
  | preempt
  /-- R283. Once quiesced, the group's state is written to mirror banks and the save area and its cores go OFF. -/
  | preemptSave
  /-- R282. Quiescing past 100 ms in page waits is counted. -/
  | preemptTimeout
  /-- R289. Firmware restores a SAVED group from mirror image and save area, re-issues transfers and releases held messages. -/
  | resumeGroup
  /-- R290. Firmware copies a SAVED context's images to its save area when a mirror bank is needed. -/
  | spill
  /-- R290. Firmware copies spilled images back to their mirror banks. -/
  | reload
  /-- R282. A group running longer than its context's wdog escalates. -/
  | watchdog
  /-- R277. A TERMINATED context's resources are freed and it returns to FREE. -/
  | contextFree
  /-- R371. Creates a context in LOADING, allocating its tables, save area, unexpected region, ACL and trigger range. -/
  | ctxCreate
  /-- R371. Moves a LOADING context to READY. -/
  | ctxReady
  /-- R371. Moves a FAULTED context to READY, releasing its held groups. -/
  | ctxReset
  /-- R371. Terminates a context and ends when it is FREE. -/
  | ctxDestroy
  /-- R371. Sets a context's slot quota and array share. -/
  | ctxSet
  /-- R371. Writes one of a context's access-control entries. -/
  | aclSet
  /-- R371. Returns words w0 and w15 of a context record. -/
  | ctxQuery
  /-- R313. Reads, verifies and loads a Bymel binary into a context, returning a handle. -/
  | binLoad
  /-- R313. Unloads a binary once no launch of it is in flight. -/
  | binUnload
  /-- R371. Writes or removes a context's follow-table entry for a home part. -/
  | followSet
  /-- R371. Writes the domain-set table of a binary. -/
  | dsetSet
  /-- R371. Maps a virtual range in a context, allocating or naming frames, after shoot-downs. -/
  | map
  /-- R371. Unmaps whole pages of a range after shoot-downs and frees allocated frames. -/
  | unmap
  /-- R371. A submitted command with an unlisted opcode ends with status UNKNOWN and changes nothing. -/
  | unknownCommand
  /-- R369. A write of 1 commits FACCEPT, WBASE and HBASE while every context is FREE, else sets DSTAT.CR. -/
  | fcommit
  /-- R376. A write of 1 starts a checkpoint streaming used memory to the safe tier per the descriptor. -/
  | ckpt
  /-- R377. Every end record has been acknowledged and CKSTAT reads 2, or a port fault ends it with 3. -/
  | checkpointComplete
  /-- R366. A host write to a device or QCB register without a row of its own sets, clears or drops as its map gives. -/
  | registerWrite
  /-- R367. A host access through BAR2 is performed at the physical address without the slices, or completes Unsupported Request. -/
  | bar2Access
  /-- R370. At power-on the active complex trains CD0 and enters BRINGUP with the reduced offer. -/
  | powerOn
  /-- R370. Training of the rest of the part ends in READY with a wider offer, or in FAILED. -/
  | bringupEnd
  /-- R372. A firmware image arrives over PLDM into the standby, which boots it or refuses it. -/
  | imageReceived
  /-- R372. The standby finishes booting and verifying the image and begins import, or discards it. -/
  | imageBooted
  /-- R372. Import not complete in 50 ms; the image is discarded and passes resume. -/
  | importTimeout
  /-- R372. Import completes with every slot at a packet boundary, and the new complex takes over. -/
  | importComplete
  /-- R373. An SPDM measurement request is answered with signed measurements, or held during import. -/
  | spdmRequest
  /-- R368. A PLDM monitoring request over the side-band is served by the active complex. -/
  | pldmRequest
  /-- R375. Every 10 minutes of operation the lifetime records are written to flash. -/
  | recordWrite
  /-- R375. An orderly power-off writes the lifetime records. -/
  | powerOff
  /-- R379. A rail's 1 ms average above its limit lowers the die clock, and after 10 ms pre-empts the lowest-priority group. -/
  | powerLimit
  /-- R379. A die junction at 105 °C triggers the same clock and pre-emption action. -/
  | thermalLimit
  /-- R379. A supply droop stops issue on its die for at most 1 µs. -/
  | droopStop
  /-- R61. A fetched bit pattern that is not an instruction (reserved major, illegal func, nonzero must-be-zero field, forbidden in the context) traps ILLEGAL_OP. -/
  | illegalOp
  /-- R53. A fetch whose halfword lies at or beyond the code segment's length, or lacks X, traps at fetch with the offset in tval. -/
  | codeRange
  /-- R184. A message lands in the next mailbox entry in ring order, counting as received and waking a thief's backoff or IDLE. -/
  | mailboxArrival
  /-- R297. Dispatch examines a packet at ri whose ring read faults or whose type is none of the six, and the queue enters ERROR. -/
  | malformedPacket
  /-- R309. The target hub's answer to an ENQ arrives, writing the status to rd and ending the issuer's stall. -/
  | enqAnswer
  /-- R221. The reply to a barrier instruction performed at a remote owner arrives, completing the instruction or taking its fault. -/
  | barrierReply
  /-- R267. The host's completion of a HOST-kind access arrives at the hub, finishing the access or trapping HOST_ABORT on error status. -/
  | hostCompletion
  /-- R267. The host link goes down, after which HOST accesses trap REMOTE_UNREACHABLE and the side-band stays usable. -/
  | hostLinkDown
  /-- R375. Power is lost without an orderly power-off, losing up to 10 minutes of lifetime counts. -/
  | abruptLossOfPower
  /-- R368. The active firmware complex stops answering and the standby takes over serving the side-band port. -/
  | activeComplexStopsAnswering
  /-- R282. A RESERVED core's banks lose retention, which escalates. -/
  | retentionLoss
  /-- R282. The local-memory scrubber finds an error in an unbound core and counts LOCAL_SCRUB. -/
  | scrubber
  /-- R316. A signing key is revoked over the side-band, withdrawing the signature check of binaries loaded under it. -/
  | keyRevocation
  /-- R282. A side-band request makes firmware halt a task context with the asynchronous trap DEBUG_HALT. -/
  | debugHaltRequest
  /-- R50. Each core clock cycle advances the 64-bit cycle counter of every bound core. -/
  | coreClockCycle
  deriving DecidableEq, Repr

/-- The row of an event. -/
def Event.row : Event → Instr
  | .feTimeout .. => .feTimeout
  | .remoteBusyResend .. => .remoteBusyResend
  | .idleTimeout .. => .idleTimeout
  | .asynchronousTrap .. => .asynchronousTrap
  | .coreHang .. => .coreHang
  | .coreLeaveGroup .. => .coreLeaveGroup
  | .barrierOperation .. => .barrierOperation
  | .barrierWaitResend .. => .barrierWaitResend
  | .engineArrival .. => .engineArrival
  | .dbarNotification .. => .dbarNotification
  | .enqRequest .. => .enqRequest
  | .arrayCommandTurn .. => .arrayCommandTurn
  | .tokenPush .. => .tokenPush
  | .prtLanding .. => .prtLanding
  | .leaseGrant .. => .leaseGrant
  | .slotEnd .. => .slotEnd
  | .slotTableWrite .. => .slotTableWrite
  | .loadReply .. => .loadReply
  | .storeAck .. => .storeAck
  | .remoteNack .. => .remoteNack
  | .messageAccept .. => .messageAccept
  | .remoteLoad .. => .remoteLoad
  | .remoteStore .. => .remoteStore
  | .feLoad .. => .feLoad
  | .feStore .. => .feStore
  | .localAtomic .. => .localAtomic
  | .feWake .. => .feWake
  | .steal .. => .steal
  | .stealReply .. => .stealReply
  | .joinDecrement .. => .joinDecrement
  | .continuationDelivery .. => .continuationDelivery
  | .deliveryResend .. => .deliveryResend
  | .deliveryBusy .. => .deliveryBusy
  | .ownerPop .. => .ownerPop
  | .stealIssue .. => .stealIssue
  | .stealBackoffEnd .. => .stealBackoffEnd
  | .activeMessage .. => .activeMessage
  | .handlerBudget .. => .handlerBudget
  | .localGather .. => .localGather
  | .localScatterAdd .. => .localScatterAdd
  | .victimPieceStore .. => .victimPieceStore
  | .victimPieceRecall .. => .victimPieceRecall
  | .terminationProbe .. => .terminationProbe
  | .terminationWave .. => .terminationWave
  | .terminationWaveEnd .. => .terminationWaveEnd
  | .chunkDelivered .. => .chunkDelivered
  | .chunkFault .. => .chunkFault
  | .transferStop .. => .transferStop
  | .transferStall .. => .transferStall
  | .rowRequest .. => .rowRequest
  | .gatherRow .. => .gatherRow
  | .scatterAddRow .. => .scatterAddRow
  | .sketchHalve .. => .sketchHalve
  | .sliceRequest .. => .sliceRequest
  | .pagerMap .. => .pagerMap
  | .pagerFail .. => .pagerFail
  | .pagerRevive .. => .pagerRevive
  | .pagerReclaim .. => .pagerReclaim
  | .pagerDiscard .. => .pagerDiscard
  | .pagerTimeout .. => .pagerTimeout
  | .parkedDelivery .. => .parkedDelivery
  | .migrationBegin .. => .migrationBegin
  | .migrationEnd .. => .migrationEnd
  | .shootdown .. => .shootdown
  | .shootdownTimeout .. => .shootdownTimeout
  | .taskMigrate .. => .taskMigrate
  | .hostCompletionTimeout .. => .hostCompletionTimeout
  | .fabricRequest .. => .fabricRequest
  | .retryResend .. => .retryResend
  | .linkRetrain .. => .linkRetrain
  | .flitUncorrectable .. => .flitUncorrectable
  | .linkDown .. => .linkDown
  | .detourSet .. => .detourSet
  | .sendHeader .. => .sendHeader
  | .sendAnswer .. => .sendAnswer
  | .sendResend .. => .sendResend
  | .rnrTimeout .. => .rnrTimeout
  | .pullRead .. => .pullRead
  | .payloadArrival .. => .payloadArrival
  | .landingComplete .. => .landingComplete
  | .triggerArrival .. => .triggerArrival
  | .kick .. => .kick
  | .suspend .. => .suspend
  | .resume .. => .resume
  | .skip .. => .skip
  | .enable .. => .enable
  | .disable .. => .disable
  | .disableDrained .. => .disableDrained
  | .prioChange .. => .prioChange
  | .launch .. => .launch
  | .waitdep .. => .waitdep
  | .waitdepPoll .. => .waitdepPoll
  | .signal .. => .signal
  | .arm .. => .arm
  | .copy .. => .copy
  | .hubCopyEnd .. => .hubCopyEnd
  | .nopPacket .. => .nopPacket
  | .stampReread .. => .stampReread
  | .schedulingPass => .schedulingPass
  | .ageingStep .. | .ageMicro .. => .ageingStep
  | .slotQuiescent .. => .slotQuiescent
  | .bindRecord .. => .bindRecord
  | .bindComplete .. => .bindComplete
  | .drainEnd .. => .drainEnd
  | .groupRelease .. => .groupRelease
  | .preempt .. => .preempt
  | .preemptSave .. => .preemptSave
  | .preemptTimeout .. => .preemptTimeout
  | .resumeGroup .. => .resumeGroup
  | .spill .. => .spill
  | .reload .. => .reload
  | .watchdog .. => .watchdog
  | .contextFree .. => .contextFree
  | .ctxCreate => .ctxCreate
  | .ctxReady => .ctxReady
  | .ctxReset => .ctxReset
  | .ctxDestroy => .ctxDestroy
  | .firmwareKill .. => .ctxDestroy
  | .ctxSet => .ctxSet
  | .aclSet => .aclSet
  | .ctxQuery => .ctxQuery
  | .binLoad .. => .binLoad
  | .binUnload => .binUnload
  | .followSet => .followSet
  | .dsetSet .. => .dsetSet
  | .map => .map
  | .unmap => .unmap
  | .unknownCommand => .unknownCommand
  | .fcommit => .fcommit
  | .ckpt .. => .ckpt
  | .checkpointComplete .. => .checkpointComplete
  | .registerWrite .. => .registerWrite
  | .bar2Access .. => .bar2Access
  | .powerOn => .powerOn
  | .bringupEnd .. => .bringupEnd
  | .firmwareSetting .. => .bringupEnd
  | .imageReceived .. => .imageReceived
  | .imageBooted => .imageBooted
  | .importTimeout => .importTimeout
  | .importComplete => .importComplete
  | .spdmRequest => .spdmRequest
  | .pldmRequest .. | .sensed .. => .pldmRequest
  | .recordWrite => .recordWrite
  | .minutePassed .. => .recordWrite
  | .powerOff => .powerOff
  | .powerLimit .. => .powerLimit
  | .thermalLimit .. => .thermalLimit
  | .droopStop .. => .droopStop
  | .illegalOp .. => .illegalOp
  | .codeRange .. => .codeRange
  | .mailboxArrival .. => .mailboxArrival
  | .malformedPacket .. => .malformedPacket
  | .enqAnswer .. => .enqAnswer
  | .barrierReply .. => .barrierReply
  | .hostCompletion .. => .hostCompletion
  | .hostLinkDown => .hostLinkDown
  | .abruptLossOfPower => .abruptLossOfPower
  | .activeComplexStopsAnswering => .activeComplexStopsAnswering
  | .retentionLoss .. => .retentionLoss
  | .scrubber .. => .scrubber
  | .softError .. => .scrubber
  | .memoryError .. => .scrubber
  | .keyRevocation .. => .keyRevocation
  | .debugHaltRequest .. => .debugHaltRequest
  | .coreClockCycle => .coreClockCycle

end Sys2Proof
end

