-- ==== Sys2Proof/WellFormed.lean ====
section
/-! DEFINITION. Which encoded instructions are well formed: the checks of R59 and R61 step 2 that are not a fixed bit
of the encoding. A steps row without an encoding has nothing to check. -/

namespace Sys2Proof

/-- The names of the checks of R61 step 2 that a field can fail. -/
inductive IllFormed where
  /-- R61: the halfword 0x0000 is not an instruction, which C.MOV x0, x0 would be. -/
  | zeroHalfword
  /-- R59: an et not allowed. -/
  | elementType
  /-- R59: VCVT with equal source and destination types. -/
  | sameType
  /-- R59: a lane of VEXT or VINS at or above the lane count. -/
  | lane
  /-- R57: LSET with s < 2 or e < s. -/
  | loopBounds
  /-- R57: FENCE with C[21:20] = 11. -/
  | fenceType
  /-- R57: FENCE with scope 6 or 7. -/
  | scope
  /-- R57: DBAR with span 5 to 7. -/
  | span
  /-- R55: VLDX or VSTX with sz = 11. -/
  | size
  /-- R50: a number whose read acts has its own row of the table (MFS_CYCLE, MFS_PQ, MFS_CP_GO, ...). -/
  | readWithEffect
  deriving DecidableEq, Repr

/-- The lane width in bytes of the element types that an instruction may name (R24). -/
def etBytes (et : Nat) : Nat :=
  match et with
  | 0 | 1 => 1
  | 2 | 3 | 6 => 2
  | _ => 4

/-- The lane count of a 256-bit register for an element type (R46). -/
def lanes (et : Nat) : Nat := 32 / etBytes et

/-- The check that an instruction's fields fail, if any (R59, R61). -/
def Instr.illFormed : Instr → Option IllFormed
  | .lset e s _ _ => if s.toNat < 2 ∨ e.toNat < s.toNat then some .loopBounds else none
  | .lsetReg e s _ _ => if s.toNat < 2 ∨ e.toNat < s.toNat then some .loopBounds else none
  | .fence y _ s => if y = 3#2 then some .fenceType else if 5 < s.toNat then some .scope else none
  | .mfs n _ => if n.toNat ∈ [0x010, 0x04f, 0x05f, 0x068, 0x07f, 0x080, 0x081] then some .readWithEffect else none
  | .dbar s _ _ => if 4 < s.toNat then some .span else none
  | .vadd _ e _ _ _ => if 5 < e.toNat then some .elementType else none
  | .vsub _ e _ _ _ => if 5 < e.toNat then some .elementType else none
  | .vadds _ e _ _ _ => if 5 < e.toNat then some .elementType else none
  | .vsubs _ e _ _ _ => if 5 < e.toNat then some .elementType else none
  | .vmul _ e _ _ _ => if 5 < e.toNat then some .elementType else none
  | .vmulh _ e _ _ _ => if 5 < e.toNat then some .elementType else none
  | .vmac _ e _ _ _ => if 5 < e.toNat then some .elementType else none
  | .vmin _ e _ _ _ => if 5 < e.toNat then some .elementType else none
  | .vmax _ e _ _ _ => if 5 < e.toNat then some .elementType else none
  | .vand _ e _ _ _ => if 5 < e.toNat then some .elementType else none
  | .vor _ e _ _ _ => if 5 < e.toNat then some .elementType else none
  | .vxor _ e _ _ _ => if 5 < e.toNat then some .elementType else none
  | .vandn _ e _ _ _ => if 5 < e.toNat then some .elementType else none
  | .vshl _ e _ _ _ => if 5 < e.toNat then some .elementType else none
  | .vshr _ e _ _ _ => if 5 < e.toNat then some .elementType else none
  | .vsra _ e _ _ _ => if 5 < e.toNat then some .elementType else none
  | .vabs e _ _ _ => if e.toNat ∉ [0, 2, 4] then some .elementType else none
  | .vneg e _ _ _ => if e.toNat ∉ [0, 2, 4] then some .elementType else none
  | .vcmpeq _ e _ _ _ => if 5 < e.toNat then some .elementType else none
  | .vcmplt _ e _ _ _ => if 5 < e.toNat then some .elementType else none
  | .vcmple _ e _ _ _ => if 5 < e.toNat then some .elementType else none
  | .vfadd _ e _ _ _ => if e.toNat < 6 then some .elementType else none
  | .vfsub _ e _ _ _ => if e.toNat < 6 then some .elementType else none
  | .vfmul _ e _ _ _ => if e.toNat < 6 then some .elementType else none
  | .vfma _ e _ _ _ => if e.toNat < 6 then some .elementType else none
  | .vfmin _ e _ _ _ => if e.toNat < 6 then some .elementType else none
  | .vfmax _ e _ _ _ => if e.toNat < 6 then some .elementType else none
  | .vfabs e _ _ _ => if e.toNat < 6 then some .elementType else none
  | .vfneg e _ _ _ => if e.toNat < 6 then some .elementType else none
  | .vrcp e _ _ _ => if e.toNat < 6 then some .elementType else none
  | .vrsq e _ _ _ => if e.toNat < 6 then some .elementType else none
  | .vexp2 e _ _ _ => if e.toNat < 6 then some .elementType else none
  | .vfcmpeq _ e _ _ _ => if e.toNat < 6 then some .elementType else none
  | .vfcmplt _ e _ _ _ => if e.toNat < 6 then some .elementType else none
  | .vfcmple _ e _ _ _ => if e.toNat < 6 then some .elementType else none
  | .vcvt s e _ _ _ _ => if e = s then some .sameType else none
  | .vldx _ z _ _ => if z = 3#2 then some .size else none
  | .vstx _ z _ _ => if z = 3#2 then some .size else none
  | .vext _ e l _ _ => if lanes e.toNat ≤ l.toNat then some .lane else none
  | .vins _ e l _ _ => if lanes e.toNat ≤ l.toNat then some .lane else none
  | .vnarrow e _ _ _ _ => if 3 < e.toNat then some .elementType else none
  | .vwiden e _ _ _ _ => if e.toNat < 2 ∨ 5 < e.toNat then some .elementType else none
  | .cMov d s => if d = 0#4 ∧ s = 0#4 then some .zeroHalfword else none
  | .add .. | .sub .. | .and .. | .or .. | .xor .. | .andn .. | .sll .. | .srl .. | .sra .. | .rol .. | .slt ..
  | .sltn .. | .min .. | .max .. | .minn .. | .maxn .. | .mul .. | .mulh .. | .mulhn .. | .div .. | .divn ..
  | .rem .. | .remn .. | .clz .. | .ctz .. | .popc .. | .brev .. | .sextb .. | .sexth .. | .zexth .. | .bswap ..
  | .addi .. | .andi .. | .ori .. | .xori .. | .slti .. | .sltni .. | .slli .. | .srli .. | .srai .. | .rori ..
  | .lui .. | .beq .. | .bne .. | .blt .. | .bge .. | .bltn .. | .bgen .. | .jal .. | .jalr .. | .lb .. | .lbn ..
  | .lh .. | .lhn .. | .lw .. | .sb .. | .sh .. | .sw .. | .lwf .. | .lwfe .. | .fetest .. | .swe .. | .swf ..
  | .feset .. | .feclr .. | .rlw .. | .rlwf .. | .rlwfe .. | .rsw .. | .rswe .. | .rswf .. | .amoAdd ..
  | .amoAnd .. | .amoOr .. | .amoXor .. | .amoMin .. | .amoMax .. | .amoSwap .. | .amoCas .. | .tmset ..
  | .tmoff .. | .glw .. | .gsw .. | .glwa .. | .gswl .. | .gaadd .. | .gamin .. | .gamax .. | .gaswap ..
  | .gacas .. | .gafadd .. | .mfsCycle .. | .mfsPq .. | .mfsCpGo .. | .mfsCq .. | .mfsGpGo .. | .mfsRq ..
  | .mfsBq .. | .mts .. | .mtsi .. | .mss .. | .mcs .. | .waito .. | .nop | .ecall | .trap .. | .tret | .brk
  | .yield | .idle | .sync .. | .done | .halt | .haltr .. | .sendam .. | .hret | .frinit .. | .spawn ..
  | .pgpre .. | .pgdisc .. | .binit .. | .bexp .. | .barr .. | .bwait .. | .bwaitm .. | .btest .. | .send ..
  | .rpost .. | .rcancel .. | .rprobe .. | .enq .. | .cptest .. | .cpcancel .. | .cpwait .. | .mcfg .. | .mzero ..
  | .lease .. | .unlease | .mld .. | .mst .. | .pmv .. | .pmvx .. | .pmt .. | .pbp .. | .prt .. | .vsel ..
  | .vscl .. | .vtrit .. | .vpackt .. | .vmov .. | .vperm .. | .vcompr .. | .vexpnd .. | .vzipl .. | .vziph ..
  | .vrev .. | .vband .. | .vbor .. | .vpopp .. | .vxsect .. | .vnzm .. | .vld .. | .vst .. | .vldg .. | .vstg ..
  | .vldgs .. | .vbcast .. | .vmxq .. | .vmxd .. | .badq .. | .vnzc .. | .vsumr .. | .vmaxr .. | .vslide ..
  | .vclear | .cAdd .. | .cSub .. | .cAnd .. | .cOr .. | .cXor .. | .cSll .. | .cSrl .. | .cSra .. | .cSlt ..
  | .cJr .. | .cJalr .. | .cAddi .. | .cLi .. | .cSlli .. | .cSrli .. | .cSrai .. | .cAndi .. | .cLwsp ..
  | .cSwsp .. | .cLui .. | .cBeqz .. | .cBnez .. | .cLw .. | .cSw .. | .cVclear | .cJ .. | .cNop | .cDone | .cHret
  | .cRet | .feTimeout | .remoteBusyResend | .idleTimeout | .asynchronousTrap | .coreHang | .coreLeaveGroup
  | .barrierOperation | .barrierWaitResend | .engineArrival | .dbarNotification | .enqRequest | .arrayCommandTurn
  | .tokenPush | .prtLanding | .leaseGrant | .slotEnd | .slotTableWrite | .loadReply | .storeAck | .remoteNack
  | .messageAccept | .remoteLoad | .remoteStore | .feLoad | .feStore | .localAtomic | .feWake | .steal
  | .stealReply | .joinDecrement | .continuationDelivery | .deliveryResend | .deliveryBusy | .ownerPop
  | .stealIssue | .stealBackoffEnd | .activeMessage | .handlerBudget | .localGather | .localScatterAdd
  | .victimPieceStore | .victimPieceRecall | .terminationProbe | .terminationWave | .terminationWaveEnd
  | .chunkDelivered | .chunkFault | .transferStop | .transferStall | .rowRequest | .gatherRow | .scatterAddRow
  | .sketchHalve | .sliceRequest | .pagerMap | .pagerFail | .pagerRevive | .pagerReclaim | .pagerDiscard
  | .pagerTimeout | .parkedDelivery | .migrationBegin | .migrationEnd | .shootdown | .shootdownTimeout
  | .taskMigrate | .hostCompletionTimeout | .fabricRequest | .retryResend | .linkRetrain | .flitUncorrectable
  | .linkDown | .detourSet | .sendHeader | .sendAnswer | .sendResend | .rnrTimeout | .pullRead | .payloadArrival
  | .landingComplete | .triggerArrival | .kick | .suspend | .resume | .skip | .enable | .disable | .disableDrained
  | .prioChange | .launch | .waitdep | .waitdepPoll | .signal | .arm | .copy | .hubCopyEnd | .nopPacket
  | .stampReread | .schedulingPass | .ageingStep | .slotQuiescent | .bindRecord | .bindComplete | .drainEnd
  | .groupRelease | .preempt | .preemptSave | .preemptTimeout | .resumeGroup | .spill | .reload | .watchdog
  | .contextFree | .ctxCreate | .ctxReady | .ctxReset | .ctxDestroy | .ctxSet | .aclSet | .ctxQuery | .binLoad
  | .binUnload | .followSet | .dsetSet | .map | .unmap | .unknownCommand | .fcommit | .ckpt | .checkpointComplete
  | .registerWrite | .bar2Access | .powerOn | .bringupEnd | .imageReceived | .imageBooted | .importTimeout
  | .importComplete | .spdmRequest | .pldmRequest | .recordWrite | .powerOff | .powerLimit | .thermalLimit
  | .droopStop | .illegalOp | .codeRange | .mailboxArrival | .malformedPacket | .enqAnswer | .barrierReply
  | .hostCompletion | .hostLinkDown | .abruptLossOfPower | .activeComplexStopsAnswering | .retentionLoss
  | .scrubber | .keyRevocation | .debugHaltRequest | .coreClockCycle => none

/-- An instruction whose encoding R61 accepts. -/
def WellFormed (i : Instr) : Prop := i.illFormed = none

/-- Well-formedness can be decided. -/
@[reducible] def decidableWellFormed (i : Instr) : Decidable (WellFormed i) :=
  inferInstanceAs (Decidable (i.illFormed = none))

end Sys2Proof
end

