-- ==== Sys2Proof/Decode.lean ====
section
/-! DEFINITION. Decoding of instruction words, total and rejecting by name (R53 to R62), and the encoder written from the
same encodings. A word is a Nat below 2^32 whose low sixteen bits are the first halfword (R53). -/

namespace Sys2Proof

/-- Why a word is not an instruction (R61). -/
inductive Reject where
  /-- Fewer bytes than the length that bits [15:14] give (R53). -/
  | truncated
  /-- A reserved major opcode of the 32-bit forms (R57). -/
  | reservedMajor
  /-- A reserved quadrant op or selector of the 16-bit forms (R62). -/
  | reservedQuadrant
  /-- A func, subop or sub value marked illegal or not listed (R57 to R59). -/
  | reservedFunc
  /-- A fixed field does not hold its value: a must-be-zero field, or an et that the form fixes (R55, R59). -/
  | fixedField
  /-- A check on the value of a field fails (R61). -/
  | illFormed (r : IllFormed)
  deriving DecidableEq, Repr

/-- Bits lo to lo + n - 1 of a word. -/
def bits (w lo n : Nat) : Nat := w / 2 ^ lo % 2 ^ n

/-- The field of n bits at bit lo of a word. -/
def fld (n w lo : Nat) : BitVec n := BitVec.ofNat n (w / 2 ^ lo)

/-- The instruction, when the fixed fields hold their values. -/
def guardBits (p : Prop) [Decidable p] (i : Instr) : Except Reject Instr :=
  if p then .ok i else .error .fixedField

/-- Major 0x00 (R57 to R59). -/
def decodeAlu (w : Nat) : Except Reject Instr :=
  match bits w 16 8 with
  | 0 => guardBits (bits w 24 4 = 0) (.add (fld 4 w 28) (fld 4 w 4) (fld 4 w 0))
  | 1 => guardBits (bits w 24 4 = 0) (.sub (fld 4 w 28) (fld 4 w 4) (fld 4 w 0))
  | 2 => guardBits (bits w 24 4 = 0) (.and (fld 4 w 28) (fld 4 w 4) (fld 4 w 0))
  | 3 => guardBits (bits w 24 4 = 0) (.or (fld 4 w 28) (fld 4 w 4) (fld 4 w 0))
  | 4 => guardBits (bits w 24 4 = 0) (.xor (fld 4 w 28) (fld 4 w 4) (fld 4 w 0))
  | 5 => guardBits (bits w 24 4 = 0) (.andn (fld 4 w 28) (fld 4 w 4) (fld 4 w 0))
  | 6 => guardBits (bits w 24 4 = 0) (.sll (fld 4 w 28) (fld 4 w 4) (fld 4 w 0))
  | 7 => guardBits (bits w 24 4 = 0) (.srl (fld 4 w 28) (fld 4 w 4) (fld 4 w 0))
  | 8 => guardBits (bits w 24 4 = 0) (.sra (fld 4 w 28) (fld 4 w 4) (fld 4 w 0))
  | 9 => guardBits (bits w 24 4 = 0) (.rol (fld 4 w 28) (fld 4 w 4) (fld 4 w 0))
  | 10 => guardBits (bits w 24 4 = 0) (.slt (fld 4 w 28) (fld 4 w 4) (fld 4 w 0))
  | 11 => guardBits (bits w 24 4 = 0) (.sltn (fld 4 w 28) (fld 4 w 4) (fld 4 w 0))
  | 12 => guardBits (bits w 24 4 = 0) (.min (fld 4 w 28) (fld 4 w 4) (fld 4 w 0))
  | 13 => guardBits (bits w 24 4 = 0) (.max (fld 4 w 28) (fld 4 w 4) (fld 4 w 0))
  | 14 => guardBits (bits w 24 4 = 0) (.minn (fld 4 w 28) (fld 4 w 4) (fld 4 w 0))
  | 15 => guardBits (bits w 24 4 = 0) (.maxn (fld 4 w 28) (fld 4 w 4) (fld 4 w 0))
  | _ => .error .reservedFunc

/-- Major 0x01 (R57 to R59). -/
def decodeMulDiv (w : Nat) : Except Reject Instr :=
  match bits w 16 8 with
  | 0 => guardBits (bits w 24 4 = 0) (.mul (fld 4 w 28) (fld 4 w 4) (fld 4 w 0))
  | 1 => guardBits (bits w 24 4 = 0) (.mulh (fld 4 w 28) (fld 4 w 4) (fld 4 w 0))
  | 2 => guardBits (bits w 24 4 = 0) (.mulhn (fld 4 w 28) (fld 4 w 4) (fld 4 w 0))
  | 4 => guardBits (bits w 24 4 = 0) (.div (fld 4 w 28) (fld 4 w 4) (fld 4 w 0))
  | 5 => guardBits (bits w 24 4 = 0) (.divn (fld 4 w 28) (fld 4 w 4) (fld 4 w 0))
  | 6 => guardBits (bits w 24 4 = 0) (.rem (fld 4 w 28) (fld 4 w 4) (fld 4 w 0))
  | 7 => guardBits (bits w 24 4 = 0) (.remn (fld 4 w 28) (fld 4 w 4) (fld 4 w 0))
  | _ => .error .reservedFunc

/-- Major 0x02 (R57 to R59). -/
def decodeBits (w : Nat) : Except Reject Instr :=
  match bits w 16 8 with
  | 0 => guardBits (bits w 24 8 = 0) (.clz (fld 4 w 4) (fld 4 w 0))
  | 1 => guardBits (bits w 24 8 = 0) (.ctz (fld 4 w 4) (fld 4 w 0))
  | 2 => guardBits (bits w 24 8 = 0) (.popc (fld 4 w 4) (fld 4 w 0))
  | 3 => guardBits (bits w 24 8 = 0) (.brev (fld 4 w 4) (fld 4 w 0))
  | 4 => guardBits (bits w 24 8 = 0) (.sextb (fld 4 w 4) (fld 4 w 0))
  | 5 => guardBits (bits w 24 8 = 0) (.sexth (fld 4 w 4) (fld 4 w 0))
  | 6 => guardBits (bits w 24 8 = 0) (.zexth (fld 4 w 4) (fld 4 w 0))
  | 7 => guardBits (bits w 24 8 = 0) (.bswap (fld 4 w 4) (fld 4 w 0))
  | _ => .error .reservedFunc

/-- Major 0x09 (R57 to R59). -/
def decodeShiftI (w : Nat) : Except Reject Instr :=
  match bits w 30 2 with
  | 0 => guardBits (bits w 21 9 = 0) (.slli (fld 5 w 16) (fld 4 w 4) (fld 4 w 0))
  | 1 => guardBits (bits w 21 9 = 0) (.srli (fld 5 w 16) (fld 4 w 4) (fld 4 w 0))
  | 2 => guardBits (bits w 21 9 = 0) (.srai (fld 5 w 16) (fld 4 w 4) (fld 4 w 0))
  | _ => guardBits (bits w 21 9 = 0) (.rori (fld 5 w 16) (fld 4 w 4) (fld 4 w 0))

/-- Major 0x14 (R57 to R59). -/
def decodeLset (w : Nat) : Except Reject Instr :=
  match bits w 6 1 with
  | 0 => guardBits (bits w 4 2 = 0) (.lsetReg (fld 10 w 22) (fld 6 w 16) (fld 1 w 7) (fld 4 w 0))
  | _ => .ok (.lset (fld 10 w 22) (fld 6 w 16) (fld 1 w 7) (fld 6 w 0))

/-- Major 0x1D (R57 to R59). -/
def decodeFeld (w : Nat) : Except Reject Instr :=
  match bits w 30 2 with
  | 0 => .ok (.lwf (fld 14 w 16) (fld 4 w 4) (fld 4 w 0))
  | 1 => .ok (.lwfe (fld 14 w 16) (fld 4 w 4) (fld 4 w 0))
  | 2 => .ok (.fetest (fld 14 w 16) (fld 4 w 4) (fld 4 w 0))
  | _ => .error .reservedFunc

/-- Major 0x1E (R57 to R59). -/
def decodeFest (w : Nat) : Except Reject Instr :=
  match bits w 30 2 with
  | 0 => .ok (.swe (fld 14 w 16) (fld 4 w 4) (fld 4 w 0))
  | 1 => .ok (.swf (fld 14 w 16) (fld 4 w 4) (fld 4 w 0))
  | 2 => guardBits (bits w 4 4 = 0) (.feset (fld 14 w 16) (fld 4 w 0))
  | _ => guardBits (bits w 4 4 = 0) (.feclr (fld 14 w 16) (fld 4 w 0))

/-- Major 0x1F (R57 to R59). -/
def decodeRemote (w : Nat) : Except Reject Instr :=
  match bits w 16 8 with
  | 0 => guardBits (bits w 24 4 = 0) (.rlw (fld 4 w 28) (fld 4 w 4) (fld 4 w 0))
  | 1 => guardBits (bits w 24 4 = 0) (.rlwf (fld 4 w 28) (fld 4 w 4) (fld 4 w 0))
  | 2 => guardBits (bits w 24 4 = 0) (.rlwfe (fld 4 w 28) (fld 4 w 4) (fld 4 w 0))
  | 3 => guardBits (bits w 24 4 = 0) (.rsw (fld 4 w 28) (fld 4 w 4) (fld 4 w 0))
  | 4 => guardBits (bits w 24 4 = 0) (.rswe (fld 4 w 28) (fld 4 w 4) (fld 4 w 0))
  | 5 => guardBits (bits w 24 4 = 0) (.rswf (fld 4 w 28) (fld 4 w 4) (fld 4 w 0))
  | _ => .error .reservedFunc

/-- Major 0x20 (R57 to R59). -/
def decodeAmo (w : Nat) : Except Reject Instr :=
  match bits w 16 3 with
  | 0 => guardBits (bits w 21 7 = 0) (.amoAdd (fld 4 w 28) (fld 2 w 19) (fld 4 w 4) (fld 4 w 0))
  | 1 => guardBits (bits w 21 7 = 0) (.amoAnd (fld 4 w 28) (fld 2 w 19) (fld 4 w 4) (fld 4 w 0))
  | 2 => guardBits (bits w 21 7 = 0) (.amoOr (fld 4 w 28) (fld 2 w 19) (fld 4 w 4) (fld 4 w 0))
  | 3 => guardBits (bits w 21 7 = 0) (.amoXor (fld 4 w 28) (fld 2 w 19) (fld 4 w 4) (fld 4 w 0))
  | 4 => guardBits (bits w 21 7 = 0) (.amoMin (fld 4 w 28) (fld 2 w 19) (fld 4 w 4) (fld 4 w 0))
  | 5 => guardBits (bits w 21 7 = 0) (.amoMax (fld 4 w 28) (fld 2 w 19) (fld 4 w 4) (fld 4 w 0))
  | 6 => guardBits (bits w 21 7 = 0) (.amoSwap (fld 4 w 28) (fld 2 w 19) (fld 4 w 4) (fld 4 w 0))
  | _ => guardBits (bits w 4 1 = 0 ∧ bits w 21 7 = 0) (.amoCas (fld 4 w 28) (fld 2 w 19) (fld 3 w 5) (fld 4 w 0))

/-- Major 0x21 (R57 to R59). -/
def decodeGmem (w : Nat) : Except Reject Instr :=
  match bits w 24 4 with
  | 0 => .ok (.glw (fld 4 w 28) (fld 8 w 16) (fld 4 w 4) (fld 4 w 0))
  | 1 => .ok (.gsw (fld 4 w 28) (fld 8 w 16) (fld 4 w 4) (fld 4 w 0))
  | 2 => .ok (.glwa (fld 4 w 28) (fld 8 w 16) (fld 4 w 4) (fld 4 w 0))
  | 3 => .ok (.gswl (fld 4 w 28) (fld 8 w 16) (fld 4 w 4) (fld 4 w 0))
  | 4 => .ok (.gaadd (fld 4 w 28) (fld 8 w 16) (fld 4 w 4) (fld 4 w 0))
  | 5 => .ok (.gamin (fld 4 w 28) (fld 8 w 16) (fld 4 w 4) (fld 4 w 0))
  | 6 => .ok (.gamax (fld 4 w 28) (fld 8 w 16) (fld 4 w 4) (fld 4 w 0))
  | 7 => .ok (.gaswap (fld 4 w 28) (fld 8 w 16) (fld 4 w 4) (fld 4 w 0))
  | 8 => guardBits (bits w 4 1 = 0) (.gacas (fld 4 w 28) (fld 8 w 16) (fld 3 w 5) (fld 4 w 0))
  | 9 => .ok (.gafadd (fld 4 w 28) (fld 8 w 16) (fld 4 w 4) (fld 4 w 0))
  | _ => .error .reservedFunc

/-- Major 0x23 (R57 to R59). (DEDUCED, log 61). -/
def decodeSr (w : Nat) : Except Reject Instr :=
  match bits w 16 4 with
  | 0 => match bits w 20 12 with
    | 0x010 => guardBits (bits w 0 4 = 0) (.mfsCycle (fld 4 w 4))
    | 0x04f => guardBits (bits w 0 4 = 0) (.mfsPq (fld 4 w 4))
    | 0x05f => guardBits (bits w 0 4 = 0) (.mfsCpGo (fld 4 w 4))
    | 0x068 => guardBits (bits w 0 4 = 0) (.mfsCq (fld 4 w 4))
    | 0x07f => guardBits (bits w 0 4 = 0) (.mfsGpGo (fld 4 w 4))
    | 0x080 => guardBits (bits w 0 4 = 0) (.mfsRq (fld 4 w 4))
    | 0x081 => guardBits (bits w 0 4 = 0) (.mfsBq (fld 4 w 4))
    | _ => guardBits (bits w 0 4 = 0) (.mfs (fld 12 w 20) (fld 4 w 4))
  | 1 => guardBits (bits w 0 4 = 0) (.mts (fld 12 w 20) (fld 4 w 4))
  | 2 => guardBits (bits w 4 4 = 0) (.mtsi (fld 12 w 20) (fld 4 w 0))
  | 3 => guardBits (bits w 0 4 = 0) (.mss (fld 12 w 20) (fld 4 w 4))
  | 4 => guardBits (bits w 0 4 = 0) (.mcs (fld 12 w 20) (fld 4 w 4))
  | _ => .error .reservedFunc

/-- Major 0x25 (R57 to R59). -/
def decodeSys (w : Nat) : Except Reject Instr :=
  match bits w 16 8 with
  | 0 => guardBits (bits w 0 8 = 0 ∧ bits w 24 8 = 0) (.nop)
  | 1 => guardBits (bits w 0 8 = 0 ∧ bits w 24 8 = 0) (.ecall)
  | 2 => guardBits (bits w 24 8 = 0) (.trap (fld 8 w 0))
  | 3 => guardBits (bits w 0 8 = 0 ∧ bits w 24 8 = 0) (.tret)
  | 4 => guardBits (bits w 0 8 = 0 ∧ bits w 24 8 = 0) (.brk)
  | 5 => guardBits (bits w 0 8 = 0 ∧ bits w 24 8 = 0) (.yield)
  | 6 => guardBits (bits w 0 8 = 0 ∧ bits w 24 8 = 0) (.idle)
  | _ => .error .reservedFunc

/-- Major 0x26 (R57 to R59). -/
def decodeTask (w : Nat) : Except Reject Instr :=
  match bits w 16 8 with
  | 0 => guardBits (bits w 4 4 = 0 ∧ bits w 24 8 = 0) (.sync (fld 4 w 0))
  | 1 => guardBits (bits w 0 8 = 0 ∧ bits w 24 8 = 0) (.done)
  | 2 => guardBits (bits w 0 8 = 0 ∧ bits w 24 8 = 0) (.halt)
  | 3 => guardBits (bits w 2 6 = 0 ∧ bits w 24 8 = 0) (.haltr (fld 2 w 0))
  | 4 => guardBits (bits w 4 4 = 0 ∧ bits w 24 4 = 0) (.sendam (fld 4 w 28) (fld 4 w 0))
  | 5 => guardBits (bits w 0 8 = 0 ∧ bits w 24 8 = 0) (.hret)
  | 6 => guardBits (bits w 24 8 = 0) (.frinit (fld 4 w 4) (fld 4 w 0))
  | _ => .error .reservedFunc

/-- Major 0x28 (R57 to R59). -/
def decodeTmap (w : Nat) : Except Reject Instr :=
  match bits w 16 4 with
  | 0 => guardBits (bits w 0 4 = 0 ∧ bits w 20 12 = 0) (.tmset (fld 4 w 4))
  | 1 => guardBits (bits w 0 4 = 0 ∧ bits w 20 12 = 0) (.tmoff (fld 4 w 4))
  | _ => .error .reservedFunc

/-- Major 0x29 (R57 to R59). -/
def decodePage (w : Nat) : Except Reject Instr :=
  match bits w 16 4 with
  | 0 => guardBits (bits w 20 8 = 0) (.pgpre (fld 4 w 28) (fld 4 w 4) (fld 4 w 0))
  | 1 => guardBits (bits w 20 8 = 0) (.pgdisc (fld 4 w 28) (fld 4 w 4) (fld 4 w 0))
  | _ => .error .reservedFunc

/-- Major 0x2A (R57 to R59). -/
def decodeBar (w : Nat) : Except Reject Instr :=
  match bits w 16 8 with
  | 0 => guardBits (bits w 24 4 = 0) (.binit (fld 4 w 28) (fld 4 w 4) (fld 4 w 0))
  | 1 => guardBits (bits w 24 4 = 0) (.bexp (fld 4 w 28) (fld 4 w 4) (fld 4 w 0))
  | 2 => guardBits (bits w 24 4 = 0) (.barr (fld 4 w 28) (fld 4 w 4) (fld 4 w 0))
  | 3 => guardBits (bits w 24 4 = 0) (.bwait (fld 4 w 28) (fld 4 w 4) (fld 4 w 0))
  | 4 => guardBits (bits w 24 4 = 0) (.bwaitm (fld 4 w 28) (fld 4 w 4) (fld 4 w 0))
  | 5 => guardBits (bits w 24 4 = 0) (.btest (fld 4 w 28) (fld 4 w 4) (fld 4 w 0))
  | _ => .error .reservedFunc

/-- Major 0x2C (R57 to R59). -/
def decodeMsg (w : Nat) : Except Reject Instr :=
  match bits w 16 8 with
  | 0 => guardBits (bits w 24 4 = 0) (.send (fld 4 w 28) (fld 4 w 4) (fld 4 w 0))
  | 1 => guardBits (bits w 24 8 = 0) (.rpost (fld 4 w 4) (fld 4 w 0))
  | 2 => guardBits (bits w 24 8 = 0) (.rcancel (fld 4 w 4) (fld 4 w 0))
  | 3 => guardBits (bits w 24 8 = 0) (.rprobe (fld 4 w 4) (fld 4 w 0))
  | 4 => guardBits (bits w 24 4 = 0) (.enq (fld 4 w 28) (fld 4 w 4) (fld 4 w 0))
  | _ => .error .reservedFunc

/-- Major 0x2D (R57 to R59). -/
def decodeCpy (w : Nat) : Except Reject Instr :=
  match bits w 16 8 with
  | 0 => guardBits (bits w 24 8 = 0) (.cptest (fld 4 w 4) (fld 4 w 0))
  | 1 => guardBits (bits w 24 8 = 0) (.cpcancel (fld 4 w 4) (fld 4 w 0))
  | 2 => guardBits (bits w 24 8 = 0) (.cpwait (fld 4 w 4) (fld 4 w 0))
  | _ => .error .reservedFunc

/-- Major 0x2E (R57 to R59). -/
def decodePcfg (w : Nat) : Except Reject Instr :=
  match bits w 16 4 with
  | 0 => guardBits (bits w 4 1 = 0 ∧ bits w 20 12 = 0) (.mcfg (fld 3 w 5) (fld 4 w 0))
  | 1 => guardBits (bits w 0 5 = 0 ∧ bits w 20 12 = 0) (.mzero (fld 3 w 5))
  | 2 => guardBits (bits w 0 8 = 0 ∧ bits w 26 6 = 0) (.lease (fld 6 w 20))
  | 3 => guardBits (bits w 0 8 = 0 ∧ bits w 20 12 = 0) (.unlease)
  | _ => .error .reservedFunc

/-- Major 0x2F (R57 to R59). -/
def decodePmem (w : Nat) : Except Reject Instr :=
  match bits w 16 5 with
  | 0 => guardBits (bits w 0 5 = 0 ∧ bits w 29 3 = 0) (.mld (fld 4 w 25) (fld 4 w 21) (fld 3 w 5))
  | 1 => guardBits (bits w 0 5 = 0 ∧ bits w 29 3 = 0) (.mst (fld 4 w 25) (fld 4 w 21) (fld 3 w 5))
  | _ => .error .reservedFunc

/-- Major 0x30 (R57 to R59). -/
def decodePop (w : Nat) : Except Reject Instr :=
  match bits w 16 5 with
  | 0 => guardBits (bits w 0 2 = 0 ∧ bits w 29 3 = 0) (.pmv (fld 4 w 25) (fld 4 w 21) (fld 3 w 5) (fld 3 w 2))
  | 1 => guardBits (bits w 0 2 = 0 ∧ bits w 29 3 = 0) (.pmvx (fld 4 w 25) (fld 4 w 21) (fld 3 w 5) (fld 3 w 2))
  | 2 => guardBits (bits w 0 2 = 0 ∧ bits w 21 8 = 0) (.pmt (fld 3 w 29) (fld 3 w 5) (fld 3 w 2))
  | 3 => guardBits (bits w 0 2 = 0 ∧ bits w 21 8 = 0) (.pbp (fld 3 w 29) (fld 3 w 5) (fld 3 w 2))
  | 4 => guardBits (bits w 0 2 = 0 ∧ bits w 21 8 = 0) (.prt (fld 3 w 29) (fld 3 w 5) (fld 3 w 2))
  | _ => .error .reservedFunc

/-- Major 0x31 (R57 to R59). -/
def decodeVint (w : Nat) : Except Reject Instr :=
  match bits w 16 8 with
  | 0 => guardBits (bits w 24 2 = 0) (.vadd (fld 3 w 29) (fld 3 w 26) (fld 3 w 5) (fld 3 w 2) (fld 2 w 0))
  | 1 => guardBits (bits w 24 2 = 0) (.vsub (fld 3 w 29) (fld 3 w 26) (fld 3 w 5) (fld 3 w 2) (fld 2 w 0))
  | 2 => guardBits (bits w 24 2 = 0) (.vadds (fld 3 w 29) (fld 3 w 26) (fld 3 w 5) (fld 3 w 2) (fld 2 w 0))
  | 3 => guardBits (bits w 24 2 = 0) (.vsubs (fld 3 w 29) (fld 3 w 26) (fld 3 w 5) (fld 3 w 2) (fld 2 w 0))
  | 4 => guardBits (bits w 24 2 = 0) (.vmul (fld 3 w 29) (fld 3 w 26) (fld 3 w 5) (fld 3 w 2) (fld 2 w 0))
  | 5 => guardBits (bits w 24 2 = 0) (.vmulh (fld 3 w 29) (fld 3 w 26) (fld 3 w 5) (fld 3 w 2) (fld 2 w 0))
  | 6 => guardBits (bits w 24 2 = 0) (.vmac (fld 3 w 29) (fld 3 w 26) (fld 3 w 5) (fld 3 w 2) (fld 2 w 0))
  | 7 => guardBits (bits w 24 2 = 0) (.vmin (fld 3 w 29) (fld 3 w 26) (fld 3 w 5) (fld 3 w 2) (fld 2 w 0))
  | 8 => guardBits (bits w 24 2 = 0) (.vmax (fld 3 w 29) (fld 3 w 26) (fld 3 w 5) (fld 3 w 2) (fld 2 w 0))
  | 9 => guardBits (bits w 24 2 = 0) (.vand (fld 3 w 29) (fld 3 w 26) (fld 3 w 5) (fld 3 w 2) (fld 2 w 0))
  | 10 => guardBits (bits w 24 2 = 0) (.vor (fld 3 w 29) (fld 3 w 26) (fld 3 w 5) (fld 3 w 2) (fld 2 w 0))
  | 11 => guardBits (bits w 24 2 = 0) (.vxor (fld 3 w 29) (fld 3 w 26) (fld 3 w 5) (fld 3 w 2) (fld 2 w 0))
  | 12 => guardBits (bits w 24 2 = 0) (.vandn (fld 3 w 29) (fld 3 w 26) (fld 3 w 5) (fld 3 w 2) (fld 2 w 0))
  | 13 => guardBits (bits w 24 2 = 0) (.vshl (fld 3 w 29) (fld 3 w 26) (fld 3 w 5) (fld 3 w 2) (fld 2 w 0))
  | 14 => guardBits (bits w 24 2 = 0) (.vshr (fld 3 w 29) (fld 3 w 26) (fld 3 w 5) (fld 3 w 2) (fld 2 w 0))
  | 15 => guardBits (bits w 24 2 = 0) (.vsra (fld 3 w 29) (fld 3 w 26) (fld 3 w 5) (fld 3 w 2) (fld 2 w 0))
  | 16 => guardBits (bits w 24 2 = 0 ∧ bits w 29 3 = 0) (.vabs (fld 3 w 26) (fld 3 w 5) (fld 3 w 2) (fld 2 w 0))
  | 17 => guardBits (bits w 24 2 = 0 ∧ bits w 29 3 = 0) (.vneg (fld 3 w 26) (fld 3 w 5) (fld 3 w 2) (fld 2 w 0))
  | 18 => guardBits (bits w 7 1 = 0 ∧ bits w 24 2 = 0) (.vcmpeq (fld 3 w 29) (fld 3 w 26) (fld 2 w 5) (fld 3 w 2) (fld 2 w 0))
  | 19 => guardBits (bits w 7 1 = 0 ∧ bits w 24 2 = 0) (.vcmplt (fld 3 w 29) (fld 3 w 26) (fld 2 w 5) (fld 3 w 2) (fld 2 w 0))
  | 20 => guardBits (bits w 7 1 = 0 ∧ bits w 24 2 = 0) (.vcmple (fld 3 w 29) (fld 3 w 26) (fld 2 w 5) (fld 3 w 2) (fld 2 w 0))
  | 21 => guardBits (bits w 24 2 = 0) (.vsel (fld 3 w 29) (fld 3 w 26) (fld 3 w 5) (fld 3 w 2) (fld 2 w 0))
  | _ => .error .reservedFunc

/-- Major 0x32 (R57 to R59). -/
def decodeVfp (w : Nat) : Except Reject Instr :=
  match bits w 16 8 with
  | 0 => guardBits (bits w 24 2 = 0) (.vfadd (fld 3 w 29) (fld 3 w 26) (fld 3 w 5) (fld 3 w 2) (fld 2 w 0))
  | 1 => guardBits (bits w 24 2 = 0) (.vfsub (fld 3 w 29) (fld 3 w 26) (fld 3 w 5) (fld 3 w 2) (fld 2 w 0))
  | 2 => guardBits (bits w 24 2 = 0) (.vfmul (fld 3 w 29) (fld 3 w 26) (fld 3 w 5) (fld 3 w 2) (fld 2 w 0))
  | 3 => guardBits (bits w 24 2 = 0) (.vfma (fld 3 w 29) (fld 3 w 26) (fld 3 w 5) (fld 3 w 2) (fld 2 w 0))
  | 4 => guardBits (bits w 24 2 = 0) (.vfmin (fld 3 w 29) (fld 3 w 26) (fld 3 w 5) (fld 3 w 2) (fld 2 w 0))
  | 5 => guardBits (bits w 24 2 = 0) (.vfmax (fld 3 w 29) (fld 3 w 26) (fld 3 w 5) (fld 3 w 2) (fld 2 w 0))
  | 6 => guardBits (bits w 24 2 = 0 ∧ bits w 29 3 = 0) (.vfabs (fld 3 w 26) (fld 3 w 5) (fld 3 w 2) (fld 2 w 0))
  | 7 => guardBits (bits w 24 2 = 0 ∧ bits w 29 3 = 0) (.vfneg (fld 3 w 26) (fld 3 w 5) (fld 3 w 2) (fld 2 w 0))
  | 8 => guardBits (bits w 24 2 = 0 ∧ bits w 29 3 = 0) (.vrcp (fld 3 w 26) (fld 3 w 5) (fld 3 w 2) (fld 2 w 0))
  | 9 => guardBits (bits w 24 2 = 0 ∧ bits w 29 3 = 0) (.vrsq (fld 3 w 26) (fld 3 w 5) (fld 3 w 2) (fld 2 w 0))
  | 10 => guardBits (bits w 24 2 = 0 ∧ bits w 29 3 = 0) (.vexp2 (fld 3 w 26) (fld 3 w 5) (fld 3 w 2) (fld 2 w 0))
  | 11 => guardBits (bits w 7 1 = 0 ∧ bits w 24 2 = 0) (.vfcmpeq (fld 3 w 29) (fld 3 w 26) (fld 2 w 5) (fld 3 w 2) (fld 2 w 0))
  | 12 => guardBits (bits w 7 1 = 0 ∧ bits w 24 2 = 0) (.vfcmplt (fld 3 w 29) (fld 3 w 26) (fld 2 w 5) (fld 3 w 2) (fld 2 w 0))
  | 13 => guardBits (bits w 7 1 = 0 ∧ bits w 24 2 = 0) (.vfcmple (fld 3 w 29) (fld 3 w 26) (fld 2 w 5) (fld 3 w 2) (fld 2 w 0))
  | _ => .error .reservedFunc

/-- Major 0x33 (R57 to R59). -/
def decodeVcvt (w : Nat) : Except Reject Instr :=
  match bits w 16 8 with
  | 0 => .ok (.vcvt (fld 3 w 29) (fld 3 w 26) (fld 2 w 24) (fld 3 w 5) (fld 3 w 2) (fld 2 w 0))
  | 1 => guardBits (bits w 24 5 = 28) (.vscl (fld 3 w 29) (fld 3 w 5) (fld 3 w 2) (fld 2 w 0))
  | 2 => guardBits (bits w 24 8 = 0) (.vtrit (fld 3 w 5) (fld 3 w 2) (fld 2 w 0))
  | 3 => guardBits (bits w 24 8 = 0) (.vpackt (fld 3 w 5) (fld 3 w 2) (fld 2 w 0))
  | _ => .error .reservedFunc

/-- Major 0x34 (R57 to R59). -/
def decodeVperm (w : Nat) : Except Reject Instr :=
  match bits w 16 8 with
  | 0 => guardBits (bits w 24 2 = 0 ∧ bits w 29 3 = 0) (.vmov (fld 3 w 26) (fld 3 w 5) (fld 3 w 2) (fld 2 w 0))
  | 1 => guardBits (bits w 24 2 = 0) (.vperm (fld 3 w 29) (fld 3 w 26) (fld 3 w 5) (fld 3 w 2) (fld 2 w 0))
  | 2 => guardBits (bits w 24 2 = 0 ∧ bits w 29 3 = 0) (.vcompr (fld 3 w 26) (fld 3 w 5) (fld 3 w 2) (fld 2 w 0))
  | 3 => guardBits (bits w 24 2 = 0 ∧ bits w 29 3 = 0) (.vexpnd (fld 3 w 26) (fld 3 w 5) (fld 3 w 2) (fld 2 w 0))
  | 4 => guardBits (bits w 24 2 = 0) (.vzipl (fld 3 w 29) (fld 3 w 26) (fld 3 w 5) (fld 3 w 2) (fld 2 w 0))
  | 5 => guardBits (bits w 24 2 = 0) (.vziph (fld 3 w 29) (fld 3 w 26) (fld 3 w 5) (fld 3 w 2) (fld 2 w 0))
  | 6 => guardBits (bits w 24 2 = 0 ∧ bits w 29 3 = 0) (.vrev (fld 3 w 26) (fld 3 w 5) (fld 3 w 2) (fld 2 w 0))
  | _ => .error .reservedFunc

/-- Major 0x35 (R57 to R59). -/
def decodeVbm (w : Nat) : Except Reject Instr :=
  match bits w 16 8 with
  | 0 => guardBits (bits w 24 5 = 0) (.vband (fld 3 w 29) (fld 3 w 5) (fld 3 w 2) (fld 2 w 0))
  | 1 => guardBits (bits w 24 5 = 0) (.vbor (fld 3 w 29) (fld 3 w 5) (fld 3 w 2) (fld 2 w 0))
  | 2 => guardBits (bits w 24 8 = 0) (.vpopp (fld 3 w 5) (fld 3 w 2) (fld 2 w 0))
  | 3 => guardBits (bits w 24 5 = 0) (.vxsect (fld 3 w 29) (fld 3 w 5) (fld 3 w 2) (fld 2 w 0))
  | 4 => guardBits (bits w 7 1 = 0 ∧ bits w 24 2 = 0 ∧ bits w 29 3 = 0) (.vnzm (fld 3 w 26) (fld 2 w 5) (fld 3 w 2) (fld 2 w 0))
  | _ => .error .reservedFunc

/-- Major 0x36 (R57 to R59). -/
def decodeVls (w : Nat) : Except Reject Instr :=
  match bits w 29 3 with
  | 0 => guardBits (bits w 4 1 = 0 ∧ bits w 16 2 = 0) (.vld (fld 11 w 18) (fld 3 w 5) (fld 4 w 0))
  | 1 => guardBits (bits w 4 1 = 0 ∧ bits w 16 2 = 0) (.vst (fld 11 w 18) (fld 3 w 5) (fld 4 w 0))
  | 2 => guardBits (bits w 4 1 = 0 ∧ bits w 16 8 = 0) (.vldx (fld 3 w 26) (fld 2 w 24) (fld 3 w 5) (fld 4 w 0))
  | 3 => guardBits (bits w 4 1 = 0 ∧ bits w 16 8 = 0) (.vstx (fld 3 w 26) (fld 2 w 24) (fld 3 w 5) (fld 4 w 0))
  | _ => .error .reservedFunc

/-- Major 0x37 (R57 to R59). -/
def decodeVlsg (w : Nat) : Except Reject Instr :=
  match bits w 25 3 with
  | 0 => .ok (.vldg (fld 4 w 28) (fld 9 w 16) (fld 3 w 5) (fld 1 w 4) (fld 4 w 0))
  | 1 => .ok (.vstg (fld 4 w 28) (fld 9 w 16) (fld 3 w 5) (fld 1 w 4) (fld 4 w 0))
  | 2 => .ok (.vldgs (fld 4 w 28) (fld 9 w 16) (fld 3 w 5) (fld 1 w 4) (fld 4 w 0))
  | _ => .error .reservedFunc

/-- Major 0x38 (R57 to R59). -/
def decodeVx (w : Nat) : Except Reject Instr :=
  match bits w 16 4 with
  | 0 => guardBits (bits w 2 3 = 0 ∧ bits w 20 5 = 0) (.vbcast (fld 4 w 28) (fld 3 w 25) (fld 3 w 5) (fld 2 w 0))
  | 1 => guardBits (bits w 5 3 = 0) (.vext (fld 4 w 28) (fld 3 w 25) (fld 5 w 20) (fld 3 w 2) (fld 2 w 0))
  | 2 => guardBits (bits w 2 3 = 0) (.vins (fld 4 w 28) (fld 3 w 25) (fld 5 w 20) (fld 3 w 5) (fld 2 w 0))
  | 3 => guardBits (bits w 2 1 = 0 ∧ bits w 28 4 = 0) (.vnarrow (fld 3 w 25) (fld 5 w 20) (fld 3 w 5) (fld 2 w 3) (fld 2 w 0))
  | 4 => guardBits (bits w 21 4 = 0 ∧ bits w 28 4 = 0) (.vwiden (fld 3 w 25) (fld 1 w 20) (fld 3 w 5) (fld 3 w 2) (fld 2 w 0))
  | 5 => guardBits (bits w 2 2 = 0 ∧ bits w 20 8 = 0) (.vmxq (fld 4 w 28) (fld 3 w 5) (fld 1 w 4) (fld 2 w 0))
  | 6 => guardBits (bits w 5 2 = 0 ∧ bits w 20 8 = 224) (.vmxd (fld 4 w 28) (fld 1 w 7) (fld 3 w 2) (fld 2 w 0))
  | 7 => guardBits (bits w 20 8 = 0) (.badq (fld 4 w 28) (fld 3 w 5) (fld 3 w 2) (fld 2 w 0))
  | 8 => guardBits (bits w 5 3 = 0 ∧ bits w 20 5 = 0) (.vnzc (fld 4 w 28) (fld 3 w 25) (fld 3 w 2) (fld 2 w 0))
  | 9 => guardBits (bits w 5 3 = 0 ∧ bits w 20 5 = 0) (.vsumr (fld 4 w 28) (fld 3 w 25) (fld 3 w 2) (fld 2 w 0))
  | 10 => guardBits (bits w 5 3 = 0 ∧ bits w 20 5 = 0) (.vmaxr (fld 4 w 28) (fld 3 w 25) (fld 3 w 2) (fld 2 w 0))
  | 11 => .ok (.vslide (fld 4 w 28) (fld 3 w 25) (fld 5 w 20) (fld 3 w 5) (fld 3 w 2) (fld 2 w 0))
  | 12 => guardBits (bits w 0 8 = 0 ∧ bits w 20 12 = 0) (.vclear)
  | _ => .error .reservedFunc

/-- The raw 32-bit instruction: major opcode, then its members (R57). -/
def decode32 (w : Nat) : Except Reject Instr :=
  match bits w 8 6 with
  | 0x00 => decodeAlu w
  | 0x01 => decodeMulDiv w
  | 0x02 => decodeBits w
  | 0x03 => .ok (.addi (fld 16 w 16) (fld 4 w 4) (fld 4 w 0))
  | 0x04 => .ok (.andi (fld 16 w 16) (fld 4 w 4) (fld 4 w 0))
  | 0x05 => .ok (.ori (fld 16 w 16) (fld 4 w 4) (fld 4 w 0))
  | 0x06 => .ok (.xori (fld 16 w 16) (fld 4 w 4) (fld 4 w 0))
  | 0x07 => .ok (.slti (fld 16 w 16) (fld 4 w 4) (fld 4 w 0))
  | 0x08 => .ok (.sltni (fld 16 w 16) (fld 4 w 4) (fld 4 w 0))
  | 0x09 => decodeShiftI w
  | 0x0a => guardBits (bits w 0 4 = 0) (.lui (fld 16 w 16) (fld 4 w 4))
  | 0x0c => .ok (.beq (fld 16 w 16) (fld 4 w 4) (fld 4 w 0))
  | 0x0d => .ok (.bne (fld 16 w 16) (fld 4 w 4) (fld 4 w 0))
  | 0x0e => .ok (.blt (fld 16 w 16) (fld 4 w 4) (fld 4 w 0))
  | 0x0f => .ok (.bge (fld 16 w 16) (fld 4 w 4) (fld 4 w 0))
  | 0x10 => .ok (.bltn (fld 16 w 16) (fld 4 w 4) (fld 4 w 0))
  | 0x11 => .ok (.bgen (fld 16 w 16) (fld 4 w 4) (fld 4 w 0))
  | 0x12 => .ok (.jal (fld 16 w 16) (fld 4 w 4) (fld 4 w 0))
  | 0x13 => .ok (.jalr (fld 16 w 16) (fld 4 w 4) (fld 4 w 0))
  | 0x14 => decodeLset w
  | 0x15 => .ok (.lb (fld 16 w 16) (fld 4 w 4) (fld 4 w 0))
  | 0x16 => .ok (.lbn (fld 16 w 16) (fld 4 w 4) (fld 4 w 0))
  | 0x17 => .ok (.lh (fld 16 w 16) (fld 4 w 4) (fld 4 w 0))
  | 0x18 => .ok (.lhn (fld 16 w 16) (fld 4 w 4) (fld 4 w 0))
  | 0x19 => .ok (.lw (fld 16 w 16) (fld 4 w 4) (fld 4 w 0))
  | 0x1a => .ok (.sb (fld 16 w 16) (fld 4 w 4) (fld 4 w 0))
  | 0x1b => .ok (.sh (fld 16 w 16) (fld 4 w 4) (fld 4 w 0))
  | 0x1c => .ok (.sw (fld 16 w 16) (fld 4 w 4) (fld 4 w 0))
  | 0x1d => decodeFeld w
  | 0x1e => decodeFest w
  | 0x1f => decodeRemote w
  | 0x20 => decodeAmo w
  | 0x21 => decodeGmem w
  | 0x22 => guardBits (bits w 0 8 = 0 ∧ bits w 22 10 = 0) (.fence (fld 2 w 20) (fld 1 w 19) (fld 3 w 16))
  | 0x23 => decodeSr w
  | 0x24 => guardBits (bits w 0 4 = 0) (.waito (fld 4 w 28) (fld 4 w 24) (fld 4 w 20) (fld 4 w 16) (fld 4 w 4))
  | 0x25 => decodeSys w
  | 0x26 => decodeTask w
  | 0x27 => guardBits (bits w 0 4 = 0) (.spawn (fld 16 w 16) (fld 4 w 4))
  | 0x28 => decodeTmap w
  | 0x29 => decodePage w
  | 0x2a => decodeBar w
  | 0x2b => guardBits (bits w 0 4 = 0 ∧ bits w 21 11 = 0) (.dbar (fld 3 w 18) (fld 2 w 16) (fld 4 w 4))
  | 0x2c => decodeMsg w
  | 0x2d => decodeCpy w
  | 0x2e => decodePcfg w
  | 0x2f => decodePmem w
  | 0x30 => decodePop w
  | 0x31 => decodeVint w
  | 0x32 => decodeVfp w
  | 0x33 => decodeVcvt w
  | 0x34 => decodeVperm w
  | 0x35 => decodeVbm w
  | 0x36 => decodeVls w
  | 0x37 => decodeVlsg w
  | 0x38 => decodeVx w
  | _ => .error .reservedMajor

/-- Quadrant Q0 of the 16-bit forms (R62). -/
def decodeQ0 (w : Nat) : Except Reject Instr :=
  match bits w 8 6 with
  | 0 => .ok (.cMov (fld 4 w 4) (fld 4 w 0))
  | 1 => .ok (.cAdd (fld 4 w 4) (fld 4 w 0))
  | 2 => .ok (.cSub (fld 4 w 4) (fld 4 w 0))
  | 3 => .ok (.cAnd (fld 4 w 4) (fld 4 w 0))
  | 4 => .ok (.cOr (fld 4 w 4) (fld 4 w 0))
  | 5 => .ok (.cXor (fld 4 w 4) (fld 4 w 0))
  | 6 => .ok (.cSll (fld 4 w 4) (fld 4 w 0))
  | 7 => .ok (.cSrl (fld 4 w 4) (fld 4 w 0))
  | 8 => .ok (.cSra (fld 4 w 4) (fld 4 w 0))
  | 9 => .ok (.cSlt (fld 4 w 4) (fld 4 w 0))
  | 10 => guardBits (bits w 4 4 = 0) (.cJr (fld 4 w 0))
  | 11 => guardBits (bits w 4 4 = 0) (.cJalr (fld 4 w 0))
  | _ => .error .reservedQuadrant

/-- Quadrant Q1 of the 16-bit forms (R62). -/
def decodeQ1 (w : Nat) : Except Reject Instr :=
  match bits w 10 4 with
  | 0 => .ok (.cAddi (fld 4 w 6) (fld 6 w 0))
  | 1 => .ok (.cLi (fld 4 w 6) (fld 6 w 0))
  | 2 => guardBits (bits w 5 1 = 0) (.cSlli (fld 4 w 6) (fld 5 w 0))
  | 3 => guardBits (bits w 5 1 = 0) (.cSrli (fld 4 w 6) (fld 5 w 0))
  | 4 => guardBits (bits w 5 1 = 0) (.cSrai (fld 4 w 6) (fld 5 w 0))
  | 5 => .ok (.cAndi (fld 4 w 6) (fld 6 w 0))
  | 6 => .ok (.cLwsp (fld 4 w 6) (fld 6 w 0))
  | 7 => .ok (.cSwsp (fld 4 w 6) (fld 6 w 0))
  | 8 => .ok (.cLui (fld 4 w 6) (fld 6 w 0))
  | _ => .error .reservedQuadrant

/-- Quadrant Q2 of the 16-bit forms (R62). -/
def decodeQ2 (w : Nat) : Except Reject Instr :=
  match bits w 11 3 with
  | 0 => .ok (.cBeqz (fld 4 w 7) (fld 7 w 0))
  | 1 => .ok (.cBnez (fld 4 w 7) (fld 7 w 0))
  | 2 => .ok (.cLw (fld 4 w 7) (fld 4 w 3) (fld 3 w 0))
  | 3 => .ok (.cSw (fld 4 w 7) (fld 4 w 3) (fld 3 w 0))
  | 4 => guardBits (bits w 0 11 = 0) (.cVclear)
  | 6 => .ok (.cJ (fld 11 w 0))
  | 7 => match bits w 0 11 with
    | 0 => .ok .cNop
    | 1 => .ok .cDone
    | 2 => .ok .cHret
    | 3 => .ok .cRet
    | _ => .error .reservedQuadrant
  | _ => .error .reservedQuadrant

/-- The length in bytes of the instruction that a first halfword begins (R53). -/
def instrBytes (w : Nat) : Nat := if bits w 14 2 = 3 then 4 else 2

/-- The raw instruction of a word, by the length that bits [15:14] give (R53). -/
def decodeRaw (w : Nat) : Except Reject Instr :=
  match bits w 14 2 with
  | 0 => decodeQ0 w
  | 1 => decodeQ1 w
  | 2 => decodeQ2 w
  | _ => decode32 w

/-- The checks on field values (R59, R61 step 2) after the fixed fields. -/
def checkFields (i : Instr) : Except Reject Instr :=
  match i.illFormed with
  | none => .ok i
  | some r => .error (.illFormed r)

/-- The instruction of a word whose low halfword is the first (R53, R61). -/
def decode (w : Nat) : Except Reject Instr := decodeRaw w >>= checkFields

/-- A little-endian number (R5). -/
def leNat : List Byte → Nat
  | [] => 0
  | b :: bs => b.toNat + 256 * leNat bs

/-- The low n bytes of a number, least significant first (R5). -/
def leBytes : Nat → Nat → List Byte
  | 0, _ => []
  | n + 1, w => BitVec.ofNat 8 w :: leBytes n (w / 256)

/-- The instruction at the head of a byte string, and the bytes after it (R53). -/
def decodeBytes (bs : List Byte) : Except Reject (Instr × List Byte) :=
  let n := instrBytes (leNat (bs.take 2))
  if bs.length < 2 ∨ bs.length < n then .error .truncated
  else (decode (leNat (bs.take n))).map fun i => (i, bs.drop n)

/-- The instruction of an opcode-table word: its bytes, least significant first, zero above the bits given. -/
def decodeTableWord (nbits w : Nat) : Option Instr :=
  match decodeBytes (leBytes 4 (w % 2 ^ nbits)) with
  | .ok (i, _) => some i
  | .error _ => none

/-- The word with the fixed value m and each field's value at its lowest bit, with its length in bytes. -/
def word (n m : Nat) (fs : List (Nat × Nat)) : Option (Nat × Nat) :=
  some (n, fs.foldr (fun f w => f.2 * 2 ^ f.1 + w) m)

/-- The encoding of an instruction: its length in bytes and its word (R55 to R62); a row without an encoding has none. -/
def encode : Instr → Option (Nat × Nat)
  | .add b d a => word 4 0x0000c000 [(28, b.toNat), (4, d.toNat), (0, a.toNat)]
  | .sub b d a => word 4 0x0001c000 [(28, b.toNat), (4, d.toNat), (0, a.toNat)]
  | .and b d a => word 4 0x0002c000 [(28, b.toNat), (4, d.toNat), (0, a.toNat)]
  | .or b d a => word 4 0x0003c000 [(28, b.toNat), (4, d.toNat), (0, a.toNat)]
  | .xor b d a => word 4 0x0004c000 [(28, b.toNat), (4, d.toNat), (0, a.toNat)]
  | .andn b d a => word 4 0x0005c000 [(28, b.toNat), (4, d.toNat), (0, a.toNat)]
  | .sll b d a => word 4 0x0006c000 [(28, b.toNat), (4, d.toNat), (0, a.toNat)]
  | .srl b d a => word 4 0x0007c000 [(28, b.toNat), (4, d.toNat), (0, a.toNat)]
  | .sra b d a => word 4 0x0008c000 [(28, b.toNat), (4, d.toNat), (0, a.toNat)]
  | .rol b d a => word 4 0x0009c000 [(28, b.toNat), (4, d.toNat), (0, a.toNat)]
  | .slt b d a => word 4 0x000ac000 [(28, b.toNat), (4, d.toNat), (0, a.toNat)]
  | .sltn b d a => word 4 0x000bc000 [(28, b.toNat), (4, d.toNat), (0, a.toNat)]
  | .min b d a => word 4 0x000cc000 [(28, b.toNat), (4, d.toNat), (0, a.toNat)]
  | .max b d a => word 4 0x000dc000 [(28, b.toNat), (4, d.toNat), (0, a.toNat)]
  | .minn b d a => word 4 0x000ec000 [(28, b.toNat), (4, d.toNat), (0, a.toNat)]
  | .maxn b d a => word 4 0x000fc000 [(28, b.toNat), (4, d.toNat), (0, a.toNat)]
  | .mul b d a => word 4 0x0000c100 [(28, b.toNat), (4, d.toNat), (0, a.toNat)]
  | .mulh b d a => word 4 0x0001c100 [(28, b.toNat), (4, d.toNat), (0, a.toNat)]
  | .mulhn b d a => word 4 0x0002c100 [(28, b.toNat), (4, d.toNat), (0, a.toNat)]
  | .div b d a => word 4 0x0004c100 [(28, b.toNat), (4, d.toNat), (0, a.toNat)]
  | .divn b d a => word 4 0x0005c100 [(28, b.toNat), (4, d.toNat), (0, a.toNat)]
  | .rem b d a => word 4 0x0006c100 [(28, b.toNat), (4, d.toNat), (0, a.toNat)]
  | .remn b d a => word 4 0x0007c100 [(28, b.toNat), (4, d.toNat), (0, a.toNat)]
  | .clz d a => word 4 0x0000c200 [(4, d.toNat), (0, a.toNat)]
  | .ctz d a => word 4 0x0001c200 [(4, d.toNat), (0, a.toNat)]
  | .popc d a => word 4 0x0002c200 [(4, d.toNat), (0, a.toNat)]
  | .brev d a => word 4 0x0003c200 [(4, d.toNat), (0, a.toNat)]
  | .sextb d a => word 4 0x0004c200 [(4, d.toNat), (0, a.toNat)]
  | .sexth d a => word 4 0x0005c200 [(4, d.toNat), (0, a.toNat)]
  | .zexth d a => word 4 0x0006c200 [(4, d.toNat), (0, a.toNat)]
  | .bswap d a => word 4 0x0007c200 [(4, d.toNat), (0, a.toNat)]
  | .addi i d a => word 4 0x0000c300 [(16, i.toNat), (4, d.toNat), (0, a.toNat)]
  | .andi i d a => word 4 0x0000c400 [(16, i.toNat), (4, d.toNat), (0, a.toNat)]
  | .ori i d a => word 4 0x0000c500 [(16, i.toNat), (4, d.toNat), (0, a.toNat)]
  | .xori i d a => word 4 0x0000c600 [(16, i.toNat), (4, d.toNat), (0, a.toNat)]
  | .slti i d a => word 4 0x0000c700 [(16, i.toNat), (4, d.toNat), (0, a.toNat)]
  | .sltni i d a => word 4 0x0000c800 [(16, i.toNat), (4, d.toNat), (0, a.toNat)]
  | .slli n d a => word 4 0x0000c900 [(16, n.toNat), (4, d.toNat), (0, a.toNat)]
  | .srli n d a => word 4 0x4000c900 [(16, n.toNat), (4, d.toNat), (0, a.toNat)]
  | .srai n d a => word 4 0x8000c900 [(16, n.toNat), (4, d.toNat), (0, a.toNat)]
  | .rori n d a => word 4 0xc000c900 [(16, n.toNat), (4, d.toNat), (0, a.toNat)]
  | .lui i d => word 4 0x0000ca00 [(16, i.toNat), (4, d.toNat)]
  | .beq o a b => word 4 0x0000cc00 [(16, o.toNat), (4, a.toNat), (0, b.toNat)]
  | .bne o a b => word 4 0x0000cd00 [(16, o.toNat), (4, a.toNat), (0, b.toNat)]
  | .blt o a b => word 4 0x0000ce00 [(16, o.toNat), (4, a.toNat), (0, b.toNat)]
  | .bge o a b => word 4 0x0000cf00 [(16, o.toNat), (4, a.toNat), (0, b.toNat)]
  | .bltn o a b => word 4 0x0000d000 [(16, o.toNat), (4, a.toNat), (0, b.toNat)]
  | .bgen o a b => word 4 0x0000d100 [(16, o.toNat), (4, a.toNat), (0, b.toNat)]
  | .jal o d h => word 4 0x0000d200 [(16, o.toNat), (4, d.toNat), (0, h.toNat)]
  | .jalr i d a => word 4 0x0000d300 [(16, i.toNat), (4, d.toNat), (0, a.toNat)]
  | .lset e s l c => word 4 0x0000d440 [(22, e.toNat), (16, s.toNat), (7, l.toNat), (0, c.toNat)]
  | .lsetReg e s l r => word 4 0x0000d400 [(22, e.toNat), (16, s.toNat), (7, l.toNat), (0, r.toNat)]
  | .lb i d a => word 4 0x0000d500 [(16, i.toNat), (4, d.toNat), (0, a.toNat)]
  | .lbn i d a => word 4 0x0000d600 [(16, i.toNat), (4, d.toNat), (0, a.toNat)]
  | .lh i d a => word 4 0x0000d700 [(16, i.toNat), (4, d.toNat), (0, a.toNat)]
  | .lhn i d a => word 4 0x0000d800 [(16, i.toNat), (4, d.toNat), (0, a.toNat)]
  | .lw i d a => word 4 0x0000d900 [(16, i.toNat), (4, d.toNat), (0, a.toNat)]
  | .sb i d b => word 4 0x0000da00 [(16, i.toNat), (4, d.toNat), (0, b.toNat)]
  | .sh i d b => word 4 0x0000db00 [(16, i.toNat), (4, d.toNat), (0, b.toNat)]
  | .sw i d b => word 4 0x0000dc00 [(16, i.toNat), (4, d.toNat), (0, b.toNat)]
  | .lwf o d a => word 4 0x0000dd00 [(16, o.toNat), (4, d.toNat), (0, a.toNat)]
  | .lwfe o d a => word 4 0x4000dd00 [(16, o.toNat), (4, d.toNat), (0, a.toNat)]
  | .fetest o d a => word 4 0x8000dd00 [(16, o.toNat), (4, d.toNat), (0, a.toNat)]
  | .swe o d b => word 4 0x0000de00 [(16, o.toNat), (4, d.toNat), (0, b.toNat)]
  | .swf o d b => word 4 0x4000de00 [(16, o.toNat), (4, d.toNat), (0, b.toNat)]
  | .feset o b => word 4 0x8000de00 [(16, o.toNat), (0, b.toNat)]
  | .feclr o b => word 4 0xc000de00 [(16, o.toNat), (0, b.toNat)]
  | .rlw b d a => word 4 0x0000df00 [(28, b.toNat), (4, d.toNat), (0, a.toNat)]
  | .rlwf b d a => word 4 0x0001df00 [(28, b.toNat), (4, d.toNat), (0, a.toNat)]
  | .rlwfe b d a => word 4 0x0002df00 [(28, b.toNat), (4, d.toNat), (0, a.toNat)]
  | .rsw b d a => word 4 0x0003df00 [(28, b.toNat), (4, d.toNat), (0, a.toNat)]
  | .rswe b d a => word 4 0x0004df00 [(28, b.toNat), (4, d.toNat), (0, a.toNat)]
  | .rswf b d a => word 4 0x0005df00 [(28, b.toNat), (4, d.toNat), (0, a.toNat)]
  | .amoAdd b o d a => word 4 0x0000e000 [(28, b.toNat), (19, o.toNat), (4, d.toNat), (0, a.toNat)]
  | .amoAnd b o d a => word 4 0x0001e000 [(28, b.toNat), (19, o.toNat), (4, d.toNat), (0, a.toNat)]
  | .amoOr b o d a => word 4 0x0002e000 [(28, b.toNat), (19, o.toNat), (4, d.toNat), (0, a.toNat)]
  | .amoXor b o d a => word 4 0x0003e000 [(28, b.toNat), (19, o.toNat), (4, d.toNat), (0, a.toNat)]
  | .amoMin b o d a => word 4 0x0004e000 [(28, b.toNat), (19, o.toNat), (4, d.toNat), (0, a.toNat)]
  | .amoMax b o d a => word 4 0x0005e000 [(28, b.toNat), (19, o.toNat), (4, d.toNat), (0, a.toNat)]
  | .amoSwap b o d a => word 4 0x0006e000 [(28, b.toNat), (19, o.toNat), (4, d.toNat), (0, a.toNat)]
  | .amoCas b o d a => word 4 0x0007e000 [(28, b.toNat), (19, o.toNat), (5, d.toNat), (0, a.toNat)]
  | .tmset s => word 4 0x0000e800 [(4, s.toNat)]
  | .tmoff s => word 4 0x0001e800 [(4, s.toNat)]
  | .glw t i d x => word 4 0x0000e100 [(28, t.toNat), (16, i.toNat), (4, d.toNat), (0, x.toNat)]
  | .gsw t i d x => word 4 0x0100e100 [(28, t.toNat), (16, i.toNat), (4, d.toNat), (0, x.toNat)]
  | .glwa t i d x => word 4 0x0200e100 [(28, t.toNat), (16, i.toNat), (4, d.toNat), (0, x.toNat)]
  | .gswl t i d x => word 4 0x0300e100 [(28, t.toNat), (16, i.toNat), (4, d.toNat), (0, x.toNat)]
  | .gaadd t i d x => word 4 0x0400e100 [(28, t.toNat), (16, i.toNat), (4, d.toNat), (0, x.toNat)]
  | .gamin t i d x => word 4 0x0500e100 [(28, t.toNat), (16, i.toNat), (4, d.toNat), (0, x.toNat)]
  | .gamax t i d x => word 4 0x0600e100 [(28, t.toNat), (16, i.toNat), (4, d.toNat), (0, x.toNat)]
  | .gaswap t i d x => word 4 0x0700e100 [(28, t.toNat), (16, i.toNat), (4, d.toNat), (0, x.toNat)]
  | .gacas t i d x => word 4 0x0800e100 [(28, t.toNat), (16, i.toNat), (5, d.toNat), (0, x.toNat)]
  | .gafadd t i d x => word 4 0x0900e100 [(28, t.toNat), (16, i.toNat), (4, d.toNat), (0, x.toNat)]
  | .fence y l s => word 4 0x0000e200 [(20, y.toNat), (19, l.toNat), (16, s.toNat)]
  | .mfs n d => word 4 0x0000e300 [(20, n.toNat), (4, d.toNat)]
  | .mfsCycle d => word 4 0x0100e300 [(4, d.toNat)]
  | .mfsPq d => word 4 0x04f0e300 [(4, d.toNat)]
  | .mfsCpGo d => word 4 0x05f0e300 [(4, d.toNat)]
  | .mfsCq d => word 4 0x0680e300 [(4, d.toNat)]
  | .mfsGpGo d => word 4 0x07f0e300 [(4, d.toNat)]
  | .mfsRq d => word 4 0x0800e300 [(4, d.toNat)]
  | .mfsBq d => word 4 0x0810e300 [(4, d.toNat)]
  | .mts n x => word 4 0x0001e300 [(20, n.toNat), (4, x.toNat)]
  | .mtsi n i => word 4 0x0002e300 [(20, n.toNat), (0, i.toNat)]
  | .mss n x => word 4 0x0003e300 [(20, n.toNat), (4, x.toNat)]
  | .mcs n x => word 4 0x0004e300 [(20, n.toNat), (4, x.toNat)]
  | .waito l s c t m => word 4 0x0000e400 [(28, l.toNat), (24, s.toNat), (20, c.toNat), (16, t.toNat), (4, m.toNat)]
  | .nop => word 4 0x0000e500 []
  | .ecall => word 4 0x0001e500 []
  | .trap c => word 4 0x0002e500 [(0, c.toNat)]
  | .tret => word 4 0x0003e500 []
  | .brk => word 4 0x0004e500 []
  | .yield => word 4 0x0005e500 []
  | .idle => word 4 0x0006e500 []
  | .sync f => word 4 0x0000e600 [(0, f.toNat)]
  | .done => word 4 0x0001e600 []
  | .halt => word 4 0x0002e600 []
  | .haltr k => word 4 0x0003e600 [(0, k.toNat)]
  | .sendam c d => word 4 0x0004e600 [(28, c.toNat), (0, d.toNat)]
  | .hret => word 4 0x0005e600 []
  | .frinit d a => word 4 0x0006e600 [(4, d.toNat), (0, a.toNat)]
  | .spawn o f => word 4 0x0000e700 [(16, o.toNat), (4, f.toNat)]
  | .pgpre t n i => word 4 0x0000e900 [(28, t.toNat), (4, n.toNat), (0, i.toNat)]
  | .pgdisc t n i => word 4 0x0001e900 [(28, t.toNat), (4, n.toNat), (0, i.toNat)]
  | .binit b d a => word 4 0x0000ea00 [(28, b.toNat), (4, d.toNat), (0, a.toNat)]
  | .bexp b d a => word 4 0x0001ea00 [(28, b.toNat), (4, d.toNat), (0, a.toNat)]
  | .barr b d a => word 4 0x0002ea00 [(28, b.toNat), (4, d.toNat), (0, a.toNat)]
  | .bwait b d a => word 4 0x0003ea00 [(28, b.toNat), (4, d.toNat), (0, a.toNat)]
  | .bwaitm b d a => word 4 0x0004ea00 [(28, b.toNat), (4, d.toNat), (0, a.toNat)]
  | .btest b d a => word 4 0x0005ea00 [(28, b.toNat), (4, d.toNat), (0, a.toNat)]
  | .dbar s c d => word 4 0x0000eb00 [(18, s.toNat), (16, c.toNat), (4, d.toNat)]
  | .send b d a => word 4 0x0000ec00 [(28, b.toNat), (4, d.toNat), (0, a.toNat)]
  | .rpost d a => word 4 0x0001ec00 [(4, d.toNat), (0, a.toNat)]
  | .rcancel d a => word 4 0x0002ec00 [(4, d.toNat), (0, a.toNat)]
  | .rprobe d a => word 4 0x0003ec00 [(4, d.toNat), (0, a.toNat)]
  | .enq b d a => word 4 0x0004ec00 [(28, b.toNat), (4, d.toNat), (0, a.toNat)]
  | .cptest d a => word 4 0x0000ed00 [(4, d.toNat), (0, a.toNat)]
  | .cpcancel d a => word 4 0x0001ed00 [(4, d.toNat), (0, a.toNat)]
  | .cpwait d a => word 4 0x0002ed00 [(4, d.toNat), (0, a.toNat)]
  | .mcfg m x => word 4 0x0000ee00 [(5, m.toNat), (0, x.toNat)]
  | .mzero m => word 4 0x0001ee00 [(5, m.toNat)]
  | .lease n => word 4 0x0002ee00 [(20, n.toNat)]
  | .unlease => word 4 0x0003ee00 []
  | .mld t x d => word 4 0x0000ef00 [(25, t.toNat), (21, x.toNat), (5, d.toNat)]
  | .mst t x d => word 4 0x0001ef00 [(25, t.toNat), (21, x.toNat), (5, d.toNat)]
  | .pmv t x d a => word 4 0x0000f000 [(25, t.toNat), (21, x.toNat), (5, d.toNat), (2, a.toNat)]
  | .pmvx t x d a => word 4 0x0001f000 [(25, t.toNat), (21, x.toNat), (5, d.toNat), (2, a.toNat)]
  | .pmt w d a => word 4 0x0002f000 [(29, w.toNat), (5, d.toNat), (2, a.toNat)]
  | .pbp b d a => word 4 0x0003f000 [(29, b.toNat), (5, d.toNat), (2, a.toNat)]
  | .prt w d a => word 4 0x0004f000 [(29, w.toNat), (5, d.toNat), (2, a.toNat)]
  | .vadd b e d a p => word 4 0x0000f100 [(29, b.toNat), (26, e.toNat), (5, d.toNat), (2, a.toNat), (0, p.toNat)]
  | .vsub b e d a p => word 4 0x0001f100 [(29, b.toNat), (26, e.toNat), (5, d.toNat), (2, a.toNat), (0, p.toNat)]
  | .vadds b e d a p => word 4 0x0002f100 [(29, b.toNat), (26, e.toNat), (5, d.toNat), (2, a.toNat), (0, p.toNat)]
  | .vsubs b e d a p => word 4 0x0003f100 [(29, b.toNat), (26, e.toNat), (5, d.toNat), (2, a.toNat), (0, p.toNat)]
  | .vmul b e d a p => word 4 0x0004f100 [(29, b.toNat), (26, e.toNat), (5, d.toNat), (2, a.toNat), (0, p.toNat)]
  | .vmulh b e d a p => word 4 0x0005f100 [(29, b.toNat), (26, e.toNat), (5, d.toNat), (2, a.toNat), (0, p.toNat)]
  | .vmac b e d a p => word 4 0x0006f100 [(29, b.toNat), (26, e.toNat), (5, d.toNat), (2, a.toNat), (0, p.toNat)]
  | .vmin b e d a p => word 4 0x0007f100 [(29, b.toNat), (26, e.toNat), (5, d.toNat), (2, a.toNat), (0, p.toNat)]
  | .vmax b e d a p => word 4 0x0008f100 [(29, b.toNat), (26, e.toNat), (5, d.toNat), (2, a.toNat), (0, p.toNat)]
  | .vand b e d a p => word 4 0x0009f100 [(29, b.toNat), (26, e.toNat), (5, d.toNat), (2, a.toNat), (0, p.toNat)]
  | .vor b e d a p => word 4 0x000af100 [(29, b.toNat), (26, e.toNat), (5, d.toNat), (2, a.toNat), (0, p.toNat)]
  | .vxor b e d a p => word 4 0x000bf100 [(29, b.toNat), (26, e.toNat), (5, d.toNat), (2, a.toNat), (0, p.toNat)]
  | .vandn b e d a p => word 4 0x000cf100 [(29, b.toNat), (26, e.toNat), (5, d.toNat), (2, a.toNat), (0, p.toNat)]
  | .vshl b e d a p => word 4 0x000df100 [(29, b.toNat), (26, e.toNat), (5, d.toNat), (2, a.toNat), (0, p.toNat)]
  | .vshr b e d a p => word 4 0x000ef100 [(29, b.toNat), (26, e.toNat), (5, d.toNat), (2, a.toNat), (0, p.toNat)]
  | .vsra b e d a p => word 4 0x000ff100 [(29, b.toNat), (26, e.toNat), (5, d.toNat), (2, a.toNat), (0, p.toNat)]
  | .vabs e d a p => word 4 0x0010f100 [(26, e.toNat), (5, d.toNat), (2, a.toNat), (0, p.toNat)]
  | .vneg e d a p => word 4 0x0011f100 [(26, e.toNat), (5, d.toNat), (2, a.toNat), (0, p.toNat)]
  | .vcmpeq b e d a p => word 4 0x0012f100 [(29, b.toNat), (26, e.toNat), (5, d.toNat), (2, a.toNat), (0, p.toNat)]
  | .vcmplt b e d a p => word 4 0x0013f100 [(29, b.toNat), (26, e.toNat), (5, d.toNat), (2, a.toNat), (0, p.toNat)]
  | .vcmple b e d a p => word 4 0x0014f100 [(29, b.toNat), (26, e.toNat), (5, d.toNat), (2, a.toNat), (0, p.toNat)]
  | .vsel b e d a p => word 4 0x0015f100 [(29, b.toNat), (26, e.toNat), (5, d.toNat), (2, a.toNat), (0, p.toNat)]
  | .vfadd b e d a p => word 4 0x0000f200 [(29, b.toNat), (26, e.toNat), (5, d.toNat), (2, a.toNat), (0, p.toNat)]
  | .vfsub b e d a p => word 4 0x0001f200 [(29, b.toNat), (26, e.toNat), (5, d.toNat), (2, a.toNat), (0, p.toNat)]
  | .vfmul b e d a p => word 4 0x0002f200 [(29, b.toNat), (26, e.toNat), (5, d.toNat), (2, a.toNat), (0, p.toNat)]
  | .vfma b e d a p => word 4 0x0003f200 [(29, b.toNat), (26, e.toNat), (5, d.toNat), (2, a.toNat), (0, p.toNat)]
  | .vfmin b e d a p => word 4 0x0004f200 [(29, b.toNat), (26, e.toNat), (5, d.toNat), (2, a.toNat), (0, p.toNat)]
  | .vfmax b e d a p => word 4 0x0005f200 [(29, b.toNat), (26, e.toNat), (5, d.toNat), (2, a.toNat), (0, p.toNat)]
  | .vfabs e d a p => word 4 0x0006f200 [(26, e.toNat), (5, d.toNat), (2, a.toNat), (0, p.toNat)]
  | .vfneg e d a p => word 4 0x0007f200 [(26, e.toNat), (5, d.toNat), (2, a.toNat), (0, p.toNat)]
  | .vrcp e d a p => word 4 0x0008f200 [(26, e.toNat), (5, d.toNat), (2, a.toNat), (0, p.toNat)]
  | .vrsq e d a p => word 4 0x0009f200 [(26, e.toNat), (5, d.toNat), (2, a.toNat), (0, p.toNat)]
  | .vexp2 e d a p => word 4 0x000af200 [(26, e.toNat), (5, d.toNat), (2, a.toNat), (0, p.toNat)]
  | .vfcmpeq b e d a p => word 4 0x000bf200 [(29, b.toNat), (26, e.toNat), (5, d.toNat), (2, a.toNat), (0, p.toNat)]
  | .vfcmplt b e d a p => word 4 0x000cf200 [(29, b.toNat), (26, e.toNat), (5, d.toNat), (2, a.toNat), (0, p.toNat)]
  | .vfcmple b e d a p => word 4 0x000df200 [(29, b.toNat), (26, e.toNat), (5, d.toNat), (2, a.toNat), (0, p.toNat)]
  | .vcvt s e r d a p => word 4 0x0000f300 [(29, s.toNat), (26, e.toNat), (24, r.toNat), (5, d.toNat), (2, a.toNat), (0, p.toNat)]
  | .vscl b d a p => word 4 0x1c01f300 [(29, b.toNat), (5, d.toNat), (2, a.toNat), (0, p.toNat)]
  | .vtrit d a p => word 4 0x0002f300 [(5, d.toNat), (2, a.toNat), (0, p.toNat)]
  | .vpackt d a p => word 4 0x0003f300 [(5, d.toNat), (2, a.toNat), (0, p.toNat)]
  | .vmov e d a p => word 4 0x0000f400 [(26, e.toNat), (5, d.toNat), (2, a.toNat), (0, p.toNat)]
  | .vperm b e d a p => word 4 0x0001f400 [(29, b.toNat), (26, e.toNat), (5, d.toNat), (2, a.toNat), (0, p.toNat)]
  | .vcompr e d a p => word 4 0x0002f400 [(26, e.toNat), (5, d.toNat), (2, a.toNat), (0, p.toNat)]
  | .vexpnd e d a p => word 4 0x0003f400 [(26, e.toNat), (5, d.toNat), (2, a.toNat), (0, p.toNat)]
  | .vzipl b e d a p => word 4 0x0004f400 [(29, b.toNat), (26, e.toNat), (5, d.toNat), (2, a.toNat), (0, p.toNat)]
  | .vziph b e d a p => word 4 0x0005f400 [(29, b.toNat), (26, e.toNat), (5, d.toNat), (2, a.toNat), (0, p.toNat)]
  | .vrev e d a p => word 4 0x0006f400 [(26, e.toNat), (5, d.toNat), (2, a.toNat), (0, p.toNat)]
  | .vband b d a p => word 4 0x0000f500 [(29, b.toNat), (5, d.toNat), (2, a.toNat), (0, p.toNat)]
  | .vbor b d a p => word 4 0x0001f500 [(29, b.toNat), (5, d.toNat), (2, a.toNat), (0, p.toNat)]
  | .vpopp d a p => word 4 0x0002f500 [(5, d.toNat), (2, a.toNat), (0, p.toNat)]
  | .vxsect b d a p => word 4 0x0003f500 [(29, b.toNat), (5, d.toNat), (2, a.toNat), (0, p.toNat)]
  | .vnzm e d a p => word 4 0x0004f500 [(26, e.toNat), (5, d.toNat), (2, a.toNat), (0, p.toNat)]
  | .vld i v x => word 4 0x0000f600 [(18, i.toNat), (5, v.toNat), (0, x.toNat)]
  | .vst i v x => word 4 0x2000f600 [(18, i.toNat), (5, v.toNat), (0, x.toNat)]
  | .vldx i z v x => word 4 0x4000f600 [(26, i.toNat), (24, z.toNat), (5, v.toNat), (0, x.toNat)]
  | .vstx i z v x => word 4 0x6000f600 [(26, i.toNat), (24, z.toNat), (5, v.toNat), (0, x.toNat)]
  | .vldg t i v o x => word 4 0x0000f700 [(28, t.toNat), (16, i.toNat), (5, v.toNat), (4, o.toNat), (0, x.toNat)]
  | .vstg t i v o x => word 4 0x0200f700 [(28, t.toNat), (16, i.toNat), (5, v.toNat), (4, o.toNat), (0, x.toNat)]
  | .vldgs t i v o x => word 4 0x0400f700 [(28, t.toNat), (16, i.toNat), (5, v.toNat), (4, o.toNat), (0, x.toNat)]
  | .vbcast x e d p => word 4 0x0000f800 [(28, x.toNat), (25, e.toNat), (5, d.toNat), (0, p.toNat)]
  | .vext x e l a p => word 4 0x0001f800 [(28, x.toNat), (25, e.toNat), (20, l.toNat), (2, a.toNat), (0, p.toNat)]
  | .vins x e l d p => word 4 0x0002f800 [(28, x.toNat), (25, e.toNat), (20, l.toNat), (5, d.toNat), (0, p.toNat)]
  | .vnarrow e s d a p => word 4 0x0003f800 [(25, e.toNat), (20, s.toNat), (5, d.toNat), (3, a.toNat), (0, p.toNat)]
  | .vwiden e h d a p => word 4 0x0004f800 [(25, e.toNat), (20, h.toNat), (5, d.toNat), (2, a.toNat), (0, p.toNat)]
  | .vmxq x d q p => word 4 0x0005f800 [(28, x.toNat), (5, d.toNat), (4, q.toNat), (0, p.toNat)]
  | .vmxd x q a p => word 4 0x0e06f800 [(28, x.toNat), (7, q.toNat), (2, a.toNat), (0, p.toNat)]
  | .badq x d a p => word 4 0x0007f800 [(28, x.toNat), (5, d.toNat), (2, a.toNat), (0, p.toNat)]
  | .vnzc x e a p => word 4 0x0008f800 [(28, x.toNat), (25, e.toNat), (2, a.toNat), (0, p.toNat)]
  | .vsumr x e a p => word 4 0x0009f800 [(28, x.toNat), (25, e.toNat), (2, a.toNat), (0, p.toNat)]
  | .vmaxr x e a p => word 4 0x000af800 [(28, x.toNat), (25, e.toNat), (2, a.toNat), (0, p.toNat)]
  | .vslide x e n d a p => word 4 0x000bf800 [(28, x.toNat), (25, e.toNat), (20, n.toNat), (5, d.toNat), (2, a.toNat), (0, p.toNat)]
  | .vclear => word 4 0x000cf800 []
  | .cMov d s => word 2 0x0000 [(4, d.toNat), (0, s.toNat)]
  | .cAdd d s => word 2 0x0100 [(4, d.toNat), (0, s.toNat)]
  | .cSub d s => word 2 0x0200 [(4, d.toNat), (0, s.toNat)]
  | .cAnd d s => word 2 0x0300 [(4, d.toNat), (0, s.toNat)]
  | .cOr d s => word 2 0x0400 [(4, d.toNat), (0, s.toNat)]
  | .cXor d s => word 2 0x0500 [(4, d.toNat), (0, s.toNat)]
  | .cSll d s => word 2 0x0600 [(4, d.toNat), (0, s.toNat)]
  | .cSrl d s => word 2 0x0700 [(4, d.toNat), (0, s.toNat)]
  | .cSra d s => word 2 0x0800 [(4, d.toNat), (0, s.toNat)]
  | .cSlt d s => word 2 0x0900 [(4, d.toNat), (0, s.toNat)]
  | .cJr s => word 2 0x0a00 [(0, s.toNat)]
  | .cJalr s => word 2 0x0b00 [(0, s.toNat)]
  | .cAddi d i => word 2 0x4000 [(6, d.toNat), (0, i.toNat)]
  | .cLi d i => word 2 0x4400 [(6, d.toNat), (0, i.toNat)]
  | .cSlli d n => word 2 0x4800 [(6, d.toNat), (0, n.toNat)]
  | .cSrli d n => word 2 0x4c00 [(6, d.toNat), (0, n.toNat)]
  | .cSrai d n => word 2 0x5000 [(6, d.toNat), (0, n.toNat)]
  | .cAndi d i => word 2 0x5400 [(6, d.toNat), (0, i.toNat)]
  | .cLwsp d i => word 2 0x5800 [(6, d.toNat), (0, i.toNat)]
  | .cSwsp d i => word 2 0x5c00 [(6, d.toNat), (0, i.toNat)]
  | .cLui d i => word 2 0x6000 [(6, d.toNat), (0, i.toNat)]
  | .cBeqz s o => word 2 0x8000 [(7, s.toNat), (0, o.toNat)]
  | .cBnez s o => word 2 0x8800 [(7, s.toNat), (0, o.toNat)]
  | .cLw d b o => word 2 0x9000 [(7, d.toNat), (3, b.toNat), (0, o.toNat)]
  | .cSw d b o => word 2 0x9800 [(7, d.toNat), (3, b.toNat), (0, o.toNat)]
  | .cVclear => word 2 0xa000 []
  | .cJ o => word 2 0xb000 [(0, o.toNat)]
  | .cNop => word 2 0xb800 []
  | .cDone => word 2 0xb801 []
  | .cHret => word 2 0xb802 []
  | .cRet => word 2 0xb803 []
  | .feTimeout | .remoteBusyResend | .idleTimeout | .asynchronousTrap | .coreHang | .coreLeaveGroup
  | .barrierOperation | .barrierWaitResend | .engineArrival | .dbarNotification | .enqRequest | .arrayCommandTurn
  | .tokenPush | .prtLanding | .leaseGrant | .slotEnd | .slotTableWrite | .loadReply | .storeAck | .remoteNack
  | .messageAccept | .remoteLoad | .remoteStore | .feLoad | .feStore | .localAtomic | .feWake | .steal
  | .stealReply | .joinDecrement | .continuationDelivery | .deliveryResend | .deliveryBusy | .ownerPop
  | .stealIssue | .stealBackoffEnd | .activeMessage | .handlerBudget | .localGather | .localScatterAdd
  | .victimPieceStore | .victimPieceRecall | .terminationProbe | .terminationWave | .terminationWaveEnd
  | .chunkDelivered | .chunkFault | .transferStop | .transferStall | .rowRequest | .gatherRow | .scatterAddRow
  | .sketchHalve | .sliceRequest | .pagerMap | .pagerFail | .pagerRevive | .pagerReclaim | .pagerDiscard
  | .pagerTimeout | .parkedDelivery | .migrationBegin | .migrationEnd | .shootdown | .shootdownTimeout
  | .taskMigrate | .hostCompletionTimeout | .fabricRequest | .retryResend | .linkRetrain | .flitUncorrectable
  | .linkDown | .detourSet | .sendHeader | .sendAnswer | .sendResend | .rnrTimeout | .pullRead | .payloadArrival
  | .landingComplete | .triggerArrival | .kick | .suspend | .resume | .skip | .enable | .disable | .disableDrained
  | .prioChange | .launch | .waitdep | .waitdepPoll | .signal | .arm | .copy | .hubCopyEnd | .nopPacket
  | .stampReread | .schedulingPass | .ageingStep | .slotQuiescent | .bindRecord | .bindComplete | .drainEnd
  | .groupRelease | .preempt | .preemptSave | .preemptTimeout | .resumeGroup | .spill | .reload | .watchdog
  | .contextFree | .ctxCreate | .ctxReady | .ctxReset | .ctxDestroy | .ctxSet | .aclSet | .ctxQuery | .binLoad
  | .binUnload | .followSet | .dsetSet | .map | .unmap | .unknownCommand | .fcommit | .ckpt | .checkpointComplete
  | .registerWrite | .bar2Access | .powerOn | .bringupEnd | .imageReceived | .imageBooted | .importTimeout
  | .importComplete | .spdmRequest | .pldmRequest | .recordWrite | .powerOff | .powerLimit | .thermalLimit
  | .droopStop | .illegalOp | .codeRange | .mailboxArrival | .malformedPacket | .enqAnswer | .barrierReply
  | .hostCompletion | .hostLinkDown | .abruptLossOfPower | .activeComplexStopsAnswering | .retentionLoss
  | .scrubber | .keyRevocation | .debugHaltRequest | .coreClockCycle => none

end Sys2Proof
end

