-- ==== Sys2Proof/Machine/Float.lean ====
section
/-! DEFINITION. Number formats and arithmetic (R24 to R45): exact values, one rounding at the end, saturation, trits and
the stochastic generator. Every operation computes exactly on integers and narrows once. -/

namespace Sys2Proof.Machine

/-- A result and the sticky vstat flags that it sets: bit 3 OVF, bit 2 NAN, bit 1 SAT, bit 0 IWC (R37). -/
structure Res where
  val : Nat
  fl  : BitVec 4
  deriving DecidableEq, Repr

/-- The value of an f32 or bf16 operand, or an exact intermediate result: the finite value is ±m · 2^e (R30, R31). -/
inductive FVal where
  | nan
  | inf (neg : Bool)
  | fin (neg : Bool) (m : Nat) (e : Int)
  deriving DecidableEq, Repr

/-- A floating format of R30 by its significand width: 24 bits (f32) or 8 bits (bf16). -/
structure FFmt where
  prec : Nat
  deriving DecidableEq, Repr

/-- f32 (R30). -/
def fmt32 : FFmt := ⟨24⟩
/-- bf16 (R30). -/
def fmt16 : FFmt := ⟨8⟩

/-- The number of fraction bits of a format (R30). -/
def FFmt.frac (f : FFmt) : Nat := f.prec - 1
/-- The canonical quiet NaN (R32). -/
def FFmt.qnan (f : FFmt) : Nat := 0x1FF * 2 ^ (f.frac - 1)
/-- An infinity (R30). -/
def FFmt.infinity (f : FFmt) (neg : Bool) : Nat := (if neg then 0x1FF else 0xFF) * 2 ^ f.frac
/-- The largest finite magnitude with a sign (R30). -/
def FFmt.maxFinite (f : FFmt) (neg : Bool) : Nat := f.infinity neg - 1
/-- A signed zero (R30). -/
def FFmt.zero (f : FFmt) (neg : Bool) : Nat := (if neg then 0x100 else 0) * 2 ^ f.frac

/-- The value of an encoding, a subnormal read as a zero of its sign (R30, R31). -/
def FFmt.decode (f : FFmt) (w : Nat) : FVal :=
  let fr := w % 2 ^ f.frac
  let ex := w / 2 ^ f.frac % 256
  let neg := w / 2 ^ (f.frac + 8) % 2 == 1
  if ex = 255 then (if fr = 0 then .inf neg else .nan)
  else if ex = 0 then .fin neg 0 0
  else .fin neg (2 ^ f.frac + fr) ((ex : Int) - 127 - f.frac)

/-- The rounding modes of R33. -/
inductive Rm where
  | rne | rtz | sr | rdn
  deriving DecidableEq, Repr

/-- The rounding mode of an rm field (R33). -/
def rmOfField (n : Nat) : Rm :=
  match n with
  | 0 => .rne
  | 1 => .rtz
  | 2 => .sr
  | _ => .rdn

/-- The magnitude m ÷ 2^sh rounded to an integer (R33, R34); r is the draw of R34. -/
def roundShift (rm : Rm) (neg : Bool) (r m sh : Nat) : Nat :=
  let q := m / 2 ^ sh
  let rest := m % 2 ^ sh
  match rm with
  | .rtz => q
  | .rdn => if neg && rest != 0 then q + 1 else q
  | .sr => (m * 2 ^ 16 + r * 2 ^ sh) / 2 ^ (sh + 16)
  | .rne =>
    if 2 * rest < 2 ^ sh then q
    else if 2 * rest = 2 ^ sh then q + q % 2
    else q + 1

/-- The encoding of a significand below or at 2^prec with its exponent: flushed below 2^−126, and the overflow value of the
rounding mode above the largest finite (R31, R33). -/
def FFmt.pack (f : FFmt) (rm : Rm) (neg : Bool) (q : Nat) (e : Int) : Res :=
  if q = 0 then ⟨f.zero neg, 0⟩ else
  let nb := q.log2
  let ex := e + nb
  if ex < -126 then ⟨f.zero neg, 0⟩
  else if 127 < ex then
    let keep := match rm with
      | .rtz => true
      | .rdn => !neg
      | _ => false
    ⟨if keep then f.maxFinite neg else f.infinity neg, 8#4⟩
  else
    let frac := q * 2 ^ f.prec / 2 ^ (nb + 1) % 2 ^ f.frac
    ⟨f.zero neg + (ex + 127).toNat * 2 ^ f.frac + frac, 0⟩

/-- An exact value rounded once to a format (R31 to R34). -/
def FFmt.round (f : FFmt) (rm : Rm) (r : Nat) : FVal → Res
  | .nan => ⟨f.qnan, 4#4⟩
  | .inf neg => ⟨f.infinity neg, 0⟩
  | .fin neg m e =>
    if m = 0 then ⟨f.zero neg, 0⟩ else
    let sh := m.log2 + 1 - f.prec
    f.pack rm neg (roundShift rm neg r m sh) (e + sh)

/-- Rounding to nearest, ties to even: every arithmetic operation (R33). -/
def FFmt.rne (f : FFmt) (x : FVal) : Res := f.round .rne 0 x

/-- The integer ±m. -/
def signed (neg : Bool) (m : Nat) : Int := if neg then -(m : Int) else m

/-- The exact value of an integer times 2^e; a zero is +0 (R31). -/
def FVal.ofInt (i : Int) (e : Int) : FVal := .fin (i < 0) i.natAbs e

/-- Exact negation. -/
def FVal.neg : FVal → FVal
  | .nan => .nan
  | .inf n => .inf (!n)
  | .fin n m e => .fin (!n) m e

/-- Exact absolute value. -/
def FVal.abs : FVal → FVal
  | .nan => .nan
  | .inf _ => .inf false
  | .fin _ m e => .fin false m e

/-- The exact sum; an exact zero of operands of opposite sign is +0, and −0 + −0 is −0 (R31, R32). -/
def FVal.add : FVal → FVal → FVal
  | .nan, _ => .nan
  | _, .nan => .nan
  | .inf a, .inf b => if a = b then .inf a else .nan
  | .inf a, .fin .. => .inf a
  | .fin .., .inf b => .inf b
  | .fin na ma ea, .fin nb mb eb =>
    let e := min ea eb
    let s := signed na (ma * 2 ^ (ea - e).toNat) + signed nb (mb * 2 ^ (eb - e).toNat)
    if s = 0 then .fin (na && nb) 0 0 else .fin (s < 0) s.natAbs e

/-- The exact product; 0 × ∞ is a NaN (R32). -/
def FVal.mul : FVal → FVal → FVal
  | .nan, _ => .nan
  | _, .nan => .nan
  | .inf a, .inf b => .inf (a != b)
  | .inf a, .fin nb mb _ => if mb = 0 then .nan else .inf (a != nb)
  | .fin na ma _, .inf b => if ma = 0 then .nan else .inf (na != b)
  | .fin na ma ea, .fin nb mb eb => .fin (na != nb) (ma * mb) (ea + eb)

/-- Whether a value is a NaN. -/
def FVal.isNan (a : FVal) : Bool := a == .nan

/-- a < b; false with a NaN (R32). -/
def FVal.lt : FVal → FVal → Bool
  | .nan, _ => false
  | _, .nan => false
  | .inf a, .inf b => a && !b
  | .inf a, .fin .. => a
  | .fin .., .inf b => !b
  | .fin na ma ea, .fin nb mb eb =>
    let e := min ea eb
    signed na (ma * 2 ^ (ea - e).toNat) < signed nb (mb * 2 ^ (eb - e).toNat)

/-- a = b; false with a NaN, and zeros of either sign are equal (R32). -/
def FVal.eq (a b : FVal) : Bool := !a.isNan && !b.isNan && !a.lt b && !b.lt a

/-- The two's-complement value of the low n bits of a word. -/
def sintOf (n w : Nat) : Int := let u := w % 2 ^ n; if 2 * u < 2 ^ n then u else (u : Int) - 2 ^ n

/-- The low n bits of an integer (R25). -/
def wrapInt (n : Nat) (i : Int) : Nat := (i % (2 ^ n : Int)).toNat

/-- The width in bits of an element type (R24). -/
def etBits (et : Nat) : Nat := 8 * etBytes et

/-- Whether an element type of codes 0 to 5 is signed (R24). -/
def etSigned (et : Nat) : Bool := et = 0 ∨ et = 2 ∨ et = 4

/-- Whether an element type is floating (R24). -/
def etFloat (et : Nat) : Bool := et = 6 ∨ et = 7

/-- The floating format of an element type (R24). -/
def etFmt (et : Nat) : FFmt := if et = 6 then fmt16 else fmt32

/-- The integer that an integer element stands for (R24). -/
def etInt (et w : Nat) : Int := if etSigned et then sintOf (etBits et) w else (w % 2 ^ etBits et : Nat)

/-- The least and greatest values of an integer element type (R24). -/
def etMin (et : Nat) : Int := if etSigned et then -(2 ^ (etBits et - 1) : Int) else 0
/-- The greatest value of an integer element type (R24). -/
def etMax (et : Nat) : Int := if etSigned et then 2 ^ (etBits et - 1) - 1 else 2 ^ etBits et - 1

/-- sat(): the clamp to an integer element type, and the SAT flag when it changed the value (R25). -/
def satTo (et : Nat) (i : Int) : Res :=
  let c := max (etMin et) (min (etMax et) i)
  ⟨wrapInt (etBits et) c, if c = i then 0 else 2#4⟩

/-- rne(x ÷ 2^s) of an exact integer (R26). -/
def rneShift (x : Int) (s : Nat) : Int := signed (x < 0) (roundShift .rne (x < 0) 0 x.natAbs s)

/-- A narrowing with a right shift (R26). -/
def narrowTo (et : Nat) (x : Int) (s : Nat) : Res := satTo et (rneShift x s)

/-- A conversion to an integer type: rounded at the units place, then saturated; a NaN converts to 0 (R36). -/
def FVal.toIntType (et : Nat) (rm : Rm) (r : Nat) : FVal → Res
  | .nan => ⟨0, 4#4⟩
  | .inf neg => ⟨wrapInt (etBits et) (if neg then etMin et else etMax et), 2#4⟩
  | .fin neg m e =>
    let q := if 0 ≤ e then m * 2 ^ e.toNat else roundShift rm neg r m (-e).toNat
    satTo et (signed neg q)

/-- Whether an element's encoding differs from those of +0 and −0 (R42). -/
def nonzeroElem (et w : Nat) : Bool :=
  let u := w % 2 ^ etBits et
  if etFloat et then u % 2 ^ (etBits et - 1) != 0 else u != 0

/-- A trit. -/
abbrev Trit := Int

/-- The five trits of a byte and the invalid-code flag (R29). -/
def tritsOf (b : Nat) : List Trit × Bool :=
  if 242 < b then ([0, 0, 0, 0, 0], true)
  else ((List.range 5).map (fun i => (b / 3 ^ i % 3 : Nat) - 1), false)

/-- Trit k of a sequence of t5 bytes (R28). -/
def tritAt (byte : Nat → Nat) (k : Nat) : Trit := (tritsOf (byte (k / 5))).1.getD (k % 5) 0

/-- The t5 byte of five trits (R28). -/
def t5Byte (ts : List Trit) : Nat :=
  ((List.range 5).map fun i => (ts.getD i 0 + 1).toNat * 3 ^ i).sum

/-- One step of the Galois generator: the output bit and the register after it (R34). -/
def lfsrStep (s : Word) : Nat × Word :=
  let out := s.toNat % 2
  (out, if out = 1 then (s >>> 1) ^^^ 0x80200003#32 else s >>> 1)

/-- The steps of a draw with the bits so far (R34). -/
def lfsrBits : Nat → Nat → Word → Nat × Word
  | 0, r, s => (r, s)
  | n + 1, r, s => let (o, s') := lfsrStep s; lfsrBits n (2 * r + o) s'

/-- One draw: 16 bits, first output bit highest (R34). -/
def lfsrDraw (s : Word) : Nat × Word := lfsrBits 16 0 s

/-- The value of an mx8 element: q × 2^(e−127−6), NaN with scale 0xFF, and code 0x80 read as −2 × 2^(e−127) (R38, R39). -/
def mx8Val (q e : Nat) : FVal :=
  if e = 255 then .nan else FVal.ofInt (sintOf 8 q) ((e : Int) - 133)

/-- A binary tree of results: each level combines neighbours (R44); the fuel bounds the levels. -/
def treeFold (f : Nat → Nat → Nat) : Nat → List Nat → Nat
  | 0, xs => xs.headD 0
  | k + 1, xs =>
    treeFold f k ((List.range ((xs.length + 1) / 2)).map fun i =>
      match xs[2 * i]?, xs[2 * i + 1]? with
      | some a, some b => f a b
      | some a, none => a
      | none, _ => 0)

end Sys2Proof.Machine
end

