-- ==== Sys2Proof/Config.lean ====
section
/-! DEFINITION. What the spec leaves open, as constants without a body, so that nothing can be proved of their values. -/

namespace Sys2Proof.Config

/-- Which of n candidates moves next, for the k-th choice: the order in which the part's agents act is not fixed by the
spec (R72 orders only the contexts of one core; R95 and R187 only one channel). Taken modulo n where it is used. (DESIGN CHOICE, log 4). -/
opaque choice : Nat → Nat → Nat

/-- A free word, for the k-th value that the spec leaves open. (DESIGN CHOICE, log 47). -/
opaque freeWord : Nat → Word

/-- The hash of row i of a slice's sketch, for a context and a line (R211 says only that each row has its own). Taken modulo
1,024 where it is used. (DESIGN CHOICE, log 7). -/
opaque sketchHash : Nat → Nat → Nat → Nat

/-- The set of the pin partition for a context and a line (R212 does not say how it is chosen). (DESIGN CHOICE, log 7). -/
opaque pinSet : Nat → Nat → Nat

/-- The SHA3-512 digest of bytes, which the spec takes from outside itself (R313). (DESIGN CHOICE, log 57). -/
opaque sha3 : List Byte → List Byte

/-- Whether an ML-DSA-87 signature verifies under a key over a digest, which the spec takes from outside itself (R313): the key, the
digest, the signature. (DESIGN CHOICE, log 57). -/
opaque mldsaVerifies : List Byte → List Byte → List Byte → Bool

/-- The ML-DSA-87 signature that a firmware complex makes over bytes, which the spec takes from outside itself (R368, R373): whether the
complex is the second of the two, and the bytes. (DESIGN CHOICE, log 57). -/
opaque mldsaSign : Bool → List Byte → List Byte

end Sys2Proof.Config
end

