-- ==== Sys2Proof/Machine/State.lean ====
section
/-! DEFINITION. The state of the whole part as plain data, the reasons a step can stop, and the state after power-on. -/

namespace Sys2Proof.Machine

/-- Records by number, keys strictly rising. -/
abbrev SMap (α : Type) := List (Nat × α)

/-- Bytes by address in canonical form: addresses strictly rising, no entry equal to the byte 0 that an unlisted address
reads as (R76 for local memory; assumption 3 for vault and LPDDR memory). (DESIGN CHOICE, log 3). -/
abbrev Mem := List Host.Cell

/-! ## A task context (R46 to R52, R72 to R77) -/

/-- Why a task context is stalled (R72). -/
inductive Stall where
  /-- The instruction at pc is issued again once something has changed: a pending register, a field of ocnt, a fence, a
  WAITO, a port read, room of any kind. -/
  | retry
  /-- A wait parked at its owner, which completes it: a full/empty word or a barrier, with the wait's number (R91, R226). -/
  | parked (wait : Nat)
  /-- The answer to an issued operation is on its way: ENQ, a SEND header, a remote barrier operation. -/
  | answer
  /-- IDLE (R110). -/
  | idle
  /-- An access in the pager's hands while status.VL = 1 or in a handed-over form that cannot park (R170). -/
  | pager
  deriving DecidableEq, Repr

/-- The states of a task context (R77), and the state after HALT or HALTR, out of the free list (R188). -/
inductive Run where
  | free | running | stalled (why : Stall) | left
  deriving DecidableEq, Repr

/-- The five outstanding counts of ocnt (R50, R74), and how many of the loads are atomics (R97, R105). -/
structure Ocnt where
  loads  : Nat := 0
  stores : Nat := 0
  copies : Nat := 0
  cmds   : Nat := 0
  msgs   : Nat := 0
  atomics : Nat := 0
  deriving DecidableEq, Repr

/-- A task context (R46, R48, R50). -/
structure TaskCtx where
  run      : Run := .free
  x        : Vector Word 16 := Vector.replicate 16 0#32
  v        : Vector Vec 8 := Vector.replicate 8 0#256
  p        : Vector Word 4 := Vector.replicate 4 0#32
  tm       : Vector (Option Rec) 16 := Vector.replicate 16 none
  pc       : Word := 0#32
  svl      : Bool := false
  vl       : Bool := false
  trapMode : Bool := false
  causeA   : Bool := false
  causeCode : BitVec 7 := 0#7
  epc      : BitVec 24 := 0#24
  tval     : Word := 0#32
  tvec     : BitVec 24 := 0#24
  tscratch : Word := 0#32
  kslot    : BitVec 2 := 0#2
  instret  : Word := 0#32
  ocnt     : Ocnt := {}
  lc       : Vector Word 2 := Vector.replicate 2 0#32
  ls       : Vector Word 2 := Vector.replicate 2 0#32
  le       : Vector Word 2 := Vector.replicate 2 0#32
  vstat    : BitVec 4 := 0#4
  lfsr     : Word := 1#32
  xc       : Word := 0#32
  xn       : Word := 0#32
  pctl     : Bool := false
  pstat    : BitVec 2 := 0#2
  pnz      : Word := 0#32
  pcyc     : Word := 0#32
  fetmo    : Word := 0x000F4240#32
  cp       : Vector Word 9 := Vector.replicate 9 0#32
  gp       : Vector Word 7 := Vector.replicate 7 0#32
  tokens   : List Token := []
  cmdSeq   : BitVec 16 := 0#16
  /-- Transfer slots whose records stand in cq, and slots whose faults are held, oldest first (R200, R202). -/
  cq       : List Nat := []
  held     : List Nat := []
  traps    : List Trap := []
  pendX    : BitVec 16 := 0#16
  pendV    : BitVec 8 := 0#8
  faultX   : SMap Trap := []
  faultV   : SMap Trap := []
  acquires : Nat := 0
  /-- The running task's frame reference and NF (R168). -/
  frame    : Word := 0#32
  nf       : Bool := true
  /-- The instruction at pc is a CPWAIT or CPCANCEL that has begun to wait (R203). -/
  waiting  : Bool := false
  /-- The part that the task came from, when not this one, and the group there (R271). -/
  origin   : Option (Nat × Nat) := none
  /-- A REMOTE follow access was made: the part that the task migrates to at the next boundary (R271). -/
  follow   : Option Nat := none
  deriving DecidableEq, Repr

/-! ## The handler context, the deque and the mailbox (R177 to R185) -/

/-- The handler context (R46, R184). (DESIGN CHOICE, log 20). -/
structure Handler where
  running : Bool := false
  x       : Vector Word 16 := Vector.replicate 16 0#32
  pc      : Word := 0#32
  kslot   : BitVec 2 := 0#2
  cls     : BitVec 6 := 0#6
  entry   : Nat := 0
  budget  : Nat := 0
  instret : Word := 0#32
  /-- Its own SENDAM, RSW and RSWF messages that the network has not yet accepted (R184, R185), and its remote stores
  not yet acknowledged (R105). -/
  unsent  : Nat := 0
  unacked : Nat := 0
  /-- Negative answers held for the next instruction that it issues (R94, R186). -/
  traps   : List Trap := []
  deriving DecidableEq, Repr

/-- The deque controller of a core (R177 to R179). -/
structure Deque where
  top      : BitVec 16 := 0#16
  bottom   : BitVec 16 := 0#16
  reserved : Bool := false
  g        : BitVec 16 := 1#16
  /-- The round in progress: its first candidate r, how many have been asked, and whether every reply was empty (R179). -/
  round    : Option (Nat × Nat × Bool) := none
  /-- The task context that waits for the steal reply (false is tc0). -/
  thief    : Option Bool := none
  /-- The 512-cycle wait after a round of empty replies. -/
  backoff  : Bool := false
  deriving DecidableEq, Repr

/-! ## A core (R72 to R77, R88, R191, R229) -/

/-- The states of a core (R75). -/
inductive Power where
  | off | holding | binding | bound | reserved | saving
  deriving DecidableEq, Repr

/-- A line of the L1 data cache, 32 bytes (R406). -/
structure L1Line where
  ctx   : Nat
  line  : Nat
  bytes : List Byte
  deriving DecidableEq, Repr

/-- A participant of a dissemination barrier: a core of this part, or a rank in another part's group of a context and a binary (R229). -/
inductive Partner where
  | core (k : Nat)
  | there (part ctx handle rank : Nat)
  deriving DecidableEq, Repr

/-- A dissemination context (R229, R230). -/
structure Dissem where
  episode : Word := 0#32
  round   : Nat := 0
  running : Bool := false
  /-- Held notifications by episode bit and round (R230, R231). -/
  held    : List (Bool × Nat) := []
  /-- The episode that runs: the span, its participants and the own index as its DBAR found them, the issuer's context, and its
  destination register. -/
  span    : Nat := 0
  members : List Partner := []
  index   : Nat := 0
  ctx     : CtxSel := .tc0
  rd      : BitVec 4 := 0#4
  deriving DecidableEq, Repr

/-- The states of a transfer slot (R192). -/
inductive SlotState where
  | free | active | ended | saved
  deriving DecidableEq, Repr

/-- The kinds of transfer: a copy, a gather, a scatter-add, and a clasp SEND (R191, R347). -/
inductive TKind where
  | copy | gather | scatterAdd | send
  deriving DecidableEq, Repr

/-- How far a SEND's header has come (R345 to R348): held back by an earlier one of its channel, on its way, answered RNR, on its way again,
or admitted. -/
inductive SendPhase where
  | held | asking | rnr | resending | admitted
  deriving DecidableEq, Repr

/-- Where an element of a transfer stands: an address of the issuer's local memory, a virtual address, or nowhere valid (R196). -/
inductive Spot where
  | loc (a : Nat)
  | va (a : Nat)
  | none
  deriving DecidableEq, Repr

/-- A transfer slot of a core (R191, R192, R200). -/
structure Transfer where
  state  : SlotState := .free
  gen    : BitVec 8 := 0#8
  /-- The slot has been launched since bind (R191). -/
  launched : Bool := false
  kind   : TKind := .copy
  /-- The issuing task context (false is tc0). -/
  tc     : Bool := false
  /-- The shadow set as launched: nine words of cp or seven of gp (R199, R207); for a SEND its words (R347). -/
  sh     : List Word := []
  /-- The maps at launch: source or table, destination, and the vault form's barrier slot. -/
  srcMap : Option Rec := none
  dstMap : Option Rec := none
  barMap : Option Rec := none
  chunks : Nat := 0
  /-- Chunks credited, and chunks whose arrival is on its way to the barrier's owner (R198, R204). -/
  done   : List Nat := []
  sent   : List Nat := []
  /-- Rows requested with their index-list entries, and rows that have landed or been added (R207, R208). -/
  asked  : SMap Nat := []
  landed : List Nat := []
  /-- The row requests by number, row + 65,536 × the part of the row: first column, columns, and the owner core of a LOCALWIN part;
  those sent, those that have landed, and those that their owner core has received (R208, R320). -/
  pieces : SMap (Nat × Nat × Option Nat) := []
  issued : List Nat := []
  landedPieces : List Nat := []
  heard  : List Nat := []
  /-- What has been read and is still to be written, by chunk of a copy or request of a gather, with the flags of its conversion (R201,
  R249). -/
  writes : SMap (BitVec 4 × List (Spot × List Byte)) := []
  /-- Those of them that are written in part, with the memory lines that they have touched (R211, R249). -/
  begun  : SMap (List Nat) := []
  /-- Chunks that faulted, which are never credited (R201). -/
  lost   : List Nat := []
  fault  : Option (Cause × Word) := none
  cancelled : Bool := false
  stopReq : Bool := false
  /-- OVF, NAN, SAT and IWC as collected (R197, R200), in the places of vstat. -/
  flags  : BitVec 4 := 0#4
  /-- The held fault is undelivered; the record stands in cq (R192, R202). -/
  undelivered : Bool := false
  inCq   : Bool := false
  /-- The engine's stochastic generator (R197). -/
  lfsr   : Word := 0#32
  /-- Launch order among the part's transfers (R198, R199). -/
  order  : Nat := 0
  /-- Of a SEND: its destination register, its header, how far that has come, and what the slot was before it took it (R347). -/
  rd     : BitVec 4 := 0#4
  header : Option Header := none
  phase  : SendPhase := .asking
  before : Bool × Bool := (false, false)
  deriving DecidableEq, Repr

/-- A core (R72, R75, R88). -/
structure Core where
  power  : Power := .off
  group  : Nat := 0
  ctxid  : Nat := 0
  rank   : Nat := 0
  gsize  : Nat := 0
  tc0    : TaskCtx := {}
  tc1    : TaskCtx := {}
  hd     : Handler := {}
  /-- The preferred task context: the one that issued most recently, or the other after YIELD (false is tc0; R72). -/
  pref   : Bool := false
  /-- The cycles for which the divider is still busy, in which a task context may wait for it (R72, R111). -/
  divider : Nat := 0
  /-- Local memory by address 0 to 0x7FFF, and its words whose full/empty bit is set (R88). -/
  lm     : Mem := []
  fe     : List Nat := []
  /-- Words that a task context has written through the private alias since its last FENCE with LB, with what they held before: a
  loop-back read of that context may still return it (R245). -/
  aged   : List (CtxSel × Nat × Word) := []
  /-- Full/empty operations and barrier waits parked at this core's words, oldest first (R91, R226). -/
  parkedFe  : List FeMsg := []
  parkedBar : List BarMsg := []
  dq     : Deque := {}
  /-- The mailbox ring: first held entry and how many are held (R184). -/
  mbHead  : Nat := 0
  mbCount : Nat := 0
  msgSeq : BitVec 20 := 0#20
  /-- Frames whose waiter slot holds a waiter that has not been pushed, by byte address (R171, R189). -/
  waiters : List Nat := []
  cycle  : BitVec 64 := 0#64
  cycleLatch : Word := 0#32
  wp     : Vector Word 4 := Vector.replicate 4 0#32
  hbase  : Word := 0#32
  hbudget : BitVec 16 := 256#16
  slots  : SMap Transfer := []
  dissem : Vector Dissem 4 := Vector.replicate 4 {}
  /-- What the deliveries gave the records of the deque, by entry (R268, R271). -/
  marks  : SMap Mark := []
  /-- The launch bindings (R101). -/
  launchTm : Vector (Option Rec) 16 := Vector.replicate 16 none
  l1     : List L1Line := []
  /-- The 32-byte units that plain reads which the host or another part performs may still fill: the request's number, the context and the
  unit. An acquire, a fence or a write of the core to the unit takes one out (R104, R244, R406). -/
  l1Fills : List (Nat × Nat × Nat) := []
  /-- Writes of the other task context that a task context has read in the L1 before they were performed, by their place (R236). -/
  seen   : List (CtxSel × Nat) := []
  /-- The slot of the later HALTR (R75, R188). -/
  succ   : Option (BitVec 2) := none
  deriving DecidableEq, Repr

/-! ## The prism array of a cluster (R138 to R149) -/

/-- An array command in a bank's stream: its issuer, sequence number, instruction, and what it took at issue (R143). -/
structure ArrayCmd where
  src   : Issuer
  seq   : BitVec 16
  op    : Instr
  map   : Option Rec
  index : Word
  trapIwc : Bool
  /-- The rank and size of the issuer's group, for the view (R99), and its rectangle for PRT (R331). -/
  rank  : Nat
  gsize : Nat
  group : Nat
  /-- Its place among the commands that its array has accepted (R148). -/
  order : Nat := 0
  /-- Of a PRT that has sent its tiles and waits for its neighbours': its step (R159). -/
  step  : Option Nat := none
  deriving DecidableEq, Repr

/-- A landed PRT tile: the group whose PRT sent it, its step, whether it is the weight tile, and its bytes (R159). -/
structure Landing where
  group : Nat
  step : Nat
  toW  : Bool
  tile : Mem
  deriving DecidableEq, Repr

/-- A tile bank with its stream, its lease queue and its PRT state (R138, R143, R149, R159). -/
structure Bank where
  owner  : Option Nat := none
  m      : Vector Mem 8 := Vector.replicate 8 []
  mcfg   : Vector Word 8 := Vector.replicate 8 0#32
  stream : List ArrayCmd := []
  leases : List (Issuer × Nat) := []
  held   : Option (Issuer × Nat) := none
  prtStep : Nat := 0
  landings : List Landing := []
  deriving DecidableEq, Repr

/-- A cluster: its slot table and its two banks (R147). -/
structure Cluster where
  pslot : Vector (BitVec 2) 16 := Vector.replicate 16 0#2
  pslen : BitVec 16 := 0x0FFF#16
  slot  : Nat := 0
  bank0 : Bank := {}
  bank1 : Bank := {}
  deriving DecidableEq, Repr

/-! ## Binaries, groups and contexts (R275, R311, R322, R327, R335) -/

/-- A node of a loaded binary (R312). -/
structure Node where
  name      : List Word := []
  code      : List Byte := []
  /-- The pages of the code segment have X (R262). -/
  exec      : Bool := true
  entry     : Nat := 0
  trapEntry : Nat := 0
  shape     : Word := 0#32
  handlers  : List Word := []
  templates : List Rec := []
  /-- An ARM packet holds a LAUNCH image of the node (R322). -/
  armed     : Bool := false
  deriving DecidableEq, Repr

/-- An edge of the edge table (R312, R333). -/
structure Edge where
  producer : Nat
  consumer : Nat
  depth    : Nat
  deriving DecidableEq, Repr

/-- A patch point (R312). -/
structure Patch where
  node   : Nat
  size   : Nat
  data   : Bool
  offset : Nat
  va     : Nat
  arg    : Nat
  deriving DecidableEq, Repr

/-- A loaded binary (R311 to R313) with its domain-set table (R371). -/
structure Binary where
  loaded   : Bool := false
  ctx      : Nat := 0
  nodes    : List Node := []
  edges    : List Edge := []
  patches  : List Patch := []
  /-- Mapped regions: virtual address and size (R313). -/
  regions  : List (Nat × Nat) := []
  features : BitVec 128 := 0#128
  keyIndex : Word := 0#32
  withdrawn : Bool := false
  /-- The domain-set table in list order: part, context ID and handle there (R229, R371). -/
  dset     : List (Nat × Nat × Nat) := []
  /-- An unload of it is under way (R371). -/
  unloading : Bool := false
  deriving DecidableEq, Repr

/-- The states of a group (R335). -/
inductive GState where
  | none | requested | binding | resident | running | preempting | saved | faulted | released
  deriving DecidableEq, Repr

/-- The states of a launch's kernel from its dispatch (R322). -/
inductive KState where
  | queued | placed | running | draining | complete | faulted | aborted
  deriving DecidableEq, Repr

/-- A core's message counters in its group, which its network interface keeps after the core has left (R320, R321). -/
structure Counts where
  sent     : Word := 0#32
  received : Word := 0#32
  wrapped  : Bool := false
  deriving DecidableEq, Repr

/-- A group with its launch (R322, R327, R335). -/
structure Group where
  state  : GState := .none
  kernel : KState := .queued
  ctx    : Nat := 0
  queue  : Nat := 0
  index  : Word := 0#32
  counted : Bool := false
  handle : Nat := 0
  nodes  : Word := 0xFFFFFFFF#32
  shape  : Word := 0#32
  args   : List Word := []
  signal : Option (Nat × BitVec 64) := none
  bank   : Bool := false
  slots  : Nat := 0
  origin : Nat := 0
  /-- The bound cores in rank order, which is ascending coreid (R328). -/
  cores  : List Nat := []
  counts : SMap Counts := []
  /-- Pipes: ring address and depth, in edge-table order (R333). -/
  pipes  : List (Nat × Nat) := []
  /-- Termination waves (R321): number, whether one is in flight, its answers so far and the previous sums. -/
  wave   : Nat := 0
  waveOn : Bool := false
  answered : Nat := 0
  sumIdle  : Bool := true
  sumSent  : Word := 0#32
  sumRecv  : Word := 0#32
  sumWrap  : Bool := false
  lastWave : Option (Bool × Word × Word) := none
  /-- The block queue: the next index and the bezel cores marked (R363). -/
  bq     : Nat := 0
  bqMarks : List Nat := []
  /-- A pre-emption requested before RUNNING (R336), its reason, and the resume image of the cores (R286 to R289). -/
  preemptHeld : Bool := false
  /-- BINDING by a record with RS = 1 (R335). -/
  restoring : Bool := false
  image  : SMap Core := []
  /-- The saved tile banks by cluster, and whether the images have been spilled (R286, R290). -/
  banks  : SMap Bank := []
  spilled : Bool := false
  /-- The save-layout version of the saved image (R286, R288). -/
  version : BitVec 8 := 3#8
  /-- The free values of the saved image: the count at which they begin (R286 to R288). -/
  seed   : Nat := 0
  /-- The error that a saved image or one of its entries will show at resume, with its tval (R289). -/
  flaw   : Option (Cause × Word) := none
  /-- Messages, replies and wakes for its cores that are held until it resumes, and those released at its last resume (R285). -/
  heldMsgs : List Event := []
  released : List Event := []
  deriving DecidableEq, Repr

/-- The states of a context (R275, R277). -/
inductive CState where
  | free | loading | ready | running | preempting | saved | spilled | faulted | terminated
  deriving DecidableEq, Repr

/-- The number of a context state in its record (R275). -/
def CState.code : CState → Nat
  | .free => 0
  | .loading => 1
  | .ready => 2
  | .running => 3
  | .preempting => 4
  | .saved => 5
  | .spilled => 6
  | .faulted => 7
  | .terminated => 8

/-- A part of a context's save area as firmware last wrote it: an image by its cluster, or the entries of a group; its offset, its bytes,
and, of entries, the record that each one of a SAVED transfer holds (R288, R290, R291). (DESIGN CHOICE, log 44). -/
structure AreaPart where
  image : Bool
  id    : Nat
  off   : Nat
  bytes : List Byte
  records : List (Option Word) := []
  deriving DecidableEq, Repr

/-- A context record (R275), with what firmware keeps beside it: quota and share (R371), access-control entries, and the
follow table (R271). -/
structure Context where
  state   : CState := .free
  dl      : Bool := false
  root    : Nat := 0
  policy  : BitVec 2 := 0#2
  wdog    : BitVec 16 := 0#16
  feat    : BitVec 128 := 0#128
  save    : Nat := 0
  ssize   : Nat := 0
  layout  : BitVec 8 := 0#8
  rlcap   : Nat := 0
  urbase  : Nat := 0
  ursize  : Nat := 0
  aclbase : Nat := 0
  aclcnt  : Nat := 0
  quota   : Nat := 64
  share   : Nat := 8
  acl     : List Word := []
  trigBase : Nat := 0
  trigCnt  : Nat := 0
  /-- By home part: the context and the binary's handle there (R271, R371). -/
  follow  : SMap (Nat × Nat) := []
  /-- What its save area holds below the last 4 KiB (R291). -/
  area    : List AreaPart := []
  deriving DecidableEq, Repr

/-! ## Queues, hardware slots and the trigger table (R292 to R304, R323) -/

/-- The states of a queue (R294). -/
inductive QState where
  | disabled | idle | pending | bound | error | suspended
  deriving DecidableEq, Repr

/-- The number that STAT and w0 report (R294). -/
def QState.code : QState → Nat
  | .disabled => 0
  | .idle => 1
  | .pending => 2
  | .bound => 3
  | .error => 4
  | .suspended => 5

/-- A queue control block (R293). -/
structure Queue where
  state   : QState := .disabled
  ctxid   : BitVec 10 := 0#10
  prod    : Bool := false
  prio    : BitVec 4 := 0#4
  eff     : BitVec 4 := 0#4
  lsize   : BitVec 4 := 0#4
  base    : BitVec 48 := 0#48
  ri      : Word := 0#32
  wi      : Word := 0#32
  quota   : BitVec 4 := 0#4
  inflight : Nat := 0
  ecode   : BitVec 8 := 0#8
  eidx    : Word := 0#32
  edetail : Word := 0#32
  etime   : Word := 0#32
  age     : Word := 0#32
  msix    : BitVec 11 := 0#11
  kickdrop : Word := 0#32
  acldrop : Word := 0#32
  acl     : Vector Word 16 := Vector.replicate 16 0#32
  waitB   : Bool := false
  waitW   : Bool := false
  stale   : Word := 0#32
  /-- A DISABLE that waits for inflight = 0 (R294). -/
  disabling : Bool := false
  /-- A change of prio waits for the pass that it causes (R307). -/
  reprio   : Bool := false
  /-- Bound for an ageing quantum (R306), and bindings counted so that the one bound longest is known. -/
  eligible : Bool := false
  boundAt  : Nat := 0
  /-- When it became PENDING, in the order of such events (R306). -/
  pendingAt : Nat := 0
  /-- The index and packet of a dispatched SIGNAL whose write is under way (R299, R301). -/
  acting   : Option (Word × Rec) := none
  deriving DecidableEq, Repr

/-- A hardware queue slot's bind register, and whether it is stopping at the next packet boundary (R304, R305). -/
structure HwSlot where
  v     : Bool := false
  queue : Nat := 0
  eff   : BitVec 4 := 0#4
  ctxid : BitVec 10 := 0#10
  stopping : Bool := false
  deriving DecidableEq, Repr

/-- The states of a trigger entry (R323). -/
inductive TState where
  | free | armed | waiting
  deriving DecidableEq, Repr

/-- A trigger-table entry (R323). -/
structure Trigger where
  state  : TState := .free
  count  : Word := 0#32
  thresh : Word := 0#32
  queue  : BitVec 12 := 0#12
  image  : Rec := Vector.replicate 16 0#32
  deriving DecidableEq, Repr

/-- A COPY packet under way: its queue and index, the packet, and the bytes copied so far (R300). -/
structure HubCopy where
  queue : Nat
  idx   : Nat
  packet : Rec
  copied : Nat := 0
  deriving DecidableEq, Repr

/-! ## Pages and slices (R211, R212, R256, R266 to R271) -/

/-- A parked task: the core and group that it left, its record, and the failed access (R268). -/
structure Park where
  core  : Nat
  group : Nat
  ctx   : Nat
  record : Rec
  fail  : Option (Cause × Word) := none
  origin : Option (Nat × Nat) := none
  /-- The traps that the task held when it parked: asynchronous ones, and those that replies left at its registers (R94, R279). -/
  traps  : List Trap := []
  faults : SMap Trap := []
  deriving DecidableEq, Repr

/-- An access whose elements the host or another part performs, and those still to follow (R267). -/
structure Away where
  acc    : Access
  later  : List (Nat × Nat)
  /-- The home part; none for the host. -/
  home   : Option Nat
  follow : Bool
  deriving DecidableEq, Repr

/-- A page of the victim tier: where its 512-byte pieces are, how many are stored, the pieces recalled, and its poisoned sectors by
virtual address ÷ 32 (R266, R270). -/
structure Victim where
  ctx    : Nat
  va     : Nat
  places : List (Nat × Nat)
  stored : Nat := 0
  recalling : Bool := false
  recalled  : List Nat := []
  poison    : List Nat := []
  deriving DecidableEq, Repr

/-- A pinned line of a slice: its set and way, its context and VA[47:7], and its count (R212). -/
structure Pin where
  set   : Nat
  way   : Nat
  ctx   : Nat
  line  : Nat
  count : Nat
  deriving DecidableEq, Repr

/-- A line of a slice, 128 bytes of an LPDDR frame under the virtual address by which they were reached (R19, R265): its context and
VA[47:7], the frame's address, the granule code, its sectors' valid and dirty bits, the sectors poisoned (R266), and its bytes. -/
structure SLine where
  ctx    : Nat
  line   : Nat
  pa     : Nat
  gran   : Nat
  valid  : BitVec 4
  dirty  : BitVec 4
  poison : BitVec 4
  bytes  : List Byte
  deriving DecidableEq, Repr

/-- A slice (R14, R211, R212, R255, R256, R265, R270): its lines; the sketch by row × 1,024 + column, its class-2 requests and its pins; the
leaves that its translation cache holds, by context and page, each with its access count, the clock hand's place among them, and the
pointers that its pointer cache holds, by context, level and index prefix. -/
structure Slice where
  lines  : List SLine := []
  sketch : SMap Nat := []
  class2 : Nat := 0
  pins   : List Pin := []
  counts : List (Nat × Nat × Nat) := []
  hand   : Nat := 0
  ptrs   : List (Nat × Nat × Nat) := []
  deriving DecidableEq, Repr

/-- A request on the host port: its number, the host bus address, the size in bytes, and the bytes of a write or the
operation of an atomic (R267). -/
structure HostReq where
  id   : Nat
  addr : Nat
  size : Nat
  op   : AccOp
  deriving DecidableEq, Repr

/-- The engines that read and write global memory by themselves (R143, R191, R345): a bank's head command, a chunk or a row of
a transfer, a read of a sender's payload, a chunk of a landing, a barrier record, an eager payload, dispatch at a packet, a COPY,
a group's launch, an ENQ's image, an injected image, and a write of another part's access to a frame of this part. -/
inductive Engine where
  | array (cluster : Nat) (bank : Bool)
  | chunk (core slot chunk : Nat)
  | row (core slot row : Nat)
  | pull (part core slot chunk : Nat)
  | landing (id chunk : Nat)
  | barrier (ctx va : Nat)
  | send (core : Nat) (tc : Bool)
  | hub (queue idx : Nat)
  | copy (queue idx : Nat)
  | group (g : Nat)
  | enq (part core : Nat) (ctx : CtxSel)
  | inject (entry : Nat)
  | remote (part id : Nat)
  deriving DecidableEq, Repr

/-- What has come of a fetch; of a failure, the tval where it is not the address (R282). -/
inductive FetchAns where
  | none
  | data (bytes : List Byte)
  | fail (c : Cause) (v : Option Nat)
  deriving DecidableEq, Repr

/-- What an engine does at a piece of memory: a read, a write of bytes, or an addition to an element of a number format (R209). -/
inductive PieceOp where
  | read
  | write (bytes : List Byte)
  | add (fmt : Nat) (bytes : List Byte)
  deriving DecidableEq, Repr

/-- An engine's piece that the host or another part performs, or that has been performed while a later one waits: its number in its list,
its place and operation, and its answer (R153, R267). -/
structure Fetch where
  by_  : Engine
  nth  : Nat
  va   : Nat
  size : Nat
  op   : PieceOp
  home : Option Nat
  ans  : FetchAns := .none
  deriving DecidableEq, Repr

/-! ## The clasp engine (R345 to R359) -/

/-- An entry of a context's receive list: its generation, whether it is posted, matched or cancelled, the descriptor's words w0
to w7, the binding and the poster (R349, R350). -/
structure Receive where
  gen    : BitVec 4 := 0#4
  posted : Bool := false
  cancelled : Bool := false
  /-- Posting order. -/
  order  : Nat := 0
  words  : List Word := []
  map    : Option Rec := none
  /-- The binding of the slot that a vault-form barrier reference names. -/
  barMap : Option Rec := none
  rank   : Nat := 0
  gsize  : Nat := 0
  poster : Nat := 0
  group  : Nat := 0
  addr   : Nat := 0
  deriving DecidableEq, Repr

/-- A context's receive list, unexpected-message queue (oldest first), completion FIFO, and whether a note has been pushed since
the last RPOST that took a queued message (R350, R353, R356). -/
structure Clasp where
  list  : SMap Receive := []
  queue : List Header := []
  rq    : List Word := []
  noted : Bool := false
  deriving DecidableEq, Repr

/-- A message that lands in a receive's view: the context, the entry with its number, the header, the chunks credited and those
whose arrival is on its way, the chunks asked of the sender, its fault, whether the sender has stopped it, whether it still
occupies the unexpected region, whether no more of it will land, and whether w8 to w15 are written (R353 to R357). -/
structure Land where
  ctx    : Nat
  entry  : Nat
  recv   : Receive
  header : Header
  done   : List Nat := []
  sent   : List Nat := []
  asked  : List Nat := []
  fault  : Option Cause := none
  stopped : Bool := false
  queued : Bool := false
  ended  : Bool := false
  /-- Its place among the landings that have ended (R355). -/
  endAt  : Nat := 0
  told   : Bool := false
  deriving DecidableEq, Repr

/-- An entry of the forward-pending table: the part and the number of the request passed on, and where it was passed on to (R342). -/
structure Forward where
  part : Nat
  id   : Nat
  home : Nat
  deriving DecidableEq, Repr

/-! ## The hub's device registers and firmware (R366 to R379) -/

/-- The host-visible registers of the device (R366, R371) and the service state (R370). (DESIGN CHOICE, log 51). -/
structure Device where
  state   : BitVec 4 := 0#4
  step    : BitVec 16 := 0#16
  cr      : Bool := false
  ck      : Bool := false
  foffer  : BitVec 128 := 0#128
  faccept : BitVec 128 := 0#128
  wbase   : BitVec 64 := 0#64
  hbase   : BitVec 64 := 0#64
  ckptd   : BitVec 64 := 0#64
  ckstat  : BitVec 4 := 0#4
  ckcount : BitVec 16 := 0#16
  hcmd    : Vector Word 16 := Vector.replicate 16 0#32
  /-- The block of the command in hand, and the opcode and status of the last one. -/
  block   : Vector Word 16 := Vector.replicate 16 0#32
  busy    : Bool := false
  /-- The command has begun and waits for what it started: a context to be FREE, a binary to have no launch in flight. -/
  begun   : Bool := false
  opcode  : BitVec 8 := 0#8
  status  : BitVec 8 := 0#8
  hres0   : Word := 0#32
  hres1   : Word := 0#32
  hcmdvec : Word := 0#32
  /-- The MSI-X table but for its mask bits, by offset in BAR0; the mask bits and the pending-bit array, a bit for each vector (R365).
  (PRESUMED, log 31). -/
  msixMem : Mem := []
  msixMask : BitVec 2048 := BitVec.allOnes 2048
  msixPend : BitVec 2048 := 0#2048
  /-- The reads of a checkpoint descriptor under way, oldest first, by the number of the request (R376, R377). -/
  ckptReads : List Nat := []
  deriving DecidableEq, Repr

/-- The role of the standby complex (R372). -/
inductive Role where
  | standby | loading | importing
  deriving DecidableEq, Repr

/-- How an update ended (R372). -/
inductive UpdateStatus where
  | none | done | refused | signature | handoverLayout | stateVersion | timeout
  deriving DecidableEq, Repr

/-- The lifetime records (R375), counters by index: channels, ports, dies, structures, bins. (DESIGN CHOICE, log 32).
(DESIGN CHOICE, log 51). -/
structure Records where
  corrected : SMap Nat := []
  uncorrectable : SMap Nat := []
  soft      : SMap Nat := []
  retrains  : SMap Nat := []
  flits     : SMap Nat := []
  droops    : SMap Nat := []
  causes    : SMap Nat := []
  heat      : SMap Nat := []
  supply    : SMap Nat := []
  /-- Periods of ten minutes of operation, and power cycles. -/
  tenMinutes : Nat := 0
  cycles    : Nat := 0
  handovers : Nat := 0
  deriving DecidableEq, Repr

/-- A measurement answer (R373): the five measurements, the complex that sent it, the second of the two or not, and its signature. -/
structure SpdmAnswer where
  active  : BitVec 512
  prior   : BitVec 512
  version : Nat
  seq     : BitVec 64
  feats   : BitVec 128
  second  : Bool
  signature : List Byte
  deriving DecidableEq, Repr

/-- The sensors' last readings: the rails, numbered as R378 lists them, and the dies' temperatures (R368). (DESIGN CHOICE, log 32). -/
structure Sensors where
  rails : SMap Nat := []
  temps : SMap Nat := []
  deriving DecidableEq, Repr

/-- The firmware complexes (R372, R373): the active and prior images' digests, the state-table version, the hand-over sequence
number, the update in hand, the measurement requests held, and whether the active complex answers (R368). (DESIGN CHOICE, log 51). -/
structure Firmware where
  active  : BitVec 512 := 0#512
  prior   : BitVec 512 := 0#512
  version : Nat := 0
  seq     : BitVec 64 := 0#64
  role    : Role := .standby
  image   : Option FwImage := none
  update  : UpdateStatus := .none
  heldSpdm : Nat := 0
  /-- Whether the second of the two complexes is the active one. -/
  second  : Bool := false
  /-- Measurement answers sent (R373). -/
  spdmOut : List SpdmAnswer := []
  sensors : Sensors := {}
  /-- PLDM answers sent: the request's number, whether the standby served it, the counters and the sensors that it gives (R368, R375). -/
  pldmOut : List (Nat × Bool × Records × Sensors) := []
  standbyServes : Bool := false
  revoked : List Nat := []
  deriving DecidableEq, Repr

/-- A target of a checkpoint: the port and the part beside it, its base, its limit and the bytes written to it (R377). -/
structure CkptTarget where
  port  : Nat
  part  : Nat
  base  : Nat
  limit : Nat
  written : Nat := 0
  deriving DecidableEq, Repr

/-- A checkpoint that runs: the descriptor's FULL and tag, its targets in ascending port number, and whether every record has been sent, so
that only the targets' acknowledgements are awaited (R377). -/
structure Ckpt where
  full  : Bool
  tag   : BitVec 64
  ports : List CkptTarget
  streamed : Bool := false
  deriving DecidableEq, Repr


/-! ## The part -/

/-- Who moves next: the context of State.who, an event that the state enables, or the pending event at an index. -/
inductive Turn where
  | context
  | event (e : Event)
  | pending (k : Nat)
  deriving DecidableEq, Repr

/-- The state of the part. -/
structure State where
  /-- The task or handler context whose turn it is when turn = context. -/
  who      : Issuer := ⟨0, .tc0⟩
  turn     : Turn := .event .coreClockCycle
  /-- The event that is being performed. -/
  now      : Option Event := none
  /-- Messages in flight and outside inputs, oldest first. -/
  pending  : List Event := []
  /-- How many free values have been used. -/
  freeCount : Nat := 0
  /-- The number of the next wait. -/
  waitCount : Nat := 0
  /-- The sequence numbers of messages of built-in classes on their way (R181). -/
  seqs     : List (Event × BitVec 20) := []
  cores    : SMap Core := []
  clusters : SMap Cluster := []
  groups   : SMap Group := []
  nextGroup : Nat := 1
  contexts : SMap Context := []
  binaries : SMap Binary := []
  queues   : SMap Queue := []
  hwSlots  : SMap HwSlot := []
  bindCount : Nat := 0
  /-- The ageing quantum in µs, how many queues have become PENDING, and the hardware slot whose turn is next (R304, R306). -/
  quantum  : Nat := 100
  pendCount : Nat := 0
  hwTurn   : Nat := 0
  launchCount : Nat := 0
  triggers : SMap Trigger := []
  /-- Physical memory of LPDDR and VAULT kinds by address (R17). -/
  phys     : Mem := []
  /-- 64-bit count of escalations (R280), and the field counters by cause code (R282). -/
  faultSeq : BitVec 64 := 0#64
  counters : SMap Nat := []
  /-- The part's own address (R337), and what it has sent to other parts, oldest first, with their addresses and detour bits (R338, R343). -/
  partAddr : Nat := 0
  fabricOut : List (Nat × Bool × FabReq) := []
  /-- Requests under way to other parts that nothing else here names, oldest first (R338, R339). -/
  flight   : List (Nat × FabReq) := []
  /-- MSI-X vectors raised, oldest first. -/
  msix     : List Nat := []
  /-- Accesses in the pager's hands in the order of reaching it, parked tasks, what the pager has been asked for, which engines wait for it
  by context and page, and for which of them it has failed (R267 to R269, R274). -/
  pagerAccs : List Access := []
  parks    : SMap Park := []
  pagerAsks : List (Nat × Nat) := []
  engineAsks : List (Engine × Nat × Nat) := []
  pagerFailed : List (Engine × Nat × Nat) := []
  /-- Accesses that the host or another part performs, and the host port (R17, R267). -/
  away     : SMap Away := []
  hostBase : BitVec 64 := 0#64
  hostUp   : Bool := true
  hostOut  : List HostReq := []
  victims  : List Victim := []
  slices   : SMap Slice := []
  pinThreshold : BitVec 8 := 0#8
  /-- Poisoned 32-byte sectors of LPDDR, by address ÷ 32 (R266). -/
  poison   : List Nat := []
  /-- What engines have asked of the host and of other parts, by request number (R267). -/
  fetches  : SMap Fetch := []
  /-- The clasp engine by context, and the landings under way. -/
  clasps   : SMap Clasp := []
  lands    : SMap Land := []
  /-- Barrier waits parked at vault records, oldest first (R215, R226). -/
  vaultParks : List BarMsg := []
  /-- The route table (R337): the size of each dimension and whether it wraps; the destinations with the detour bit; the ports out
  of service, ring ports as 8 and 9 (R339, R344); the ring peers. -/
  dims     : Vector Nat 4 := Vector.replicate 4 1
  wraps    : Vector Bool 4 := Vector.replicate 4 false
  detours  : List Nat := []
  portsDown : List Nat := []
  ringPeers : Vector (Option Nat) 2 := Vector.replicate 2 none
  /-- The forward-pending table, the oldest age refused (R342), and the frames whose home has moved: base, size, new home, new
  base. -/
  forwards : SMap Forward := []
  refusedAge : Option Nat := none
  moved    : List (Nat × Nat × Nat × Nat) := []
  /-- The accepted feature set (R369), the committed BAR2 base (R367), and the ECC32C setting (R264). -/
  feats    : BitVec 128 := 0#128
  barBase  : BitVec 64 := 0#64
  ecc32c   : Bool := false
  /-- The provisioned keys by index (R313). -/
  keys     : SMap (List Byte) := []
  device   : Device := {}
  firmware : Firmware := {}
  records  : Records := {}
  flash    : Records := {}
  ckpt     : Option Ckpt := none
  /-- Each die's clock in units of 0.1 GHz (R379). -/
  clocks   : SMap Nat := []
  /-- COPY packets under way (R300). -/
  hubCopies : List HubCopy := []
  /-- Physical ranges in use by a context's pages: the frames that firmware has found for them, by base and size (R371). -/
  allocs   : List (Nat × Nat × Nat) := []
  /-- Ranges of a context that firmware keeps for tables and areas, and ranges mapped for it at an address that the host gave (R371). -/
  areas    : List (Nat × Nat × Nat) := []
  givens   : List (Nat × Nat × Nat) := []
  /-- The answers to the host's BAR2 accesses, oldest first: the bytes of a read, none for Unsupported Request (R367). -/
  barAnswers : List (Option (List Byte)) := []
  deriving DecidableEq, Repr

/-- The machine right after power is applied, before POWER_ON: every core OFF, nothing bound, nothing pending but the
power-on itself (R370). -/
def State.reset : State := { pending := [.powerOn], turn := .pending 0 }

/-- The reasons a step can stop. -/
inductive Fault where
  /-- Raised by no meaning of this model: a physical access outside R17 cannot be made (R18). Safe. -/
  | unpopulated
  deriving DecidableEq, Repr

/-- Instructions without a meaning. -/
inductive Refusal where
  /-- Raised by an arm of exec whose instruction has no meaning yet. Safe: the step stops. -/
  | notModelled (mnemonic : String)
  deriving DecidableEq, Repr

end Sys2Proof.Machine
end

