-- ==== Sys2Proof/Machine/Ops.lean ====
section
/-! DEFINITION. The named operations over records, memory, registers and messages; taking a trap, returning from one and
escalating; retiring an instruction. -/

namespace Sys2Proof.Machine

/-- What a meaning answers. -/
abbrev Out := Host.Outcome State Fault Refusal

/-! ## Records by number -/

/-- The record of a number, if listed. -/
def SMap.find {α : Type} (k : Nat) : SMap α → Option α
  | [] => none
  | (k', v) :: m => if k' = k then some v else SMap.find k m

/-- The record of a number, or the default one. -/
def SMap.get {α : Type} (d : α) (m : SMap α) (k : Nat) : α := (m.find k).getD d

/-- The records with one replaced or added, keys rising. -/
def SMap.put {α : Type} (k : Nat) (v : α) : SMap α → SMap α
  | [] => [(k, v)]
  | (k', v') :: m =>
    if k' = k then (k, v) :: m
    else if k < k' then (k, v) :: (k', v') :: m
    else (k', v') :: SMap.put k v m

/-- The records without one number. -/
def SMap.del {α : Type} (k : Nat) (m : SMap α) : SMap α := m.filter fun e => e.1 != k

/-! ## Bytes by address -/

/-- The byte at an address; an unlisted address reads as 0. (DESIGN CHOICE, log 3). -/
def Mem.byte (m : Mem) (a : Nat) : Byte := SMap.get 0#8 m a

/-- Memory with one byte written; the canonical form lists no zero byte. -/
def Mem.setByte (a : Nat) (b : Byte) (m : Mem) : Mem := if b = 0#8 then SMap.del a m else SMap.put a b m

/-- The canonical form: addresses strictly rising, no entry equal to what an unlisted address reads as. -/
def Mem.canonical : Mem → Bool
  | [] => true
  | [(_, b)] => b != 0#8
  | (a, b) :: (a', b') :: m => b != 0#8 && a < a' && Mem.canonical ((a', b') :: m)

/-- The n bytes from an address. -/
def Mem.bytes (m : Mem) (a n : Nat) : List Byte := (List.range n).map fun i => m.byte (a + i)

/-- Memory with bytes written from an address upward. -/
def Mem.setBytes (a : Nat) : List Byte → Mem → Mem
  | [], m => m
  | b :: bs, m => Mem.setBytes (a + 1) bs (m.setByte a b)

/-- Memory without the bytes of a range: they read as zero. -/
def Mem.clear (m : Mem) (lo n : Nat) : Mem := m.filter fun e => !(lo ≤ e.1 && e.1 < lo + n)

/-- The little-endian value of n bytes (R5). -/
def Mem.le (m : Mem) (a n : Nat) : Nat := leNat (m.bytes a n)

/-- The word at an address (R5). -/
def Mem.word (m : Mem) (a : Nat) : Word := BitVec.ofNat 32 (m.le a 4)

/-- Memory with a little-endian value of n bytes written (R5). -/
def Mem.setLe (a n v : Nat) (m : Mem) : Mem := m.setBytes a (leBytes n v)

/-- Memory with a word written (R5). -/
def Mem.setWord (a : Nat) (w : Word) (m : Mem) : Mem := m.setLe a 4 w.toNat

/-- The 64-byte record at an address. -/
def Mem.rec (m : Mem) (a : Nat) : Rec := Vector.ofFn fun i => m.word (a + 4 * i.val)

/-- The bytes of a list of words (R5). -/
def wordBytes (ws : List Word) : List Byte := ws.flatMap fun w => leBytes 4 w.toNat

/-- Memory with a 64-byte record written. -/
def Mem.setRec (a : Nat) (r : Rec) (m : Mem) : Mem := m.setBytes a (wordBytes r.toList)

/-! ## Cores and their contexts -/

/-- The core of a coreid; a core that no record lists is OFF (R75). -/
def State.coreAt (s : State) (k : Nat) : Core := SMap.get {} s.cores k

/-- The state with a core's record replaced. -/
def State.setCore (k : Nat) (c : Core) (s : State) : State := { s with cores := s.cores.put k c }

/-- The state with a core's record changed. -/
def State.modCore (k : Nat) (f : Core → Core) (s : State) : State := s.setCore k (f (s.coreAt k))

/-- The task context of a core; the handler context has none, and reads tc0's (no operation asks). -/
def Core.task (c : Core) : CtxSel → TaskCtx
  | .tc1 => c.tc1
  | _ => c.tc0

/-- The core with a task context changed; nothing for the handler context. -/
def Core.modTask (c : Core) (x : CtxSel) (f : TaskCtx → TaskCtx) : Core :=
  match x with
  | .tc0 => { c with tc0 := f c.tc0 }
  | .tc1 => { c with tc1 := f c.tc1 }
  | .handler => c

/-- The task context of an issuer. -/
def State.taskAt (s : State) (i : Issuer) : TaskCtx := (s.coreAt i.core).task i.ctx

/-- The state with an issuer's task context changed. -/
def State.modTask (i : Issuer) (f : TaskCtx → TaskCtx) (s : State) : State :=
  s.modCore i.core fun c => c.modTask i.ctx f

/-- The core whose context issues. -/
def State.core (s : State) : Core := s.coreAt s.who.core

/-- The task context that issues. -/
def State.task (s : State) : TaskCtx := s.taskAt s.who

/-- The state with the issuing task context changed. -/
def State.modT (f : TaskCtx → TaskCtx) (s : State) : State := s.modTask s.who f

/-- Whether the handler context issues. -/
def State.inHandler (s : State) : Bool := s.who.ctx = .handler

/-- The other task context. -/
def otherTask : CtxSel → CtxSel
  | .tc0 => .tc1
  | .tc1 => .tc0
  | .handler => .handler

/-- A scalar register of an issuer; x0 reads zero (R46). -/
def State.xAt (s : State) (i : Issuer) (r : BitVec 4) : Word :=
  if r = 0#4 then 0#32 else
  match i.ctx with
  | .handler => (s.coreAt i.core).hd.x[r.toFin]
  | _ => (s.taskAt i).x[r.toFin]

/-- The state with a scalar register of an issuer written; a write of x0 is discarded (R46). -/
def State.setXAt (i : Issuer) (r : BitVec 4) (w : Word) (s : State) : State :=
  if r = 0#4 then s else
  match i.ctx with
  | .handler => s.modCore i.core fun c => { c with hd := { c.hd with x := c.hd.x.set r.toFin w } }
  | _ => s.modTask i fun t => { t with x := t.x.set r.toFin w }

/-- A scalar register of the issuing context. -/
def State.x (s : State) (r : BitVec 4) : Word := s.xAt s.who r

/-- The state with a scalar register of the issuing context written. -/
def State.setX (r : BitVec 4) (w : Word) (s : State) : State := s.setXAt s.who r w

/-- The offset of the instruction that the issuing context executes (R54). -/
def State.pc (s : State) : Word := if s.inHandler then s.core.hd.pc else s.task.pc

/-- The state with the issuing context's next offset set. -/
def State.setPc (w : Word) (s : State) : State :=
  match s.who.ctx with
  | .handler => s.modCore s.who.core fun c => { c with hd := { c.hd with pc := w } }
  | _ => s.modT fun t => { t with pc := w }

/-! ## Messages, events and free values -/

/-- The state with an event placed behind those in flight. -/
def State.post (e : Event) (s : State) : State := { s with pending := s.pending ++ [e] }

/-- The state with an event placed before those in flight: a message that goes on waiting at the head of its channel. -/
def State.repost (e : Event) (s : State) : State := { s with pending := e :: s.pending }

/-- The state with events placed behind those in flight, in order. -/
def State.postAll (es : List Event) (s : State) : State := { s with pending := s.pending ++ es }

/-- The number that the next wait takes, and the state after it. -/
def State.newWait (s : State) : Nat × State := (s.waitCount, { s with waitCount := s.waitCount + 1 })

/-- A free word, and the state that has used it. -/
def State.freeWord (s : State) : Word × State := (Config.freeWord s.freeCount, { s with freeCount := s.freeCount + 1 })

/-- A group's record. -/
def State.groupAt (s : State) (g : Nat) : Group := SMap.get {} s.groups g

/-- The state with a group's record changed. -/
def State.modGroup (g : Nat) (f : Group → Group) (s : State) : State :=
  { s with groups := s.groups.put g (f (s.groupAt g)) }

/-- Whether a core is one of those that a group was bound to. -/
def State.member (s : State) (g k : Nat) : Bool := g != 0 && (s.groupAt g).cores.contains k

/-- Whether two cores are of a group, whether or not one of them has left it: messages between groups are not counted (R320). -/
def State.ofGroup (s : State) (g a b : Nat) : Bool := s.member g a && s.member g b

/-- Whether a group's cores stand in a saved image: SAVED, or BINDING to be restored from it (R285, R335). -/
def Group.stored (g : Group) : Bool := g.state == .saved || (g.state == .binding && g.restoring)

/-- One more message of a core counted as sent in its group, with the wrap flag (R320, R321). -/
def Group.countSent (k : Nat) (g : Group) : Group :=
  let c : Counts := SMap.get {} g.counts k
  let c' := { c with sent := c.sent + 1#32, wrapped := c.wrapped || c.sent == 0xFFFFFFFF#32 }
  { g with counts := g.counts.put k c' }

/-- One more message of a core counted as received in its group, with the wrap flag (R320, R321). -/
def Group.countReceived (k : Nat) (g : Group) : Group :=
  let c : Counts := SMap.get {} g.counts k
  let c' := { c with received := c.received + 1#32, wrapped := c.wrapped || c.received == 0xFFFFFFFF#32 }
  { g with counts := g.counts.put k c' }

/-- Whether a message of a built-in class passes through a mailbox, where its sequence number stands (R181, R182). -/
def passesMailbox : Event → Bool
  | .remoteLoad _ | .remoteStore _ | .feLoad _ | .feStore _ | .localAtomic _ | .feWake _ | .barrierOperation _ => true
  | .loadReply r => r.src.isSome
  | .barrierReply r => r.src.isSome
  | _ => false

/-- A message of a core takes the next number of the core's counter, modulo 2^20 (R181): one of a software class has it in its words. -/
def State.number (src : Nat) (e : Event) (s : State) : State :=
  let n := (s.coreAt src).msgSeq
  let s := if passesMailbox e then { s with seqs := s.seqs ++ [(e, n)] } else s
  if (s.coreAt src).power = .off then s else s.modCore src fun c => { c with msgSeq := n + 1#20 }

/-- The number of a message that has arrived, which is then known no more (R181). -/
def State.takeSeq (e : Event) (s : State) : BitVec 20 × State :=
  match s.seqs.find? fun p => p.1 == e with
  | some p => (p.2, { s with seqs := s.seqs.erase p })
  | none => (0#20, s)

/-- A message of a group from a core to a core on its way: numbered, and counted when both are of the group (R181, R320). -/
def State.depart (g src dst : Nat) (e : Event) (s : State) : State :=
  (if s.ofGroup g src dst then s.modGroup g (Group.countSent src) else s).number src e

/-- A message of a group from a core to a core (R181, R320). -/
def State.send (g src dst : Nat) (e : Event) (s : State) : State := (s.depart g src dst e).post e

/-- An event held by a group until it resumes (R285). (DEDUCED, log 36). -/
def State.hold (g : Nat) (e : Event) (s : State) : State :=
  s.modGroup g fun gr => { gr with heldMsgs := gr.heldMsgs ++ [e] }

/-- An event for a core of a group: held while the group's cores stand in a saved image, else on its way (R285). -/
def State.postTo (g : Nat) (e : Event) (s : State) : State := if (s.groupAt g).stored then s.hold g e else s.post e

/-- An answer of a core to a core of a group (R181, R285, R320). -/
def State.answer (g src dst : Nat) (e : Event) (s : State) : State := (s.depart g src dst e).postTo g e

/-- The acceptance of a message of a group at its core, counted when both cores are of the group (R320). -/
def State.accept (g src dst : Nat) (s : State) : State :=
  if s.ofGroup g src dst then s.modGroup g (Group.countReceived dst) else s

/-- A 64-bit counter counted up, saturating (R375). -/
def satCount (n : Nat) : Nat := min (2 ^ 64 - 1) (n + 1)

/-- A record of the counts with one more at a number: 64 bits, saturating (R375). -/
def SMap.tally (k : Nat) (m : SMap Nat) : SMap Nat := m.put k (satCount (SMap.get 0 m k))

/-- Counts of a cause in the field counters (R282). -/
def State.count (c : Cause) (s : State) : State := { s with counters := s.counters.tally c.code }

/-- Raises an MSI-X vector: its message is sent, or, while the vector is masked, its pending bit is set (R365). (PRESUMED, log 31). -/
def State.raiseMsix (v : Nat) (s : State) : State :=
  let masked := s.device.msixMask.getLsbD v
  { s with msix := if masked then s.msix else s.msix ++ [v],
           device := { s.device with msixPend := if masked then s.device.msixPend ||| 1#2048 <<< v else s.device.msixPend } }

/-- Whether the part has accepted a feature (R369). -/
def State.feature (s : State) (n : Nat) : Bool := s.feats.getLsbD n

/-- A scheduling pass is requested, once (R306). -/
def State.requestPass (s : State) : State :=
  if .schedulingPass ∈ s.pending then s else s.post .schedulingPass

/-! ## Stalling and waking -/

/-- The issuing context, which issued most recently, is the preferred one of its core (R72). -/
def State.prefer (s : State) : State :=
  match s.who.ctx with
  | .tc0 => s.modCore s.who.core fun c => { c with pref := false }
  | .tc1 => s.modCore s.who.core fun c => { c with pref := true }
  | .handler => s

/-- The issuing task context stalls (R72): with its instruction unissued, to be issued again, or waiting for what it has issued. -/
def State.stall (why : Stall) (s : State) : State :=
  let s := s.modT fun t => { t with run := .stalled why }
  if why = .retry then s else s.prefer

/-- A running context again. -/
def TaskCtx.resume (t : TaskCtx) : TaskCtx := { t with run := .running }

/-- A context whose unissued instruction is issued again. -/
def TaskCtx.retry (t : TaskCtx) : TaskCtx := if t.run = .stalled .retry then t.resume else t

/-- Both task contexts of every core issue their waiting instructions again, but for the one that has just stalled. -/
def State.retryOthers (me : Option Issuer) (s : State) : State :=
  { s with cores := s.cores.map fun (k, c) =>
      (k, { c with tc0 := if me = some ⟨k, .tc0⟩ then c.tc0 else c.tc0.retry,
                   tc1 := if me = some ⟨k, .tc1⟩ then c.tc1 else c.tc1.retry }) }

/-! ## Retiring an instruction (R85) -/

/-- An offset held in a register, used as a target: bit 0 cleared (R54). -/
def evenOffset (w : Word) : Word := w &&& ~~~1#32

/-- The loop-back decision for one loop after the instruction at offset a (R54, R85). -/
def TaskCtx.loopOne (i : Fin 2) (a : Word) (t : TaskCtx) : TaskCtx × Option Word :=
  if t.lc[i] ≠ 0#32 ∧ a = t.le[i] then
    let n := t.lc[i] - 1#32
    ({ t with lc := t.lc.set i n, vl := true }, if n ≠ 0#32 then some (evenOffset t.ls[i]) else none)
  else (t, none)

/-- The loop-back decision, loop 1 first: the task context and the next offset (R85). -/
def TaskCtx.loopBack (a next : Word) (t : TaskCtx) : TaskCtx × Word :=
  match t.loopOne 1 a with
  | (t, some w) => (t, w)
  | (t, none) =>
    match t.loopOne 0 a with
    | (t, some w) => (t, w)
    | (t, none) => (t, next)

/-- A task context after its instruction of n bytes at pc completes without transferring control (R85). -/
def TaskCtx.complete (n : Word) (t : TaskCtx) : TaskCtx :=
  let (t', next) := t.loopBack t.pc (t.pc + n)
  { t' with pc := next, instret := t.instret + 1#32, run := .running }

/-- A task context after its instruction completes and transfers control (R85). -/
def TaskCtx.jump (target : Word) (t : TaskCtx) : TaskCtx :=
  { t with pc := target, instret := t.instret + 1#32, run := .running }

/-- A handler context after its instruction completes at the next offset, its budget used by one (R184). -/
def Handler.complete (next : Word) (h : Handler) : Handler :=
  { h with pc := next, instret := h.instret + 1#32, budget := h.budget - 1 }

/-- The instruction of n bytes of an issuer completes without transferring control (R85). -/
def State.retireAt (i : Issuer) (n : Word) (s : State) : State :=
  match i.ctx with
  | .handler => s.modCore i.core fun c => { c with hd := c.hd.complete (c.hd.pc + n) }
  | _ => s.modTask i (TaskCtx.complete n)

/-- The issuing instruction of n bytes completes (R85). -/
def State.retire (n : Word) (s : State) : State := (s.retireAt s.who n).prefer

/-- The issuing instruction completes and transfers control (R85). -/
def State.jump (target : Word) (s : State) : State :=
  (match s.who.ctx with
   | .handler => s.modCore s.who.core fun c => { c with hd := c.hd.complete target }
   | _ => s.modT (TaskCtx.jump target)).prefer

/-! ## Escalation (R280) -/

/-- A context's record; one that no record lists is FREE (R275). -/
def State.contextAt (s : State) (c : Nat) : Context := SMap.get {} s.contexts c

/-- The state with a context's record changed. -/
def State.modContext (c : Nat) (f : Context → Context) (s : State) : State :=
  { s with contexts := s.contexts.put c (f (s.contextAt c)) }

/-- A queue's control block. -/
def State.queueAt (s : State) (q : Nat) : Queue := SMap.get {} s.queues q

/-- The state with a queue's control block changed. -/
def State.modQueue (q : Nat) (f : Queue → Queue) (s : State) : State :=
  { s with queues := s.queues.put q (f (s.queueAt q)) }

/-- The hardware slot that serves a queue (R304). -/
def State.slotOf (s : State) (q : Nat) : Option Nat := (s.hwSlots.find? fun e => e.2.v && e.2.queue == q).map (·.1)

/-- The queue's hardware slot serves nothing (R304). -/
def State.unbind (q : Nat) (s : State) : State :=
  match s.slotOf q with
  | some k => { s with hwSlots := s.hwSlots.put k {} }
  | none => s

/-- The error codes of R303. -/
inductive QErr where
  | type | reserved | args | access | stale | overrun | ringFault | signalFault | copyFault | feature | signature
  | resource | kernelFault
  deriving DecidableEq, Repr

/-- The number of an error code (R303). -/
def QErr.code : QErr → BitVec 8
  | .type => 1
  | .reserved => 2
  | .args => 3
  | .access => 4
  | .stale => 5
  | .overrun => 6
  | .ringFault => 7
  | .signalFault => 8
  | .copyFault => 9
  | .feature => 10
  | .signature => 11
  | .resource => 12
  | .kernelFault => 13

/-- The cause under which an error code is also counted (R303). -/
def QErr.also : QErr → Option Cause
  | .stale => some .stalePacket
  | .feature => some .featureDenied
  | .signature => some .signatureBad
  | .resource => some .launchResource
  | _ => none

/-- A queue enters ERROR: the record of R303, the slot freed, msix raised, a pass requested; a second error keeps the first
record. The hub time that etime takes is a free value (assumption 5). (DESIGN CHOICE, log 5). -/
def State.queueError (q : Nat) (e : QErr) (idx detail : Word) (s : State) : State :=
  let qu := s.queueAt q
  if qu.state = .error ∨ qu.state = .disabled then s else
  let (now, s) := s.freeWord
  let s := s.modQueue q fun u =>
    { u with state := .error, ecode := e.code, eidx := idx, edetail := detail, etime := now, waitB := false,
             waitW := false }
  let s := (s.unbind q).count .queueError
  let s := match e.also with
    | some c => s.count c
    | none => s
  (s.raiseMsix qu.msix.toNat).requestPass

/-- What the fault record of an escalation holds beside its count (R280). -/
structure FaultRec where
  cause   : Nat
  tval    : Word
  epc     : Word
  coreid  : Nat
  kslot   : Nat
  handler : Bool
  deriving DecidableEq, Repr

/-- The words of a fault record (R280). -/
def FaultRec.words (r : FaultRec) (ctx group : Nat) (seq : BitVec 64) : List Word :=
  [BitVec.ofNat 32 (r.kslot + 4 * r.handler.toNat), BitVec.ofNat 32 ctx, BitVec.ofNat 32 (group * 256 + r.cause),
   BitVec.ofNat 32 r.coreid, BitVec.ofNat 32 (r.epc.toNat % 2 ^ 25), r.tval, seq.setWidth 32,
   (seq >>> 32).setWidth 32]

/-- Firmware writes a fault record at offset 0 of the last 4 KiB of the context's save area (R280, R291). -/
def State.writeFault (ctx group : Nat) (r : FaultRec) (s : State) : State :=
  let seq := s.faultSeq + 1#64
  let c := s.contextAt ctx
  let at_ := c.save + c.ssize * 65536 - 4096
  { s with faultSeq := seq, phys := s.phys.setBytes at_ (wordBytes (r.words ctx group seq)) }

/-- An F event of a context (R282): counted, and written to the context's fault record, if it is not FREE. (DESIGN CHOICE, log 79). -/
def State.report (c : Cause) (v : Word) (ctx group core : Nat) (s : State) : State :=
  let s := s.count c
  if (s.contextAt ctx).state = .free then s
  else s.writeFault ctx group { cause := c.code, tval := v, epc := 0#32, coreid := core, kslot := 0, handler := false }

/-- Whether a group is in one of the states that an escalation stops (R335: REQUESTED to PREEMPTING). -/
def GState.live : GState → Bool
  | .requested | .binding | .resident | .running | .preempting => true
  | _ => false

/-- Whether a kernel is in QUEUED to DRAINING (R322). -/
def KState.live : KState → Bool
  | .queued | .placed | .running | .draining => true
  | _ => false

/-- A group enters FAULTED: its issue stops, its kernel fails and its queue takes KERNEL_FAULT (R322, R335, R301). -/
def State.failGroup (g : Nat) (s : State) : State :=
  let gr := s.groupAt g
  if gr.state.live || gr.state == .saved then
    let s := s.modGroup g fun gr => { gr with state := .faulted }
    if gr.kernel.live then
      (s.modGroup g fun gr => { gr with kernel := .faulted }).queueError gr.queue .kernelFault gr.index
        (s.faultSeq.setWidth 32)
    else s
  else s

/-- The groups of a context that are not yet released. -/
def State.groupsOf (s : State) (ctx : Nat) : List Nat :=
  (s.groups.filter fun e => e.2.ctx == ctx && e.2.state != .none && e.2.state != .released).map (·.1)

/-- The launches of a context whose groups are RELEASED and whose completion signals are still to be written are ABORTED: they count in
their queues' inflight no more (R322). -/
def State.abortReleased (ctx : Nat) (s : State) : State :=
  let ends (e : Nat × Group) : Bool := e.2.ctx == ctx && e.2.state == .released && e.2.kernel == .draining
  let gs := s.groups.filter ends
  let s := { s with groups := s.groups.map fun e => if ends e then (e.1, { e.2 with kernel := .aborted, counted := false }) else e,
                    fetches := s.fetches.filter (fun f => !gs.any fun e => f.2.by_ == .group e.1),
                    engineAsks := s.engineAsks.filter (fun a => !gs.any fun e => a.1 == .group e.1),
                    pagerFailed := s.pagerFailed.filter fun a => !gs.any fun e => a.1 == .group e.1 }
  gs.foldl (fun s e =>
    let s := if e.2.counted then s.modQueue e.2.queue fun u => { u with inflight := u.inflight - 1 } else s
    s.queueError e.2.queue .kernelFault e.2.index (s.faultSeq.setWidth 32)) s

/-- A context TERMINATED (R277): its queues are DISABLED and its COPYs end (R294), its trigger entries are FREE (R324), its groups stop
before any other event of theirs, and their release follows (R335, R336). -/
def State.terminate (ctx : Nat) (s : State) : State :=
  let mine (q : Nat) : Bool := (s.queueAt q).ctxid.toNat == ctx
  let copies (q : Nat) : Nat := s.hubCopies.countP fun c => c.queue == q
  let stop (e : Nat × Queue) : Nat × Queue :=
    if mine e.1 then (e.1, { e.2 with state := .disabled, disabling := false, waitB := false, waitW := false, acting := none,
                                      inflight := e.2.inflight - copies e.1 }) else e
  let free (e : Nat × HwSlot) : Nat × HwSlot := if e.2.v && mine e.2.queue then (e.1, {}) else e
  let c := s.contextAt ctx
  let clear (e : Nat × Trigger) : Nat × Trigger :=
    if c.trigBase ≤ e.1 ∧ e.1 < c.trigBase + c.trigCnt then (e.1, { e.2 with state := .free }) else e
  let halt (e : Nat × Group) : Nat × Group := if e.2.ctx == ctx && e.2.state.live then (e.1, { e.2 with state := .faulted }) else e
  let s := { s with queues := s.queues.map stop, hwSlots := s.hwSlots.map free, triggers := s.triggers.map clear,
                    hubCopies := s.hubCopies.filter (fun c => !mine c.queue), groups := s.groups.map halt }
  (((s.abortReleased ctx).modContext ctx fun c => { c with state := .terminated }).postAll ((s.groupsOf ctx).map .groupRelease)).requestPass

/-- Escalation in a group that runs or is being bound or pre-empted (R280): the fault record, the cause counted, and the context's policy
(R277, R335). Firmware's release of the stopped groups follows as an event of its own, at once for policy 00. In a group that has been
stopped, which no row of R335 lets escalate again, nothing changes: its record is written once. -/
def State.escalate (g : Nat) (cause : Cause) (r : FaultRec) (s : State) : State :=
  let ctx := (s.groupAt g).ctx
  if !(s.groupAt g).state.live then s else
  let s := (s.writeFault ctx g { r with cause := cause.code }).count cause
  let c := s.contextAt ctx
  if c.policy = 0#2 then (s.failGroup g).post (.groupRelease g)
  else if c.policy = 2#2 then
    if c.state = .running ∨ c.state = .preempting then (s.terminate ctx).count .contextKilled else s
  else
    let s := if c.state = .running ∨ c.state = .preempting then
        s.modContext ctx fun c => { c with state := .faulted } else s
    (s.groupsOf ctx).foldl (fun s g => s.failGroup g) s

/-- An escalation raised at a core: its kernel slot and whether in its handler context (R280), whose run it ends. -/
def State.escalateAt (i : Issuer) (cause : Cause) (tval epc : Word) (s : State) : State :=
  let c := s.coreAt i.core
  let h := i.ctx = .handler
  (if h then s.modCore i.core fun c => { c with hd := { c.hd with running := false } } else s).escalate c.group cause
    { cause := 0, tval := tval, epc := epc, coreid := i.core, handler := h,
      kslot := if h then c.hd.kslot.toNat else (c.task i.ctx).kslot.toNat }

/-- An escalation of a core that names no instruction (R280: epc 0). -/
def State.escalateCore (k : Nat) (cause : Cause) (tval : Word) (s : State) : State :=
  s.escalateAt ⟨k, .tc0⟩ cause tval 0#32

/-! ## Taking a trap and returning from it (R278, R279, R109) -/

/-- The cause code of seven bits (R52, R282). -/
def causeBits (c : Cause) : BitVec 7 := BitVec.ofNat 7 c.code

/-- Trap entry: epc, cause, tval, SVL, TM and the next offset (R278). -/
def TaskCtx.enterTrap (tr : Trap) (t : TaskCtx) : TaskCtx :=
  { t with epc := BitVec.ofNat 24 (t.pc.toNat / 2), causeA := tr.a, causeCode := causeBits tr.cause, tval := tr.tval,
           svl := t.vl, trapMode := true, pc := BitVec.ofNat 32 (t.tvec.toNat * 2), run := .running, waiting := false }

/-- Whether a register of the task context is pending (R73). -/
def TaskCtx.anyPending (t : TaskCtx) : Bool := t.pendX != 0#16 || t.pendV != 0#8

/-- A trap at an instruction boundary of an issuer (R278): it waits for pending registers, escalates with TRAP_NESTED in trap
mode and with HANDLER_TRAP in the handler context, and otherwise enters the trap, which is counted by its cause (R375). -/
def State.trapAt (i : Issuer) (tr : Trap) (s : State) : State :=
  match i.ctx with
  | .handler => s.escalateAt i .handlerTrap (BitVec.ofNat 32 tr.cause.code) (s.coreAt i.core).hd.pc
  | _ =>
    let t := s.taskAt i
    if t.anyPending then s.modTask i fun t => { t with run := .stalled .retry }
    else if t.trapMode then s.escalateAt i .trapNested (BitVec.ofNat 32 tr.cause.code) t.pc
    else (s.modTask i (TaskCtx.enterTrap tr)).count tr.cause

/-- A trap of the instruction that issues: unless it waits for pending registers, its context has issued most recently (R72, R278).
(DEDUCED, log 19). -/
def State.trapWith (tr : Trap) (s : State) : State :=
  if !s.inHandler && s.task.anyPending then s.trapAt s.who tr else (s.trapAt s.who tr).prefer

/-- A synchronous trap of the issuing context. (DEDUCED, log 19). -/
def State.trap (c : Cause) (tval : Word) (s : State) : State := s.trapWith ⟨c, false, tval⟩

/-- An asynchronous trap is held until it can be taken, oldest first (R279). -/
def State.holdTrap (i : Issuer) (tr : Trap) (s : State) : State :=
  s.modTask i fun t => { t with traps := t.traps ++ [tr] }

/-- A trap of an instruction that waits at its offset for an event: it is taken at once, before any held trap, when its
context next moves (R77: STALLED to RUNNING, take the trap). -/
def State.trapWaiting (i : Issuer) (tr : Trap) (s : State) : State :=
  s.modTask i fun t => { t with traps := tr :: t.traps, run := .running }

/-- Whether a held trap is due: a waiting instruction's own, or an asynchronous one outside trap mode (R279). -/
def TaskCtx.trapDue (t : TaskCtx) : Bool :=
  match t.traps with
  | [] => false
  | tr :: _ => !tr.a || !t.trapMode

/-- TRET's change of the status (R109): VL becomes VL or SVL, and TM is cleared. -/
def TaskCtx.leaveTrap (t : TaskCtx) : TaskCtx := { t with vl := t.vl || t.svl, trapMode := false }

/-- The byte offset that epc names (R52). -/
def TaskCtx.epcOffset (t : TaskCtx) : Word := BitVec.ofNat 32 (t.epc.toNat * 2)

/-- Whether TRET completes the instruction at epc: an ECALL or a TRAP (R109). -/
def TaskCtx.returnsPast (t : TaskCtx) : Bool :=
  !t.causeA && (t.causeCode == causeBits .ecall || t.causeCode == causeBits .softwareTrap)

/-- A task context after TRET (R109), which counts as an instruction itself: past a software trap of n bytes, which then
counts and makes the loop-back decision, or at epc. -/
def TaskCtx.returnTrap (past : Option Word) (t : TaskCtx) : TaskCtx :=
  let u := { t.leaveTrap with pc := t.epcOffset, instret := t.instret + 1#32, run := .running }
  match past with
  | some n => u.complete n
  | none => u

/-! ## Registers that wait (R73, R94, R136) -/

/-- The fault that a reply left at one of the named registers, with its register (R94). -/
def TaskCtx.faultIn (t : TaskCtx) (xs : List (BitVec 4)) (vs : List (BitVec 3)) : Option Trap :=
  ((xs.filterMap fun r => t.faultX.find r.toNat) ++ (vs.filterMap fun r => t.faultV.find r.toNat)).head?

/-- The task context with the first fault of the named registers taken; one at another of them traps when the instruction is
issued again (R94). -/
def TaskCtx.clearFaults (xs : List (BitVec 4)) (vs : List (BitVec 3)) (t : TaskCtx) : TaskCtx :=
  match xs.find? fun r => (t.faultX.find r.toNat).isSome with
  | some r => { t with faultX := t.faultX.del r.toNat }
  | none =>
    match vs.find? fun r => (t.faultV.find r.toNat).isSome with
    | some r => { t with faultV := t.faultV.del r.toNat }
    | none => t

/-- Whether one of the named registers is pending (R73). -/
def TaskCtx.waitsFor (t : TaskCtx) (xs : List (BitVec 4)) (vs : List (BitVec 3)) : Bool :=
  xs.any (fun r => r != 0#4 && t.pendX.getLsbD r.toNat) || vs.any (fun r => t.pendV.getLsbD r.toNat)

/-- An instruction that reads or writes the named registers: it takes the fault that a reply left at one of them, stalls
while one is pending, and otherwise proceeds (R73, R94). The handler context has no pending register. -/
def State.withRegs (xs : List (BitVec 4)) (vs : List (BitVec 3)) (s : State) (k : State → State) : State :=
  if s.inHandler then k s else
  match s.task.faultIn xs vs with
  | some tr =>
    if s.task.anyPending then s.stall .retry else (s.modT (TaskCtx.clearFaults xs vs)).trapWith tr
  | none => if s.task.waitsFor xs vs then s.stall .retry else k s

/-- An instruction of R60's task contexts only: in the handler context it raises ILLEGAL_OP with the instruction's word,
which the fetch holds in ir (R60, R61). -/
def State.inTask (s : State) (k : State → State) : State :=
  if s.inHandler then s.escalateAt s.who .handlerTrap (BitVec.ofNat 32 Cause.illegalOp.code) s.core.hd.pc else k s

/-- An access of a task context waits for the replies of its earlier acquires (R97, R104). (DEDUCED, log 34). -/
def State.access (s : State) (k : State → State) : State :=
  if !s.inHandler && s.task.acquires != 0 then s.stall .retry else k s

/-- An instruction that stalls until a condition holds. -/
def State.await (p : Bool) (s : State) (k : State → State) : State := if p then k s else s.stall .retry

/-! ## Local memory and full/empty bits (R88 to R91) -/

/-- The core with a full/empty bit set or cleared. -/
def Core.setFe (a : Nat) (b : Bool) (c : Core) : Core :=
  { c with fe := if b then (if a ∈ c.fe then c.fe else c.fe.orderedInsert (· ≤ ·) a) else c.fe.filter (· != a) }

/-- Whether a word's full/empty bit is set. -/
def Core.full (c : Core) (a : Nat) : Bool := c.fe.contains a

/-- The core without what private-alias stores to some words hid: another write of the word is the older one's successor for every read
(R243, R245). -/
def Core.settle (hit : Nat → Bool) (c : Core) : Core := { c with aged := c.aged.filter fun e => !hit e.2.1 }

/-- A word of a core's local memory. -/
def State.localWord (s : State) (k a : Nat) : Word := (s.coreAt k).lm.word a

/-- A word written to a core's local memory; full/empty bits are unchanged. -/
def State.setLocalWord (k a : Nat) (w : Word) (s : State) : State :=
  s.modCore k fun c => { c.settle (· == a / 4 * 4) with lm := c.lm.setWord a w }

/-- Bytes written to a core's local memory. -/
def State.setLocalBytes (k a : Nat) (bs : List Byte) (s : State) : State :=
  s.modCore k fun c => { c.settle (fun w => a < w + 4 && w < a + bs.length) with lm := c.lm.setBytes a bs }

/-- A word that a private-alias store of a task context is about to write, kept with what it held until the next fence with LB (R245);
what the stores of other contexts hid there is settled. -/
def Core.age (x : CtxSel) (a : Nat) (c : Core) : Core :=
  let c := { c with aged := c.aged.filter fun e => !(e.2.1 == a && e.1 != x) }
  if c.aged.any fun e => e.1 == x && e.2.1 == a then c else { c with aged := c.aged ++ [(x, a, c.lm.word a)] }

/-- The same of the words at a list of addresses (R132, R133). -/
def Core.ageAll (x : CtxSel) (as : List Nat) (c : Core) : Core := as.foldl (fun c a => c.age x (a / 4 * 4)) c

/-- A task context whose IDLE ends, if it is in one (R110). -/
def TaskCtx.endIdle (t : TaskCtx) : TaskCtx := if t.run = .stalled .idle then t.complete 4#32 else t

/-- Every IDLE of the core's task contexts ends (R110). -/
def State.wakeIdle (k : Nat) (s : State) : State :=
  s.modCore k fun c => { c with tc0 := c.tc0.endIdle, tc1 := c.tc1.endIdle }

/-- A word's full/empty bit changed or written: the IDLEs of the core end when it changed (R110). -/
def State.writeFe (k a : Nat) (b : Bool) (s : State) : State :=
  if (s.coreAt k).full a = b then s else (s.modCore k (Core.setFe a b)).wakeIdle k

/-- Whether the condition of a full/empty operation holds at its word (R90). -/
def feHolds (op : FeOp) (full : Bool) : Bool :=
  match op with
  | .lwf | .lwfe => full
  | .swe => !full
  | .swf => true

/-- The effect of a full/empty operation at its word (R90). -/
def State.feEffect (m : FeMsg) (s : State) : State :=
  match m.op with
  | .lwf => s
  | .lwfe => s.writeFe m.dst m.off false
  | .swe | .swf =>
    (if m.remote then s.setLocalWord m.dst m.off m.data
     else s.modCore m.dst fun c => { c.age m.src.ctx m.off with lm := c.lm.setWord m.off m.data }).writeFe m.dst m.off true

/-- Whether a full/empty operation is a load (R90). -/
def feIsLoad : FeOp → Bool
  | .lwf | .lwfe => true
  | _ => false

/-- The L1 of a core invalidated, as every acquire at cluster scope or wider does (R97, R105, R244, R406): a line that was read before it
fills nothing afterwards. -/
def State.dropL1 (k : Nat) (s : State) : State := s.modCore k fun c => { c with l1 := [], l1Fills := [] }

/-- The completion of a full/empty operation at its issuer, a load being an acquire (R238): a local one retires, a remote one is answered by a reply or an
acknowledgement, or by an FE wake when it had parked (R91, R93, class 12). -/
def State.feComplete (m : FeMsg) (value : Word) (parked : Bool) (s : State) : State :=
  if m.remote then
    if feIsLoad m.op then
      s.answer m.group m.dst m.src.core (if parked then .feWake (.feLoad m.src m.reg value m.dst m.group)
        else .loadReply ⟨m.src, .x m.reg, value.setWidth 256, true, false, none, some (m.dst, m.group)⟩)
    else if parked then s.answer m.group m.dst m.src.core (.feWake (.feStore m.src m.dst m.group)) else s.postTo m.group (.storeAck m.src)
  else
    (if feIsLoad m.op then (s.setXAt m.src m.reg value).dropL1 m.src.core else s).retireAt m.src 4#32

/-- A full/empty operation performed: the value its word held, its effect, its completion. -/
def State.fePerform (parked : Bool) (m : FeMsg) (s : State) : State :=
  let value := s.localWord m.dst m.off
  (s.feEffect m).feComplete m value parked

/-- One parked operation examined (R91). -/
def State.feExamine (s : State) (m : FeMsg) : State :=
  if feHolds m.op ((s.coreAt m.dst).full m.off) then
    (s.modCore m.dst fun c => { c with parkedFe := c.parkedFe.filter fun p => p.wait != m.wait }).fePerform true m
  else s

/-- The operations parked at a word examined in the order they parked, after its bit changed (R91). -/
def State.feWakeWord (k a : Nat) (s : State) : State :=
  ((s.coreAt k).parkedFe.filter fun m => m.off == a).foldl State.feExamine s

/-- An operation that reaches its word: performed when its condition holds, and the parked ones examined; none otherwise. -/
def State.feReach (m : FeMsg) (s : State) : Option State :=
  if feHolds m.op ((s.coreAt m.dst).full m.off) then
    some ((s.fePerform false m).feWakeWord m.dst m.off)
  else none

/-- The operation parks at its word (R91). -/
def State.fePark (m : FeMsg) (s : State) : State :=
  s.modCore m.dst fun c => { c with parkedFe := c.parkedFe ++ [m] }

/-! ## Reaching a core by a message (R94, R285) -/

/-- What meets a message at a core's network interface. -/
inductive Reach where
  /-- The core is bound to a group of the sending context. -/
  | here
  /-- The core's group, of that context, stands in a saved image or is being pre-empted: the message is held until it resumes. -/
  | hold (g : Nat)
  /-- Not bound to a group of the context, or no such core. -/
  | nack
  deriving DecidableEq, Repr

/-- The group of a context that holds a core in its saved image, if any (R285). -/
def State.savedGroup (s : State) (k ctx : Nat) : Option Nat :=
  (s.groups.find? fun e => e.2.ctx == ctx && e.2.stored && e.2.cores.contains k).map (·.1)

/-- The group of a context that holds a core: the one that it is bound to, else one that is SAVED; 0 for none. -/
def State.groupHolding (s : State) (k ctx : Nat) : Nat :=
  if (s.coreAt k).group ≠ 0 ∧ (s.coreAt k).ctxid = ctx then (s.coreAt k).group else (s.savedGroup k ctx).getD 0

/-- The issuer and the core that an event's message goes to, for the messages of one context to one core, which are performed in issue
order (R95, R187). -/
def eventChannel : Event → Option (Issuer × Nat)
  | .remoteLoad m | .remoteStore m => some (m.src, m.dst)
  | .feLoad m | .feStore m => some (m.src, m.dst)
  | .localAtomic m => some (m.src, m.dst)
  | .barrierOperation m =>
    match m.place with
    | .loc k _ => some (m.src, k)
    | .vault .. => none
  | .mailboxArrival m => some (m.src, m.dst)
  | .joinDecrement f i _ => some (i, bits f.toNat 13 18)
  | _ => none

/-- Whether a message asks for a reply that its issuer's group waits for while it is being pre-empted (R283, step 4). -/
def awaitsReply : Event → Bool
  | .remoteLoad _ | .feLoad _ | .localAtomic _ | .barrierOperation _ => true
  | _ => false

/-- Whether a group's message is taken while the group is being pre-empted: it asks for a reply, or one behind it in its channel does,
which R187 performs after it. (DEDUCED, log 36). -/
def State.drawn (s : State) (e : Event) : Bool :=
  awaitsReply e || ((eventChannel e).isSome && s.pending.any fun f => awaitsReply f && eventChannel f == eventChannel e)

/-- How a message of a context meets a core (R94, R285); a number that names no core is answered NACK. While the core's group is being
pre-empted it takes only what its own group still waits for, which step 4 of R283 needs. (DEDUCED, log 36). -/
def State.reach (s : State) (k ctx : Nat) (own : Bool) : Reach :=
  let c := s.coreAt k
  if k < 2 ^ 18 ∧ c.group ≠ 0 ∧ c.ctxid = ctx ∧ (c.power = .bound ∨ (c.power = .saving ∧ own)) then .here
  else if k < 2 ^ 18 ∧ c.group ≠ 0 ∧ c.ctxid = ctx ∧ c.power = .saving then .hold c.group
  else match s.savedGroup k ctx with
    | some g => .hold g
    | none => .nack

/-- A message performed where it arrives: by k at a bound core, held for a saved group, or answered by nack. -/
def State.deliver (dst ctx : Nat) (own : Bool) (e : Event) (nack : State → State) (s : State) (k : State → State) : State :=
  match s.reach dst ctx own with
  | .here => k s
  | .hold g => s.hold g e
  | .nack => nack s

/-- A choice between two outcomes that the model's lack of time leaves open (assumption 4). (DESIGN CHOICE, log 4). -/
def State.flip (s : State) : Bool × State :=
  (Config.choice s.freeCount 2 % 2 == 1, { s with freeCount := s.freeCount + 1 })

/-! ## The mailbox (R181, R182, R184) -/

/-- The local address of a mailbox entry (R184). -/
def mailboxEntry (i : Nat) : Nat := 0x7800 + 32 * (i % 32)

/-- Whether the group of a core lets its contexts issue (R335). -/
def State.groupRuns (s : State) (k : Nat) : Bool :=
  (s.coreAt k).power == .bound && (s.groupAt (s.coreAt k).group).state == .running

/-- Whether the handler context of a core is within an atomic on one of its words, between the read and the write: every other atomic on
the core's words comes after it (R96, R252). -/
def State.atomicOpen (s : State) (k : Nat) : Bool :=
  s.pending.any fun e =>
    match e with
    | .localAtomic m => m.dst == k && m.old.isSome
    | _ => false

/-- Whether a core that is being pre-empted still runs the messages that landed in its mailbox: a message of its own group that asks for a
reply waits for them, which R187 performs after them. (DEDUCED, log 36). -/
def State.drains (s : State) (k : Nat) : Bool :=
  (s.coreAt k).power == .saving && (s.groupAt (s.coreAt k).group).state == .preempting &&
    (s.now.toList ++ s.pending).any fun e =>
      awaitsReply e && (eventChannel e).any fun c => c.2 == k && (s.coreAt c.1.core).group == (s.coreAt k).group

/-- Whether a core's handler context takes the next message (R184). -/
def State.canHandle (s : State) (k : Nat) : Bool :=
  (s.groupRuns k || s.drains k) && !(s.coreAt k).hd.running && 0 < (s.coreAt k).mbCount && !s.atomicOpen k

/-- The entry words of a message of a built-in class (R181): the class, the sender's coreid and part, and its sequence number; its flags
and its argument words are free. (DESIGN CHOICE, log 54). -/
def builtinWords (cls src part : Nat) (seq : BitVec 20) (w : Nat → Word) : List Word :=
  [BitVec.ofNat 32 (cls + src % 2 ^ 18 * 2 ^ 6 + (w 0).toNat % 256 * 2 ^ 24), BitVec.ofNat 32 (part % 2 ^ 12 + seq.toNat * 2 ^ 12)] ++
    (List.range 4).map fun i => w (i + 1)

/-- Five free words, and the state that has used them. -/
def State.fiveFree (s : State) : (Nat → Word) × State :=
  (fun i => Config.freeWord (s.freeCount + i), { s with freeCount := s.freeCount + 5 })

/-- Whether the handler context of a core performs a built-in message now: it runs no message, and takes none that landed before it (R182,
R184, R187). A message of a core that is not bound meets no handler. -/
def State.handlerFree (s : State) (k : Nat) : Bool := !(s.coreAt k).hd.running && !s.canHandle k && !s.atomicOpen k

/-- A message of a built-in class passes through the next mailbox entry in ring order (R182, R184): the entry holds its words, and is free
again when the message has been performed; a round of the core's thief is abandoned and its back-off ends (R179). (DESIGN CHOICE, log 54). -/
def State.passMailbox (cls src k : Nat) (e : Event) (s : State) : State :=
  let (n, s) := s.takeSeq e
  let (w, s) := s.fiveFree
  let ws := builtinWords cls src s.partAddr n w ++ [0#32, 0#32]
  s.modCore k fun c =>
    let c := { c with dq := { c.dq with round := none, backoff := false } }
    if c.mbCount = 0 then { c with lm := c.lm.setBytes (mailboxEntry c.mbHead) (wordBytes ws), mbHead := (c.mbHead + 1) % 32 }
    else c

/-! ## Kernels and code (R53, R311, R317) -/

/-- A loaded binary. -/
def State.binaryAt (s : State) (h : Nat) : Binary := SMap.get {} s.binaries h

/-- The node number that a group's kernel slot names, if any (R314: 0xFF means none). -/
def Group.nodeOf (g : Group) (k : Nat) : Option Nat :=
  let n := g.nodes.toNat / 256 ^ k % 256
  if n = 255 then none else some n

/-- The node of a group's kernel slot. -/
def State.kernelOf (s : State) (g : Nat) (k : Nat) : Option Node :=
  match (s.groupAt g).nodeOf k with
  | some n => (s.binaryAt (s.groupAt g).handle).nodes[n]?
  | none => none

/-- The code bytes of the kernel that the issuing context runs. -/
def State.codeNode (s : State) : Node :=
  let k := if s.inHandler then s.core.hd.kslot.toNat else s.task.kslot.toNat
  (s.kernelOf s.core.group k).getD {}

/-- The halfword at a byte offset of a code segment, or none at or beyond its length (R53). -/
def Node.half (n : Node) (a : Nat) : Option Nat :=
  match n.code[a]?, n.code[a + 1]? with
  | some lo, some hi => some (lo.toNat + 256 * hi.toNat)
  | _, _ => none

/-- The instruction word at a byte offset: the halfword, or the word of a 32-bit form; none at or beyond the end (R53). -/
def Node.fetch (n : Node) (a : Nat) : Option Nat :=
  match n.half a with
  | none => none
  | some lo =>
    if instrBytes lo = 4 then (n.half (a + 2)).map fun hi => lo + 65536 * hi
    else some lo

/-! ## Records taken up and tasks (R48, R168, R177) -/

/-- The local address of a deque entry (R177). -/
def dequeEntry (i : BitVec 16) : Nat := 0x7000 + 64 * (i.toNat % 32)

/-- How many entries the deque holds (R177). -/
def Deque.held (d : Deque) : Nat := (d.bottom - d.top).toNat

/-- The free entries of the deque (R177). -/
def Deque.room (d : Deque) : Nat := 32 - d.held - d.reserved.toNat

/-- The mark at a local address set, or cleared. -/
def Core.setMark (a : Nat) (m : Option Mark) (c : Core) : Core :=
  { c with marks := match m with
      | some m => c.marks.put a m
      | none => c.marks.del a }

/-- A push at the bottom of a core's deque, with what its delivery gave the record; a round of its thief is abandoned and its
back-off ends (R177, R179). -/
def State.dequePushMarked (k : Nat) (r : Rec) (m : Option Mark) (s : State) : State :=
  s.modCore k fun c =>
    let c := c.setMark (dequeEntry c.dq.bottom) m
    { c with lm := c.lm.setRec (dequeEntry c.dq.bottom) r,
             dq := { c.dq with bottom := c.dq.bottom + 1#16, backoff := false, round := none } }

/-- A push at the bottom of a core's deque. -/
def State.dequePush (k : Nat) (r : Rec) (s : State) : State := s.dequePushMarked k r none

/-- Whether a record is malformed as R168 gives: kind 11, a reserved field, or a kernel slot without a kernel. -/
def State.malformedRec (s : State) (g : Nat) (r : Rec) : Bool :=
  bits r[0].toNat 30 2 == 3 || bits r[0].toNat 26 2 != 0 || bits r[1].toNat 31 1 != 0 ||
    (s.kernelOf g (bits r[0].toNat 28 2)).isNone

/-- The registers that a record carries: x1 to x14 from w2 to w15, x0 and x15 left for the caller (R167). -/
def recRegs (r : Rec) (tb : Word) : Vector Word 16 :=
  Vector.ofFn fun i => if i.val = 0 then 0#32 else if i.val = 15 then tb else (r.toList.getD (i.val + 1) 0#32)

/-- The state of a task context at task start (R48, R168); a fault that a reply left at a register of the task before it is not the new
task's. (DEDUCED, log 53). -/
def TaskCtx.start (r : Rec) (tb : Word) (tvec : Nat) (tm : Vector (Option Rec) 16) (t : TaskCtx) : TaskCtx :=
  { t with run := .running, x := recRegs r tb, tm := tm, pc := BitVec.ofNat 32 (2 * bits r[0].toNat 0 24),
           trapMode := false, vl := false, lc := Vector.replicate 2 0#32, tvec := BitVec.ofNat 24 (tvec / 2),
           kslot := BitVec.ofNat 2 (bits r[0].toNat 28 2), frame := BitVec.ofNat 32 (bits r[1].toNat 0 31),
           nf := bits r[0].toNat 24 1 == 1, waiting := false, faultX := [], faultV := [] }

/-- A taken-up record's mark: a failed access traps at once, before the traps that the task held (R268, R279), the origin part is recorded
(R271), and the faults that replies left at its registers stand there again (R94). -/
def TaskCtx.takeMark (m : Option Mark) (t : TaskCtx) : TaskCtx :=
  match m with
  | none => { t with origin := none }
  | some m =>
    { t with origin := m.origin, faultX := m.faults,
             traps := (match m.fail with
               | some (c, w) => [⟨c, true, w⟩]
               | none => []) ++ m.traps ++ t.traps }

/-- A task context takes up the record at a local address: it starts, or the core escalates FRAME_INVALID (R168). -/
def State.takeUp (i : Issuer) (addr : Nat) (r : Rec) (m : Option Mark) (s : State) : State :=
  let c := s.coreAt i.core
  if s.malformedRec c.group r then s.escalateAt i .frameInvalid (BitVec.ofNat 32 addr) 0#32
  else
    let entry := ((s.kernelOf c.group (bits r[0].toNat 28 2)).getD {}).trapEntry
    (s.modCore i.core (Core.setMark addr none)).modTask i fun t =>
      (t.start r (BitVec.ofNat 32 addr) entry c.launchTm).takeMark m

/-- The record of the task context as it stands, to resume at an offset (R167, R175, R268). -/
def TaskCtx.toRec (t : TaskCtx) (kind : Nat) (w : Bool) (pc : Word) : Rec :=
  Vector.ofFn fun i =>
    if i.val = 0 then
      BitVec.ofNat 32 (kind * 2 ^ 30 + t.kslot.toNat * 2 ^ 28 + w.toNat * 2 ^ 25 + t.nf.toNat * 2 ^ 24 +
        pc.toNat / 2 % 2 ^ 24)
    else if i.val = 1 then t.frame
    else t.x.toList.getD (i.val - 1) 0#32

/-- An outcome that is the next state. -/
def ok (s : State) : Out := .next s

end Sys2Proof.Machine
end

