-- ==== Sys2Proof/Machine/Operands.lean ====
section
/-! DEFINITION. Operand forms: immediates and targets (R56), checks of local and remote addresses (R88, R89, R93), and the
view of a tensor map (R98, R99). -/

namespace Sys2Proof.Machine

/-- A field sign-extended to a word (R8). -/
def sext {n : Nat} (v : BitVec n) : Word := v.signExtend 32

/-- A field zero-extended to a word (R8). -/
def zext {n : Nat} (v : BitVec n) : Word := v.setWidth 32

/-- A target relative to the instruction: PC + 2 × sext(off) (R56). -/
def relTarget {n : Nat} (pc : Word) (off : BitVec n) : Word := pc + 2#32 * sext off

/-- A jump target formed from a register: 25 bits, bit 0 cleared (R54, R56). -/
def regTarget (w : Word) : Word := w &&& 0x01FFFFFE#32

/-- The base-plus-offset address of a scalar load or store (R56). -/
def State.addr16 (s : State) (base : BitVec 4) (i : BitVec 16) : Word := s.x base + sext i

/-- The scaled address of FELD and FEST (R56). -/
def State.addr14 (s : State) (base : BitVec 4) (o : BitVec 14) : Word := s.x base + 4#32 * sext o

/-- Whether an address lies in the deque or mailbox regions, which programs may not write (R88). -/
def protectedAddr (a : Nat) : Bool := 0x7000 ≤ a ∧ a < 0x7C00

/-- The checks of a local address in their order: range, alignment, protection of a store (R89). -/
def localFault (a : Word) (size : Nat) (store : Bool) : Option Trap :=
  if 0x7FFF < a.toNat then some ⟨.localRange, false, a⟩
  else if a.toNat % size ≠ 0 then some ⟨.misaligned, false, a⟩
  else if store && protectedAddr a.toNat then some ⟨.localProtect, false, a⟩
  else none

/-- An access at a checked local address: its trap, or its effect. (DEDUCED, log 19). -/
def State.checked (f : Option Trap) (s : State) (k : State → State) : State :=
  match f with
  | some tr => s.trapWith tr
  | none => k s

/-! ## Tensor maps (R98, R99) -/

/-- Word i of a record as a number. -/
def Rec.w (r : Rec) (i : Nat) : Nat := (r.toList.getD i 0#32).toNat

/-- The element code of a map (R98). -/
def mapEt (r : Rec) : Nat := bits (Rec.w r 1) 16 4
/-- The number of dimensions less one (R98). -/
def mapDims (r : Rec) : Nat := bits (Rec.w r 1) 20 2
/-- The partition mode (R98). -/
def mapPmode (r : Rec) : Nat := bits (Rec.w r 1) 22 2
/-- The partition dimension (R98). -/
def mapPdim (r : Rec) : Nat := bits (Rec.w r 1) 24 4
/-- The base virtual address (R98). -/
def mapBase (r : Rec) : Nat := Rec.w r 0 + bits (Rec.w r 1) 0 16 * 2 ^ 32
/-- The extent of dimension k (R98); 1 above the map's dimensions (R99). -/
def mapDim (r : Rec) (k : Nat) : Nat := if mapDims r < k then 1 else Rec.w r (2 + k)
/-- The stride of dimension k in elements (R98). -/
def mapStride (r : Rec) (k : Nat) : Nat := if k = 0 then 1 else Rec.w r (5 + k)
/-- The partition block size (R98). -/
def mapBlock (r : Rec) : Nat := Rec.w r 9
/-- The byte offset of the scale array (R98). -/
def mapScale (r : Rec) : Nat := Rec.w r 10
/-- Whether an invalid index traps (R98). -/
def mapEdge (r : Rec) : Bool := bits (Rec.w r 11) 0 1 == 1
/-- The reuse class (R98). -/
def mapReuse (r : Rec) : Nat := bits (Rec.w r 11) 1 2

/-- The byte size of an element, t5, mx8 and e8 taking 1 (R24, R99). -/
def mapEsize (r : Rec) : Nat := if mapEt r < 8 then etBytes (mapEt r) else 1

/-- The view extent along the partition dimension for rank r of G cores (R99). -/
def partExtent (pmode d g r b : Nat) : Nat :=
  match pmode with
  | 0 => d
  | 1 => let c := (d + g - 1) / g; min d ((r + 1) * c) - r * c
  | 2 => (d + g - 1 - r) / g
  | _ => d / (b * g) * b + min b (d % (b * g) - r * b)

/-- The original index of a view index along the partition dimension (R99). -/
def partIndex (pmode d g r b j : Nat) : Nat :=
  match pmode with
  | 0 => j
  | 1 => r * ((d + g - 1) / g) + j
  | 2 => r + j * g
  | _ => (j / b * g + r) * b + j % b

/-- Whether dimension k of a map is partitioned (R99). -/
def mapSplit (m : Rec) (k : Nat) : Bool := mapPmode m != 0 && mapPdim m == k

/-- The view extent of dimension k (R99). -/
def viewExtent (m : Rec) (g r k : Nat) : Nat :=
  if mapSplit m k then partExtent (mapPmode m) (mapDim m k) g r (mapBlock m) else mapDim m k

/-- The original index of view index j in dimension k (R99). -/
def viewIndex (m : Rec) (g r k j : Nat) : Nat :=
  if mapSplit m k then partIndex (mapPmode m) (mapDim m k) g r (mapBlock m) j else j

/-- The number of elements of the view (R99). -/
def viewSize (m : Rec) (g r : Nat) : Nat :=
  viewExtent m g r 0 * viewExtent m g r 1 * viewExtent m g r 2 * viewExtent m g r 3

/-- The original indices of a linear index of the view (R99). -/
def viewIndices (m : Rec) (g r l : Nat) : Nat × Nat × Nat × Nat :=
  let e0 := viewExtent m g r 0
  let e1 := viewExtent m g r 1
  let e2 := viewExtent m g r 2
  let e3 := viewExtent m g r 3
  (viewIndex m g r 0 (l % e0), viewIndex m g r 1 (l / e0 % e1), viewIndex m g r 2 (l / e0 / e1 % e2),
   viewIndex m g r 3 (l / e0 / e1 / e2 % e3))

/-- The element's offset in elements from the base (R99). -/
def viewOffset (m : Rec) (g r l : Nat) : Nat :=
  let (i0, i1, i2, i3) := viewIndices m g r l
  i0 + mapStride m 1 * i1 + mapStride m 2 * i2 + mapStride m 3 * i3

/-- The virtual address of a valid linear index (R99); none for an invalid one. -/
def viewVa (m : Rec) (g r l : Nat) : Option Nat :=
  if l < viewSize m g r then some ((mapBase m + mapEsize m * viewOffset m g r l) % 2 ^ 48) else none

/-- Whether the record of a map is malformed at TMSET: its element code, a reserved field, its partition (R100). For
element code 11, words w2 to w10 hold the three arrays of R135, whose reserved fields the caller checks. -/
def mapMalformed (m : Rec) : Bool :=
  11 < mapEt m || bits (Rec.w m 1) 28 4 != 0 || bits (Rec.w m 11) 5 27 != 0 ||
    ((List.range 4).any fun i => Rec.w m (12 + i) != 0) ||
    (mapEt m != 11 && ((mapPmode m != 0 && mapDims m < mapPdim m) || (mapPmode m == 3 && mapBlock m == 0)))

end Sys2Proof.Machine
end

