-- ==== Sys2Proof/Machine/Flags.lean ====
section
/-! DEFINITION. The status and sticky flags: status (R51), vstat (R37), ocnt (R50, R74) and cause (R52). -/

namespace Sys2Proof.Machine

/-- status.VL set by a write of vector, predicate, tile or loop state (R51). (DESIGN CHOICE, log 20). -/
def TaskCtx.live (t : TaskCtx) : TaskCtx := { t with vl := true }

/-- Sticky vstat flags set (R37). -/
def TaskCtx.flag (f : BitVec 4) (t : TaskCtx) : TaskCtx := { t with vstat := t.vstat ||| f }

/-- Sticky pstat flags set: bit 1 OVF, bit 0 IWC (R50). -/
def TaskCtx.pflag (f : BitVec 2) (t : TaskCtx) : TaskCtx := { t with pstat := t.pstat ||| f }

/-- The status register of a context (R51). -/
def statusWord (ctx : CtxSel) (t : TaskCtx) : Word :=
  match ctx with
  | .handler => 4#32
  | _ => BitVec.ofNat 32 (t.svl.toNat * 512 + (ctx == .tc1).toNat * 8 + t.vl.toNat * 2 + t.trapMode.toNat)

/-- The cause register (R52). -/
def causeWord (t : TaskCtx) : Word := BitVec.ofNat 32 (t.causeA.toNat * 128 + t.causeCode.toNat)

/-- The ocnt register: messages, tile commands, copies, stores, loads (R50). -/
def ocntWord (o : Ocnt) : Word :=
  BitVec.ofNat 32 (o.msgs * 2 ^ 26 + o.cmds * 2 ^ 21 + o.copies * 2 ^ 12 + o.stores * 2 ^ 6 + o.loads)

/-- A halfword offset as its register shows it (R52). -/
def offsetWord (o : BitVec 24) : Word := BitVec.ofNat 32 (o.toNat * 2)

/-- The limit that a WAITO code sets; none for code 15 (R107). -/
def waitoLimit (c : BitVec 4) : Option Nat :=
  match c.toNat with
  | 0 => some 0
  | 1 => some 1
  | 2 => some 2
  | 3 => some 3
  | 4 => some 4
  | 5 => some 6
  | 6 => some 8
  | 7 => some 12
  | 8 => some 16
  | 9 => some 24
  | 10 => some 32
  | 11 => some 48
  | 12 => some 64
  | 13 => some 128
  | 14 => some 192
  | _ => none

/-- Whether a count is at or below the limit of a code (R107). -/
def withinLimit (c : BitVec 4) (n : Nat) : Bool :=
  match waitoLimit c with
  | some l => n ≤ l
  | none => true

/-- The token as MFS pq reads it (R144). -/
def tokenWord (t : Token) : Word :=
  match t.f with
  | some c => BitVec.ofNat 32 (2 ^ 31 + c.code * 2 ^ 24 + t.seq.toNat)
  | none => BitVec.ofNat 32 t.seq.toNat

/-- The transfer ID of a slot (R191). -/
def transferId (slot : Nat) (gen : BitVec 8) : Word := BitVec.ofNat 32 (gen.toNat * 256 + slot)

/-- The completion record of a transfer (R200); flags hold OVF, NAN, SAT and IWC in the places of vstat. -/
def recordWord (slot : Nat) (t : Transfer) : Word :=
  let f := match t.fault with
    | some (c, _) => 2 ^ 31 + c.code * 2 ^ 24
    | none => 0
  BitVec.ofNat 32 (f + (t.fault.isNone && t.cancelled).toNat * 2 ^ 23 + (t.flags.getLsbD 0).toNat * 2 ^ 22 +
    (t.flags.getLsbD 2).toNat * 2 ^ 21 + (t.flags.getLsbD 1).toNat * 2 ^ 20 + (t.flags.getLsbD 3).toNat * 2 ^ 19) +
    transferId slot t.gen

end Sys2Proof.Machine
end

