-- ==== Sys2Proof/Machine/Routes.lean ====
section
/-! DEFINITION. Routes to other parts, what keeps a packet from one, and which senders a context admits (R337 to R339, R344,
R345). -/

namespace Sys2Proof.Machine

/-- The coordinate of a part in dimension d: 0 is A (R337). -/
def coord (p d : Nat) : Nat := bits p (9 - 3 * d) 3

/-- The port by which a packet leaves for a destination in an order of dimensions (R338). -/
def State.portBy (s : State) (dst : Nat) (order : List (Fin 4)) : Option Nat :=
  (order.find? fun (d : Fin 4) => coord s.partAddr d.val != coord dst d.val).map fun (d : Fin 4) =>
    let o := coord s.partAddr d.val
    let t := coord dst d.val
    let n := s.dims[d]
    let plus := if s.wraps[d] then decide ((t + n - o % n) % n ≤ n / 2) else decide (o < t)
    2 * d.val + if plus then 0 else 1

/-- The two orders of dimensions (R338). -/
def orderOf (detour : Bool) : List (Fin 4) := if detour then [3, 2, 1, 0] else [0, 1, 2, 3]

/-- Whether a port that a packet needs is in service. -/
def State.portUp (s : State) (p : Option Nat) : Bool :=
  match p with
  | some p => !s.portsDown.contains p
  | none => true

/-- The port that a packet to a destination takes now (R338). -/
def State.portTo (s : State) (dst : Nat) : Option Nat := s.portBy dst (orderOf (s.detours.contains dst))

/-- Whether a destination can be reached in one of the two orders (R338, R369). -/
def State.routed (s : State) (dst : Nat) : Bool :=
  dst == s.partAddr || (s.feature 3 && dst < 4096 && ([0, 1, 2, 3].all fun (d : Fin 4) => decide (coord dst d.val < s.dims[d])) &&
    (s.portUp (s.portBy dst (orderOf false)) || s.portUp (s.portBy dst (orderOf true))))

/-- What keeps a request from a destination: no route, or a port out of service (R338, R339). -/
def State.linkFault (s : State) (dst : Nat) : Option (Cause × Nat) :=
  if !s.routed dst then some (.routeUnreachable, dst)
  else if s.portUp (s.portTo dst) then none
  else some (.linkDown, (s.portTo dst).getD 0)

/-- The trap of an instruction whose destination neither order reaches (R338). A port out of service traps nothing at issue: the request
fails with LINK_DOWN after it (R339). -/
def State.linkTrap (s : State) (dst : Nat) : Option Trap :=
  if s.routed dst then none else some ⟨.routeUnreachable, false, BitVec.ofNat 32 dst⟩

/-- What keeps a SEND from its destination, which may be on a ring port (R344). -/
def State.sendFault (s : State) (ring : Option Nat) (dst : Nat) : Option (Cause × Nat) :=
  match ring with
  | none => s.linkFault dst
  | some r =>
    if !s.feature 4 || s.ringPeers.toList.getD r none != some dst then some (.routeUnreachable, dst)
    else if s.portsDown.contains (8 + r) then some (.linkDown, r) else none

/-- Whether a context's access-control entries let a sender in: V, the part, and AC or the context ID (R345). -/
def Context.admits (part ctx : Nat) (c : Context) : Bool :=
  c.acl.any fun w =>
    let n := w.toNat
    bits n 31 1 == 1 && bits n 10 12 == part && (bits n 30 1 == 1 || bits n 0 10 == ctx)

/-- What is sent to another part, with the detour bit of its destination (R338). -/
def State.toPart (p : Nat) (r : FabReq) (s : State) : State :=
  { s with fabricOut := s.fabricOut ++ [(p, s.detours.contains p, r)] }

/-- A request sent to another part that nothing else here names: it is under way until it has arrived, has been answered, or has failed
(R338, R339). -/
def State.toPartAway (p : Nat) (r : FabReq) (s : State) : State :=
  { s.toPart p r with flight := s.flight ++ [(p, r)] }

/-- A store or a message of an issuing context sent to another part (R339): where the port is out of service, its failure comes back as
that of one already issued. -/
def State.toPartOr (p : Nat) (r : FabReq) (n : Cause → Nat → Nack) (s : State) : State :=
  match s.linkFault p with
  | some (c, v) => s.post (.remoteNack (n c v))
  | none => s.toPartAway p r

/-- A request is under way no longer. -/
def State.endFlight (r : FabReq) (s : State) : State :=
  match s.flight.find? fun e => e.2 == r with
  | some e => { s with flight := s.flight.erase e }
  | none => s

/-- Whether what goes to a destination uses a port. -/
def State.usesPort (s : State) (port dst : Nat) : Bool := dst != s.partAddr && s.portTo dst == some port

/-- The port by which the part pulls a message's payload (R344, R354): the ring port on the sender's side, or a fabric port. -/
def State.pullsBy (s : State) (port : Nat) (h : Header) : Bool :=
  h.eager.isNone && match h.ring with
    | some r => port == 9 - r
    | none => s.usesPort port h.spart

end Sys2Proof.Machine
end

