-- ==== Sys2Proof/Machine/Pages.lean ====
section
/-! DEFINITION. Physical ranges, page tables, the checks of an access against its leaf, page states, slices, poison and the
victim tier (R14 to R18, R210 to R212, R255 to R262, R265 to R270). -/

namespace Sys2Proof.Machine

/-! ## Physical space (R17) -/

/-- The LPDDR range (R17). -/
def inLpddr (pa : Nat) : Bool := pa < 0x20000000000
/-- The VAULT range (R17). -/
def inVault (pa : Nat) : Bool := 0x20000000000 ≤ pa && pa < 0x20800000000
/-- The LOCALWIN range (R17). -/
def inLocalwin (pa : Nat) : Bool := 0x30000000000 ≤ pa && pa < 0x30200000000
/-- The HOST range (R17). -/
def inHost (pa : Nat) : Bool := 0x40000000000 ≤ pa && pa < 0x80000000000

/-- Whether an address lies in the range that R17 gives for a kind; a REMOTE frame is checked at its home (R18). -/
def kindHolds (kind pa : Nat) : Bool :=
  match kind with
  | 0 => inLpddr pa
  | 1 => inVault pa
  | 2 => inLocalwin pa
  | 3 => inHost pa
  | _ => true

/-- The die of a frame of kinds 0 to 2 (R258). -/
def frameDie (kind pa : Nat) : Nat :=
  match kind with
  | 0 => bits pa 38 3
  | 1 => bits pa 32 3
  | _ => bits pa 30 3

/-- The core and the local address of a LOCALWIN address (R17). -/
def windowCore (pa : Nat) : Nat × Nat := ((pa - 0x30000000000) / 0x8000, (pa - 0x30000000000) % 0x8000)

/-- The byte at a physical address of LPDDR, VAULT or LOCALWIN kind. -/
def State.physByte (s : State) (pa : Nat) : Byte :=
  if inLocalwin pa then (s.coreAt (windowCore pa).1).lm.byte (windowCore pa).2 else s.phys.byte pa

/-- Bytes at a physical address. -/
def State.physBytes (s : State) (pa n : Nat) : List Byte := (List.range n).map fun i => s.physByte (pa + i)

/-- Bytes written at a physical address of LPDDR, VAULT or LOCALWIN kind; full/empty bits are unchanged. -/
def State.setPhysBytes (pa : Nat) (bs : List Byte) (s : State) : State :=
  if inLocalwin pa then s.setLocalBytes (windowCore pa).1 (windowCore pa).2 bs
  else { s with phys := s.phys.setBytes pa bs }

/-! ## Channels (R11, R14, R263) -/

/-- The LPDDR-6 channel of a slice, of the eight of its die (R14): s[4:2]. -/
def sliceChannel (slice : Nat) : Nat := slice / 32 * 8 + bits slice 2 3

/-- The sub-channels on which the granule of an address lies, by die × 8 + channel and sub-channel, in their order (R263): within a die's
256 GiB a 1 KiB block lies on the quartet PA[10]. -/
def placement (granule pa : Nat) : List (Nat × Nat) :=
  let base := bits pa 38 3 * 8 + 4 * bits pa 10 1
  match granule with
  | 0 =>
    let u := bits pa 5 5 % 8
    [(base + u / 2, u % 2)]
  | 1 =>
    let c := base + bits pa 6 4 % 4
    [(c, 0), (c, 1)]
  | _ =>
    let c := base + 2 * (bits pa 7 3 % 2)
    [(c, 0), (c, 1), (c + 1, 0), (c + 1, 1)]

/-! ## Leaf entries (R257 to R260) -/

/-- A leaf as the walk finds it: the address of the first entry of its run, its raw value, its page's base and size. -/
structure Leaf where
  entry : Nat
  raw   : Nat
  base  : Nat
  size  : Nat
  deriving DecidableEq, Repr

/-- The page state (R258). -/
def Leaf.state (l : Leaf) : Nat := bits l.raw 1 3
/-- How many entries the run has (R258, R259). -/
def Leaf.run (l : Leaf) : Nat := 4 ^ bits l.raw 4 2
/-- The granule code (R258). -/
def Leaf.granule (l : Leaf) : Nat := bits l.raw 6 2
/-- The kind (R258). -/
def Leaf.kind (l : Leaf) : Nat := bits l.raw 8 3
/-- R: reads allowed (R258). -/
def Leaf.r (l : Leaf) : Bool := bits l.raw 11 1 == 1
/-- W: writes allowed (R258). -/
def Leaf.w (l : Leaf) : Bool := bits l.raw 12 1 == 1
/-- X: instruction fetch allowed (R258). -/
def Leaf.x (l : Leaf) : Bool := bits l.raw 13 1 == 1
/-- F: follow (R258). -/
def Leaf.f (l : Leaf) : Bool := bits l.raw 14 1 == 1
/-- The page's default reuse class (R258). -/
def Leaf.reuse (l : Leaf) : Nat := bits l.raw 15 2
/-- D: written (R258). -/
def Leaf.d (l : Leaf) : Bool := bits l.raw 18 1 == 1
/-- P: pinned (R258). -/
def Leaf.p (l : Leaf) : Bool := bits l.raw 19 1 == 1
/-- The physical address of the page (R258). -/
def Leaf.frame (l : Leaf) : Nat := bits l.raw 21 31 * 4096
/-- The home field (R258). -/
def Leaf.home (l : Leaf) : Nat := bits l.raw 52 12
/-- The physical address of a virtual address of the page. -/
def Leaf.pa (l : Leaf) (va : Nat) : Nat := l.frame + (va - l.base)

/-- A value with n bits from bit lo replaced. -/
def setBits (x lo n v : Nat) : Nat := x - bits x lo n * 2 ^ lo + v % 2 ^ n * 2 ^ lo

/-- What a walk finds (R257 to R260). -/
inductive Walk where
  | fault (c : Cause)
  | leaf (l : Leaf)
  deriving DecidableEq, Repr

/-- The rules of R260 for a leaf: state, kind, alignment, range, die and agreement of state and kind; F is treated as 0 while the part has
not accepted FOLLOW (R369). -/
def Leaf.wellFormed (l : Leaf) (follow : Bool) : Bool :=
  let k := l.kind
  let st := l.state
  st ≤ 5 && k ≤ 4 && l.frame % l.size == 0 &&
    kindHolds k l.frame && kindHolds k (l.frame + l.size - 1) &&
    (k != 2 || (l.frame % 0x8000) + l.size ≤ 0x7000) &&
    (st != 4 || k == 4) && (k != 4 || st == 4 || st == 3 || st == 5) &&
    ((st != 1 && st != 2) || k == 0) &&
    (!l.f || k == 4 || !follow) && (l.granule == 0 || k == 0) &&
    (!(k ≤ 2) || (l.home % 8 == frameDie k l.frame && l.home / 8 == 0)) && (k != 3 || l.home == 0)

/-- The leaf of an entry at level k of a table, replicated over its run (R259, R260), whose sectors the walker consumes (R266). -/
def leafAt (m : Mem) (poison : List Nat) (follow : Bool) (va k tbl idx e : Nat) : Walk :=
  let n := 4 ^ bits e 4 2
  let first := idx - idx % n
  let size := 4096 * 256 ^ k * n
  let l : Leaf := { entry := tbl + 8 * first, raw := e, base := va - va % size, size := size }
  if (List.range n).any fun i => poison.contains ((l.entry + 8 * i) / 32) then .fault .memUncorrectable
  else if l.wellFormed follow && (List.range n).all (fun i => m.le (l.entry + 8 * i) 8 == e) then .leaf l
  else .fault .pteMalformed

/-- The index of a level: 4 is the top table, 3 to 0 are L3 to L0 (R257). -/
def levelIndex (va k : Nat) : Nat := if k = 4 then bits va 44 4 else bits va (12 + 8 * k) 8

/-- The walk from a table at level k (R257 to R260), which lies in the LPDDR that exists, below top (R18, R369); a poisoned sector that it
reads stops it (R266). -/
def walkFrom (m : Mem) (poison : List Nat) (follow : Bool) (top va : Nat) : Nat → Nat → Walk
  | 0, tbl =>
    let idx := levelIndex va 0
    let e := m.le (tbl + 8 * idx) 8
    if top < tbl + 0x800 then .fault .pteMalformed
    else if poison.contains ((tbl + 8 * idx) / 32) then .fault .memUncorrectable
    else if bits e 0 1 = 0 then .fault .pageFault
    else leafAt m poison follow va 0 tbl idx e
  | k + 1, tbl =>
    let idx := levelIndex va (k + 1)
    let e := m.le (tbl + 8 * idx) 8
    if top < tbl + (if k = 3 then 0x80 else 0x800) then .fault .pteMalformed
    else if poison.contains ((tbl + 8 * idx) / 32) then .fault .memUncorrectable
    else if bits e 0 1 = 0 then .fault .pageFault
    else if 2 ≤ k ∨ bits e 11 3 = 0 then
      if bits e 1 4 = 0 ∧ bits e 6 15 = 0 ∧ bits e 52 12 = 0 then
        walkFrom m poison follow top va k (bits e 21 31 * 4096 + bits e 5 1 * 2048)
      else .fault .pteMalformed
    else leafAt m poison follow va (k + 1) tbl idx e

/-- The leaves below a table at level k that begins at a virtual address, in ascending order. -/
def leavesFrom (m : Mem) (follow : Bool) : Nat → Nat → Nat → List Leaf
  | 0, tbl, base =>
    (List.range 256).filterMap fun i =>
      let e := m.le (tbl + 8 * i) 8
      match leafAt m [] follow (base + 4096 * i) 0 tbl i e with
      | .leaf l => if bits e 0 1 = 1 ∧ l.base = base + 4096 * i then some l else none
      | .fault _ => none
  | k + 1, tbl, base =>
    (List.range (if k = 3 then 16 else 256)).flatMap fun i =>
      let e := m.le (tbl + 8 * i) 8
      let va := base + 4096 * 256 ^ (k + 1) * i
      if bits e 0 1 = 0 then []
      else if 2 ≤ k ∨ bits e 11 3 = 0 then leavesFrom m follow k (bits e 21 31 * 4096 + bits e 5 1 * 2048) va
      else match leafAt m [] follow va (k + 1) tbl i e with
        | .leaf l => if l.base = va then [l] else []
        | .fault _ => []

/-- The leaves of a context. -/
def State.leaves (s : State) (ctx : Nat) : List Leaf :=
  match (s.contexts.find ctx) with
  | some c => leavesFrom s.phys (s.feature 9) 4 c.root 0
  | none => []

/-- The leaves of a context that overlap a range. -/
def State.leavesIn (s : State) (ctx va n : Nat) : List Leaf :=
  (s.leaves ctx).filter fun l => l.base < va + n && va < l.base + l.size

/-- The page of LPDDR or VAULT kind that an address of a frame belongs to, with its context; the first where there are several, and none for
an ABSENT page, which has no frame. -/
def State.pageOfFrame (s : State) (pa : Nat) : Option (Nat × Leaf) :=
  (s.contexts.flatMap fun e => (s.leaves e.1).map fun l => (e.1, l)).find? fun e =>
    e.2.kind ≤ 1 && e.2.state != 5 && e.2.frame ≤ pa && pa < e.2.frame + e.2.size

/-- Whether a die runs: without DIES8 only CD0 (R2, R369). (DEDUCED, log 56). -/
def State.dieRuns (s : State) (die : Nat) : Bool := die == 0 || s.feature 0

/-- The end of the LPDDR that exists: without CHAN64 CD0's 256 GiB (R2, R369). -/
def State.lpddrEnd (s : State) : Nat := if s.feature 2 then 0x20000000000 else 2 ^ 38

/-- Whether the addresses from lo to below hi of a kind's range are populated: without CHAN64 only CD0's 256 GiB of LPDDR exist, and
without DIES8 only CD0's vaults and windows (R2, R18, R369). (DEDUCED, log 56). -/
def State.populated (s : State) (kind lo hi : Nat) : Bool :=
  match kind with
  | 0 => hi ≤ s.lpddrEnd
  | 1 | 2 => s.dieRuns (frameDie kind lo) && s.dieRuns (frameDie kind (hi - 1))
  | _ => true

/-- The walk of a context's tables for a virtual address (R257); a leaf whose frame does not exist is malformed (R18). (DEDUCED, log 65). -/
def State.walk (s : State) (ctx va : Nat) : Walk :=
  match walkFrom s.phys s.poison (s.feature 9) s.lpddrEnd (va % 2 ^ 48) 4 (s.contextAt ctx).root with
  | .leaf l => if s.populated l.kind l.frame (l.frame + l.size) then .leaf l else .fault .pteMalformed
  | .fault c => .fault c

/-- Every entry of a leaf's run written (R259). -/
def State.writeLeaf (l : Leaf) (raw : Nat) (s : State) : State :=
  { s with phys := (List.range l.run).foldl (fun m i => Mem.setLe (l.entry + 8 * i) 8 raw m) s.phys }

/-- The page's state changed in its entry (R258, R269). -/
def State.setPageState (l : Leaf) (st : Nat) (s : State) : State := s.writeLeaf l (setBits l.raw 1 3 st)

/-- A leaf's raw value with A set, and for a write D and K (R258). -/
def Leaf.touched (l : Leaf) (write : Bool) : Nat :=
  let raw := setBits l.raw 17 1 1
  if write then setBits (setBits raw 18 1 1) 20 1 1 else raw

/-- A set, and for a write D and K, as the walker sets them (R258, R261). -/
def State.touch (l : Leaf) (write : Bool) (s : State) : State :=
  if l.touched write = l.raw then s else s.writeLeaf l (l.touched write)

/-! ## What an access meets (R262, R267) -/

/-- What an access needs of its page (R262). -/
inductive Need where
  | read | write | atomic
  deriving DecidableEq, Repr

/-- The permission that a leaf lacks, R before W (R262). -/
def Leaf.denies (l : Leaf) (n : Need) : Option Cause :=
  if n ≠ .write ∧ !l.r then some .permRead
  else if n ≠ .read ∧ !l.w then some .permWrite
  else none

/-- What an element of an access meets at its page (R262, R267). -/
inductive Meet where
  | fault (c : Cause)
  /-- Performed at this physical address. -/
  | here (pa : Nat) (l : Leaf)
  /-- A read of a DISCARDED page: zero. -/
  | zero (l : Leaf)
  /-- The page is MIGRATING, or its pieces are being stored. -/
  | wait
  /-- For the pager: ABSENT, or a write of a DISCARDED page. -/
  | pager (l : Leaf)
  /-- VICTIM. -/
  | recall (l : Leaf)
  /-- A LOCALWIN page whose owner's group is SAVED: held until it resumes (R285). -/
  | held (g : Nat)
  | host (addr : Nat) (l : Leaf)
  | away (home pa : Nat) (l : Leaf)
  deriving DecidableEq, Repr

/-- The pieces of a page of the victim tier. -/
def State.victimOf (s : State) (ctx va : Nat) : Option Victim := s.victims.find? fun v => v.ctx == ctx && v.va == va

/-- The address on the host bus of a HOST frame (R17). (DESIGN CHOICE, log 63). -/
def State.hostAddr (s : State) (pa : Nat) : Nat := s.hostBase.toNat + (pa - 0x40000000000)

/-- What a RESIDENT page's kind makes of an access (R14, R267). -/
def State.meetResident (s : State) (ctx va : Nat) (l : Leaf) : Meet :=
  let pa := l.pa va
  match l.kind with
  | 2 =>
    match s.reach (windowCore pa).1 ctx true with
    | .here => .here pa l
    | .hold g => .held g
    | .nack => .fault .remoteUnreachable
  | 3 => if s.hostUp then .host (s.hostAddr pa) l else .fault .remoteUnreachable
  | _ => .here pa l

/-- What an access to a virtual address meets: R260, then permissions, then the page's state (R262, R267). -/
def State.meet (s : State) (ctx va : Nat) (n : Need) : Meet :=
  let va := va % 2 ^ 48
  match s.walk ctx va with
  | .fault c => .fault c
  | .leaf l =>
    match l.denies n with
    | some c => .fault c
    | none =>
      match l.state with
      | 0 => s.meetResident ctx va l
      | 1 => if n = .read then .zero l else .pager l
      | 2 =>
        match s.victimOf ctx l.base with
        | some v => if v.stored < v.places.length then .wait else .recall l
        | none => .recall l
      | 3 => .wait
      | 4 => .away l.home (l.pa va) l
      | _ => .pager l

/-- The trap of an element at issue: its page's, with tval = VA[31:0], or none (R260, R262, R267); a home part without a
route traps here too (R338). -/
def State.pageTrap (s : State) (ctx va : Nat) (n : Need) : Option Trap :=
  match s.meet ctx va n with
  | .fault c => some ⟨c, false, BitVec.ofNat 32 va⟩
  | .away home _ _ => if s.routed home then none else some ⟨.routeUnreachable, false, BitVec.ofNat 32 home⟩
  | _ => none

/-! ## Slices (R14, R211, R212, R255, R265, R266) -/

/-- The bytes of a granule (R258). -/
def granuleBytes (g : Nat) : Nat := 32 * 2 ^ g

/-- The slice that translates a virtual address of a context, die × 32 + slice (R255); the slices of every die translate, those of CD1 to
CD7 without DIES8 too. (DESIGN CHOICE, log 67). -/
def sliceOf (dl : Bool) (ctx va : Nat) : Nat :=
  let a := bits va 12 36
  let h := (a % 256) ^^^ bits a 8 8 ^^^ bits a 16 8 ^^^ bits a 24 8 ^^^ bits a 32 4 ^^^ (ctx % 256) ^^^ (bits ctx 8 2 * 64)
  if dl then bits va 45 3 * 32 + ((h % 32) ^^^ bits h 5 3) else bits h 5 3 * 32 + h % 32

/-- A slice's record. -/
def State.sliceAt (s : State) (k : Nat) : Slice := SMap.get {} s.slices k

/-- The state with a slice's record changed. -/
def State.modSlice (k : Nat) (f : Slice → Slice) (s : State) : State := { s with slices := s.slices.put k (f (s.sliceAt k)) }

/-- A slice's line of a context's 128 bytes, if it holds it. -/
def Slice.lineAt (sl : Slice) (ctx line : Nat) : Option SLine := sl.lines.find? fun l => l.ctx == ctx && l.line == line

/-- The line that holds a virtual address of a context, at the slice that translates it (R255, R265). -/
def State.lineOf (s : State) (ctx va : Nat) : Option SLine :=
  (s.sliceAt (sliceOf (s.contextAt ctx).dl ctx va)).lineAt ctx (va / 128)

/-- The sector of an address within its line. -/
def sectorOf (va : Nat) : Nat := va / 32 % 4

/-- The line that holds an address, when its sector is valid there: a hit (R265). -/
def State.sectorHit (s : State) (ctx va : Nat) : Option SLine :=
  match s.lineOf ctx va with
  | some l => if l.valid.getLsbD (sectorOf va) then some l else none
  | none => none

/-- A slice with a line put, or taken out when no sector of it is valid. -/
def Slice.putLine (l : SLine) (sl : Slice) : Slice :=
  let rest := sl.lines.filter fun m => !(m.ctx == l.ctx && m.line == l.line)
  { sl with lines := if l.valid = 0#4 then rest else rest ++ [l] }

/-- The frame's poison marks with those of a range of sectors set as a list of flags says (R266). -/
def markPoison (marks : List Nat) (sector : Nat) (bad : Bool) : List Nat :=
  if bad then (if marks.contains sector then marks else sector :: marks) else marks.filter (· != sector)

/-- The sectors of a line that a write-back writes: each dirty G32 sector alone, each granule of the other sizes whole (R265). -/
def SLine.backSectors (l : SLine) : List Nat :=
  let per := min 4 (2 ^ l.gran)
  (List.range 4).filter fun i =>
    l.valid.getLsbD i && (List.range per).any fun j => l.dirty.getLsbD (i / per * per + j)

/-- Sectors of a line written to its frame; their poison persists there, and none remains where they are sound (R266). -/
def State.writeSectors (l : SLine) (is : List Nat) (s : State) : State :=
  is.foldl (fun s i =>
    { s with phys := s.phys.setBytes (l.pa + 32 * i) ((l.bytes.drop (32 * i)).take 32),
             poison := markPoison s.poison (l.pa / 32 + i) (l.poison.getLsbD i) }) s

/-- The other line of a G256 granule, if its slice holds it (R265). -/
def State.granuleMate (s : State) (l : SLine) : Option SLine :=
  if l.gran = 3 then s.lineOf l.ctx (128 * (l.line ^^^ 1)) else none

/-- A line written back to its frame (R265); a dirty G256 granule is written whole, with its other line, which is then clean. -/
def State.writeBack (l : SLine) (s : State) : State :=
  let s := s.writeSectors l l.backSectors
  match (if l.dirty = 0#4 then none else s.granuleMate l) with
  | some m =>
    (s.writeSectors m ((List.range 4).filter m.valid.getLsbD)).modSlice (sliceOf (s.contextAt m.ctx).dl m.ctx (128 * m.line))
      (Slice.putLine { m with dirty := 0#4 })
  | none => s

/-- Whether a line of a slice is in its pin partition (R212). -/
def Slice.pinned (sl : Slice) (l : SLine) : Bool := sl.pins.any fun p => p.ctx == l.ctx && p.line == l.line

/-- The lines of a slice's general partition. -/
def Slice.general (sl : Slice) : List SLine := sl.lines.filter fun l => !sl.pinned l

/-- A line of a slice leaves it, written back if dirty (R212, R265). -/
def State.dropLine (k : Nat) (l : SLine) (s : State) : State :=
  (s.modSlice k fun sl => { sl with lines := sl.lines.filter fun m => !(m.ctx == l.ctx && m.line == l.line) }).writeBack l

/-- The lines of a page, in every slice, with the slice of each. -/
def State.pageLines (s : State) (ctx : Nat) (l : Leaf) : List (Nat × SLine) :=
  s.slices.flatMap fun (k, sl) =>
    (sl.lines.filter fun m => m.ctx == ctx && l.base ≤ 128 * m.line && 128 * m.line < l.base + l.size).map fun m => (k, m)

/-- Whether the sector of an address of a page is poisoned: in the slice's line, else in its frame (R266). -/
def State.poisonedAt (s : State) (ctx va : Nat) (l : Leaf) : Bool :=
  l.kind == 0 && match s.sectorHit ctx va with
    | some m => m.poison.getLsbD (sectorOf va)
    | none => s.poison.contains (l.pa va / 32)

/-- The bytes of a page at a virtual address: from the slice's line where that sector is valid, else from the frame (R265, R267). The
bytes lie within one 32-byte unit. -/
def State.memBytes (s : State) (ctx va n : Nat) (l : Leaf) : List Byte :=
  match (if l.kind = 0 then s.sectorHit ctx va else none) with
  | some m => (m.bytes.drop (va % 128)).take n
  | none => s.physBytes (l.pa va) n

/-- The virtual addresses of the sectors of the granule of an address. -/
def granuleSectors (g va : Nat) : List Nat :=
  (List.range (2 ^ g)).map fun i => va / granuleBytes g * granuleBytes g + 32 * i

/-- A line with one sector filled from its frame, if it is not valid yet. -/
def State.fillSector (va : Nat) (s : State) (m : SLine) : SLine :=
  let i := sectorOf va
  if m.valid.getLsbD i then m
  else
    { m with valid := m.valid ||| (1#4 <<< i),
             poison := if s.poison.contains (m.pa / 32 + i) then m.poison ||| (1#4 <<< i) else m.poison &&& ~~~(1#4 <<< i),
             bytes := (m.bytes.take (32 * i)) ++ s.phys.bytes (m.pa + 32 * i) 32 ++ m.bytes.drop (32 * i + 32) }

/-- The line of an address of a page as the slice holds it, or an empty one. -/
def State.lineFor (s : State) (ctx va : Nat) (l : Leaf) : SLine :=
  (s.lineOf ctx va).getD { ctx := ctx, line := va / 128, pa := l.pa va / 128 * 128, gran := l.granule, valid := 0#4, dirty := 0#4, poison := 0#4,
                           bytes := List.replicate 128 0#8 }

/-- The granule of an address of a page fetched into its slice: exactly one granule, of two lines for G256 (R265). -/
def State.fetchGranule (ctx va : Nat) (l : Leaf) (s : State) : State :=
  (granuleSectors l.granule va).foldl (fun s a =>
    s.modSlice (sliceOf (s.contextAt ctx).dl ctx a) (Slice.putLine (s.fillSector a (s.lineFor ctx a l)))) s

/-- A line with bytes written at an address within one of its sectors, which becomes valid and dirty; a whole sector's write of a G32
granule is sound (R265, R266). -/
def SLine.write (va : Nat) (bs : List Byte) (m : SLine) : SLine :=
  let i := sectorOf va
  { m with valid := m.valid ||| (1#4 <<< i), dirty := m.dirty ||| (1#4 <<< i),
           poison := if m.gran = 0 ∧ bs.length = 32 then m.poison &&& ~~~(1#4 <<< i) else m.poison,
           bytes := (m.bytes.take (va % 128)) ++ bs ++ m.bytes.drop (va % 128 + bs.length) }

/-- Whether a reuse class allocates lines: 1 and 2 do; 0 and 3 stream (R210). -/
def allocates (reuse : Nat) : Bool := reuse == 1 || reuse == 2

/-- Bytes of a page written at a virtual address, within one 32-byte unit (R265): in the slice's line; a miss that allocates fetches the
granule first, unless it writes a whole G32 sector; one that does not allocate is written to the frame. (DEDUCED, log 65). -/
def State.memWrite (ctx va reuse : Nat) (l : Leaf) (bs : List Byte) (s : State) : State :=
  if l.kind ≠ 0 then s.setPhysBytes (l.pa va) bs
  else
    let k := sliceOf (s.contextAt ctx).dl ctx va
    if (s.sectorHit ctx va).isSome then s.modSlice k (Slice.putLine ((s.lineFor ctx va l).write va bs))
    else if allocates reuse then
      let s := if l.granule = 0 ∧ bs.length = 32 then s else s.fetchGranule ctx va l
      s.modSlice k (Slice.putLine ((s.lineFor ctx va l).write va bs))
    else
      let s := s.setPhysBytes (l.pa va) bs
      if l.granule = 0 ∧ bs.length = 32 then { s with poison := markPoison s.poison (l.pa va / 32) false } else s

/-- The parts of a stretch of at most 32 bytes that lie in one aligned 32-byte unit each. -/
def unitParts (a n : Nat) : List (Nat × Nat) :=
  if a % 32 + n ≤ 32 then [(a, n)] else [(a, 32 - a % 32), (a / 32 * 32 + 32, n - (32 - a % 32))]

/-- The bytes of an element of a page, which two units may share. -/
def State.elemBytes (s : State) (ctx va n : Nat) (l : Leaf) : List Byte :=
  (unitParts va n).flatMap fun u => s.memBytes ctx u.1 u.2 l

/-- An element of a page written, which two units may share. -/
def State.elemWrite (ctx va reuse : Nat) (l : Leaf) (bs : List Byte) (s : State) : State :=
  (unitParts va bs.length).foldl (fun s u => s.memWrite ctx u.1 reuse l ((bs.drop (u.1 - va)).take u.2)) s

/-- The slice's line that holds the sector of an address of a frame, with its slice, if one does. -/
def State.frameLine (s : State) (pa : Nat) : Option (Nat × SLine) :=
  s.slices.findSome? fun (k, sl) =>
    (sl.lines.find? fun m => m.pa == pa / 128 * 128 && m.valid.getLsbD (sectorOf pa)).map fun m => (k, m)

/-- The bytes of a frame by its address, within one 32-byte unit, as an access from another part finds them: a slice's line that holds them
has the frame's current bytes (R14, R267). (DEDUCED, log 58). -/
def State.frameBytes (s : State) (pa n : Nat) : List Byte :=
  match s.frameLine pa with
  | some (_, m) => (m.bytes.drop (pa % 128)).take n
  | none => s.physBytes pa n

/-- Bytes of a frame written by its address, within one 32-byte unit: in the line that holds them, else in the frame. (DEDUCED, log 58). -/
def State.frameWrite (pa : Nat) (bs : List Byte) (s : State) : State :=
  match s.frameLine pa with
  | some (k, m) => s.modSlice k (Slice.putLine (m.write pa bs))
  | none => s.setPhysBytes pa bs

/-- The bytes of an element at a frame, which two units may share. -/
def State.frameElem (s : State) (pa n : Nat) : List Byte := (unitParts pa n).flatMap fun u => s.frameBytes u.1 u.2

/-- An element at a frame written, which two units may share. -/
def State.frameElemWrite (pa : Nat) (bs : List Byte) (s : State) : State :=
  (unitParts pa bs.length).foldl (fun s u => s.frameWrite u.1 ((bs.drop (u.1 - pa)).take u.2)) s

/-- Whether the sector of an address of a frame is poisoned (R266). -/
def State.framePoisoned (s : State) (pa : Nat) : Bool :=
  match s.frameLine pa with
  | some (_, m) => m.poison.getLsbD (sectorOf pa)
  | none => s.poison.contains (pa / 32)

/-- The poison of a sector of a frame set or cleared, in the line that holds it, else in the frame (R266). -/
def State.markFrame (pa : Nat) (bad : Bool) (s : State) : State :=
  match s.frameLine pa with
  | some (k, m) =>
    let bit : BitVec 4 := 1#4 <<< sectorOf pa
    s.modSlice k (Slice.putLine { m with poison := if bad then m.poison ||| bit else m.poison &&& ~~~bit })
  | none => { s with poison := markPoison s.poison (pa / 32) bad }

/-- What a read of a page leaves in its slice: a miss of an allocating class fetches the granule (R210, R265). (DEDUCED, log 65). -/
def State.memRead (ctx va reuse : Nat) (l : Leaf) (s : State) : State :=
  if l.kind = 0 ∧ allocates reuse ∧ (s.sectorHit ctx va).isNone then s.fetchGranule ctx va l else s

/-- The poison of a granule of a page that a write covers whole is cleared (R266). -/
def State.clearPoison (ctx va : Nat) (l : Leaf) (s : State) : State :=
  if l.kind ≠ 0 then s else
  (granuleSectors l.granule va).foldl (fun s a =>
    match s.sectorHit ctx a with
    | some m => s.modSlice (sliceOf (s.contextAt ctx).dl ctx a) (Slice.putLine { m with poison := m.poison &&& ~~~(1#4 <<< sectorOf a) })
    | none => { s with poison := markPoison s.poison (l.pa a / 32) false }) s

/-- The four counters of a line: each row hashes by a function of its own (R211; assumption 7). (DESIGN CHOICE, log 7). -/
def sketchKeys (ctx line : Nat) : List Nat := (List.range 4).map fun i => i * 1024 + Config.sketchHash i ctx line % 1024

/-- The estimate of a line: the least of its four counters (R211). (DESIGN CHOICE, log 51). -/
def Slice.estimate (sl : Slice) (ctx line : Nat) : Nat :=
  ((sketchKeys ctx line).map fun k => SMap.get 0 sl.sketch k).foldl min 255

/-- The way of a set for a new pin: an empty one, else the lowest with the least count (R212). -/
def Slice.pinWay (sl : Slice) (set : Nat) : Nat :=
  let used := sl.pins.filter fun p => p.set == set
  match (List.range 8).find? fun w => !(used.any fun p => p.way == w) with
  | some w => w
  | none =>
    let least := (used.map (·.count)).foldl min 255
    ((List.range 8).find? fun w => used.any fun p => p.way == w && p.count == least).getD 0

/-- The sketch after one more request for a line (R211). -/
def Slice.sketched (sl : Slice) (ctx line : Nat) : Slice :=
  { sl with sketch := (sketchKeys ctx line).foldl (fun m k => SMap.put k (min 255 (SMap.get 0 m k + 1)) m) sl.sketch,
            class2 := sl.class2 + 1 }

/-- Whether a class-2 request for a line would pin it (R212). -/
def Slice.pinsNow (sl : Slice) (threshold ctx line : Nat) : Bool :=
  !(sl.pins.any fun p => p.ctx == ctx && p.line == line) && threshold != 0 && threshold ≤ (sl.sketched ctx line).estimate ctx line

/-- A class-2 request: counted in the sketch, and its line pinned at or above the threshold (R211, R212). -/
def Slice.class2Request (threshold ctx line : Nat) (sl : Slice) : Slice :=
  let sl := sl.sketched ctx line
  let est := sl.estimate ctx line
  if sl.pins.any fun p => p.ctx == ctx && p.line == line then
    { sl with pins := sl.pins.map fun p => if p.ctx == ctx && p.line == line then { p with count := est } else p }
  else if threshold ≠ 0 ∧ threshold ≤ est then
    let set := Config.pinSet ctx line % 1024
    let way := sl.pinWay set
    { sl with pins := { set := set, way := way, ctx := ctx, line := line, count := est } ::
        sl.pins.filter fun p => !(p.set == set && p.way == way) }
  else sl

/-- How many leaves a translation cache holds, and how many pointers a pointer cache (R256). -/
def tlbSize : Nat := 2048
/-- How many pointers a pointer cache holds (R256). -/
def ptrSize : Nat := 128

/-- A list with one place taken out when it is full: which one is left open (R256; assumption 4). (DESIGN CHOICE, log 4). -/
def State.makeRoom {α : Type} (n : Nat) (xs : List α) (s : State) : List α × State :=
  if xs.length < n then (xs, s)
  else (xs.eraseIdx (Config.choice s.freeCount xs.length % xs.length), { s with freeCount := s.freeCount + 1 })

/-- The pointers that a walk for an address reads: the top, L3, L2 and L1 entries, by level and index prefix (R256, R257). -/
def walkPointers (ctx va : Nat) : List (Nat × Nat × Nat) := (List.range 4).map fun i => (ctx, i, va / 2 ^ (44 - 8 * i))

/-- A pointer held by a slice. -/
def State.holdPointer (k : Nat) (s : State) (p : Nat × Nat × Nat) : State :=
  if (s.sliceAt k).ptrs.contains p then s
  else
    let (ps, s) := s.makeRoom ptrSize (s.sliceAt k).ptrs
    s.modSlice k fun sl => { sl with ptrs := ps ++ [p] }

/-- The access count of a page, of three bits, kept with its leaf in a slice's translation cache (R256, R270); a leaf that is not held is
walked for, its pointers held too. What the caches hold of the tables is what the tables hold: only firmware writes those, with a shoot-down
(R261); so the walk itself reads the tables. (DEDUCED, log 80). -/
def State.countAccess (k ctx page va : Nat) (s : State) : State :=
  let mine (e : Nat × Nat × Nat) : Bool := e.1 == ctx && e.2.1 == page
  if (s.sliceAt k).counts.any mine then
    s.modSlice k fun sl => { sl with counts := sl.counts.map fun e => if mine e then (ctx, page, min 7 (e.2.2 + 1)) else e }
  else
    let s := (walkPointers ctx va).foldl (State.holdPointer k) s
    let (cs, s) := s.makeRoom tlbSize (s.sliceAt k).counts
    s.modSlice k fun sl => { sl with counts := cs ++ [(ctx, page, 1)] }

/-- The pinned line that a new pin of a line would replace is written back if dirty (R212). -/
def State.unpin (k ctx line : Nat) (s : State) : State :=
  let sl := s.sliceAt k
  let set := Config.pinSet ctx line % 1024
  match sl.pins.find? fun p => p.set == set && p.way == sl.pinWay set with
  | some p =>
    match sl.lineAt p.ctx p.line with
    | some m => s.dropLine k m
    | none => s
  | none => s

/-- A request noted at the slice of its virtual address: the page's access count, and a class-2 line's sketch (R211, R270). -/
def State.noteRequest (ctx va reuse : Nat) (l : Leaf) (s : State) : State :=
  let k := sliceOf (s.contextAt ctx).dl ctx va
  let s := s.countAccess k ctx l.base va
  if reuse = 2 ∧ l.kind = 0 ∧ s.feature 10 then
    let s := if (s.sliceAt k).pinsNow s.pinThreshold.toNat ctx (va / 128) then s.unpin k ctx (va / 128) else s
    s.modSlice k (Slice.class2Request s.pinThreshold.toNat ctx (va / 128))
  else s

/-- A page that leaves RESIDENT, or whose entry changes, loses its lines, its pinned lines and its counts at every slice (R212, R261): its
dirty lines are written back, unless the page is discarded (R269). -/
def State.dropPage (ctx : Nat) (l : Leaf) (keep : Bool) (s : State) : State :=
  let lines := s.pageLines ctx l
  let s := if keep then lines.foldl (fun s e => s.writeBack e.2) s else s
  { s with slices := s.slices.map fun (k, sl) =>
      (k, { sl with lines := sl.lines.filter (fun m => !(lines.any fun e => e.2.ctx == m.ctx && e.2.line == m.line)),
                    pins := sl.pins.filter (fun p => !(p.ctx == ctx && l.base ≤ 128 * p.line && 128 * p.line < l.base + l.size)),
                    counts := sl.counts.filter fun e => !(e.1 == ctx && e.2.1 == l.base) }) }

/-- Whether a range of frames has a poisoned sector (R266). -/
def State.rangePoisoned (s : State) (pa n : Nat) : Bool := s.poison.any fun k => pa < 32 * k + 32 && 32 * k < pa + n

/-- Bytes written straight to a frame, past the slices: the poison of the granules that they cover whole is cleared (R266). -/
def State.writeFrame (pa : Nat) (bs : List Byte) (s : State) : State :=
  let n := granuleBytes (((s.pageOfFrame pa).map fun e => e.2.granule).getD 0)
  let whole (k : Nat) : Bool := pa ≤ 32 * k / n * n && 32 * k / n * n + n ≤ pa + bs.length
  { s.setPhysBytes pa bs with poison := if s.poison.isEmpty then [] else s.poison.filter fun k => !whole k }

/-- A frame filled with zeros, its poison cleared: every granule of it is written whole (R266, R269). -/
def State.zeroFrame (pa n : Nat) (s : State) : State :=
  { s with phys := s.phys.clear pa n, poison := s.poison.filter fun k => 32 * k < pa || pa + n ≤ 32 * k }

/-! ## The victim tier (R270) -/

/-- The piece slots of a core that hold a piece or are to receive one; a recalled piece's slot is free (R75, R270). -/
def State.pieceSlots (s : State) (k : Nat) : List Nat :=
  s.victims.flatMap fun v => v.places.zipIdx.filterMap fun (p, i) => if p.1 == k && !v.recalled.contains i then some p.2 else none

/-- The lowest free piece slots of a core, of slots 0 to 55 (R270). (DESIGN CHOICE, log 8). -/
def State.freePieces (s : State) (k : Nat) : List Nat :=
  (List.range 56).filter fun p => !(s.pieceSlots k).contains p

/-- A core of a die that runs, OFF or HOLDING, with n free piece slots, the lowest (R2; assumption 8). (DESIGN CHOICE, log 8). -/
def State.pieceCore (s : State) (die n : Nat) : Option Nat :=
  if s.dieRuns die then
    ((List.range 32768).map (die * 32768 + ·)).find? fun k =>
      ((s.coreAt k).power == .off || (s.coreAt k).power == .holding) && n ≤ (s.freePieces k).length
  else none

/-- How many pages the directory of a lead holds (R270). -/
def directorySize : Nat := 256

/-- The pages of the victim tier whose lead is a slice. -/
def State.victimsOf (s : State) (k : Nat) : List Victim :=
  s.victims.filter fun v => sliceOf (s.contextAt v.ctx).dl v.ctx v.va == k

/-- Whether a page may go to the victim tier: RESIDENT, kind 0, not pinned, at most 16 KiB, with dirty lines in some slice (R270). -/
def State.candidate (s : State) (ctx : Nat) (l : Leaf) : Bool :=
  l.state == 0 && l.kind == 0 && !l.p && l.size ≤ 16384 && (s.pageLines ctx l).any fun e => e.2.dirty != 0#4

/-- The sectors of a page, by virtual address. -/
def Leaf.sectors (l : Leaf) : List Nat := (List.range (l.size / 32)).map fun i => l.base + 32 * i

/-- A page goes to the victim tier: its bytes, gathered from its slices and its frame, travel in pieces to a core of the lead's die, and
its lines are dropped (R269, R270). -/
def State.victimise (ctx : Nat) (l : Leaf) (s : State) : State :=
  let lead := sliceOf (s.contextAt ctx).dl ctx l.base
  let n := l.size / 512
  if !s.feature 8 ∨ directorySize ≤ (s.victimsOf lead).length then s else
  match s.pieceCore (lead / 32) n with
  | some k =>
    let places : List (Nat × Nat) := ((s.freePieces k).take n).map fun p => (k, p)
    let stores := places.zipIdx.map fun ((k, p), i) =>
      Event.victimPieceStore k p ctx (l.base + 512 * i)
        ((List.range 16).flatMap fun j => s.memBytes ctx (l.base + 512 * i + 32 * j) 32 l)
    let bad := (l.sectors.filter fun va => s.poisonedAt ctx va l).map (· / 32)
    let v : Victim := { ctx := ctx, va := l.base, places := places, poison := bad }
    let s := { s with victims := s.victims ++ [v] }
    State.postAll stores ((s.setPageState l 2).dropPage ctx l false)
  | none => s

/-- The clock hand of a slice passes entries of its translation cache, how many is left open, and halves each count; the entries whose
count has come to zero (R270; assumption 4). (DESIGN CHOICE, log 4). -/
def State.sweep (k : Nat) (s : State) : List (Nat × Nat) × State :=
  let sl := s.sliceAt k
  let len := sl.counts.length
  let n := Config.choice s.freeCount (len + 1) % (len + 1)
  let passed := (List.range n).map fun j => (sl.hand + j) % len
  let counts := sl.counts.zipIdx.map fun (e, i) => if passed.contains i then (e.1, e.2.1, e.2.2 / 2) else e
  let zeros := passed.filterMap fun i => (counts[i]?).bind fun e => if e.2.2 = 0 then some (e.1, e.2.1) else none
  (zeros, { s.modSlice k (fun sl => { sl with counts := counts, hand := (sl.hand + n) % max len 1 }) with freeCount := s.freeCount + 1 })

/-- The page that a lead takes of those that a sweep brought to zero: a candidate of class 0 before the others (R270). -/
def State.chooseVictim (s : State) (k : Nat) (zeros : List (Nat × Nat)) : Option (Nat × Leaf) :=
  let leaves := zeros.filterMap fun (ctx, page) =>
    match s.walk ctx page with
    | .leaf l => if l.base = page ∧ sliceOf (s.contextAt ctx).dl ctx page = k ∧ s.candidate ctx l then some (ctx, l) else none
    | .fault _ => none
  match leaves.find? fun e => e.2.reuse == 0 with
  | some e => some e
  | none => leaves.head?

/-- The lines that the general partition of a slice holds: 3 of its 4 MiB (R11, R212). -/
def generalLines : Nat := 24576

/-- A slice evicts a line of its general partition, which one is left open (assumption 4): it is written back if dirty, the clock hand
sweeps, and at most one candidate page goes to the victim tier (R265, R270). (DESIGN CHOICE, logs 4 and 68). -/
def State.evict (k : Nat) (s : State) : State :=
  let g := (s.sliceAt k).general
  match g[Config.choice s.freeCount g.length % g.length]? with
  | some m =>
    let s := State.dropLine k m { s with freeCount := s.freeCount + 1 }
    let (zeros, s) := s.sweep k
    match s.chooseVictim k zeros with
    | some (ctx, l) => s.victimise ctx l
    | none => s
  | none => s

/-- A slice that may have allocated lines evicts those beyond its general partition, and perhaps one more: when a set is full is left
open (assumption 4). (DESIGN CHOICE, log 4). -/
def State.evictOver (k : Nat) (s : State) : State :=
  let s := (List.range ((s.sliceAt k).general.length - generalLines)).foldl (fun s _ => s.evict k) s
  let (more, s) := s.flip
  if more then s.evict k else s

/-- The slices of the sectors of some pieces of memory, each an address of a context and a leaf: evictions after they allocated. -/
def State.evictFor (ctx : Nat) (vas : List Nat) (s : State) : State :=
  (vas.map (sliceOf (s.contextAt ctx).dl ctx)).eraseDups.foldl (fun s k => s.evictOver k) s

/-- The recall of a page's pieces begins, once (R270). -/
def State.recall (ctx page : Nat) (s : State) : State :=
  match s.victimOf ctx page with
  | some v =>
    if v.recalling then s
    else
      let mark (u : Victim) : Victim := if u == v then { u with recalling := true } else u
      State.postAll (v.places.map fun p => .victimPieceRecall p.1 p.2) { s with victims := s.victims.map mark }
  | none => s

/-- A HOLDING core without a piece goes OFF (R75). -/
def State.powerDown (k : Nat) (s : State) : State :=
  if (s.coreAt k).power = .holding ∧ s.pieceSlots k = [] then
    s.modCore k fun c => { c with power := .off, lm := [], fe := [] }
  else s

/-- A page's pieces are freed (R269). -/
def State.freeVictim (ctx page : Nat) (s : State) : State :=
  match s.victimOf ctx page with
  | some v =>
    let s := { s with victims := s.victims.filter (· != v) }
    (v.places.map (·.1)).eraseDups.foldl (fun s k => s.powerDown k) s
  | none => s

/-- VICTIM_PIECE_STORE (R75, R270): an OFF core powers its banks and becomes HOLDING; the piece stands at 512 × slot. A
piece still on its way when a bind record names the core lands before it is recalled (R326). -/
def execVictimPieceStore (s : State) : Out :=
  match s.now with
  | some (.victimPieceStore k p ctx _ bs) =>
    match s.victims.find? fun v => v.ctx == ctx && v.places.contains (k, p) with
    | some v =>
      let c := s.coreAt k
      let s := if c.power = .off then s.modCore k fun c => { c with power := .holding, lm := [], fe := [] } else s
      let mark (u : Victim) : Victim := if u == v then { u with stored := u.stored + 1 } else u
      if (s.coreAt k).power = .holding ∨ (s.coreAt k).power = .binding then
        ok { s.setLocalBytes k (512 * p) bs with victims := s.victims.map mark }
      else ok s
    | none => ok s
  | _ => ok s

/-- A piece's 512 bytes stand in the slices as dirty lines (R270). -/
def State.takePiece (v : Victim) (va : Nat) (l : Leaf) (bs : List Byte) (s : State) : State :=
  (List.range 4).foldl (fun s j =>
    let a := va + 128 * j
    let bad := (List.range 4).foldl (fun (b : BitVec 4) i => if v.poison.contains (a / 32 + i) then b ||| (1#4 <<< i) else b) 0#4
    s.modSlice (sliceOf (s.contextAt v.ctx).dl v.ctx a)
      (Slice.putLine { s.lineFor v.ctx a l with valid := 15#4, dirty := 15#4, poison := bad, bytes := (bs.drop (128 * j)).take 128 })) s

/-- VICTIM_PIECE_RECALL (R75, R270): the piece returns to its slices as dirty lines and its slot is free; after its last piece a core
goes OFF, and after the last of the page the page is RESIDENT. -/
def execVictimPieceRecall (s : State) : Out :=
  match s.now with
  | some (.victimPieceRecall k p) =>
    match s.victims.find? fun v => v.recalling && v.places.contains (k, p) && !v.recalled.contains (v.places.idxOf (k, p)) with
    | some v =>
      if v.stored < v.places.length then ok (s.post (.victimPieceRecall k p)) else
      match s.walk v.ctx v.va with
      | .leaf l =>
        let i := v.places.idxOf (k, p)
        let mark (u : Victim) : Victim := if u == v then { u with recalled := u.recalled ++ [i] } else u
        let s := s.takePiece v (v.va + 512 * i) l ((s.coreAt k).lm.bytes (512 * p) 512)
        let s := State.powerDown k { s with victims := s.victims.map mark }
        if v.recalled.length + 1 = v.places.length then ok ((s.setPageState l 0).freeVictim v.ctx v.va)
        else ok s
      | .fault _ => ok (s.freeVictim v.ctx v.va)
    | none => ok s
  | _ => ok s

/-- SKETCH_HALVE (R211): after 2^20 class-2 requests every counter of the slice is halved. -/
def execSketchHalve (s : State) : Out :=
  match s.now with
  | some (.sketchHalve k) =>
    let sl := s.sliceAt k
    if 2 ^ 20 ≤ sl.class2 then
      let halved : Slice := { sl with sketch := sl.sketch.map fun e => (e.1, e.2 / 2), class2 := sl.class2 - 2 ^ 20 }
      ok { s with slices := s.slices.put k halved }
    else ok s
  | _ => ok s

end Sys2Proof.Machine
end

