-- ==== Sys2Proof/Machine/Order.lean ====
section
/-! DEFINITION. The accesses of agents that are on their way, the locations that they touch, and which of them an earlier one of the same
agent holds back (R236). -/

namespace Sys2Proof.Machine

/-! ## Accesses on their way -/

/-- The access that an event carries. -/
def eventAccess : Event → Option Access
  | .sliceRequest a => some a
  | _ => none

/-- The accesses on their way: to a slice, in the pager's hands, to the host or another part. -/
def State.accesses (s : State) : List Access := s.pending.filterMap eventAccess ++ s.pagerAccs ++ s.away.map (·.2.acc)

/-- The accesses whose elements still to come are held with those performed elsewhere. -/
def State.laterElems (s : State) : List Access := s.away.map fun w => { w.2.acc with elems := w.2.later }

/-- A stretch of locations (R236): a space, which is this part's, another part's, or that of an address without a frame, and the
aligned 32-byte units from the first to the last. -/
structure Span where
  space : Nat
  lo : Nat
  hi : Nat
  deriving DecidableEq, Repr

/-- Whether two stretches share a unit. -/
def Span.meets (a b : Span) : Bool := a.space == b.space && a.lo ≤ b.hi && b.lo ≤ a.hi

/-- The locations of n bytes of a context, or of the whole page of an address. -/
def State.spanOf (s : State) (ctx va n : Nat) (page : Bool) : Span :=
  match s.walk ctx va with
  | .leaf l =>
    let space := if l.kind = 4 then 2 + l.home else 0
    if page then ⟨space, l.frame / 32, (l.frame + l.size - 1) / 32⟩ else ⟨space, l.pa va / 32, (l.pa va + n - 1) / 32⟩
  | .fault _ => ⟨1, va / 32, va / 32⟩

/-- The locations of an access. -/
def State.accessSpans (s : State) (a : Access) : List Span :=
  a.elems.map fun e => s.spanOf a.ctx (e.2 % 2 ^ 48) a.size (a.op == .discard)

/-- The location of a word of a core's local memory. -/
def wordSpan (core off : Nat) : Span :=
  let u := (0x30000000000 + core * 0x8000 + off) / 32
  ⟨0, u, u⟩

/-- What a message of a remote load, store or atomic does: its issuer, its place among the issuer's accesses, and its location. -/
def eventWord : Event → Option (Issuer × Nat × Span)
  | .remoteLoad m | .remoteStore m => some (m.src, m.seq, wordSpan m.dst m.off)
  | .feLoad m | .feStore m | .remoteBusyResend m _ => some (m.src, m.wait, wordSpan m.dst m.off)
  | .localAtomic m => some (m.src, m.seq, wordSpan m.dst m.off)
  | _ => none

/-- The remote full/empty operations that are parked at their owners. -/
def State.parkedRemote (s : State) : List (Issuer × Nat × Span) :=
  s.cores.flatMap fun e => (e.2.parkedFe.filter (·.remote)).map fun m => (m.src, m.wait, wordSpan m.dst m.off)

/-- Whether an earlier access of the same agent to one of some locations is still to be performed (R236): of global memory by any of its
addresses, or a remote operation on a core's word; one that has parked there stands in the way of no later full/empty operation. A write
of the core's other task context that this one has already read in the L1 comes first too. -/
def State.agentBlocked (s : State) (i : Issuer) (seq : Nat) (fe : Bool) (at_ : List Span) : Bool :=
  let hit (b : Span) : Bool := at_.any fun a => a.meets b
  let mine (b : Access) : Bool := b.src == i || (b.src.core == i.core && (s.coreAt i.core).seen.contains (i.ctx, b.seq))
  ((s.accesses ++ s.laterElems).any fun b => mine b && b.seq < seq && (s.accessSpans b).any hit) ||
    (s.pending.filterMap eventWord ++ (if fe then [] else s.parkedRemote)).any fun w => w.1 == i && w.2.1 < seq && hit w.2.2

/-- Whether an event is a full/empty operation at its word. -/
def isFe : Event → Bool
  | .feLoad _ | .feStore _ => true
  | _ => false

/-- Whether an event waits for an earlier access of its agent (R236). -/
def State.eventBlocked (s : State) (e : Event) : Bool :=
  match eventAccess e, eventWord e with
  | some a, _ => s.agentBlocked a.src a.seq false (s.accessSpans a)
  | none, some (i, seq, at_) => s.agentBlocked i seq (isFe e) [at_]
  | none, none => false

/-- Whether no access of global memory that the issuing context has made to bytes of its own core's local memory is still to be performed:
an access by the private alias comes after it (R236). -/
def State.ownClear (s : State) (a n : Nat) : Bool :=
  let at_ : List Span := [wordSpan s.who.core a, wordSpan s.who.core (a + n - 1)]
  !(s.accesses ++ s.laterElems).any fun b =>
    b.src == s.who && (s.accessSpans b).any fun u => at_.any fun v => u.meets v

end Sys2Proof.Machine
end

