-- ==== Sys2Proof/Machine/LocalMem.lean ====
section
/-! DEFINITION. Local loads and stores, full/empty operations, and the time limit of a full/empty wait (R88 to R92). -/

namespace Sys2Proof.Machine

/-- An access of the issuing context to bytes of its own local memory: its checks, then the wait for its own earlier accesses of those bytes
through global memory (R89, R236). -/
def State.localAccess (a : Word) (n : Nat) (store : Bool) (s : State) (k : State → State) : State :=
  s.checked (localFault a n store) fun s => s.await (s.ownClear a.toNat n) k

/-- Memory of the issuing core with the low n bytes of a word written. -/
def State.storeLocal (a : Word) (n : Nat) (w : Word) (s : State) : State :=
  s.modCore s.who.core fun c =>
    let c := c.age s.who.ctx (a.toNat / 4 * 4)
    { c with lm := c.lm.setLe a.toNat n w.toNat }

/-- A local load of n bytes at an address formed from the base register, extended by f (R89). -/
def loadLocal (len : Word) (d base : BitVec 4) (addr : State → Word) (n : Nat) (f : Nat → Word) (s : State) : Out :=
  ok (s.withRegs [base, d] [] fun s => s.access fun s =>
    let a := addr s
    s.localAccess a n false fun s => (s.setX d (f (s.core.lm.le a.toNat n))).retire len)

/-- A local store of n bytes (R89). -/
def storeLocalOp (len : Word) (d base : BitVec 4) (addr : State → Word) (n : Nat) (s : State) : Out :=
  ok (s.withRegs [base, d] [] fun s => s.access fun s =>
    let a := addr s
    s.localAccess a n true fun s => (s.storeLocal a n (s.x d)).retire len)

/-- LB (R89). -/
def execLb (i : BitVec 16) (d a : BitVec 4) (s : State) : Out :=
  loadLocal 4#32 d a (·.addr16 a i) 1 (fun v => sext (BitVec.ofNat 8 v)) s
/-- LBN (R89). -/
def execLbn (i : BitVec 16) (d a : BitVec 4) (s : State) : Out :=
  loadLocal 4#32 d a (·.addr16 a i) 1 (BitVec.ofNat 32) s
/-- LH (R89). -/
def execLh (i : BitVec 16) (d a : BitVec 4) (s : State) : Out :=
  loadLocal 4#32 d a (·.addr16 a i) 2 (fun v => sext (BitVec.ofNat 16 v)) s
/-- LHN (R89). -/
def execLhn (i : BitVec 16) (d a : BitVec 4) (s : State) : Out :=
  loadLocal 4#32 d a (·.addr16 a i) 2 (BitVec.ofNat 32) s
/-- LW (R89). -/
def execLw (i : BitVec 16) (d a : BitVec 4) (s : State) : Out :=
  loadLocal 4#32 d a (·.addr16 a i) 4 (BitVec.ofNat 32) s
/-- SB (R89). -/
def execSb (i : BitVec 16) (d b : BitVec 4) (s : State) : Out := storeLocalOp 4#32 d b (·.addr16 b i) 1 s
/-- SH (R89). -/
def execSh (i : BitVec 16) (d b : BitVec 4) (s : State) : Out := storeLocalOp 4#32 d b (·.addr16 b i) 2 s
/-- SW (R89). -/
def execSw (i : BitVec 16) (d b : BitVec 4) (s : State) : Out := storeLocalOp 4#32 d b (·.addr16 b i) 4 s

/-- C.LWSP: LW rd, [sp + 4 × zext(imm6)] (R62). -/
def execCLwsp (d : BitVec 4) (i : BitVec 6) (s : State) : Out :=
  loadLocal 2#32 d 14#4 (fun s => s.x 14#4 + 4#32 * zext i) 4 (BitVec.ofNat 32) s
/-- C.SWSP: SW rd, [sp + 4 × zext(imm6)] (R62). -/
def execCSwsp (d : BitVec 4) (i : BitVec 6) (s : State) : Out :=
  storeLocalOp 2#32 d 14#4 (fun s => s.x 14#4 + 4#32 * zext i) 4 s
/-- C.LW: LW rd, [base + 4 × off3] (R62). -/
def execCLw (d b : BitVec 4) (o : BitVec 3) (s : State) : Out :=
  loadLocal 2#32 d b (fun s => s.x b + 4#32 * zext o) 4 (BitVec.ofNat 32) s
/-- C.SW: SW rd, [base + 4 × off3] (R62). -/
def execCSw (d b : BitVec 4) (o : BitVec 3) (s : State) : Out :=
  storeLocalOp 2#32 d b (fun s => s.x b + 4#32 * zext o) 4 s

/-! ## Full/empty words -/

/-- The message of a local full/empty operation of the issuing context. -/
def State.localFe (s : State) (op : FeOp) (reg : BitVec 4) (a : Word) : FeMsg :=
  { src := s.who, dst := s.who.core, off := a.toNat, op := op, reg := reg, data := s.x reg, wait := s.waitCount,
    limit := s.task.fetmo, remote := false, group := s.core.group }

/-- A local full/empty operation that may wait: performed, or parked within fetmo, or FE_TIMEOUT at once with fetmo = 0
(R90 to R92). -/
def State.feLocal (op : FeOp) (reg : BitVec 4) (a : Word) (s : State) : State :=
  let m := s.localFe op reg a
  match s.feReach m with
  | some s => s.prefer
  | none =>
    if m.limit = 0#32 then s.trap .feTimeout a
    else ((s.newWait.2).fePark m).stall (.parked m.wait)

/-- Whether every earlier load, store and atomic of the issuing context is done and every message accepted, which a release waits for
(R239). -/
def State.settled (s : State) : Bool :=
  if s.inHandler then s.core.hd.unacked == 0 && s.core.hd.unsent == 0
  else s.task.ocnt.loads == 0 && s.task.ocnt.stores == 0 && s.task.ocnt.msgs == 0

/-- LWF, LWFE, SWE and SWF (R90); the stores are releases (R238). -/
def State.feIssue (op : FeOp) (o : BitVec 14) (d a : BitVec 4) (s : State) : State :=
  s.withRegs [a, d] [] fun s => s.access fun s =>
    let addr := s.addr14 a o
    s.localAccess addr 4 (!feIsLoad op) fun s => s.await (feIsLoad op || s.settled) fun s => s.feLocal op d addr

/-- LWF (R90), in a task context (R60). -/
def execLwf (o : BitVec 14) (d a : BitVec 4) (s : State) : Out := ok (s.inTask (State.feIssue .lwf o d a))
/-- LWFE (R90), in a task context (R60). -/
def execLwfe (o : BitVec 14) (d a : BitVec 4) (s : State) : Out := ok (s.inTask (State.feIssue .lwfe o d a))
/-- SWE (R90), in a task context (R60). -/
def execSwe (o : BitVec 14) (d b : BitVec 4) (s : State) : Out := ok (s.inTask (State.feIssue .swe o d b))
/-- SWF (R90), in a task or the handler context (R60). -/
def execSwf (o : BitVec 14) (d b : BitVec 4) (s : State) : Out := ok (State.feIssue .swf o d b s)

/-- FETEST (R90). -/
def execFetest (o : BitVec 14) (d a : BitVec 4) (s : State) : Out :=
  ok (s.withRegs [a, d] [] fun s => s.access fun s =>
    let addr := s.addr14 a o
    s.localAccess addr 4 false fun s =>
      (s.setX d (if s.core.full addr.toNat then 1#32 else 0#32)).retire 4#32)

/-- FESET and FECLR: the bit is set or cleared, and the parked operations are examined (R90, R91). -/
def feWrite (v : Bool) (o : BitVec 14) (b : BitVec 4) (s : State) : Out :=
  ok (s.withRegs [b] [] fun s => s.access fun s =>
    let addr := s.addr14 b o
    s.localAccess addr 4 true fun s =>
      ((s.writeFe s.who.core addr.toNat v).retire 4#32).feWakeWord s.who.core addr.toNat)

/-- FESET (R90). -/
def execFeset (o : BitVec 14) (b : BitVec 4) (s : State) : Out := feWrite true o b s
/-- FECLR (R90). -/
def execFeclr (o : BitVec 14) (b : BitVec 4) (s : State) : Out := feWrite false o b s

/-- A wait withdrawn at its word (R92). -/
def State.withdrawFe (k : Nat) (wait : Nat) (s : State) : State :=
  s.modCore k fun c => { c with parkedFe := c.parkedFe.filter fun m => m.wait != wait }

/-- The trap of a full/empty operation that fails at its word, at its issuer: synchronous at a local wait's instruction, in the
reply of a remote load, asynchronous for RSWE (R92, R282). -/
def State.feFailed (c : Cause) (m : FeMsg) (s : State) : State :=
  let off := BitVec.ofNat 32 m.off
  if !m.remote then s.trapWaiting m.src ⟨c, false, off⟩
  else if feIsLoad m.op then
    s.answer m.group m.dst m.src.core (.loadReply ⟨m.src, .x m.reg, 0#256, true, false, some ⟨c, false, off⟩,
      some (m.dst, m.group)⟩)
  else s.postTo m.group (.remoteNack ⟨m.src, .store, c, off, m.group⟩)

/-- A full/empty wait that its limit ended (R92). -/
def State.feTimedOut (m : FeMsg) (s : State) : State := s.feFailed .feTimeout m

/-- FE_TIMEOUT: a wait that is still parked at its owner is withdrawn, without effect, and traps (R92). -/
def execFeTimeout (s : State) : Out :=
  match s.now with
  | some (.feTimeout owner wait) =>
    match (s.coreAt owner).parkedFe.find? fun m => m.wait == wait with
    | some m => ok ((s.withdrawFe owner wait).feTimedOut m)
    | none => ok s
  | _ => ok s

end Sys2Proof.Machine
end

