-- ==== Sys2Proof/Machine/Remote.lean ====
section
/-! DEFINITION. Remote loads and stores, atomics on local memory, and their messages, replies and negative answers
(R73, R92 to R97, R182). -/

namespace Sys2Proof.Machine

/-! ## Issue -/

/-- The checks of a remote offset at the issuer: range, alignment, protection of a store (R93). -/
def remoteFault (off : Word) (store : Bool) : Option Trap := localFault off 4 store

/-- A load counted and its destination register marked pending; x0 is never marked (R73, R74). -/
def TaskCtx.beginLoad (d : BitVec 4) (acq atomic : Bool) (t : TaskCtx) : TaskCtx :=
  { t with pendX := if d = 0#4 then t.pendX else t.pendX ||| (1#16 <<< d.toNat),
           acquires := t.acquires + acq.toNat,
           ocnt := { t.ocnt with loads := t.ocnt.loads + 1, atomics := t.ocnt.atomics + atomic.toNat } }

/-- A store counted (R74, R93). -/
def TaskCtx.beginStore (t : TaskCtx) : TaskCtx := { t with ocnt := { t.ocnt with stores := t.ocnt.stores + 1 } }

/-- A store of the issuing context counted: in ocnt for a task, as unsent until its acceptance for the handler (R74, R185). -/
def State.countStore (s : State) : State :=
  if s.inHandler then
    (s.modCore s.who.core fun c => { c with hd := { c.hd with unsent := c.hd.unsent + 1, unacked := c.hd.unacked + 1 } }).post
      (.messageAccept s.who)
  else s.modT TaskCtx.beginStore

/-- Whether another load may be counted (R74). -/
def State.roomForLoad (s : State) : Bool := s.inHandler || s.task.ocnt.loads < 63
/-- Whether another store may be counted (R74). -/
def State.roomForStore (s : State) : Bool := s.inHandler || s.task.ocnt.stores < 63

/-- The message of a remote load or store. -/
def State.remMsg (s : State) (d a b : BitVec 4) : RemMsg :=
  { src := s.who, dst := (s.x a).toNat, off := (s.x b).toNat, reg := d, data := s.x d, group := s.core.group, seq := s.waitCount }

/-- The message of a remote full/empty operation (R93). -/
def State.remFe (s : State) (op : FeOp) (d a b : BitVec 4) : FeMsg :=
  { src := s.who, dst := (s.x a).toNat, off := (s.x b).toNat, op := op, reg := d, data := s.x d, wait := s.waitCount,
    limit := s.task.fetmo, remote := true, group := s.core.group }

/-- A remote load with its message (R93), an acquire for the full/empty forms (R238). -/
def State.remoteLoadOp (acq : Bool) (d a b : BitVec 4) (e : State → Event) (s : State) : State :=
  s.withRegs [a, b, d] [] fun s => s.access fun s =>
    s.checked (remoteFault (s.x b) false) fun s => s.await s.roomForLoad fun s =>
      let ev := e s
      let dst := (s.x a).toNat
      (((s.newWait.2).modT (TaskCtx.beginLoad d acq false)).send s.core.group s.who.core dst ev).retire 4#32

/-- A remote store with its message (R93), a release for the full/empty forms (R238). -/
def State.remoteStoreOp (rel : Bool) (d a b : BitVec 4) (e : State → Event) (s : State) : State :=
  s.withRegs [a, b, d] [] fun s => s.access fun s =>
    s.checked (remoteFault (s.x b) true) fun s => s.await (s.roomForStore && (!rel || s.settled)) fun s =>
      let ev := e s
      let dst := (s.x a).toNat
      ((s.newWait.2.countStore).send s.core.group s.who.core dst ev).retire 4#32

/-- RLW (R93). -/
def execRlw (b d a : BitVec 4) (s : State) : Out :=
  ok (s.inTask (State.remoteLoadOp false d a b fun s => .remoteLoad (s.remMsg d a b)))
/-- RLWF (R93). -/
def execRlwf (b d a : BitVec 4) (s : State) : Out :=
  ok (s.inTask (State.remoteLoadOp true d a b fun s => .feLoad (s.remFe .lwf d a b)))
/-- RLWFE (R93). -/
def execRlwfe (b d a : BitVec 4) (s : State) : Out :=
  ok (s.inTask (State.remoteLoadOp true d a b fun s => .feLoad (s.remFe .lwfe d a b)))
/-- RSW, which the handler context may issue (R60, R93). -/
def execRsw (b d a : BitVec 4) (s : State) : Out :=
  ok (State.remoteStoreOp false d a b (fun s => .remoteStore (s.remMsg d a b)) s)
/-- RSWE (R93). -/
def execRswe (b d a : BitVec 4) (s : State) : Out :=
  ok (s.inTask (State.remoteStoreOp true d a b fun s => .feStore (s.remFe .swe d a b)))
/-- RSWF, which the handler context may issue (R60, R93). -/
def execRswf (b d a : BitVec 4) (s : State) : Out :=
  ok (State.remoteStoreOp true d a b (fun s => .feStore (s.remFe .swf d a b)) s)

/-- The message of an AMO (R96). -/
def State.amoMsg (s : State) (op : AmoOp) (o : BitVec 2) (d a b : BitVec 4) (data2 : Word) : AmoMsg :=
  { src := s.who, dst := (s.x a).toNat, off := (s.x b).toNat, op := op, reg := d, data := s.x d, data2 := data2,
    acq := o.getLsbD 0, group := s.core.group, seq := s.waitCount }

/-- Whether every earlier store, remote store and atomic of the task context has been acknowledged (R97). -/
def State.drained (s : State) : Bool := s.task.ocnt.stores == 0 && s.task.ocnt.atomics == 0

/-- AMO (R96, R97): a release waits for every earlier access; the operands are read at issue. -/
def State.amo (op : AmoOp) (o : BitVec 2) (d a b : BitVec 4) (data2 : State → Word) (rs : List (BitVec 4)) (s : State) :
    State :=
  s.withRegs (a :: b :: d :: rs) [] fun s => s.access fun s =>
    s.checked (remoteFault (s.x b) true) fun s =>
      s.await (s.roomForLoad && (!o.getLsbD 1 || s.settled)) fun s =>
        let m := s.amoMsg op o d a b (data2 s)
        ((s.newWait.2.modT (TaskCtx.beginLoad d (o.getLsbD 0) true)).send s.core.group s.who.core m.dst (.localAtomic m)).retire 4#32

/-- AMO.ADD (R96). -/
def execAmoAdd (b : BitVec 4) (o : BitVec 2) (d a : BitVec 4) (s : State) : Out :=
  ok (s.inTask (State.amo .add o d a b (fun _ => 0#32) []))
/-- AMO.AND (R96). -/
def execAmoAnd (b : BitVec 4) (o : BitVec 2) (d a : BitVec 4) (s : State) : Out :=
  ok (s.inTask (State.amo .and o d a b (fun _ => 0#32) []))
/-- AMO.OR (R96). -/
def execAmoOr (b : BitVec 4) (o : BitVec 2) (d a : BitVec 4) (s : State) : Out :=
  ok (s.inTask (State.amo .or o d a b (fun _ => 0#32) []))
/-- AMO.XOR (R96). -/
def execAmoXor (b : BitVec 4) (o : BitVec 2) (d a : BitVec 4) (s : State) : Out :=
  ok (s.inTask (State.amo .xor o d a b (fun _ => 0#32) []))
/-- AMO.MIN (R96). -/
def execAmoMin (b : BitVec 4) (o : BitVec 2) (d a : BitVec 4) (s : State) : Out :=
  ok (s.inTask (State.amo .min o d a b (fun _ => 0#32) []))
/-- AMO.MAX (R96). -/
def execAmoMax (b : BitVec 4) (o : BitVec 2) (d a : BitVec 4) (s : State) : Out :=
  ok (s.inTask (State.amo .max o d a b (fun _ => 0#32) []))
/-- AMO.SWAP (R96). -/
def execAmoSwap (b : BitVec 4) (o : BitVec 2) (d a : BitVec 4) (s : State) : Out :=
  ok (s.inTask (State.amo .swap o d a b (fun _ => 0#32) []))

/-- The even register of a pair: field d holds its upper three bits (R57). -/
def pairLow (d : BitVec 3) : BitVec 4 := d ++ 0#1
/-- The odd register of a pair (R57). -/
def pairHigh (d : BitVec 3) : BitVec 4 := d ++ 1#1

/-- AMO.CAS: compares with x[rd] and stores x[rd + 1], rd even (R96). -/
def execAmoCas (b : BitVec 4) (o : BitVec 2) (d : BitVec 3) (a : BitVec 4) (s : State) : Out :=
  ok (s.inTask (State.amo .cas o (pairLow d) a b (fun s => s.x (pairHigh d)) [pairHigh d]))

/-! ## Replies -/

/-- Where the value of a reply goes (R73, R136). -/
def TaskCtx.deliverValue (d : Dest) (v : Vec) (t : TaskCtx) : TaskCtx :=
  match d with
  | .none => t
  | .x r => if r = 0#4 then t else { t with x := t.x.set r.toFin (v.setWidth 32) }
  | .v r => { t with v := t.v.set r.toFin v }

/-- The pending mark of a destination cleared (R73). -/
def TaskCtx.clearPending (d : Dest) (t : TaskCtx) : TaskCtx :=
  match d with
  | .none => t
  | .x r => { t with pendX := t.pendX &&& ~~~(1#16 <<< r.toNat) }
  | .v r => { t with pendV := t.pendV &&& ~~~(1#8 <<< r.toNat) }

/-- The fault of a reply kept for the instruction that waits on its register, or held as an asynchronous trap when no
register was marked (R73, R94). -/
def TaskCtx.keepFault (d : Dest) (tr : Trap) (t : TaskCtx) : TaskCtx :=
  match d with
  | .x r =>
    if r = 0#4 then { t with traps := t.traps ++ [{ tr with a := true }] }
    else { t with faultX := t.faultX.put r.toNat tr }
  | .v r => { t with faultV := t.faultV.put r.toNat tr }
  | .none => { t with traps := t.traps ++ [{ tr with a := true }] }

/-- A load no longer outstanding (R73, R97). -/
def TaskCtx.endLoad (acq atomic : Bool) (t : TaskCtx) : TaskCtx :=
  { t with acquires := t.acquires - acq.toNat,
           ocnt := { t.ocnt with loads := t.ocnt.loads - 1, atomics := t.ocnt.atomics - atomic.toNat } }

/-- A reply at its task context (R73): the value written, or its fault kept and nothing written. -/
def TaskCtx.takeReply (r : Reply) (t : TaskCtx) : TaskCtx :=
  let t := (t.endLoad r.acq r.atomic).clearPending r.dest
  match r.trap with
  | none => t.deliverValue r.dest r.value
  | some tr => t.keepFault r.dest tr

/-- A reply arrives at its issuer; an acquire's reply invalidates the L1 (R73, R97, R104). -/
def State.takeReply (r : Reply) (s : State) : State :=
  let s := s.modTask r.dst (TaskCtx.takeReply r)
  if r.acq then s.dropL1 r.dst.core else s

/-- A store no longer outstanding. -/
def TaskCtx.endStore (t : TaskCtx) : TaskCtx := { t with ocnt := { t.ocnt with stores := t.ocnt.stores - 1 } }
/-- A message no longer waiting for the network. -/
def TaskCtx.endMsg (t : TaskCtx) : TaskCtx := { t with ocnt := { t.ocnt with msgs := t.ocnt.msgs - 1 } }

/-- An asynchronous fault at an issuer: held until the next instruction that its context issues, where a task context traps and the
handler context escalates (R94, R186, R278, R279). -/
def State.asyncTrap (i : Issuer) (tr : Trap) (s : State) : State :=
  match i.ctx with
  | .handler => s.modCore i.core fun c => { c with hd := { c.hd with traps := c.hd.traps ++ [tr] } }
  | _ => s.holdTrap i tr

/-- A store of an issuer is no longer outstanding. -/
def State.endStoreAt (i : Issuer) (s : State) : State :=
  match i.ctx with
  | .handler => s.modCore i.core fun c => { c with hd := { c.hd with unacked := c.hd.unacked - 1 } }
  | _ => s.modTask i TaskCtx.endStore

/-- A message of a built-in class at the handler context that performs it: it waits at the head of its channel while that context runs
a message or is to take one that landed before (R182, R184, R187). -/
def State.builtin (cls src k : Nat) (e : Event) (s : State) (f : State → State) : State :=
  if s.handlerFree k then f (s.passMailbox cls src k e) else s.repost e

/-- LOAD_REPLY (R73): a class-0 reply of a core, or the reply of an access of global memory. -/
def execLoadReply (s : State) : Out :=
  match s.now with
  | some (.loadReply r) =>
    match r.src with
    | some (k, g) => ok (s.builtin 0 k r.dst.core (.loadReply r) fun s => (s.accept g k r.dst.core).takeReply r)
    | none => ok (s.takeReply r)
  | _ => ok s

/-- STORE_ACK (R93, R104). -/
def execStoreAck (s : State) : Out :=
  match s.now with
  | some (.storeAck i) => ok (s.endStoreAt i)
  | _ => ok s

/-- MESSAGE_ACCEPT (R107, R405): a message has passed into the network. -/
def execMessageAccept (s : State) : Out :=
  match s.now with
  | some (.messageAccept i) =>
    match i.ctx with
    | .handler => ok (s.modCore i.core fun c => { c with hd := { c.hd with unsent := c.hd.unsent - 1 } })
    | _ => ok (s.modTask i TaskCtx.endMsg)
  | _ => ok s

/-! ## Performed at the owner -/

/-- The context that an issuer acts for. -/
def State.ctxOf (s : State) (i : Issuer) : Nat := (s.coreAt i.core).ctxid

/-- A built-in message of a group's core performed at the core it addresses by its handler context: held for a saved group, answered NACK
when the core is not bound to a group of the issuing context (R94, R285), which counts as received at a core that has left (R320). -/
def State.atOwner (cls : Nat) (src : Issuer) (g dst : Nat) (e : Event) (kind : NackKind) (s : State) (k : State → State) : State :=
  s.deliver dst (s.groupAt g).ctx ((s.coreAt dst).group == g && s.drawn e) e
    (fun s => ((s.takeSeq e).2.accept g src.core dst).post (.remoteNack ⟨src, kind, .remoteUnreachable, BitVec.ofNat 32 dst, g⟩))
    (fun s => s.builtin cls src.core dst e fun s => k (s.accept g src.core dst))

/-- What a task context's earlier private-alias store to a word of its own core hid, while no fence has ordered its two aliases (R245). -/
def Core.agedAt (c : Core) (x : CtxSel) (a : Nat) : Option Word := (c.aged.find? fun e => e.1 == x && e.2.1 == a).map (·.2.2)

/-- The word that a remote load reads: for a loop-back load, which no fence orders after its context's own private-alias stores, the older
value may still be read, until another agent has written the word; once the newer one has been read the older is gone (R236, R243, R245).
(DESIGN CHOICE, log 4). -/
def State.loopRead (m : RemMsg) (s : State) : Word × State :=
  let w := s.localWord m.dst m.off
  match (if m.src.core = m.dst then (s.coreAt m.dst).agedAt m.src.ctx m.off else none) with
  | none => (w, s)
  | some old =>
    let (older, s) := s.flip
    if older then (old, s) else (w, s.modCore m.dst (Core.settle (· == m.off)))

/-- REMOTE_LOAD (R93, class 1). -/
def execRemoteLoad (s : State) : Out :=
  match s.now with
  | some (.remoteLoad m) =>
    ok (s.atOwner 1 m.src m.group m.dst (.remoteLoad m) (.load (.x m.reg) false false) fun s =>
      let (w, s) := s.loopRead m
      s.answer m.group m.dst m.src.core
        (.loadReply ⟨m.src, .x m.reg, w.setWidth 256, false, false, none, some (m.dst, m.group)⟩))
  | _ => ok s

/-- REMOTE_STORE (R93, class 2). -/
def execRemoteStore (s : State) : Out :=
  match s.now with
  | some (.remoteStore m) =>
    ok (s.atOwner 2 m.src m.group m.dst (.remoteStore m) .store fun s =>
      (s.setLocalWord m.dst m.off m.data).postTo m.group (.storeAck m.src))
  | _ => ok s

/-- How many remote full/empty operations are parked in a word's group of eight words (R92). -/
def Core.parkedIn (c : Core) (off : Nat) : Nat :=
  c.parkedFe.countP fun m => m.remote && m.off / 32 == off / 32

/-- A remote full/empty operation at its owner: performed, timed out with a limit of 0, answered BUSY when eight are parked
in its word group, or parked (R91, R92). -/
def State.feRemote (m : FeMsg) (s : State) : State :=
  match s.feReach m with
  | some s => s
  | none =>
    if m.limit = 0#32 then s.feTimedOut m
    else if 8 ≤ (s.coreAt m.dst).parkedIn m.off then
      let (late, s) := s.flip
      s.post (.remoteBusyResend m late)
    else s.fePark m

/-- FE_LOAD (R92, R93, class 3). -/
def execFeLoad (s : State) : Out :=
  match s.now with
  | some (.feLoad m) => ok (s.atOwner 3 m.src m.group m.dst (.feLoad m) (.load (.x m.reg) true false) (State.feRemote m))
  | _ => ok s

/-- FE_STORE (R92, R93, class 4). -/
def execFeStore (s : State) : Out :=
  match s.now with
  | some (.feStore m) => ok (s.atOwner 4 m.src m.group m.dst (.feStore m) .store (State.feRemote m))
  | _ => ok s

/-- REMOTE_BUSY_RESEND (R92): resent while fetmo cycles have not passed since issue, and REMOTE_BUSY once they have; for a
load at the instruction that waits on its register, for RSWE as an asynchronous trap. -/
def execRemoteBusyResend (s : State) : Out :=
  match s.now with
  | some (.remoteBusyResend m late) =>
    let tr : Trap := ⟨.remoteBusy, false, BitVec.ofNat 32 m.dst⟩
    if late then
      if feIsLoad m.op then ok (s.takeReply ⟨m.src, .x m.reg, 0#256, true, false, some tr, none⟩)
      else ok ((s.endStoreAt m.src).asyncTrap m.src { tr with a := true })
    else ok (s.send m.group m.src.core m.dst (if feIsLoad m.op then .feLoad m else .feStore m))
  | _ => ok s

/-- The new value of a word under an atomic (R96). -/
def amoValue (op : AmoOp) (old a b : Word) : Word :=
  match op with
  | .add => old + a
  | .and => old &&& a
  | .or => old ||| a
  | .xor => old ^^^ a
  | .min => if old.toInt ≤ a.toInt then old else a
  | .max => if old.toInt ≤ a.toInt then a else old
  | .swap => a
  | .cas => if old = a then b else old

/-- The write of an atomic whose word has been read, and its answer with the old value (R96). -/
def State.amoWrite (m : AmoMsg) (old : Word) (s : State) : State :=
  (s.setLocalWord m.dst m.off (amoValue m.op old m.data m.data2)).answer m.group
    m.dst m.src.core (.loadReply ⟨m.src, .x m.reg, old.setWidth 256, m.acq, true, none, some (m.dst, m.group)⟩)

/-- LOCAL_ATOMIC (R96, class 5): performed in the owner's handler context and answered with the old value. Nothing but a plain store
may come between its read and its write: whether one does is left open (R252). (DESIGN CHOICE, log 4). -/
def execLocalAtomic (s : State) : Out :=
  match s.now with
  | some (.localAtomic m) =>
    match m.old with
    | some old => ok (s.amoWrite m old)
    | none =>
      ok (s.atOwner 5 m.src m.group m.dst (.localAtomic m) (.load (.x m.reg) m.acq true) fun s =>
        let old := s.localWord m.dst m.off
        let (later, s) := s.flip
        if later then s.repost (.localAtomic { m with old := some old }) else s.amoWrite m old)
  | _ => ok s

end Sys2Proof.Machine
end

