-- ==== Sys2Proof/Machine/Special.lean ====
section
/-! DEFINITION. The special registers: MFS, MTS, MTSI, MSS and MCS, the popping reads of pq and cq, WAITO and the delivery
of held transfer faults (R49, R50, R106, R107, R144, R146, R200, R202). -/

namespace Sys2Proof.Machine

/-! ## Reading -/

/-- The numbers that the handler context may read (R49). -/
def handlerReads : List Nat := [0x000, 0x008, 0x009, 0x00A, 0x00B, 0x00C, 0x010, 0x011, 0x012, 0x018, 0x0A0, 0x0A1]

/-- The cluster of a core (R15). -/
def clusterOf (k : Nat) : Nat := k / 16

/-- The record of a cluster. -/
def State.clusterAt (s : State) (c : Nat) : Cluster := SMap.get {} s.clusters c

/-- The state with a cluster's record changed. -/
def State.modCluster (c : Nat) (f : Cluster → Cluster) (s : State) : State :=
  { s with clusters := s.clusters.put c (f (s.clusterAt c)) }

/-- A bank of a cluster: false is bank 0. -/
def Cluster.bank (c : Cluster) (b : Bool) : Bank := if b then c.bank1 else c.bank0

/-- A cluster with a bank changed. -/
def Cluster.modBank (b : Bool) (f : Bank → Bank) (c : Cluster) : Cluster :=
  if b then { c with bank1 := f c.bank1 } else { c with bank0 := f c.bank0 }

/-- The bank that a context holds in a cluster, if any: the group's bank number is the one it holds (R138, R329). -/
def Cluster.bankOf (c : Cluster) (ctx : Nat) : Option Bool :=
  if c.bank0.owner = some ctx then some false
  else if c.bank1.owner = some ctx then some true
  else none

/-- mcfg_n of the bank of the issuing core's context, zero when it holds none (R138). -/
def State.mcfgOf (s : State) (n : Nat) : Word :=
  let cl := s.clusterAt (clusterOf s.who.core)
  match cl.bankOf s.core.ctxid with
  | some b => (cl.bank b).mcfg.toList.getD n 0#32
  | none => 0#32

/-- A special register of task scope; zero for every other number (R49, R50). -/
def TaskCtx.sr (t : TaskCtx) (n : Nat) : Word :=
  match n with
  | 0x001 => causeWord t
  | 0x002 => offsetWord t.epc
  | 0x003 => t.tval
  | 0x004 => offsetWord t.tvec
  | 0x005 => t.tscratch
  | 0x00C => t.kslot.setWidth 32
  | 0x012 => t.instret
  | 0x018 => ocntWord t.ocnt
  | 0x020 => t.lc[0]
  | 0x021 => t.ls[0]
  | 0x022 => t.le[0]
  | 0x024 => t.lc[1]
  | 0x025 => t.ls[1]
  | 0x026 => t.le[1]
  | 0x030 => t.vstat.setWidth 32
  | 0x031 => t.lfsr
  | 0x032 => t.xc
  | 0x033 => t.xn
  | 0x048 => if t.pctl then 1#32 else 0#32
  | 0x049 => t.pstat.setWidth 32
  | 0x04A => t.pnz
  | 0x04B => t.pcyc
  | 0x0A2 => t.fetmo
  | n => if 0x050 ≤ n ∧ n ≤ 0x058 then t.cp.toList.getD (n - 0x050) 0#32
         else if 0x070 ≤ n ∧ n ≤ 0x076 then t.gp.toList.getD (n - 0x070) 0#32
         else 0#32

/-- A special register of core scope (R50). (DESIGN CHOICE, log 20). -/
def Core.sr (c : Core) (k n : Nat) : Option Word :=
  match n with
  | 0x008 => some (BitVec.ofNat 32 k)
  | 0x009 => some (BitVec.ofNat 32 c.rank)
  | 0x00A => some (BitVec.ofNat 32 c.gsize)
  | 0x00B => some (BitVec.ofNat 32 c.ctxid)
  | 0x010 => some (c.cycle.setWidth 32)
  | 0x011 => some c.cycleLatch
  | 0x0A0 => some c.hbase
  | 0x0A1 => some (c.hbudget.setWidth 32)
  | n => if 0x060 ≤ n ∧ n ≤ 0x063 then some (c.wp.toList.getD (n - 0x060) 0#32) else none

/-- The value that a special register shows to the issuing context, without the action of a read (R50). (DEDUCED, log 61). -/
def State.readSr (s : State) (n : Nat) : Word :=
  match s.core.sr s.who.core n with
  | some w => w
  | none =>
    if n = 0x000 then statusWord s.who.ctx s.task
    else if 0x040 ≤ n ∧ n ≤ 0x047 then s.mcfgOf (n - 0x040)
    else if s.inHandler then
      (if n = 0x00C then s.core.hd.kslot.setWidth 32 else if n = 0x012 then s.core.hd.instret else 0#32)
    else s.task.sr n

/-! ## Writing -/

/-- The bits of the copy shadow registers that are kept; the others are reserved (R194). -/
def cpMask (n : Nat) : Word :=
  match n with
  | 0x050 | 0x052 => 0x00000F1F#32
  | 0x055 => 0x07FFFFFF#32
  | _ => 0xFFFFFFFF#32

/-- The bits of the gather shadow registers that are kept (R206). -/
def gpMask (n : Nat) : Word :=
  match n with
  | 0x070 => 0x0000000F#32
  | 0x072 => 0x0000FFFF#32
  | 0x073 => 0x00000F1F#32
  | 0x075 => 0x0000FFFF#32
  | _ => 0xFFFFFFFF#32

/-- A loop register written, which sets VL (R51, R86). -/
def TaskCtx.setLoop (n : Nat) (w : Word) (t : TaskCtx) : TaskCtx :=
  let i : Fin 2 := if n < 0x024 then 0 else 1
  let t := t.live
  match n % 4 with
  | 0 => { t with lc := t.lc.set i w }
  | 1 => { t with ls := t.ls.set i w }
  | _ => { t with le := t.le.set i w }

/-- A writable special register of task scope written; none for a number that is not one (R49 to R52). -/
def TaskCtx.setSr (n : Nat) (w : Word) (t : TaskCtx) : Option TaskCtx :=
  match n with
  | 0x000 => some { t with vl := w.getLsbD 1 }
  | 0x001 => some { t with causeA := w.getLsbD 7, causeCode := w.setWidth 7 }
  | 0x002 => some { t with epc := w.extractLsb' 1 24 }
  | 0x003 => some { t with tval := w }
  | 0x004 => some { t with tvec := w.extractLsb' 1 24 }
  | 0x005 => some { t with tscratch := w }
  | 0x012 => some { t with instret := w }
  | 0x020 | 0x021 | 0x022 | 0x024 | 0x025 | 0x026 => some (t.setLoop n w)
  | 0x030 => some { t with vstat := w.setWidth 4 }
  | 0x031 => some { t with lfsr := w }
  | 0x032 => some { t with xc := w }
  | 0x033 => some { t with xn := w }
  | 0x048 => some { t with pctl := w.getLsbD 0 }
  | 0x049 => some { t with pstat := w.setWidth 2 }
  | 0x04A => some { t with pnz := w }
  | 0x04B => some { t with pcyc := w }
  | 0x0A2 => some { t with fetmo := w }
  | n =>
    if h : 0x050 ≤ n ∧ n ≤ 0x058 then some { t with cp := t.cp.set (n - 0x050) (w &&& cpMask n) (by omega) }
    else if h : 0x070 ≤ n ∧ n ≤ 0x076 then some { t with gp := t.gp.set (n - 0x070) (w &&& gpMask n) (by omega) }
    else none

/-- A writable special register of core scope written; none for a number that is not one (R50). (DEDUCED, log 61). -/
def Core.setSr (n : Nat) (w : Word) (c : Core) : Option Core :=
  match n with
  | 0x010 => some { c with cycle := (c.cycle >>> 32).setWidth 32 ++ w }
  | 0x011 => some { c with cycle := w ++ c.cycle.setWidth 32 }
  | 0x0A1 => some { c with hbudget := w.setWidth 16 }
  | n => if h : 0x060 ≤ n ∧ n ≤ 0x063 then some { c with wp := c.wp.set (n - 0x060) w (by omega) } else none

/-- The state with a special register of the issuing task context written; none where R49 refuses the write. -/
def State.writeSr (n : Nat) (w : Word) (s : State) : Option State :=
  match s.task.setSr n w with
  | some t => some (s.modT fun _ => t)
  | none => (s.core.setSr n w).map fun c => s.setCore s.who.core c

/-- A write of a special register: SR_ILLEGAL in the handler context and where the number is not writable (R49). (DEDUCED, log 61). -/
def State.srWrite (n : Nat) (v : State → Word) (s : State) : State :=
  if s.inHandler then s.trap .srIllegal (BitVec.ofNat 32 n) else
  match s.writeSr n (v s) with
  | some s => s.retire 4#32
  | none => s.trap .srIllegal (BitVec.ofNat 32 n)

/-- MTS (R106). -/
def execMts (n : BitVec 12) (r : BitVec 4) (s : State) : Out :=
  ok (s.withRegs [r] [] (State.srWrite n.toNat fun s => s.x r))
/-- MTSI (R106). -/
def execMtsi (n : BitVec 12) (i : BitVec 4) (s : State) : Out := ok (s.srWrite n.toNat fun _ => zext i)
/-- MSS (R106). -/
def execMss (n : BitVec 12) (r : BitVec 4) (s : State) : Out :=
  ok (s.withRegs [r] [] (State.srWrite n.toNat fun s => s.readSr n.toNat ||| s.x r))
/-- MCS (R106). -/
def execMcs (n : BitVec 12) (r : BitVec 4) (s : State) : Out :=
  ok (s.withRegs [r] [] (State.srWrite n.toNat fun s => s.readSr n.toNat &&& ~~~s.x r))

/-- The acquire that a read of cp.wp0 to cp.wp3 is (R238). -/
def State.wpAcquire (n : Nat) (s : State) : State := if 0x060 ≤ n ∧ n ≤ 0x063 then s.dropL1 s.who.core else s

/-- MFS of a number whose read only reads (R49, R106); in the handler context only those of R49. -/
def execMfs (n : BitVec 12) (d : BitVec 4) (s : State) : Out :=
  ok (s.withRegs [d] [] fun s =>
    if s.inHandler && !handlerReads.contains n.toNat then s.trap .srIllegal (zext n)
    else ((s.wpAcquire n.toNat).setX d (s.readSr n.toNat)).retire 4#32)

/-- MFS of cycle: reads [31:0] and latches [63:32] for the next read of cycleh (R50). -/
def execMfsCycle (d : BitVec 4) (s : State) : Out :=
  ok (s.withRegs [d] [] fun s =>
    ((s.modCore s.who.core fun c => { c with cycleLatch := (c.cycle >>> 32).setWidth 32 }).setX d
      (s.core.cycle.setWidth 32)).retire 4#32)

/-- A read that acts, in a task context only: SR_ILLEGAL in the handler context (R49). -/
def State.actingRead (n : Nat) (d : BitVec 4) (s : State) (k : State → State) : State :=
  s.withRegs [d] [] fun s => if s.inHandler then s.trap .srIllegal (BitVec.ofNat 32 n) else k s

/-! ## Faults carried in tokens and records (R146, R202, R279) -/

/-- A fault that an instruction delivers, with the change that the delivery makes; it waits for pending registers as every
trap entry does (R73, R278), and in trap mode the instruction escalates (R279). -/
def State.deliverFault (tr : Trap) (f : State → State) (s : State) : State :=
  if s.task.anyPending then s.stall .retry else (f s).trapWith tr

/-- MFS of pq (R144, R146): pops the oldest token, stalls while one is on its way, or reads all ones. -/
def execMfsPq (d : BitVec 4) (s : State) : Out :=
  ok (s.actingRead 0x04F d fun s =>
    match s.task.tokens with
    | t :: ts =>
      let pop := State.modT fun c => { c with tokens := ts }
      match t.f with
      | some c => s.deliverFault ⟨c, true, t.tval⟩ fun s => (pop s).dropL1 s.who.core
      | none => (((pop s).dropL1 s.who.core).setX d (tokenWord t)).retire 4#32
    | [] => if s.task.ocnt.cmds ≠ 0 then s.stall .retry else (s.setX d 0xFFFFFFFF#32).retire 4#32)

/-- A transfer slot of a core. -/
def Core.slotAt (c : Core) (k : Nat) : Transfer := SMap.get {} c.slots k

/-- A core with a transfer slot changed. -/
def Core.modSlot (k : Nat) (f : Transfer → Transfer) (c : Core) : Core := { c with slots := c.slots.put k (f (c.slotAt k)) }

/-- An ENDED slot without an undelivered fault, its record popped or never pushed, becomes FREE (R192). -/
def Transfer.settle (t : Transfer) : Transfer :=
  if t.state = .ended ∧ !t.undelivered ∧ !t.inCq then { t with state := .free } else t

/-- The oldest held fault is delivered: its slot settles (R192, R202). -/
def State.dropHeld (i : Issuer) (slot : Nat) (s : State) : State :=
  (s.modTask i fun t => { t with held := t.held.filter (· != slot) }).modCore i.core
    (Core.modSlot slot fun t => { t with undelivered := false }.settle)

/-- The record at the head of cq is popped: its slot settles (R192, R200). -/
def State.popCq (i : Issuer) (slot : Nat) (s : State) : State :=
  (s.modTask i fun t => { t with cq := t.cq.drop 1 }).modCore i.core
    (Core.modSlot slot fun t => { t with inCq := false }.settle)

/-- The record of a slot of the issuing core. -/
def State.recordOf (s : State) (slot : Nat) : Word := recordWord slot (s.core.slotAt slot)

/-- The oldest held fault of the issuing task context is delivered before anything else, if there is one; like a pop it acquires what the
transfer delivered (R202, R246). -/
def State.heldFirst (s : State) (k : State → State) : State :=
  match s.task.held with
  | slot :: _ => s.deliverFault ⟨.copyFault, true, s.recordOf slot⟩ fun s => (s.dropHeld s.who slot).dropL1 s.who.core
  | [] => k s

/-- Whether the task context has a transfer with Q = 1 that is ACTIVE or SAVED (R200). -/
def Core.awaitsRecord (c : Core) (tc : Bool) : Bool :=
  c.slots.any fun e => (e.2.state == .active || e.2.state == .saved) && e.2.tc == tc &&
    (match e.2.kind with
     | .copy => bits (e.2.sh.getD 5 0#32).toNat 13 1 == 1
     | .send => bits (e.2.sh.getD 1 0#32).toNat 18 1 == 1
     | .gather | .scatterAdd => bits (e.2.sh.getD 5 0#32).toNat 10 1 == 1)

/-- MFS of cq (R200, R202). -/
def execMfsCq (d : BitVec 4) (s : State) : Out :=
  ok (s.actingRead 0x068 d fun s =>
    match s.task.cq with
    | slot :: _ =>
      let w := s.recordOf slot
      if (s.core.slotAt slot).undelivered then
        s.deliverFault ⟨.copyFault, true, w⟩ fun s => ((s.popCq s.who slot).dropHeld s.who slot).dropL1 s.who.core
      else (((s.popCq s.who slot).dropL1 s.who.core).setX d w).retire 4#32
    | [] =>
      if s.core.awaitsRecord (s.who.ctx == .tc1) then s.stall .retry else (s.setX d 0xFFFFFFFF#32).retire 4#32)

/-- WAITO (R107): stalls until every named field is at or below its limit; with a copies code other than 15 it then
delivers the oldest held fault (R202). -/
def execWaito (l st c t m : BitVec 4) (s : State) : Out :=
  ok (s.inTask fun s =>
    let o := s.task.ocnt
    s.await (withinLimit l o.loads && withinLimit st o.stores && withinLimit c o.copies && withinLimit t o.cmds &&
        withinLimit m o.msgs) fun s =>
      if c = 15#4 then s.retire 4#32 else s.heldFirst fun s => s.retire 4#32)

end Sys2Proof.Machine
end

