-- ==== Sys2Proof/Machine/System.lean ====
section
/-! DEFINITION. Traps by instruction and at fetch, TRET, YIELD, IDLE, FENCE, tensor-map slots, and the events of a core's
contexts (R72, R85, R100, R105, R108 to R110, R278, R279, R282). -/

namespace Sys2Proof.Machine

/-- NOP (R108). -/
def execNop (s : State) : Out := ok (s.retire 4#32)

/-- ECALL (R108). -/
def execEcall (s : State) : Out := ok (s.inTask fun s => s.trap .ecall 0#32)

/-- TRAP, with the 8-bit code in tval (R108); in the handler context it escalates (R278). -/
def execTrap (c : BitVec 8) (s : State) : Out := ok (s.trap .softwareTrap (zext c))

/-- BRK (R108). -/
def execBrk (s : State) : Out := ok (s.inTask fun s => s.trap .breakpoint 0#32)

/-- The word of TRET, which its ILLEGAL_OP names in tval (R61, R109). -/
def tretWord : Word := 0x0003E500#32

/-- TRET (R109): ILLEGAL_OP outside trap mode; past a software trap by the length of the instruction at epc, else at epc. (DEDUCED, log 18).
Where epc lies outside the segment, trap mode has ended and CODE_RANGE is taken at TRET itself. (DESIGN CHOICE, log 74). -/
def execTret (s : State) : Out :=
  ok (s.inTask fun s =>
    if !s.task.trapMode then s.trap .illegalOp tretWord
    else if s.task.returnsPast then
      match s.codeNode.half s.task.epcOffset.toNat with
      | some h => (s.modT (TaskCtx.returnTrap (some (BitVec.ofNat 32 (instrBytes h))))).prefer
      | none => (s.modT TaskCtx.leaveTrap).trap .codeRange s.task.epcOffset
    else (s.modT (TaskCtx.returnTrap none)).prefer)

/-- YIELD: the other task context becomes the preferred one (R72). -/
def execYield (s : State) : Out :=
  ok (s.inTask fun s => (s.retire 4#32).modCore s.who.core fun c => { c with pref := s.who.ctx != .tc1 })

/-- IDLE: stalls until a wake event (R110). -/
def execIdle (s : State) : Out := ok (s.inTask fun s => s.stall .idle)

/-- IDLE_TIMEOUT: an IDLE ends after 65,536 cycles (R110). -/
def execIdleTimeout (s : State) : Out :=
  match s.now with
  | some (.idleTimeout k x) =>
    ok (s.modTask ⟨k, x⟩ TaskCtx.endIdle)
  | _ => ok s

/-! ## Fences (R105) -/

/-- Whether an event is a loop-back operation of a context that is still to be performed: on its way, or to be resent. -/
def loopsBack (i : Issuer) : Event → Bool
  | .remoteBusyResend m _ => m.src == i && m.dst == i.core
  | .mailboxArrival _ | .joinDecrement .. => false
  | e => eventChannel e == some (i, i.core)

/-- Whether a loop-back operation of the issuing context is still under way, on its way or parked at its word (R105, R245). -/
def State.loopBusy (s : State) : Bool :=
  s.pending.any (loopsBack s.who) || s.core.parkedFe.any fun m => m.remote && m.src == s.who

/-- A context's private-alias and loop-back accesses are ordered (R245). -/
def Core.orderAliases (x : CtxSel) (c : Core) : Core := { c with aged := c.aged.filter fun e => e.1 != x }

/-- Whether every message of the issuing context has been accepted by the network (R239, R405). -/
def State.messagesDone (s : State) : Bool := if s.inHandler then s.core.hd.unsent == 0 else s.task.ocnt.msgs == 0

/-- Whether every earlier store, remote store, atomic and global write of the issuing context is acknowledged (R105). -/
def State.writesDone (s : State) : Bool := if s.inHandler then s.core.hd.unacked == 0 else s.drained

/-- Whether every earlier load of the issuing context is done (R239). -/
def State.loadsDone (s : State) : Bool := s.inHandler || s.task.ocnt.loads == 0

/-- FENCE (R105, R239): y is 00 full, 01 acquire, 10 release; l is LB; sc the scope. Full and acquire types order earlier
reads, which are waited for; full and release types order earlier writes, messages among them. -/
def execFence (y : BitVec 2) (l : BitVec 1) (sc : BitVec 3) (s : State) : Out :=
  ok (s.await ((y = 1#2 || (s.writesDone && s.messagesDone)) && (y = 2#2 || s.loadsDone) && (l = 0#1 || !s.loopBusy)) fun s =>
    let s := if l = 1#1 then s.modCore s.who.core (Core.orderAliases s.who.ctx) else s
    (if y ≠ 2#2 ∧ 1 ≤ sc.toNat then s.dropL1 s.who.core else s).retire 4#32)

/-! ## Tensor-map slots (R100) -/

/-- The local address of the record of slot n (R98). -/
def tmapAddr (n : BitVec 4) : Nat := 0x7C00 + 64 * n.toNat

/-- Whether a bmv map's reserved fields are nonzero (R135). -/
def bmvMalformed (m : Rec) : Bool :=
  mapEt m == 11 && (bits (Rec.w m 1) 20 12 != 0 || bits (Rec.w m 3) 3 29 != 0 ||
    ((List.range 5).any fun i => Rec.w m (6 + i) != 0))

/-- TMSET (R100): binds the slot to a snapshot of its record; a malformed record leaves it unbound and traps. -/
def execTmset (n : BitVec 4) (s : State) : Out :=
  ok (s.inTask fun s => s.access fun s =>
    let m := s.core.lm.rec (tmapAddr n)
    if mapMalformed m || bmvMalformed m then
      s.deliverFault ⟨.tmapUnbound, false, BitVec.ofNat 32 (tmapAddr n)⟩
        (State.modT fun t => { t with tm := t.tm.set n.toFin none })
    else (s.modT fun t => { t with tm := t.tm.set n.toFin (some m) }).retire 4#32)

/-- TMOFF (R100). -/
def execTmoff (n : BitVec 4) (s : State) : Out :=
  ok (s.inTask fun s => (s.modT fun t => { t with tm := t.tm.set n.toFin none }).retire 4#32)

/-! ## Events of a core's contexts -/

/-- ILLEGAL_OP: the fetched word is not an instruction; tval holds it (R61). -/
def execIllegalOp (s : State) : Out :=
  match s.now with
  | some (.illegalOp w) => ok (s.trap .illegalOp w)
  | _ => ok s

/-- CODE_RANGE: a fetch at or beyond the segment's length, or of pages without X, which is PERM_EXEC; tval holds the byte
offset (R53, R262). -/
def execCodeRange (s : State) : Out :=
  match s.now with
  | some (.codeRange off perm) => ok (s.trap (if perm then .permExec else .codeRange) off)
  | _ => ok s

/-- ASYNCHRONOUS_TRAP: the oldest held trap is taken at an instruction boundary when it is due (R279); in the handler context it escalates
(R278). -/
def execAsynchronousTrap (s : State) : Out :=
  match s.now with
  | some (.asynchronousTrap k x) =>
    let i : Issuer := ⟨k, x⟩
    if x = .handler then
      match (s.coreAt k).hd.traps with
      | tr :: rest => ok ((s.modCore k fun c => { c with hd := { c.hd with traps := rest } }).trapAt i tr)
      | [] => ok s
    else
    let t := s.taskAt i
    match t.traps with
    | tr :: rest =>
      if !t.trapDue then ok s
      else if t.anyPending then ok (s.modTask i fun t => { t with run := .stalled .retry })
      else ok ((s.modTask i fun t => { t with traps := rest }).trapAt i tr)
    | [] => ok s
  | _ => ok s

/-- CORE_HANG: a running task context that has retired nothing for 2^24 cycles escalates (R282). -/
def execCoreHang (s : State) : Out :=
  match s.now with
  | some (.coreHang k x) =>
    if (s.taskAt ⟨k, x⟩).run = .running then
      ok (s.escalateAt ⟨k, x⟩ .coreHang (BitVec.ofNat 32 k) (s.taskAt ⟨k, x⟩).pc)
    else ok s
  | _ => ok s

/-- DEBUG_HALT_REQUEST: firmware halts a task context with the asynchronous trap DEBUG_HALT (R282). -/
def execDebugHaltRequest (s : State) : Out :=
  match s.now with
  | some (.debugHaltRequest k x) => ok (s.asyncTrap ⟨k, x⟩ ⟨.debugHalt, true, 0#32⟩)
  | _ => ok s

/-- RETENTION_LOSS: a RESERVED core's banks lose retention, which escalates (R282). -/
def execRetentionLoss (s : State) : Out :=
  match s.now with
  | some (.retentionLoss k) =>
    if (s.coreAt k).power = .reserved then ok (s.escalateCore k .retentionLoss (BitVec.ofNat 32 k)) else ok s
  | _ => ok s

/-- CORE_CLOCK_CYCLE: the 64-bit counter of every bound core advances (R50); it does not count while the group is SAVED
(R287). -/
def execCoreClockCycle (s : State) : Out :=
  ok { s with cores := s.cores.map fun e =>
    (e.1, if e.2.power = .bound ∨ e.2.power = .saving then { e.2 with cycle := e.2.cycle + 1#64, divider := e.2.divider - 1 } else e.2) }

/-- HANDLER_BUDGET: a handler run that would issue one instruction beyond its budget escalates with its class (R184). -/
def execHandlerBudget (s : State) : Out :=
  match s.now with
  | some (.handlerBudget k) =>
    let h := (s.coreAt k).hd
    if h.running ∧ h.budget = 0 then
      ok (s.escalateAt ⟨k, .handler⟩ .handlerBudget (h.cls.setWidth 32) h.pc)
    else ok s
  | _ => ok s

end Sys2Proof.Machine
end

