-- ==== Sys2Proof/Machine/Task.lean ====
section
/-! DEFINITION. Tasks: join frames, SPAWN, SYNC, DONE, HALT and HALTR, the deque and the steal protocol, active messages
and the handler context (R145, R167 to R189). -/

namespace Sys2Proof.Machine

/-! ## Leases end with their task context (R149) -/

/-- A bank without any lease or request of an issuer (R149: the task context becomes FREE). -/
def Bank.dropLease (i : Issuer) (b : Bank) : Bank :=
  { b with leases := b.leases.filter fun e => e.1 != i,
           held := match b.held with
             | some (j, n) => if j = i then none else some (j, n)
             | none => none }

/-- The issuer's lease and request withdrawn from both banks of its cluster. -/
def State.dropLease (i : Issuer) (s : State) : State :=
  s.modCluster (clusterOf i.core) fun c => { c with bank0 := c.bank0.dropLease i, bank1 := c.bank1.dropLease i }

/-- The task context leaves its task: FREE, or out of the free list (R77, R188). The instruction counts. -/
def State.leaveTask (i : Issuer) (r : Run) (s : State) : State :=
  (s.modTask i fun t => { t with run := r, instret := t.instret + 1#32 }).dropLease i

/-! ## Ending a task (R145, R169) -/

/-- The tokens left in the issuing context's queue discarded, which acts as the pop of each of them: an acquire (R145, R246, R248). -/
def State.discardTokens (s : State) : State :=
  if s.task.tokens.isEmpty then s else (s.modT fun t => { t with tokens := [] }).dropL1 s.who.core

/-- The end-of-task steps before an ending instruction's own action: loads, stores and messages, then tile commands, are
waited for; tokens left are discarded, and the oldest with a fault is taken as a trap (R145, R169). -/
def State.endSteps (s : State) (k : State → State) : State :=
  let o := s.task.ocnt
  s.await (o.loads == 0 && o.stores == 0 && o.msgs == 0 && o.cmds == 0) fun s =>
    let discard := State.discardTokens
    match s.task.tokens.find? fun t => t.f.isSome with
    | some ⟨some c, _, tval⟩ => s.deliverFault ⟨c, true, tval⟩ discard
    | _ => k (discard s)

/-! ## Join frames (R171 to R176) -/

/-- The owner that a frame reference names (R171). -/
def frameOwner (f : Word) : Nat := bits f.toNat 13 18
/-- The byte address that a frame reference names (R171). -/
def frameAddr (f : Word) : Nat := 4 * bits f.toNat 0 13

/-- Whether a frame reference has the form of R171: bit 31 clear, aligned, and its 80 bytes below 0x7000. -/
def frameForm (f : Word) : Bool := bits f.toNat 31 1 == 0 && bits f.toNat 0 2 == 0 && frameAddr f + 79 ≤ 0x6FFF

/-- Whether a frame of a core is initialised with its reserved bits zero (R171). -/
def Core.frameReady (c : Core) (a : Nat) : Bool :=
  let w1 := (c.lm.word (a + 4)).toNat
  let w2 := (c.lm.word (a + 8)).toNat
  w2 % 2 == 1 && w2 / 4 == 0 && w1 / 65536 == 0 && c.lm.word (a + 12) == 0#32

/-- Whether a frame reference is valid for a task of a group (R171). -/
def State.frameValid (s : State) (g : Nat) (f : Word) : Bool :=
  let o := s.coreAt (frameOwner f)
  frameForm f && o.group == g && (o.power == .bound || o.power == .saving) && o.frameReady (frameAddr f)

/-- The count of a frame (R171). -/
def State.frameCount (s : State) (f : Word) : Word := s.localWord (frameOwner f) (frameAddr f)
/-- Whether a waiter record stands in a frame's waiter slot (R171). -/
def State.frameWaits (s : State) (f : Word) : Bool := bits (s.localWord (frameOwner f) (frameAddr f + 8)).toNat 1 1 == 1

/-- Each frame of a core whose count is zero and whose waiter has not been pushed is pushed while an entry is free (R176). -/
def State.pushWaiters (k : Nat) (s : State) : State :=
  (s.coreAt k).waiters.foldl (fun s a =>
    let c := s.coreAt k
    if c.lm.word a = 0#32 ∧ 0 < c.dq.room then
      let slot := (c.lm.word (a + 4)).toNat % 65536
      ((s.dequePushMarked k (c.lm.rec slot) (c.marks.find slot)).setLocalWord k (a + 8) 1#32).modCore k fun c =>
        { c.setMark slot none with waiters := c.waiters.filter (· != a) }
    else s) s

/-- A frame's decrement at its owner (R176): FRAME_INVALID escalates; a count that reaches zero releases the waiter. -/
def State.joinAt (g : Nat) (f : Word) (s : State) : State :=
  let k := frameOwner f
  if !s.frameValid g f || s.frameCount f == 0#32 then s.escalateCore k .frameInvalid f
  else (s.setLocalWord k (frameAddr f) (s.frameCount f - 1#32)).pushWaiters k

/-- FRINIT (R172). -/
def execFrinit (d a : BitVec 4) (s : State) : Out :=
  ok (s.inTask fun s => s.withRegs [a, d] [] fun s => s.access fun s =>
    let w := s.x a
    let n := w.toNat
    if 0x7FFF < n then s.trap .localRange w
    else if n % 16 ≠ 0 then s.trap .misaligned w
    else if 0x6FFF < n + 79 then s.trap .localProtect w
    else
      ((s.modCore s.who.core fun c =>
          { c with lm := (((c.lm.setWord n 0#32).setWord (n + 4) (BitVec.ofNat 32 (n + 16))).setWord (n + 8)
                      1#32).setWord (n + 12) 0#32,
                   waiters := c.waiters.filter (· != n) }).setX d
        (BitVec.ofNat 32 (s.who.core * 2 ^ 13 + n / 4))).retire 4#32)

/-- The registers that a record carries: x1 to x14. -/
def carriedRegs : List (BitVec 4) :=
  [1#4, 2#4, 3#4, 4#4, 5#4, 6#4, 7#4, 8#4, 9#4, 10#4, 11#4, 12#4, 13#4, 14#4]

/-- The record of a spawned child (R174). -/
def TaskCtx.childRec (target f : Word) (nf : Bool) (t : TaskCtx) : Rec :=
  { t with frame := if nf then 0#32 else f, nf := nf }.toRec 0 false target

/-- SPAWN (R174). -/
def execSpawn (o : BitVec 16) (fr : BitVec 4) (s : State) : Out :=
  ok (s.inTask fun s => s.withRegs (fr :: carriedRegs) [] fun s =>
    let nf := fr = 0#4
    let f := s.x fr
    let target := relTarget s.pc o
    if ¬ nf ∧ (!s.frameValid s.core.group f || frameOwner f != s.who.core || s.frameCount f == 0xFFFFFFFF#32) then
      s.trap .frameInvalid f
    else if s.core.dq.room = 0 then s.trap .dequeFull target
    else
      let r := s.task.childRec target f nf
      let s := if nf then s else s.setLocalWord s.who.core (frameAddr f) (s.frameCount f + 1#32)
      (s.dequePush s.who.core r).retire 4#32)

/-- The waiter record of the running task, to resume after its SYNC (R175). -/
def TaskCtx.waiterRec (t : TaskCtx) : Rec := t.toRec 0 true (t.pc + 4#32)

/-- SYNC (R175): SYNC x0 completes at once; a finished frame continues the task as an acquire, at PC + 4 without the loop-back decision,
since SYNC transfers control (R85); an unfinished one suspends it
after the end-of-task steps, the test being made again with each issue. A task that suspends reads x1 to x14 for its record, so
it takes the fault that a reply left at one of them (R94). -/
def execSync (fr : BitVec 4) (s : State) : Out :=
  ok (s.inTask fun s =>
    if fr = 0#4 then s.jump (s.pc + 4#32) else
    s.withRegs [fr] [] fun s =>
      let f := s.x fr
      let k := s.who.core
      if !s.frameValid s.core.group f || frameOwner f != k then s.trap .frameInvalid f
      else if s.frameCount f = 0#32 then (s.dropL1 k).jump (s.pc + 4#32)
      else if s.frameWaits f then s.trap .frameInvalid f
      else if s.task.vl then s.trap .taskVectorLive 0#32
      else s.await (s.task.ocnt.loads == 0) fun s => s.withRegs carriedRegs [] fun s => s.endSteps fun s =>
        let a := frameAddr f
        let slot := (s.localWord k (a + 4)).toNat % 65536
        ((s.modCore k fun c =>
          { c.setMark slot (s.task.origin.map fun p => { fail := none, origin := some p }) with
            lm := (c.lm.setRec slot s.task.waiterRec).setWord (a + 8) 3#32, waiters := c.waiters ++ [a] }).leaveTask s.who .free).prefer)

/-- The join of an ended task: nothing with NF = 1, the frame unit of the same core, a class-8 message, or a message to the
part that the task came from (R176, R271). -/
def State.joinTask (s : State) : State :=
  let f := s.task.frame
  if s.task.nf then s
  else if let some (p, g) := s.task.origin then s.toPartAway p (.join s.partAddr f s.who s.core.group g)
  else if frameOwner f = s.who.core then s.joinAt s.core.group f
  else s.send s.core.group s.who.core (frameOwner f) (.joinDecrement f s.who s.core.group)

/-- DONE (R176). -/
def State.done (s : State) : State :=
  s.inTask fun s => s.endSteps fun s => (s.joinTask.leaveTask s.who .free).prefer

/-- DONE (R176). -/
def execDone (s : State) : Out := ok s.done
/-- C.DONE (R62, R176). -/
def execCDone (s : State) : Out := ok s.done

/-- Whether a core's deque, steals, mailbox and handler are clear, and its transfers (R188, R193). -/
def Core.quiet (c : Core) : Bool :=
  c.dq.held == 0 && !c.dq.reserved && c.mbCount == 0 && !c.hd.running &&
    c.slots.all fun e => e.2.state != .active && e.2.state != .saved && !(e.2.state == .ended && e.2.undelivered)

/-- HALT and HALTR: the task ends as by DONE and its context leaves the set that takes work, after the waits of R188 and
R193 when the other context has already left. -/
def State.halt (succ : Option (BitVec 2)) (s : State) : State :=
  s.inTask fun s => s.endSteps fun s =>
    s.await (decide ((s.core.task (otherTask s.who.ctx)).run ≠ .left) || s.core.quiet) fun s =>
      ((s.joinTask.leaveTask s.who .left).modCore s.who.core fun c =>
        { c with succ := match succ with
            | some k => some k
            | none => c.succ }).prefer

/-- HALT (R188). (DEDUCED, log 23). -/
def execHalt (s : State) : Out := ok (s.halt none)

/-- HALTR k; a slot without a kernel makes it a HALT (R188). (DEDUCED, log 23). -/
def execHaltr (k : BitVec 2) (s : State) : Out :=
  ok (s.halt (if (s.kernelOf s.core.group k.toNat).isSome then some k else none))

/-- JOIN_DECREMENT (R176, class 8): performed by the frame unit of its owner, held while the group's cores take no messages (R285),
answered NACK by an owner that is no longer bound to the group. -/
def execJoinDecrement (s : State) : Out :=
  match s.now with
  | some (.joinDecrement f src g) =>
    let k := frameOwner f
    let s' := s.accept g src.core k
    if (s.groupAt g).stored ∨ ((s.groupAt g).state = .preempting ∧ !s.drawn (.joinDecrement f src g)) then
      ok (s.hold g (.joinDecrement f src g))
    else if (s.coreAt k).group = g ∧ ((s.coreAt k).power = .bound ∨ (s.coreAt k).power = .saving) then
      ok (if s.handlerFree k then s'.joinAt g f else s.repost (.joinDecrement f src g))
    else ok (s'.post (.remoteNack ⟨src, .join g, .frameInvalid, f, g⟩))
  | _ => ok s

/-! ## Taking work (R168, R177 to R180) -/

/-- Whether a task context is FREE and waits for no steal reply (R178). -/
def Core.takes (c : Core) (x : CtxSel) : Bool :=
  (c.task x).run == .free && x != .handler && c.dq.thief != some (x == .tc1)

/-- Whether a task context may pop its core's deque: tc0 pops first when both are free (R178). -/
def State.canPop (s : State) (k : Nat) (x : CtxSel) : Bool :=
  let c := s.coreAt k
  s.groupRuns k && c.takes x && 0 < c.dq.held && (x == .tc0 || !c.takes .tc0)

/-- OWNER_POP (R177, R178): the task context takes the record at the bottom. -/
def execOwnerPop (s : State) : Out :=
  match s.now with
  | some (.ownerPop k x) =>
    if s.canPop k x then
      let b := (s.coreAt k).dq.bottom - 1#16
      let a := dequeEntry b
      let r := (s.coreAt k).lm.rec a
      let m := (s.coreAt k).marks.find a
      let s := s.modCore k fun c => { c with dq := { c.dq with bottom := b } }
      ok (((s.dropL1 k).takeUp ⟨k, x⟩ a r m).pushWaiters k)
    else ok s
  | _ => ok s

/-- The steal domain of a core: the group's other cores in its cluster, on its die, or all, in ascending coreid (R178, R179,
R328). -/
def State.stealDomain (s : State) (k : Nat) : List Nat :=
  let g := s.groupAt (s.coreAt k).group
  let code := bits g.shape.toNat 21 2
  g.cores.filter fun j =>
    j != k && (code == 2 || (code == 0 && j / 16 == k / 16) || (code == 1 && j / 32768 == k / 32768))

/-- One step of the victim generator (R179). -/
def stepG (g : BitVec 16) : BitVec 16 := if g.getLsbD 0 then (g >>> 1) ^^^ 0xB400#16 else g >>> 1

/-- The victim generator stepped n times. -/
def stepGs : Nat → BitVec 16 → BitVec 16
  | 0, g => g
  | n + 1, g => stepGs n (stepG g)

/-- Whether a core issues a steal (R178): a task context that takes work, an empty deque and mailbox, no steal outstanding, a
domain with another core, and no back-off. -/
def State.canSteal (s : State) (k : Nat) : Bool :=
  let c := s.coreAt k
  s.groupRuns k && (c.takes .tc0 || c.takes .tc1) && c.dq.held == 0 && c.mbCount == 0 && !c.dq.reserved &&
    !c.dq.backoff && !(s.stealDomain k).isEmpty

/-- STEAL_ISSUE (R178, R179): the next candidate of the round is asked; a new round steps the generator 16 times. -/
def execStealIssue (s : State) : Out :=
  match s.now with
  | some (.stealIssue k) =>
    if s.canSteal k then
      let c := s.coreAt k
      let dom := s.stealDomain k
      let g' := stepGs 16 c.dq.g
      let (r, n, e, g) := match c.dq.round with
        | some (r, n, e) => (r, n, e, c.dq.g)
        | none => (g'.toNat % dom.length, 0, true, g')
      let victim := dom.getD ((r + n) % dom.length) 0
      ok ((s.modCore k fun c =>
        { c with dq := { c.dq with g := g, reserved := true, thief := some (!c.takes .tc0),
                                   round := some (r, n + 1, e) } }).send c.group k victim (.steal k victim))
    else ok s
  | _ => ok s

/-- STEAL (R177, R180, class 6): the record at the top, or empty; a core no longer bound to the group, or whose group is being
pre-empted, answers empty. -/
def execSteal (s : State) : Out :=
  match s.now with
  | some (.steal k v) =>
    let g := (s.coreAt k).group
    let s := s.accept g k v
    let c := s.coreAt v
    if s.groupRuns v && c.group == g && 0 < c.dq.held then
      let a := dequeEntry c.dq.top
      let r := c.lm.rec a
      let m := c.marks.find a
      let s := s.modCore v fun c => { c.setMark a none with dq := { c.dq with top := c.dq.top + 1#16 } }
      ok ((s.pushWaiters v).send g v k (.stealReply k v (some r) m))
    else ok (s.send g v k (.stealReply k v none none))
  | _ => ok s

/-- The deque controller after a reply (R179, R180): the reservation cleared; after the last candidate of a round the round
ends, with a back-off when every reply was empty. -/
def Deque.replied (m : Nat) (empty : Bool) (d : Deque) : Deque :=
  let d := { d with reserved := false, thief := none }
  match d.round with
  | some (r, n, e) =>
    if n < m then { d with round := some (r, n, e && empty) }
    else { d with round := none, backoff := e && empty }
  | none => d

/-- STEAL_REPLY (R180, class 7): a record lands in entry (top − 1) mod 32 and starts on the waiting task context; an empty
reply lets it fall back. -/
def execStealReply (s : State) : Out :=
  match s.now with
  | some (.stealReply k v r m) =>
    let s := s.accept (s.coreAt k).group v k
    let c := s.coreAt k
    let s := s.modCore k fun c => { c with dq := c.dq.replied (s.stealDomain k).length r.isNone }
    match r, c.dq.thief with
    | some r, some tc =>
      let a := dequeEntry (c.dq.top - 1#16)
      let s := s.modCore k fun c => { c with lm := c.lm.setRec a r }
      ok (((s.dropL1 k).takeUp ⟨k, if tc then .tc1 else .tc0⟩ a r m).pushWaiters k)
    | _, _ => ok (s.pushWaiters k)
  | _ => ok s

/-- STEAL_BACKOFF_END (R179). -/
def execStealBackoffEnd (s : State) : Out :=
  match s.now with
  | some (.stealBackoffEnd k) => ok (s.modCore k fun c => { c with dq := { c.dq with backoff := false } })
  | _ => ok s

/-! ## Active messages (R181 to R187) -/

/-- The message that SENDAM sends (R181, R186). -/
def State.amMsg (s : State) (c d : Word) : AmMsg :=
  { src := s.who, dst := bits d.toNat 0 18, part := s.partAddr, ctx := s.core.ctxid, group := s.core.group, dword := d,
    words := Vector.ofFn fun i =>
      match i.val with
      | 0 => BitVec.ofNat 32 (s.who.core * 64 + c.toNat % 64)
      | 1 => BitVec.ofNat 32 (s.core.msgSeq.toNat * 4096 + s.partAddr % 4096)
      | 2 => s.x 4#4
      | 3 => s.x 5#4
      | 4 => s.x 6#4
      | 5 => s.x 7#4
      | _ => 0#32 }

/-- A message of a task context counted as waiting for the network (R107, R405). -/
def State.countTaskMsg (s : State) : State := s.modT fun t => { t with ocnt := { t.ocnt with msgs := t.ocnt.msgs + 1 } }

/-- A message counted as waiting for the network: in ocnt for a task, for the handler in no ocnt (R107, R186). -/
def State.countMsg (s : State) : State :=
  (if s.inHandler then s.modCore s.who.core fun c => { c with hd := { c.hd with unsent := c.hd.unsent + 1 } }
   else s.countTaskMsg).post (.messageAccept s.who)

/-- An active message on its way: to a core of this part, or to another part (R181, R186, R339). -/
def State.sendAm (own : Bool) (part : Nat) (m : AmMsg) (s : State) : State :=
  if own then s.send s.core.group s.who.core m.dst (.mailboxArrival m)
  else (s.number s.who.core (.mailboxArrival m)).toPartOr part (.am m) fun c v => ⟨m.src, .message, c, BitVec.ofNat 32 v, m.group⟩

/-- SENDAM (R186): xd names the destination, xc the class. (DEDUCED, log 23). -/
def execSendam (c d : BitVec 4) (s : State) : Out :=
  ok (s.withRegs [d, c, 4#4, 5#4, 6#4, 7#4] [] fun s => s.access fun s =>
    let cls := s.x c
    let dst := s.x d
    let part := bits dst.toNat 18 12
    let own := bits dst.toNat 30 1 = 0 ∨ part = s.partAddr
    if cls.toNat < 16 ∨ 63 < cls.toNat then s.trap .mailboxClass cls
    else if bits dst.toNat 31 1 = 1 ∨ (bits dst.toNat 30 1 = 0 ∧ part ≠ 0) then s.trap .remoteUnreachable dst
    else s.checked (if own then none else s.linkTrap part) fun s => s.await (s.inHandler || s.task.ocnt.msgs < 63) fun s =>
      let m := s.amMsg cls dst
      (s.countMsg.sendAm own part m).retire 4#32)

/-- A message lands in the next mailbox entry; a round of the core's thief is abandoned and its back-off ends (R179, R184). -/
def Core.land (m : AmMsg) (c : Core) : Core :=
  { c with lm := c.lm.setBytes (mailboxEntry (c.mbHead + c.mbCount)) (wordBytes m.words.toList),
           mbCount := c.mbCount + 1, dq := { c.dq with round := none, backoff := false } }

/-- The context whose group a core belongs to, a SAVED one included. -/
def State.ctxHolding (s : State) (k : Nat) : Nat :=
  match s.groups.find? fun e => e.2.stored && e.2.cores.contains k with
  | some e => if (s.coreAt k).group = 0 then e.2.ctx else (s.coreAt k).ctxid
  | none => (s.coreAt k).ctxid

/-- MAILBOX_ARRIVAL (R184, R186): a message lands in ring order, waits in its channel for a full mailbox or while the group
is being pre-empted (R285), or is answered NACK. -/
def execMailboxArrival (s : State) : Out :=
  match s.now with
  | some (.mailboxArrival m) =>
    let here := m.part = s.partAddr
    let nack (s : State) : State :=
      if here then (s.accept m.group m.src.core m.dst).post (.remoteNack ⟨m.src, .message, .remoteUnreachable, m.dword, m.group⟩)
      else s.toPart m.part (.nack ⟨m.src, .message, .remoteUnreachable, m.dword, m.group⟩)
    let ctx := if here then m.ctx else s.ctxHolding m.dst
    if !here && !(s.contextAt ctx).admits m.part m.ctx then ok (nack s)
    else ok (s.deliver m.dst ctx (here && (s.coreAt m.dst).group == m.group && s.drawn (.mailboxArrival m)) (.mailboxArrival m) nack fun s =>
      if (s.coreAt m.dst).mbCount < 32 then
        (if here then s.accept m.group m.src.core m.dst else s).modCore m.dst (Core.land m)
      else s.repost (.mailboxArrival m))
  | _ => ok s

/-- The handler's registers for the message of an entry (R184). -/
def Core.beginRun (entry cls : Nat) (h : Word) (c : Core) : Core :=
  let w (i : Nat) : Word := c.lm.word (entry + 4 * i)
  let x := c.hd.x
  { c with hd :=
      { c.hd with running := true, pc := BitVec.ofNat 32 (bits h.toNat 0 25), kslot := BitVec.ofNat 2 (bits h.toNat 28 2),
                  cls := BitVec.ofNat 6 cls, entry := entry,
                  budget := if c.hbudget = 0#16 then 65536 else c.hbudget.toNat,
                  x := ((((((x.set 2 (w 0)).set 3 (w 1)).set 4 (w 2)).set 5 (w 3)).set 6 (w 4)).set 7 (w 5)).set 15
                    (BitVec.ofNat 32 entry) } }

/-- ACTIVE_MESSAGE (R184): the routine of the class's entry runs, or MAILBOX_CLASS escalates. -/
def execActiveMessage (s : State) : Out :=
  match s.now with
  | some (.activeMessage k) =>
    if s.canHandle k then
      let c := s.coreAt k
      let entry := mailboxEntry c.mbHead
      let cls := (c.lm.word entry).toNat % 64
      let h := c.lm.word (c.hbase.toNat + 4 * cls)
      if bits h.toNat 31 1 = 0 ∨ (s.kernelOf c.group (bits h.toNat 28 2)).isNone then
        ok (s.escalateAt ⟨k, .handler⟩ .mailboxClass (BitVec.ofNat 32 cls) 0#32)
      else ok ((s.dropL1 k).modCore k (Core.beginRun entry cls h))
    else ok s
  | _ => ok s

/-- The handler's run ends: its mailbox entry is freed, and the IDLEs of the core end (R110, R185). -/
def State.endRun (k : Nat) (s : State) : State :=
  (s.modCore k fun c =>
    { c with hd := { c.hd with running := false, instret := c.hd.instret + 1#32 }, mbHead := (c.mbHead + 1) % 32,
             mbCount := c.mbCount - 1 }).wakeIdle k

/-- HRET (R185): in the handler context, after its remote stores have been accepted; ILLEGAL_OP in a task context (R60). -/
def State.hret (word : Word) (s : State) : State :=
  if s.inHandler then (if s.core.hd.unsent = 0 then s.endRun s.who.core else s) else s.trap .illegalOp word

/-- HRET (R185). -/
def execHret (s : State) : Out := ok (s.hret 0x0005E600#32)
/-- C.HRET (R62, R185). -/
def execCHret (s : State) : Out := ok (s.hret 0x0000B802#32)

end Sys2Proof.Machine
end

