-- ==== Sys2Proof/Machine/Engine.lean ====
section
/-! DEFINITION. How engines reach global memory: the pieces of an aligned 32-byte unit, what each meets at its page, and the
pieces that the host or another part performs (R143, R153, R191, R262, R266, R267, R269). -/

namespace Sys2Proof.Machine

/-- The hub time at which a request is first sent, which RETRY carries (R342): a free value (assumption 5). (DESIGN CHOICE, log 5). -/
def State.freeAge (s : State) : Nat × State := (s.freeWord.1.toNat, s.freeWord.2)

/-- The pager asked for a page, once. -/
def State.askPager (ctx page : Nat) (s : State) : State :=
  if (ctx, page) ∈ s.pagerAsks then s else { s with pagerAsks := s.pagerAsks ++ [(ctx, page)] }

/-- The pager asked for a page by an engine, which waits for its answer (R267). -/
def State.askFor (e : Engine) (ctx page : Nat) (s : State) : State :=
  if (e, ctx, page) ∈ s.engineAsks then s.askPager ctx page
  else State.askPager ctx page { s with engineAsks := s.engineAsks ++ [(e, ctx, page)] }

/-- Bytes with their addresses gathered into pieces, none across a 32-byte unit. -/
def gather : List (Nat × Byte) → List (Nat × List Byte)
  | [] => []
  | (a, b) :: rest =>
    match gather rest with
    | (a', bs) :: more => if a' = a + 1 ∧ a' % 32 ≠ 0 then (a, b :: bs) :: more else (a, [b]) :: (a', bs) :: more
    | [] => [(a, [b])]

/-- The pieces that a list of reads touches, each an address and a length. -/
def readPieces (rs : List (Nat × Nat)) : List (Nat × List Byte) :=
  gather (rs.flatMap fun (a, n) => (List.range n).map fun i => ((a + i) % 2 ^ 48, 0#8))

/-- The pieces that a list of writes touches. -/
def writePieces (ws : List (Nat × List Byte)) : List (Nat × List Byte) :=
  gather (ws.flatMap fun (a, bs) => bs.zipIdx.map fun (b, i) => ((a + i) % 2 ^ 48, b))

/-- What a piece of an engine needs of its page: a scatter-add as a write does (R262). -/
def PieceOp.need : PieceOp → Need
  | .read => .read
  | _ => .write

/-- Whether a piece consumes what it finds (R266). -/
def PieceOp.reads : PieceOp → Bool
  | .write _ => false
  | _ => true

/-- Whether a piece is an addition, which no atomic at its word comes between (R103, R209). -/
def PieceOp.adds : PieceOp → Bool
  | .add .. => true
  | _ => false

/-- The operation of a piece as the host or a home part performs it. -/
def PieceOp.acc : PieceOp → AccOp
  | .read => .read
  | .write bs => .write (BitVec.ofNat 256 (leNat bs))
  | .add f bs => .add f bs

/-- The sum that an addition makes of an element: a scatter-add's in a number format (R209), or the 64 bits of a signal, as code 64
(R299). -/
def addElem (fmt : Nat) (old v : List Byte) : List Byte :=
  match fmt with
  | 4 => leBytes 4 ((leNat old + leNat v) % 2 ^ 32)
  | 64 => leBytes 8 ((leNat old + leNat v) % 2 ^ 64)
  | 6 => leBytes 2 (fmt16.rne ((fmt16.decode (leNat old)).add (fmt16.decode (leNat v)))).val
  | _ => leBytes 4 (fmt32.rne ((fmt32.decode (leNat old)).add (fmt32.decode (leNat v)))).val

/-- What a piece meets; of a failure, the tval where it is not the address. -/
inductive PieceMeet where
  | here (l : Leaf)
  | zero (l : Leaf)
  | given (bytes : List Byte)
  | failed (c : Cause) (v : Option Nat)
  | blocked (m : Meet)
  deriving DecidableEq, Repr

/-- A piece of an engine: its number in its list, its address, its length and its operation. -/
structure Piece where
  nth : Nat
  va  : Nat
  n   : Nat
  op  : PieceOp
  deriving DecidableEq, Repr

/-- The fetch of an engine for a piece. -/
def State.fetchOf (s : State) (e : Engine) (p : Piece) : Option Fetch :=
  (s.fetches.find? fun f => f.2.by_ == e && f.2.nth == p.nth && f.2.va == p.va && f.2.size == p.n && f.2.op == p.op).map (·.2)

/-- What a piece of an engine meets: its answer, once it has been performed or sent, else its page; a page that the pager has failed for
this engine fails here (R266, R267, R269), as does a home part without a route or a port (R338, R339). -/
def State.pieceMeet (s : State) (e : Engine) (ctx : Nat) (p : Piece) : PieceMeet :=
  match s.fetchOf e p with
  | some f =>
    match f.ans with
    | .data bs => .given bs
    | .fail c v => .failed c v
    | .none => .blocked .wait
  | none =>
    match s.meet ctx p.va p.op.need with
    | .fault c => .failed c none
    | .here pa l =>
      if p.op.adds && l.kind == 2 && s.atomicOpen (windowCore pa).1 then .blocked .wait
      else if p.op.reads && (unitParts p.va p.n).any (fun u => s.poisonedAt ctx u.1 l) then .failed .memUncorrectable none else .here l
    | .zero l => .zero l
    | .pager l =>
      if (e, ctx, l.base) ∈ s.pagerFailed then .failed (if l.state = 1 then .discardWrite else .pageFault) none else .blocked (.pager l)
    | .away h pa l =>
      match s.linkFault h with
      | some (c, v) => .failed c (some v)
      | none => .blocked (.away h pa l)
    | m => .blocked m

/-- A piece sent to the host or to its home part. -/
def State.sendPiece (e : Engine) (p : Piece) (home : Option Nat) (addr : Nat) (s : State) : State :=
  let (id, s) := s.newWait
  let s := { s with fetches := s.fetches.put id { by_ := e, nth := p.nth, va := p.va, size := p.n, op := p.op, home := home } }
  match home with
  | none => { s with hostOut := s.hostOut ++ [⟨id, addr, p.n, p.op.acc⟩] }
  | some k =>
    let (age, s) := s.freeAge
    let elems := match p.op with
      | .add .. => [(0, addr)]
      | _ => (List.range p.n).map fun i => (i, addr + i)
    s.toPart k (.access s.partAddr id age
      { src := ⟨0, .tc0⟩, ctx := 0, size := match p.op with
          | .add .. => p.n
          | _ => 1
        elems := elems, op := p.op.acc, dest := .none, fill := false, acq := false, seq := 0, reuse := 0, got := [], park := none })

/-- What a blocked piece needs is set in motion; a page whose piece is performed elsewhere is touched here (R258). -/
def State.unblock (e : Engine) (ctx : Nat) (p : Piece) (m : Meet) (s : State) : State :=
  match m with
  | .pager l => s.askFor e ctx l.base
  | .recall l => s.recall ctx l.base
  | .host a l => (s.touch l (p.op.need != .read)).sendPiece e p none a
  | .away h pa l => (s.touch l (p.op.need != .read)).sendPiece e p (some h) pa
  | _ => s

/-- What has become of an engine's reads or writes. -/
inductive Progress where
  /-- All performed; for reads, the bytes in order. -/
  | done (bytes : List Byte)
  /-- The piece at an address failed; of writes, those before it are performed. -/
  | fault (c : Cause) (va : Nat)
  | wait
  deriving DecidableEq, Repr

/-- An engine's fetches are over, and it waits for the pager no more. -/
def State.dropFetches (e : Engine) (s : State) : State :=
  { s with fetches := s.fetches.filter (fun f => f.2.by_ != e), engineAsks := s.engineAsks.filter (fun a => a.1 != e),
           pagerFailed := s.pagerFailed.filter fun a => a.1 != e }

/-- Whether an engine is one of the hub's, whose failures name the virtual address whatever their cause (R303). -/
def Engine.ofHub : Engine → Bool
  | .hub .. | .copy .. | .group _ | .enq .. | .inject _ => true
  | _ => false

/-- A page's failure has been taken by an engine. -/
def State.takeFailure (e : Engine) (ctx va : Nat) (s : State) : State :=
  match s.walk ctx va with
  | .leaf l => { s with pagerFailed := s.pagerFailed.filter fun a => a != (e, ctx, l.base) }
  | .fault _ => s

/-- A piece that this part performs as a read: its bytes, and its page touched. -/
def State.readPiece (ctx reuse : Nat) (p : Piece) (m : PieceMeet) (s : State) : List Byte × State :=
  match m with
  | .here l => (s.memBytes ctx p.va p.n l, (s.touch l false).memRead ctx p.va reuse l)
  | .zero l => (List.replicate p.n 0#8, s.touch l false)
  | .given bs => (bs.take p.n, s)
  | _ => ([], s)

/-- Whether a piece has failed or waits. -/
def PieceMeet.stops : PieceMeet → Bool
  | .failed .. | .blocked _ => true
  | _ => false

/-- The pieces that this part performs make requests of their lines, one for each line of 128 bytes (R211), and the slices that allocated
lines evict others (R210). Lines that the same request has counted before are not counted again. -/
def State.noteLines (ctx reuse : Nat) (ps : List (Nat × Leaf)) (s : State) (counted : List Nat := []) : State :=
  let (_, s) := ps.foldl (fun (acc : List Nat × State) (va, l) =>
    if acc.1.contains (va / 128) then acc else (va / 128 :: acc.1, acc.2.noteRequest ctx va reuse l)) (counted, s)
  if allocates reuse then s.evictFor ctx ((ps.filter fun p => p.2.kind == 0).map (·.1)) else s

/-- The leaves of the pieces that this part performs. -/
def herePieces (ps : List (Piece × PieceMeet)) : List (Nat × Leaf) :=
  ps.filterMap fun (p, m) =>
    match m with
    | .here l => some (p.va, l)
    | _ => none

/-- Reads of an engine, all of them or none: their bytes in order, the first failure, or a wait (R153). -/
def State.engineRead (e : Engine) (ctx reuse : Nat) (rs : List (Nat × Nat)) (s : State) : Progress × State :=
  let ps : List (Piece × PieceMeet) := (readPieces rs).zipIdx.map fun ((va, bs), i) =>
    let p : Piece := ⟨i, va, bs.length, .read⟩
    (p, s.pieceMeet e ctx p)
  match ps.find? fun p => p.2.stops with
  | some (p, .failed c v) => (.fault c (if e.ofHub then p.va else v.getD p.va), s.takeFailure e ctx p.va)
  | some _ =>
    (.wait, ps.foldl (fun s (p, m) =>
      match m with
      | .blocked m => s.unblock e ctx p m
      | _ => s) s)
  | none =>
    let (bs, s) := ps.foldl (fun (acc : List Byte × State) (p, m) =>
      let (bs, s) := acc.2.readPiece ctx reuse p m
      (acc.1 ++ bs, s)) ([], s)
    (.done bs, s.noteLines ctx reuse (herePieces ps))

/-- The poison of the granules that pieces written cover whole is cleared (R266). -/
def State.cleansePieces (ctx : Nat) (ps : List (Nat × Nat × Leaf)) (s : State) : State :=
  ps.foldl (fun s (va, _, l) =>
    let whole := (granuleSectors l.granule va).all fun a =>
      (ps.filter fun q => q.1 / 32 == a / 32).foldl (fun n q => n + q.2.1) 0 == 32
    if whole then s.clearPoison ctx va l else s) s

/-- A piece that this part performs as a write or an addition. -/
def State.writePiece (ctx reuse : Nat) (p : Piece) (m : PieceMeet) (s : State) : State :=
  match m, p.op with
  | .here l, .write bs => (s.touch l true).memWrite ctx p.va reuse l bs
  | .here l, .add f bs => (s.touch l true).elemWrite ctx p.va reuse l (addElem f (s.elemBytes ctx p.va p.n l) bs)
  | _, _ => s

/-- Writes or additions of an engine in order: all of them, those before the first failure, or those before the first that waits, which are
then marked as performed (R153, R209). -/
def State.engineDo (e : Engine) (ctx reuse : Nat) (list : List Piece) (s : State) (counted : List Nat := []) : Progress × State :=
  let ps := list.map fun p => (p, s.pieceMeet e ctx p)
  let first := ps.takeWhile fun p => !p.2.stops
  let mine := first.filterMap fun (p, m) =>
    match m, p.op with
    | .here l, .write _ => some (p.va, p.n, l)
    | _, _ => none
  let s := ((first.foldl (fun s (p, m) => s.writePiece ctx reuse p m) s).cleansePieces ctx mine).noteLines ctx reuse (herePieces first) counted
  match (ps.drop first.length).head? with
  | some (p, .failed c v) => (.fault c (if e.ofHub then p.va else v.getD p.va), s.takeFailure e ctx p.va)
  | some (p, .blocked m) =>
    let mark (s : State) (x : Piece × PieceMeet) : State :=
      match x.2 with
      | .here _ =>
        let (id, s) := s.newWait
        { s with fetches := s.fetches.put id { by_ := e, nth := x.1.nth, va := x.1.va, size := x.1.n, op := x.1.op, home := none,
                                               ans := .data [] } }
      | _ => s
    (.wait, (first.foldl mark s).unblock e ctx p m)
  | _ => (.done [], s)

/-- Writes of an engine (R153). -/
def State.engineWrite (e : Engine) (ctx reuse : Nat) (ws : List (Nat × List Byte)) (s : State) (counted : List Nat := []) :
    Progress × State :=
  s.engineDo e ctx reuse ((writePieces ws).zipIdx.map fun ((va, bs), i) => ⟨i, va, bs.length, .write bs⟩) counted

/-- Whether an element lies on two 4 KiB pages. -/
def crossesPage (va n : Nat) : Bool := va / 4096 != (va + n - 1) / 4096

/-- An addition to an element that lies on two pages: read whole, and then written with its sum, which is kept while a page performed
elsewhere answers (R208, R209). (DEDUCED, log 33). -/
def State.addAcross (e : Engine) (ctx reuse fmt va : Nat) (bs : List Byte) (s : State) (counted : List Nat := []) : Progress × State :=
  let p : Piece := ⟨0, va, bs.length, .add fmt bs⟩
  match (s.fetchOf e p).map Fetch.ans with
  | some (FetchAns.data sum) => s.engineWrite e ctx reuse [(va, sum)] counted
  | _ =>
    match s.engineRead e ctx reuse [(va, bs.length)] with
    | (.done old, s) =>
      let sum := addElem fmt old bs
      let (id, s) := s.newWait
      let f : Fetch := { by_ := e, nth := 0, va := va, size := bs.length, op := p.op, home := none, ans := .data sum }
      State.engineWrite e ctx reuse [(va, sum)] { s with fetches := s.fetches.put id f } counted
    | r => r

/-- Additions of an engine to elements of a number format, each indivisible where it is performed (R209, R299); one that lies on two pages
comes alone. (DEDUCED, log 33). -/
def State.engineAdd (e : Engine) (ctx reuse fmt : Nat) (ws : List (Nat × List Byte)) (s : State) (counted : List Nat := []) :
    Progress × State :=
  match ws.find? fun w => crossesPage (w.1 % 2 ^ 48) w.2.length with
  | some (va, bs) => s.addAcross e ctx reuse fmt (va % 2 ^ 48) bs counted
  | none => s.engineDo e ctx reuse (ws.zipIdx.map fun ((va, bs), i) => ⟨i, va % 2 ^ 48, bs.length, .add fmt bs⟩) counted

/-- The answer to a fetch is kept for its engine. -/
def State.fetchAnswer (id : Nat) (a : FetchAns) (s : State) : State :=
  match s.fetches.find id with
  | some f => { s with fetches := s.fetches.put id { f with ans := a } }
  | none => s

end Sys2Proof.Machine
end

