-- ==== Sys2Proof/Machine/Lanes.lean ====
section
/-! DEFINITION. Lanes and predicates of vector registers, and the lane functions that more than one vector instruction uses
(R112 to R114, R117, R125, R44). -/

namespace Sys2Proof.Machine

/-! ## Lanes (R112) -/

/-- Lane i of width w of a register (R112). -/
def laneOf (v : Vec) (w i : Nat) : Nat := v.toNat / 2 ^ (w * i) % 2 ^ w

/-- The register of lanes of width w whose values are listed, lane 0 first (R112). -/
def ofLanes (w : Nat) (ls : List Nat) : Vec := BitVec.ofNat 256 (ls.foldr (fun l acc => l % 2 ^ w + 2 ^ w * acc) 0)

/-- The bits of a predicate value for a list of lane conditions, lane 0 first. -/
def predBits (bs : List Bool) : Word := BitVec.ofNat 32 (bs.foldr (fun b acc => b.toNat + 2 * acc) 0)

/-- A vector register of the task context. -/
def TaskCtx.vreg (t : TaskCtx) (r : BitVec 3) : Vec := t.v[r.toFin]

/-- Whether lane i is active under p(pm); every lane is with pm = 0 (R113). -/
def TaskCtx.active (t : TaskCtx) (pm : BitVec 2) (i : Nat) : Bool := pm = 0#2 || t.p[pm.toFin].getLsbD i

/-- A vector register written: status.VL is set (R114). -/
def TaskCtx.setV (d : BitVec 3) (v : Vec) (t : TaskCtx) : TaskCtx := { t with v := t.v.set d.toFin v }.live

/-- A predicate written; a write of p0 is discarded, and sets status.VL as any other (R113, R114). -/
def TaskCtx.setP (d : BitVec 2) (w : Word) (t : TaskCtx) : TaskCtx :=
  (if d = 0#2 then t else { t with p := t.p.set d.toFin w }).live

/-- The flags that a list of lane results sets. -/
def flagsOf (rs : List Res) : BitVec 4 := rs.foldr (fun r f => r.fl ||| f) 0#4

/-! ## Shared operations -/

/-- A vector instruction of a task context that names vector registers vs and scalar registers xs (R60, R73, R136). -/
def State.vector (xs : List (BitVec 4)) (vs : List (BitVec 3)) (f : TaskCtx → TaskCtx) (s : State) : State :=
  s.inTask fun s => s.withRegs xs vs fun s => (s.modT f).retire 4#32

/-- vd with f's result in every active lane of type et, inactive lanes kept, and the flags of the active lanes (R113). -/
def TaskCtx.lanewise (et : Nat) (d : BitVec 3) (pm : BitVec 2) (f : Nat → Res) (t : TaskCtx) : TaskCtx :=
  let rs := (List.range (lanes et)).map fun i =>
    if t.active pm i then f i else ⟨laneOf (t.vreg d) (etBits et) i, 0#4⟩
  (t.setV d (ofLanes (etBits et) (rs.map (·.val)))).flag (flagsOf rs)

/-- A predicate with f's result in every active lane and 0 elsewhere (R113). -/
def TaskCtx.lanePred (et : Nat) (d : BitVec 2) (pm : BitVec 2) (f : Nat → Bool) (t : TaskCtx) : TaskCtx :=
  t.setP d (predBits ((List.range (lanes et)).map fun i => t.active pm i && f i))

/-- A lane result without flags. -/
def plain (v : Nat) : Res := ⟨v, 0#4⟩

/-- Lane i of type et of a register of the task context. -/
def TaskCtx.lane (t : TaskCtx) (r : BitVec 3) (et i : Nat) : Nat := laneOf (t.vreg r) (etBits et) i

/-- Lane i as the integer that its type gives it (R115). -/
def TaskCtx.laneInt (t : TaskCtx) (r : BitVec 3) (et i : Nat) : Int := etInt et (t.lane r et i)

/-- Lane i as a floating value (R31). -/
def TaskCtx.laneF (t : TaskCtx) (r : BitVec 3) (et i : Nat) : FVal := (etFmt et).decode (t.lane r et i)

/-- A two-source integer lane instruction (R115). -/
def vintOp (f : Nat → Int → Int → Res) (b e d a : BitVec 3) (p : BitVec 2) (s : State) : Out :=
  ok (s.vector [] [a, b, d] fun t =>
    t.lanewise e.toNat d p fun i => f e.toNat (t.laneInt a e.toNat i) (t.laneInt b e.toNat i))

/-- A two-source lane instruction on bit patterns (R115, R121). -/
def vbitOp (f : Nat → Nat → Nat → Nat) (b e d a : BitVec 3) (p : BitVec 2) (s : State) : Out :=
  ok (s.vector [] [a, b, d] fun t =>
    t.lanewise e.toNat d p fun i => plain (f (etBits e.toNat) (t.lane a e.toNat i) (t.lane b e.toNat i)))

/-- A floating lane instruction (R116): the exact value, rounded once with RNE. -/
def vfpOp (f : FVal → FVal → FVal) (b e d a : BitVec 3) (p : BitVec 2) (s : State) : Out :=
  ok (s.vector [] [a, b, d] fun t =>
    t.lanewise e.toNat d p fun i => (etFmt e.toNat).rne (f (t.laneF a e.toNat i) (t.laneF b e.toNat i)))

/-- A single-source floating lane instruction (R116, R117). -/
def vfpOne (f : FVal → FVal) (e d a : BitVec 3) (p : BitVec 2) (s : State) : Out :=
  ok (s.vector [] [a, d] fun t => t.lanewise e.toNat d p fun i => (etFmt e.toNat).rne (f (t.laneF a e.toNat i)))

/-! ## Floating order, reciprocal, reciprocal root, power of two (R116, R117) -/

/-- a before b in the order of VFMIN and VFMAX: as numbers, −0 before +0 (R116). -/
def FVal.before (a b : FVal) : Bool :=
  a.lt b || (a.eq b && (match a, b with
    | .fin na 0 _, .fin nb 0 _ => na && !nb
    | _, _ => false))

/-- VFMIN: a NaN operand gives a NaN (R116). -/
def FVal.least (a b : FVal) : FVal := if a.isNan || b.isNan then .nan else if b.before a then b else a
/-- VFMAX: a NaN operand gives a NaN (R116). -/
def FVal.greatest (a b : FVal) : FVal := if a.isNan || b.isNan then .nan else if a.before b then b else a

/-- 1 ÷ a with a sticky last bit below every rounding position (R117). -/
def FVal.recip : FVal → FVal
  | .nan => .nan
  | .inf n => .fin n 0 0
  | .fin n m e =>
    if m = 0 then .inf n
    else .fin n (2 * (2 ^ 80 / m) + (if 2 ^ 80 % m = 0 then 0 else 1)) (-81 - e)

/-- The integer square root by digits, high bit first. -/
def isqrt (n : Nat) : Nat → Nat → Nat
  | 0, r => r
  | k + 1, r => isqrt n k (if (r + 2 ^ k) * (r + 2 ^ k) ≤ n then r + 2 ^ k else r)

/-- 1 ÷ √a with a sticky last bit below every rounding position (R117). -/
def FVal.rsqrt : FVal → FVal
  | .nan => .nan
  | .inf n => if n then .nan else .fin false 0 0
  | .fin n m e =>
    if m = 0 then .inf n
    else if n then .nan
    else
      let (m', e') := if e % 2 = 0 then (m, e) else (2 * m, e - 1)
      let r := isqrt (2 ^ 160 / m') 81 0
      .fin false (2 * r + (if r * r * m' = 2 ^ 160 then 0 else 1)) (-81 - e' / 2)

/-- ⌊ln 2 × 2^192⌋. -/
def ln2Fixed : Nat := 0xb17217f7d1cf79abc9e3b39803f2f6af40f343267298b62d

/-- The sum of t^k ÷ k! from term k on, in units of 2^−192. (DEDUCED, log 6). -/
def expTaylor (t : Nat) : Nat → Nat → Nat → Nat
  | 0, _, _ => 0
  | fuel + 1, k, term => term + expTaylor t fuel (k + 1) (term * t / 2 ^ 192 / (k + 1))

/-- 2^a with a sticky last bit: 2^⌊a⌋ × e^(f ln 2), to 2^−180, which is finer than the distance of any such value that is not
exact from a rounding boundary of f32 or bf16 (R117; assumption 6). (DEDUCED, log 6). -/
def FVal.exp2 : FVal → FVal
  | .nan => .nan
  | .inf n => if n then .fin false 0 0 else .inf false
  | .fin n m e =>
    if m = 0 then .fin false 1 0
    else
      let i := if 0 ≤ e then signed n (m * 2 ^ e.toNat) * 2 ^ 192 else signed n m * 2 ^ 192 / 2 ^ (-e).toNat
      let fl := i / 2 ^ 192
      let f := (i % 2 ^ 192).toNat
      if 256 ≤ fl then .fin false 1 256
      else if fl < -256 then .fin false 1 (-256)
      else if f = 0 then .fin false 1 fl
      else .fin false (2 * expTaylor (f * ln2Fixed / 2 ^ 192) 48 0 (2 ^ 192) + 1) (fl - 193)

/-! ## Trees (R44) -/

/-- One level of the fixed pairwise tree: neighbours combine (R44). -/
def pairUp (f : Nat → Nat → Res) : List Res → List Res
  | a :: b :: rest =>
    let r := f a.val b.val
    ⟨r.val, a.fl ||| b.fl ||| r.fl⟩ :: pairUp f rest
  | rest => rest

/-- The tree over at most 32 lanes: five levels (R44). -/
def treeOf (f : Nat → Nat → Res) (xs : List Res) : Res :=
  (pairUp f (pairUp f (pairUp f (pairUp f (pairUp f xs))))).headD ⟨0, 0#4⟩

/-- A lane result extended to 32 bits: by sign for s types, by zeros for the others (R122, R123). -/
def extendLane (et v : Nat) : Word :=
  if etSigned et then BitVec.ofInt 32 (etInt et v) else BitVec.ofNat 32 (v % 2 ^ etBits et)

/-! ## Microscaled blocks (R39, R125, R126) -/

/-- rne(f ÷ u(e)), with u(e) = 2^(e−133); none for an infinity (R125). -/
def inUnits (e : Nat) : FVal → Option Int
  | .fin n m ex =>
    let x := ex + 133 - e
    some (if 0 ≤ x then signed n (m * 2 ^ x.toNat) else signed n (roundShift .rne n 0 m (-x).toNat))
  | _ => none

/-- The scale of a block: the least with every element in −127 to 127, or 254 (R125). -/
def blockScale (fs : List FVal) : Nat :=
  ((List.range 255).find? fun e => fs.all fun f =>
    match inUnits e f with
    | some y => y.natAbs ≤ 127
    | none => false).getD 254

/-- One element under the scale of its block: −127 to 127, with SAT where the clamp changes it; an infinity gives ±127 (R125). -/
def blockElem (e : Nat) (f : FVal) : Res :=
  match inUnits e f, f with
  | some y, _ =>
    let c := max (-127) (min 127 y)
    ⟨wrapInt 8 c, if c = y then 0#4 else 2#4⟩
  | none, .inf n => ⟨if n then 0x81 else 127, 2#4⟩
  | none, _ => ⟨0, 4#4⟩

/-- A block of 32 values quantised: its scale and its elements (R125). -/
def quantise (fs : List FVal) : Nat × List Res :=
  if fs.any FVal.isNan then (255, (List.range 32).map fun _ => ⟨0, 4#4⟩)
  else
    let e := blockScale fs
    (e, fs.map (blockElem e))

end Sys2Proof.Machine
end

