-- ==== Sys2Proof/Machine/Array.lean ====
section
/-! DEFINITION. Tiles and the prism array: shapes, leases and slots, the command stream, and the array commands
(R138 to R165, R330, R331). -/

namespace Sys2Proof.Machine

/-! ## Shapes (R139 to R141) -/

/-- A tile shape: its element code, rows R and columns C (R139, R140). -/
structure Shape where
  code : Nat
  r    : Nat
  c    : Nat
  deriving DecidableEq, Repr

/-- The shape of an mcfg value (R139). -/
def shapeOf (w : Word) : Shape := ⟨bits w.toNat 0 4, bits w.toNat 4 8 + 1, bits w.toNat 12 8 + 1⟩

/-- The bytes of an element (R140). -/
def Shape.eb (h : Shape) : Nat := if h.code = 4 ∨ h.code = 7 then 4 else 1
/-- The blocks of a column of an mx8 tile (R141). -/
def Shape.blocks (h : Shape) : Nat := (h.r + 31) / 32
/-- The bytes of the elements (R141). -/
def Shape.bytes (h : Shape) : Nat := h.r * h.c * h.eb
/-- The scale bytes, of an mx8 tile only (R141). -/
def Shape.scales (h : Shape) : Nat := if h.code = 9 then h.c * h.blocks else 0

/-- Whether a shape is legal (R140). -/
def Shape.legal (h : Shape) : Bool :=
  match h.code with
  | 0 | 4 | 7 | 8 => h.bytes ≤ 2048
  | 9 => h.r * h.c ≤ 1984 && h.c ≤ 8 && h.c * h.blocks ≤ 64
  | _ => false

/-- The byte offset of an element in its register (R141). -/
def Shape.at_ (h : Shape) (r c : Nat) : Nat := (r * h.c + c) * h.eb
/-- The byte offset of a block's scale (R141). -/
def Shape.scaleAt (h : Shape) (b c : Nat) : Nat := 1984 + h.blocks * c + b

/-! ## Slots and leases (R147 to R150) -/

/-- The bank that owns a cluster's current slot; code 11 reads as idle (R147). -/
def Cluster.slotBank (c : Cluster) : Option Bool :=
  match (c.pslot.toList.getD (c.slot % 16) 0#2).toNat with
  | 1 => some false
  | 2 => some true
  | _ => none

/-- A held lease goes back to the head of its bank's queue with its remaining count (R149). -/
def Bank.returnLease (b : Bank) : Bank :=
  match b.held with
  | some e => { b with held := none, leases := e :: b.leases }
  | none => b

/-- The current slot ends: a held lease of the bank that owned it goes back to WAITING (R149). -/
def Cluster.endSlot (c : Cluster) : Cluster := { c with bank0 := c.bank0.returnLease, bank1 := c.bank1.returnLease }

/-- SLOT_END (R147): the next slot begins. -/
def execSlotEnd (s : State) : Out :=
  match s.now with
  | some (.slotEnd k) =>
    let next (c : Cluster) : Cluster := { c.endSlot with slot := (c.slot + 1) % 16 }
    ok (s.modCluster k next)
  | _ => ok s

/-- SLOT_TABLE_WRITE (R147): pslen, or a pslot register, written; the rotation restarts at slot 0. -/
def execSlotTableWrite (s : State) : Out :=
  match s.now with
  | some (.slotTableWrite k reg w) =>
    let write (c : Cluster) : Cluster :=
      let c := match reg with
        | none => { c with pslen := w.setWidth 16 }
        | some i => { c with pslot := c.pslot.set i.toFin (w.setWidth 2) }
      { c.endSlot with slot := 0 }
    ok (s.modCluster k write)
  | _ => ok s

/-- Whether the request at the head of a bank's queue may be granted (R149). -/
def State.canGrant (s : State) (k : Nat) (b : Bool) : Bool :=
  let c := s.clusterAt k
  match (c.bank b).leases with
  | (i, _) :: _ =>
    (c.bank b).held.isNone && c.slotBank == some b && (s.groupAt (s.coreAt i.core).group).state == .running
  | [] => false

/-- LEASE_GRANT (R149). -/
def execLeaseGrant (s : State) : Out :=
  match s.now with
  | some (.leaseGrant k b) =>
    if s.canGrant k b then
      ok (s.modCluster k (Cluster.modBank b fun bk =>
        match bk.leases with
        | e :: rest => { bk with held := some e, leases := rest }
        | [] => bk))
    else ok s
  | _ => ok s

/-- The bank of the issuing core's context, or TILE_BANK (R138). -/
def State.withBank (s : State) (k : Bool → State → State) : State :=
  match (s.clusterAt (clusterOf s.who.core)).bankOf s.core.ctxid with
  | some b => k b s
  | none => s.trap .tileBank 0#32

/-- The bank b of the issuing core's cluster changed. -/
def State.modBank (b : Bool) (f : Bank → Bank) (s : State) : State :=
  s.modCluster (clusterOf s.who.core) (Cluster.modBank b f)

/-- A request entered at the end of the queue, or its count renewed in place (R149). -/
def Bank.request (i : Issuer) (n : Nat) (b : Bank) : Bank :=
  if b.leases.any (fun e => e.1 == i) then { b with leases := b.leases.map fun e => if e.1 == i then (i, n) else e }
  else { b with leases := b.leases ++ [(i, n)] }

/-- LEASE n (R149). -/
def Bank.lease (i : Issuer) (n : Nat) (b : Bank) : Bank :=
  match b.held with
  | some (j, _) => if j = i then { b with held := some (i, n) } else b.request i n
  | none => b.request i n

/-- LEASE (R149, R150). -/
def execLease (n : BitVec 6) (s : State) : Out :=
  ok (s.inTask fun s => s.withBank fun b s =>
    ((s.modBank b (Bank.lease s.who (n.toNat + 1))).modT TaskCtx.live).retire 4#32)

/-- UNLEASE (R149, R150). -/
def execUnlease (s : State) : Out :=
  ok (s.inTask fun s => s.withBank fun b s => ((s.modBank b (Bank.dropLease s.who)).modT TaskCtx.live).retire 4#32)

/-! ## Acceptance (R143 to R145, R149) -/

/-- One command of the holder's count used up (R149). -/
def Bank.useLease (b : Bank) : Bank :=
  match b.held with
  | some (i, n) => { b with held := if n ≤ 1 then none else some (i, n - 1) }
  | none => b

/-- Whether a bank of a cluster is that of a group that is being pre-empted, of whatever other groups it also is (R165). -/
def State.bankStopped (s : State) (k : Nat) (b : Bool) : Bool :=
  s.groups.any fun (_, g) =>
    g.state == .preempting && g.bank == b && ((s.clusterAt k).bank b).owner == some g.ctx && g.cores.any fun c => clusterOf c == k

/-- Whether a bank takes another command of the issuing context now: the slot, a place, a token's place, the issuer's earlier stores
done, and no group of the bank being pre-empted (R143, R145, R148, R165). -/
def State.accepts (s : State) (b : Bool) : Bool :=
  let c := s.clusterAt (clusterOf s.who.core)
  !s.bankStopped (clusterOf s.who.core) b && c.slotBank == some b && (c.bank b).stream.length < 3 && s.task.ocnt.cmds + s.task.tokens.length < 31 && s.settled

/-- The command accepted into its bank's stream (R143, R144). -/
def State.acceptCmd (b : Bool) (op : Instr) (m : Option Rec) (x : Word) (s : State) : State :=
  let t := s.task
  let (order, s) := s.newWait
  let cmd : ArrayCmd := { src := s.who, seq := t.cmdSeq, op := op, map := m, index := x, trapIwc := t.pctl,
                          rank := s.core.rank, gsize := s.core.gsize, group := s.core.group, order := order }
  let enter (k : Bank) : Bank := { k.useLease with stream := k.stream ++ [cmd] }
  ((s.modBank b enter).modT fun t =>
    TaskCtx.live { t with cmdSeq := t.cmdSeq + 1#16, ocnt := { t.ocnt with cmds := t.ocnt.cmds + 1 } }).retire 4#32

/-- An array command at issue: its bank, its own check, the lease, its map, and acceptance (R138, R142, R143, R149). -/
def State.arrayIssue (op : Instr) (tm : Option (BitVec 4)) (xr : Option (BitVec 4)) (check : Word → Bool) (s : State) :
    State :=
  s.inTask fun s => s.withRegs xr.toList [] fun s => s.withBank fun b s =>
    let x := match xr with
      | some r => s.x r
      | none => 0#32
    if !check x then s.trap .tileShape x else
    let bank := (s.clusterAt (clusterOf s.who.core)).bank b
    match bank.held.map (·.1) == some s.who, bank.leases.any (fun e => e.1 == s.who) with
    | false, false => s.trap .prismLease 0#32
    | false, true => s.stall .retry
    | true, _ =>
      match tm with
      | none => s.await (s.accepts b) (State.acceptCmd b op none x)
      | some t =>
        match s.task.tm[t.toFin] with
        | none => s.trap .tmapUnbound (t.setWidth 32)
        | some m => s.await (s.accepts b) (State.acceptCmd b op (some m) x)

/-- MCFG (R142): TILE_SHAPE for a value that is no legal shape. -/
def execMcfg (m : BitVec 3) (x : BitVec 4) (s : State) : Out :=
  ok (s.arrayIssue (.mcfg m x) none (some x) fun w => bits w.toNat 20 12 == 0 && (shapeOf w).legal)
/-- MZERO (R151). -/
def execMzero (m : BitVec 3) (s : State) : Out := ok (s.arrayIssue (.mzero m) none none fun _ => true)
/-- MLD (R153). -/
def execMld (t x : BitVec 4) (d : BitVec 3) (s : State) : Out :=
  ok (s.arrayIssue (.mld t x d) (some t) (some x) fun _ => true)
/-- MST (R153). (DEDUCED, log 22). -/
def execMst (t x : BitVec 4) (d : BitVec 3) (s : State) : Out :=
  ok (s.arrayIssue (.mst t x d) (some t) (some x) fun _ => true)
/-- PMV (R155). -/
def execPmv (t x : BitVec 4) (d a : BitVec 3) (s : State) : Out :=
  ok (s.arrayIssue (.pmv t x d a) (some t) (some x) fun _ => true)
/-- PMVX (R156). -/
def execPmvx (t x : BitVec 4) (d a : BitVec 3) (s : State) : Out :=
  ok (s.arrayIssue (.pmvx t x d a) (some t) (some x) fun _ => true)
/-- PMT (R157). -/
def execPmt (w d a : BitVec 3) (s : State) : Out := ok (s.arrayIssue (.pmt w d a) none none fun _ => true)
/-- PBP (R158). -/
def execPbp (b d a : BitVec 3) (s : State) : Out := ok (s.arrayIssue (.pbp b d a) none none fun _ => true)
/-- PRT (R159). -/
def execPrt (w d a : BitVec 3) (s : State) : Out := ok (s.arrayIssue (.prt w d a) none none fun _ => true)

/-! ## Tiles -/

/-- A tile register of a bank. -/
def Bank.tile (b : Bank) (m : BitVec 3) : Mem := b.m[m.toFin]
/-- The shape of a tile register. -/
def Bank.shape (b : Bank) (m : BitVec 3) : Shape := shapeOf b.mcfg[m.toFin]
/-- A bank with a tile register written. -/
def Bank.setTile (m : BitVec 3) (t : Mem) (b : Bank) : Bank := { b with m := b.m.set m.toFin t }

/-- An s8 element at a byte offset. -/
def tileS8 (t : Mem) (o : Nat) : Int := sintOf 8 (t.byte o).toNat
/-- An s32 element at a byte offset. -/
def tileS32 (t : Mem) (o : Nat) : Int := sintOf 32 (t.le o 4)

/-- What a command did: the tile that it writes, its fault with its tval (none stands for the token), the pstat flags, whether it
delivered a NaN (R32), the nonzero trits that it adds to pnz, and its busy cycles: where the spec fixes no number (assumption 9), none
with the least that they are (R161). (DESIGN CHOICE, log 9). -/
structure Done where
  write : Option (BitVec 3 × Mem) := none
  fault : Option (Cause × Option Word) := none
  flags : BitVec 2 := 0#2
  nan   : Bool := false
  nnz   : Nat := 0
  busy  : Option Nat := some 1
  least : Nat := 0
  deriving DecidableEq, Repr

/-- A command that ends by its checks: one busy cycle, nothing changed (R160, R161). -/
def Done.operand : Done := { fault := some (.prismOperand, none) }
/-- A command that an edge-1 map ends (R152, R154). -/
def Done.range (l : Nat) : Done := { fault := some (.tmapRange, some (BitVec.ofNat 32 l)) }
/-- A command that a page ends while it moves data (R146, R161). -/
def Done.paged (c : Cause) (va : Nat) : Done := { fault := some (c, some (BitVec.ofNat 32 va)), busy := none }

/-- A place of a tile or a window on its way to or from memory: its linear index, the tile offset, and its virtual address
when the index is valid. -/
structure Place where
  lin : Nat
  off : Nat
  n   : Nat
  va  : Option Nat
  deriving DecidableEq, Repr

/-- The address of the scale byte that R40 gives an element of the view. -/
def scaleVa (m : Rec) (g r l : Nat) : Nat :=
  let (i0, i1, i2, i3) := viewIndices m g r l
  let j := i1 + mapDim m 1 * (i2 + mapDim m 2 * i3)
  (mapBase m + mapScale m + j * ((mapDim m 0 + 31) / 32) + i0 / 32) % 2 ^ 48

/-- The element at row i and column j of a window of the view, from linear index l: rows run along dimension 1 (R152). -/
def ArrayCmd.place (c : ArrayCmd) (m : Rec) (i j off n : Nat) : Place :=
  let e0 := viewExtent m c.gsize c.rank 0
  let l := c.index.toNat
  let lin := l + i * e0 + j
  { lin := lin, off := off, n := n, va := if l % e0 + j < e0 then viewVa m c.gsize c.rank lin else none }

/-- The places of a tile, element and scale, in ascending linear index (R152). -/
def ArrayCmd.places (c : ArrayCmd) (m : Rec) (h : Shape) : List Place :=
  if h.code = 9 then
    (List.range h.c).flatMap fun j => (List.range h.r).flatMap fun i =>
      let p := c.place m j i (h.at_ i j) 1
      if i % 32 = 0 then
        [p, { p with off := h.scaleAt (i / 32) j, va := p.va.map fun _ => scaleVa m c.gsize c.rank p.lin }]
      else [p]
  else (List.range h.r).flatMap fun i => (List.range h.c).map fun j => c.place m i j (h.at_ i j) h.eb

/-- The places of a tile in ascending row and column, as MST writes them (R153). -/
def ArrayCmd.storeOrder (h : Shape) (ps : List Place) : List Place :=
  if h.code = 9 then
    let per := h.r + h.blocks
    (List.range h.r).flatMap fun i => (List.range h.c).flatMap fun j =>
      let k := j * per + i + (i + 31) / 32
      (ps.drop k).take (if i % 32 = 0 then 2 else 1)
  else ps

/-- The lowest invalid linear index of an edge-1 map (R146, R152). -/
def rangeFault (m : Rec) (ps : List Place) : Option Nat :=
  if mapEdge m then
    match (ps.filter fun p => p.va.isNone).map (·.lin) with
    | [] => none
    | l :: ls => some (ls.foldl min l)
  else none

/-- The cluster whose vault holds a physical address (R17). -/
def vaultCluster (pa : Nat) : Nat := bits pa 32 3 * 2048 + bits pa 21 11

/-- Whether a place is in the vault of the issuer's own cluster, or in its core's own window (R161). -/
def State.nearPlace (s : State) (c : ArrayCmd) (ctx va : Nat) : Bool :=
  match s.walk ctx va with
  | .leaf l =>
    let pa := l.pa va
    (l.state == 0 && l.kind == 1 && vaultCluster pa == clusterOf c.src.core) ||
      (l.state == 0 && l.kind == 2 && (windowCore pa).1 == c.src.core)
  | .fault _ => false

/-- The least busy cycles of MLD and MST: 256 bytes in each (R161). -/
def Shape.moveLeast (h : Shape) : Nat := (h.bytes + h.scales + 255) / 256

/-- The busy cycles of MLD and MST: the least for a tile whose every valid place is near, open for others (R161). -/
def State.moveBusy (s : State) (c : ArrayCmd) (ctx : Nat) (h : Shape) (ps : List Place) : Option Nat :=
  if ps.all fun p => p.va.all (s.nearPlace c ctx) then some h.moveLeast else none

/-- The byte that fills an invalid place (R152, R154). -/
def fillByte (code : Nat) : Byte := if code = 8 then 121#8 else 0#8

/-- The bytes of the places, read ones and fills, and the rest of the bytes read. -/
def fillPlaces (code : Nat) : List Place → List Byte → List (Place × List Byte)
  | [], _ => []
  | p :: ps, bs =>
    match p.va with
    | some _ => (p, bs.take p.n) :: fillPlaces code ps (bs.drop p.n)
    | none => (p, List.replicate p.n (fillByte code)) :: fillPlaces code ps bs

/-- The reads of the valid places. -/
def placeReads (ps : List Place) : List (Nat × Nat) := ps.filterMap fun p => p.va.map fun va => (va, p.n)

/-! ## The commands in their turn (R151 to R160) -/

/-- What a command's turn comes to. -/
inductive Went where
  | wait
  | done (d : Done)
  deriving DecidableEq, Repr

/-- MZERO: the bytes of the shape, scales included, become zero (R151). -/
def zeroTile (h : Shape) (t : Mem) : Mem := (t.clear 0 h.bytes).clear 1984 h.scales

/-- MLD in its turn (R152, R153). -/
def State.runMld (e : Engine) (ctx : Nat) (b : Bank) (c : ArrayCmd) (m : Rec) (d : BitVec 3) (s : State) : Went × State :=
  let h := b.shape d
  if mapEt m ≠ h.code then (.done .operand, s)
  else if h.code = 9 ∧ c.index.toNat % viewExtent m c.gsize c.rank 0 % 32 ≠ 0 then (.done .operand, s)
  else
    let ps := c.places m h
    match rangeFault m ps with
    | some l => (.done (.range l), s)
    | none =>
      match s.engineRead e ctx (mapReuse m) (placeReads ps) with
      | (.wait, s) => (.wait, s)
      | (.fault k va, s) => (.done (.paged k va), s)
      | (.done bs, s') =>
        let t := (fillPlaces h.code ps bs).foldl (fun t p => Mem.setBytes p.1.off p.2 t) (b.tile d)
        (.done { write := some (d, t), busy := s.moveBusy c ctx h ps, least := h.moveLeast }, s')

/-- MST in its turn (R152, R153). -/
def State.runMst (e : Engine) (ctx : Nat) (b : Bank) (c : ArrayCmd) (m : Rec) (d : BitVec 3) (s : State) : Went × State :=
  let h := b.shape d
  if mapEt m ≠ h.code then (.done .operand, s)
  else if h.code = 9 ∧ c.index.toNat % viewExtent m c.gsize c.rank 0 % 32 ≠ 0 then (.done .operand, s)
  else
    let ps := c.places m h
    match rangeFault m ps with
    | some l => (.done (.range l), s)
    | none =>
      let ws := (ArrayCmd.storeOrder h ps).filterMap fun p => p.va.map fun va => (va, (b.tile d).bytes p.off p.n)
      match s.engineWrite e ctx (mapReuse m) ws with
      | (.wait, s) => (.wait, s)
      | (.fault k va, s) => (.done (.paged k va), s)
      | (.done _, s') => (.done { busy := s.moveBusy c ctx h ps, least := h.moveLeast }, s')

/-- The trits of a row of weight bytes, k below kw (R154). -/
def rowTrits (kw : Nat) (bs : List Byte) : List Trit := (bs.flatMap fun b => (tritsOf b.toNat).1).take kw

/-- The nonzero trits of a row (R161). -/
def rowNnz (ts : List Trit) : Nat := ts.countP fun t => t != 0

/-- The busy cycles of lane compaction (R161). -/
def compactBusy (n kw : Nat) (rows : List (List Trit)) : Nat :=
  let slots := (kw + 1) / 2
  n * (rows.map fun ts => max 1 ((rowNnz ts + slots - 1) / slots)).foldl max 1

/-- The first invalid weight byte, with the number that its fault records. -/
def firstInvalid (bs : List (Nat × Byte)) : Option Nat := (bs.find? fun b => 242 < b.2.toNat).map (·.1)

/-- What an invalid weight byte makes of a product (R155): IWC, and PRISM_IWC under the snapshot of TRAPIWC. -/
def iwcFault (c : ArrayCmd) (bad : Option Nat) : Option (Cause × Option Word) :=
  match bad with
  | some n => if c.trapIwc then some (.prismIwc, some (BitVec.ofNat 32 n)) else none
  | none => none

/-- The pstat flags of a product. -/
def prodFlags (ovf : Bool) (bad : Option Nat) : BitVec 2 := (if ovf then 2#2 else 0#2) ||| (if bad.isSome then 1#2 else 0#2)

/-- A tile whose s32 elements, row after row, are the exact sums wrapped (R43, R155). -/
def writeSums (t : Mem) (sums : List Int) : Mem :=
  t.setBytes 0 (sums.flatMap fun v => leBytes 4 (wrapInt 32 v))

/-- Whether an exact sum does not fit s32 (R43). -/
def wraps (v : Int) : Bool := v < -(2 ^ 31) || 2 ^ 31 - 1 < v

/-- The exact sums of a ternary product, row after row (R155). -/
def ternarySums (n : Nat) (rows : List (List Trit)) (md ma : Mem) : List Int :=
  rows.zipIdx.flatMap fun (ts, r) => (List.range n).map fun j =>
    ts.zipIdx.foldl (fun acc (t, k) => acc + t * tileS8 ma (k * n + j)) (tileS32 md (4 * (r * n + j)))

/-- The effect of PMV and PMT for decoded weights (R155, R157). -/
def ternaryDone (c : ArrayCmd) (d : BitVec 3) (n kw : Nat) (rows : List (List Trit)) (bad : Option Nat) (md ma : Mem) : Done :=
  let sums := ternarySums n rows md ma
  { write := some (d, writeSums md sums), fault := iwcFault c bad, flags := prodFlags (sums.any wraps) bad,
    nnz := n * (rows.map rowNnz).sum, busy := some (compactBusy n kw rows) }

/-- One block of PMVX: the accumulator and whether it overflowed (R156). -/
def mxStep (p : Int) (e : Nat) (acc : Nat × Bool) : Nat × Bool :=
  if e = 255 then (fmt32.qnan, acc.2)
  else
    let v := fmt32.decode (fmt32.rne (FVal.ofInt p ((e : Int) - 133))).val
    let x := fmt32.decode acc.1
    let r := (fmt32.rne (x.add v)).val
    let inf : Bool := match x, fmt32.decode r with
      | .fin .., .inf _ => true
      | _, _ => false
    (r, acc.2 || inf)

/-- One element of PMVX: its blocks in ascending order (R156). -/
def mxElem (n j : Nat) (h : Shape) (ts : List Trit) (ma : Mem) (old : Nat) : Nat × Bool :=
  (List.range h.blocks).foldl (fun acc b =>
    let p := ((ts.drop (32 * b)).take 32).zipIdx.foldl (fun a (t, i) => a + t * tileS8 ma ((32 * b + i) * n + j)) (0 : Int)
    mxStep p (ma.byte (h.scaleAt b j)).toNat acc) (old, false)

/-- The effect of PMVX (R156). -/
def mxDone (c : ArrayCmd) (d : BitVec 3) (n : Nat) (h : Shape) (rows : List (List Trit)) (bad : Option Nat) (md ma : Mem) :
    Done :=
  let rs := rows.zipIdx.flatMap fun (ts, r) => (List.range n).map fun j => mxElem n j h ts ma (md.le (4 * (r * n + j)) 4)
  { write := some (d, md.setBytes 0 (rs.flatMap fun v => leBytes 4 v.1)), fault := iwcFault c bad,
    flags := prodFlags (rs.any (·.2)) bad, nan := rs.any fun v => v.1 == fmt32.qnan, nnz := n * (rows.map rowNnz).sum,
    busy := some (compactBusy n h.r rows) }

/-- The shapes that PMV and PMVX need of md and ma (R160). -/
def streamShapes (md ma : Shape) (acc act : Nat) : Bool :=
  md.code == acc && md.r ≤ 32 && md.c ≤ 8 && ma.code == act && ma.r ≤ 160 && ma.c == md.c

/-- PMV (mx false) and PMVX (mx true) in their turn (R154 to R156). -/
def State.runPmv (mx : Bool) (e : Engine) (ctx : Nat) (b : Bank) (c : ArrayCmd) (m : Rec) (d a : BitVec 3) (s : State) :
    Went × State :=
  let hd := b.shape d
  let ha := b.shape a
  if !streamShapes hd ha (if mx then 7 else 4) (if mx then 9 else 0) || mapEt m != 8 || d == a then (.done .operand, s)
  else
    let w := (ha.r + 4) / 5
    let ps := (List.range hd.r).flatMap fun i => (List.range w).map fun j => c.place m i j (i * w + j) 1
    match rangeFault m ps with
    | some l => (.done (.range l), s)
    | none =>
      match s.engineRead e ctx (mapReuse m) (placeReads ps) with
      | (.wait, s) => (.wait, s)
      | (.fault k va, s) => (.done (.paged k va), s)
      | (.done bs, s) =>
        let got := fillPlaces 8 ps bs
        let bytes := got.flatMap (·.2)
        let rows := (List.range hd.r).map fun i => rowTrits ha.r ((bytes.drop (i * w)).take w)
        let bad := firstInvalid (got.map fun p => (p.1.lin, p.2.headD 121#8))
        (.done (if mx then mxDone c d hd.c ha rows bad (b.tile d) (b.tile a)
          else ternaryDone c d hd.c ha.r rows bad (b.tile d) (b.tile a)), s)

/-- The weight rows of PMT and PRT with their offsets in mw (R154, R157). -/
def tileWeights (hw : Shape) (r kw : Nat) (w : Mem) : List (List (Nat × Byte)) :=
  (List.range r).map fun i => (List.range ((kw + 4) / 5)).map fun j => (hw.at_ i j, w.byte (hw.at_ i j))

/-- PMT in its turn (R157, R160). -/
def runPmt (b : Bank) (c : ArrayCmd) (w d a : BitVec 3) : Done :=
  let hd := b.shape d
  let ha := b.shape a
  let hw := b.shape w
  if !streamShapes hd ha 4 0 || hw.code != 8 || hw.r < hd.r || hw.c < (ha.r + 4) / 5 || d == a || d == w then .operand
  else
    let ws := tileWeights hw hd.r ha.r (b.tile w)
    ternaryDone c d hd.c ha.r (ws.map fun r => rowTrits ha.r (r.map (·.2))) (firstInvalid ws.flatten) (b.tile d) (b.tile a)

/-- The weight of a plane (R158). -/
def planeWeight (p : Nat) : Int := if p = 7 then -128 else 2 ^ p

/-- The exact sums of PBP, row after row (R158). -/
def planeSums (r n k : Nat) (md ma mb : Mem) : List Int :=
  (List.range r).flatMap fun i => (List.range n).map fun j =>
    (List.range 8).foldl (fun acc p => (List.range k).foldl (fun acc q =>
      if (ma.byte (i * k + q)).getLsbD p then acc + planeWeight p * tileS8 mb (q * n + j) else acc) acc)
      (tileS32 md (4 * (i * n + j)))

/-- PBP in its turn (R158, R160, R161). -/
def runPbp (b : Bank) (w d a : BitVec 3) : Done :=
  let hd := b.shape d
  let ha := b.shape a
  let hb := b.shape w
  if hd.code != 4 || 32 < hd.r || 8 < hd.c || ha.code != 0 || ha.r != hd.r || 64 < ha.c || hb.code != 0 || hb.r != ha.c ||
      hb.c != hd.c || d == a || d == w then .operand
  else
    let sums := planeSums hd.r hd.c ha.c (b.tile d) (b.tile a) (b.tile w)
    let bytes := (b.tile a).bytes 0 (ha.r * ha.c)
    let planes := (List.range 8).countP fun p => bytes.any fun x => x.getLsbD p
    let ones := (bytes.map fun x => (List.range 8).countP fun p => x.getLsbD p).sum
    { write := some (d, writeSums (b.tile d) sums), flags := prodFlags (sums.any wraps) none, nnz := hd.c * ones,
      busy := some (hd.c * max 1 planes) }

/-! ## PRT (R159, R331) -/

/-- The rotation rectangle of a cluster: its first row and column, its rows and columns (R331). -/
def Group.rectangle (g : Group) (cluster : Nat) : Nat × Nat × Nat × Nat :=
  if bits g.shape.toNat 20 1 = 1 then
    (bits g.origin 10 5, bits g.origin 4 6, bits g.shape.toNat 0 5 + 1, bits g.shape.toNat 5 6 + 1)
  else (cluster / 64 % 32, cluster % 64, 1, 1)

/-- The west neighbour (R159). -/
def Group.west (g : Group) (k : Nat) : Nat :=
  let (_, c0, _, n) := g.rectangle k
  k - k % 64 + (c0 + (k % 64 - c0 + n - 1) % n)

/-- The north neighbour (R159). -/
def Group.north (g : Group) (k : Nat) : Nat :=
  let (r0, _, n, _) := g.rectangle k
  k / 2048 * 2048 + (r0 + (k / 64 % 32 - r0 + n - 1) % n) * 64 + k % 64

/-- A tile lands in a bank's buffer (R159). -/
def Bank.landTile (l : Landing) (b : Bank) : Bank := { b with landings := b.landings ++ [l] }

/-- A tile sent to a neighbour; a cluster that is its own neighbour receives it at once (R159). -/
def State.shift (k dst : Nat) (b : Bool) (g step : Nat) (toW : Bool) (tile : Mem) (s : State) : State :=
  if dst = k then s.modCluster k (Cluster.modBank b (Bank.landTile ⟨g, step, toW, tile⟩))
  else s.post (.prtLanding dst b g step toW tile)

/-- The tile landed for the step of a PRT that waits, if it has. -/
def Bank.landed (c : ArrayCmd) (toW : Bool) (b : Bank) : Option Mem :=
  (b.landings.find? fun l => l.group == c.group && c.step == some l.step && l.toW == toW).map (·.tile)

/-- PRT_LANDING (R159). -/
def execPrtLanding (s : State) : Out :=
  match s.now with
  | some (.prtLanding k b g step toW tile) => ok (s.modCluster k (Cluster.modBank b (Bank.landTile ⟨g, step, toW, tile⟩)))
  | _ => ok s

/-- The step of a command ends, if it is a PRT that has sent its tiles: the bank's count goes on past it, and its landing buffers are free
(R159). -/
def Bank.endStep (c : ArrayCmd) (b : Bank) : Bank :=
  match c.step with
  | some n => { b with prtStep := max b.prtStep (n + 1), landings := b.landings.filter fun l => !(l.group == c.group && l.step == n) }
  | none => b

/-- The landed tiles written into mw and ma; the step ends (R159). -/
def Bank.endPrt (c : ArrayCmd) (w a : BitVec 3) (tw ta : Mem) (b : Bank) : Bank := ((b.setTile w tw).setTile a ta).endStep c

/-- The PRT at the head of a bank's stream has sent its tiles and waits for its neighbours' (R159). -/
def Bank.waiting (b : Bank) : Bool := b.stream.head?.any (·.step.isSome)

/-- The PRT at the head of a bank's stream waits on landing (R159, R165). -/
def Bank.landingDue (b : Bank) : Bool :=
  b.stream.head?.any fun c => c.step.isSome && !((b.landed c true).isSome && (b.landed c false).isSome)

/-! ## The stream (R143, R161, R162) -/

/-- The token of a command (R144). -/
def ArrayCmd.token (c : ArrayCmd) (f : Option (Cause × Option Word)) : Token :=
  match f with
  | none => ⟨none, c.seq, 0#32⟩
  | some (k, some v) => ⟨some k, c.seq, v⟩
  | some (k, none) => ⟨some k, c.seq, tokenWord ⟨some k, c.seq, 0#32⟩⟩

/-- pstat, vstat.NAN, pnz and pcyc of the issuing task context after a command (R32, R155, R161); an open number of busy cycles is a free
value (assumption 9). (DESIGN CHOICE, log 9). -/
def State.countCmd (c : ArrayCmd) (d : Done) (s : State) : State :=
  let (cyc, s) := match d.busy with
    | some n => (BitVec.ofNat 32 n, s)
    | none =>
      let (w, s) := s.freeWord
      (BitVec.ofNat 32 (max d.least w.toNat), s)
  s.modTask c.src fun t =>
    let u := (t.pflag d.flags).flag (if d.nan then 4#4 else 0#4)
    { u with pnz := t.pnz + BitVec.ofNat 32 d.nnz, pcyc := t.pcyc + cyc }

/-- A command completes: its tile written, its place given up, its token on its way (R143, R144). -/
def State.endCmd (k : Nat) (b : Bool) (c : ArrayCmd) (d : Done) (s : State) : State :=
  let finish (bk : Bank) : Bank :=
    let bk := match d.write with
      | some (m, t) => bk.setTile m t
      | none => bk
    { bk with stream := bk.stream.drop 1 }
  (((s.modCluster k (Cluster.modBank b finish)).countCmd c d).dropFetches (.array k b)).post (.tokenPush c.src (c.token d.fault))

/-- PRT in its turn: the product and the shifts, then the wait, then the landed tiles (R159). -/
def State.runPrt (k : Nat) (b : Bool) (c : ArrayCmd) (w d a : BitVec 3) (s : State) : State :=
  let bank := (s.clusterAt k).bank b
  if c.step.isSome then
    match bank.landed c true, bank.landed c false with
    | some tw, some ta =>
      let hw := bank.shape w
      let bad := firstInvalid (tileWeights hw (bank.shape d).r (bank.shape a).r (bank.tile w)).flatten
      let g := s.groupAt c.group
      let busy := if g.west k = k ∧ g.north k = k then some 0 else none
      (s.modCluster k (Cluster.modBank b (Bank.endPrt c w a tw ta))).endCmd k b c { fault := iwcFault c bad, busy := busy }
    | _, _ => s
  else
    let r := runPmt bank c w d a
    match r.fault with
    | some (.prismOperand, _) => s.endCmd k b c r
    | _ =>
      let g := s.groupAt c.group
      let start (bk : Bank) : Bank :=
        let bk := match r.write with
          | some (m, t) => bk.setTile m t
          | none => bk
        { bk with stream := { c with step := some bank.prtStep } :: bk.stream.drop 1 }
      let s := (s.modCluster k (Cluster.modBank b start)).countCmd c { r with busy := r.busy.map (· + 8) }
      (s.shift k (g.west k) b c.group bank.prtStep true (bank.tile w)).shift k (g.north k) b c.group bank.prtStep false (bank.tile a)

/-- The head command's turn ends, or waits. -/
def State.went (k : Nat) (b : Bool) (c : ArrayCmd) (r : Went × State) : State :=
  match r.1 with
  | .wait => r.2
  | .done d => r.2.endCmd k b c d

/-- The command at the head of a bank's stream in its turn (R143). -/
def State.runHead (k : Nat) (b : Bool) (c : ArrayCmd) (s : State) : State :=
  let bank := (s.clusterAt k).bank b
  let ctx := (s.groupAt c.group).ctx
  let e : Engine := .array k b
  match c.op, c.map with
  | .mcfg m _, _ =>
    (s.modCluster k (Cluster.modBank b fun bk => { bk with mcfg := bk.mcfg.set m.toFin c.index })).endCmd k b c {}
  | .mzero m, _ => s.endCmd k b c { write := some (m, zeroTile (bank.shape m) (bank.tile m)) }
  | .mld _ _ d, some m => State.went k b c (s.runMld e ctx bank c m d)
  | .mst _ _ d, some m => State.went k b c (s.runMst e ctx bank c m d)
  | .pmv _ _ d a, some m => State.went k b c (s.runPmv false e ctx bank c m d a)
  | .pmvx _ _ d a, some m => State.went k b c (s.runPmv true e ctx bank c m d a)
  | .pmt w d a, _ => s.endCmd k b c (runPmt bank c w d a)
  | .pbp w d a, _ => s.endCmd k b c (runPbp bank w d a)
  | .prt w d a, _ => s.runPrt k b c w d a
  | _, _ => s.endCmd k b c .operand

/-- Whether the head command of a bank can move: the array runs no command that it accepted earlier for the other bank (R148), and a PRT
that waits moves when its tiles have landed. -/
def Cluster.turnDue (c : Cluster) (b : Bool) : Bool :=
  let k := c.bank b
  match k.stream with
  | d :: _ =>
    (c.bank !b).stream.all (fun e => d.order < e.order) && !k.landingDue
  | [] => false

/-- ARRAY_COMMAND_TURN (R143, R162): the head command runs whole. -/
def execArrayCommandTurn (s : State) : Out :=
  match s.now with
  | some (.arrayCommandTurn k b) =>
    match ((s.clusterAt k).bank b).stream with
    | c :: _ => if (s.clusterAt k).turnDue b then ok (s.runHead k b c) else ok s
    | [] => ok s
  | _ => ok s

/-- TOKEN_PUSH (R144), which ends an IDLE of its context (R110). -/
def execTokenPush (s : State) : Out :=
  match s.now with
  | some (.tokenPush i t) =>
    ok (s.modTask i fun c =>
      { c with tokens := c.tokens ++ [t], ocnt := { c.ocnt with cmds := c.ocnt.cmds - 1 } }.endIdle)
  | _ => ok s

end Sys2Proof.Machine
end

