-- ==== Sys2Proof/Machine/Global.lean ====
section
/-! DEFINITION. Global accesses: the L1, what a slice does with an access, the pager and parked tasks, the host port, and
the scalar and vector instructions that issue them (R102 to R104, R134 to R136, R262, R266 to R274, R406). -/

namespace Sys2Proof

open Sys2Proof.Machine

/-! ## Accesses (R102, R134, R236, R262) -/

/-- What an access needs of its pages (R262). -/
def Access.need (a : Access) : Need :=
  match a.op with
  | .read => .read
  | .atomic .. => .atomic
  | .write _ | .discard | .add .. => .write

/-- Whether an access consumes what it finds (R266). -/
def Access.reads (a : Access) : Bool :=
  match a.op with
  | .write _ | .discard => false
  | _ => true

/-- The bytes that an access writes at an element. -/
def Access.bytesAt (a : Access) (lane : Nat) : List Byte :=
  match a.op with
  | .write v => leBytes a.size (laneOf v (8 * a.size) lane)
  | _ => []

/-- The value of the lanes read, each at its place (R134). -/
def Access.value (a : Access) : Vec :=
  BitVec.ofNat 256 ((a.got.map fun (l, v) => v % 2 ^ (8 * a.size) * 2 ^ (8 * a.size * l)).sum)

/-- Whether an access is an atomic. -/
def Access.isAtomic (a : Access) : Bool :=
  match a.op with
  | .atomic .. => true
  | _ => false

/-- Whether an access has an element on a page. -/
def Access.touches (a : Access) (ctx : Nat) (l : Leaf) : Bool :=
  a.ctx == ctx && a.elems.any fun e => l.base ≤ e.2 && e.2 < l.base + l.size

end Sys2Proof

namespace Sys2Proof.Machine

/-! ## The L1 (R104, R406) -/

/-- The line of a context's virtual address, if the L1 holds it. -/
def Core.l1Find (c : Core) (ctx unit : Nat) : Option L1Line := c.l1.find? fun l => l.ctx == ctx && l.line == unit

/-- The lines of one set, in order of use. -/
def sameSet (u : Nat) (l : L1Line) : Bool := l.line % 64 == u % 64

/-- A line brought to the front; the least recently used of more than four of a set leaves (R406). -/
def Core.l1Put (l : L1Line) (c : Core) : Core :=
  let rest := c.l1.filter fun k => !(k.ctx == l.ctx && k.line == l.line)
  let set := (rest.filter (sameSet l.line)).take 3
  { c with l1 := l :: rest.filter fun k => !sameSet l.line k || set.contains k }

/-- A held line updated by bytes written at a virtual address; what a read on its way will bring of the units written fills no line (R104).
(DEDUCED, log 64). -/
def Core.l1Write (ctx va : Nat) (bs : List Byte) (c : Core) : Core :=
  { c with
    l1Fills := c.l1Fills.filter fun f => !(f.2.1 == ctx && va / 32 ≤ f.2.2 && f.2.2 ≤ (va + bs.length - 1) / 32)
    l1 := c.l1.map fun l =>
      if l.ctx == ctx then
        { l with bytes := l.bytes.zipIdx.map fun (b, i) =>
            let a := 32 * l.line + i
            if va ≤ a ∧ a < va + bs.length then bs.getD (a - va) b else b }
      else l }

/-- Bytes of a virtual address served from the L1, if every line is held. -/
def Core.l1Read (c : Core) (ctx va n : Nat) : Option (List Byte) :=
  match c.l1Find ctx (va / 32) with
  | some l => if va % 32 + n ≤ 32 then some ((l.bytes.drop (va % 32)).take n) else none
  | none => none

/-- The new value of an element under a global atomic (R102). -/
def gaValue (k : GAtomic) (old a b : Word) : Word :=
  match k with
  | .add => old + a
  | .min => if old.toInt ≤ a.toInt then old else a
  | .max => if old.toInt ≤ a.toInt then a else old
  | .minn => if old.toNat ≤ a.toNat then old else a
  | .maxn => if old.toNat ≤ a.toNat then a else old
  | .swap => a
  | .cas => if old = a then b else old
  | .fadd => BitVec.ofNat 32 (fmt32.rne ((fmt32.decode old.toNat).add (fmt32.decode a.toNat))).val

/-! ## Parked tasks (R268) -/

/-- The value of a parked access written into the record's register (R268). -/
def Park.deliver (a : Access) (p : Park) : Park :=
  match a.dest with
  | .x r =>
    if h : 0 < r.toNat ∧ r.toNat < 15 then { p with record := p.record.set (r.toNat + 1) (a.value.setWidth 32) } else p
  | _ => p

/-- Whether an access of a parked task is still to be performed. -/
def State.parkBusy (s : State) (id : Nat) : Bool :=
  s.accesses.any fun a => a.park == some id

/-- A parked task whose accesses are done, or whose access failed, is delivered (R268). -/
def State.parkDone (id : Nat) (s : State) : State :=
  if s.parkBusy id then s else s.post (.parkedDelivery id)

/-- An access of a parked task failed: none after it is performed (R268). -/
def State.parkFail (id seq : Nat) (c : Cause) (va : Nat) (s : State) : State :=
  let keep (a : Access) : Bool := a.park != some id || a.seq < seq
  let mark (p : Park) : Park := { p with fail := some (c, BitVec.ofNat 32 va) }
  let s := { s with
    parks := match s.parks.find id with
      | some p => s.parks.put id (mark p)
      | none => s.parks
    pagerAccs := s.pagerAccs.filter keep
    pending := s.pending.filter fun e =>
      match eventAccess e with
      | some a => keep a
      | none => true
    away := s.away.filter fun e => keep e.2.acc }
  s.parkDone id

/-! ## The end of an access -/

/-- The reply of an access that has been performed: to its task, or into its parked record (R73, R104, R268, R285). -/
def State.finish (a : Access) (s : State) : State :=
  match a.park with
  | some id =>
    let s := { s with parks := match s.parks.find id with
      | some p => s.parks.put id (p.deliver a)
      | none => s.parks }
    s.parkDone id
  | none =>
    match a.op with
    | .read => s.postTo a.group (.loadReply ⟨a.src, a.dest, a.value, a.acq, false, none, none⟩)
    | .atomic .. => s.postTo a.group (.loadReply ⟨a.src, a.dest, a.value, a.acq, true, none, none⟩)
    | .write _ | .discard | .add .. => s.postTo a.group (.storeAck a.src)

/-- The fault of an access after its issue: carried by the reply of a load, asynchronous for a store (R73, R94, R267). -/
def State.answerFault (a : Access) (c : Cause) (va : Nat) (s : State) : State :=
  let tval := BitVec.ofNat 32 va
  match a.park with
  | some id => s.parkFail id a.seq c va
  | none =>
    match a.op with
    | .read | .atomic .. => s.postTo a.group (.loadReply ⟨a.src, a.dest, 0#256, a.acq, a.isAtomic, some ⟨c, false, tval⟩, none⟩)
    | .write _ | .discard | .add .. => s.postTo a.group (.remoteNack ⟨a.src, .store, c, tval, a.group⟩)

/-- The pager's failure for a task that did not park: at its next instruction, cause.A = 1 (R268). -/
def State.pagerFault (a : Access) (c : Cause) (va : Nat) (s : State) : State :=
  let tr : Trap := ⟨c, true, BitVec.ofNat 32 va⟩
  match a.park with
  | some id => s.parkFail id a.seq c va
  | none =>
    match a.op with
    | .read | .atomic .. =>
      s.modTask a.src fun t =>
        let t := (t.endLoad a.acq a.isAtomic).clearPending a.dest
        { t with traps := t.traps ++ [tr] }
    | .write _ | .discard | .add .. => s.modTask a.src fun t => { t.endStore with traps := t.traps ++ [tr] }

/-! ## Performed at the slice (R262, R266, R267) -/

/-- The writes of a core to a context's memory that are not performed yet, in issue order. -/
def State.ownWrites (s : State) (core ctx : Nat) : List Access :=
  ((s.pending.filterMap eventAccess ++ s.pagerAccs ++ s.laterElems).filter fun b => b.src.core == core && b.ctx == ctx).insertionSort
    fun a b => a.seq ≤ b.seq

/-- Whether a write of a core to a unit is on its way where the unit's bytes will not show its place: performed elsewhere, or a discard. -/
def State.ownAway (s : State) (core ctx unit : Nat) : Bool :=
  let here := s.spanOf ctx (32 * unit) 32 false
  s.accesses.any fun b => b.src.core == core && b.ctx == ctx && b.need == .write && (b.op == .discard || s.away.any (·.2.acc == b)) &&
    (s.accessSpans b).any here.meets

/-- The line of a unit as a plain read fills it: memory's bytes under the core's own writes on their way (R104, R236); none while the core
is of another context, or a write of its own to the unit is performed elsewhere. (DEDUCED, log 34). -/
def State.fillLine (a : Access) (unit : Nat) (bytes : List Byte) (s : State) : State :=
  if s.ctxOf a.src ≠ a.ctx || s.ownAway a.src.core a.ctx unit then s else
  let line := (s.ownWrites a.src.core a.ctx).foldl (fun bs b => b.elems.foldl (fun bs e =>
    let w := b.bytesAt e.1
    bs.zipIdx.map fun (x, i) =>
      let va := 32 * unit + i
      if e.2 ≤ va ∧ va < e.2 + w.length then w.getD (va - e.2) x else x) bs) bytes
  s.modCore a.src.core (Core.l1Put ⟨a.ctx, unit, line⟩)

/-- One element performed at its page, an LPDDR one through its slice's lines (R102, R103, R134, R265). (DEDUCED, log 65). -/
def State.performAt (e : Nat × Nat) (l : Leaf) (as : State × Access) : State × Access :=
  let (s, a) := as
  let old := s.memBytes a.ctx e.2 a.size l
  match a.op with
  | .read => (s.memRead a.ctx e.2 a.reuse l, { a with got := (e.1, leNat old) :: a.got })
  | .write _ => (s.memWrite a.ctx e.2 a.reuse l (a.bytesAt e.1), a)
  | .atomic k x y =>
    (s.memWrite a.ctx e.2 a.reuse l (leBytes 4 (gaValue k (BitVec.ofNat 32 (leNat old)) x y).toNat), { a with got := (e.1, leNat old) :: a.got })
  | .add f bs => (s.elemWrite a.ctx e.2 a.reuse l (addElem f (s.elemBytes a.ctx e.2 a.size l) bs), a)
  | .discard => (s, a)

/-- An element that this part performs: its page touched, the element performed, its line filled for a plain read. -/
def State.performElem (x : (Nat × Nat) × Meet) (as : State × Access) : State × Access :=
  let (e, m) := x
  let (s, a) := as
  let write := a.need != .read
  match m with
  | .here _ l =>
    let (s, a) := State.performAt e l (s.touch l write, a)
    (if a.fill then s.fillLine a (e.2 / 32) (s.memBytes a.ctx (e.2 / 32 * 32) 32 l) else s, a)
  | .zero l =>
    let s := s.touch l write
    (if a.fill then s.fillLine a (e.2 / 32) (List.replicate 32 0#8) else s, { a with got := (e.1, 0) :: a.got })
  | _ => (s, a)

/-- Whether a meeting is performed at this part. -/
def Meet.local : Meet → Bool
  | .here .. | .zero _ => true
  | _ => false

/-- The target of a meeting that is performed elsewhere: the host, or a home part. -/
def Meet.target : Meet → Option (Option Nat)
  | .host .. => some none
  | .away home _ _ => some (some home)
  | _ => none

/-- The address at the target of a meeting performed elsewhere. -/
def Meet.remoteAddr : Meet → Nat
  | .host a _ => a
  | .away _ pa _ => pa
  | _ => 0

/-- The page of a meeting performed elsewhere, touched here by the walker (R258, R261). -/
def Meet.touched (m : Meet) (write : Bool) (s : State) : State :=
  match m with
  | .host _ l | .away _ _ l => s.touch l write
  | _ => s

/-- Whether the page is a follow page (R271). -/
def Meet.follows : Meet → Bool
  | .away _ _ l => l.f
  | _ => false

/-- The first fault of the elements, in ascending order: a page's, or a poisoned sector's for what reads it (R134, R262,
R266). -/
def State.firstFault (s : State) (ctx : Nat) (read : Bool) (ms : List ((Nat × Nat) × Meet)) : Option (Cause × Nat) :=
  (ms.filterMap fun (e, m) =>
    match m with
    | .fault c => some (c, e.2)
    | .here _ l => if read && s.poisonedAt ctx e.2 l then some (.memUncorrectable, e.2) else none
    | _ => none).head?

/-- The requests that an access makes of the host for some of its elements: of a plain read each aligned 32-byte unit that it reads; of
another read or a write each stretch within such a unit, in the elements' order; of an atomic its element (R136, R267, R406). -/
def hostReqs (a : Access) (id : Nat) (mine : List ((Nat × Nat) × Meet)) : List HostReq :=
  if a.fill then
    (mine.map fun x => x.1.2 / 32).eraseDups.filterMap fun u =>
      (mine.find? fun x => x.1.2 / 32 == u).map fun x => ⟨id, x.2.remoteAddr / 32 * 32, 32, .read⟩
  else
    match a.op with
    | .read =>
      (gather (mine.flatMap fun x => (List.range a.size).map fun i => (x.2.remoteAddr + i, 0#8))).map fun p => ⟨id, p.1, p.2.length, .read⟩
    | .write _ =>
      (gather (mine.flatMap fun x => (a.bytesAt x.1.1).zipIdx.map fun (b, i) => (x.2.remoteAddr + i, b))).map fun p =>
        ⟨id, p.1, p.2.length, .write (BitVec.ofNat 256 (leNat p.2))⟩
    | o => mine.map fun x => ⟨id, x.2.remoteAddr, a.size, o⟩

/-- The units that a plain read performed elsewhere may fill when it is answered (R406). -/
def State.expectFills (a : Access) (id : Nat) (mine : List ((Nat × Nat) × Meet)) (s : State) : State :=
  if a.fill then
    s.modCore a.src.core fun c => { c with l1Fills := c.l1Fills ++ ((mine.map fun x => x.1.2 / 32).eraseDups.map fun u => (id, a.ctx, u)) }
  else s

/-- Elements sent to the host or to a home part, the others still to follow (R267): of a plain read, the aligned 32-byte units that it
reads, which will fill the L1 (R406); a port or a route that is missing answers at once (R338, R339). -/
def State.sendAway (a : Access) (tgt : Option Nat) (mine : List ((Nat × Nat) × Meet)) (later : List (Nat × Nat))
    (s : State) : State :=
  match tgt.bind s.linkFault with
  | some (c, n) => s.answerFault a c n
  | none =>
    let (id, s) := (mine.foldl (fun s x => x.2.touched (a.need != .read) s) s).newWait
    let a' := { a with elems := mine.map (·.1) }
    let s := s.expectFills a id mine
    let s := { s with away := s.away.put id ⟨a', later, tgt, s.feature 9 && mine.any fun x => x.2.follows⟩ }
    match tgt with
    | none => { s with hostOut := s.hostOut ++ hostReqs a id mine }
    | some p =>
      let (age, s) := s.freeAge
      s.toPart p (.access s.partAddr id age { a' with elems := mine.map fun x => (x.1.1, x.2.remoteAddr) })

/-- The elements that this part performs, with their leaves. -/
def hereElems (ms : List ((Nat × Nat) × Meet)) : List (Nat × Leaf) :=
  ms.filterMap fun (e, m) =>
    match m with
    | .here _ l => some (e.2, l)
    | _ => none

/-- The poison of the granules that a write's elements cover whole is cleared (R266). -/
def State.cleanse (a : Access) (ms : List ((Nat × Nat) × Meet)) (s : State) : State :=
  match a.op with
  | .write _ => s.cleansePieces a.ctx ((hereElems ms).map fun (va, l) => (va, a.size, l))
  | _ => s

/-- A RESIDENT or VICTIM page of kind 0 becomes DISCARDED: its lines and pieces are dropped, and it counts as written (R258, R269). -/
def State.discardPage (ctx : Nat) (l : Leaf) (s : State) : State :=
  ((s.writeLeaf l (setBits (l.touched true) 1 3 1)).dropPage ctx l false).freeVictim ctx l.base

/-- Whether the loop of PGDISC changes a page of this part (R273). -/
def Leaf.discards (l : Leaf) : Bool := l.kind == 0 && !l.p && l.state != 1 && l.state != 5

/-- Whether a page acts as MIGRATING: its state, or its pieces are still being stored (R269, R270). -/
def State.migrating (s : State) (ctx : Nat) (l : Leaf) : Bool :=
  l.state == 3 || (l.state == 2 && (s.victimOf ctx l.base).any fun v => v.stored < v.places.length)

/-- The pages of a PGDISC discarded in order, up to one that is MIGRATING or of another part: what is left (R273). -/
def State.discardAll (ctx : Nat) : List (Nat × Nat) → State → List (Nat × Nat) × State
  | [], s => ([], s)
  | e :: rest, s =>
    match s.walk ctx e.2 with
    | .leaf l =>
      if l.kind = 4 then (e :: rest, s)
      else if !l.discards then discardAll ctx rest s
      else if s.migrating ctx l then (e :: rest, s)
      else discardAll ctx rest (s.discardPage ctx l)
    | .fault _ => discardAll ctx rest s

/-- A PGDISC's page of another part, whose home applies the loop to it; the rest follows its answer (R273). -/
def State.sendDiscard (a : Access) (e : Nat × Nat) (l : Leaf) (rest : List (Nat × Nat)) (s : State) : State :=
  match s.linkFault l.home with
  | some (c, n) => s.answerFault a c n
  | none =>
    let (id, s) := s.newWait
    let s := { s with away := s.away.put id ⟨{ a with elems := [e] }, rest, some l.home, false⟩ }
    let (age, s) := s.freeAge
    s.toPart l.home (.access s.partAddr id age { a with elems := [(0, l.frame), (1, l.size)] })

/-- A PGDISC at the slices: its pages change state in order, each as one shoot-down (R261, R273). -/
def State.sliceDiscard (a : Access) (s : State) : State :=
  match State.discardAll a.ctx a.elems s with
  | ([], s) => s.finish { a with elems := [] }
  | (e :: rest, s) =>
    match s.walk a.ctx e.2 with
    | .leaf l =>
      if l.kind = 4 ∧ l.state ≠ 3 then s.sendDiscard a e l rest else s.post (.sliceRequest { a with elems := e :: rest })
    | .fault _ => s

/-- Whether an access is an atomic on a word of a core whose handler context is within an atomic (R103). -/
def State.wordOpen (s : State) (a : Access) (ms : List ((Nat × Nat) × Meet)) : Bool :=
  a.isAtomic && ms.any fun x =>
    match x.2 with
    | .here pa l => l.kind == 2 && s.atomicOpen (windowCore pa).1
    | _ => false

/-- An access at its translating slice: translated and checked whole, then performed, handed to the pager, delayed, held, or
passed to its target (R255, R262, R266 to R270, R285). -/
def State.slice (a : Access) (s : State) : State :=
  if a.op = .discard then s.sliceDiscard a else
  let ms := a.elems.map fun e => (e, s.meet a.ctx e.2 a.need)
  match s.firstFault a.ctx a.reads ms with
  | some (c, va) => s.answerFault a c va
  | none =>
    let pages := ms.filterMap fun (_, m) =>
      match m with
      | .pager l => some l.base
      | _ => none
    let victims := ms.filterMap fun (_, m) =>
      match m with
      | .recall l => some l.base
      | _ => none
    let held := ms.filterMap fun (_, m) =>
      match m with
      | .held g => some g
      | _ => none
    if pages ≠ [] then
      pages.foldl (fun s p => s.askPager a.ctx p) { s with pagerAccs := s.pagerAccs ++ [a] }
    else if victims ≠ [] then (victims.foldl (fun s p => s.recall a.ctx p) s).post (.sliceRequest a)
    else match held.head? with
      | some g => s.modGroup g fun gr => { gr with heldMsgs := gr.heldMsgs ++ [.sliceRequest a] }
      | none =>
        if (ms.any fun x => x.2 == .wait) || s.wordOpen a ms then s.post (.sliceRequest a) else
        let (s', a') := (ms.filter fun x => x.2.local).foldl (fun as x => State.performElem x as) (s, a)
        let s' := (s'.cleanse a ms).noteLines a.ctx a.reuse (hereElems ms)
        let rest := ms.filter fun x => !x.2.local
        match rest.head? with
        | none => s'.finish { a' with elems := [] }
        | some (_, m) =>
          let tgt := m.target.getD none
          let mine := rest.filter fun x => x.2.target == some tgt
          let later := (rest.filter fun x => x.2.target != some tgt).map (·.1)
          s'.sendAway a' tgt mine later

/-- SLICE_REQUEST (R262). (DEDUCED, log 34). -/
def execSliceRequest (s : State) : Out :=
  match s.now with
  | some (.sliceRequest a) => ok (s.slice a)
  | _ => ok s

/-! ## Parking (R268) -/

/-- The accesses of a running task that are in the pager's hands. -/
def State.atPager (s : State) (i : Issuer) : List Access := s.pagerAccs.filter fun a => a.src == i && a.park.isNone

/-- Whether a task with accesses at the pager parks: it holds no vector state, and none of them writes x15 (R145, R170, R268).
(DEDUCED, log 25). -/
def State.parks_ (s : State) (i : Issuer) : Bool :=
  let t := s.taskAt i
  let mine := s.atPager i
  mine != [] && (t.run == .running || t.run == .stalled .retry) && !t.vl && mine.all fun a => a.dest != .x 15#4

/-- Whether it parks now: everything else that it has outstanding has completed (R268). (DEDUCED, log 25). -/
def State.parkReady (s : State) (i : Issuer) : Bool :=
  let o := (s.taskAt i).ocnt
  s.parks_ i && o.cmds == 0 && o.msgs == 0 && o.loads + o.stores == (s.atPager i).length

/-- The trap that the token steps of a parking task meet: the oldest faulted token's (R145). (DEDUCED, log 25). -/
def TaskCtx.parkTrap (t : TaskCtx) : Option Trap :=
  match t.tokens.find? fun k => k.f.isSome with
  | some ⟨some c, _, tval⟩ => some ⟨c, true, tval⟩
  | _ => none

/-- The task hands its record and its accesses to the pager, in issue order, and its context becomes FREE (R77, R268). The trap of its token
steps, the traps that it held and the faults that replies left at its registers go with the record, and are taken where it is taken up: a
trap entry waits until the parked loads have written their registers (R73, R94, R279). (DEDUCED, log 25). -/
def State.handOver (i : Issuer) (s : State) : State :=
  let t := s.taskAt i
  match t.parkTrap, t.trapMode with
  | some tr, true => s.escalateAt i .trapNested (BitVec.ofNat 32 tr.cause.code) t.pc
  | tr, _ =>
    let c := s.coreAt i.core
    let mine := (s.atPager i).insertionSort fun a b => a.seq ≤ b.seq
    let others := s.pagerAccs.filter fun a => !(a.src == i && a.park.isNone)
    let (id, s) := s.newWait
    let p : Park :=
      { core := i.core, group := c.group, ctx := c.ctxid, record := t.toRec 2 false t.pc, origin := t.origin,
        traps := tr.toList ++ t.traps, faults := t.faultX.filter fun f => 0 < f.1 && f.1 < 15 }
    let own (a : Access) : Access := { a with park := some id }
    let s := { s with parks := s.parks.put id p, pagerAccs := others ++ mine.map own }
    let s := if t.tokens.isEmpty then s else s.dropL1 i.core
    (s.modTask i fun t =>
      { t with run := .free, tokens := [], pendX := 0#16, pendV := 0#8, acquires := 0, traps := [], faultX := [], faultV := [],
               ocnt := { t.ocnt with loads := 0, stores := 0, atomics := 0 } }).dropLease i

/-! ## The pager (R269, R282) -/

/-- Whether an access in the pager's hands can be performed: none of its pages needs the pager, its task has parked if it is to park, and no
earlier access of its parked task is left (R268). -/
def State.replayable (s : State) (a : Access) : Bool :=
  !(a.park.isNone && s.parks_ a.src) && !(a.elems.any fun e =>
      match s.meet a.ctx e.2 a.need with
      | .pager _ => true
      | _ => false) &&
    !(a.park.isSome && s.accesses.any fun b => b.park == a.park && b.seq < a.seq)

/-- The accesses that the pager's answer allows are replayed in the order of reaching it (R269). -/
def State.replay (s : State) : State :=
  s.pagerAccs.foldl (fun s a =>
    if s.pagerAccs.contains a && s.replayable a then
      State.slice a { s with pagerAccs := s.pagerAccs.erase a }
    else s) s

/-- Every task that is ready to park parks, and what the pager has answered meanwhile is replayed. (DEDUCED, log 25). -/
def State.settleParks (s : State) : State :=
  match s.pagerAccs.filter fun a => a.park.isNone && s.parkReady a.src with
  | [] => s
  | ready => (ready.foldl (fun s a => if s.parkReady a.src then s.handOver a.src else s) s).replay

/-- A page's requests to the pager are over. -/
def State.unask (ctx : Nat) (l : Leaf) (s : State) : State :=
  { s with pagerAsks := s.pagerAsks.filter (fun e => !(e.1 == ctx && e.2 == l.base)),
           engineAsks := s.engineAsks.filter fun e => !(e.2.1 == ctx && e.2.2 == l.base) }

/-- Whether a task that waits for a page is still to park (R268). -/
def State.parksAt (s : State) (ctx : Nat) (l : Leaf) : Bool := s.pagerAccs.any fun a => a.touches ctx l && a.park.isNone && s.parks_ a.src

/-- The parked accesses of a page fail with a cause, of each task the first in issue order; an engine that waits for the page fails when it
next asks (R268, R269). -/
def State.failPage (ctx : Nat) (l : Leaf) (c : Cause) (s : State) : State :=
  let mine := (s.pagerAccs.filter fun a => a.touches ctx l).insertionSort fun a b => b.seq ≤ a.seq
  let s := { s with pagerAccs := s.pagerAccs.filter fun a => !a.touches ctx l,
                    pagerFailed := s.pagerFailed ++ (s.engineAsks.filter fun (e : Engine × Nat × Nat) => e.2.1 == ctx && e.2.2 == l.base) }
  let first (a : Access) : Nat := ((a.elems.filter fun e => l.base ≤ e.2 && e.2 < l.base + l.size).map (·.2)).headD l.base
  (mine.foldl (fun s a => s.pagerFault a c (first a)) s).unask ctx l

/-- A pager event at a page in one of the named states: its action, or none (R269: an access that finds no row leaves the
state unchanged). -/
def State.atPage (ctx va : Nat) (states : List Nat) (k : Leaf → State → State) (s : State) : State :=
  match s.walk ctx va with
  | .leaf l => if states.contains l.state then k l s else s
  | .fault _ => s

/-- The kind of the range that a physical address lies in (R17). -/
def kindOf (pa : Nat) : Nat := if inLpddr pa then 0 else if inVault pa then 1 else if inLocalwin pa then 2 else 3

/-- A leaf's raw value with a frame of this part: its kind, die and frame fields, RESIDENT (R258). -/
def mapFrame (raw pa : Nat) : Nat :=
  let k := kindOf pa
  let raw := setBits (setBits (setBits raw 21 31 (pa / 4096)) 8 3 k) 1 3 0
  let raw := setBits raw 52 12 (if k ≤ 2 then frameDie k pa else 0)
  let raw := setBits raw 14 1 0
  if k = 0 then raw else setBits raw 6 2 0

/-- The parts of a context's range of use that lie outside a range; another context's range stays. -/
def outside (ctx lo n : Nat) (e : Nat × Nat × Nat) : List (Nat × Nat × Nat) :=
  let (c, b, m) := e
  if c ≠ ctx ∨ b + m ≤ lo ∨ lo + n ≤ b then [e]
  else (if b < lo then [(c, b, lo - b)] else []) ++ if lo + n < b + m then [(c, lo + n, b + m - (lo + n))] else []

/-- A physical range is no longer in use by a context's pages. -/
def State.freeRange (ctx lo n : Nat) (s : State) : State :=
  { s with allocs := s.allocs.flatMap (outside ctx lo n), givens := s.givens.flatMap (outside ctx lo n) }

/-- A physical range is in use by a context. -/
def State.useRange (ctx lo n : Nat) (s : State) : State :=
  let s := s.freeRange ctx lo n
  { s with allocs := s.allocs ++ [(ctx, lo, n)] }

/-- A physical range that the host has named is in use by a context (R371). -/
def State.holdRange (ctx lo n : Nat) (s : State) : State :=
  { s with givens := s.givens.flatMap (outside ctx lo n) ++ [(ctx, lo, n)] }

/-- A page given a frame; none when the frame does not suit its size or range. -/
def State.giveFrame (ctx : Nat) (l : Leaf) (pa : Nat) (s : State) : Option State :=
  let raw := mapFrame l.raw pa
  if ({ l with raw := raw } : Leaf).wellFormed (s.feature 9) ∧ s.populated (bits raw 8 3) pa (pa + l.size) then
    some (State.writeLeaf l raw
      { s.useRange ctx pa l.size with moved := s.moved.filter fun e => e.1 + e.2.1 ≤ pa || pa + l.size ≤ e.1 })
  else none

/-- PAGER_MAP (R269): a frame for an ABSENT page, and the parked accesses replayed. -/
def execPagerMap (s : State) : Out :=
  match s.now with
  | some (.pagerMap ctx va pa) =>
    ok (s.atPage ctx va [5] fun l s =>
      match s.giveFrame ctx l pa with
      | some s => (s.unask ctx l).replay
      | none => s)
  | _ => ok s

/-- PAGER_FAIL (R268, R269): PAGE_FAULT for an ABSENT page, DISCARD_WRITE for a write of a DISCARDED one, once the tasks that wait for it
have parked. -/
def execPagerFail (s : State) : Out :=
  match s.now with
  | some (.pagerFail ctx va) =>
    ok (s.atPage ctx va [1, 5] fun l s =>
      if s.parksAt ctx l then s.post (.pagerFail ctx va)
      else s.failPage ctx l (if l.state = 1 then .discardWrite else .pageFault))
  | _ => ok s

/-- Whether a write of a DISCARDED page is in the pager's hands: of a task, or of an engine that waits for its answer (R269). -/
def State.writeParked (s : State) (ctx : Nat) (l : Leaf) : Bool :=
  s.pagerAccs.any (fun a => a.touches ctx l && a.need != .read) || s.engineAsks.any fun e => e.2.1 == ctx && e.2.2 == l.base

/-- PAGER_REVIVE (R269): the DISCARDED page's frame zero-filled, and the parked writes replayed. -/
def execPagerRevive (s : State) : Out :=
  match s.now with
  | some (.pagerRevive ctx va) =>
    ok (s.atPage ctx va [1] fun l s =>
      if s.writeParked ctx l then
        (((s.zeroFrame l.frame l.size).setPageState l 0).unask ctx l).replay
      else s)
  | _ => ok s

/-- PAGER_RECLAIM (R269): with a parked write, a fresh zeroed frame for the old one; without one, the page becomes ABSENT. -/
def execPagerReclaim (s : State) : Out :=
  match s.now with
  | some (.pagerReclaim ctx va fresh) =>
    ok (s.atPage ctx va [1] fun l s =>
      match fresh with
      | none => if s.writeParked ctx l then s else (s.setPageState l 5).freeRange ctx l.frame l.size
      | some pa =>
        if s.writeParked ctx l then
          match (s.freeRange ctx l.frame l.size).giveFrame ctx l pa with
          | some s => ((s.zeroFrame pa l.size).unask ctx l).replay
          | none => s
        else s)
  | _ => ok s

/-- PAGER_DISCARD (R269). -/
def execPagerDiscard (s : State) : Out :=
  match s.now with
  | some (.pagerDiscard ctx va) =>
    ok (s.atPage ctx va [0] fun l s => if l.kind = 0 ∧ !l.p then s.discardPage ctx l else s)
  | _ => ok s

/-- PAGER_TIMEOUT (R282): reported; the parked accesses fail with PAGE_FAULT. -/
def execPagerTimeout (s : State) : Out :=
  match s.now with
  | some (.pagerTimeout ctx va) =>
    match s.walk ctx va with
    | .leaf l =>
      if (l.state = 1 ∨ l.state = 5) ∧ s.parksAt ctx l then ok (s.post (.pagerTimeout ctx va))
      else ok ((s.report .pagerTimeout (BitVec.ofNat 32 va) ctx 0 0).atPage ctx va [1, 5] fun l s => s.failPage ctx l .pageFault)
    | .fault _ => ok (s.report .pagerTimeout (BitVec.ofNat 32 va) ctx 0 0)
  | _ => ok s

/-- PARKED_DELIVERY (R268): the record as class 9, to the original core while it is bound to the group, else to rank 0. -/
def execParkedDelivery (s : State) : Out :=
  match s.now with
  | some (.parkedDelivery id) =>
    match s.parks.find id with
    | some p =>
      let c := s.coreAt p.core
      let saved := (s.groupAt p.group).stored
      let dst := if saved || (c.group = p.group ∧ (c.power = .bound ∨ c.power = .saving)) then p.core
        else (s.groupAt p.group).cores.headD p.core
      ok (State.post (.continuationDelivery ⟨dst, p.group, p.record, p.fail, p.origin, p.traps, p.faults⟩) { s with parks := s.parks.del id })
    | none => ok s
  | _ => ok s

/-- Whether an access translated under an entry of a range is still on its way (R261). -/
def State.rangeBusy (s : State) (ctx va n : Nat) : Bool :=
  (s.away.any fun e => e.2.acc.ctx == ctx && e.2.acc.elems.any fun x => va ≤ x.2 && x.2 < va + n) ||
    s.fetches.any fun f => f.2.ans == .none && va ≤ f.2.va && f.2.va < va + n

/-- MIGRATION_BEGIN (R269): RESIDENT or REMOTE becomes MIGRATING, once every access under the old entry has been performed (R261); the
request is firmware's, so P does not hold it back. -/
def execMigrationBegin (s : State) : Out :=
  match s.now with
  | some (.migrationBegin ctx va) =>
    ok (s.atPage ctx va [0, 4] fun l s =>
      if s.rangeBusy ctx l.base l.size then s.post (.migrationBegin ctx va) else (s.setPageState l 3).dropPage ctx l true)
  | _ => ok s

/-- The page's bytes carried to its new frame with its poison, when both frames are of this part, and the old frame freed. -/
def State.movePage (ctx : Nat) (l l' : Leaf) (s : State) : State :=
  if l.frame = l'.frame ∧ l.kind = l'.kind then s
  else
    let s := if l.kind ≤ 1 then s.freeRange ctx l.frame l.size else s
    if 2 ≤ l'.kind then s
    else
      let s := s.useRange ctx l'.frame l.size
      if 2 ≤ l.kind then s
      else
        let old := s.phys.filter fun e => l.frame ≤ e.1 && e.1 < l.frame + l.size
        let bad := s.poison.filter fun k => l.frame ≤ 32 * k && 32 * k < l.frame + l.size
        let s := s.zeroFrame l'.frame l.size
        { s with phys := old.foldl (fun m e => m.setByte (l'.frame + (e.1 - l.frame)) e.2) s.phys,
                 poison := s.poison ++ bad.map fun k => k - l.frame / 32 + l'.frame / 32 }

/-- A page whose frame has moved to another part: requests that still name the old frame are passed on (R340, R342). -/
def State.noteMoved (l l' : Leaf) (s : State) : State :=
  if l.kind ≤ 1 ∧ l'.kind = 4 then { s with moved := s.moved ++ [(l.frame, l.size, l'.home, l'.frame)] } else s

/-- MIGRATION_END (R269): the page RESIDENT or REMOTE under its new entry of the same size; delayed accesses go on. -/
def execMigrationEnd (s : State) : Out :=
  match s.now with
  | some (.migrationEnd ctx va raw) =>
    ok (s.atPage ctx va [3] fun l s =>
      let l' : Leaf := { l with raw := raw.toNat }
      if l'.wellFormed (s.feature 9) ∧ s.populated l'.kind l'.frame (l'.frame + l'.size) ∧ (l'.state = 0 ∨ l'.state = 4) ∧ l'.run = l.run ∧
          bits raw.toNat 0 1 = 1 then
        ((((s.movePage ctx l l').writeLeaf l raw.toNat).noteMoved l l').unask ctx l).replay
      else s)
  | _ => ok s

/-- SHOOTDOWN (R261): complete once every access translated under the entries of the range has been performed; what the slices hold for
the range is dropped, dirty lines written back. -/
def execShootdown (s : State) : Out :=
  match s.now with
  | some (.shootdown ctx lo hi) =>
    if s.rangeBusy ctx lo (hi + 1 - lo) then ok (s.post (.shootdown ctx lo hi))
    else
      let inside (line : Nat) : Bool := lo < 128 * line + 128 && 128 * line ≤ hi
      let lines := s.slices.flatMap fun (k, sl) => (sl.lines.filter fun m => m.ctx == ctx && inside m.line).map fun m => (k, m)
      let s := lines.foldl (fun s e => s.dropLine e.1 e.2) s
      let held (page : Nat) : Bool := match s.walk ctx page with
        | .leaf l => lo < l.base + l.size && l.base ≤ hi
        | .fault _ => lo < page + 4096 && page ≤ hi
      ok { s with slices := s.slices.map fun (k, sl) =>
        (k, { sl with pins := sl.pins.filter (fun p => !(p.ctx == ctx && inside p.line)), ptrs := sl.ptrs.filter (fun p => p.1 != ctx),
                      counts := sl.counts.filter fun e => !(e.1 == ctx && held e.2.1) }) }
  | _ => ok s

/-- SHOOTDOWN_TIMEOUT (R282): reported. -/
def execShootdownTimeout (s : State) : Out :=
  match s.now with
  | some (.shootdownTimeout ctx va) => ok (s.report .shootdownTimeout (BitVec.ofNat 32 va) ctx 0 0)
  | _ => ok s

/-! ## The host port and answers from elsewhere (R267) -/

/-- A lane's value taken from the 32-byte unit that a plain read brought, at the element's address (R406). -/
def unitLane (a : Access) (lane v : Nat) : Nat :=
  let va := ((a.elems.find? fun e => e.1 == lane).map (·.2)).getD 0
  v / 2 ^ (8 * (va % 32)) % 2 ^ (8 * a.size)

/-- The lines of a plain read's units are filled, but for those that an acquire, a fence or a write of the core has overtaken (R104, R244,
R406). -/
def State.fillUnits (a : Access) (id : Nat) (lanes : List (Nat × Nat)) (s : State) : State :=
  let fills := (s.coreAt a.src.core).l1Fills
  let s := lanes.foldl (fun s (lane, v) =>
    match a.elems.find? fun e => e.1 == lane with
    | some e => if fills.contains (id, a.ctx, e.2 / 32) then s.fillLine a (e.2 / 32) (leBytes 32 v) else s
    | none => s) s
  s.modCore a.src.core fun c => { c with l1Fills := c.l1Fills.filter (·.1 != id) }

/-- The elements performed elsewhere have been answered with their lanes, which of a plain read are whole units: the rest follows, or the
access ends. -/
def State.awayDone (id : Nat) (lanes : List (Nat × Nat)) (s : State) : State :=
  match s.away.find id with
  | some w =>
    let s := { s with away := s.away.del id }
    let s := if w.acc.fill then s.fillUnits w.acc id lanes else s
    let lanes := if w.acc.fill then lanes.map fun (lane, v) => (lane, unitLane w.acc lane v) else lanes
    let a := { w.acc with got := lanes ++ w.acc.got, elems := w.later }
    let s := match w.follow, w.home, a.park with
      | true, some p, none => s.modTask a.src fun t => { t with follow := some p }
      | _, _, _ => s
    if w.later = [] then s.finish a else s.post (.sliceRequest a)
  | none => s

/-- The elements performed elsewhere have failed, with a tval that is not an address when one is given (R282). -/
def State.awayFail (id : Nat) (c : Cause) (v : Option Nat) (s : State) : State :=
  match s.away.find id with
  | some w => (State.answerFault w.acc c (v.getD ((w.acc.elems.map (·.2)).headD 0))) { s with away := s.away.del id }
  | none => s

/-- The lanes that the host's data gives the elements: of a plain read the units in order, else the elements in order. -/
def hostLanes (a : Access) (data : List Byte) : List (Nat × Nat) :=
  match a.op with
  | .write _ | .discard | .add .. => []
  | _ =>
    if a.fill then
      let units := (a.elems.map fun e => e.2 / 32).eraseDups
      a.elems.map fun e => (e.1, leNat ((data.drop (32 * units.idxOf (e.2 / 32))).take 32))
    else a.elems.zipIdx.map fun (e, i) => (e.1, leNat ((data.drop (i * a.size)).take a.size))

/-- HOST_COMPLETION (R267): the access ends, or traps HOST_ABORT on an error status. -/
def execHostCompletion (s : State) : Out :=
  match s.now with
  | some (.hostCompletion id good data) =>
    match s.away.find id with
    | some w =>
      if w.home.isSome then ok s
      else if good then ok (s.awayDone id (hostLanes w.acc data)) else ok (s.awayFail id .hostAbort none)
    | none => ok (s.fetchAnswer id (if good then .data data else .fail .hostAbort none))
  | _ => ok s

/-- HOST_COMPLETION_TIMEOUT (R267). -/
def execHostCompletionTimeout (s : State) : Out :=
  match s.now with
  | some (.hostCompletionTimeout id) =>
    match s.away.find id with
    | some w => if w.home.isSome then ok s else ok (s.awayFail id .remoteUnreachable none)
    | none => ok (s.fetchAnswer id (.fail .remoteUnreachable none))
  | _ => ok s

/-- HOST_LINK_DOWN (R267): the accesses that wait for the host trap REMOTE_UNREACHABLE, as every later one does. -/
def execHostLinkDown (s : State) : Out :=
  let ids := (s.away.filter fun e => e.2.home.isNone).map (·.1)
  let down (f : Fetch) : Fetch := if f.home.isNone ∧ f.ans = .none then { f with ans := .fail .remoteUnreachable none } else f
  ok (ids.foldl (fun s id => s.awayFail id .remoteUnreachable none)
    { s with hostUp := false, fetches := s.fetches.map fun e => (e.1, down e.2) })

/-! ## Issue (R102 to R104, R134 to R136) -/

/-- The map bound to a slot of the issuing task context (R100). -/
def State.mapAt (s : State) (t : BitVec 4) : Option Rec := s.task.tm[t.toFin]

/-- The virtual address of a linear index of a map's view, for the issuing core's rank (R99). -/
def State.elemVa (s : State) (m : Rec) (l : Nat) : Option Nat := viewVa m s.core.gsize s.core.rank l

/-- An access of the issuing task context on its way to its slice, at its place in issue order. -/
def State.issue (a : Access) (s : State) : State :=
  let (n, s) := s.newWait
  s.post (.sliceRequest { a with seq := n })

/-- The access of the issuing task context. -/
def State.newAccess (s : State) (m : Rec) (size : Nat) (elems : List (Nat × Nat)) (op : AccOp) (dest : Dest)
    (fill acq : Bool) : Access :=
  { src := s.who, ctx := s.core.ctxid, size := size, elems := elems, op := op, dest := dest, fill := fill, acq := acq,
    seq := 0, reuse := mapReuse m, got := [], park := none, group := s.core.group }

/-- The checks of GMEM before translation: the slot, the element code, the index, the alignment (R99, R102). None is given to
k for an invalid index with edge = 0. -/
def State.gmem (t : BitVec 4) (i : BitVec 8) (x : BitVec 4) (xs : List (BitVec 4)) (s : State)
    (k : Rec → Option Nat → State → State) : State :=
  s.inTask fun s => s.withRegs (x :: xs) [] fun s => s.access fun s =>
    match s.mapAt t with
    | none => s.trap .tmapUnbound (zext t)
    | some m =>
      let l := s.x x + zext i
      if mapEt m ≠ 4 ∧ mapEt m ≠ 5 ∧ mapEt m ≠ 7 then s.trap .tmapRange l
      else match s.elemVa m l.toNat with
        | none => if mapEdge m then s.trap .tmapRange l else k m none s
        | some va => if va % 4 ≠ 0 then s.trap .misaligned (BitVec.ofNat 32 va) else k m (some va) s

/-- An access whose page fails at issue traps at its instruction (R102, R262). -/
def State.paged (va : Nat) (n : Need) (s : State) (k : State → State) : State :=
  s.checked (s.pageTrap s.core.ctxid va n) k

/-- The bytes that a task context reads in the L1 may be of a write of the other context that is still to be performed, which its own later
accesses then follow (R236). -/
def State.seeL1 (reads : List (Nat × Nat)) (s : State) : State :=
  let other (b : Access) : Bool := b.src.core == s.who.core && b.src.ctx != s.who.ctx && b.ctx == s.core.ctxid && b.need == .write &&
    b.elems.any fun e => reads.any fun r => r.1 < e.2 + b.size && e.2 < r.1 + r.2
  match (s.accesses ++ s.laterElems).filter other with
  | [] => s
  | bs => s.modCore s.who.core fun c =>
      { c with seen := (c.seen.filter fun e => s.accesses.any fun b => b.seq == e.2) ++ bs.map fun b => (s.who.ctx, b.seq) }

/-- GLW (R102): served from the L1 when it holds the line. -/
def execGlw (t : BitVec 4) (i : BitVec 8) (d x : BitVec 4) (s : State) : Out :=
  ok (s.gmem t i x [d] fun m va s =>
    match va with
    | none => (s.setX d 0#32).retire 4#32
    | some va =>
      match s.core.l1Find s.core.ctxid (va / 32), s.core.l1Read s.core.ctxid va 4 with
      | some l, some bs => (((s.seeL1 [(va, 4)]).modCore s.who.core (Core.l1Put l)).setX d (BitVec.ofNat 32 (leNat bs))).retire 4#32
      | _, _ => s.paged va .read fun s => s.await s.roomForLoad fun s =>
          let a := s.newAccess m 4 [(0, va)] .read (.x d) true false
          ((s.modT (TaskCtx.beginLoad d false false)).issue a).retire 4#32)

/-- GLWA (R104): bypasses the L1; later accesses wait for its reply, which invalidates the L1. -/
def execGlwa (t : BitVec 4) (i : BitVec 8) (d x : BitVec 4) (s : State) : Out :=
  ok (s.gmem t i x [d] fun m va s =>
    match va with
    | none => ((s.setX d 0#32).dropL1 s.who.core).retire 4#32
    | some va => s.paged va .read fun s => s.await s.roomForLoad fun s =>
        let a := s.newAccess m 4 [(0, va)] .read (.x d) false true
        ((s.modT (TaskCtx.beginLoad d true false)).issue a).retire 4#32)

/-- A global scalar store, as a release when rel (R102, R104). -/
def State.gstore (rel : Bool) (t : BitVec 4) (i : BitVec 8) (d x : BitVec 4) (s : State) : State :=
  s.gmem t i x [d] fun m va s => s.await (!rel || s.settled) fun s =>
    match va with
    | none => s.retire 4#32
    | some va => s.paged va .write fun s => s.await s.roomForStore fun s =>
        let w := s.x d
        let a := s.newAccess m 4 [(0, va)] (.write (w.setWidth 256)) .none false false
        let s := s.modCore s.who.core (Core.l1Write s.core.ctxid va (leBytes 4 w.toNat))
        ((s.modT TaskCtx.beginStore).issue a).retire 4#32

/-- GSW (R102). -/
def execGsw (t : BitVec 4) (i : BitVec 8) (d x : BitVec 4) (s : State) : Out := ok (s.gstore false t i d x)
/-- GSWL (R104). -/
def execGswl (t : BitVec 4) (i : BitVec 8) (d x : BitVec 4) (s : State) : Out := ok (s.gstore true t i d x)

/-- A global atomic (R102, R103); with an invalid index and edge = 0 it is dropped and writes zero. A line that the L1 holds stays as it is:
R104 names GSW and GSWL alone. (DESIGN CHOICE, log 69). -/
def State.gatomic (k : Rec → GAtomic) (t : BitVec 4) (i : BitVec 8) (d x : BitVec 4) (second : Option (BitVec 4))
    (s : State) : State :=
  s.gmem t i x (d :: second.toList) fun m va s =>
    match va with
    | none => (s.setX d 0#32).retire 4#32
    | some va => s.paged va .atomic fun s => s.await s.roomForLoad fun s =>
        let b := match second with
          | some r => s.x r
          | none => 0#32
        let a := s.newAccess m 4 [(0, va)] (.atomic (k m) (s.x d) b) (.x d) false false
        ((s.modT (TaskCtx.beginLoad d false true)).issue a).retire 4#32

/-- GAADD (R102). -/
def execGaadd (t : BitVec 4) (i : BitVec 8) (d x : BitVec 4) (s : State) : Out :=
  ok (s.gatomic (fun _ => .add) t i d x none)
/-- GAMIN: unsigned for code 5 (R102). -/
def execGamin (t : BitVec 4) (i : BitVec 8) (d x : BitVec 4) (s : State) : Out :=
  ok (s.gatomic (fun m => if mapEt m = 5 then .minn else .min) t i d x none)
/-- GAMAX: unsigned for code 5 (R102). -/
def execGamax (t : BitVec 4) (i : BitVec 8) (d x : BitVec 4) (s : State) : Out :=
  ok (s.gatomic (fun m => if mapEt m = 5 then .maxn else .max) t i d x none)
/-- GASWAP (R102). -/
def execGaswap (t : BitVec 4) (i : BitVec 8) (d x : BitVec 4) (s : State) : Out :=
  ok (s.gatomic (fun _ => .swap) t i d x none)
/-- GACAS: compares with x[A] and stores x[A + 1] (R102). -/
def execGacas (t : BitVec 4) (i : BitVec 8) (d : BitVec 3) (x : BitVec 4) (s : State) : Out :=
  ok (s.gatomic (fun _ => .cas) t i (pairLow d) x (some (pairHigh d)))
/-- GAFADD (R102). -/
def execGafadd (t : BitVec 4) (i : BitVec 8) (d x : BitVec 4) (s : State) : Out :=
  ok (s.gatomic (fun _ => .fadd) t i d x none)

/-! ## Vector global access (R134 to R136) -/

/-- A vector load counted and its register marked pending, with status.VL set (R51, R136). -/
def TaskCtx.beginVLoad (v : BitVec 3) (acq : Bool) (t : TaskCtx) : TaskCtx :=
  TaskCtx.live { t with pendV := t.pendV ||| (1#8 <<< v.toNat), acquires := t.acquires + acq.toNat,
                        ocnt := { t.ocnt with loads := t.ocnt.loads + 1 } }

/-- An element of a vector global access: its lane, its linear index and its virtual address when the index is valid. -/
structure VElem where
  lane  : Nat
  index : Nat
  va    : Option Nat
  deriving DecidableEq, Repr

/-- The elements of VLDG, VSTG (walk false) and VLDGS (walk true), with the element size (R134, R135). -/
def State.vElems (s : State) (m : Rec) (walk : Bool) (l : Nat) : Nat × List VElem :=
  if mapEt m = 11 then
    let segs := (Rec.w m 2 + 255) / 256
    if walk then
      (4, (List.range 8).map fun i =>
        ⟨i, l + i, if l + i ≤ segs then some ((mapBase m + Rec.w m 5 + 4 * (l + i)) % 2 ^ 48) else none⟩)
    else
      (1, (List.range 32).map fun k =>
        ⟨k, l, if l < segs then some ((mapBase m + 32 * l + k) % 2 ^ 48) else none⟩)
  else
    let n := mapEsize m
    let step := if walk then viewExtent m s.core.gsize s.core.rank 0 else 1
    (n, (List.range (32 / n)).map fun i => ⟨i, l + i * step, s.elemVa m (l + i * step)⟩)

/-- The trap of the lowest invalid index of an edge-1 map (R134). -/
def edgeTrap (m : Rec) (es : List VElem) : Option Trap :=
  if mapEdge m then ((es.filter fun e => e.va.isNone).head?).map fun e => ⟨.tmapRange, false, BitVec.ofNat 32 e.index⟩
  else none

/-- The trap of the first element that fails its alignment or its page (R134). -/
def State.elemTrap (s : State) (size : Nat) (n : Need) (es : List VElem) : Option Trap :=
  (es.filterMap fun e =>
    match e.va with
    | some va =>
      if va % size ≠ 0 then some ⟨.misaligned, false, BitVec.ofNat 32 va⟩ else s.pageTrap s.core.ctxid va n
    | none => none).head?

/-- The lanes and addresses of the valid elements. -/
def validElems (es : List VElem) : List (Nat × Nat) := es.filterMap fun e => e.va.map fun va => (e.lane, va)

/-- The common form of VLDG, VSTG and VLDGS: the slot, the indices, then the alignment alone (R134). -/
def State.vglobal (t : BitVec 4) (i : BitVec 9) (v : BitVec 3) (x : BitVec 4) (walk : Bool) (s : State)
    (k : Rec → Nat → List VElem → State → State) : State :=
  s.inTask fun s => s.withRegs [x] [v] fun s => s.access fun s =>
    match s.mapAt t with
    | none => s.trap .tmapUnbound (zext t)
    | some m =>
      let (n, es) := s.vElems m walk (s.x x + zext i).toNat
      s.checked (edgeTrap m es) (k m n es)

/-- The lanes of a load whose every unit the L1 holds (R136, R406). -/
def State.l1Lanes (s : State) (n : Nat) (es : List (Nat × Nat)) : Option (List (Nat × Nat)) :=
  es.mapM fun (lane, va) => (s.core.l1Read s.core.ctxid va n).map fun bs => (lane, leNat bs)

/-- The lines of the units of a hit become the most recently used (R406). -/
def State.l1Use (es : List (Nat × Nat)) (s : State) : State :=
  (es.map fun e => e.2 / 32).eraseDups.foldl (fun s u =>
    match s.core.l1Find s.core.ctxid u with
    | some l => s.modCore s.who.core (Core.l1Put l)
    | none => s) s

/-- The L1 of the issuing core invalidated by an acquire (R104). -/
def State.dropIf (acq : Bool) (s : State) : State := if acq then s.dropL1 s.who.core else s

/-- VLDG and VLDGS (R134, R136): an access without a valid element writes zeros at once. -/
def State.vload (walk : Bool) (t : BitVec 4) (i : BitVec 9) (v : BitVec 3) (o : BitVec 1) (x : BitVec 4) (s : State) :
    State :=
  s.vglobal t i v x walk fun m n es s =>
    let acq := o = 1#1
    let el := validElems es
    let a := s.newAccess m n el .read (.v v) (!acq) acq
    match el, (if acq ∨ (es.any fun e => e.va.any fun va => va % n != 0) then none else s.l1Lanes n el) with
    | [], _ => ((s.modT (TaskCtx.setV v 0#256)).dropIf acq).retire 4#32
    | _, some got => (((s.seeL1 (el.map fun e => (e.2, n))).l1Use el).modT (TaskCtx.setV v ({ a with got := got } : Access).value)).retire 4#32
    | _, none => s.checked (s.elemTrap n .read es) fun s => s.await s.roomForLoad fun s =>
        ((s.modT (TaskCtx.beginVLoad v acq)).issue a).retire 4#32

/-- VLDG (R134). -/
def execVldg (t : BitVec 4) (i : BitVec 9) (v : BitVec 3) (o : BitVec 1) (x : BitVec 4) (s : State) : Out :=
  ok (s.vload false t i v o x)
/-- VLDGS (R134). -/
def execVldgs (t : BitVec 4) (i : BitVec 9) (v : BitVec 3) (o : BitVec 1) (x : BitVec 4) (s : State) : Out :=
  ok (s.vload true t i v o x)

/-- VSTG (R134, R136). -/
def execVstg (t : BitVec 4) (i : BitVec 9) (v : BitVec 3) (o : BitVec 1) (x : BitVec 4) (s : State) : Out :=
  ok (s.vglobal t i v x false fun m n es s =>
    s.checked (s.elemTrap n .write es) fun s => s.await (o = 0#1 || s.settled) fun s =>
      match validElems es with
      | [] => s.retire 4#32
      | el => s.await s.roomForStore fun s =>
          let a := s.newAccess m n el (.write (s.task.vreg v)) .none false false
          let s := el.foldl (fun s e => s.modCore s.who.core (Core.l1Write s.core.ctxid e.2 (a.bytesAt e.1))) s
          ((s.modT TaskCtx.beginStore).issue a).retire 4#32)

/-! ## Prefetch and discard (R272 to R274) -/

/-- The pages of a context that begin at or after lo and overlap [lo, hi], with the page that holds lo, in ascending order; a
4 KiB step where no page is mapped. -/
def State.pagesIn (s : State) (ctx : Nat) : Nat → Nat → Nat → List (Nat × Walk)
  | 0, _, _ => []
  | n + 1, lo, hi =>
    if hi < lo then [] else
    match s.walk ctx lo with
    | .leaf l => (l.base, .leaf l) :: State.pagesIn s ctx n (l.base + l.size) hi
    | .fault c => (lo, .fault c) :: State.pagesIn s ctx n (lo / 4096 * 4096 + 4096) hi

/-- The lines of a page leave the issuing core's L1, and none of them is filled by a read on its way: its own discard comes after (R236,
R273). -/
def Core.l1Forget (ctx : Nat) (l : Leaf) (c : Core) : Core :=
  let inside (x unit : Nat) : Bool := x == ctx && l.base ≤ 32 * unit && 32 * unit < l.base + l.size
  { c with l1 := c.l1.filter (fun m => !inside m.ctx m.line), l1Fills := c.l1Fills.filter fun f => !inside f.2.1 f.2.2 }

/-- The access of a PGDISC to its pages, by page base (R273). -/
def State.issueDiscard (pages : List Nat) (s : State) : State :=
  if pages = [] then s
  else
    let a := s.newAccess (Vector.replicate 16 0#32) 1 (pages.zipIdx.map fun (p, i) => (i, p)) .discard .none false false
    (s.modT TaskCtx.beginStore).issue a

/-- The loop of PGDISC over its pages, with those found so far that it changes: the pages before a failing one stay discarded (R273). Its
changes are writes of the context, performed at the slices behind its earlier accesses, as one access (R236). (DEDUCED, log 24). -/
def State.discardLoop (lo hi : Nat) : List (Nat × Walk) → List Nat → State → State
  | [], mine, s => (s.issueDiscard mine).retire 4#32
  | (va, .fault c) :: rest, mine, s =>
    if lo ≤ va / 4096 * 4096 ∧ va / 4096 * 4096 + 4095 ≤ hi then (s.issueDiscard mine).trap c (BitVec.ofNat 32 va)
    else discardLoop lo hi rest mine s
  | (_, .leaf l) :: rest, mine, s =>
    if lo ≤ l.base ∧ l.base + l.size - 1 ≤ hi then
      if !l.w then (s.issueDiscard mine).trap .permWrite (BitVec.ofNat 32 l.base)
      else
        match (if l.kind = 4 then s.linkTrap l.home else none) with
        | some tr => (s.issueDiscard mine).trapWith tr
        | none =>
          if l.kind = 4 ∨ l.discards then discardLoop lo hi rest (mine ++ [l.base]) (s.modCore s.who.core (Core.l1Forget s.core.ctxid l))
          else discardLoop lo hi rest mine s
    else discardLoop lo hi rest mine s

/-- PGDISC (R273): counted in ocnt.stores until every affected page has changed. The first invalid index is L, or the first beyond the view;
of a map of code 11, which has no view, L. (DESIGN CHOICE, log 70). -/
def execPgdisc (t n i : BitVec 4) (s : State) : Out :=
  ok (s.inTask fun s => s.withRegs [n, i] [] fun s => s.access fun s =>
    match s.mapAt t with
    | none => s.trap .tmapUnbound (zext t)
    | some m =>
      let k := (s.x n).toNat
      let l := (s.x i).toNat
      if k = 0 then s.retire 4#32 else
      let first := if mapEt m = 11 then none else s.elemVa m l
      let last := if mapEt m = 11 then none else s.elemVa m (l + k - 1)
      match first, last with
      | none, _ => s.trap .tmapRange (BitVec.ofNat 32 l)
      | some _, none => s.trap .tmapRange (BitVec.ofNat 32 (max l (viewSize m s.core.gsize s.core.rank)))
      | some lo, some top =>
        let hi := top + mapEsize m - 1
        if hi < lo then s.trap .tmapRange (BitVec.ofNat 32 (l + k - 1))
        else s.await s.roomForStore fun s =>
          State.discardLoop lo hi (s.pagesIn s.core.ctxid ((hi - lo) / 4096 + 2) lo hi) [] s)

/-- The granules of a page that overlap a range and are not held, fetched under the page's default reuse class (R274): of a page that is only
partly within the first 1 MiB, those within it. (DESIGN CHOICE, log 71). -/
def State.prefetchLines (ctx lo hi : Nat) (l : Leaf) (s : State) : State :=
  if allocates l.reuse then
    let g := granuleBytes l.granule
    let first := max lo l.base / g
    let last := min hi (l.base + l.size - 1) / g
    let missing := ((List.range (last + 1 - first)).map fun i => (first + i) * g).filter fun va => (s.sectorHit ctx va).isNone
    (missing.foldl (fun s va => s.fetchGranule ctx va l) s).noteLines ctx l.reuse (missing.map fun va => (va, l))
  else s

/-- What PGPRE does at a page for a range (R274): it changes no value. -/
def State.prefetch (ctx lo hi : Nat) (w : Nat × Walk) (s : State) : State :=
  match w.2 with
  | .fault _ => s
  | .leaf l =>
    match l.state with
    | 0 => if l.kind = 0 then s.prefetchLines ctx lo hi l else s
    | 5 => s.askPager ctx l.base
    | 2 => s.recall ctx l.base
    | 4 => s.askPager ctx l.base
    | _ => s

/-- PGPRE (R274): never traps; acts on the pages that overlap the first 1 MiB of the range. -/
def execPgpre (t n i : BitVec 4) (s : State) : Out :=
  ok (s.inTask fun s => s.withRegs [n, i] [] fun s =>
    let k := (s.x n).toNat
    let l := (s.x i).toNat
    match s.mapAt t with
    | none => s.retire 4#32
    | some m =>
      match s.elemVa m l, s.elemVa m (l + k - 1) with
      | some lo, some top =>
        if k = 0 ∨ mapEt m = 11 then s.retire 4#32 else
        let hi := min (top + mapEsize m - 1) (lo + 0xFFFFF)
        ((s.pagesIn s.core.ctxid 257 lo hi).foldl (fun s w => s.prefetch s.core.ctxid lo hi w) s).retire 4#32
      | _, _ => s.retire 4#32)

end Sys2Proof.Machine
end

