-- ==== Sys2Proof/Machine/Vectors.lean ====
section
/-! DEFINITION. The vector instructions on registers: integer and floating lanes, conversions, permutes, scalar and vector
moves, reductions, microscaled blocks and bitmaps (R112 to R131). -/

namespace Sys2Proof.Machine

/-! ## Integer lanes (R115) -/


/-- VADD (R115). -/
def execVadd (b e d a : BitVec 3) (p : BitVec 2) (s : State) : Out :=
  vintOp (fun et x y => plain (wrapInt (etBits et) (x + y))) b e d a p s

/-- VSUB (R115). -/
def execVsub (b e d a : BitVec 3) (p : BitVec 2) (s : State) : Out :=
  vintOp (fun et x y => plain (wrapInt (etBits et) (x - y))) b e d a p s

/-- VADDS: saturated (R115). -/
def execVadds (b e d a : BitVec 3) (p : BitVec 2) (s : State) : Out :=
  vintOp (fun et x y => satTo et (x + y)) b e d a p s

/-- VSUBS: saturated (R115). -/
def execVsubs (b e d a : BitVec 3) (p : BitVec 2) (s : State) : Out :=
  vintOp (fun et x y => satTo et (x - y)) b e d a p s

/-- VMUL: the low half of the product (R115). -/
def execVmul (b e d a : BitVec 3) (p : BitVec 2) (s : State) : Out :=
  vintOp (fun et x y => plain (wrapInt (etBits et) (x * y))) b e d a p s

/-- VMULH: bits [2w−1 : w] of the exact product (R115). -/
def execVmulh (b e d a : BitVec 3) (p : BitVec 2) (s : State) : Out :=
  vintOp (fun et x y => plain (wrapInt (etBits et) (x * y / 2 ^ etBits et))) b e d a p s

/-- VMAC: vd is read and written (R115). -/
def execVmac (b e d a : BitVec 3) (p : BitVec 2) (s : State) : Out :=
  ok (s.vector [] [a, b, d] fun t =>
    t.lanewise e.toNat d p fun i => plain (wrapInt (etBits e.toNat)
      (t.laneInt d e.toNat i + t.laneInt a e.toNat i * t.laneInt b e.toNat i)))

/-- VMIN (R115). -/
def execVmin (b e d a : BitVec 3) (p : BitVec 2) (s : State) : Out :=
  vintOp (fun et x y => plain (wrapInt (etBits et) (min x y))) b e d a p s

/-- VMAX (R115). -/
def execVmax (b e d a : BitVec 3) (p : BitVec 2) (s : State) : Out :=
  vintOp (fun et x y => plain (wrapInt (etBits et) (max x y))) b e d a p s

/-- VAND (R115). -/
def execVand (b e d a : BitVec 3) (p : BitVec 2) (s : State) : Out :=
  vbitOp (fun _ x y => x &&& y) b e d a p s

/-- VOR (R115). -/
def execVor (b e d a : BitVec 3) (p : BitVec 2) (s : State) : Out :=
  vbitOp (fun _ x y => x ||| y) b e d a p s

/-- VXOR (R115). -/
def execVxor (b e d a : BitVec 3) (p : BitVec 2) (s : State) : Out :=
  vbitOp (fun _ x y => x ^^^ y) b e d a p s

/-- VANDN: a & not b (R115). -/
def execVandn (b e d a : BitVec 3) (p : BitVec 2) (s : State) : Out :=
  vbitOp (fun w x y => x &&& (y ^^^ (2 ^ w - 1))) b e d a p s

/-- VSHL: 0 when b ≥ w (R115). -/
def execVshl (b e d a : BitVec 3) (p : BitVec 2) (s : State) : Out :=
  vbitOp (fun w x y => if w ≤ y then 0 else x * 2 ^ y) b e d a p s

/-- VSHR: 0 when b ≥ w (R115). -/
def execVshr (b e d a : BitVec 3) (p : BitVec 2) (s : State) : Out :=
  vbitOp (fun w x y => if w ≤ y then 0 else x / 2 ^ y) b e d a p s

/-- VSRA: every bit a copy of bit w−1 when b ≥ w (R115). -/
def execVsra (b e d a : BitVec 3) (p : BitVec 2) (s : State) : Out :=
  vbitOp (fun w x y => wrapInt w (sintOf w x / 2 ^ min y w)) b e d a p s

/-- VABS: the most negative value gives itself (R115). -/
def execVabs (e d a : BitVec 3) (p : BitVec 2) (s : State) : Out :=
  ok (s.vector [] [a, d] fun t =>
    t.lanewise e.toNat d p fun i => plain (wrapInt (etBits e.toNat) (t.laneInt a e.toNat i).natAbs))

/-- VNEG (R115). -/
def execVneg (e d a : BitVec 3) (p : BitVec 2) (s : State) : Out :=
  ok (s.vector [] [a, d] fun t =>
    t.lanewise e.toNat d p fun i => plain (wrapInt (etBits e.toNat) (-t.laneInt a e.toNat i)))

/-- A compare of integer lanes into predicate d (R115). -/
def vcmpOp (f : Int → Int → Bool) (b e : BitVec 3) (d : BitVec 2) (a : BitVec 3) (p : BitVec 2) (s : State) : Out :=
  ok (s.vector [] [a, b] fun t => t.lanePred e.toNat d p fun i => f (t.laneInt a e.toNat i) (t.laneInt b e.toNat i))

/-- VCMPEQ (R115). -/
def execVcmpeq (b e : BitVec 3) (d : BitVec 2) (a : BitVec 3) (p : BitVec 2) (s : State) : Out :=
  vcmpOp (fun x y => x == y) b e d a p s

/-- VCMPLT (R115). -/
def execVcmplt (b e : BitVec 3) (d : BitVec 2) (a : BitVec 3) (p : BitVec 2) (s : State) : Out :=
  vcmpOp (fun x y => x < y) b e d a p s

/-- VCMPLE (R115). -/
def execVcmple (b e : BitVec 3) (d : BitVec 2) (a : BitVec 3) (p : BitVec 2) (s : State) : Out :=
  vcmpOp (fun x y => x ≤ y) b e d a p s

/-- VSEL: pm selects, and every lane is written (R115). -/
def execVsel (b e d a : BitVec 3) (p : BitVec 2) (s : State) : Out :=
  ok (s.vector [] [a, b, d] fun t =>
    t.lanewise e.toNat d 0#2 fun i => plain (if t.active p i then t.lane a e.toNat i else t.lane b e.toNat i))

/-! ## Floating lanes (R116, R117) -/

/-- VFADD (R116). -/
def execVfadd (b e d a : BitVec 3) (p : BitVec 2) (s : State) : Out :=
  vfpOp FVal.add b e d a p s

/-- VFSUB (R116). -/
def execVfsub (b e d a : BitVec 3) (p : BitVec 2) (s : State) : Out :=
  vfpOp (fun x y => x.add y.neg) b e d a p s

/-- VFMUL (R116). -/
def execVfmul (b e d a : BitVec 3) (p : BitVec 2) (s : State) : Out :=
  vfpOp FVal.mul b e d a p s

/-- VFMA: one rounding; vd is read and written (R116). -/
def execVfma (b e d a : BitVec 3) (p : BitVec 2) (s : State) : Out :=
  ok (s.vector [] [a, b, d] fun t =>
    t.lanewise e.toNat d p fun i => (etFmt e.toNat).rne
      ((t.laneF d e.toNat i).add ((t.laneF a e.toNat i).mul (t.laneF b e.toNat i))))

/-- VFMIN (R116). -/
def execVfmin (b e d a : BitVec 3) (p : BitVec 2) (s : State) : Out :=
  vfpOp FVal.least b e d a p s

/-- VFMAX (R116). -/
def execVfmax (b e d a : BitVec 3) (p : BitVec 2) (s : State) : Out :=
  vfpOp FVal.greatest b e d a p s

/-- VFABS (R116). -/
def execVfabs (e d a : BitVec 3) (p : BitVec 2) (s : State) : Out :=
  vfpOne FVal.abs e d a p s

/-- VFNEG (R116). -/
def execVfneg (e d a : BitVec 3) (p : BitVec 2) (s : State) : Out :=
  vfpOne FVal.neg e d a p s

/-- VRCP (R117). -/
def execVrcp (e d a : BitVec 3) (p : BitVec 2) (s : State) : Out :=
  vfpOne FVal.recip e d a p s

/-- VRSQ (R117). -/
def execVrsq (e d a : BitVec 3) (p : BitVec 2) (s : State) : Out :=
  vfpOne FVal.rsqrt e d a p s

/-- VEXP2 (R117). -/
def execVexp2 (e d a : BitVec 3) (p : BitVec 2) (s : State) : Out :=
  vfpOne FVal.exp2 e d a p s

/-- A compare of floating lanes into predicate d; a NaN operand gives 0 (R116). -/
def vfcmpOp (f : FVal → FVal → Bool) (b e : BitVec 3) (d : BitVec 2) (a : BitVec 3) (p : BitVec 2) (s : State) : Out :=
  ok (s.vector [] [a, b] fun t => t.lanePred e.toNat d p fun i => f (t.laneF a e.toNat i) (t.laneF b e.toNat i))

/-- VFCMPEQ (R116). -/
def execVfcmpeq (b e : BitVec 3) (d : BitVec 2) (a : BitVec 3) (p : BitVec 2) (s : State) : Out :=
  vfcmpOp FVal.eq b e d a p s

/-- VFCMPLT (R116). -/
def execVfcmplt (b e : BitVec 3) (d : BitVec 2) (a : BitVec 3) (p : BitVec 2) (s : State) : Out :=
  vfcmpOp FVal.lt b e d a p s

/-- VFCMPLE (R116). -/
def execVfcmple (b e : BitVec 3) (d : BitVec 2) (a : BitVec 3) (p : BitVec 2) (s : State) : Out :=
  vfcmpOp (fun x y => x.lt y || x.eq y) b e d a p s

/-! ## Conversions (R118 to R120) -/

/-- conv of one lane under a rounding mode with the draw r (R118, R36). -/
def convLane (st dt : Nat) (rm : Rm) (r w : Nat) : Res :=
  match etFloat st, etFloat dt with
  | true, true => (etFmt dt).round rm r ((etFmt st).decode w)
  | true, false => ((etFmt st).decode w).toIntType dt rm r
  | false, true => (etFmt dt).round rm r (FVal.ofInt (etInt st w) 0)
  | false, false => satTo dt (etInt st w)

/-- The lanes of VCVT in ascending order, from lane i, with the generator: one draw for each active lane that converts from or
to a float under stochastic rounding (R34, R118). -/
def convLanes (st dt : Nat) (rm : Rm) (a d : Nat → Nat) (act : Nat → Bool) : List Nat → Word → List Res × Word
  | [], g => ([], g)
  | i :: is, g =>
    if min (lanes st) (lanes dt) ≤ i then
      let (rs, g) := convLanes st dt rm a d act is g
      (⟨0, 0#4⟩ :: rs, g)
    else if act i then
      let (r, g) := if rm = .sr ∧ (etFloat st ∨ etFloat dt) then lfsrDraw g else (0, g)
      let (rs, g) := convLanes st dt rm a d act is g
      (convLane st dt rm r (a i) :: rs, g)
    else
      let (rs, g) := convLanes st dt rm a d act is g
      (⟨d i, 0#4⟩ :: rs, g)

/-- VCVT (R118). -/
def execVcvt (so e : BitVec 3) (r : BitVec 2) (d a : BitVec 3) (p : BitVec 2) (s : State) : Out :=
  ok (s.vector [] [a, d] fun t =>
    let dt := e.toNat
    let (rs, g) := convLanes so.toNat dt (rmOfField r.toNat) (t.lane a so.toNat) (t.lane d dt) (t.active p)
      (List.range (lanes dt)) t.lfsr
    { (t.setV d (ofLanes (etBits dt) (rs.map (·.val)))).flag (flagsOf rs) with lfsr := g })

/-- VSCL: rne(q) times the scale plus vd, with one rounding of the sum (R119, R43). -/
def execVscl (b d a : BitVec 3) (p : BitVec 2) (s : State) : Out :=
  ok (s.vector [] [a, b, d] fun t =>
    t.lanewise 7 d p fun i =>
      let q := fmt32.rne (FVal.ofInt (t.laneInt a 4 i) 0)
      let r := fmt32.rne (((fmt32.decode q.val).mul (t.laneF b 7 i)).add (t.laneF d 7 i))
      ⟨r.val, q.fl ||| r.fl⟩)

/-- VTRIT (R120): trits 0 to 29 of bytes 0 to 5; IWC for a byte above 242 whatever the predicate. -/
def execVtrit (d a : BitVec 3) (p : BitVec 2) (s : State) : Out :=
  ok (s.vector [] [a, d] fun t =>
    let byte := t.lane a 0
    (t.lanewise 0 d p fun i => plain (if i < 30 then wrapInt 8 (tritAt byte i) else 0)).flag
      (if (List.range 6).any fun j => 242 < byte j then 1#4 else 0#4))

/-- A lane of VPACKT taken by its sign, with SAT outside −1 to 1 (R120). -/
def signTrit (x : Int) : Trit × BitVec 4 := (x.sign, if x.natAbs ≤ 1 then 0#4 else 2#4)

/-- VPACKT (R120): an inactive lane reads as 0; bytes 6 to 31 become zero. -/
def execVpackt (d a : BitVec 3) (p : BitVec 2) (s : State) : Out :=
  ok (s.vector [] [a, d] fun t =>
    let ts := (List.range 30).map fun i => if t.active p i then signTrit (t.laneInt a 0 i) else (0, 0#4)
    let bytes := (List.range 6).map fun j => t5Byte ((List.range 5).map fun k => (ts.getD (5 * j + k) (0, 0#4)).1)
    (t.setV d (ofLanes 8 bytes)).flag (ts.foldr (fun x f => x.2 ||| f) 0#4))

/-! ## Permutes (R121) -/

/-- VMOV (R121). -/
def execVmov (e d a : BitVec 3) (p : BitVec 2) (s : State) : Out :=
  ok (s.vector [] [a, d] fun t => t.lanewise e.toNat d p fun i => plain (t.lane a e.toNat i))

/-- VPERM (R121): 0 for an index at or above the lane count. -/
def execVperm (b e d a : BitVec 3) (p : BitVec 2) (s : State) : Out :=
  ok (s.vector [] [a, b, d] fun t =>
    t.lanewise e.toNat d p fun i =>
      let k := t.lane b e.toNat i
      plain (if k < lanes e.toNat then t.lane a e.toNat k else 0))

/-- VCOMPR (R121): pm selects; every lane is written. -/
def execVcompr (e d a : BitVec 3) (p : BitVec 2) (s : State) : Out :=
  ok (s.vector [] [a, d] fun t =>
    t.setV d (ofLanes (etBits e.toNat) (((List.range (lanes e.toNat)).filter (t.active p)).map (t.lane a e.toNat))))

/-- Lanes 0, 1, … of a source given to the selected lanes in ascending order, 0 to the others (R121). -/
def expandLanes (src : Nat → Nat) (sel : Nat → Bool) : List Nat → Nat → List Nat
  | [], _ => []
  | i :: is, n => if sel i then src n :: expandLanes src sel is (n + 1) else 0 :: expandLanes src sel is n

/-- VEXPND (R121): pm selects; every lane is written. -/
def execVexpnd (e d a : BitVec 3) (p : BitVec 2) (s : State) : Out :=
  ok (s.vector [] [a, d] fun t =>
    t.setV d (ofLanes (etBits e.toNat)
      (expandLanes (t.lane a e.toNat) (t.active p) (List.range (lanes e.toNat)) 0)))

/-- The interleaving of lanes from one half of two registers (R121). -/
def vzipOp (half : Nat) (b e d a : BitVec 3) (p : BitVec 2) (s : State) : Out :=
  ok (s.vector [] [a, b, d] fun t =>
    t.lanewise e.toNat d p fun i =>
      plain (t.lane (if i % 2 = 0 then a else b) e.toNat (half * (lanes e.toNat / 2) + i / 2)))

/-- VZIPL (R121). -/
def execVzipl (b e d a : BitVec 3) (p : BitVec 2) (s : State) : Out :=
  vzipOp 0 b e d a p s

/-- VZIPH (R121). -/
def execVziph (b e d a : BitVec 3) (p : BitVec 2) (s : State) : Out :=
  vzipOp 1 b e d a p s

/-- VREV (R121). -/
def execVrev (e d a : BitVec 3) (p : BitVec 2) (s : State) : Out :=
  ok (s.vector [] [a, d] fun t =>
    t.lanewise e.toNat d p fun i => plain (t.lane a e.toNat (lanes e.toNat - 1 - i)))

/-! ## Scalar and vector (R122 to R124) -/

/-- A vector instruction that also writes a scalar register. -/
def State.vectorX (xs : List (BitVec 4)) (vs : List (BitVec 3)) (f : State → State) (s : State) : State :=
  s.inTask fun s => s.withRegs xs vs fun s => (f s).retire 4#32

/-- VBCAST (R122). -/
def execVbcast (x : BitVec 4) (e d : BitVec 3) (p : BitVec 2) (s : State) : Out :=
  ok (s.vectorX [x] [d] fun s =>
    let w := s.x x
    s.modT fun t => t.lanewise e.toNat d p fun _ => plain w.toNat)

/-- VEXT: 0 when the lane is inactive (R122). -/
def execVext (x : BitVec 4) (e : BitVec 3) (l : BitVec 5) (a : BitVec 3) (p : BitVec 2) (s : State) : Out :=
  ok (s.vectorX [x] [a] fun s =>
    s.setX x (if s.task.active p l.toNat then extendLane e.toNat (s.task.lane a e.toNat l.toNat) else 0#32))

/-- VINS (R122). -/
def execVins (x : BitVec 4) (e : BitVec 3) (l : BitVec 5) (d : BitVec 3) (p : BitVec 2) (s : State) : Out :=
  ok (s.vectorX [x] [d] fun s =>
    let w := s.x x
    s.modT fun t => t.lanewise e.toNat d p fun i => plain (if i = l.toNat then w.toNat else t.lane d e.toNat i))

/-- VSLIDE (R122). -/
def execVslide (x : BitVec 4) (e : BitVec 3) (n : BitVec 5) (d a : BitVec 3) (p : BitVec 2) (s : State) : Out :=
  ok (s.vectorX [x] [a, d] fun s =>
    let w := s.x x
    s.modT fun t => t.lanewise e.toNat d p fun i =>
      plain (if i + n.toNat < lanes e.toNat then t.lane a e.toNat (i + n.toNat) else w.toNat))

/-- VNZC (R123). -/
def execVnzc (x : BitVec 4) (e a : BitVec 3) (p : BitVec 2) (s : State) : Out :=
  ok (s.vectorX [x] [a] fun s =>
    let t := s.task
    s.setX x (extendLane e.toNat ((List.range (lanes e.toNat)).countP fun i =>
      t.active p i && nonzeroElem e.toNat (t.lane a e.toNat i))))

/-- A reduction of the active lanes in the tree of R44, inactive lanes entering as z, written to x (R123). -/
def State.reduce (x : BitVec 4) (et : Nat) (a : BitVec 3) (p : BitVec 2) (z : Nat) (f : Nat → Nat → Res) (s : State) :
    State :=
  s.vectorX [x] [a] fun s =>
    let t := s.task
    let r := treeOf f ((List.range (lanes et)).map fun i => plain (if t.active p i then t.lane a et i else z))
    (s.modT (TaskCtx.flag r.fl)).setX x (extendLane et r.val)

/-- A combination of two floating lanes, rounded (R44). -/
def combineF (et : Nat) (f : FVal → FVal → FVal) (x y : Nat) : Res :=
  (etFmt et).rne (f ((etFmt et).decode x) ((etFmt et).decode y))

/-- VSUMR (R123, R44). -/
def execVsumr (x : BitVec 4) (e a : BitVec 3) (p : BitVec 2) (s : State) : Out :=
  let et := e.toNat
  ok (s.reduce x et a p 0 (if etFloat et then combineF et FVal.add
    else fun u v => plain ((u + v) % 2 ^ etBits et)))

/-- VMAXR (R123, R44). -/
def execVmaxr (x : BitVec 4) (e a : BitVec 3) (p : BitVec 2) (s : State) : Out :=
  let et := e.toNat
  ok (s.reduce x et a p (if etFloat et then (etFmt et).infinity true else wrapInt (etBits et) (etMin et))
    (if etFloat et then combineF et FVal.greatest
     else fun u v => plain (if etInt et u < etInt et v then v else u)))

/-- The type of twice the width and the same signedness (R124). -/
def wider (et : Nat) : Nat := et + 2
/-- The type of half the width and the same signedness (R124). -/
def narrower (et : Nat) : Nat := et - 2

/-- VNARROW (R124): vs1 is the even register of a pair. -/
def execVnarrow (e : BitVec 3) (sh : BitVec 5) (d : BitVec 3) (a p : BitVec 2) (s : State) : Out :=
  ok (s.vector [] [a ++ 0#1, a ++ 1#1, d] fun t =>
    let st := wider e.toNat
    let m := lanes st
    t.lanewise e.toNat d p fun i =>
      narrowTo e.toNat (if i < m then t.laneInt (a ++ 0#1) st i else t.laneInt (a ++ 1#1) st (i - m)) sh.toNat)

/-- VWIDEN (R124). -/
def execVwiden (e : BitVec 3) (h : BitVec 1) (d a : BitVec 3) (p : BitVec 2) (s : State) : Out :=
  ok (s.vector [] [a, d] fun t =>
    t.lanewise e.toNat d p fun i => plain (wrapInt (etBits e.toNat)
      (t.laneInt a (narrower e.toNat) (h.toNat * lanes e.toNat + i))))

/-! ## Microscaled blocks (R125, R126) -/

/-- Register j of the quad that starts at v0 or v4 (R125). -/
def quadReg (q : BitVec 1) (j : Nat) : BitVec 3 := q ++ BitVec.ofNat 2 j
/-- The registers of a quad. -/
def quadRegs (q : BitVec 1) : List (BitVec 3) := (List.range 4).map (quadReg q)
/-- Element k of a quad of f32 registers (R125). -/
def TaskCtx.quadElem (t : TaskCtx) (q : BitVec 1) (k : Nat) : FVal := t.laneF (quadReg q (k / 8)) 7 (k % 8)

/-- A quantised block written to d with its scale in x (R125, R126). -/
def State.writeBlock (d : BitVec 3) (x : BitVec 4) (fs : List FVal) (s : State) : State :=
  let (e, qs) := quantise fs
  (s.modT fun t => (t.setV d (ofLanes 8 (qs.map (·.val)))).flag (flagsOf qs)).setX x (BitVec.ofNat 32 e)

/-- VMXQ (R125). -/
def execVmxq (x : BitVec 4) (d : BitVec 3) (q : BitVec 1) (p : BitVec 2) (s : State) : Out :=
  ok (s.vectorX [x] (d :: quadRegs q) fun s =>
    let t := s.task
    s.writeBlock d x ((List.range 32).map fun k => if t.active p k then t.quadElem q k else .fin false 0 0))

/-- One register of a dequantised quad (R125). (DEDUCED, log 50). -/
def TaskCtx.dequantise (e : Nat) (a : BitVec 3) (q : BitVec 1) (p : BitVec 2) (j : Nat) (src t : TaskCtx) : TaskCtx :=
  let rs := (List.range 8).map fun i =>
    if src.active p (8 * j + i) then fmt32.rne (mx8Val (src.lane a 0 (8 * j + i)) e)
    else ⟨src.lane (quadReg q j) 7 i, 0#4⟩
  (t.setV (quadReg q j) (ofLanes 32 (rs.map (·.val)))).flag (flagsOf rs)

/-- VMXD (R125): with e = 0xFF every active element is the canonical NaN, which sets NAN (R32, R114). (DEDUCED, log 50). -/
def execVmxd (x : BitVec 4) (q : BitVec 1) (a : BitVec 3) (p : BitVec 2) (s : State) : Out :=
  ok (s.vectorX [x] (a :: quadRegs q) fun s =>
    let e := (s.x x).toNat % 256
    s.modT fun t =>
      (List.range 4).foldl (fun u j => TaskCtx.dequantise e a q p j t u) t)

/-- BADQ (R126): the blocks' sum is exact before it is quantised. -/
def execBadq (x : BitVec 4) (d a : BitVec 3) (p : BitVec 2) (s : State) : Out :=
  ok (s.vectorX [x] [d, a] fun s =>
    let t := s.task
    let ea := (s.x x).toNat % 256
    let eb := (s.x x).toNat / 256 % 256
    s.writeBlock d x ((List.range 32).map fun k =>
      if ea = 255 ∨ eb = 255 then .nan
      else if t.active p k then (mx8Val (t.lane d 0 k) ea).add (mx8Val (t.lane a 0 k) eb) else .fin false 0 0))

/-! ## VCLEAR (R127) -/

/-- The vector registers and the predicates p1 to p3 become zero, and VL is cleared (R127). -/
def TaskCtx.clearVectors (t : TaskCtx) : TaskCtx :=
  { t with v := Vector.replicate 8 0#256, p := ((t.p.set 1 0#32).set 2 0#32).set 3 0#32, vl := false }

/-- Every vector register. -/
def allVregs : List (BitVec 3) := [0#3, 1#3, 2#3, 3#3, 4#3, 5#3, 6#3, 7#3]

/-- VCLEAR of n bytes: waits until no vector register is pending (R127). -/
def State.vclear (n : Word) (s : State) : State :=
  s.inTask fun s => s.withRegs [] allVregs fun s => (s.modT TaskCtx.clearVectors).retire n

/-- VCLEAR (R127). -/
def execVclear  (s : State) : Out :=
  ok (s.vclear 4#32)

/-- C.VCLEAR (R62, R127). -/
def execCVclear  (s : State) : Out :=
  ok (s.vclear 2#32)

/-! ## Bitmaps (R128 to R131) -/

/-- The set bits of a register below position n. -/
def bitsBelow (v : Vec) (n : Nat) : Nat := (List.range n).countP fun i => v.getLsbD i

/-- A bitwise bitmap operation on the active byte lanes, with xc ← 0 and xn ← the bits of the result (R128). -/
def vbmOp (f : Nat → Nat → Nat) (b d a : BitVec 3) (p : BitVec 2) (s : State) : Out :=
  ok (s.vector [] [a, b, d] fun t =>
    let u := t.lanewise 0 d p fun i => plain (f (t.lane a 0 i) (t.lane b 0 i))
    { u with xc := 0#32, xn := BitVec.ofNat 32 (bitsBelow (u.vreg d) 256) })

/-- VBAND (R128). -/
def execVband (b d a : BitVec 3) (p : BitVec 2) (s : State) : Out :=
  vbmOp (fun x y => x &&& y) b d a p s

/-- VBOR (R128). -/
def execVbor (b d a : BitVec 3) (p : BitVec 2) (s : State) : Out :=
  vbmOp (fun x y => x ||| y) b d a p s

/-- VPOPP: prefix counts of 16-bit chunks in the n16 lanes (R129). -/
def execVpopp (d a : BitVec 3) (p : BitVec 2) (s : State) : Out :=
  ok (s.vector [] [a, d] fun t => t.lanewise 3 d p fun k => plain (bitsBelow (t.vreg a) (16 * k)))

/-- The positions from c on that are set in both bitmaps, ascending. -/
def commonFrom (x y : Vec) (c : Nat) : List Nat :=
  (List.range 256).filter fun i => c ≤ i && x.getLsbD i && y.getLsbD i

/-- VXSECT on the task context (R130): pd is encoded in pm. -/
def TaskCtx.xsect (b d a : BitVec 3) (pd : BitVec 2) (t : TaskCtx) : TaskCtx :=
  let x := t.vreg a
  let y := t.vreg b
  let common := commonFrom x y t.xc.toNat
  let hits := common.take 16
  let n := hits.length
  let ends := (common.drop 16).isEmpty
  let c := if 256 ≤ t.xc.toNat then t.xc
    else if ends then 256#32 else BitVec.ofNat 32 (hits.getLastD 0 + 1)
  let t := t.setV d (ofLanes 16 (hits.map fun i => bitsBelow y i * 256 + bitsBelow x i))
  let t := if pd = 0#2 then t else t.setP pd (BitVec.ofNat 32 (2 ^ n - 1))
  { t with xn := BitVec.ofNat 32 n, xc := c }

/-- VXSECT (R130). -/
def execVxsect (b d a : BitVec 3) (p : BitVec 2) (s : State) : Out :=
  ok (s.vector [] [a, b, d] (TaskCtx.xsect b d a p))

/-- VNZM (R131). -/
def execVnzm (e : BitVec 3) (d : BitVec 2) (a : BitVec 3) (p : BitVec 2) (s : State) : Out :=
  ok (s.vector [] [a] fun t => t.lanePred e.toNat d p fun i => nonzeroElem e.toNat (t.lane a e.toNat i))

/-! ## Local vector memory (R132, R133) -/

/-- The checks of VLD and VST and of each element of VLDX and VSTX: range of n bytes, alignment, protection (R132, R133). -/
def vectorFault (a : Word) (n al : Nat) (store : Bool) : Option Trap :=
  if 0x7FFF < a.toNat + n - 1 then some ⟨.localRange, false, a⟩
  else if a.toNat % al ≠ 0 then some ⟨.misaligned, false, a⟩
  else if store && 0x7000 ≤ a.toNat + n - 1 && a.toNat < 0x7C00 then some ⟨.localProtect, false, a⟩
  else none

/-- The address of VLD and VST: the 11-bit field counts words (R56, R132). -/
def State.addrV (s : State) (x : BitVec 4) (i : BitVec 11) : Word := s.x x + 4#32 * sext i

/-- A vector register from 32 bytes, byte 0 lowest. -/
def vecOfBytes (bs : List Byte) : Vec := BitVec.ofNat 256 (leNat bs)

/-- VLD (R132). -/
def execVld (i : BitVec 11) (v : BitVec 3) (x : BitVec 4) (s : State) : Out :=
  ok (s.inTask fun s => s.withRegs [x] [v] fun s => s.access fun s =>
    let a := s.addrV x i
    s.checked (vectorFault a 32 4 false) fun s => s.await (s.ownClear a.toNat 32) fun s =>
      (s.modT (TaskCtx.setV v (vecOfBytes (s.core.lm.bytes a.toNat 32)))).retire 4#32)

/-- VST (R132). -/
def execVst (i : BitVec 11) (v : BitVec 3) (x : BitVec 4) (s : State) : Out :=
  ok (s.inTask fun s => s.withRegs [x] [v] fun s => s.access fun s =>
    let a := s.addrV x i
    s.checked (vectorFault a 32 4 true) fun s => s.await (s.ownClear a.toNat 32) fun s =>
      let words := (List.range 8).map fun k => a.toNat + 4 * k
      (s.modCore s.who.core fun c =>
        { c.ageAll s.who.ctx words with lm := c.lm.setBytes a.toNat (leBytes 32 (s.task.vreg v).toNat) }).retire 4#32)

/-- The element size of VLDX and VSTX (R133). -/
def idxSize (z : BitVec 2) : Nat := 2 ^ z.toNat
/-- The element count of VLDX and VSTX (R133). -/
def idxCount (z : BitVec 2) : Nat := if z = 2#2 then 8 else 16
/-- The element addresses of VLDX and VSTX, ascending (R133). -/
def State.idxAddrs (s : State) (i : BitVec 3) (z : BitVec 2) (x : BitVec 4) : List Word :=
  (List.range (idxCount z)).map fun k => s.x x + BitVec.ofNat 32 (s.task.lane i 3 k * idxSize z)
/-- The trap of the lowest element that fails its check (R133). -/
def idxFault (as : List Word) (z : BitVec 2) (store : Bool) : Option Trap :=
  (as.filterMap fun a => vectorFault a (idxSize z) (idxSize z) store).head?

/-- VLDX (R133): lanes 16 to 31 of bytes become 0. -/
def execVldx (i : BitVec 3) (z : BitVec 2) (v : BitVec 3) (x : BitVec 4) (s : State) : Out :=
  ok (s.inTask fun s => s.withRegs [x] [i, v] fun s => s.access fun s =>
    let as := s.idxAddrs i z x
    s.checked (idxFault as z false) fun s => s.await (as.all fun a => s.ownClear a.toNat (idxSize z)) fun s =>
      (s.modT (TaskCtx.setV v (ofLanes (8 * idxSize z)
        (as.map fun a => s.core.lm.le a.toNat (idxSize z))))).retire 4#32)

/-- VSTX (R133): stored in ascending element order. -/
def execVstx (i : BitVec 3) (z : BitVec 2) (v : BitVec 3) (x : BitVec 4) (s : State) : Out :=
  ok (s.inTask fun s => s.withRegs [x] [i, v] fun s => s.access fun s =>
    let as := s.idxAddrs i z x
    let n := idxSize z
    s.checked (idxFault as z true) fun s => s.await (as.all fun a => s.ownClear a.toNat (idxSize z)) fun s =>
      let put (m : Mem) (e : Word × Nat) : Mem := m.setLe e.1.toNat n (laneOf (s.task.vreg v) (8 * n) e.2)
      (s.modCore s.who.core fun c =>
        { Core.ageAll s.who.ctx (as.map BitVec.toNat) c with lm := as.zipIdx.foldl put c.lm }).retire 4#32)

end Sys2Proof.Machine
end

