-- ==== Sys2Proof/Machine/Transfers.lean ====
section
/-! DEFINITION. Transfers: the launch of copies, gathers and scatter-adds, their chunks and rows, the threshold unit, their
ends and faults, and CPTEST, CPCANCEL and CPWAIT (R191 to R209, R213). -/

namespace Sys2Proof.Machine

/-! ## The shadow words of a transfer (R194, R206) -/

/-- Word i of a transfer's shadow set. -/
def Transfer.w (t : Transfer) (i : Nat) : Nat := (t.sh.getD i 0#32).toNat
/-- The mode word of a transfer. -/
def Transfer.mode (t : Transfer) : Nat := t.w 5
/-- Whether it is a copy. -/
def Transfer.isCopy (t : Transfer) : Bool := t.kind == .copy
/-- Q: a record is pushed (R194, R206, R346). -/
def Transfer.q (t : Transfer) : Bool :=
  match t.kind with
  | .copy => bits t.mode 13 1 == 1
  | .gather | .scatterAdd => bits t.mode 10 1 == 1
  | .send => bits (t.w 1) 18 1 == 1
/-- BAR: a barrier is bound (R194, R206). -/
def Transfer.bar (t : Transfer) : Bool :=
  match t.kind with
  | .copy => bits t.mode 12 1 == 1
  | .gather | .scatterAdd => bits t.mode 9 1 == 1
  | .send => false
/-- The count that an arrival names (R194, R206). -/
def Transfer.pslot (t : Transfer) : Nat := if t.isCopy then bits t.mode 9 3 else bits t.mode 6 3
/-- The first chunk bit (R194, R206). -/
def Transfer.cbase (t : Transfer) : Nat := if t.isCopy then bits t.mode 22 5 else bits t.mode 11 5
/-- The reuse class (R194, R206). -/
def Transfer.reuse (t : Transfer) : Nat := if t.isCopy then bits t.mode 7 2 else bits t.mode 4 2
/-- The ordered channel (R194). -/
def Transfer.chan (t : Transfer) : Nat := bits t.mode 5 2
/-- Whether a copy delivers in order (R194). -/
def Transfer.ordered (t : Transfer) : Bool := t.isCopy && bits t.mode 4 1 == 0
/-- The barrier reference (R194, R206). -/
def Transfer.bref (t : Transfer) : Nat := t.w 6

/-- Where a barrier reference points (R195): its core's record, or a virtual address. -/
def barPlace (ctx ref : Nat) (m : Option Rec) : BarPlace :=
  if bits ref 31 1 = 0 then .loc (bits ref 13 18) (4 * bits ref 0 13)
  else .vault ctx (((m.map mapBase).getD 0 + bits ref 0 27) % 2 ^ 48)

/-! ## Endpoints (R194, R196) -/

/-- An endpoint: local memory with its element code and address, or a map's view from a linear index. -/
inductive EndPt where
  | loc (code a : Nat)
  | view (m : Rec) (l : Nat)
  deriving DecidableEq, Repr

/-- The byte size of an element code (R196). -/
def codeSize (c : Nat) : Nat := if c < 8 then etBytes c else 1

/-- The endpoint that a register pair and its map describe (R194). -/
def endPt (reg idx : Nat) (m : Option Rec) : EndPt :=
  match m with
  | some m => .view m idx
  | none => .loc (bits reg 8 4) idx

/-- The element code of an endpoint (R196). -/
def EndPt.code : EndPt → Nat
  | .loc c _ => c
  | .view m _ => mapEt m

/-- The place of element (r, c) of a region whose rows are pitch elements long (R196), for a core of rank k of g. -/
def EndPt.spot (e : EndPt) (g k r c pitch : Nat) : Spot :=
  match e with
  | .loc code a => .loc (a + (r * pitch + c) * codeSize code)
  | .view m l =>
    let e0 := viewExtent m g k 0
    if l % e0 + c < e0 then
      match viewVa m g k (l + r * e0 + c) with
      | some va => .va va
      | none => .none
    else .none

/-- Whether an invalid element of an endpoint faults (R196). -/
def EndPt.edge : EndPt → Bool
  | .loc .. => false
  | .view m _ => mapEdge m

/-- What an invalid source element reads as (R196). -/
def fillBytes (code : Nat) : List Byte := if code = 8 then [121#8] else List.replicate (codeSize code) 0#8

/-! ## A copy (R196 to R198) -/

/-- The source endpoint of a copy. -/
def Transfer.src (t : Transfer) : EndPt := endPt (t.w 0) (t.w 1) t.srcMap
/-- The destination endpoint: of a copy, or gp.dst (R206). -/
def Transfer.dst (t : Transfer) : EndPt :=
  if t.isCopy then endPt (t.w 2) (t.w 3) t.dstMap else endPt (t.w 3) (t.w 4) t.dstMap
/-- The rows of a copy. -/
def Transfer.rows (t : Transfer) : Nat := bits (t.w 4) 16 16
/-- The columns of a copy, in trits for threshold and t5-to-s8. -/
def Transfer.cols (t : Transfer) : Nat := bits (t.w 4) 0 16
/-- The operation of a copy (R194). -/
def Transfer.op (t : Transfer) : Nat := bits t.mode 0 2
/-- The threshold group length (R194). -/
def Transfer.g (t : Transfer) : Nat := bits t.mode 14 8

/-- The destination elements of a row: bytes of five trits for the threshold operation (R196). -/
def Transfer.dcols (t : Transfer) : Nat := if t.op = 2 then (t.cols + 4) / 5 else t.cols
/-- The source elements of a row: bytes of five trits for t5-to-s8 (R196). -/
def Transfer.scols (t : Transfer) : Nat := if t.op = 1 ∧ t.src.code = 8 then (t.cols + 4) / 5 else t.cols

/-- How many chunks a stream of bytes has (R198). -/
def chunksOf (bytes : Nat) : Nat := (bytes + 511) / 512

/-- The destination elements of a chunk: from and how many (R198). -/
def Transfer.chunkElems (t : Transfer) (k : Nat) : List Nat :=
  let per := 512 / codeSize t.dst.code
  (List.range (min per (t.rows * t.dcols - k * per))).map (k * per + ·)

/-- What reading a list of places came to. -/
inductive Got where
  | vals (vs : List (List Byte))
  | fault (c : Cause) (va : Nat)
  | wait
  deriving DecidableEq, Repr

/-- The bytes read, shared out over the places. -/
def share (lm : Mem) (fill : List Byte) (size : Nat) : List Spot → List Byte → List (List Byte)
  | [], _ => []
  | .loc a :: ps, bs => lm.bytes a size :: share lm fill size ps bs
  | .va _ :: ps, bs => bs.take size :: share lm fill size ps (bs.drop size)
  | .none :: ps, bs => fill :: share lm fill size ps bs

/-- The source places of an engine read for a core: local memory, memory, or fills (R196, R198). -/
def State.readSpots (e : Engine) (core reuse code : Nat) (edge : Option Cause) (ps : List Spot) (s : State) : Got × State :=
  match edge, ps.contains .none with
  | some c, true => (.fault c 0, s)
  | _, _ =>
    let size := codeSize code
    let rs := ps.filterMap fun p =>
      match p with
      | .va a => some (a, size)
      | _ => none
    match s.engineRead e (s.coreAt core).ctxid reuse rs with
    | (.wait, s) => (.wait, s)
    | (.fault c va, s) => (.fault c va, s)
    | (.done bs, s) => (.vals (share (s.coreAt core).lm (fillBytes code) size ps bs), s)

/-- The destination places of an engine write for a core; invalid ones are dropped (R196, R198). -/
def State.writeSpots (e : Engine) (core reuse : Nat) (ws : List (Spot × List Byte)) (s : State) (counted : List Nat := []) :
    Progress × State :=
  let far := ws.filterMap fun (p, bs) =>
    match p with
    | .va a => some (a, bs)
    | _ => none
  match s.engineWrite e (s.coreAt core).ctxid reuse far counted with
  | (.done _, s) =>
    (.done [], ws.foldl (fun s (p, bs) =>
      match p with
      | .loc a => s.setLocalBytes core a bs
      | _ => s) s)
  | r => r

/-- The engine's generator before element i: one draw for each element that a float conversion has passed (R197). -/
def drawAt : Nat → Word → Nat × Word
  | 0, g => lfsrDraw g
  | i + 1, g => drawAt i (lfsrDraw g).2

/-- One element of a copy that is no threshold: its bytes and its flags (R197). -/
def Transfer.convert (t : Transfer) (i : Nat) (bs : List Byte) : List Byte × BitVec 4 :=
  let sc := t.src.code
  let dc := t.dst.code
  if t.op ≠ 1 then (bs, 0#4)
  else if sc = 8 then
    let (ts, bad) := tritsOf (bs.headD 0#8).toNat
    ([BitVec.ofInt 8 (ts.getD (i % t.dcols % 5) 0)], if bad then 1#4 else 0#4)
  else
    let rm := rmOfField (bits t.mode 2 2)
    let r := if rm = .sr ∧ (etFloat sc ∨ etFloat dc) then (drawAt i t.lfsr).1 else 0
    let v := convLane sc dc rm r (leNat bs)
    (leBytes (codeSize dc) v.val, v.fl)

/-! ## The threshold unit (R205) -/

/-- What the threshold unit makes of a group: trits, its scale, and whether a NaN was met. -/
structure Group3 where
  trits : List Trit
  scale : Nat
  nan   : Bool
  deriving DecidableEq, Repr

/-- One group of bf16 values (R205). -/
def thresholdGroup (theta rcp : Nat) (ws : List Nat) : Group3 :=
  let vs := ws.map fmt16.decode
  let sum := vs.foldl (fun acc v =>
    if v.isNan then acc else (fmt32.rne ((fmt32.decode acc).add v.abs)).val) 0
  let sc := (fmt32.rne ((fmt32.decode sum).mul (fmt32.decode rcp))).val
  let thr := fmt32.decode (fmt32.rne ((fmt32.decode theta).mul (fmt32.decode sc))).val
  let zero : FVal := .fin false 0 0
  let trit (v : FVal) : Trit :=
    if v.isNan || thr.isNan || !thr.lt v.abs || !zero.lt v.abs then 0 else if v.lt zero then -1 else 1
  { trits := vs.map trit, scale := (fmt16.rne (fmt32.decode sc)).val, nan := vs.any fun v => v.isNan || thr.isNan }

/-- The groups of a row that a list of destination bytes belongs to, as row and group numbers. -/
def Transfer.groupsOf (t : Transfer) (es : List Nat) : List (Nat × Nat) :=
  (es.map fun i => (i / t.dcols, 5 * (i % t.dcols) / t.g)).eraseDups

/-- The last destination byte of a group, as its element number (R205). -/
def Transfer.groupLast (t : Transfer) (rg : Nat × Nat) : Nat := rg.1 * t.dcols + min t.dcols ((rg.2 + 1) * t.g / 5) - 1

/-- The columns of a group. -/
def Transfer.groupCols (t : Transfer) (b : Nat) : List Nat :=
  (List.range (min t.g (t.cols - b * t.g))).map (b * t.g + ·)

/-- The address of a group's scale; none at a local endpoint, which has no scale array (assumption 10), and for a group none
of whose bytes is valid (R164, R205). (DEDUCED, log 10). -/
def Transfer.scaleSpot (t : Transfer) (gs k : Nat) (rg : Nat × Nat) : Spot :=
  match t.dst with
  | .loc .. => .none
  | .view m l =>
    let e0 := viewExtent m gs k 0
    let first := rg.2 * t.g / 5
    match t.dst.spot gs k rg.1 first 0 with
    | .va _ =>
      let (_, i1, i2, i3) := viewIndices m gs k (l + rg.1 * e0)
      let j := i1 + mapDim m 1 * (i2 + mapDim m 2 * i3)
      let per := (5 * mapDim m 0 + t.g - 1) / t.g
      .va ((mapBase m + mapScale m + 2 * (j * per + (5 * (l % e0) / t.g + rg.2))) % 2 ^ 48)
    | _ => .none

/-- Whether a threshold copy's destination starts at a group (R205). -/
def Transfer.aligned3 (t : Transfer) (gs k : Nat) : Bool :=
  t.op != 2 || (match t.dst with
    | .loc .. => true
    | .view m l => l % viewExtent m gs k 0 % (t.g / 5) == 0)

/-- The writes of a threshold chunk from the values of its groups: the scales of the groups that end in it, then the bytes
(R205). -/
def Transfer.thresholdWrites (t : Transfer) (gs k : Nat) (es : List Nat) (groups : List ((Nat × Nat) × Group3)) :
    List (Spot × List Byte) :=
  let scales := (groups.filter fun g => es.contains (t.groupLast g.1)).map fun g =>
    (t.scaleSpot gs k g.1, leBytes 2 g.2.scale)
  let byte (i : Nat) : Nat :=
    let r := i / t.dcols
    let c := i % t.dcols
    let b := 5 * c / t.g
    match groups.find? fun g => g.1 == (r, b) with
    | some g => t5Byte ((g.2.trits.drop (5 * c - b * t.g)).take 5)
    | none => 121
  scales ++ es.map fun i => (t.dst.spot gs k (i / t.dcols) (i % t.dcols) t.dcols, [BitVec.ofNat 8 (byte i)])

/-- The values of the groups, in their order. -/
def Transfer.thresholdGroups (t : Transfer) : List (Nat × Nat) → List (List Byte) → List ((Nat × Nat) × Group3)
  | [], _ => []
  | rg :: rest, vs =>
    let n := (t.groupCols rg.2).length
    (rg, thresholdGroup (t.w 7) (t.w 8) ((vs.take n).map leNat)) :: t.thresholdGroups rest (vs.drop n)

/-! ## Slots and IDs (R191, R192, R203) -/

/-- A transfer slot. -/
def State.slotT (s : State) (core slot : Nat) : Transfer := (s.coreAt core).slotAt slot

/-- The state with a transfer slot changed. -/
def State.modSlot (core slot : Nat) (f : Transfer → Transfer) (s : State) : State := s.modCore core (Core.modSlot slot f)

/-- The task context that issued a transfer (R192). -/
def Transfer.issuer (t : Transfer) (core : Nat) : Issuer := ⟨core, if t.tc then .tc1 else .tc0⟩

/-- Whether an ID is current (R191). -/
def Core.idCurrent (c : Core) (id : Word) : Bool :=
  let t := c.slotAt (id.toNat % 256)
  t.launched && t.gen.toNat == bits id.toNat 8 8

/-- The status that the transfer instructions return (R203). -/
def Core.status (c : Core) (id : Word) : Nat :=
  let t := c.slotAt (id.toNat % 256)
  if !c.idCurrent id then 3
  else if t.state = .active ∨ t.state = .saved then 0
  else if t.cancelled then 2 else 1

/-- The lowest FREE slot of a core (R192). -/
def Core.freeSlot (c : Core) : Option Nat := (List.range 256).find? fun k => (c.slotAt k).state == .free

/-- The row events of a slot that no longer matter. -/
def slotEvent (core slot : Nat) : Event → Bool
  | .rowRequest c k _ | .gatherRow c k _ | .scatterAddRow c k _ | .localGather c k _ | .localScatterAdd c k _
  | .chunkFault c k _ _ _ => c == core && k == slot
  | _ => false

/-- Whether a fetch serves a transfer slot. -/
def Engine.ofSlot (core slot : Nat) : Engine → Bool
  | .chunk c k _ | .row c k _ | .pull _ c k _ => c == core && k == slot
  | _ => false

/-- A row message to an owner core, of classes 10 and 11: the core, the slot and the request (R182, R208). -/
def rowMessage : Event → Option (Nat × Nat × Nat)
  | .localGather c k m | .localScatterAdd c k m => some (c, k, m)
  | _ => none

/-- What is on its way for a slot is dropped; a row message that its owner core has not taken counts as received there (R320). -/
def State.dropSlotEvents (core slot : Nat) (s : State) : State :=
  let t := s.slotT core slot
  let mine := (s.pending.filterMap rowMessage).filter fun e => e.1 == core && e.2.1 == slot && !t.heard.contains e.2.2
  let s := mine.foldl (fun s e =>
    match t.pieces.find e.2.2 with
    | some (_, _, some owner) => s.accept (s.coreAt core).group core owner
    | _ => s) s
  { s with pending := s.pending.filter fun e => !slotEvent core slot e,
           fetches := s.fetches.filter fun f => !f.2.by_.ofSlot core slot,
           engineAsks := s.engineAsks.filter (fun a => !a.1.ofSlot core slot),
           pagerFailed := s.pagerFailed.filter fun a => !a.1.ofSlot core slot }

/-- A poisoning on its way to a bound barrier (R201). -/
def State.poisonBar (core slot : Nat) (s : State) : State :=
  let t := s.slotT core slot
  if t.bar then
    s.post (.engineArrival { from_ := .transfer core slot, place := barPlace (s.coreAt core).ctxid t.bref t.barMap,
                             coreid := core, sel := t.pslot, chunk := none, poison := true, group := (s.coreAt core).group })
  else s

/-- The transfer ends (R192): FREE, or ENDED with its record in cq, which ends an IDLE of its context (R110), or its fault
held. -/
def State.endTransfer (core slot : Nat) (s : State) : State :=
  let t := s.slotT core slot
  let i := t.issuer core
  let f := t.fault.isSome
  let u : Transfer := { t with state := .ended, cancelled := t.stopReq && !f, undelivered := f, inCq := t.q }
  let s := (s.dropSlotEvents core slot).modSlot core slot fun _ => u.settle
  s.modTask i fun c =>
    let c := { c with ocnt := { c.ocnt with copies := c.ocnt.copies - 1 }, held := if f then c.held ++ [slot] else c.held }
    if t.q then { c with cq := c.cq ++ [slot] }.endIdle else c

/-! ## Rows and chunks -/

/-- The table's row length in elements (R207). -/
def Transfer.e0 (t : Transfer) (g k : Nat) : Nat := (t.srcMap.map fun m => viewExtent m g k 0).getD 0
/-- The number of rows of a gather or scatter-add (R206). -/
def Transfer.n (t : Transfer) : Nat := bits (t.w 2) 0 16

/-- The row of a row request, whose number is row + 65,536 × the part of the row. -/
def rowOf (id : Nat) : Nat := id % 65536

/-- The requests of a row. -/
def Transfer.rowPieces (t : Transfer) (m : Nat) : SMap (Nat × Nat × Option Nat) := t.pieces.filter fun p => rowOf p.1 == m

/-- Whether what a gather's chunk takes of a row has landed, rows of e0 elements (R208). -/
def Transfer.rowLanded (t : Transfer) (e0 k m : Nat) : Bool :=
  let size := codeSize t.dst.code
  let lo := m * e0 * size
  t.landed.contains m || ((t.asked.find m).isSome && (t.rowPieces m).all fun p =>
    t.landedPieces.contains p.1 || lo + (p.2.1 + p.2.2.1) * size ≤ 512 * k || 512 * k + 512 ≤ lo + p.2.1 * size)

/-- Whether every byte that a gather's chunk covers has landed (R208). -/
def Transfer.rowsLanded (t : Transfer) (e0 k : Nat) : Bool :=
  let rowBytes := e0 * codeSize t.dst.code
  let last := min (t.n - 1) ((512 * k + 511) / rowBytes)
  (List.range (last + 1 - 512 * k / rowBytes)).all fun i => t.rowLanded e0 k (512 * k / rowBytes + i)

/-- Whether an ordered copy of the same channel, launched earlier, is still to end (R198). -/
def Core.channelBusy (c : Core) (t : Transfer) : Bool :=
  c.slots.any fun e =>
    (e.2.state == .active || e.2.state == .saved) && e.2.ordered && e.2.chan == t.chan && e.2.order < t.order

/-- Whether a chunk may be delivered next (R198, R201, R208). -/
def State.chunkReady (s : State) (core slot k : Nat) : Bool :=
  let c := s.coreAt core
  let t := c.slotAt slot
  t.state == .active && k < t.chunks && !t.done.contains k && !t.sent.contains k && !t.lost.contains k &&
    match t.kind with
    | .copy =>
      let read := (t.writes.find k).isSome
      if t.ordered then t.fault.isNone && !t.stopReq && k == t.done.length && t.sent.isEmpty && !c.channelBusy t
      else read || (t.fault.isNone && !t.stopReq && t.writes.length < 4)
    | .gather => t.rowsLanded (t.e0 c.gsize c.rank) k
    | .scatterAdd => t.fault.isNone && !t.stopReq && t.landed.length == t.n
    | .send => false

/-- The chunks that may be delivered next. -/
def State.readyChunks (s : State) (core slot : Nat) : List Nat :=
  (List.range (s.slotT core slot).chunks).filter fun k => s.chunkReady core slot k

/-- Whether an event is a slot's fault on its way. -/
def faultEvent (core slot : Nat) : Event → Bool
  | .chunkFault c k _ _ _ => c == core && k == slot
  | _ => false

/-- The transfer ends once nothing of it is under way and it is complete, faulted or cancelled (R192, R201): what it had read before it
stopped, but for an ordered copy, is still delivered, and a fault on its way poisons the barrier first. -/
def State.tryEnd (core slot : Nat) (s : State) : State :=
  let t := s.slotT core slot
  let whole := t.done.length == t.chunks && (t.kind != .gather || t.landed.length == t.n)
  let stopped := (t.fault.isSome || t.stopReq) && (t.ordered || t.writes.isEmpty) &&
    (t.kind != .gather || (s.readyChunks core slot).isEmpty) && !s.pending.any (faultEvent core slot)
  if t.state == .active && t.sent.isEmpty && (whole || stopped) then s.endTransfer core slot else s

/-- A transfer's fault at a chunk, which is not credited: no further chunk is issued (R201). -/
def Transfer.fail (k : Nat) (c : Cause) (tval : Word) (t : Transfer) : Transfer :=
  { t with fault := t.fault <|> some (c, tval), lost := if t.lost.contains k then t.lost else t.lost ++ [k] }

/-- A chunk of a transfer fails, and its CHUNK_FAULT is on its way (R201). -/
def State.chunkFails (core slot k : Nat) (c : Cause) (tval : Word) (s : State) : State :=
  (s.modSlot core slot (Transfer.fail k c tval)).post (.chunkFault core slot k c tval)

/-- What has been read of a chunk or a request, and how far it is written, is dropped. -/
def Transfer.drop (id : Nat) (t : Transfer) : Transfer := { t with writes := t.writes.del id, begun := t.begun.del id }

/-- A chunk or a request that has failed is not written, and its chunk fails (R201). -/
def State.noteFault (core slot k id : Nat) (c : Cause) (va : Nat) (s : State) : State :=
  (s.modSlot core slot (Transfer.drop id)).chunkFails core slot k c (BitVec.ofNat 32 va)

/-- The number that an arrival's chunk gives a transfer's chunk. -/
def Transfer.chunkOf (t : Transfer) (chunk : Option Nat) : Nat :=
  match chunk with
  | some b => b - t.cbase
  | none => t.chunks - 1

/-- The write pointer of an ordered copy's channel counts a chunk that is credited (R198). -/
def State.advancePointer (core slot k : Nat) (s : State) : State :=
  let t := s.slotT core slot
  let bytes := min 512 (t.rows * t.dcols * codeSize t.dst.code - 512 * k)
  if t.ordered then
    s.modCore core fun c =>
      { c with wp := c.wp.set (t.chan % 4) (c.wp[t.chan % 4] + BitVec.ofNat 32 bytes) (Nat.mod_lt _ (by decide)) }
  else s

/-- A chunk is credited. -/
def State.chunkDone (core slot k : Nat) (s : State) : State :=
  ((s.advancePointer core slot k).modSlot core slot fun t => { t with done := t.done ++ [k] }).tryEnd core slot

/-- The owner has credited a transfer's arrival, or rejected it, which is a chunk fault (R216). -/
def State.transferArrived (core slot : Nat) (chunk : Option Nat) (err : Option Cause) (s : State) : State :=
  let t := s.slotT core slot
  let k := t.chunkOf chunk
  if t.state != .active || !t.sent.contains k then s else
  let s := s.modSlot core slot fun t => { t with sent := t.sent.erase k }
  match err with
  | none => s.chunkDone core slot k
  | some c => s.chunkFails core slot k c 0#32

/-- A delivered chunk is credited by its mode, behind its arrival at a bound barrier (R198, R204). -/
def State.credit (core slot k : Nat) (s : State) : State :=
  let t := s.slotT core slot
  let single := t.ordered || t.kind == .scatterAdd
  if t.bar && (!single || k + 1 == t.chunks) then
    (s.modSlot core slot fun t => { t with sent := t.sent ++ [k] }).post
      (.engineArrival { from_ := .transfer core slot, place := barPlace (s.coreAt core).ctxid t.bref t.barMap, coreid := core,
                        sel := t.pslot, chunk := if single then none else some (t.cbase + k), poison := false,
                        group := (s.coreAt core).group })
  else s.chunkDone core slot k

/-- The writes of a chunk of a copy, with the flags that its conversion sets, from the values read. -/
def Transfer.chunkWrites (t : Transfer) (gs k : Nat) (es : List Nat) (vs : List (List Byte)) :
    List (Spot × List Byte) × BitVec 4 :=
  if t.op = 2 then
    let groups := t.thresholdGroups (t.groupsOf es) vs
    (t.thresholdWrites gs k es groups, if groups.any fun g => g.2.nan then 4#4 else 0#4)
  else
    let rs := (es.zip vs).map fun (i, bs) => (t.dst.spot gs k (i / t.dcols) (i % t.dcols) t.dcols, t.convert i bs)
    (rs.map fun r => (r.1, r.2.1), rs.foldl (fun f r => f ||| r.2.2) 0#4)

/-- The source places of a chunk of a copy (R196). -/
def Transfer.chunkSpots (t : Transfer) (gs k : Nat) (es : List Nat) : List Spot :=
  if t.op = 2 then
    (t.groupsOf es).flatMap fun rg => (t.groupCols rg.2).map fun c => t.src.spot gs k rg.1 c t.cols
  else es.map fun i =>
    let c := i % t.dcols
    t.src.spot gs k (i / t.dcols) (if t.scols = t.cols then c else c / 5) t.scols

/-- Whether a chunk's destination has an element that an edge-1 map refuses (R196). -/
def Transfer.dstRange (t : Transfer) (gs k : Nat) (es : List Nat) : Bool :=
  t.dst.edge && es.any fun i => t.dst.spot gs k (i / t.dcols) (i % t.dcols) t.dcols == .none

/-- The elements of a chunk by the aligned 32-byte units of the destination, in order (R198). -/
def Transfer.unitsOf (t : Transfer) (gs k : Nat) (es : List Nat) : List (List Nat) :=
  let unit (i : Nat) : Spot :=
    match t.dst.spot gs k (i / t.dcols) (i % t.dcols) t.dcols with
    | .loc a => .loc (a / 32)
    | .va a => .va (a / 32)
    | .none => .none
  es.splitBy fun i j => unit i == unit j

/-- Whether a 32-byte unit of a chunk that is not credited holds its new content is a free choice (R201); it keeps its old one where
its source or its destination cannot be reached. -/
def State.strayUnit (core slot k : Nat) (s : State) (es : List Nat) : State :=
  let (new, s) := s.flip
  let c := s.coreAt core
  let t := c.slotAt slot
  let e : Engine := .chunk core slot k
  if !new then s else
    match s.readSpots e core t.reuse t.src.code (if t.src.edge then some .tmapRange else none) (t.chunkSpots c.gsize c.rank es) with
    | (.vals vs, u) =>
      match u.writeSpots e core t.reuse (t.chunkWrites c.gsize c.rank es vs).1 with
      | (.done _, u) => u
      | _ => s
    | _ => s

/-- The chunks of a copy that are in flight but will not be credited when it stops: the faulting one, if any, and for an ordered copy the
chunks above it, four in all (R199, R201). -/
def Transfer.strays (t : Transfer) (first : Option Nat) : List Nat :=
  if t.kind ≠ .copy then [] else
  if t.ordered then
    ((List.range 4).map (first.getD t.done.length + ·)).filter fun k => k < t.chunks && !t.done.contains k && !t.sent.contains k
  else first.toList

/-- A copy stops: each unit of its uncredited chunks in flight holds its old or its new content (R201). -/
def State.stray (core slot : Nat) (first : Option Nat) (s : State) : State :=
  let c := s.coreAt core
  let t := c.slotAt slot
  if !t.aligned3 c.gsize c.rank then s else
  (t.strays first).foldl (fun s k => (t.unitsOf c.gsize c.rank (t.chunkElems k)).foldl (State.strayUnit core slot k) s) s

/-- The aligned 32-byte unit of a place. -/
def Spot.unit : Spot → Spot
  | .loc a => .loc (a / 32)
  | .va a => .va (a / 32)
  | .none => .none

/-- Whether a write is an addition to an element that lies on two pages. -/
def acrossPages (fmt : Option Nat) (w : Spot × List Byte) : Bool :=
  match w.1 with
  | .va a => fmt.isSome && crossesPage (a % 2 ^ 48) w.2.length
  | _ => false

/-- The addresses in memory of a list of writes, with their bytes. -/
def farWrites (ws : List (Spot × List Byte)) : List (Nat × List Byte) :=
  ws.filterMap fun (p, bs) =>
    match p with
    | .va a => some (a, bs)
    | _ => none

/-- Writes read earlier take effect, whole or only their first 32-byte unit, whose units another agent's writes may then lie between
(R198, R249; assumption 4): those that are left, or how they failed. An addition has a number format; one to an element on two pages comes
alone. (DESIGN CHOICE, log 4). -/
def State.landWrites (e : Engine) (core reuse : Nat) (fmt : Option Nat) (counted : List Nat) (ws : List (Spot × List Byte)) (s : State) :
    (Progress × List (Spot × List Byte)) × State :=
  let (part, s) := s.flip
  let run := if ws.head?.any (acrossPages fmt) then ws.take 1 else ws.takeWhile fun w => !acrossPages fmt w
  let first := run.takeWhile fun w => (ws.head?.map (·.1.unit)) == some w.1.unit
  let now := if part && !(s.fetches.any fun f => f.2.by_ == e) then first else run
  match (match fmt with
    | none => s.writeSpots e core reuse now counted
    | some f => s.engineAdd e (s.coreAt core).ctxid reuse f (farWrites now) counted) with
  | (.done _, s) => ((.done [], ws.drop now.length), s.dropFetches e)
  | (r, s) => ((r, ws), s)

/-- What has been read of a chunk or a request is written on: all of it, when nothing is left and k follows. -/
def State.landOn (e : Engine) (core slot chunk id : Nat) (fmt : Option Nat) (again : State → State) (fl : BitVec 4)
    (ws : List (Spot × List Byte)) (s : State) (k : State → State) : State :=
  let counted := SMap.get [] (s.slotT core slot).begun id
  match s.landWrites e core (s.slotT core slot).reuse fmt counted ws with
  | ((.fault f va, _), s) => (s.noteFault core slot chunk id f va).dropFetches e
  | ((.wait, _), s) => again (s.modSlot core slot fun t => { t with writes := t.writes.put id (fl, ws) })
  | ((.done _, []), s) => k (s.modSlot core slot fun t => { t.drop id with flags := t.flags ||| fl })
  | ((.done _, rest), s) =>
    let lines := (farWrites (ws.take (ws.length - rest.length))).map fun w => w.1 % 2 ^ 48 / 128
    again (s.modSlot core slot fun t =>
      { t with writes := t.writes.put id (fl, rest), begun := t.begun.put id (counted ++ lines).eraseDups })

/-- A chunk of a copy is read and converted, then written and credited (R196 to R199, R205). -/
def State.copyChunk (core slot k : Nat) (s : State) : State :=
  let c := s.coreAt core
  let t := c.slotAt slot
  let e : Engine := .chunk core slot k
  let es := t.chunkElems k
  let land (fl : BitVec 4) (ws : List (Spot × List Byte)) (s : State) : State :=
    s.landOn e core slot k k none id fl ws (State.credit core slot k)
  match t.writes.find k with
  | some (fl, ws) => land fl ws s
  | none =>
    if t.dstRange c.gsize c.rank es || !t.aligned3 c.gsize c.rank then s.noteFault core slot k k .tmapRange 0
    else
      match s.readSpots e core t.reuse t.src.code (if t.src.edge then some .tmapRange else none)
          (t.chunkSpots c.gsize c.rank es) with
      | (.wait, s) => s
      | (.fault f va, s) => (s.noteFault core slot k k f va).dropFetches e
      | (.vals vs, s) =>
        let (ws, fl) := t.chunkWrites c.gsize c.rank es vs
        let (later, s) := (s.dropFetches e).flip
        if later then s.modSlot core slot fun t => { t with writes := t.writes.put k (fl, ws) } else land fl ws s

/-- CHUNK_DELIVERED (R198, R204). -/
def execChunkDelivered (s : State) : Out :=
  match s.now with
  | some (.chunkDelivered core slot k) =>
    if s.chunkReady core slot k then
      if (s.slotT core slot).isCopy then ok (s.copyChunk core slot k) else ok (s.credit core slot k)
    else ok s
  | _ => ok s

/-- CHUNK_FAULT (R201): the transfer stops at a chunk boundary, its barrier poisoned. -/
def execChunkFault (s : State) : Out :=
  match s.now with
  | some (.chunkFault core slot k c tval) =>
    if (s.slotT core slot).state = .active then
      let s := (s.stray core slot (some k)).modSlot core slot fun t =>
        let t := t.fail k c tval
        if t.isCopy then t.drop k else t
      let s := { s with pending := s.pending.filter fun e => !faultEvent core slot e }
      ok ((s.poisonBar core slot).tryEnd core slot)
    else ok s
  | _ => ok s

/-! ## Gathers and scatter-adds (R207 to R209) -/

/-- The next row request of a transfer (R208): of a row whose index has been read, else the first of the next row; at most 64 are in
flight. -/
def State.nextRow (s : State) (core slot : Nat) : Option Nat :=
  let t := s.slotT core slot
  if t.state == .active && (t.kind == .gather || t.kind == .scatterAdd) && t.fault.isNone && !t.stopReq &&
      t.issued.length - t.landedPieces.length < 64 then
    match t.pieces.find? fun p => !t.issued.contains p.1 with
    | some p => some p.1
    | none => if t.asked.length < t.n then some t.asked.length else none
  else none

/-- The virtual address of each column of a table row, for a valid index (R207). -/
def tableRow (m : Rec) (g k x : Nat) : List (Option Nat) :=
  let e0 := viewExtent m g k 0
  (List.range e0).map fun c => viewVa m g k (x * e0 + c)

/-- The owner core of a LOCALWIN address (R17). -/
def State.ownerAt (s : State) (ctx va : Nat) : Option Nat :=
  match s.walk ctx va with
  | .leaf l => if l.kind = 2 ∧ l.state = 0 then some (windowCore (l.pa va)).1 else none
  | .fault _ => none

/-- The requests of a row: its columns by the 4 KiB page that each lies on, in order (R208). -/
def State.splitRow (s : State) (ctx m : Nat) (vas : List (Option Nat)) : SMap (Nat × Nat × Option Nat) :=
  let page (e : Option Nat × Nat) : Option Nat := e.1.map (· / 4096)
  (vas.zipIdx.splitBy fun a b => page a == page b).zipIdx.map fun (es, p) =>
    (m + 65536 * p, (es.head?.map (·.2)).getD 0, es.length, ((es.head?.bind (·.1)).bind fun va => s.ownerAt ctx va))

/-- The index of a row is read, and its requests are known (R207, R208). -/
def State.readIndex (core slot m : Nat) (s : State) : State :=
  let c := s.coreAt core
  let t := c.slotAt slot
  if (t.asked.find m).isSome then s else
  let x := (c.lm.word (t.w 1 + 4 * m)).toNat
  let ps := match t.srcMap with
    | some r =>
      if x < viewSize r c.gsize c.rank / viewExtent r c.gsize c.rank 0 then s.splitRow c.ctxid m (tableRow r c.gsize c.rank x)
      else [(m, 0, viewExtent r c.gsize c.rank 0, none)]
    | none => []
  s.modSlot core slot fun t => { t with asked := t.asked.put m x, pieces := ps.foldl (fun q p => q.put p.1 p.2) t.pieces }

/-- ROW_REQUEST (R208): the row's index is read, and one of its requests goes to its slice or port, or to an owner core. -/
def execRowRequest (s : State) : Out :=
  match s.now with
  | some (.rowRequest core slot id) =>
    if s.nextRow core slot = some id then
      let s := (s.readIndex core slot (rowOf id)).modSlot core slot fun t => { t with issued := t.issued ++ [id] }
      let t := s.slotT core slot
      let g := (s.coreAt core).group
      ok (match t.kind == .gather, (t.pieces.find id).bind (·.2.2) with
        | true, some owner => s.send g core owner (.localGather core slot id)
        | true, none => s.post (.gatherRow core slot id)
        | false, some owner => s.send g core owner (.localScatterAdd core slot id)
        | false, none => s.post (.scatterAddRow core slot id))
    else ok s
  | _ => ok s

/-- Whether a request is still to be read: it was sent, and nothing has stopped the transfer. -/
def Transfer.rowOpen (t : Transfer) (id : Nat) : Bool :=
  t.state == .active && t.issued.contains id && !t.landedPieces.contains id && ((t.fault.isNone && !t.stopReq) || (t.writes.find id).isSome)

/-- A row request has landed or been added, and its row once all of them have. -/
def State.rowDone (core slot id : Nat) (s : State) : State :=
  (s.modSlot core slot fun t =>
    let t := { t with landedPieces := t.landedPieces ++ [id] }
    if (t.rowPieces (rowOf id)).all fun p => t.landedPieces.contains p.1 then { t with landed := t.landed ++ [rowOf id] } else t).tryEnd
      core slot

/-- The columns of a row request. -/
def Transfer.columns (t : Transfer) (id : Nat) : List Nat :=
  match t.pieces.find id with
  | some (c, n, _) => (List.range n).map (c + ·)
  | none => []

/-- The chunk that a request's fault names. -/
def Transfer.rowChunk (t : Transfer) (g k id : Nat) : Nat :=
  (rowOf id * t.e0 g k + (t.columns id).headD 0) * codeSize t.dst.code / 512

/-- A row request performed (R207 to R209): what it takes is read first, and then written, or added, to its destination; its fault stops
the transfer. Again is the request that goes on. -/
def State.rowMove (core slot id chunk : Nat) (again : State → State) (fmt : Option Nat) (code : Nat) (edge : Option Cause)
    (src dst : List Spot) (s : State) : State :=
  let e : Engine := .row core slot id
  let t := s.slotT core slot
  let land (ws : List (Spot × List Byte)) (s : State) : State :=
    s.landOn e core slot chunk id fmt again 0#4 ws (State.rowDone core slot id)
  match t.writes.find id with
  | some (_, ws) => land ws s
  | none =>
    match s.readSpots e core t.reuse code edge src with
    | (.wait, s) => again s
    | (.fault f va, s) => (s.noteFault core slot chunk id f va).dropFetches e
    | (.vals vs, s) => land (dst.zip vs) (s.dropFetches e)

/-- A gather's row request (R207, R208). -/
def State.gatherStep (core slot id : Nat) (again : State → State) (s : State) : State :=
  let c := s.coreAt core
  let t := c.slotAt slot
  match t.srcMap, t.rowOpen id with
  | some map, true =>
    let e0 := viewExtent map c.gsize c.rank 0
    let x := SMap.get 0 t.asked (rowOf id)
    let chunk := t.rowChunk c.gsize c.rank id
    let dst := (t.columns id).map fun col => t.dst.spot c.gsize c.rank (rowOf id) col e0
    let row := tableRow map c.gsize c.rank x
    let src : List Spot := (t.columns id).map fun col =>
      if x < viewSize map c.gsize c.rank / e0 then ((row.getD col none).map Spot.va).getD .none else .none
    if t.dst.edge && dst.contains .none then s.noteFault core slot chunk id .tmapRange 0
    else s.rowMove core slot id chunk again none (mapEt map) (if mapEdge map then some .gatherIndex else none) src dst
  | _, _ => s

/-- GATHER_ROW (R208). -/
def execGatherRow (s : State) : Out :=
  match s.now with
  | some (.gatherRow core slot m) => ok (s.gatherStep core slot m (State.post (.gatherRow core slot m)))
  | _ => ok s

/-- A row message at its owner core: its handler context performs it, a step at a time while it runs no message and takes none, counted as received the
first time (R182, R184, R208, R320). -/
def State.atRowOwner (cls core slot id : Nat) (e : Event) (s : State) (k : State → State) : State :=
  let t := s.slotT core slot
  match (t.pieces.find id).bind (·.2.2), t.heard.contains id with
  | some owner, false =>
    s.builtin cls core owner e fun s =>
      k ((s.accept (s.coreAt core).group core owner).modSlot core slot fun t => { t with heard := t.heard ++ [id] })
  | some owner, true => if s.handlerFree owner then k s else s.repost e
  | none, _ => k s

/-- LOCAL_GATHER (R182, R208, class 10): at the owner core. -/
def execLocalGather (s : State) : Out :=
  match s.now with
  | some (.localGather core slot m) =>
    let e : Event := .localGather core slot m
    ok (s.atRowOwner 10 core slot m e (State.gatherStep core slot m (State.post e)))
  | _ => ok s

/-- Whether an earlier row of the same index is still to be added (R209). -/
def Transfer.indexBusy (t : Transfer) (m x : Nat) : Bool := t.asked.any fun e => e.1 < m && e.2 == x && !t.landed.contains e.1

/-- A scatter-add's row request: each element of the source row added to the table's, indivisibly (R209). -/
def State.scatterStep (core slot id : Nat) (again : State → State) (s : State) : State :=
  let c := s.coreAt core
  let t := c.slotAt slot
  match t.srcMap, t.rowOpen id with
  | some map, true =>
    let e0 := viewExtent map c.gsize c.rank 0
    let x := SMap.get 0 t.asked (rowOf id)
    let row := tableRow map c.gsize c.rank x
    let dst : List Spot := (t.columns id).map fun col => ((row.getD col none).map Spot.va).getD .none
    if t.indexBusy (rowOf id) x then again s
    else if viewSize map c.gsize c.rank / e0 ≤ x then
      if mapEdge map then s.noteFault core slot 0 id .gatherIndex 0 else s.rowDone core slot id
    else
      s.rowMove core slot id 0 again (some (bits t.mode 1 3)) t.dst.code (if t.dst.edge then some .tmapRange else none)
        ((t.columns id).map fun col => t.dst.spot c.gsize c.rank (rowOf id) col e0) dst
  | _, _ => s

/-- SCATTER_ADD_ROW (R209). (DEDUCED, log 33). -/
def execScatterAddRow (s : State) : Out :=
  match s.now with
  | some (.scatterAddRow core slot m) => ok (s.scatterStep core slot m (State.post (.scatterAddRow core slot m)))
  | _ => ok s

/-- LOCAL_SCATTER_ADD (R182, R208, class 11): at the owner core. -/
def execLocalScatterAdd (s : State) : Out :=
  match s.now with
  | some (.localScatterAdd core slot m) =>
    let e : Event := .localScatterAdd core slot m
    ok (s.atRowOwner 11 core slot m e (State.scatterStep core slot m (State.post e)))
  | _ => ok s

/-- Whether a core's transfers stop at a chunk boundary: its group is being pre-empted, or stopped as FAULTED (R192, R283, R335). -/
def State.stopsTransfers (s : State) (core : Nat) : Bool :=
  let g := (s.groupAt (s.coreAt core).group).state
  g == .preempting || g == .faulted

/-- Whether a write of a slot is half performed: a piece of it has been, or is on its way elsewhere. -/
def State.slotHalf (s : State) (core slot : Nat) : Bool :=
  s.fetches.any fun f => f.2.by_.ofSlot core slot && f.2.op != .read

/-- TRANSFER_STOP (R192, R213): a transfer that has not ended stops at a chunk boundary and is SAVED with its remaining range; a request on
its way, or read and not yet begun to be written, is sent again at resume. A SEND whose header is on its way stops once it is answered. -/
def execTransferStop (s : State) : Out :=
  match s.now with
  | some (.transferStop core slot) =>
    let t := s.slotT core slot
    if s.stopsTransfers core ∧ t.state = .active ∧ t.sent = [] ∧ t.fault = none ∧ t.begun = [] ∧ !s.slotHalf core slot ∧
        (t.kind ≠ .send ∨ t.phase = .held ∨ t.phase = .rnr ∨ t.phase = .admitted) then
      ok ((s.dropSlotEvents core slot).modSlot core slot fun t =>
        { t with state := .saved, issued := t.landedPieces, heard := t.landedPieces, writes := [] })
    else ok s
  | _ => ok s

/-- TRANSFER_STALL (R282): no chunk for 1 s outside page waits. -/
def execTransferStall (s : State) : Out :=
  match s.now with
  | some (.transferStall core slot) =>
    let t := s.slotT core slot
    if t.state = .active then
      ok (s.escalateAt (t.issuer core) .transferStall (transferId slot t.gen) 0#32)
    else ok s
  | _ => ok s

/-! ## Launch (R199, R207) -/

/-- A check that traps with a cause and a tval when its condition holds. -/
def failIf (p : Bool) (c : Cause) (tval : Nat) : Option Trap := if p then some ⟨c, false, BitVec.ofNat 32 tval⟩ else none

/-- The first trap of a list of checks. -/
def firstTrap (cs : List (Option Trap)) : Option Trap := (cs.filterMap id).head?

/-- Condition 2 of R199's table for an endpoint register. -/
def badEndPt (reg : Nat) : Bool :=
  let lcode := bits reg 8 4
  if bits reg 4 1 = 1 then 10 < lcode || bits reg 0 4 != 0 else lcode != 0

/-- The map of an endpoint register, when it names one that is bound. -/
def TaskCtx.endMap (t : TaskCtx) (reg : Nat) : Option Rec :=
  if bits reg 4 1 = 1 then none else t.tm.toList.getD (bits reg 0 4) none

/-- The element code of an endpoint, when it has one. -/
def TaskCtx.endCode (t : TaskCtx) (reg : Nat) : Option Nat :=
  if bits reg 4 1 = 1 then some (bits reg 8 4) else (t.endMap reg).map mapEt

/-- The trap of an unbound slot that an endpoint names (check 2 of R199). -/
def TaskCtx.unbound (t : TaskCtx) (reg : Nat) : Option Trap :=
  failIf (bits reg 4 1 == 0 && (t.endMap reg).isNone) .tmapUnbound (bits reg 0 4)

/-- Whether an operation accepts two element codes (R197). -/
def codesAllowed (op sc dc : Nat) : Bool :=
  match op with
  | 0 => sc ≤ 10 && dc ≤ 10 && codeSize sc == codeSize dc
  | 1 => (sc ≤ 7 && dc ≤ 7 && sc != dc) || (sc == 8 && dc == 0)
  | 2 => sc == 6 && dc == 8
  | _ => false

/-- The trap of a malformed barrier reference (check 6 of R199; R195). -/
def refMalformed (ref : Nat) : Bool :=
  if bits ref 31 1 = 0 then bits ref 0 4 != 0 || 0x6FFF < 4 * bits ref 0 13 + 63 else bits ref 0 6 != 0

/-- Checks 2 to 6 of R199: bound slots, local ranges, alignments, protection, the barrier reference. A local source or
destination is given by its address, its length and its element size. -/
def TaskCtx.launchChecks (t : TaskCtx) (regs : List Nat) (locs : List (Nat × Nat × Nat × Bool)) (bar : Bool) (ref : Nat) :
    List (Option Trap) :=
  regs.map t.unbound ++
  [failIf (bar && bits ref 31 1 == 1 && (t.tm.toList.getD (bits ref 27 4) none).isNone) .tmapUnbound (bits ref 27 4)] ++
  locs.map (fun (a, n, _, _) => failIf (0x7FFF < a + n - 1) .localRange a) ++
  locs.map (fun (a, _, sz, _) => failIf (a % sz != 0) .misaligned a) ++
  locs.map (fun (a, n, _, d) => failIf (d && a < 0x7C00 && 0x7000 ≤ a + n - 1) .localProtect a) ++
  [failIf (bar && refMalformed ref) .barrierInvalid ref]

/-- The copy that the shadow set describes, its maps as bound now (R199). -/
def TaskCtx.copyOf (t : TaskCtx) : Transfer :=
  let w (i : Nat) : Nat := (t.cp.toList.getD i 0#32).toNat
  { kind := .copy, sh := t.cp.toList, srcMap := t.endMap (w 0), dstMap := t.endMap (w 2),
    barMap := t.tm.toList.getD (bits (w 6) 27 4) none, lfsr := t.lfsr }

/-- The checks of R199 in their order. -/
def TaskCtx.copyTrap (t : TaskCtx) : Option Trap :=
  let x := t.copyOf
  let src := x.w 0
  let dst := x.w 2
  let shape (p : Bool) (reg : Nat) : Option Trap := failIf p .copyShape reg
  let codes := match t.endCode src, t.endCode dst with
    | some a, some b => !codesAllowed x.op a b
    | _, _ => false
  let badG := if x.op = 2 then x.g % 5 != 0 || x.g < 5 || 160 < x.g else x.g != 0
  let bytes := x.rows * x.dcols * codeSize x.dst.code
  let loc (reg a pitch : Nat) (d : Bool) : List (Nat × Nat × Nat × Bool) :=
    if bits reg 4 1 = 1 then
      [(a, x.rows * pitch * codeSize (bits reg 8 4), codeSize (bits reg 8 4), d)] else []
  firstTrap ([shape (x.op == 3) 0x055, shape (badEndPt src) 0x050, shape (badEndPt dst) 0x052, shape codes 0x055,
      shape badG 0x055, shape (x.rows == 0 || x.cols == 0) 0x054, shape (x.pslot == 7) 0x055,
      shape (!x.ordered && !x.bar) 0x055,
      shape (!x.ordered && (t.endCode dst).isSome && 32 < x.cbase + chunksOf bytes) 0x055] ++
    t.launchChecks [src, dst] (loc src (x.w 1) x.scols false ++ loc dst (x.w 3) x.dcols true) x.bar x.bref)

/-- A transfer launched in the lowest FREE slot: its generation, its count and its ID (R192, R199). -/
def State.launch (d : BitVec 4) (slot : Nat) (x : Transfer) (s : State) : State :=
  let old := s.core.slotAt slot
  let y : Transfer := { x with state := .active, gen := old.gen + 1#8, launched := true, tc := s.who.ctx == .tc1,
                               order := s.launchCount }
  let core := s.who.core
  let s := { s with launchCount := s.launchCount + 1 }
  let s := (s.modSlot core slot fun _ => y).modT fun t => { t with ocnt := { t.ocnt with copies := t.ocnt.copies + 1 } }
  (s.setX d (transferId slot y.gen)).retire 4#32

/-- A launch after its checks: a FREE slot, and the release of every earlier write (R199). -/
def State.launchRead (d : BitVec 4) (tr : Option Trap) (x : Transfer) (s : State) : State :=
  s.checked tr fun s => s.await s.settled fun s =>
    match s.core.freeSlot with
    | some slot => s.launch d slot x
    | none => s.stall .retry

/-- MFS of cp.go (R199). -/
def execMfsCpGo (d : BitVec 4) (s : State) : Out :=
  ok (s.actingRead 0x05F d fun s =>
    let x := s.task.copyOf
    s.launchRead d s.task.copyTrap { x with chunks := chunksOf (x.rows * x.dcols * codeSize x.dst.code) })

/-- The gather or scatter-add that the shadow set describes (R206). -/
def TaskCtx.gatherOf (t : TaskCtx) : Transfer :=
  let w (i : Nat) : Nat := (t.gp.toList.getD i 0#32).toNat
  { kind := if bits (w 5) 0 1 = 0 then .gather else .scatterAdd, sh := t.gp.toList,
    srcMap := t.tm.toList.getD (bits (w 0) 0 4) none, dstMap := t.endMap (w 3),
    barMap := t.tm.toList.getD (bits (w 6) 27 4) none }

/-- The chunks of a gather; a scatter-add is credited whole (R204, R208). -/
def Transfer.gatherChunks (x : Transfer) (g k : Nat) : Nat :=
  if x.kind = .gather then chunksOf (x.n * x.e0 g k * codeSize x.dst.code) else 1

/-- The checks of R207 in their order. -/
def TaskCtx.gatherTrap (t : TaskCtx) (g k : Nat) : Option Trap :=
  let x := t.gatherOf
  let tab := bits (x.w 0) 0 4
  let dst := x.w 3
  let isG := x.kind == .gather
  let at_ := bits x.mode 1 3
  let shape (p : Bool) (reg : Nat) : Option Trap := failIf p .copyShape reg
  let tabCode := x.srcMap.map mapEt
  let rowBytes := (x.srcMap.map fun m => x.e0 g k * mapEsize m).getD 0
  let sizes := match tabCode, t.endCode dst with
    | some a, some b => isG && (a == 11 || b == 11 || codeSize a != codeSize b)
    | some a, none => isG && a == 11
    | _, _ => false
  let dsize := ((t.endCode dst).map codeSize).getD 1
  let loc : List (Nat × Nat × Nat × Bool) := if bits dst 4 1 = 1 then [(x.w 4, x.n * x.e0 g k * dsize, dsize, isG)] else []
  let known := tabCode.isSome && (t.endCode dst).isSome
  firstTrap ([shape (x.n == 0) 0x072, shape (badEndPt dst) 0x073, shape (4096 < rowBytes) 0x070, shape sizes 0x070,
      shape (!isG && at_ != 4 && at_ != 6 && at_ != 7) 0x075,
      shape (!isG && tabCode.any (· != at_)) 0x070, shape (!isG && (t.endCode dst).any (· != at_)) 0x073,
      shape (isG && x.bar && known && 32 < x.cbase + x.gatherChunks g k) 0x075, shape (x.pslot == 7) 0x075,
      shape (isG && at_ != 0) 0x075,
      failIf x.srcMap.isNone .tmapUnbound tab] ++
    t.launchChecks [dst] ((x.w 1, 4 * x.n, 4, false) :: loc) x.bar x.bref)

/-- MFS of gp.go (R207). -/
def execMfsGpGo (d : BitVec 4) (s : State) : Out :=
  ok (s.actingRead 0x07F d fun s =>
    let x := s.task.gatherOf
    let c := s.core
    s.launchRead d (s.task.gatherTrap c.gsize c.rank) { x with chunks := x.gatherChunks c.gsize c.rank })

/-! ## CPTEST, CPCANCEL and CPWAIT (R203) -/

/-- The common form of the three instructions: the ID's check and, unless the instruction already waits, the oldest held
fault. (DEDUCED, log 35). -/
def State.transferOp (d a : BitVec 4) (s : State) (k : Word → State → State) : State :=
  s.inTask fun s => s.withRegs [a, d] [] fun s =>
    let id := s.x a
    if bits id.toNat 16 16 ≠ 0 then s.trap .transferId id
    else if s.task.waiting then k id s else s.heldFirst (k id)

/-- The status of an ID returned: 1 and 2 are acquires of what the transfer delivered (R203). -/
def State.giveStatus (d : BitVec 4) (st : Nat) (s : State) : State :=
  let s := if st = 1 ∨ st = 2 then s.dropL1 s.who.core else s
  ((s.modT fun t => { t with waiting := false }).setX d (BitVec.ofNat 32 st)).retire 4#32

/-- The instruction begins to wait, or goes on waiting. -/
def State.keepWaiting (s : State) : State := (s.modT fun t => { t with waiting := true }).stall .retry

/-- CPTEST (R203). -/
def execCptest (d a : BitVec 4) (s : State) : Out :=
  ok (s.transferOp d a fun id s => s.giveStatus d (s.core.status id))

/-- CPWAIT (R203). (DEDUCED, log 35). -/
def execCpwait (d a : BitVec 4) (s : State) : Out :=
  ok (s.transferOp d a fun id s =>
    let st := s.core.status id
    if st = 0 then s.keepWaiting else s.giveStatus d st)

end Sys2Proof.Machine
end

