-- ==== Sys2Proof/Machine/Links.lean ====
section
/-! DEFINITION. Fabric ports and routes: where a packet goes, ports that leave service, detours and RETRY (R337 to R344). -/

namespace Sys2Proof.Machine

/-- LINK_RETRAIN (R339, R375): counted. -/
def execLinkRetrain (s : State) : Out :=
  match s.now with
  | some (.linkRetrain p) =>
    ok ({ s with records := { s.records with retrains := s.records.retrains.tally p } }.count
      .linkRetrain)
  | _ => ok s

/-- FLIT_UNCORRECTABLE (R339, R375): retried, and counted. -/
def execFlitUncorrectable (s : State) : Out :=
  match s.now with
  | some (.flitUncorrectable p) =>
    ok ({ s with records := { s.records with flits := s.records.flits.tally p } }.count
      .flitUncorrectable)
  | _ => ok s

/-- Whether a request of this part to a destination is outstanding (R338). -/
def State.outstandingTo (s : State) (dst : Nat) : Bool :=
  (s.away.any fun e => e.2.home == some dst) || (s.fetches.any fun e => e.2.home == some dst && e.2.ans == .none) ||
  (s.flight.any fun e => e.1 == dst) || (s.forwards.any fun e => e.2.home == dst) || (s.cores.any fun e => e.2.slots.any fun t =>
    t.2.kind == .send && t.2.state == .active && t.2.header.any fun h => h.dpart == dst && h.ring.isNone) ||
  s.lands.any fun e => e.2.header.spart == dst && e.2.header.ring.isNone

/-- DETOUR_SET (R338): only while no request of the part to the destination is outstanding. -/
def execDetourSet (s : State) : Out :=
  match s.now with
  | some (.detourSet p b) =>
    if s.outstandingTo p then ok s
    else
      let rest := s.detours.filter (· != p)
      ok { s with detours := if b then rest ++ [p] else rest }
  | _ => ok s

/-- The part that performs an access of a number: of this part's, or one passed on (R342). -/
def State.homeOf (s : State) (id : Nat) : Option Nat :=
  ((s.away.find id).bind (·.home)) <|> ((s.fetches.find id).bind (·.home)) <|> ((s.forwards.find id).map (·.home))

/-- RETRY_RESEND (R182, R342): the request is sent again with the same age. -/
def execRetryResend (s : State) : Out :=
  match s.now with
  | some (.retryResend r) =>
    match r with
    | .access _ id _ _ =>
      match s.homeOf id with
      | some p => ok (s.toPart p r)
      | none => ok s
    | .delivery _ home .. => ok (if s.flight.contains (home, r) then s.toPart home r else s)
    | _ => ok s
  | _ => ok s

end Sys2Proof.Machine
end

