-- ==== Sys2Proof/Machine/Clasp.lean ====
section
/-! DEFINITION. The clasp engine: SEND, RPOST, RCANCEL, RPROBE, MFS of rq and bq, headers and their answers, pulls, landings
and their completion, and CPCANCEL (R203, R344 to R363). -/

namespace Sys2Proof

/-- The source word of a message: part and sid (R349, R351). -/
def Header.source (h : Header) : Word := BitVec.ofNat 32 (h.spart * 2 ^ 20 + h.sid.toNat)

/-- The space of a queued message (R353). -/
def Header.space (h : Header) : Nat := 64 + (h.eager.map fun _ => (h.len + 63) / 64 * 64).getD 0

end Sys2Proof

namespace Sys2Proof.Machine

/-! ## The fields of a send descriptor (R346) -/

/-- The bits of a send descriptor that are reserved, by word. -/
def sendReserved : List Word :=
  [0#32, 0x0001FFE0#32, 0xFFF80000#32, 0#32, 0#32, 0xFFFFFFFF#32, 0xFFFFFFFF#32, 0xFFFFFFFF#32]

/-- The lowest byte offset of a list of words at which a reserved bit is set or another check fails. -/
def lowestFailing (ws masks : List Word) (others : List Nat) : Option Nat :=
  let bs := (wordBytes ws).zip (wordBytes masks)
  let bad := (List.range bs.length).filter fun i => others.contains i || (bs.getD i (0#8, 0#8)).1 &&& (bs.getD i (0#8, 0#8)).2 != 0#8
  bad.head?

/-- Whether a length is a multiple of 4 from 4 to 2^30 (R346, R349). -/
def goodLen (n : Nat) : Bool := n % 4 == 0 && 4 ≤ n && n ≤ 2 ^ 30

/-- LOC: the source is local memory (R346). -/
def Transfer.sendLoc (t : Transfer) : Bool := bits (t.w 1) 4 1 == 1
/-- The ring port that a SEND selects (R346). -/
def Transfer.sendRing (t : Transfer) : Option Nat := if bits (t.w 1) 19 1 = 1 then some (bits (t.w 1) 20 1) else none
/-- The payload's length (R346). -/
def Transfer.sendLen (t : Transfer) : Nat := t.w 4

/-- The places of n payload bytes from byte off, for a core of rank k of g (R346). -/
def Transfer.sendSpots (t : Transfer) (g k off n : Nat) : List Spot :=
  if t.sendLoc then (List.range n).map fun i => .loc (t.w 3 + off + i)
  else match t.srcMap with
    | some m =>
      let sz := mapEsize m
      (List.range (n / sz)).map fun i =>
        match viewVa m g k (t.w 3 + off / sz + i) with
        | some va => .va va
        | none => .none
    | none => []

/-- The element code with which a SEND's source is read. -/
def Transfer.sendCode (t : Transfer) : Nat := if t.sendLoc then 0 else (t.srcMap.map mapEt).getD 0

/-- Payload bytes of a SEND read by an engine (R346, R347, R354). -/
def State.readPayload (e : Engine) (core : Nat) (t : Transfer) (off n : Nat) (s : State) : Got × State :=
  let c := s.coreAt core
  s.readSpots e core ((t.srcMap.map mapReuse).getD 0) t.sendCode
    (if !t.sendLoc && t.srcMap.any mapEdge then some .tmapRange else none) (t.sendSpots c.gsize c.rank off n)

/-! ## The sender's side (R347, R348) -/

/-- Where a SEND stands that a message names by its launch number. -/
inductive SendHome where
  | here (slot : Nat)
  | saved (g : Nat)
  | gone
  deriving DecidableEq, Repr

/-- The slot of a SEND of a core, by launch number. -/
def Core.findSend (c : Core) (n : Nat) : Option Nat :=
  (c.slots.find? fun e => e.2.kind == .send && e.2.order == n && (e.2.state == .active || e.2.state == .saved)).map (·.1)

/-- Where a SEND stands: in a slot of its core, in a group whose cores stand in a saved image, or nowhere (R285). -/
def State.sendHome (s : State) (core n : Nat) : SendHome :=
  match (s.coreAt core).findSend n with
  | some k => .here k
  | none =>
    match s.groups.find? fun e => e.2.stored && ((SMap.get {} e.2.image core : Core).findSend n).isSome with
    | some e => .saved e.1
    | none => .gone

/-- A SEND ends with a fault (R348). -/
def State.failSend (core slot : Nat) (c : Cause) (tval : Nat) (s : State) : State :=
  (s.modSlot core slot fun t => { t with fault := t.fault <|> some (c, BitVec.ofNat 32 tval) }).endTransfer core slot

/-- A message to the receiving engine of a SEND's header: within the part, or to another. -/
def State.toReceiver (h : Header) (own : Event) (far : FabReq) (s : State) : State :=
  if h.dpart = s.partAddr then s.post own else s.toPart h.dpart far

/-- The header of a SEND is sent, or sent again (R345, R347, R348). -/
def State.postHeader (h : Header) (s : State) : State := s.toReceiver h (.sendHeader h) (.header h)

/-- The receiver is told that a rendezvous SEND stops (R348). -/
def State.tellCancel (h : Header) (s : State) : State :=
  s.toReceiver h (.fabricRequest (.sendCancel s.partAddr h.score h.slot)) (.sendCancel s.partAddr h.score h.slot)

/-- A SEND's header goes out for the first time, to be accepted by the network (R347, R405). -/
def State.sendFirst (i : Issuer) (h : Option Header) (s : State) : State :=
  match h with
  | some h => (s.post (.messageAccept i)).postHeader h
  | none => s

/-- The channel of a SEND's header within its core: its port and its index (R340, R344, R347). -/
def State.sendChannel (s : State) (t : Transfer) : Option Nat × Option Nat × Nat :=
  match t.header with
  | some h => (t.sendRing, if h.dpart = s.partAddr then none else s.portTo h.dpart, (h.sid.toNat % 16) ^^^ (h.tag.toNat % 16))
  | none => (none, none, 16)

/-- Whether a header of the core that was issued before a SEND's, on its channel, is still to be admitted (R348). (DEDUCED, log 11). -/
def State.channelHeld (s : State) (core : Nat) (t : Transfer) : Bool :=
  (s.coreAt core).slots.any fun e =>
    e.2.kind == .send && (e.2.state == .active || e.2.state == .saved) && e.2.phase != .admitted && decide (e.2.order < t.order) &&
      s.sendChannel e.2 == s.sendChannel t

/-- The SEND that a destination word and a descriptor describe, its binding as now (R346, R347). -/
def State.sendOf (s : State) (d : BitVec 4) (dw : Word) (ws : List Word) : Transfer :=
  let w (i : Nat) : Nat := (ws.getD i 0#32).toNat
  let part := if bits dw.toNat 22 1 = 1 then bits dw.toNat 10 12 else s.partAddr
  { kind := .send, sh := ws, rd := d, tc := s.who.ctx == .tc1, order := s.launchCount,
    srcMap := if bits (w 1) 4 1 = 1 then none else s.task.tm.toList.getD (bits (w 1) 0 4) none,
    header := some
      { spart := s.partAddr,
        sid := if bits (w 1) 17 1 = 1 then BitVec.ofNat 20 (0x80000 + bits (w 2) 0 19) else BitVec.ofNat 20 s.who.core,
        sctx := s.core.ctxid, score := s.who.core, slot := s.launchCount, dpart := part, dctx := bits dw.toNat 0 10,
        tag := ws.getD 0 0#32, len := w 4, trig := if bits (w 1) 21 1 = 1 then some (bits (w 1) 22 10) else none,
        eager := none, resend := false, ring := if bits (w 1) 19 1 = 1 then some (bits (w 1) 20 1) else none } }

/-- The checks of SEND in their order, up to the route (R338, R344, R347). -/
def State.sendTrap (s : State) (dw a : Word) (ws : List Word) (t : Transfer) : Option Trap :=
  let n := dw.toNat
  let tm := bits (t.w 1) 0 4
  let shape := lowestFailing ws sendReserved
    ((if t.sendLoc && tm != 0 then [4] else []) ++ (if goodLen t.sendLen then [] else [16]))
  let part := (t.header.map Header.dpart).getD 0
  firstTrap [failIf (bits n 23 9 != 0 || (bits n 22 1 == 0 && bits n 10 12 != 0)) .remoteUnreachable n,
    failIf (0x7FFF < a.toNat + 31) .localRange a.toNat, failIf (a.toNat % 32 != 0) .misaligned a.toNat,
    shape.map fun o => ⟨.copyShape, false, BitVec.ofNat 32 (0x100 + o)⟩,
    failIf (!t.sendLoc && t.srcMap.isNone) .tmapUnbound tm,
    failIf (t.sendLoc && 0x7FFF < t.w 3 + t.sendLen - 1) .localRange (t.w 3),
    failIf (t.sendLoc && t.w 3 % 4 != 0) .misaligned (t.w 3),
    match (if part = s.partAddr ∧ t.sendRing = none then none else s.sendFault t.sendRing part) with
    | some (.routeUnreachable, v) => some ⟨.routeUnreachable, false, BitVec.ofNat 32 v⟩
    | _ => none]

/-- A slot taken by a SEND (R192, R347). -/
def State.takeSlot (slot : Nat) (t : Transfer) (s : State) : State :=
  let old := s.core.slotAt slot
  let u : Transfer := { t with state := .active, gen := old.gen + 1#8, launched := true, order := s.launchCount,
                               before := (old.launched, old.cancelled) }
  { s with launchCount := s.launchCount + 1 }.modSlot s.who.core slot fun _ => u

/-- A SEND becomes a transfer of its task context: its ID is returned and the instruction completes (R348). -/
def State.becomeTransfer (core slot : Nat) (s : State) : State :=
  let t := s.slotT core slot
  let i := t.issuer core
  ((s.modTask i fun c => { c with ocnt := { c.ocnt with copies := c.ocnt.copies + 1 }, waiting := false }).setXAt i t.rd
    (transferId slot t.gen)).retireAt i 4#32

/-- What keeps a header from its receiver now: no route, or a port out of service (R338, R339, R344). -/
def State.headerFault (s : State) (h : Header) : Option (Cause × Nat) :=
  if h.dpart = s.partAddr ∧ h.ring = none then none else s.sendFault h.ring h.dpart

/-- A SEND that ends without a header, with a fault: it takes its slot, returns its ID and retires (R339, R347, R348). -/
def State.sendLost (slot : Nat) (t : Transfer) (c : Cause) (v : Nat) (s : State) : State :=
  (((s.takeSlot slot t).becomeTransfer s.who.core slot).failSend s.who.core slot c v).prefer

/-- The payload of an eager SEND is read before its header is sent; a fault ends the SEND without a header (R347). -/
def State.sendEager (slot : Nat) (t : Transfer) (s : State) (k : List Byte → State → State) : State :=
  let core := s.who.core
  let e : Engine := .send core (s.who.ctx == .tc1)
  let s := if s.task.waiting then s else s.dropFetches e
  match s.readPayload e core t 0 t.sendLen with
  | (.wait, s) => s.keepWaiting
  | (.fault c va, s) => (s.dropFetches e).sendLost slot t c va
  | (.vals vs, s) => k vs.flatten (s.dropFetches e)

/-- SEND (R347): its header goes out, once no earlier header of its channel holds it back (R348), and the task context waits for the
answer; a port out of service is a fault of the transfer (R339). -/
def execSend (b d a : BitVec 4) (s : State) : Out :=
  ok (s.inTask fun s => s.withRegs [a, b, d] [] fun s => s.access fun s =>
    let dw := s.x a
    let at_ := s.x b
    let ws := (List.range 8).map fun i => s.core.lm.word (at_.toNat + 4 * i)
    let t := s.sendOf d dw ws
    s.checked (s.sendTrap dw at_ ws t) fun s =>
      match s.core.freeSlot with
      | none => s.stall .retry
      | some slot => s.await (s.settled && s.task.ocnt.msgs < 63) fun s =>
          let post (eager : Option (List Byte)) (s : State) : State :=
            let h := t.header.map fun h => { h with eager := eager }
            let held := s.channelHeld s.who.core t
            match (if held then none else h.bind s.headerFault) with
            | some (c, v) => s.sendLost slot t c v
            | none =>
            let s := (s.takeSlot slot { t with header := h, phase := if held then .held else .asking }).countTaskMsg.prefer
            let s := if held then s else s.sendFirst s.who h
            (s.modT fun c => { c with waiting := false }).stall .answer
          if t.sendLen ≤ 4096 then s.sendEager slot t fun bs s => post (some bs) s else post none s)

/-- The slot of a SEND whose first header was refused is FREE again, unused (R347). -/
def Transfer.unuse (t : Transfer) : Transfer :=
  { gen := t.gen - 1#8, launched := t.before.1, cancelled := t.before.2 }

/-- A rendezvous SEND that was told to stop ends, its receiver told (R348). -/
def State.stopSend (core slot : Nat) (s : State) : State :=
  let t := s.slotT core slot
  (match t.header with
   | some h => s.tellCancel h
   | none => s).endTransfer core slot

/-- A SEND has been admitted (R348): an eager one ends once its payload is taken, a cancelled rendezvous one stops, another waits for its
pulls. -/
def State.admitSend (core slot : Nat) (taken : Bool) (s : State) : State :=
  let t := s.slotT core slot
  let s := s.modSlot core slot fun t => { t with phase := .admitted }
  if t.sendLen ≤ 4096 then
    let s := s.modSlot core slot fun t => { t with stopReq := false }
    if taken then s.endTransfer core slot else s
  else if t.stopReq then s.stopSend core slot
  else s

/-- The answer to a SEND's header (R345, R347, R348). -/
def State.sendAnswered (core slot : Nat) (resend : Bool) (a : SendAns) (s : State) : State :=
  let t := s.slotT core slot
  let i := t.issuer core
  let part := (t.header.map Header.dpart).getD 0
  if !resend then
    match a with
    | .refuse => (s.modSlot core slot fun _ => t.unuse).trapWaiting i ⟨.sendAcl, false, BitVec.ofNat 32 part⟩
    | .rnr => (s.modSlot core slot fun t => { t with phase := .rnr }).becomeTransfer core slot
    | .admitted => (s.becomeTransfer core slot).admitSend core slot true
    | .landing => (s.becomeTransfer core slot).admitSend core slot false
  else
    match a with
    | .refuse => s.failSend core slot .sendAcl part
    | .rnr => if t.stopReq then s.endTransfer core slot else s.modSlot core slot fun t => { t with phase := .rnr }
    | .admitted => s.admitSend core slot true
    | .landing => s.admitSend core slot false

/-- SEND_ANSWER (R345, R347, R348); a group that is SAVED takes it at resume (R285). -/
def execSendAnswer (s : State) : Out :=
  match s.now with
  | some (.sendAnswer core n resend a) =>
    match s.sendHome core n with
    | .here slot =>
      let want : SendPhase := if resend then .resending else .asking
      if (s.slotT core slot).phase = want then ok (s.sendAnswered core slot resend a) else ok s
    | .saved g => ok (s.hold g (.sendAnswer core n resend a))
    | .gone => ok s
  | _ => ok s

/-- Whether a header waits after an RNR answer (R348). -/
def State.canResend (s : State) (core slot : Nat) : Bool :=
  let t := s.slotT core slot
  t.kind == .send && t.state == .active && t.phase == .rnr

/-- Whether a header that was held back may go out: every earlier one of its channel has been admitted or has ended (R348). -/
def State.canSend (s : State) (core slot : Nat) : Bool :=
  let t := s.slotT core slot
  t.kind == .send && t.state == .active && t.phase == .held && !s.channelHeld core t

/-- A SEND whose header has found no way to its receiver ends with that fault; one that waits for its first answer, or whose header was held
back, becomes a transfer first (R339, R347, R348). -/
def State.headerLost (core slot : Nat) (c : Cause) (v : Nat) (s : State) : State :=
  let t := s.slotT core slot
  (match t.phase with
   | .asking => s.becomeTransfer core slot
   | .held => (s.modTask (t.issuer core) TaskCtx.endMsg).becomeTransfer core slot
   | _ => s).failSend core slot c v

/-- SEND_RESEND (R348, R353): the hub sends the header again, or sends one that was held back; a receiver that cannot be reached ends the
SEND. -/
def execSendResend (s : State) : Out :=
  match s.now with
  | some (.sendResend core slot) =>
    if s.canSend core slot then
      let t := s.slotT core slot
      match t.header.bind s.headerFault with
      | some (c, v) => ok (s.headerLost core slot c v)
      | none => ok ((s.modSlot core slot fun t => { t with phase := .asking }).sendFirst (t.issuer core) t.header)
    else if s.canResend core slot then
      match (s.slotT core slot).header with
      | some h =>
        match s.headerFault h with
        | some (c, v) => ok (s.failSend core slot c v)
        | none => ok ((s.modSlot core slot fun t => { t with phase := .resending }).postHeader { h with resend := true })
      | none => ok s
    else ok s
  | _ => ok s

/-- RNR_TIMEOUT (R348): the header has been answered RNR for 1 s. -/
def execRnrTimeout (s : State) : Out :=
  match s.now with
  | some (.rnrTimeout core slot) =>
    if s.canResend core slot then
      ok (s.failSend core slot .rnrTimeout (((s.slotT core slot).header.map Header.dpart).getD 0))
    else ok s
  | _ => ok s

/-- A SEND ends when its receiver has taken an eager payload that it was landing, or has pulled the bytes that it takes of another or declined
the rest (R348). -/
def State.sendDone (core n : Nat) (s : State) : State :=
  match s.sendHome core n with
  | .here slot => s.endTransfer core slot
  | .saved g => s.hold g (.fabricRequest (.sendDone core n))
  | .gone => s

/-- A chunk for the receiver's landing, or its refusal. -/
def State.answerPull (part landing chunk : Nat) (bs : Option (List Byte)) (s : State) : State :=
  if part = s.partAddr then
    match bs with
    | some bs => s.post (.payloadArrival landing chunk bs)
    | none => s.post (.fabricRequest (.pulled landing chunk none))
  else s.toPart part (.pulled landing chunk bs)

/-- PULL_READ (R348, R354): the bytes of a chunk that land are read from a sender's source under the sender's context; a source that is no longer
readable faults the SEND with RENDEZVOUS_FAIL. (DEDUCED, log 11). -/
def execPullRead (s : State) : Out :=
  match s.now with
  | some (.pullRead part core n landing k bytes) =>
    match s.sendHome core n with
    | .gone => ok s
    | .saved g => ok (s.hold g (.pullRead part core n landing k bytes))
    | .here slot =>
      let t := s.slotT core slot
      let e : Engine := .pull part core slot k
      if t.state = .saved then ok (s.post (.pullRead part core n landing k bytes)) else
      match s.readPayload e core t (512 * k) (min bytes (t.sendLen - 512 * k)) with
      | (.wait, s) => ok (s.post (.pullRead part core n landing k bytes))
      | (.fault _ va, s) => ok (((s.dropFetches e).answerPull part landing k none).failSend core slot .rendezvousFail va)
      | (.vals vs, s) => ok ((s.dropFetches e).answerPull part landing k (some vs.flatten))
  | _ => ok s

/-! ## The receiving context's lists (R345, R349 to R353, R356) -/

/-- A context's clasp record. -/
def State.claspAt (s : State) (ctx : Nat) : Clasp := SMap.get {} s.clasps ctx

/-- The state with a context's clasp record changed. -/
def State.modClasp (ctx : Nat) (f : Clasp → Clasp) (s : State) : State := { s with clasps := s.clasps.put ctx (f (s.claspAt ctx)) }

/-- A landing's record. -/
def State.modLand (id : Nat) (f : Land → Land) (s : State) : State :=
  match s.lands.find id with
  | some l => { s with lands := s.lands.put id (f l) }
  | none => s

/-- Whether a message matches the words of a receive (R351). -/
def matchesWords (ws : List Word) (h : Header) : Bool :=
  (h.source ^^^ ws.getD 2 0#32) &&& ws.getD 3 0#32 == 0#32 && (h.tag ^^^ ws.getD 0 0#32) &&& ws.getD 1 0#32 == 0#32

/-- The first matching posted receive in posting order (R351). -/
def Clasp.matching (c : Clasp) (h : Header) : Option (Nat × Receive) :=
  let ms := c.list.filter fun e => e.2.posted && matchesWords e.2.words h
  ms.foldl (fun best e =>
    match best with
    | some b => if e.2.order < b.2.order then some e else some b
    | none => some e) none

/-- The space in use of a context's unexpected region: a queued message's until its payload has been copied out or its pull has ended
(R353). -/
def State.regionUsed (s : State) (ctx : Nat) : Nat :=
  ((s.claspAt ctx).queue.map Header.space).sum +
    ((s.lands.filter fun e => e.2.ctx == ctx && e.2.queued && !e.2.ended).map fun e => e.2.header.space).sum

/-- Every IDLE of the cores of a context ends (R110). -/
def State.wakeContext (ctx : Nat) (s : State) : State :=
  (s.cores.filter fun e => e.2.ctxid == ctx && e.2.group != 0).foldl (fun s e => s.wakeIdle e.1) s

/-- A record pushed to a context's rq (R110, R356). -/
def State.pushRq (ctx : Nat) (w : Word) (s : State) : State :=
  (s.modClasp ctx fun c => { c with rq := c.rq ++ [w] }).wakeContext ctx

/-- One note of a refusal for lack of space, until an RPOST takes a queued message (R353, R356). -/
def State.noteRefusal (ctx : Nat) (h : Header) (s : State) : State :=
  let c := s.claspAt ctx
  if c.noted ∨ 8192 ≤ c.rq.length then s
  else (s.pushRq ctx (BitVec.ofNat 32 (3 * 2 ^ 28 + h.spart % 4096))).modClasp ctx fun c => { c with noted := true }

/-! ## Landing (R354, R355, R357) -/

/-- The posted length of a receive (R349). -/
def Receive.plen (r : Receive) : Nat := (r.words.getD 6 0#32).toNat
/-- Word w4 of a receive (R349). -/
def Receive.mode (r : Receive) : Nat := (r.words.getD 4 0#32).toNat
/-- BAR: a barrier is bound (R349). -/
def Receive.bar (r : Receive) : Bool := bits r.mode 4 1 == 1
/-- The barrier reference (R349). -/
def Receive.bref (r : Receive) : Nat := (r.words.getD 7 0#32).toNat

/-- How many bytes and chunks of a message land (R355). -/
def Land.bytes (l : Land) : Nat := min l.header.len l.recv.plen
/-- The chunks that land. -/
def Land.chunks (l : Land) : Nat := chunksOf l.bytes

/-- The place of a landing's barrier (R195), a vault reference's slot as bound at the RPOST. -/
def Land.place (l : Land) : BarPlace := barPlace l.ctx l.recv.bref l.recv.barMap
/-- Whether the landing's barrier reference names a slot that was unbound at the RPOST. -/
def Land.noPlace (l : Land) : Bool := l.recv.bar && bits l.recv.bref 31 1 == 1 && l.recv.barMap.isNone

/-- Whether a landing holds at its chunk boundary: its poster, or its local barrier, lies in a group that is PREEMPTING or
SAVED, until it is RUNNING again (R357). -/
def State.landHeld (s : State) (l : Land) : Bool :=
  let rests (g : Group) : Bool := g.state == .preempting || g.stored
  let stopped (k : Nat) : Bool :=
    let c := s.coreAt k
    if c.group ≠ 0 ∧ c.ctxid = l.ctx then rests (s.groupAt c.group)
    else s.groups.any fun e => e.2.ctx == l.ctx && rests e.2 && e.2.cores.contains k
  rests (s.groupAt l.recv.group) || (l.recv.bar && match l.place with
    | .loc k _ => stopped k
    | .vault .. => false)

/-- Whether the trigger tag that a landing has sent is still to be counted (R355). -/
def State.tagWaits (s : State) (l : Land) : Bool :=
  match l.header.trig with
  | some e => s.pending.contains (.triggerArrival e l.header.sctx false)
  | none => false

/-- The next chunks of a rendezvous are pulled, at most four in flight (R354). -/
def State.pullMore (id : Nat) (s : State) : State :=
  match s.lands.find id with
  | some l =>
    if l.header.eager.isSome || l.fault.isSome || l.stopped then s else
    let got := l.asked.filter fun k => l.done.contains k || l.sent.contains k
    let next := (List.range (4 - (l.asked.length - got.length))).map (l.asked.length + ·) |>.filter (· < l.chunks)
    let s := s.modLand id fun l => { l with asked := l.asked ++ next }
    next.foldl (fun s k =>
      if l.header.spart = s.partAddr then s.post (.pullRead s.partAddr l.header.score l.header.slot id k (min 512 (l.bytes - 512 * k)))
      else s.toPart l.header.spart (.pull s.partAddr l.header.score l.header.slot id k (min 512 (l.bytes - 512 * k)))) s
  | none => s

/-- A message takes a receive, and its landing begins (R351, R353 to R355). -/
def State.beginLanding (ctx e : Nat) (r : Receive) (h : Header) (queued : Bool) (s : State) : State :=
  let (id, s) := s.newWait
  let l : Land := { ctx := ctx, entry := e, recv := r, header := h, queued := queued }
  let s := { s with lands := s.lands.put id l }
  match h.eager with
  | some bs => s.postAll ((List.range l.chunks).map fun k =>
      .payloadArrival id k ((bs.drop (512 * k)).take (min 512 (l.bytes - 512 * k))))
  | none => s.pullMore id

/-- A landing ends once every chunk that it takes is delivered, or once it is stopped with no arrival on its way; its sender is told, but for
an eager one that ended in the queue (R348, R355, R357). -/
def State.tryLanded (id : Nat) (s : State) : State :=
  match s.lands.find id with
  | some l =>
    if l.sent.isEmpty && (l.done.length == l.chunks || l.fault.isSome || l.stopped) &&
        !l.ended then
      let (n, s) := s.newWait
      let s := (s.modLand id fun l => { l with ended := true, endAt := n }).post (.landingComplete id)
      if l.header.eager.isSome && l.queued then s
      else if l.header.spart = s.partAddr then s.post (.fabricRequest (.sendDone l.header.score l.header.slot))
      else s.toPart l.header.spart (.sendDone l.header.score l.header.slot)
    else s
  | none => s

/-- A landing's fault: it stops, and its barrier's current phase is poisoned (R357). -/
def State.failLanding (id : Nat) (c : Cause) (s : State) : State :=
  match s.lands.find id with
  | some l =>
    if l.fault.isSome then s else
    let s := s.modLand id fun l => { l with fault := some c }
    (if l.recv.bar && !l.noPlace then
      s.post (.engineArrival { from_ := .landing id, place := l.place, coreid := l.recv.poster, sel := 6, chunk := none,
                               poison := true })
     else s).tryLanded id
  | none => s

/-- The owner has credited a landing's arrival, or rejected it (R355, R357). -/
def State.landArrived (id : Nat) (chunk : Option Nat) (err : Option Cause) (s : State) : State :=
  match s.lands.find id with
  | some l =>
    let k := (chunk.getD 0) - bits l.recv.mode 8 5
    if !l.sent.contains k then s else
    let s := s.modLand id fun l => { l with sent := l.sent.erase k }
    match err with
    | none => ((s.modLand id fun l => { l with done := l.done ++ [k] }).pullMore id).tryLanded id
    | some c => (s.failLanding id c).tryLanded id
  | none => s

/-- The writes of a chunk of a landing; none for an element that an edge-1 map refuses (R355). -/
def Land.writes (l : Land) (k : Nat) (bs : List Byte) : Option (List (Nat × List Byte)) :=
  match l.recv.map with
  | none => some []
  | some m =>
    let sz := mapEsize m
    let first := (l.recv.words.getD 5 0#32).toNat + 512 * k / sz
    let es := (List.range ((bs.length + sz - 1) / sz)).map fun i =>
      (viewVa m l.recv.gsize l.recv.rank (first + i), (bs.drop (sz * i)).take sz)
    if mapEdge m && es.any (fun e => e.1.isNone) then none
    else some (es.filterMap fun e => e.1.map fun va => (va, e.2))

/-- PAYLOAD_ARRIVAL (R355, R357): a chunk lands and is credited. (DEDUCED, log 11). -/
def execPayloadArrival (s : State) : Out :=
  match s.now with
  | some (.payloadArrival id k bs) =>
    match s.lands.find id with
    | some l =>
      let e : Engine := .landing id k
      if l.fault.isSome || l.stopped then ok s
      else if s.landHeld l then ok (s.post (.payloadArrival id k bs))
      else match l.writes k bs with
        | none => ok (s.failLanding id .tmapRange)
        | some ws =>
          match s.engineWrite e l.ctx ((l.recv.map.map mapReuse).getD 0) ws with
          | (.wait, s) => ok (s.post (.payloadArrival id k bs))
          | (.fault c _, s) => ok ((s.dropFetches e).failLanding id c)
          | (.done _, s) =>
            let s := s.dropFetches e
            if l.noPlace then ok (s.failLanding id .barrierInvalid)
            else if l.recv.bar then
              ok ((s.modLand id fun l => { l with sent := l.sent ++ [k] }).post
                (.engineArrival { from_ := .landing id, place := l.place, coreid := l.recv.poster, sel := bits l.recv.mode 5 3,
                                  chunk := some (bits l.recv.mode 8 5 + k), poison := false }))
            else ok (((s.modLand id fun l => { l with done := l.done ++ [k] }).pullMore id).tryLanded id)
    | none => ok s
  | _ => ok s

/-- The words w8 to w15 of a completed receive (R349). -/
def Land.result (l : Land) : List Word :=
  let landed := (l.done.map fun k => min 512 (l.bytes - 512 * k)).sum
  let w12 := match l.fault with
    | some c => 2 ^ 31 + c.code * 2 ^ 24
    | none => if l.recv.plen < l.header.len then Cause.claspTruncate.code * 2 ^ 24 else 0
  [l.header.source, l.header.tag, BitVec.ofNat 32 l.header.len, BitVec.ofNat 32 landed, BitVec.ofNat 32 w12,
   BitVec.ofNat 32 (l.header.sctx % 1024), 0#32, 0#32]

/-- The completion record of a landing (R356). -/
def Land.record (l : Land) : Word :=
  let st := if l.fault.isSome then 2 else if l.recv.plen < l.header.len then 1 else 0
  BitVec.ofNat 32 (st * 2 ^ 28 + l.recv.gen.toNat * 2 ^ 12 + l.entry)

/-- Whether a completed landing counts its trigger tag (R361). -/
def Land.counts (l : Land) : Bool := l.fault.isNone && !(l.stopped && l.done.isEmpty)

/-- Whether a landing of the same context ended before a landing and is still to complete: the engine completes them in that order, but for
those that their groups hold (R352, R356, R357). (DEDUCED, log 11). -/
def State.endsAfter (s : State) (l : Land) : Bool :=
  s.lands.any fun e => e.2.ctx == l.ctx && e.2.ended && decide (e.2.endAt < l.endAt) && !s.landHeld e.2

/-- LANDING_COMPLETE (R355): w8 to w15 to the poster while it is bound to a group of the context, then the trigger tag, then
the record, which waits for room in rq. -/
def execLandingComplete (s : State) : Out :=
  match s.now with
  | some (.landingComplete id) =>
    match s.lands.find id with
    | some l =>
      if s.landHeld l ∨ s.endsAfter l then ok (s.post (.landingComplete id))
      else if !l.told then
        let c := s.coreAt l.recv.poster
        let s := if c.group ≠ 0 ∧ c.ctxid = l.ctx ∧ (c.power = .bound ∨ c.power = .saving) then
            s.setLocalBytes l.recv.poster (l.recv.addr + 32) (wordBytes l.result)
          else s
        let s := match l.header.trig, l.counts with
          | some e, true => s.post (.triggerArrival e l.header.sctx false)
          | _, _ => s
        ok ((s.modLand id fun l => { l with told := true }).post (.landingComplete id))
      else if s.tagWaits l ∨ 8192 ≤ (s.claspAt l.ctx).rq.length then ok (s.post (.landingComplete id))
      else ok (s.pushRq l.ctx l.record |> fun s => { s with lands := s.lands.del id })
    | none => ok s
  | _ => ok s

/-! ## Headers (R345, R351, R353) -/

/-- The answer to a header travels to its sender. -/
def State.answerHeader (h : Header) (a : SendAns) (s : State) : State :=
  if h.spart = s.partAddr then s.post (.sendAnswer h.score h.slot h.resend a)
  else s.toPart h.spart (.sendAns h.score h.slot h.resend a)

/-- Whether a context refuses a sender (R345). -/
def State.refuses (s : State) (h : Header) : Bool :=
  let c := s.contextAt h.dctx
  c.state == .free || c.state == .terminated ||
    (!(h.spart == s.partAddr && h.sctx == h.dctx) && !c.admits h.spart h.sctx)

/-- SEND_HEADER (R345, R351, R353): REFUSE, ADMIT into a receive or into the queue, or RNR. -/
def execSendHeader (s : State) : Out :=
  match s.now with
  | some (.sendHeader h) =>
    if s.refuses h then ok (s.answerHeader h .refuse) else
    match (s.claspAt h.dctx).matching h with
    | some (e, r) =>
      let s := s.modClasp h.dctx fun c => { c with list := c.list.put e { r with posted := false } }
      ok ((s.beginLanding h.dctx e r h false).answerHeader h (if h.eager.isSome then .landing else .admitted))
    | none =>
      if s.regionUsed h.dctx + h.space ≤ (s.contextAt h.dctx).ursize * 4096 then
        ok ((s.modClasp h.dctx fun c => { c with queue := c.queue ++ [h] }).answerHeader h .admitted)
      else ok ((s.noteRefusal h.dctx h).answerHeader h .rnr)
  | _ => ok s

/-- A rendezvous SEND has been cancelled by its sender: its queued header leaves, or its landing stops (R348, R353). -/
def State.sendCancelled (part core n : Nat) (s : State) : State :=
  let mine (h : Header) : Bool := h.spart == part && h.score == core && h.slot == n
  let unqueue (c : Clasp) : Clasp := { c with queue := c.queue.filter fun h => !mine h }
  let cs : SMap Clasp := s.clasps.map fun e => (e.1, unqueue e.2)
  let s : State := { s with clasps := cs }
  match s.lands.find? fun e => mine e.2.header with
  | some (id, _) => (s.modLand id fun l => { l with stopped := true }).tryLanded id
  | none => s

/-! ## RPOST, RCANCEL and RPROBE (R350, R358, R359) -/

/-- The reserved bits of a receive descriptor's words w0 to w7 (R349). -/
def receiveReserved : List Word := [0#32, 0#32, 0#32, 0#32, 0xFFFFE000#32, 0#32, 0#32, 0#32]

/-- The words w0 to w7 of a descriptor of the issuing core. -/
def State.descriptor (s : State) (a : Nat) : List Word := (List.range 8).map fun i => s.core.lm.word (a + 4 * i)

/-- Check 1 of R350. -/
def descriptorTrap (a : Word) : List (Option Trap) :=
  [failIf (0x7FFF < a.toNat + 63) .localRange a.toNat, failIf (a.toNat % 64 != 0) .misaligned a.toNat]

/-- How many receives a context holds posted (R350). -/
def Clasp.postedCount (c : Clasp) : Nat := c.list.countP fun e => e.2.posted

/-- The checks of RPOST in their order (R350). -/
def State.rpostTrap (s : State) (a : Word) (ws : List Word) : Option Trap :=
  let w (i : Nat) : Nat := (ws.getD i 0#32).toNat
  let bar := bits (w 4) 4 1 == 1
  let shape := lowestFailing ws receiveReserved
    ((if bits (w 4) 5 3 = 7 then [16] else []) ++ (if goodLen (w 6) then [] else [24]) ++
      (if bar && 32 < bits (w 4) 8 5 + chunksOf (w 6) then [17] else []))
  let posted := (s.claspAt s.core.ctxid).postedCount
  firstTrap (descriptorTrap a ++
    [shape.map fun o => ⟨.copyShape, false, BitVec.ofNat 32 (0x100 + o)⟩,
     failIf (s.task.tm.toList.getD (bits (w 4) 0 4) none).isNone .tmapUnbound (bits (w 4) 0 4),
     failIf (bar && refMalformed (w 7)) .barrierInvalid (w 7),
     failIf ((s.contextAt s.core.ctxid).rlcap ≤ posted) .claspListFull posted])

/-- The lowest free entry of a context's receive list, which an entry is once a message has taken its receive: it has left the list
(R350, R351). (DEDUCED, log 11). -/
def State.freeEntry (s : State) (ctx : Nat) : Option Nat :=
  (List.range 4096).find? fun e => !(SMap.get {} (s.claspAt ctx).list e).posted

/-- RPOST (R350): the queue is searched first, and the receive is posted only if nothing in it matches. -/
def execRpost (d a : BitVec 4) (s : State) : Out :=
  ok (s.inTask fun s => s.withRegs [a, d] [] fun s => s.access fun s =>
    let at_ := s.x a
    let ws := s.descriptor at_.toNat
    s.checked (s.rpostTrap at_ ws) fun s => s.await s.settled fun s =>
      let ctx := s.core.ctxid
      match s.freeEntry ctx with
      | none => s.stall .retry
      | some e =>
        let c := s.claspAt ctx
        let w (i : Nat) : Nat := (ws.getD i 0#32).toNat
        let (n, s) := s.newWait
        let r : Receive :=
          { gen := (SMap.get {} c.list e : Receive).gen + 1#4, posted := true, order := n, words := ws,
            map := s.task.tm.toList.getD (bits (w 4) 0 4) none, barMap := s.task.tm.toList.getD (bits (w 7) 27 4) none,
            rank := s.core.rank, gsize := s.core.gsize, poster := s.who.core, group := s.core.group, addr := at_.toNat }
        let s := match c.queue.find? (matchesWords ws) with
          | some h =>
            (s.modClasp ctx fun c => { c with queue := c.queue.erase h, noted := false,
                                              list := c.list.put e { r with posted := false } }).beginLanding ctx e r h true
          | none => s.modClasp ctx fun c => { c with list := c.list.put e r }
        (s.setX d (BitVec.ofNat 32 (r.gen.toNat * 4096 + e))).retire 4#32)

/-- RCANCEL (R358). -/
def execRcancel (d a : BitVec 4) (s : State) : Out :=
  ok (s.inTask fun s => s.withRegs [a, d] [] fun s => s.access fun s =>
    let h := s.x a
    let ctx := s.core.ctxid
    let e := bits h.toNat 0 12
    if bits h.toNat 16 16 ≠ 0 then s.trap .transferId h else
    let r : Receive := SMap.get {} (s.claspAt ctx).list e
    if r.words = [] ∨ r.gen.toNat ≠ bits h.toNat 12 4 ∨ r.cancelled then (s.setX d 3#32).retire 4#32
    else if r.posted then
      let s := s.modClasp ctx fun c => { c with list := c.list.put e { r with posted := false, cancelled := true } }
      (s.setX d 0#32).retire 4#32
    else (s.setX d 1#32).retire 4#32)

/-- RPROBE (R359). -/
def execRprobe (d a : BitVec 4) (s : State) : Out :=
  ok (s.inTask fun s => s.withRegs [a, d] [] fun s => s.access fun s =>
    let at_ := s.x a
    s.checked (firstTrap (descriptorTrap at_)) fun s =>
      match (s.claspAt s.core.ctxid).queue.find? (matchesWords (s.descriptor at_.toNat)) with
      | none => (s.setX d 0#32).retire 4#32
      | some h =>
        let found := [h.source, h.tag, BitVec.ofNat 32 h.len, 0#32, 0#32, BitVec.ofNat 32 (h.sctx % 1024)]
        (((s.setLocalBytes s.who.core (at_.toNat + 32) (wordBytes found)).dropL1 s.who.core).setX d 1#32).retire 4#32)

/-! ## MFS of rq and bq (R356, R363) -/

/-- MFS of rq (R356): pops the oldest record, an acquire, or reads all ones. -/
def execMfsRq (d : BitVec 4) (s : State) : Out :=
  ok (s.actingRead 0x080 d fun s =>
    let ctx := s.core.ctxid
    match (s.claspAt ctx).rq with
    | w :: rest => (((s.modClasp ctx fun c => { c with rq := rest }).dropL1 s.who.core).setX d w).retire 4#32
    | [] => (s.setX d 0xFFFFFFFF#32).retire 4#32)

/-- Whether a core is a bezel core (R363). -/
def bezel (k : Nat) : Bool := bits k 10 5 == 0 && k % 16 == 0

/-- MFS of bq (R363): the next block index, or all ones, which marks the core; the queue rewinds once every bezel core of the
group is marked. -/
def execMfsBq (d : BitVec 4) (s : State) : Out :=
  ok (s.actingRead 0x081 d fun s =>
    let g := s.core.group
    let gr := s.groupAt g
    let limit := (gr.args.getD 14 0#32).toNat
    if !bezel s.who.core then (s.setX d 0xFFFFFFFF#32).retire 4#32
    else if gr.bq < limit then ((s.modGroup g fun gr => { gr with bq := gr.bq + 1 }).setX d (BitVec.ofNat 32 gr.bq)).retire 4#32
    else
      let marks := if gr.bqMarks.contains s.who.core then gr.bqMarks else gr.bqMarks ++ [s.who.core]
      let all := (gr.cores.filter bezel).all marks.contains
      let next (gr : Group) : Group := if all then { gr with bq := 0, bqMarks := [] } else { gr with bqMarks := marks }
      ((s.modGroup g next).setX d 0xFFFFFFFF#32).retire 4#32)

/-! ## CPCANCEL (R201, R203, R348) -/

/-- A transfer is asked to stop (R203): a SEND by the stage that its header has reached, where an eager one that is admitted ends normally
and its payload lands whole (R348), another one at a chunk boundary with
its barrier poisoned; the delivery of every chunk comes before it (R192). -/
def State.requestStop (core slot : Nat) (s : State) : State :=
  let t := s.slotT core slot
  if t.stopReq || t.fault.isSome || (t.kind != .send && t.done.length + t.sent.length == t.chunks) then s else
  let s := s.modSlot core slot fun t => { t with stopReq := true }
  match t.kind with
  | .send =>
    match t.phase with
    | .rnr => s.endTransfer core slot
    | .admitted =>
      if t.sendLen ≤ 4096 then (s.modSlot core slot fun t => { t with stopReq := false }).endTransfer core slot
      else s.stopSend core slot
    | .held | .asking | .resending => s
  | _ => ((s.stray core slot none).poisonBar core slot).tryEnd core slot

/-- CPCANCEL (R203). (DEDUCED, log 35). -/
def execCpcancel (d a : BitVec 4) (s : State) : Out :=
  ok (s.transferOp d a fun id s =>
    let slot := id.toNat % 256
    let mine := (s.core.slotAt slot).tc == (s.who.ctx == .tc1)
    if s.core.idCurrent id ∧ !mine then s.trap .transferId id
    else
      let s := if s.core.status id = 0 then s.requestStop s.who.core slot else s
      if s.core.status id = 0 then s.keepWaiting else s.giveStatus d (s.core.status id))

end Sys2Proof.Machine
end

