-- ==== Sys2Proof/Machine/Barriers.lean ====
section
/-! DEFINITION. Barrier records, the barrier instructions, engine arrivals, and dissemination barriers (R214 to R231). -/

namespace Sys2Proof.Machine

/-! ## The record (R214, R216) -/

/-- A field of n bits from bit lo of word i of a record. -/
def recField (r : Rec) (i lo n : Nat) : Nat := bits (Rec.w r i) lo n

/-- A record with a field replaced. -/
def setRecField (i : Fin 16) (lo n v : Nat) (r : Rec) : Rec := r.set i (BitVec.ofNat 32 (setBits r[i].toNat lo n v))

/-- The phase bit (R214). -/
def barPh (r : Rec) : Nat := recField r 0 2 1
/-- P: the current phase is poisoned (R214). -/
def barPoisoned (r : Rec) : Bool := recField r 0 3 1 == 1
/-- The chunk bitmap (R214). -/
def barBitmap (r : Rec) : Word := r[1]
/-- The word of producer slot s that holds its counts (R214). -/
def slotWord (s : Nat) : Fin 16 := Fin.ofNat 16 (5 + 2 * s)

/-- Whether a record is malformed (R216). -/
def barMalformed (r : Rec) : Bool :=
  2 ≤ recField r 0 0 2 || recField r 0 4 4 != 0 || recField r 0 16 16 != 0 ||
    (List.range 6).any fun s => recField r (4 + 2 * s) 18 14 != 0

/-- Whether the owner rejects an operation on a record (R216). -/
def barRejects (binit : Bool) (r : Rec) : Bool := barMalformed r || (!binit && recField r 0 0 2 == 0)

/-- Whether the current phase is satisfied (R217). -/
def barSatisfied (r : Rec) : Bool :=
  !barPoisoned r && recField r 3 0 16 ≤ recField r 3 16 16 &&
    ((List.range 6).all fun s => recField r (5 + 2 * s) 0 16 ≤ recField r (5 + 2 * s) 16 16) && r[1] &&& r[2] == r[2]

/-- Steps 2 and 3 of R217: the phase bit flipped, the arrivals and the bitmap cleared. -/
def barFlip (r : Rec) : Rec :=
  let r := setRecField 3 16 16 0 ((setRecField 0 2 1 (1 - barPh r) r).set 1 0#32)
  (List.range 6).foldl (fun r s => setRecField (slotWord s) 16 16 0 r) r

/-- An arrival credited to a record, or rejected (R218). -/
def barCredit (core sel : Nat) (chunk : Option Nat) (r : Rec) : Option Rec :=
  let mark (r : Rec) : Rec := match chunk with
    | some k => r.set 1 (r[1] ||| (1#32 <<< k))
    | none => r
  if 6 ≤ sel then
    let n := recField r 3 16 16
    if n = 0xFFFF then none else some (mark (setRecField 3 16 16 (n + 1) r))
  else
    let n := recField r (5 + 2 * sel) 16 16
    if recField r (5 + 2 * sel) 0 16 = 0 ∨ recField r (4 + 2 * sel) 0 18 ≠ core ∨ n = 0xFFFF then none
    else some (mark (setRecField (slotWord sel) 16 16 (n + 1) r))

/-- BINIT's record (R222). -/
def barInit (emask gexp : Word) (r : Rec) : Rec :=
  let gen := (recField r 0 8 8 + 1) % 256
  (((Vector.replicate 16 0#32).set 0 (BitVec.ofNat 32 (gen * 256 + 4 * barPh r + 1))).set 2 emask).set 3 (gexp &&& 0xFFFF#32)

/-- BEXP's record (R222). -/
def barExpect (v e : Word) (r : Rec) : Rec :=
  let sel := bits v.toNat 29 3
  if 6 ≤ sel then setRecField 3 0 16 e.toNat r
  else setRecField (slotWord sel) 0 16 e.toNat (r.set (Fin.ofNat 16 (4 + 2 * sel)) (v &&& 0x3FFFF#32))

/-- What BTEST returns (R225). -/
def barTest (m : Word) (r : Rec) : Word :=
  BitVec.ofNat 32 (recField r 0 8 8 * 2 ^ 16 + (r[1] &&& m == m).toNat * 4 + (barPoisoned r).toNat * 2 + barPh r)

/-! ## The owner (R215) -/

/-- What an owner finds at a place. -/
inductive BarAt where
  /-- The record, and the physical address of a vault record. -/
  | found (r : Rec) (pa : Nat)
  | failed (c : Cause)
  /-- The page is not ready: MIGRATING, or in the pager's hands, by context, address and page. -/
  | later (ask : Option (Nat × Nat × Nat))
  /-- The owner's group stands in a saved image (R285). -/
  | held (g : Nat)
  deriving DecidableEq, Repr

/-- What stands at a place for an operation of a group, with what it needs of a vault page (R195, R221). -/
def State.barAt (s : State) (p : BarPlace) (group : Nat) (n : Need) : BarAt :=
  match p with
  | .loc k a =>
    let c := s.coreAt k
    let gr := s.groupAt group
    if gr.stored ∧ gr.cores.contains k then .held group
    else if group ≠ 0 ∧ c.group = group ∧ (c.power = .bound ∨ c.power = .saving) then .found (c.lm.rec a) 0
    else .failed .barrierInvalid
  | .vault ctx va =>
    match s.walk ctx va with
    | .fault c => .failed c
    | .leaf l =>
      if l.kind ≠ 1 then .failed .barrierInvalid else
      match s.meet ctx va n with
      | .fault c => .failed c
      | .here pa _ => .found (s.phys.rec pa) pa
      | .pager l =>
        if s.pagerFailed.contains (.barrier ctx va, ctx, l.base) then .failed (if l.state = 1 then .discardWrite else .pageFault)
        else .later (some (ctx, va, l.base))
      | _ => .later none

/-- The page of a vault record is touched by an operation (R258, R261). -/
def State.barTouch (p : BarPlace) (n : Need) (s : State) : State :=
  match p with
  | .loc .. => s
  | .vault ctx va =>
    match s.walk ctx va with
    | .leaf l => s.touch l (n != .read)
    | .fault _ => s

/-- What an owner that cannot act now sets in motion. -/
def State.barAsk (ask : Option (Nat × Nat × Nat)) (s : State) : State :=
  match ask with
  | some (ctx, va, page) => s.askFor (.barrier ctx va) ctx page
  | none => s

/-- An operation has failed at a place, and takes the pager's failure with it. -/
def State.barFailed (p : BarPlace) (s : State) : State :=
  match p with
  | .loc .. => s
  | .vault ctx va => s.takeFailure (.barrier ctx va) ctx va

/-- A record written at its place. -/
def State.barPut (p : BarPlace) (pa : Nat) (r : Rec) (s : State) : State :=
  match p with
  | .loc k a => s.setLocalBytes k a (wordBytes r.toList)
  | .vault .. => s.setPhysBytes pa (wordBytes r.toList)

/-- The address of a vault record, whatever mapping names it (R19). -/
def State.vaultPa (s : State) (ctx va : Nat) : Option Nat :=
  match s.walk ctx va with
  | .leaf l => if l.kind = 1 then some (l.pa va) else none
  | .fault _ => none

/-- Whether two places are one record: of a vault, by its frame (R19, R215). -/
def State.sameRecord (s : State) (p q : BarPlace) : Bool :=
  p == q || match p, q with
    | .vault c a, .vault d b => (s.vaultPa c a).isSome && s.vaultPa c a == s.vaultPa d b
    | _, _ => false

/-- The waits parked at a record, oldest first (R226). -/
def State.barParks (s : State) (p : BarPlace) : List BarMsg :=
  (match p with
   | .loc k _ => (s.coreAt k).parkedBar
   | .vault .. => s.vaultParks).filter fun m => s.sameRecord m.place p

/-- A wait parked at its place, its issuer stalled on it. -/
def State.barPark (m : BarMsg) (s : State) : State :=
  let s := match m.place with
    | .loc k _ => s.modCore k fun c => { c with parkedBar := c.parkedBar ++ [m] }
    | .vault .. => { s with vaultParks := s.vaultParks ++ [m] }
  s.modTask m.src fun t => { t with run := .stalled (.parked m.wait) }

/-- A wait no longer parked. -/
def State.barUnpark (m : BarMsg) (s : State) : State :=
  match m.place with
  | .loc k _ => s.modCore k fun c => { c with parkedBar := c.parkedBar.filter fun b => b.wait != m.wait }
  | .vault .. => { s with vaultParks := s.vaultParks.filter fun b => b.wait != m.wait }

/-- Whether an operation comes to its owner as a message from another core (R215, R226). -/
def barRemote (m : BarMsg) : Bool :=
  match m.place with
  | .loc k _ => k != m.src.core
  | .vault .. => true

/-- Whether an instruction is an acquire when its reply arrives (R227). -/
def barAcquires (op : BarOp) : Bool :=
  match op with
  | .bwait | .bwaitm | .btest => true
  | .binit | .bexp | .barr => false

/-- Whether an instruction writes its register rd (R222, R223). -/
def barWrites (op : BarOp) : Bool :=
  match op with
  | .binit | .bexp => false
  | .barr | .bwait | .bwaitm | .btest => true

/-- The reply to a barrier operation (R221). -/
def barReply (m : BarMsg) (v : Word) (tr : Option Trap) : BarReply :=
  { dst := m.src, rd := if barWrites m.op then some m.rd else none, value := v, acq := barAcquires m.op, trap := tr,
    src := match m.place with
      | .loc k _ => if k = m.src.core then none else some (k, m.group)
      | .vault .. => none }

/-- A parked wait ends with a status; the wake of a remote one is an FE wake (R226). -/
def State.barWake (status : Word) (s : State) (m : BarMsg) : State :=
  let r := barReply m status none
  let s := s.barUnpark m
  match m.place with
  | .loc k _ => if k = m.src.core then s.post (.barrierReply r) else s.answer m.group k m.src.core (.feWake (.barrier r))
  | .vault .. => s.postTo m.group (.feWake (.barrier r))

/-- The parked BWAITMs whose masks the bitmap covers are woken with status 0 (R217, R218). -/
def State.wakeMasks (p : BarPlace) (r : Rec) (s : State) : State :=
  ((s.barParks p).filter fun m => m.op == .bwaitm && r[1] &&& m.a == m.a).foldl (State.barWake 0#32) s

/-- The parked waits of one kind at a place are woken with a status. -/
def State.wakeAll (p : BarPlace) (op : BarOp) (status : Word) (s : State) : State :=
  ((s.barParks p).filter fun m => m.op == op).foldl (State.barWake status) s

/-- After an arrival, a chunk bit or a BEXP: the covered masks are woken, and a satisfied phase completes in the order of R217. -/
def State.barTestPhase (p : BarPlace) (pa : Nat) (r : Rec) (s : State) : State :=
  if barSatisfied r then
    let s := (s.wakeMasks p r).barPut p pa (barFlip r)
    (s.wakeAll p .bwait 0#32).wakeAll p .bwaitm 2#32
  else (s.barPut p pa r).wakeMasks p r

/-- What an instruction's operation came to at its owner. -/
inductive BarDone where
  | value (v : Word)
  | reject (c : Cause)
  | parked
  | busy
  | later
  | held (g : Nat)
  deriving DecidableEq, Repr

/-- What an instruction needs of a vault page (R221). -/
def barNeed (op : BarOp) : Need :=
  match op with
  | .bwait | .bwaitm | .btest => .read
  | .binit | .bexp | .barr => .atomic

/-- A wait parks, or is BUSY when sixteen waits of other cores are parked at the record (R226). -/
def State.barWaits (m : BarMsg) (s : State) : BarDone × State :=
  if barRemote m && 16 ≤ ((s.barParks m.place).countP barRemote) then (.busy, s) else (.parked, s.barPark m)

/-- An instruction's operation performed by the owner of its record (R215, R216, R222 to R226). -/
def State.barPerform (m : BarMsg) (s : State) : BarDone × State :=
  match s.barAt m.place m.group (barNeed m.op) with
  | .failed c => (.reject c, s.barFailed m.place)
  | .later ask => (.later, s.barAsk ask)
  | .held g => (.held g, s)
  | .found r pa =>
    let s := s.barTouch m.place (barNeed m.op)
    if barRejects (m.op == .binit) r then (.reject .barrierInvalid, s) else
    match m.op with
    | .binit => (.value 0#32, s.barPut m.place pa (barInit m.a m.b r))
    | .bexp => (.value 0#32, s.barTestPhase m.place pa (barExpect m.a m.b r))
    | .barr =>
      match barCredit m.src.core m.a.toNat none r with
      | some r' => (.value (BitVec.ofNat 32 (barPh r)), s.barTestPhase m.place pa r')
      | none => (.reject .barrierProducer, s)
    | .bwait =>
      if barPh r ≠ m.a.toNat % 2 then (.value 0#32, s)
      else if barPoisoned r then (.value 1#32, s)
      else s.barWaits m
    | .bwaitm => if r[1] &&& m.a = m.a then (.value 0#32, s) else s.barWaits m
    | .btest => (.value (barTest m.a r), s)

/-! ## The instructions (R221 to R225) -/

/-- The checks of a reference at its issuer (R221, steps 1 and 2). -/
def State.barTrap (s : State) (op : BarOp) (b : Word) : Option Trap :=
  let bad (c : Cause) : Option Trap := some ⟨c, false, b⟩
  let n := b.toNat
  if n < 2 ^ 31 then
    if n % 16 ≠ 0 ∨ 0x6FFF < 4 * bits n 0 13 + 63 then bad .barrierInvalid else none
  else
    match s.task.tm.toList.getD (bits n 27 4) none with
    | none => some ⟨.tmapUnbound, false, BitVec.ofNat 32 (bits n 27 4)⟩
    | some m =>
      if n % 64 ≠ 0 then bad .barrierInvalid else
      let va := (mapBase m + bits n 0 27) % 2 ^ 48
      match s.walk s.core.ctxid va with
      | .fault c => bad c
      | .leaf l =>
        if l.kind ≠ 1 then bad .barrierInvalid else
        match s.meet s.core.ctxid va (barNeed op) with
        | .fault c => bad c
        | _ => none

/-- The operation of the issuing context on the record of a reference. -/
def State.barMsg (s : State) (op : BarOp) (ref : Word) (rd : BitVec 4) (a b : Word) : BarMsg :=
  { src := s.who, place := barPlace s.core.ctxid ref.toNat (s.task.tm.toList.getD (bits ref.toNat 27 4) none), op := op,
    ref := ref, rd := rd, a := a, b := b, wait := s.waitCount, group := s.core.group }

/-- A barrier operation's result at its issuer: the value, as an acquire where it is one, or the trap (R221, R224, R225). -/
def State.barResult (r : BarReply) (s : State) : State :=
  match r.trap with
  | some tr => s.trapWaiting r.dst tr
  | none =>
    let s := if r.acq then s.dropL1 r.dst.core else s
    (match r.rd with
     | some d => s.setXAt r.dst d r.value
     | none => s).retireAt r.dst 4#32

/-- A barrier operation issued: on a record of the issuer's own core its unit performs it; elsewhere it travels to its owner,
and the task context waits for the reply (R215, R221). -/
def State.barIssue (m : BarMsg) (s : State) : State :=
  let s := s.newWait.2
  match m.place with
  | .loc k _ =>
    if k = s.who.core then
      match s.barPerform m with
      | (.value v, s) => (s.barResult (barReply m v none)).prefer
      | (.reject c, s) => s.trap c m.ref
      | (.parked, s) => s.prefer
      | (_, s) => s.stall .retry
    else ((s.send m.group s.who.core k (.barrierOperation m)).prefer).stall .answer
  | .vault .. => ((s.post (.barrierOperation m)).prefer).stall .answer

/-- The common form of the barrier instructions: the reference is checked, then the values, then the release (R221, R227). -/
def State.barrier (op : BarOp) (b d a : BitVec 4) (check : Word → Word → Option Trap) (release : Bool) (s : State) : State :=
  s.inTask fun s => s.withRegs [a, b, d] [] fun s => s.access fun s =>
    let ref := s.x a
    s.checked (s.barTrap op ref) fun s => s.checked (check (s.x d) (s.x b)) fun s => s.await (!release || s.settled) fun s =>
      s.barIssue (match op with
        | .binit | .bexp => s.barMsg op ref d (s.x d) (s.x b)
        | .barr | .bwait | .bwaitm | .btest => s.barMsg op ref d (s.x b) 0#32)

/-- BINIT (R222): a generic expected count above 0xFFFF traps BARRIER_INVALID with the reference. (DEDUCED, log 37). -/
def execBinit (b d a : BitVec 4) (s : State) : Out :=
  ok (State.barrier .binit b d a (fun _ g => failIf (0xFFFF < g.toNat) .barrierInvalid (s.x a).toNat) true s)

/-- BEXP (R222). (DEDUCED, log 37). -/
def execBexp (b d a : BitVec 4) (s : State) : Out :=
  ok (State.barrier .bexp b d a (fun v e =>
    let n := v.toNat
    failIf (bits n 29 3 == 7 || bits n 18 11 != 0 || 0xFFFF < e.toNat || (bits n 29 3 == 6 && bits n 0 18 != 0))
      .barrierProducer n) false s)

/-- BARR (R223). (DEDUCED, log 37). -/
def execBarr (b d a : BitVec 4) (s : State) : Out :=
  ok (State.barrier .barr b d a (fun _ v => failIf (6 < v.toNat) .barrierProducer v.toNat) true s)

/-- BWAIT (R224). -/
def execBwait (b d a : BitVec 4) (s : State) : Out := ok (State.barrier .bwait b d a (fun _ _ => none) false s)
/-- BWAITM (R224). -/
def execBwaitm (b d a : BitVec 4) (s : State) : Out := ok (State.barrier .bwaitm b d a (fun _ _ => none) false s)
/-- BTEST (R225). -/
def execBtest (b d a : BitVec 4) (s : State) : Out := ok (State.barrier .btest b d a (fun _ _ => none) false s)

/-! ## At the owner, and back -/

/-- The reply to an operation that came as a message. -/
def State.barAnswer (m : BarMsg) (r : BarReply) (s : State) : State :=
  match m.place with
  | .loc k _ => s.answer m.group k m.src.core (.barrierReply r)
  | .vault .. => s.postTo m.group (.barrierReply r)

/-- An operation that came as a message, performed and answered (R221, R226). -/
def State.barAct (m : BarMsg) (s : State) : State :=
  match s.barPerform m with
  | (.value v, s) => s.barAnswer m (barReply m v none)
  | (.reject c, s) => s.barAnswer m (barReply m 0#32 (some ⟨c, false, m.ref⟩))
  | (.parked, s) => s
  | (.busy, s) => s.post (.barrierWaitResend m)
  | (.later, s) => s.repost (.barrierOperation m)
  | (.held g, s) => s.hold g (.barrierOperation m)

/-- BARRIER_OPERATION (R187, R215, R221, R226): performed at the owner; at a core it is a message of class 5, behind those of its channel,
and it is held while the core's group stands in a saved image (R285). -/
def execBarrierOperation (s : State) : Out :=
  match s.now with
  | some (.barrierOperation m) =>
    match m.place with
    | .loc k _ =>
      if (s.groupAt m.group).stored then ok (s.hold m.group (.barrierOperation m))
      else if (s.coreAt k).group ≠ m.group then ok (((s.takeSeq (.barrierOperation m)).2.accept m.group m.src.core k).barAct m)
      else ok (s.builtin 5 m.src.core k (.barrierOperation m) fun s => (s.accept m.group m.src.core k).barAct m)
    | .vault .. => ok (s.barAct m)
  | _ => ok s

/-- BARRIER_WAIT_RESEND (R226): a BUSY wait is sent again. -/
def execBarrierWaitResend (s : State) : Out :=
  match s.now with
  | some (.barrierWaitResend m) =>
    match m.place with
    | .loc k _ => ok (s.send m.group m.src.core k (.barrierOperation m))
    | .vault .. => ok (s.post (.barrierOperation m))
  | _ => ok s

/-- BARRIER_REPLY (R182, R221): a core's reply is performed by the issuer's handler context; the instruction completes, or traps. -/
def execBarrierReply (s : State) : Out :=
  match s.now with
  | some (.barrierReply r) =>
    match r.src with
    | some (k, g) => ok (s.builtin 0 k r.dst.core (.barrierReply r) fun s => (s.accept g k r.dst.core).barResult r)
    | none => ok (s.barResult r)
  | _ => ok s

/-- The group of what made an engine arrival: of a transfer, its core's when it was sent. -/
def State.arrivalGroup (s : State) (a : Arrival) : Nat :=
  match a.from_ with
  | .transfer .. => a.group
  | .landing id => ((s.lands.find id).map fun l => l.recv.group).getD 0

/-- The outcome of an engine arrival told to its engine. -/
def State.tellEngine (a : Arrival) (err : Option Cause) (s : State) : State :=
  match a.from_ with
  | .transfer core slot => s.transferArrived core slot a.chunk err
  | .landing id => s.landArrived id a.chunk err

/-- ENGINE_ARRIVAL (R198, R201, R204, R218, R219, R355): an arrival credited or rejected, or a poisoning. -/
def execEngineArrival (s : State) : Out :=
  match s.now with
  | some (.engineArrival a) =>
    match s.barAt a.place (s.arrivalGroup a) .atomic with
    | .failed c => ok (if a.poison then s.barFailed a.place else (s.barFailed a.place).tellEngine a (some c))
    | .later ask => ok ((s.barAsk ask).post (.engineArrival a))
    | .held g => ok (s.hold g (.engineArrival a))
    | .found r pa =>
      let s := s.barTouch a.place .atomic
      if barRejects false r then ok (if a.poison then s else s.tellEngine a (some .barrierInvalid))
      else if a.poison then
        ok ((s.barPut a.place pa (setRecField 0 3 1 1 r)).wakeAll a.place .bwait 1#32)
      else match barCredit a.coreid a.sel a.chunk r with
        | some r' => ok ((s.barTestPhase a.place pa r').tellEngine a none)
        | none => ok (s.tellEngine a (some .barrierProducer))
  | _ => ok s

/-! ## Dissemination barriers (R229 to R231) -/

/-- The participants of a span in index order, and the own index (R229); a binary without a table has its own part alone. -/
def State.participants (s : State) (k span : Nat) : List Partner × Nat :=
  let c := s.coreAt k
  let g := s.groupAt c.group
  let these (ks : List Nat) : List Partner × Nat := (ks.map .core, ks.idxOf k)
  match span with
  | 0 => these g.cores
  | 1 => these (g.cores.filter fun j => j / 16 == k / 16)
  | 2 => these (g.cores.filter fun j => j / 32768 == k / 32768)
  | 3 =>
    let gs := s.groups.filter fun e => e.2.ctx == c.ctxid && e.2.state == .running
    these ((gs.flatMap fun e => e.2.cores).insertionSort (· ≤ ·))
  | _ =>
    let tab := (s.binaryAt g.handle).dset
    let tab := if tab.isEmpty then [(s.partAddr, c.ctxid, g.handle)] else tab
    (tab.map fun e => if e.1 = s.partAddr then .core k else .there e.1 e.2.1 e.2.2 c.rank,
     (tab.map (·.1)).idxOf s.partAddr)

/-- A dissemination context of a core. -/
def Core.dis (c : Core) (n : BitVec 2) : Dissem := c.dissem[n.toFin]

/-- A dissemination context changed. -/
def State.modDis (k : Nat) (n : BitVec 2) (f : Dissem → Dissem) (s : State) : State :=
  s.modCore k fun c => { c with dissem := c.dissem.set n.toFin (f (c.dis n)) }

/-- The episode bit s of an episode. -/
def Dissem.s (d : Dissem) : Bool := d.episode.getLsbD 0

/-- The episode is abandoned, and its DBAR traps (R231). -/
def State.disFail (k : Nat) (n : BitVec 2) (c : Cause) (tval : Nat) (s : State) : State :=
  let d := (s.coreAt k).dis n
  (s.modDis k n fun d => { d with running := false, held := d.held.filter fun h => h.1 != d.s }).trapWaiting ⟨k, d.ctx⟩
    ⟨c, false, BitVec.ofNat 32 tval⟩

/-- The notification of the current round sent to its participant (R230). -/
def State.disNotify (k : Nat) (n : BitVec 2) (s : State) : State :=
  let c := s.coreAt k
  let d := c.dis n
  let note : Notify := { dst := 0, src := k, ctx := c.ctxid, group := c.group, c := n.toNat, s := d.s, k := d.round, part := s.partAddr,
                         there := none }
  match d.members[(d.index + 2 ^ d.round) % d.members.length]? with
  | some (.core j) => s.post (.dbarNotification { note with dst := j })
  | some (.there p ctx h r) =>
    match s.linkFault p with
    | some (c, v) => s.disFail k n c v
    | none => s.toPartAway p (.notify { note with dst := r, there := some (ctx, h) })
  | none => s

/-- The rounds of an episode go on while the notification awaited has come, and its end is an acquire (R230). -/
def State.disAdvance (k : Nat) (n : BitVec 2) : Nat → State → State
  | 0, s => s
  | fuel + 1, s =>
    let d := (s.coreAt k).dis n
    if !d.running then s
    else if d.members.length ≤ 2 ^ d.round then
      let i : Issuer := ⟨k, d.ctx⟩
      ((((s.modDis k n fun d => { d with running := false }).dropL1 k).setXAt i d.rd d.episode).retireAt i 4#32)
    else if (d.s, d.round) ∈ d.held then
      let s := s.modDis k n fun d => { d with held := d.held.erase (d.s, d.round), round := d.round + 1 }
      let s := if 2 ^ (d.round + 1) < d.members.length then s.disNotify k n else s
      disAdvance k n fuel s
    else s

/-- DBAR (R230): the participants are those that it finds. -/
def execDbar (sp : BitVec 3) (n : BitVec 2) (d : BitVec 4) (s : State) : Out :=
  ok (s.inTask fun s => s.withRegs [d] [] fun s => s.access fun s =>
    let k := s.who.core
    s.await (!(s.core.dis n).running && s.settled) fun s =>
      let (w, s) := s.newWait
      let (ps, i) := s.participants k sp.toNat
      let s := (s.modDis k n fun x =>
        { x with episode := x.episode + 1#32, round := 0, running := true, span := sp.toNat, members := ps, index := i, ctx := s.who.ctx,
                 rd := d }).prefer
      let s := s.stall (.parked w)
      let s := if 1 < ps.length then s.disNotify k n else s
      s.disAdvance k n 33)

/-- The RUNNING group of a context and a binary (R229, R271). -/
def State.runningGroup (s : State) (ctx handle : Nat) : Option Nat :=
  (s.groups.find? fun e => e.2.ctx == ctx && e.2.handle == handle && e.2.state == .running).map (·.1)

/-- The group of a context and a binary that takes a notification: the RUNNING one, else one that is being pre-empted or is SAVED, which
holds it (R229, R231). -/
def State.groupOf (s : State) (ctx handle : Nat) : Option Nat :=
  s.runningGroup ctx handle <|> (s.groups.find? fun e => e.2.ctx == ctx && e.2.handle == handle &&
    (e.2.state == .preempting || e.2.stored)).map (·.1)

/-- The answer NACK to a notification, its tval the partner's coreid; of a rank in a group that does not exist, the rank (R231).
(DEDUCED, log 60). -/
def State.disNack (n : Notify) (s : State) : State :=
  let partner := match n.there with
    | some (ctx, h) =>
      ((s.groups.find? fun e => e.2.ctx == ctx && e.2.handle == h && e.2.cores != []).bind fun e => e.2.cores[n.dst]?).getD n.dst
    | none => n.dst
  let a : Nack := ⟨⟨n.src, .tc0⟩, .notify (BitVec.ofNat 4 n.c), .remoteUnreachable, BitVec.ofNat 32 partner, n.group⟩
  if n.part = s.partAddr then s.post (.remoteNack a) else s.toPart n.part (.nack a)

/-- A notification at its core's network interface (R230, R231): kept once, and the episode goes on. -/
def State.disArrive (k : Nat) (n : Notify) (s : State) : State :=
  let c := BitVec.ofNat 2 n.c
  let s := s.modDis k c fun d => if (n.s, n.k) ∈ d.held then d else { d with held := d.held ++ [(n.s, n.k)] }
  s.disAdvance k c 33

/-- The group whose member a notification is for, and the core (R229, R231): of cores of this part, the group of the sender's context that
the core is bound to, else the sender's own, else another that is RUNNING, or SAVED. -/
def State.notified (s : State) (n : Notify) : Option (Nat × Nat) :=
  match n.there with
  | some (ctx, h) => (s.groupOf ctx h).bind fun g => ((s.groupAt g).cores[n.dst]?).map fun k => (g, k)
  | none =>
    let fits (g : Group) : Bool := g.ctx == n.ctx && g.cores.contains n.dst &&
      (g.state == .running || g.state == .preempting || g.stored)
    let first (p : Nat × Group → Bool) : Option Nat := (s.groups.find? fun e => fits e.2 && p e).map (·.1)
    (first (fun e => e.1 == (s.coreAt n.dst).group) <|> first (fun e => e.1 == n.group) <|>
      first (fun e => !e.2.stored) <|> first fun _ => true).map fun g => (g, n.dst)

/-- DBAR_NOTIFICATION (R230, R231): kept for its round; held while its group's cores take no messages (R285); NACK at a core that is no participant. A core
that has left its group drops it. -/
def execDbarNotification (s : State) : Out :=
  match s.now with
  | some (.dbarNotification n) =>
    match s.notified n with
    | none => ok (s.disNack n)
    | some (g, k) =>
      if (s.groupAt g).stored ∨ (s.groupAt g).state = .preempting then ok (s.hold g (.dbarNotification n))
      else if (s.coreAt k).group = g then ok (s.disArrive k n)
      else ok s
  | _ => ok s

end Sys2Proof.Machine
end

