-- ==== Sys2Proof/Machine/Messages.lean ====
section
/-! DEFINITION. Negative answers and wakes, continuation deliveries, task migration, a core's retirement, requests from other
parts, and a port that leaves service (R91, R94, R182, R188, R268, R271, R318, R339 to R343). -/

namespace Sys2Proof.Machine

/-! ## Negative answers and wakes -/

/-- A negative answer at its issuer: the trap at a load's register, or asynchronous for a store or a message; the escalation of a
join; the end of an episode (R94, R176, R186, R231). -/
def State.nacked (n : Nack) (s : State) : State :=
  match n.kind with
  | .load d acq atomic => s.takeReply ⟨n.to_, d, 0#256, acq, atomic, some ⟨n.cause, false, n.tval⟩, none⟩
  | .store => (s.endStoreAt n.to_).asyncTrap n.to_ ⟨n.cause, true, n.tval⟩
  | .message => s.asyncTrap n.to_ ⟨n.cause, true, n.tval⟩
  | .join g => s.escalate g .frameInvalid
      { cause := 0, tval := n.tval, epc := 0#32, coreid := n.to_.core, handler := false,
        kslot := (s.taskAt ⟨n.to_.core, .tc0⟩).kslot.toNat }
  | .notify c =>
    let c := c.setWidth 2
    if ((s.coreAt n.to_.core).dis c).running then s.disFail n.to_.core c n.cause n.tval.toNat else s

/-- Whether a negative answer is for its group and no core: that of a join (R176). -/
def nackOfGroup : NackKind → Bool
  | .join _ => true
  | _ => false

/-- REMOTE_NACK (R94, R176, R186, R231); a group whose cores stand in a saved image takes it at resume (R285), and one for a core that its
group has left ends. -/
def execRemoteNack (s : State) : Out :=
  match s.now with
  | some (.remoteNack n) =>
    if (s.groupAt n.group).stored then ok (s.hold n.group (.remoteNack n))
    else if nackOfGroup n.kind || (s.coreAt n.to_.core).group == n.group then ok (s.nacked n)
    else ok s
  | _ => ok s

/-- What an FE wake does at its issuer (R91, R110, R226): a parked remote operation or wait completes. -/
def State.wake (w : Wake) (s : State) : State :=
  match w with
  | .feLoad i r v k g => ((s.accept g k i.core).takeReply ⟨i, .x r, v.setWidth 256, true, false, none, none⟩).wakeIdle i.core
  | .feStore i k g => ((s.accept g k i.core).endStoreAt i).wakeIdle i.core
  | .barrier r =>
    match r.src with
    | some (k, g) => ((s.accept g k r.dst.core).barResult r).wakeIdle r.dst.core
    | none => (s.barResult r).wakeIdle r.dst.core

/-- The core that sent a wake and the one that it is for; none for the wake of a vault's port, which is no core. -/
def wakeEnds : Wake → Option (Nat × Nat)
  | .feLoad i _ _ k _ => some (k, i.core)
  | .feStore i k _ => some (k, i.core)
  | .barrier r => r.src.map fun e => (e.1, r.dst.core)

/-- FE_WAKE (R91, R182, R184, R226): a core's wake is performed by the issuer's handler context. -/
def execFeWake (s : State) : Out :=
  match s.now with
  | some (.feWake w) =>
    match wakeEnds w with
    | some (k, i) => ok (s.builtin 12 k i (.feWake w) (State.wake w))
    | none => ok (s.wake w)
  | _ => ok s

/-! ## Continuation deliveries (R182, R268, R271) -/

/-- The core that takes a delivery: the one it names while its group holds that, else the first bound core of the group (R268). -/
def State.deliverTo (s : State) (d : Delivery) : Option Nat :=
  let up (j : Nat) : Bool := (s.coreAt j).group == d.group && ((s.coreAt j).power == .bound || (s.coreAt j).power == .saving)
  if up d.dst then some d.dst else if (s.groupAt d.group).state.live then (s.groupAt d.group).cores.find? up else none

/-- A delivery pushed at the bottom of a core's deque, or BUSY (R182). -/
def State.pushDelivery (k : Nat) (d : Delivery) (s : State) : Option State :=
  if (s.coreAt k).dq.room = 0 then none
  else
    let m : Option Mark := if d.fail.isNone ∧ d.part.isNone ∧ d.traps = [] ∧ d.faults = [] then none
      else some ⟨d.fail, d.part, d.traps, d.faults⟩
    some (s.dequePushMarked k d.rec_ m)

/-- CONTINUATION_DELIVERY (R182): held while the group's cores take no messages (R285); a BUSY answer is resent, or has been
answered BUSY for 1 ms. -/
def execContinuationDelivery (s : State) : Out :=
  match s.now with
  | some (.continuationDelivery d) =>
    if (s.groupAt d.group).stored ∨ (s.groupAt d.group).state = .preempting then ok (s.hold d.group (.continuationDelivery d)) else
    match s.deliverTo d with
    | none => ok s
    | some k =>
      match s.pushDelivery k d with
      | some s => ok s
      | none =>
        let (late, s) := s.flip
        ok (s.post (if late then .deliveryBusy d else .deliveryResend d))
  | _ => ok s

/-- DELIVERY_RESEND (R182). -/
def execDeliveryResend (s : State) : Out :=
  match s.now with
  | some (.deliveryResend d) => ok (s.post (.continuationDelivery d))
  | _ => ok s

/-- DELIVERY_BUSY (R282): still BUSY after 1 ms. -/
def execDeliveryBusy (s : State) : Out :=
  match s.now with
  | some (.deliveryBusy d) =>
    ok (s.escalateCore ((s.deliverTo d).getD d.dst) .deliveryBusy (BitVec.ofNat 32 d.dst))
  | _ => ok s

/-! ## Task migration (R271) -/

/-- Whether a task may migrate: VL = 0, no outstanding load of x15, and an entry of the follow table (R271). -/
def State.mayMigrate (s : State) (i : Issuer) (p : Nat) : Bool :=
  let t := s.taskAt i
  !t.vl && !t.pendX.getLsbD 15 && (s.linkFault p).isNone &&
    ((s.contextAt (s.coreAt i.core).ctxid).follow.find p).isSome

/-- TASK_MIGRATE (R271): the other accesses complete, the tokens are handled as at a task's end, and the record goes to the home
part; when a condition fails the task continues. The record takes x1 to x14, so that a fault that a reply left at one of them is taken
first (R94). -/
def execTaskMigrate (s : State) : Out :=
  match s.now with
  | some (.taskMigrate k x p) =>
    let i : Issuer := ⟨k, x⟩
    let s := { s with who := i }
    if (s.taskAt i).follow ≠ some p ∨ (s.taskAt i).run ≠ .running then ok s
    else if !s.mayMigrate i p then ok (s.modTask i fun t => { t with follow := none })
    else ok (s.await s.settled fun s => s.withRegs carriedRegs [] fun s => s.endSteps fun s =>
      let t := s.taskAt i
      let c := s.coreAt k
      let (ctx, h) := (SMap.get (0, 0) (s.contextAt c.ctxid).follow p : Nat × Nat)
      let d : Delivery := { dst := 0, group := 0, rec_ := t.toRec 1 false t.pc, fail := none, part := t.origin, traps := t.traps }
      let node := ((s.groupAt c.group).nodeOf t.kslot.toNat).getD 255
      ((s.toPartAway p (.delivery s.partAddr p ctx h c.rank node (k, c.group) d)).modTask i fun t =>
        { t with run := .free, follow := none, traps := [] }).dropLease i)
  | _ => ok s

/-! ## Leaving the group (R75, R188, R318) -/

/-- The operations parked at a core's words are answered as messages to a core that is not bound (R94); waits parked at its
barrier records trap BARRIER_INVALID (R221). -/
def State.turnAway (k : Nat) (s : State) : State :=
  let c := s.coreAt k
  let s := c.parkedFe.foldl (fun s m =>
    if !m.remote then s
    else s.postTo m.group (.remoteNack ⟨m.src, if feIsLoad m.op then .load (.x m.reg) true false else .store, .remoteUnreachable,
      BitVec.ofNat 32 k, m.group⟩)) s
  let s := c.parkedBar.foldl (fun s m =>
    if m.src.core = k then s else s.answer m.group k m.src.core (.barrierReply (barReply m 0#32 (some ⟨.barrierInvalid, false, m.ref⟩)))) s
  s.modCore k fun c => { c with parkedFe := [], parkedBar := [] }

/-- A core OFF (R75): its banks hold nothing. -/
def State.powerOff (k : Nat) (s : State) : State := s.setCore k {}

/-- The entry record of a kernel slot's node: kind 00, NF 1, the argument words in x1 to x14 (R317, R318). -/
def Group.entryRec (g : Group) (slot entry : Nat) : Rec :=
  Vector.ofFn fun i =>
    if i.val = 0 then BitVec.ofNat 32 (slot * 2 ^ 28 + 2 ^ 24 + entry / 2 % 2 ^ 24)
    else if i.val = 1 then 0#32
    else g.args.getD (i.val - 2) 0#32

/-- A RESERVED core takes up the first task of its kernel slot, memory as left (R75, R318). -/
def State.takeUpReserved (k : Nat) (s : State) : State :=
  let c := s.coreAt k
  let g := s.groupAt c.group
  match c.succ with
  | some slot =>
    let entry := ((s.kernelOf c.group slot.toNat).getD {}).entry
    let free (t : TaskCtx) : TaskCtx := { t with run := .free }
    (s.modCore k fun c => { c with power := .bound, succ := none, tc0 := free c.tc0, tc1 := free c.tc1 }).dequePush k
      (g.entryRec slot.toNat entry)
  | none => s

/-- CORE_LEAVE_GROUP (R75, R188, R318): OFF after two HALTs, else RESERVED, which at once takes up the first task of the kernel slot that
the later HALTR named; while the group is stopped, when it runs again. -/
def execCoreLeaveGroup (s : State) : Out :=
  match s.now with
  | some (.coreLeaveGroup k) =>
    let c := s.coreAt k
    let takes (s : State) : State := if (s.groupAt c.group).state = .running then s.takeUpReserved k else s
    if c.power = .reserved then ok (takes s)
    else if c.power = .bound ∧ c.tc0.run = .left ∧ c.tc1.run = .left ∧ c.quiet ∧ !s.atomicOpen k then
      if c.succ.isSome then ok (takes (s.modCore k fun c => { c with power := .reserved }))
      else ok ((s.turnAway k).powerOff k)
    else ok s
  | _ => ok s

/-! ## Requests from other parts (R267, R340, R342, R343) -/

/-- The home of a frame that has moved to another part, if it has. -/
def State.movedTo (s : State) (pa : Nat) : Option (Nat × Nat) :=
  (s.moved.find? fun e => e.1 ≤ pa && pa < e.1 + e.2.1).map fun e => (e.2.2.1, e.2.2.2 + (pa - e.1))

/-- Whether a physical range of an access for another part lies in a populated range that the home serves: its LPDDR or its vaults (R18,
R267). (DEDUCED, log 58). -/
def State.servedHere (s : State) (pa n : Nat) : Bool :=
  ((inLpddr pa && inLpddr (pa + n - 1)) || (inVault pa && inVault (pa + n - 1))) && s.populated (kindOf pa) pa (pa + n)

/-- What an access of another part meets at the page of a frame (R267). -/
inductive FrameMeet where
  | here
  /-- A read of a DISCARDED page: zero. -/
  | zero
  | wait
  | recall (ctx page : Nat)
  /-- A write of a DISCARDED page, which is for the pager, or which the pager has failed. -/
  | ask (ctx page : Nat)
  | failed (ctx page : Nat)
  deriving DecidableEq, Repr

/-- What an element of an access of another part meets: the state of the page that maps the frame here (R267). (DEDUCED, log 58). -/
def State.frameMeet (s : State) (e : Engine) (n : Need) (pa : Nat) : FrameMeet :=
  match s.pageOfFrame pa with
  | none => .here
  | some (ctx, l) =>
    if s.migrating ctx l then .wait
    else if l.state = 2 then .recall ctx l.base
    else if l.state ≠ 1 then .here
    else if n = .read then .zero
    else if s.pagerFailed.contains (e, ctx, l.base) then .failed ctx l.base
    else .ask ctx l.base

/-- The bytes of a frame as an access of another part reads them: zeros of a DISCARDED page (R267). -/
def State.servedBytes (s : State) (e : Engine) (pa n : Nat) : List Byte :=
  if s.frameMeet e .read pa = .zero then List.replicate n 0#8 else s.frameElem pa n

/-- An element of an access of another part performed at its frame; a plain read that fills lines of the requester's L1 brings the element's
32-byte unit (R267, R406). -/
def State.performFrame (by_ : Engine) (as : State × Access) (e : Nat × Nat) : State × Access :=
  let (s, a) := as
  let old := s.servedBytes by_ e.2 a.size
  match a.op with
  | .read =>
    (s, { a with got := (e.1, leNat (if a.fill then s.servedBytes by_ (e.2 / 32 * 32) 32 else old)) :: a.got })
  | .write _ => (s.frameElemWrite e.2 (a.bytesAt e.1), a)
  | .atomic k x y =>
    (s.frameElemWrite e.2 (leBytes 4 (gaValue k (BitVec.ofNat 32 (leNat old)) x y).toNat), { a with got := (e.1, leNat old) :: a.got })
  | .add f bs => (s.frameElemWrite e.2 (addElem f old bs), a)
  | .discard => (s, a)

/-- The poison of the granules that a write of another part covers whole is cleared (R266). -/
def State.cleanseFrames (a : Access) (s : State) : State :=
  match a.op with
  | .write _ =>
    let whole (unit : Nat) : Bool := (a.elems.countP fun e => e.2 / 32 == unit) * a.size == 32
    a.elems.foldl (fun s e =>
      if !s.framePoisoned e.2 then s else
      let g := match s.pageOfFrame e.2 with
        | some (_, l) => l.granule
        | none => 0
      let units := (granuleSectors g e.2).map (· / 32)
      if units.all whole then units.foldl (fun s u => s.markFrame (32 * u) false) s else s) s
  | _ => s

/-- A discard for another part (R273): the loop is applied to the page of the frame; none is left to do where the page is not to be
discarded. The answer waits while the page is MIGRATING. A frame that no page maps reads zero from now on. (DEDUCED, log 58). -/
def State.serveDiscard (part id pa n : Nat) (req : FabReq) (s : State) : State :=
  let done : FabReq := .accessAns id [] none
  if n = 0 ∨ !s.servedHere pa n then s.toPart part (.accessAns id [] (some .remoteUnreachable)) else
  match s.pageOfFrame pa with
  | some (ctx, l) =>
    if !l.w then s.toPart part (.accessAns id [] (some .permWrite))
    else if !l.discards then s.toPart part done
    else if s.migrating ctx l then s.post (.fabricRequest req)
    else (s.discardPage ctx l).toPart part done
  | none => (s.zeroFrame pa n).toPart part done

/-- What an access of another part that cannot be performed now sets in motion (R267). -/
def State.frameAsk (e : Engine) (s : State) (m : FrameMeet) : State :=
  match m with
  | .recall ctx page => s.recall ctx page
  | .ask ctx page => s.askFor e ctx page
  | _ => s

/-- An access of another part performed at this part by physical address, whose pages are met in their states: its lanes, or
REMOTE_UNREACHABLE at the requester for an error (R267). -/
def State.serveAccess (part id : Nat) (a : Access) (req : FabReq) (s : State) : State :=
  match a.op with
  | .discard => s.serveDiscard part id ((a.elems.map (·.2)).headD 0) (((a.elems.drop 1).map (·.2)).headD 0) req
  | _ =>
    let e : Engine := .remote part id
    let ms := a.elems.map fun x => s.frameMeet e a.need x.2
    let bad (x : Nat × Nat) : Bool := s.frameMeet e a.need x.2 == .here && (unitParts x.2 a.size).any fun u => s.framePoisoned u.1
    let failed := ms.any fun m =>
      match m with
      | .failed .. => true
      | _ => false
    if failed || !(a.elems.all fun x => s.servedHere x.2 a.size) || (a.need != .write && a.elems.any bad) then
      (s.dropFetches e).toPart part (.accessAns id [] (some .remoteUnreachable))
    else if ms.all fun m => m == .here || m == .zero then
      let (s, a') := a.elems.foldl (State.performFrame e) (s, { a with got := [] })
      ((s.dropFetches e).cleanseFrames a).toPart part (.accessAns id a'.got none)
    else (ms.foldl (State.frameAsk e) s).post (.fabricRequest req)

/-- A request passed on to a frame's new home: entered in the forward-pending table, or answered RETRY with its age, for a full table, an
older request refused before, or want of credit, which is free (R342); a home that cannot be reached is an error (R338, R339). -/
def State.passOn (part id age : Nat) (home : Nat) (a : Access) (s : State) : State :=
  match s.linkFault home with
  | some (c, _) => s.toPart part (.accessAns id [] (some (if c = .linkDown then .retryExhausted else c)))
  | none =>
    let (credit, s) := s.flip
    let turn := match s.refusedAge with
      | some old => decide (age ≤ old)
      | none => true
    if s.forwards.length < 32 && turn && credit then
      let (n, s) := s.newWait
      let moved (e : Nat × Nat) : Nat × Nat := (e.1, ((s.movedTo e.2).map (·.2)).getD e.2)
      State.toPart home (.access s.partAddr n age { a with elems := a.elems.map moved })
        { s with forwards := s.forwards.put n ⟨part, id, home⟩, refusedAge := none }
    else
      State.toPart part (.retry (.access part id age a)) { s with refusedAge := some (match s.refusedAge with
        | some old => min old age
        | none => age) }

/-- The lanes read as bytes in their order, for an engine's fetch. -/
def laneBytes (n : Nat) (lanes : List (Nat × Nat)) : List Byte :=
  (List.range n).map fun i => BitVec.ofNat 8 (((lanes.find? fun l => l.1 == i).map (·.2)).getD 0)

/-- The tval of an error answer that is not an address: the destination part (R282, R339). -/
def errTval (c : Cause) (home : Option Nat) : Option Nat :=
  if c = .retryExhausted ∨ c = .routeUnreachable then home else none

/-- The answer to an access, at its requester or at the part that passed it on (R267, R342). -/
def State.accessAnswered (id : Nat) (lanes : List (Nat × Nat)) (err : Option Cause) (s : State) : State :=
  match s.forwards.find id with
  | some f => State.toPart f.part (.accessAns f.id lanes err) { s with forwards := s.forwards.del id }
  | none =>
    match s.away.find id, s.fetches.find id with
    | some w, _ =>
      if w.home.isNone then s
      else match err with
        | some c => s.awayFail id c (errTval c w.home)
        | none => s.awayDone id lanes
    | none, some f =>
      s.fetchAnswer id (match err with
        | some c => .fail c (errTval c f.home)
        | none => .data (laneBytes f.size lanes))
    | none, none => s

/-- A continuation from another part (R271): pushed at the core of the migrating task's rank in the RUNNING group of the context and the
binary, whose kernel slot must hold the same kernel, the binary's node of the same number (DEDUCED, log 59); BUSY for a full deque, NACK
without such a group. -/
def State.takeMigrant (part ctx handle rank node back : Nat) (d : Delivery) (req : FabReq) (s : State) : State :=
  let refused := s.toPart part (.deliveryAns true req)
  match s.runningGroup ctx handle with
  | none => refused
  | some g =>
    let gr := s.groupAt g
    if gr.nodeOf (bits d.rec_[0].toNat 28 2) ≠ some node then refused
    else match gr.cores[rank % gr.cores.length]? with
      | none => refused
      | some k =>
        if (s.coreAt k).group ≠ g ∨ (s.coreAt k).power ≠ .bound then refused
        else match s.pushDelivery k { d with part := some (part, back) } with
          | some s => s
          | none => s.toPart part (.deliveryAns false req)

/-- A join from a part that took a task of a group of this one (R176, R271): at the owner's frame unit after the messages that came before
it (R187), held while the group's cores take no messages (R285), or answered NACK by an owner that is not bound to the group. -/
def State.joinFromPart (part : Nat) (f : Word) (src : Issuer) (g there : Nat) (s : State) : State :=
  let k := frameOwner f
  let req : FabReq := .join part f src g there
  if (s.groupAt there).stored ∨ (s.groupAt there).state = .preempting then s.hold there (.fabricRequest req)
  else if there ≠ 0 ∧ (s.coreAt k).group = there ∧ (s.coreAt k).power = .bound then
    if s.handlerFree k then s.joinAt there f else s.repost (.fabricRequest req)
  else s.toPart part (.nack ⟨src, .join g, .frameInvalid, f, g⟩)

/-! ## Requests that fail on their way (R339) -/

/-- A request of this part to another that has failed, with its cause and tval: a load, a store or a message traps, a transfer meets a
chunk fault, a SEND or a landing ends, an ENQ's target has not answered, a notification is lost, a migrating record returns, and a
request passed on is answered with the link-retry failure (R230, R271, R309, R339, R348, R357). -/
def State.requestLost (p : Nat) (r : FabReq) (c : Cause) (v : Nat) (s : State) : State :=
  let s := s.endFlight r
  let tval := BitVec.ofNat 32 v
  match r with
  | .am m => s.post (.remoteNack ⟨m.src, .message, c, tval, m.group⟩)
  | .join _ _ src g _ => s.post (.remoteNack ⟨src, .message, c, tval, g⟩)
  | .notify n =>
    s.escalate n.group .fabricNotifyLost
      { cause := 0, tval := BitVec.ofNat 32 p, epc := 0#32, coreid := n.src, handler := false, kslot := (s.taskAt ⟨n.src, .tc0⟩).kslot.toNat }
  | .delivery _ _ _ _ _ _ back d => s.post (.continuationDelivery { d with dst := back.1, group := back.2 })
  | .enq _ m => s.post (.enqAnswer m.src m.rd m.ref false)
  | .access _ id _ _ =>
    match s.forwards.find id with
    | some f => State.toPart f.part (.accessAns f.id [] (some .retryExhausted)) { s with forwards := s.forwards.del id }
    | none =>
      if (s.away.find id).isSome then s.awayFail id c (some v) else s.fetchAnswer id (.fail c (some v))
  | .header h =>
    match s.sendHome h.score h.slot with
    | .here slot => s.headerLost h.score slot c v
    | .saved g => s.hold g (.fabricRequest (.failed (.header h)))
    | .gone => s
  | .pull _ _ _ landing .. => s.failLanding landing .rendezvousFail
  | _ => s

/-- A migrating record answered NACK goes back to its core, where the task continues (R271). -/
def State.deliveryBack (q : FabReq) (s : State) : State :=
  match q with
  | .delivery _ _ _ _ _ _ back d =>
    if s.flight.any fun e => e.2 == q then (s.endFlight q).post (.continuationDelivery { d with dst := back.1, group := back.2 }) else s
  | _ => s

/-- The destination of a request of this part that still waits for its answer or its arrival. -/
def State.waitingAt (s : State) (r : FabReq) : Option Nat :=
  match r with
  | .access _ id _ _ => s.homeOf id
  | .header h =>
    match s.sendHome h.score h.slot with
    | .here slot =>
      if (s.slotT h.score slot).phase = .asking ∨ (s.slotT h.score slot).phase = .resending then some h.dpart else none
    | .saved _ => some h.dpart
    | .gone => none
  | .pull _ _ _ landing .. => (s.lands.find landing).map fun l => l.header.spart
  | r => (s.flight.find? fun e => e.2 == r).map (·.1)

/-- FABRIC_REQUEST (R343): what has come from another part is performed, passed on, or handed to its place on the part. A
checkpoint record is for the safe tier beside the part, which the spec places outside it. -/
def execFabricRequest (s : State) : Out :=
  match s.now with
  | some (.fabricRequest r) =>
    match r with
    | .am m => ok (s.post (.mailboxArrival m))
    | .access part id age a =>
      match (a.elems.map (·.2)).head?.bind s.movedTo with
      | some (home, _) => ok (s.passOn part id age home a)
      | none => ok (s.serveAccess part id a r)
    | .accessAns id lanes err => ok (s.accessAnswered id lanes err)
    | .enq _ m => ok (s.post (.enqRequest m))
    | .enqAns i rd v =>
      let mine (e : Nat × FabReq) : Bool := match e.2 with
        | .enq _ m => m.src == i
        | _ => false
      ok (State.post (.enqAnswer i rd v true) { s with flight := s.flight.filter fun e => !mine e })
    | .header h => ok (s.post (.sendHeader h))
    | .sendAns core n resend a => ok (s.post (.sendAnswer core n resend a))
    | .pull part core n landing k bytes => ok (s.post (.pullRead part core n landing k bytes))
    | .pulled landing k (some bs) => ok (s.post (.payloadArrival landing k bs))
    | .pulled landing _ none => ok (s.failLanding landing .rendezvousFail)
    | .sendDone core n => ok (s.sendDone core n)
    | .sendCancel part core n => ok (s.sendCancelled part core n)
    | .delivery part _ ctx h rank node back d => ok (s.takeMigrant part ctx h rank node back.2 d r)
    | .deliveryAns true q => ok (s.deliveryBack q)
    | .deliveryAns false q => ok (s.post (.retryResend q))
    | .join part f src g there => ok (s.joinFromPart part f src g there)
    | .notify n => ok (s.post (.dbarNotification n))
    | .nack n => ok (s.post (.remoteNack n))
    | .retry q => ok (s.post (.retryResend q))
    | .arrived q => ok (s.endFlight q)
    | .failed q =>
      match s.waitingAt q with
      | some p => ok (s.requestLost p q .retryExhausted p)
      | none => ok s
    | .record .. => ok s
  | _ => ok s

/-! ## A port that leaves service (R339, R344) -/

/-- The SENDs of a core that wait for the port fail: one whose first header is unanswered returns its ID (R347, R348). -/
def State.downSends (port : Nat) (s : State) : State :=
  let hit (t : Transfer) : Bool := t.kind == .send && t.state == .active && t.header.any fun h =>
    match h.ring with
    | some r => port == 8 + r
    | none => s.usesPort port h.dpart
  let all := s.cores.flatMap fun e => (e.2.slots.filter fun t => hit t.2).map fun t => (e.1, t.1)
  all.foldl (fun s (core, slot) => s.headerLost core slot .linkDown (if 8 ≤ port then port - 8 else port)) s

/-- LINK_DOWN (R339, R344): the port leaves service; what waits for an answer through it fails: loads, stores and atomics, engines'
fetches, messages, ENQs, notifications and migrating records, SENDs, landings that pull through it, and requests passed on. -/
def execLinkDown (s : State) : Out :=
  match s.now with
  | some (.linkDown port) =>
    if s.portsDown.contains port then ok s else
    let ids := (s.away.filter fun e => e.2.home.any (s.usesPort port)).map (·.1)
    let lands := (s.lands.filter fun e => s.pullsBy port e.2.header).map (·.1)
    let gone := s.flight.filter fun e => s.usesPort port e.1
    let passed := s.forwards.filter fun e => s.usesPort port e.2.home
    let fail (f : Fetch) : Fetch :=
      if f.ans = .none ∧ f.home.any (s.usesPort port) then { f with ans := .fail .linkDown (some port) } else f
    let s := s.downSends port
    let s := { s with portsDown := s.portsDown ++ [port], fetches := s.fetches.map fun e => (e.1, fail e.2),
                      forwards := s.forwards.filter fun e => !passed.any fun p => p.1 == e.1 }
    let s := if 8 ≤ port then s.count .ringBreak else s
    let s := passed.foldl (fun s e => s.toPart e.2.part (.accessAns e.2.id [] (some .retryExhausted))) s
    let s := ids.foldl (fun s id => s.awayFail id .linkDown (some port)) s
    let s := gone.foldl (fun s e => s.requestLost e.1 e.2 .linkDown port) s
    ok (lands.foldl (fun s id => s.failLanding id .rendezvousFail) s)
  | _ => ok s

end Sys2Proof.Machine
end

