-- ==== Sys2Proof/Machine/Queues.lean ====
section
/-! DEFINITION. Queues: kicks and commands, images stored by ENQ and by the trigger table, and the firmware's scheduling
(R292 to R295, R303 to R310, R323, R324). -/

namespace Sys2Proof.Machine

/-! ## A queue's ring (R293) -/

/-- How many packets the ring holds (R293). -/
def Queue.size (u : Queue) : Nat := 2 ^ (u.lsize.toNat + 4)
/-- The virtual address of the ring slot of an index (R293). -/
def Queue.slotVa (u : Queue) (i : Word) : Nat := u.base.toNat + 64 * (i.toNat % u.size)
/-- How many LAUNCH and COPY packets may be in flight (R293). -/
def Queue.most (u : Queue) : Nat := if u.quota = 0#4 then 8 else u.quota.toNat
/-- A queue that has drained (R306): no packet is at ri or in flight, and no SIGNAL's write is under way. -/
def Queue.drained (u : Queue) : Bool := u.wi == u.ri && u.inflight == 0 && u.acting.isNone
/-- A full ring (R309). -/
def Queue.full (u : Queue) : Bool := (u.wi - u.ri).toNat == u.size

/-- A word counted up, saturating (R293). -/
def satInc (w : Word) : Word := if w = 0xFFFFFFFF#32 then w else w + 1#32

/-- A queue that becomes PENDING: its age is 0 and its eff starts at prio (R294, R306). -/
def Queue.pend (u : Queue) : Queue := { u with state := .pending, age := 0#32, eff := u.prio }

/-- A queue becomes PENDING, after those that became so before it (R294, R306). -/
def State.pendQueue (q : Nat) (s : State) : State :=
  State.modQueue q (fun u => { u.pend with pendingAt := s.pendCount }) { s with pendCount := s.pendCount + 1 }

/-- A kick or ENQ ignored (R295, R309). -/
def State.dropKick (q : Nat) (s : State) : State := s.modQueue q fun u => { u with kickdrop := satInc u.kickdrop }

/-- wi has advanced: an IDLE queue becomes PENDING (R294). -/
def State.advanced (q : Nat) (s : State) : State :=
  if (s.queueAt q).state = .idle then (s.pendQueue q).requestPass else s

/-- The queue's hardware slot is told to stop at the next packet boundary (R305). -/
def State.stopSlot (q : Nat) (s : State) : State :=
  match s.slotOf q with
  | some k => { s with hwSlots := s.hwSlots.put k { SMap.get {} s.hwSlots k with stopping := true } }
  | none => s

/-! ## Images stored in a ring (R309, R324) -/

/-- An image with the stamp of an index (R296, R309). -/
def stamped (img : Rec) (i : Word) : Rec := img.set 0 (BitVec.ofNat 32 (setBits img[0].toNat 8 16 i.toNat))

/-- An image stored with its stamp at the slot of wi, and wi advanced once it is written. While another engine's write of the slot is
under way it waits. The spec names no outcome of a write that faults: the queue takes RING_FAULT (assumption 12). (DESIGN CHOICE, log 12). -/
def State.storeImage (e : Engine) (q : Nat) (img : Rec) (s : State) : Progress × State :=
  let u := s.queueAt q
  let va := u.slotVa u.wi
  if s.fetches.any fun f => f.2.by_ != e && f.2.op != .read && va ≤ f.2.va && f.2.va < va + 64 then (.wait, s) else
  match s.engineWrite e u.ctxid.toNat 0 [(va, wordBytes (stamped img u.wi).toList)] with
  | (.wait, s) => (.wait, s)
  | (.fault c va, s) => (.fault c va, (s.dropFetches e).queueError q .ringFault u.wi (BitVec.ofNat 32 va))
  | (.done bs, s) => (.done bs, ((s.dropFetches e).modQueue q fun u => { u with wi := u.wi + 1#32 }).advanced q)

/-! ## The trigger table (R323, R324) -/

/-- An entry of the trigger table. -/
def State.triggerAt (s : State) (e : Nat) : Trigger := SMap.get {} s.triggers e

/-- The state with a trigger entry changed. -/
def State.modTrigger (e : Nat) (f : Trigger → Trigger) (s : State) : State :=
  { s with triggers := s.triggers.put e (f (s.triggerAt e)) }

/-- The context whose range holds an entry (R323). -/
def State.triggerOwner (s : State) (e : Nat) : Option Nat :=
  (s.contexts.find? fun c => c.2.state != .free && c.2.trigBase ≤ e && e < c.2.trigBase + c.2.trigCnt).map (·.1)

/-- An event placed behind those in flight unless it stands there already. -/
def State.postOnce (e : Event) (s : State) : State := if s.pending.contains e then s else s.post e

/-- An entry injects its image (R324). (DESIGN CHOICE, log 12). -/
def State.inject (s : State) (e : Nat) : State :=
  let t := s.triggerAt e
  let q := t.queue.toNat
  let u := s.queueAt q
  if u.state = .disabled ∨ !u.prod then
    (((s.dropFetches (.inject e)).modTrigger e fun t => { t with state := .free }).dropKick q)
  else if u.full then s.modTrigger e fun t => { t with state := .waiting }
  else match s.storeImage (.inject e) q t.image with
    | (.wait, s) => s.postOnce (.triggerArrival e 0 true)
    | (.fault .., s) => s.modTrigger e fun t => { t with state := .free }
    | (.done _, s) => s.modTrigger e fun t => { t with state := .free, count := t.count - t.thresh }

/-- An ARMED entry whose count has reached its threshold injects (R324). (DESIGN CHOICE, log 12). -/
def State.testTrigger (s : State) (e : Nat) : State :=
  if (s.triggerAt e).state = .armed ∧ (s.triggerAt e).thresh ≤ (s.triggerAt e).count then s.inject e else s

/-- A WAITING entry tries again, its queue's ri having advanced (R324). -/
def State.retryTrigger (s : State) (e : Nat) : State := if (s.triggerAt e).state = .waiting then s.inject e else s

/-- TRIGGER_ARRIVAL (R323, R324): counted in every state of the entry, or dropped for a context that does not own it; or an injection whose
write goes on. -/
def execTriggerArrival (s : State) : Out :=
  match s.now with
  | some (.triggerArrival e ctx again) =>
    if again then ok (if (s.triggerAt e).state = .waiting then s.inject e else s.testTrigger e)
    else if s.triggerOwner e ≠ some ctx then ok (s.count .sendAcl)
    else ok ((s.modTrigger e fun t => { t with count := satInc t.count }).testTrigger e)
  | _ => ok s

/-- ri passes a packet, whose waits are over, and the entries that wait for room try again in ascending order (R301, R310, R324). -/
def State.passRi (q : Nat) (s : State) : State :=
  let s := (s.dropFetches (.hub q (s.queueAt q).ri.toNat)).modQueue q fun u =>
    { u with ri := u.ri + 1#32, waitB := false, waitW := false, stale := 0#32 }
  ((s.triggers.filter fun t => t.2.state == .waiting && t.2.queue.toNat == q).map (·.1)).foldl State.retryTrigger s

/-! ## Kicks and commands of the host (R294, R295) -/

/-- KICK (R295). -/
def execKick (s : State) : Out :=
  match s.now with
  | some (.kick q n) =>
    let u := s.queueAt q
    if u.state = .disabled ∨ u.prod then ok (s.dropKick q)
    else if u.size < (n - u.ri).toNat then ok (s.queueError q .overrun n u.wi)
    else if n - u.ri ≤ u.wi - u.ri then ok s
    else ok ((s.modQueue q fun u => { u with wi := n }).advanced q)
  | _ => ok s

/-- Whether the examination of the packet at ri stands past its last boundary (R305): its write-back is under way, or reads that no wait
of the packet explains. (DEDUCED, log 78). -/
def State.midPacket (s : State) (q : Nat) : Bool :=
  let u := s.queueAt q
  let e : Engine := .hub q u.ri.toNat
  let reads := !u.waitW && !u.waitB && u.stale == 0#32
  (s.slotOf q).isSome && (s.fetches.any (fun f => f.2.by_ == e && (f.2.op != .read || (reads && f.2.ans == .none))) ||
    (reads && s.engineAsks.any fun a => a.1 == e))

/-- SUSPEND (R294): the slot stops at the next packet boundary. -/
def execSuspend (s : State) : Out :=
  match s.now with
  | some (.suspend q) =>
    match (s.queueAt q).state with
    | .idle | .pending | .bound => ok ((s.stopSlot q).modQueue q fun u => { u with state := .suspended })
    | _ => ok s
  | _ => ok s

/-- Whether a queue is SUSPENDED or in ERROR. -/
def Queue.halted (u : Queue) : Bool := u.state == .suspended || u.state == .error

/-- RESUME (R294, R303): once its slot is past no boundary (R305), the packet at ri is read afresh. -/
def execResume (s : State) : Out :=
  match s.now with
  | some (.resume q) =>
    let u := s.queueAt q
    if !u.halted then ok s else
    if s.midPacket q then ok (s.repost (.resume q)) else
    let s := (s.dropFetches (.hub q u.ri.toNat)).modQueue q fun u =>
      { u with state := .idle, ecode := 0#8, waitB := false, waitW := false, stale := 0#32 }
    ok (if u.wi = u.ri then s else s.advanced q)
  | _ => ok s

/-- SKIP (R294): at a packet boundary (R305) ri passes the packet at it; the state and the error record are kept. No stamp is written
back: the row of R294 lists ri + 1 alone. (DEDUCED, log 76). -/
def execSkip (s : State) : Out :=
  match s.now with
  | some (.skip q) =>
    let u := s.queueAt q
    if !u.halted then ok s
    else if s.midPacket q then ok (s.repost (.skip q))
    else if u.wi ≠ u.ri then ok (s.passRi q) else ok s
  | _ => ok s

/-- ENABLE (R294). -/
def execEnable (s : State) : Out :=
  match s.now with
  | some (.enable q) =>
    let u := s.queueAt q
    let st := (s.contextAt u.ctxid.toNat).state
    if u.state = .disabled ∧ u.lsize.toNat ≤ 12 ∧ u.base.toNat % 4096 = 0 ∧ (st = .ready ∨ st = .running) then
      ok (s.modQueue q fun u =>
        { u with state := .idle, ri := 0#32, wi := 0#32, ecode := 0#8, stale := 0#32, waitB := false, waitW := false })
    else ok s
  | _ => ok s

/-- A queue becomes DISABLED: unbound at its packet boundary, and no longer pending (R294). -/
def State.disableQueue (q : Nat) (s : State) : State :=
  ((s.dropFetches (.hub q (s.queueAt q).ri.toNat)).stopSlot q).modQueue q fun u =>
    { u with state := .disabled, disabling := false, waitB := false, waitW := false }

/-- DISABLE (R294): at the next packet boundary, or when inflight reaches zero. -/
def execDisable (s : State) : Out :=
  match s.now with
  | some (.disable q) =>
    let u := s.queueAt q
    if u.state = .disabled then ok s
    else if s.midPacket q then ok (s.repost (.disable q))
    else if u.inflight = 0 then ok (s.disableQueue q)
    else ok (s.modQueue q fun u => { u with disabling := true })
  | _ => ok s

/-- DISABLE_DRAINED (R294). -/
def execDisableDrained (s : State) : Out :=
  match s.now with
  | some (.disableDrained q) =>
    let u := s.queueAt q
    if u.disabling ∧ u.inflight = 0 ∧ !s.midPacket q then ok (s.disableQueue q) else ok s
  | _ => ok s

/-- PRIO_CHANGE (R293, R307): the new prio stands, and takes effect at the pass that it causes. -/
def execPrioChange (s : State) : Out :=
  match s.now with
  | some (.prioChange q p) => ok ((s.modQueue q fun u => { u with prio := p, reprio := true }).requestPass)
  | _ => ok s

/-- A packet in flight of a queue has ended (R301); a bound queue that has drained asks for a pass (R306). -/
def State.endInflight (q : Nat) (s : State) : State :=
  let s := s.modQueue q fun u => { u with inflight := u.inflight - 1 }
  let u := s.queueAt q
  if u.state = .bound ∧ u.drained then s.requestPass else s

/-! ## Scheduling (R304 to R307) -/

/-- The first element in an order, when it is a list's. -/
def firstBy {α : Type} (before : α → α → Bool) (l : List α) : Option α :=
  l.foldl (fun best a =>
    match best with
    | some b => if before a b then some a else some b
    | none => some a) none

/-- The order in which pending queues are bound: the highest eff, then the greatest age, which is that of the one PENDING longest, then the
lower number (R306). -/
def bindsBefore (a b : Nat × Queue) : Bool :=
  b.2.eff < a.2.eff || (a.2.eff == b.2.eff && (a.2.pendingAt < b.2.pendingAt || (a.2.pendingAt == b.2.pendingAt && a.1 < b.1)))

/-- The queues that wait for a slot. -/
def State.pendingQueues (s : State) : List (Nat × Queue) :=
  s.queues.filter fun e => e.2.state == .pending && (s.slotOf e.1).isNone

/-- Whether a context holds as many slots as its quota allows (R306). -/
def State.atQuota (s : State) (ctx : BitVec 10) : Bool :=
  (s.contextAt ctx.toNat).quota ≤ s.hwSlots.countP fun e => e.2.v && e.2.ctxid == ctx

/-- A slot's bind register written by firmware (R304): it must name the queue's context; otherwise the slot stays idle, and the error is
counted. -/
def State.bindSlot (k : Nat) (slot : HwSlot) (s : State) : State :=
  let s := { s with hwSlots := s.hwSlots.put k slot }
  if slot.ctxid = (s.queueAt slot.queue).ctxid then s else s.count .firmwareError

/-- Step 2 of a pass: each free slot takes the pending queue of highest eff whose context is below its quota (R306). -/
def State.bindFree : Nat → State → State
  | 0, s => s
  | n + 1, s =>
    match (List.range 64).find? fun k => !(SMap.get {} s.hwSlots k : HwSlot).v,
        firstBy bindsBefore (s.pendingQueues.filter fun e => !s.atQuota e.2.ctxid) with
    | some k, some (q, u) =>
      let slot : HwSlot := { v := true, queue := q, eff := u.eff, ctxid := u.ctxid }
      let t := s.modQueue q fun u => { u with state := .bound, eligible := false, boundAt := s.bindCount }
      State.bindFree n (State.bindSlot k slot { t with bindCount := s.bindCount + 1 })
    | _, _ => s

/-- The order in which bound queues give way: the lowest eff, then the one bound longest (R306). -/
def yieldsBefore (a b : Nat × Queue) : Bool :=
  a.2.eff < b.2.eff || (a.2.eff == b.2.eff && a.2.boundAt < b.2.boundAt)

/-- Step 3 of a pass: the eligible bound queue of lowest eff gives way to the highest pending one. Its slot stops at the packet
boundary, and the pass that follows its report binds the pending queue in its place (R305, R306). -/
def State.giveWay (s : State) : State :=
  if s.hwSlots.any fun e => e.2.v && e.2.stopping then s else
  match firstBy bindsBefore s.pendingQueues with
  | none => s
  | some (_, p) =>
    let victims := s.queues.filter fun e =>
      e.2.state == .bound && e.2.eligible && e.2.eff < p.eff && (!s.atQuota p.ctxid || e.2.ctxid == p.ctxid)
    match firstBy yieldsBefore victims with
    | some (v, _) => s.stopSlot v
    | none => s

/-- The changes of prio that this pass was asked for (R307). -/
def State.takePrio (s : State) : State :=
  let next (u : Queue) : Queue := if u.reprio then { u with eff := u.prio, age := 0#32, pendingAt := s.pendCount, reprio := false } else u
  let bindEff (h : HwSlot) : HwSlot := if h.v && (s.queueAt h.queue).reprio then { h with eff := (s.queueAt h.queue).prio } else h
  { s with queues := s.queues.map (fun e => (e.1, next e.2)), hwSlots := s.hwSlots.map (fun e => (e.1, bindEff e.2)),
           pendCount := s.pendCount + 1 }

/-- SCHEDULING_PASS (R306, R372): it waits while an update imports the state table. -/
def execSchedulingPass (s : State) : Out :=
  match s.now with
  | some .schedulingPass =>
    if s.firmware.role = .importing then ok (s.postOnce .schedulingPass) else
    let s := s.takePrio
    let drained := (s.queues.filter fun e => e.2.state == .bound && e.2.drained).map (·.1)
    ok (((drained.foldl (fun s q => s.stopSlot q) s).bindFree 64).giveWay)
  | _ => ok s

/-- SLOT_QUIESCENT (R294, R305): the stopped slot is free, and its queue PENDING or IDLE if it was still BOUND. -/
def execSlotQuiescent (s : State) : Out :=
  match s.now with
  | some (.slotQuiescent k) =>
    let h : HwSlot := SMap.get {} s.hwSlots k
    let u := s.queueAt h.queue
    if h.v ∧ h.stopping ∧ u.acting = none ∧ !s.midPacket h.queue then
      let s := if u.state ≠ .bound then s
        else if u.wi ≠ u.ri then s.pendQueue h.queue
        else s.modQueue h.queue fun u => { u with state := .idle }
      ok (State.requestPass { s with hwSlots := s.hwSlots.put k {} })
    else ok s
  | _ => ok s

/-- Whether a header word is that of a packet with N = 1 at an index (R296, R306). -/
def headerN (ri : Word) (h : Nat) : Bool := bits h 8 16 == ri.toNat % 65536 && bits h 26 1 == 1

/-- The age of a queue at the end of the ageing quantum in which it stands (R306). -/
def State.quantumEnd (s : State) (age : Word) : Word := BitVec.ofNat 32 ((age.toNat / s.quantum + 1) * s.quantum)

/-- AGEING_STEP (R293, R306): a microsecond of a pending queue's age within its quantum; or the end of a quantum of a pending queue, whose
eff rises unless a packet with N = 1 stands at ri, or of a bound one, which becomes eligible; the step waits for a read of the ring that another agent performs. (DESIGN CHOICE, log 5). -/
def execAgeingStep (s : State) : Out :=
  match s.now with
  | some (.ageingStep q) =>
    let u := s.queueAt q
    let e : Engine := .hub q u.ri.toNat
    let age (still : Bool) (s : State) : State :=
      (s.modQueue q fun u => { u with age := s.quantumEnd u.age,
                                      eff := if still || u.eff == 15#4 then u.eff else u.eff + 1#4 }).requestPass
    if u.state = .pending then
      if u.wi = u.ri then ok (age false s) else
      match s.engineRead e u.ctxid.toNat 0 [(u.slotVa u.ri, 4)] with
      | (.wait, s) => ok s
      | (.fault .., s) => ok (age false (s.dropFetches e))
      | (.done bs, s) => ok (age (headerN u.ri (leNat bs)) (s.dropFetches e))
    else if u.state = .bound ∧ !u.eligible then ok ((s.modQueue q fun u => { u with eligible := true }).requestPass)
    else ok s
  | some (.ageMicro q) =>
    let u := s.queueAt q
    if u.state = .pending ∧ u.age + 1#32 ≠ s.quantumEnd u.age then ok (s.modQueue q fun u => { u with age := u.age + 1#32 }) else ok s
  | _ => ok s

/-! ## ENQ (R308 to R310) -/

/-- The trap of an ENQ to a part without a route, or one whose port is out of service, which cannot answer (R309, R338). -/
def State.enqTrap (s : State) (part q : Nat) : Option Trap :=
  (s.linkFault part).map fun (c, v) =>
    if c = .routeUnreachable then ⟨c, false, BitVec.ofNat 32 v⟩ else ⟨.remoteUnreachable, false, BitVec.ofNat 32 q⟩

/-- ENQ (R309). -/
def execEnq (b d a : BitVec 4) (s : State) : Out :=
  ok (s.inTask fun s => s.withRegs [a, b, d] [] fun s => s.access fun s =>
    let n := (s.x a).toNat
    let at_ := (s.x b).toNat
    let part := bits n 12 12
    let here := bits n 24 1 == 0 || part == s.partAddr
    s.checked (firstTrap [failIf (bits n 25 7 != 0 || (bits n 24 1 == 0 && part != 0)) .remoteUnreachable n,
      failIf (0x7FFF < at_ + 63) .localRange at_, failIf (at_ % 4 != 0) .misaligned at_,
      failIf (here && (s.queueAt (bits n 0 12)).ctxid.toNat != s.core.ctxid) .sendAcl s.partAddr,
      if here then none else s.enqTrap part n]) fun s => s.await s.settled fun s =>
        let m : EnqMsg := { src := s.who, rd := d, ref := s.x a, queue := bits n 0 12, img := s.core.lm.rec at_, spart := s.partAddr,
                            sctx := s.core.ctxid, local_ := here }
        (if here then s.post (.enqRequest m) else s.toPartAway part (.enq s.partAddr m)).prefer.stall .answer)

/-- The answer to an ENQ travels to its issuer (R309). -/
def State.answerEnq (m : EnqMsg) (v : Word) (s : State) : State :=
  let s := s.dropFetches (.enq m.spart m.src.core m.src.ctx)
  if m.local_ then s.post (.enqAnswer m.src m.rd v true) else s.toPart m.spart (.enqAns m.src m.rd v)

/-- Whether a queue's ACL admits an ENQ from another part (R308). -/
def Queue.admits (u : Queue) (part ctx : Nat) : Bool :=
  u.acl.toList.any fun w =>
    bits w.toNat 31 1 == 1 && bits w.toNat 10 12 == part && (bits w.toNat 30 1 == 1 || bits w.toNat 0 10 == ctx)

/-- ENQ_REQUEST (R308, R309): applied to the queue in one step. The status after an image write that faults is not stated: it is a
free value (assumption 12). (DESIGN CHOICE, log 12). -/
def execEnqRequest (s : State) : Out :=
  match s.now with
  | some (.enqRequest m) =>
    let u := s.queueAt m.queue
    if !m.local_ && !u.admits m.spart m.sctx then
      ok ((s.modQueue m.queue fun u => { u with acldrop := satInc u.acldrop }).answerEnq m 3#32)
    else if u.state = .disabled ∨ !u.prod then ok ((s.dropKick m.queue).answerEnq m 2#32)
    else if u.full then ok (s.answerEnq m 1#32)
    else match s.storeImage (.enq m.spart m.src.core m.src.ctx) m.queue m.img with
      | (.wait, s) => ok (s.post (.enqRequest m))
      | (.fault .., s) =>
        let (w, s) := s.freeWord
        ok (s.answerEnq m w)
      | (.done _, s) => ok (s.answerEnq m (u.wi <<< 16))
  | _ => ok s

/-- ENQ_ANSWER (R309): the status in rd, or REMOTE_UNREACHABLE with tval = q for a part that cannot answer. -/
def execEnqAnswer (s : State) : Out :=
  match s.now with
  | some (.enqAnswer i d v reached) =>
    if (s.taskAt i).run ≠ .stalled .answer then ok s
    else if reached then ok ((s.setXAt i d v).retireAt i 4#32)
    else ok (s.trapWaiting i ⟨.remoteUnreachable, false, v⟩)
  | _ => ok s

end Sys2Proof.Machine
end

