-- ==== Sys2Proof/Machine/Packets.lean ====
section
/-! DEFINITION. Dispatch: the packet at a bound queue's ri, its checks, the stamp rule, and what each type of packet does (R296 to
R303, R313 to R316, R322 to R325). -/

namespace Sys2Proof.Machine

/-! ## The packet at ri (R297, R302) -/

/-- What an examination finds. -/
inductive Exam where
  /-- Nothing to examine. -/
  | idle
  /-- The read of the ring waits. -/
  | wait
  | fault (va : Nat)
  /-- The stamp is not that of the index. -/
  | stale (stamp : Nat)
  | packet (r : Rec)
  deriving DecidableEq, Repr

/-- The record of 64 bytes. -/
def recOfBytes (bs : List Byte) : Rec := Vector.ofFn fun i => BitVec.ofNat 32 (leNat ((bs.drop (4 * i.val)).take 4))

/-- Whether dispatch serves a queue: bound, no packet of it in the act, its slot of the same context and not stopping, and no checkpoint
under way; an examination that stands past its boundary goes on to the next (R294, R301, R304, R305, R376). -/
def State.serves (s : State) (q : Nat) : Bool :=
  let u := s.queueAt q
  u.acting.isNone && match s.slotOf q with
    | some k =>
      let h : HwSlot := SMap.get {} s.hwSlots k
      h.ctxid == u.ctxid && ((u.state == .bound && s.ckpt.isNone && !h.stopping) || ((u.state == .bound || u.state == .suspended) && s.midPacket q))
    | none => false

/-- The examination of the packet at ri (R297, R302): w0 is read, and all 64 bytes only once its stamp is the index's. The turn passes to
the slot after this one (R304). -/
def State.examine (q : Nat) (s : State) : Exam × State :=
  let u := s.queueAt q
  if !s.serves q || u.wi == u.ri then (.idle, s) else
  let e : Engine := .hub q u.ri.toNat
  let s := { s with hwTurn := ((s.slotOf q).getD 0 + 1) % 64 }
  match s.engineRead e u.ctxid.toNat 0 [(u.slotVa u.ri, 4)] with
  | (.wait, s) => (.wait, s)
  | (.fault _ va, s) => (.fault va, s)
  | (.done w0, s) =>
    let stamp := bits (leNat w0) 8 16
    if stamp ≠ u.ri.toNat % 65536 then (.stale stamp, s) else
    match s.engineRead e u.ctxid.toNat 0 [(u.slotVa u.ri, 64)] with
    | (.wait, s) => (.wait, s)
    | (.fault _ va, s) => (.fault va, s)
    | (.done bs, s) => (.packet (recOfBytes bs), s)

/-- The type of a packet (R296). -/
def packetType (r : Rec) : Nat := bits r[0].toNat 0 8
/-- S: signal on complete (R296). -/
def packetS (r : Rec) : Bool := bits r[0].toNat 25 1 == 1
/-- B: barrier before (R296). -/
def packetB (r : Rec) : Bool := bits r[0].toNat 24 1 == 1

/-- The event that dispatch performs next for a queue, if any. -/
def State.dispatchDue (s : State) (q : Nat) : Option Event :=
  match (s.examine q).1 with
  | .idle => none
  | .wait | .stale _ => some (.stampReread q)
  | .fault _ => some (.malformedPacket q)
  | .packet r =>
    match packetType r with
    | 1 => some (.launch q)
    | 2 => some (if (s.queueAt q).waitW then .waitdepPoll q else .waitdep q)
    | 3 => some (.signal q)
    | 4 => some (.arm q)
    | 5 => some (.copy q)
    | 6 => some (.nopPacket q)
    | _ => some (.malformedPacket q)

/-- The packet at ri puts its queue in ERROR, ri frozen at it (R297). -/
def State.failPacket (q : Nat) (e : QErr) (detail : Nat) (s : State) : State :=
  let u := s.queueAt q
  (s.dropFetches (.hub q u.ri.toNat)).queueError q e u.ri (BitVec.ofNat 32 detail)

/-- A trusted packet of a type, its reserved fields checked: the lowest nonzero reserved byte, the byte of S where the type does not
allow it, or another byte that must be zero (R296, R297, R303). -/
def State.withPacket (q ty : Nat) (body : List Word) (others : Rec → List Nat) (s : State) (k : Queue → Rec → State → State) :
    State :=
  match s.examine q with
  | (.packet r, s) =>
    if packetType r ≠ ty then s else
    match lowestFailing r.toList (0xF8000000#32 :: body)
        ((if ty ≠ 1 ∧ ty ≠ 5 ∧ packetS r then [3] else []) ++ others r) with
    | some o => s.failPacket q .reserved o
    | none => k (s.queueAt q) r s
  | _ => s

/-- The first error of a list of checks. -/
def State.packetChecked (q : Nat) (cs : List (Option (QErr × Nat))) (s : State) (k : State → State) : State :=
  match (cs.filterMap id).head? with
  | some (e, d) => s.failPacket q e d
  | none => k s

/-- A check that fails with an error and a detail when its condition holds. -/
def errIf (p : Bool) (e : QErr) (detail : Nat) : Option (QErr × Nat) := if p then some (e, detail) else none

/-- Steps 2 and 3 of R301: B waits until inflight = 0, LAUNCH and COPY until inflight is below the quota. -/
def State.gated (q : Nat) (r : Rec) (s : State) (k : State → State) : State :=
  let u := s.queueAt q
  if packetB r ∧ u.inflight ≠ 0 then s.modQueue q fun u => { u with waitB := true }
  else if (packetType r = 1 ∨ packetType r = 5) ∧ u.most ≤ u.inflight then s
  else k (s.modQueue q fun u => { u with waitB := false })

/-- The write-back that marks the packet of an index as consumed (R302). -/
def stampWrite (u : Queue) : List (Nat × List Byte) := [(u.slotVa u.ri + 1, leBytes 2 (65535 - u.ri.toNat % 65536))]

/-- Steps 4 and 5 of R301: the stamp write-back, ri + 1, and the action. -/
def State.consume (q : Nat) (s : State) (act : State → State) : State :=
  let u := s.queueAt q
  match s.engineWrite (.hub q u.ri.toNat) u.ctxid.toNat 0 (stampWrite u) with
  | (.wait, s) => s
  | (.fault _ va, s) => s.failPacket q .ringFault va
  | (.done _, s) =>
    let s := act (s.passRi q)
    if (s.queueAt q).state = .bound ∧ (s.queueAt q).drained then s.requestPass else s

/-- MALFORMED_PACKET (R297): a ring that cannot be read, or a type that is none of the six. -/
def execMalformedPacket (s : State) : Out :=
  match s.now with
  | some (.malformedPacket q) =>
    match s.examine q with
    | (.fault va, s) => ok (s.failPacket q .ringFault va)
    | (.packet r, s) =>
      if packetType r = 0 ∨ 6 < packetType r then ok (s.failPacket q .type (packetType r)) else ok s
    | _ => ok s
  | _ => ok s

/-- STAMP_REREAD (R302): w0 is read again at 1, 3, 5, … 19 and 20 µs; the read at 20 that still shows a mismatch is the error. A
read that another agent performs is set in motion. (DESIGN CHOICE, log 5). -/
def execStampReread (s : State) : Out :=
  match s.now with
  | some (.stampReread q) =>
    match s.examine q with
    | (.wait, s) => ok s
    | (.stale stamp, s) =>
      let u := s.queueAt q
      let next : Word := if u.stale = 0#32 then 1#32 else if u.stale = 19#32 then 20#32 else u.stale + 2#32
      let s := (s.dropFetches (.hub q u.ri.toNat)).modQueue q fun u => { u with stale := next }
      ok (if 20#32 ≤ next then s.failPacket q .stale stamp else s)
    | _ => ok s
  | _ => ok s

/-! ## NOP, SIGNAL and WAITDEP (R298 to R300) -/

/-- NOP_PACKET (R300): its body is not examined. -/
def execNopPacket (s : State) : Out :=
  match s.now with
  | some (.nopPacket q) => ok (s.withPacket q 6 [] (fun _ => []) fun _ r s => s.gated q r fun s => s.consume q id)
  | _ => ok s

/-- A 48-bit address from a low word and the word whose low half holds the rest. -/
def recVa (r : Rec) (lo hi : Nat) : Nat := Rec.w r lo + 2 ^ 32 * (Rec.w r hi % 2 ^ 16)
/-- A 64-bit value from its low and high words. -/
def recVal (r : Rec) (lo hi : Nat) : BitVec 64 := BitVec.ofNat 64 (Rec.w r lo + 2 ^ 32 * Rec.w r hi)

/-- A signal written or added to by the hub, for a context: an addition is indivisible where the signal is (R299). (DEDUCED, log 33). -/
def State.signalWrite (e : Engine) (ctx va : Nat) (add : Bool) (v : BitVec 64) (s : State) : Progress × State :=
  if add then s.engineAdd e ctx 0 64 [(va, leBytes 8 v.toNat)] else s.engineWrite e ctx 0 [(va, leBytes 8 v.toNat)]

/-- The reserved bits of a SIGNAL's body (R299). -/
def signalReserved : List Word :=
  [0xF800FFF8#32, 0#32, 0xFFFF0000#32, 0#32, 0#32] ++ List.replicate 10 0xFFFFFFFF#32

/-- The action of a dispatched SIGNAL: its write, which may wait for another agent, then the vector (R299, R301). -/
def State.signalAct (q : Nat) (idx : Word) (r : Rec) (s : State) : State :=
  let u := s.queueAt q
  let e : Engine := .hub q idx.toNat
  let ended (s : State) : State :=
    let s := (s.dropFetches e).modQueue q fun u => { u with acting := none }
    if (s.queueAt q).state = .bound ∧ (s.queueAt q).drained then s.requestPass else s
  match s.signalWrite e u.ctxid.toNat (recVa r 2 3) (bits (Rec.w r 1) 0 2 == 1) (recVal r 4 5) with
  | (.wait, s) => s.modQueue q fun u => { u with acting := some (idx, r) }
  | (.fault _ va, s) => (ended s).queueError q .signalFault idx (BitVec.ofNat 32 va)
  | (.done _, s) => if bits (Rec.w r 1) 2 1 = 1 then (ended s).raiseMsix (bits (Rec.w r 1) 16 11) else ended s

/-- SIGNAL (R299, R301): dispatched, its stamp written back and ri passed, it acts. (DEDUCED, log 41). -/
def execSignal (s : State) : Out :=
  match s.now with
  | some (.signal q) =>
    match (s.queueAt q).acting with
    | some (idx, r) => ok (s.signalAct q idx r)
    | none =>
      ok (s.withPacket q 3 signalReserved (fun _ => []) fun u r s =>
        let va := recVa r 2 3
        s.packetChecked q [errIf (2 ≤ bits (Rec.w r 1) 0 2) .args 4, errIf (va % 8 != 0) .args 8] fun s =>
          s.gated q r fun s => s.consume q fun s => s.signalAct q u.ri r)
  | _ => ok s

/-- The six bytes of the address and the eight of the value of signal i of a WAITDEP (R298). -/
def waitSignal (r : Rec) (i : Nat) : Nat × BitVec 64 :=
  let bs := (wordBytes r.toList).drop (8 + 14 * i)
  (leNat (bs.take 6), BitVec.ofNat 64 (leNat ((bs.drop 6).take 8)))

/-- Whether a WAITDEP tests signal i (R298). -/
def waitUses (r : Rec) (i : Nat) : Bool := bits (Rec.w r 1) i 1 == 1

/-- The bytes of a WAITDEP's unused signals that are not zero (R298). -/
def waitUnused (r : Rec) : List Nat :=
  ((List.range 4).filter fun i => !waitUses r i).flatMap fun i =>
    ((List.range 14).map (8 + 14 * i + ·)).filter fun o => (wordBytes r.toList).getD o 0#8 != 0#8

/-- Whether a signal's value satisfies its condition (R298). -/
def waitHolds (r : Rec) (i : Nat) (v : BitVec 64) : Bool :=
  if bits (Rec.w r 1) (4 + i) 1 = 1 then v == (waitSignal r i).2 else decide ((waitSignal r i).2 ≤ v)

/-- A WAITDEP's signals read in one round, and the packet dispatched when they hold (R298). -/
def State.tryWaitdep (q : Nat) (s : State) : State :=
  s.withPacket q 2 (0xFFFFFF00#32 :: List.replicate 14 0#32) waitUnused fun u r s =>
    let used := (List.range 4).filter (waitUses r)
    s.packetChecked q (errIf used.isEmpty .args 4 ::
        used.map fun i => errIf ((waitSignal r i).1 % 8 != 0) .args (8 + 14 * i)) fun s =>
      s.gated q r fun s =>
        let e : Engine := .hub q u.ri.toNat
        match s.engineRead e u.ctxid.toNat 0 (used.map fun i => ((waitSignal r i).1, 8)) with
        | (.wait, s) => s.modQueue q fun u => { u with waitW := true }
        | (.fault _ va, s) => s.failPacket q .signalFault va
        | (.done bs, s) =>
          if used.zipIdx.all fun (i, j) => waitHolds r i (BitVec.ofNat 64 (leNat ((bs.drop (8 * j)).take 8))) then s.consume q id
          else (s.dropFetches e).modQueue q fun u => { u with waitW := true }

/-- WAITDEP (R298). -/
def execWaitdep (s : State) : Out :=
  match s.now with
  | some (.waitdep q) => ok (s.tryWaitdep q)
  | _ => ok s

/-- WAITDEP_POLL (R298): a waiting packet's signals are read again. -/
def execWaitdepPoll (s : State) : Out :=
  match s.now with
  | some (.waitdepPoll q) => if (s.queueAt q).waitW then ok (s.tryWaitdep q) else ok s
  | _ => ok s

/-! ## ARM (R324) -/

/-- The reserved bits of an ARM's body (R324). (DEDUCED, log 38). -/
def armReserved : List Word :=
  [0xFFFEFC00#32, 0#32, 0xFFFFF000#32, 0#32, 0xFFFF0000#32] ++ List.replicate 10 0xFFFFFFFF#32

/-- The nodes that an armed LAUNCH image names are ARMED (R322). -/
def State.armNodes (ctx : Nat) (img : Rec) (s : State) : State :=
  let h := Rec.w img 1 % 65536
  let b := s.binaryAt h
  if packetType img ≠ 1 ∨ !b.loaded ∨ b.ctx ≠ ctx then s else
  let named (n : Nat) : Bool := (List.range 4).any fun k => Rec.w img 2 / 256 ^ k % 256 == n
  let nodes := b.nodes.zipIdx.map fun (d, n) => if named n then { d with armed := true } else d
  { s with binaries := s.binaries.put h { b with nodes := nodes } }

/-- ARM (R324): an entry of the context's range takes the image, and is tested at once. -/
def execArm (s : State) : Out :=
  match s.now with
  | some (.arm q) =>
    ok (s.withPacket q 4 armReserved (fun _ => []) fun u r s =>
      let ctx := u.ctxid.toNat
      let e := bits (Rec.w r 1) 0 10
      let target := bits (Rec.w r 3) 0 12
      s.packetChecked q [errIf (s.triggerOwner e != some ctx) .access 4,
          errIf ((s.queueAt target).ctxid != u.ctxid) .access 12, errIf ((s.triggerAt e).state != .free) .args 4,
          errIf (r[2] == 0#32) .args 8] fun s =>
        match s.engineRead (.hub q u.ri.toNat) ctx 0 [(recVa r 4 5, 64)] with
        | (.wait, s) => s
        | (.fault _ va, s) => s.failPacket q .ringFault va
        | (.done bs, s) =>
          let img := recOfBytes bs
          s.packetChecked q [errIf (packetType img == 4) .args 16] fun s =>
            s.gated q r fun s => s.consume q fun s =>
              let arm (t : Trigger) : Trigger :=
                { state := .armed, count := if bits (Rec.w r 1) 16 1 = 1 then 0#32 else t.count, thresh := r[2],
                  queue := BitVec.ofNat 12 target, image := img }
              ((s.armNodes ctx img).modTrigger e arm).testTrigger e)
  | _ => ok s

/-! ## COPY (R300) -/

/-- The reserved bits of a COPY's body (R300). -/
def copyReserved : List Word :=
  [0#32, 0#32, 0xFFFF0000#32, 0#32, 0xFFFF0000#32, 0#32, 0xFFFF0000#32, 0#32, 0#32] ++ List.replicate 6 0xFFFFFFFF#32

/-- COPY (R300): dispatched, it counts in inflight until it ends. (DEDUCED, log 39). -/
def execCopy (s : State) : Out :=
  match s.now with
  | some (.copy q) =>
    ok (s.withPacket q 5 copyReserved (fun _ => []) fun u r s =>
      s.packetChecked q [errIf (!goodLen (Rec.w r 1)) .args 4, errIf (recVa r 2 3 % 4 != 0) .args 8,
          errIf (recVa r 4 5 % 4 != 0) .args 16, errIf (packetS r && recVa r 6 7 % 8 != 0) .args 24] fun s =>
        s.gated q r fun s => s.consume q fun s =>
          let c : HubCopy := { queue := q, idx := u.ri.toNat, packet := r }
          { s.modQueue q fun u => { u with inflight := u.inflight + 1 } with hubCopies := s.hubCopies ++ [c] })
  | _ => ok s

/-- A COPY ends (R300, R301). -/
def State.endCopy (c : HubCopy) (s : State) : State :=
  let s := (s.dropFetches (.copy c.queue c.idx)).endInflight c.queue
  { s with hubCopies := s.hubCopies.filter fun d => !(d.queue == c.queue && d.idx == c.idx) }

/-- A COPY ends with an error of its queue. -/
def State.failCopy (c : HubCopy) (e : QErr) (va : Nat) (s : State) : State :=
  (s.queueError c.queue e (BitVec.ofNat 32 c.idx) (BitVec.ofNat 32 va)).endCopy c

/-- HUB_COPY_END (R300): the bytes go over in ascending order, at most one aligned 32-byte unit of the destination in a step, and the
signal is written after the last; a fault stops the copy. -/
def execHubCopyEnd (s : State) : Out :=
  match s.now with
  | some (.hubCopyEnd q idx) =>
    match s.hubCopies.find? fun c => c.queue == q && c.idx == idx.toNat with
    | none => ok s
    | some c =>
      let ctx := (s.queueAt q).ctxid.toNat
      let e : Engine := .copy q c.idx
      let len := Rec.w c.packet 1
      let src := recVa c.packet 2 3 + c.copied
      let dst := recVa c.packet 4 5 + c.copied
      if c.copied < len then
        let n := min (32 - dst % 32) (len - c.copied)
        match s.engineRead e ctx 0 [(src, n)] with
        | (.wait, s) => ok s
        | (.fault _ va, s) => ok (s.failCopy c .copyFault va)
        | (.done bs, s) =>
          match s.engineWrite e ctx 0 [(dst, bs)] with
          | (.wait, s) => ok s
          | (.fault _ va, s) => ok (s.failCopy c .copyFault va)
          | (.done _, s) =>
            let next (d : HubCopy) : HubCopy := if d == c then { d with copied := d.copied + n } else d
            let s := s.dropFetches e
            ok { s with hubCopies := s.hubCopies.map next }
      else if packetS c.packet then
        match s.signalWrite e ctx (recVa c.packet 6 7) false (recVal c.packet 8 9) with
        | (.wait, s) => ok s
        | (.fault _ va, s) => ok (s.failCopy c .signalFault va)
        | (.done _, s) => ok (s.endCopy c)
      else ok (s.endCopy c)
  | _ => ok s

/-! ## LAUNCH (R314 to R316, R322, R325, R333) -/

/-- Whether every page that n bytes from an address touch is mapped in a context. -/
def State.mapped (s : State) (ctx va n : Nat) : Bool :=
  n == 0 || (List.range ((va % 4096 + n + 4095) / 4096)).all fun i =>
    match s.walk ctx (va - va % 4096 + 4096 * i) with
    | .leaf _ => true
    | .fault _ => false

/-- The nodes that a LAUNCH or a group names, by kernel slot (R314). -/
def nodesOf (w : Word) : List (Nat × Nat) :=
  ((List.range 4).map fun k => (k, w.toNat / 256 ^ k % 256)).filter fun e => e.2 != 255

/-- Whether a group shape word is valid (R315, R325). -/
def shapeValid (w : Word) : Bool :=
  let n := w.toNat
  bits n 23 9 == 0 && bits n 14 6 == 0 && bits n 21 2 != 3 &&
    (bits n 20 1 == 1 || (bits n 5 9 == 0 && [1, 2, 4, 8, 16].contains (bits n 0 5)))

/-- The dies of a shape (R315, R325). -/
def shapeDies (w : Word) : Nat := if bits w.toNat 20 1 = 1 then bits w.toNat 11 3 + 1 else 1

/-- How many cores a shape has (R325). -/
def shapeCores (w : Word) : Nat :=
  if bits w.toNat 20 1 = 1 then 16 * (bits w.toNat 0 5 + 1) * (bits w.toNat 5 6 + 1) * shapeDies w else bits w.toNat 0 5

/-- The merged templates of the named nodes, each slot's from the first node whose template is not all zero, with the nodes' template
patch points applied from the argument bytes in table order (R312, R317). (DEDUCED, log 52). -/
def Binary.patched (b : Binary) (nodes : List (Nat × Nat)) (args : List Byte) : Mem :=
  let zero : Rec := Vector.replicate 16 0#32
  let template (tm : Nat) : Rec :=
    ((nodes.map fun e => (b.nodes.getD e.2 {}).templates.getD tm zero).find? (· != zero)).getD zero
  b.patches.foldl (fun m p =>
    if !p.data && nodes.any (fun e => e.2 == p.node) then m.setBytes p.offset ((args.drop p.arg).take p.size) else m)
    (Mem.setBytes 0 ((List.range 16).flatMap fun tm => wordBytes (template tm).toList) [])

/-- The merged template of a slot of the named nodes, unless it is all zero (R312, R317). (DEDUCED, log 52). -/
def Binary.merged (b : Binary) (nodes : List (Nat × Nat)) (args : List Byte) (tm : Nat) : Option Rec :=
  let r := (b.patched nodes args).rec (64 * tm)
  if r = Vector.replicate 16 0#32 then none else some r

/-- The pipes of a launch: the edges between two named nodes, with their places in the edge table (R333). -/
def Binary.pipes (b : Binary) (nodes : List (Nat × Nat)) : List (Nat × Edge) :=
  (b.edges.zipIdx.map fun (e, i) => (i, e)).filter fun e =>
    nodes.any (fun n => n.2 == e.2.producer) && nodes.any fun n => n.2 == e.2.consumer

/-- The first number of a list that more than one named node satisfies. -/
def clash (nodes : List (Nat × Nat)) (p : Nat → Nat → Bool) (n : Nat) : Option Nat :=
  (List.range n).find? fun k => 1 < nodes.countP fun e => p e.2 k

/-- The handler entry of a class of a node (R312). -/
def Node.handler (n : Node) (cls : Nat) : Nat := if cls < 16 then 0 else (n.handlers.getD (cls - 16) 0#32).toNat

/-- The ACCESS checks of a LAUNCH (R316). -/
def State.launchAccess (s : State) (ctx : Nat) (r : Rec) : List (Option (QErr × Nat)) :=
  let b := s.binaryAt (Rec.w r 1 % 65536)
  [errIf (!b.loaded || b.ctx != ctx) .access 4] ++
  ((nodesOf r[2]).map fun e => errIf (b.nodes.length ≤ e.2) .access (8 + e.1)) ++
  [errIf (!s.mapped ctx (recVa r 5 6) (bits (Rec.w r 4) 0 13)) .access 20,
   errIf (packetS r && !s.mapped ctx (recVa r 7 8) 8) .access 28]

/-- The effective shape of a LAUNCH (R314). -/
def Binary.shapeOf (b : Binary) (r : Rec) : Word :=
  if r[3] = 0#32 then (b.nodes.getD (Rec.w r 2 % 256) {}).shape else r[3]

/-- The checks of a LAUNCH after ACCESS, in their order (R316, R333). -/
def State.launchChecks (s : State) (ctx : Nat) (r : Rec) (args : List Byte) : List (Option (QErr × Nat)) :=
  let b := s.binaryAt (Rec.w r 1 % 65536)
  let nodes := nodesOf r[2]
  let alen := bits (Rec.w r 4) 0 13
  let shape := b.shapeOf r
  let zero : Rec := Vector.replicate 16 0#32
  let missing := b.features &&& ~~~(s.contextAt ctx).feat
  let template (n tm : Nat) : Bool := ((b.nodes.getD n {}).templates.getD tm zero) != zero
  [errIf b.withdrawn .signature 0,
   errIf (Rec.w r 2 % 256 == 255 || !(nodes.map (·.2)).Nodup) .args 8,
   errIf (alen % 4 != 0 || 4096 < alen) .args 16,
   errIf (recVa r 5 6 % 4 != 0) .args 20,
   errIf (packetS r && recVa r 7 8 % 8 != 0) .args 28,
   errIf (!shapeValid shape) .args 12,
   errIf (b.patches.any fun p => nodes.any (fun e => e.2 == p.node) && alen < p.arg + p.size) .args 16,
   (clash nodes template 16).map fun tm => (.args, 0x100 + tm),
   (clash nodes (fun n cls => bits ((b.nodes.getD n {}).handler cls) 31 1 == 1) 64).map fun cls => (.args, 0x200 + cls),
   ((List.range 16).find? fun tm => (b.merged nodes args tm).any fun m => mapMalformed m || bmvMalformed m).map fun tm =>
     (.args, 0x100 + tm),
   ((b.pipes nodes)[8]?).map fun e => (.args, 0x300 + e.1),
   ((List.range 128).find? fun i => missing.getLsbD i).map fun i => (.feature, i),
   errIf (1 < shapeDies shape && !s.feature 0) .resource shape.toNat]

/-- The words of a list of bytes. -/
def wordsOf (bs : List Byte) : List Word :=
  (List.range (bs.length / 4)).map fun i => BitVec.ofNat 32 (leNat ((bs.drop (4 * i)).take 4))

/-- The group of a dispatched LAUNCH, REQUESTED (R322, R335). (DEDUCED, log 45). -/
def State.requestGroup (q : Nat) (idx : Word) (ctx : Nat) (r : Rec) (args : List Byte) (s : State) : State :=
  let h := Rec.w r 1 % 65536
  let g : Group :=
    { state := .requested, kernel := .queued, ctx := ctx, queue := q, index := idx, counted := true, handle := h, nodes := r[2],
      shape := (s.binaryAt h).shapeOf r, args := wordsOf args,
      signal := if packetS r then some (recVa r 7 8, recVal r 9 10) else none }
  { s.modQueue q fun u => { u with inflight := u.inflight + 1 } with
    groups := s.groups.put s.nextGroup g, nextGroup := s.nextGroup % (2 ^ 24 - 1) + 1 }

/-- The reserved bits of a LAUNCH's body (R314). -/
def launchReserved : List Word :=
  [0xFFFF0000#32, 0#32, 0#32, 0xFFFFE000#32, 0#32, 0xFFFF0000#32, 0#32, 0xFFFF0000#32, 0#32, 0#32] ++
    List.replicate 5 0xFFFFFFFF#32

/-- LAUNCH (R316, R322): a group is REQUESTED and counted in inflight. (DEDUCED, log 42). -/
def execLaunch (s : State) : Out :=
  match s.now with
  | some (.launch q) =>
    ok (s.withPacket q 1 launchReserved (fun _ => []) fun u r s =>
      let ctx := u.ctxid.toNat
      s.packetChecked q (s.launchAccess ctx r) fun s =>
        match s.engineRead (.hub q u.ri.toNat) ctx 0 [(recVa r 5 6, bits (Rec.w r 4) 0 13)] with
        | (.wait, s) => s
        | (.fault .., s) => s.failPacket q .access 20
        | (.done args, s) =>
          s.packetChecked q (s.launchChecks ctx r args) fun s =>
            s.gated q r fun s => s.consume q fun s => s.requestGroup q u.ri ctx r args)
  | _ => ok s

end Sys2Proof.Machine
end

