-- ==== Sys2Proof/Machine/Groups.lean ====
section
/-! DEFINITION. Groups: bind records, tile banks and slot tables, the bind broadcast, the termination tree, the end of a launch, and a
group's release (R75, R76, R189, R312, R317 to R322, R325 to R336). -/

namespace Sys2Proof.Machine

/-! ## Places of a group (R325 to R330) -/

/-- The clusters of a list of cores, ascending. -/
def clustersOf (ks : List Nat) : List Nat := (ks.map clusterOf).dedup

/-- The cores of a group that are bound to it. -/
def State.boundTo (s : State) (g : Nat) : List Nat := (s.groupAt g).cores.filter fun k => (s.coreAt k).group == g

/-- The states in which a group's bank is in use (R330). -/
def GState.inUse : GState → Bool
  | .binding | .resident | .running | .preempting => true
  | _ => false

/-- Whether a group of a context, other than one group, uses a bank of a cluster (R330). -/
def State.bankUsed (s : State) (k : Nat) (b : Bool) (but : Nat) : Bool :=
  s.groups.any fun e => e.1 != but && e.2.state.inUse && e.2.bank == b && (e.2.cores.map clusterOf).contains k

/-- Whether a group is resident on its cores: bound, being bound, or FAULTED there, by a restore too, and not yet released (R326, R329). -/
def Group.resident (gr : Group) : Bool := gr.state.inUse || (gr.state == .faulted && (gr.image.isEmpty || gr.restoring))

/-- Whether a resident group, other than one, holds a bank of a cluster (R329). -/
def State.bankHeld (s : State) (k : Nat) (b : Bool) (but : Nat) : Bool :=
  s.groups.any fun e => e.1 != but && e.2.resident && e.2.bank == b && (e.2.cores.map clusterOf).contains k

/-- A quotient rounded to nearest, ties to even (R30). -/
def rneDiv (n d : Nat) : Nat :=
  let q := n / d
  let r := n % d
  if d < 2 * r ∨ (2 * r = d ∧ q % 2 = 1) then q + 1 else q

/-- The array share of the context that holds a bank (R330, R371). -/
def State.shareOf (s : State) (b : Bank) : Nat := (b.owner.map fun c => (s.contextAt c).share).getD 8

/-- How many slots bank 0 owns of a cluster with both banks in use, by the shares of their contexts (R330). -/
def slotShare (s0 s1 : Nat) : Nat := min 15 (max 1 (rneDiv (16 * s0) (s0 + s1)))

/-- The owners of a cluster's slots, by the banks in use (R330). -/
def State.slotOwners (s : State) (k : Nat) : List (BitVec 2) :=
  let c := s.clusterAt k
  match s.bankUsed k false 0, s.bankUsed k true 0 with
  | false, false => List.replicate 16 0#2
  | true, false => List.replicate 16 1#2
  | false, true => List.replicate 16 2#2
  | true, true =>
    let k0 := slotShare (s.shareOf c.bank0) (s.shareOf c.bank1)
    (List.range 16).map fun i => if i * k0 / 16 < (i + 1) * k0 / 16 then 1#2 else 2#2

/-- A cluster's slot table rewritten, which restarts the rotation (R147, R330). -/
def State.rewriteSlots (s : State) (k : Nat) : State :=
  let owners := s.slotOwners k
  s.modCluster k fun c => { c.endSlot with slot := 0, pslot := Vector.ofFn fun i => owners.getD i.val 0#2 }

/-- The cores that a bind record names, in rank order (R325, R327, R328). -/
def recordCores (r : Rec) : List Nat :=
  let shape := Rec.w r 2
  let origin := bits (Rec.w r 3) 0 18
  if bits shape 20 1 = 0 then (List.range (bits shape 0 5)).map (origin + ·)
  else
    ((List.range 8).filter fun d => bits (Rec.w r 4) d 1 == 1).flatMap fun d =>
      (List.range (bits shape 0 5 + 1)).flatMap fun i => (List.range (bits shape 5 6 + 1)).flatMap fun j =>
        (List.range 16).map fun c => d * 2 ^ 15 + (bits origin 10 5 + i) * 2 ^ 10 + (bits origin 4 6 + j) * 2 ^ 4 + c

/-- Whether a bind record has a nonzero reserved field, or a dies mask of another number of bits than its shape has dies (R327). -/
def recordMalformed (r : Rec) : Bool :=
  ((List.range 9).any fun i => Rec.w r (7 + i) != 0) || bits (Rec.w r 5) 16 16 != 0 || bits (Rec.w r 4) 14 18 != 0 ||
    bits (Rec.w r 3) 18 14 != 0 || bits (Rec.w r 1) 10 22 != 0 || bits (Rec.w r 0) 2 6 != 0 ||
    ((List.range 8).countP fun d => bits (Rec.w r 4) d 1 == 1) != shapeDies (r[2])

/-- The bank that a bind record names (R327). -/
def recordBank (r : Rec) : Bool := bits (Rec.w r 4) 8 1 == 1

/-- Whether a bank of a cluster may serve a group of a context: held by it, free, or another context's that no group uses there; and
the context holds no other bank there (R138, R329). -/
def State.bankFits (s : State) (ctx : Nat) (b : Bool) (k : Nat) : Bool :=
  let c := s.clusterAt k
  ((c.bank b).owner == some ctx || (c.bank b).owner.isNone || !s.bankHeld k b 0) && (c.bank !b).owner != some ctx

/-- Whether the cores of a shape may be bound: OFF or HOLDING, a form-1 group's clusters free of every other group (R326).
(DESIGN CHOICE, log 8). -/
def State.coresFree (s : State) (form1 : Bool) (ks : List Nat) : Bool :=
  (ks.all fun k => ((s.coreAt k).power == .off || (s.coreAt k).power == .holding)) &&
    !(s.groups.any fun e => e.2.resident && (form1 || bits e.2.shape.toNat 20 1 == 1) &&
      e.2.cores.any fun j => (ks.map clusterOf).contains (clusterOf j))

/-- The slots that a context's bank owns in a cluster once a group of it is bound there (R327, R330). -/
def State.slotsFor (s : State) (ctx : Nat) (b : Bool) (k : Nat) : Nat :=
  let mine := (s.contextAt ctx).share
  let other := s.shareOf ((s.clusterAt k).bank !b)
  if !s.bankUsed k (!b) 0 then 16 else if b then 16 - slotShare other mine else slotShare mine other

/-- Whether a bind record places a group as R325 to R330 allow. -/
def State.recordFits (s : State) (g : Nat) (r : Rec) : Bool :=
  let gr := s.groupAt g
  let form1 := bits (Rec.w r 2) 20 1 == 1
  let origin := bits (Rec.w r 3) 0 18
  let ks := recordCores r
  let dies := (List.range 8).filter fun d => bits (Rec.w r 4) d 1 == 1
  bits (Rec.w r 0) 0 1 == 1 && bits (Rec.w r 0) 8 24 == g && Rec.w r 1 == gr.ctx && r[2] == gr.shape && Rec.w r 5 == gr.handle &&
    r[6] == gr.nodes &&
    (if form1 then bits origin 0 4 == 0 && bits origin 15 3 == 0 && bits origin 10 5 + bits (Rec.w r 2) 0 5 + 1 ≤ 32 &&
        bits origin 4 6 + bits (Rec.w r 2) 5 6 + 1 ≤ 64
     else origin % bits (Rec.w r 2) 0 5 == 0 && dies == [origin / 2 ^ 15]) &&
    (s.feature 0 || dies == [0]) &&
    bits (Rec.w r 4) 9 5 == s.slotsFor gr.ctx (recordBank r) (clusterOf (ks.headD 0)) && s.coresFree form1 ks && (clustersOf ks).all (s.bankFits gr.ctx (recordBank r))

/-- A bind record for a group at an origin, on dies, with a bank (R327). -/
def Group.bindRec (gr : Group) (g : Nat) (restore : Bool) (origin : Nat) (dies : List Nat) (bank : Bool) (slots : Nat) : Rec :=
  let w (i : Nat) : Nat := match i with
    | 0 => g * 256 + restore.toNat * 2 + 1
    | 1 => gr.ctx
    | 2 => gr.shape.toNat
    | 3 => origin
    | 4 => slots * 512 + bank.toNat * 256 + (dies.map (2 ^ ·)).sum
    | 5 => gr.handle
    | 6 => gr.nodes.toNat
    | _ => 0
  Vector.ofFn fun i => BitVec.ofNat 32 (w i.val)

/-- The origins at which a shape may stand (R325). -/
def originsOf (shape : Word) : List Nat :=
  let n := shape.toNat
  if bits n 20 1 = 0 then (List.range (2 ^ 18 / bits n 0 5)).map (bits n 0 5 * ·)
  else (List.range (32 - bits n 0 5)).flatMap fun i => (List.range (64 - bits n 5 6)).map fun j => i * 2 ^ 10 + j * 2 ^ 4

/-- The record at an origin on the lowest dies where the shape's cores are free (assumption 13). -/
def State.recordAt (s : State) (g : Nat) (origin : Nat) (bank : Bool) : Rec :=
  let gr := s.groupAt g
  let dies := if bits gr.shape.toNat 20 1 = 0 then [origin / 2 ^ 15]
    else ((List.range 8).filter fun d =>
      s.coresFree true (recordCores (gr.bindRec g false origin [d] bank 16))).take (shapeDies gr.shape)
  gr.bindRec g false origin dies bank (s.slotsFor gr.ctx bank (clusterOf (dies.headD 0 * 2 ^ 15 + origin % 2 ^ 15)))

/-- The first placement of a REQUESTED group that R325 to R329 allow: the policy of the model's firmware (assumption 13).
(DESIGN CHOICE, log 13). -/
def State.firstFit (s : State) (g : Nat) : Option Rec :=
  (originsOf (s.groupAt g).shape).findSome? fun o =>
    [false, true].findSome? fun b =>
      let r := s.recordAt g o b
      if !recordMalformed r && s.recordFits g r then some r else none

/-! ## Binding (R75, R317, R326, R329, R333, R335) -/

/-- A bank assigned to a context: zeroed when it did not hold it, its PRT steps counted from zero unless another group uses it (R138,
R159, R329). -/
def Bank.assign (ctx : Nat) (shared : Bool) (b : Bank) : Bank :=
  if b.owner = some ctx then (if shared then b else { b with prtStep := 0, landings := [] }) else { owner := some ctx }

/-- The cores and banks of a record enter BINDING for a group: the pieces on the cores are recalled, the banks are assigned, and the
slot tables are rewritten (R75, R326, R329, R330). -/
def State.beginBind (g : Nat) (r : Rec) (s : State) : State :=
  let ks := recordCores r
  let b := recordBank r
  let gr := s.groupAt g
  let s := s.modGroup g fun gr => { gr with state := .binding, cores := ks, bank := b, origin := bits (Rec.w r 3) 0 18,
                                            slots := bits (Rec.w r 4) 9 5 }
  let s := ks.zipIdx.foldl (fun s (k, i) => s.modCore k fun c =>
    { c with power := .binding, group := g, ctxid := gr.ctx, rank := i, gsize := ks.length }) s
  let s := (clustersOf ks).foldl (fun s k =>
    (s.modCluster k (Cluster.modBank b (Bank.assign gr.ctx (s.bankHeld k b g)))).rewriteSlots k) s
  let held := s.victims.filter fun v => v.places.any fun p => ks.contains p.1
  let s := held.foldl (fun s v => s.recall v.ctx v.va) s
  if (s.contextAt gr.ctx).state = .ready ∨ (s.contextAt gr.ctx).state = .saved then
    s.modContext gr.ctx fun c => { c with state := .running }
  else s

/-- The contexts resident on the part (R276). -/
def State.residents (s : State) : Nat :=
  s.contexts.countP fun e =>
    e.2.state == .loading || e.2.state == .ready || e.2.state == .running || e.2.state == .preempting || e.2.state == .faulted

/-- The records with the reserved or ill-formed fields are refused with FIRMWARE_ERROR, those that R325 to R329 do not allow are not
written, and during an update's import or a checkpoint a bind waits (R327, R335, R372, R376). A restore goes back to the cores whose
clusters' mirror banks hold its images. (DEDUCED, log 40). -/
def State.bind (g : Nat) (r : Rec) (s : State) : State :=
  let gr := s.groupAt g
  let restore := bits (Rec.w r 0) 1 1 == 1
  let st := (s.contextAt gr.ctx).state
  let waits := s.firmware.role == .importing || s.ckpt.isSome
  if recordMalformed r then s.count .firmwareError
  else if waits then s.postOnce (.bindRecord g r)
  else if !s.recordFits g r then s
  else if !restore ∧ gr.state = .requested ∧ (st = .ready ∨ st = .running) then
    (s.beginBind g r).modGroup g fun gr => { gr with kernel := .placed }
  else if restore ∧ gr.state = .saved ∧ !gr.spilled ∧ recordCores r = gr.cores ∧
      (st = .running ∨ (st = .saved ∧ s.residents < 64)) then
    (s.beginBind g r).modGroup g fun gr => { gr with restoring := true }
  else s

/-- BIND_RECORD (R327, R335). -/
def execBindRecord (s : State) : Out :=
  match s.now with
  | some (.bindRecord g r) => ok (s.bind g r)
  | _ => ok s

/-- The pipe rings below a ring's start: each starts a multiple of 32 (R333). -/
def lowerPipes : List Nat → Nat → List (Nat × Nat)
  | [], _ => []
  | d :: ds, top =>
    let a := (top - 4 * d) / 32 * 32
    (a, d) :: lowerPipes ds a

/-- The pipe rings of a launch, from the highest, which ends at the top: address and depth (R333). -/
def layPipes : List Nat → Nat → List (Nat × Nat)
  | [], _ => []
  | d :: ds, top => (top - 4 * d, d) :: lowerPipes ds (top - 4 * d)

/-- The handler entry of a class, its kslot set to the slot of the node that supplies it (R317). -/
def Binary.handlerWord (b : Binary) (nodes : List (Nat × Nat)) (cls : Nat) : Nat :=
  match nodes.find? fun e => bits ((b.nodes.getD e.2 {}).handler cls) 31 1 == 1 with
  | some (slot, n) => setBits ((b.nodes.getD n {}).handler cls) 28 2 slot
  | none => 0

/-- The local memory of a core as the broadcast leaves it: templates, handler table and pipe table (R317, R333). -/
def Group.broadcast (gr : Group) (b : Binary) (pipes : List (Nat × Nat)) : Mem :=
  let nodes := nodesOf gr.nodes
  let args := wordBytes gr.args
  let m : Mem := (List.range 16).foldl (fun m i =>
    m.setRec (0x7C00 + 64 * i) ((b.merged nodes args i).getD (Vector.replicate 16 0#32))) []
  let m := (List.range 64).foldl (fun m cls => m.setLe (0x6F00 + 4 * cls) 4 (b.handlerWord nodes cls)) m
  pipes.zipIdx.foldl (fun m (p, i) => m.setLe (0x6EE0 + 4 * i) 4 (p.2 * 2 ^ 16 + p.1)) m

/-- The seed of a core's victim generator (R179). -/
def seedG (k : Nat) : BitVec 16 :=
  let g := BitVec.ofNat 16 k ^^^ 0xACE1#16
  if g = 0#16 then 1#16 else g

/-- A core as dispatch leaves it at the end of the bind (R50, R75, R76, R317): tvec is 0 until a task starts, the message counter starts at
0 and the mailbox ring at its entry 0. (DESIGN CHOICE, logs 73 and 75). -/
def Group.boundCore (gr : Group) (g : Nat) (b : Binary) (pipes : List (Nat × Nat)) (k rank : Nat) : Core :=
  { power := .bound, group := g, ctxid := gr.ctx, rank := rank, gsize := gr.cores.length, hbase := 0x6F00#32,
    lm := gr.broadcast b pipes, dq := { g := seedG k },
    launchTm := Vector.ofFn fun i => b.merged (nodesOf gr.nodes) (wordBytes gr.args) i.val }

/-- The data patches of a launch, in patch-table order (R312, R317). -/
def Group.dataPatches (gr : Group) (b : Binary) : List (Nat × List Byte) :=
  (b.patches.filter fun p => p.data && (nodesOf gr.nodes).any fun e => e.2 == p.node).map fun p =>
    (p.va, ((wordBytes gr.args).drop p.arg).take p.size)

/-- Whether every victim piece has left a group's cores (R326). -/
def State.piecesGone (s : State) (g : Nat) : Bool := (s.groupAt g).cores.all fun k => (s.pieceSlots k).isEmpty

/-- The root task placed on rank 0: the group is RUNNING, and its first termination wave starts (R317, R321, R335). -/
def State.placeRoot (g : Nat) (s : State) : State :=
  let gr := s.groupAt g
  let entry := ((s.kernelOf g 0).getD {}).entry
  let s := s.dequePush (gr.cores.headD 0) (gr.entryRec 0 entry)
  let s := (s.modGroup g fun gr => { gr with state := .running, kernel := .running }).post (.terminationWave g)
  if gr.preemptHeld then (s.modGroup g fun gr => { gr with preemptHeld := false }).post (.preempt g) else s

/-- BIND_COMPLETE (R317, R319, R321, R335): the data patches and the broadcast make the group RESIDENT; then the root task is placed on
rank 0, and the group is RUNNING. A data patch that faults is not provided for: the group escalates with its cause (assumption 14).
(DESIGN CHOICE, log 14). -/
def execBindComplete (s : State) : Out :=
  match s.now with
  | some (.bindComplete g) =>
    let gr := s.groupAt g
    if gr.state = .resident then ok (s.placeRoot g)
    else if gr.state ≠ .binding ∨ gr.restoring ∨ !s.piecesGone g then ok s else
    let b := s.binaryAt gr.handle
    match s.engineWrite (.group g) gr.ctx 0 (gr.dataPatches b) with
    | (.wait, s) => ok s
    | (.fault c va, s) =>
      ok ((s.dropFetches (.group g)).escalate g c
        { cause := 0, tval := BitVec.ofNat 32 va, epc := 0#32, coreid := 0, kslot := 0, handler := false })
    | (.done _, s) =>
      let pipes := layPipes ((b.pipes (nodesOf gr.nodes)).map fun e => e.2.depth) 0x6EE0
      let s := gr.cores.zipIdx.foldl (fun s (k, i) => s.setCore k (gr.boundCore g b pipes k i)) (s.dropFetches (.group g))
      ok (s.modGroup g fun gr => { gr with state := .resident, pipes := pipes })
  | _ => ok s

/-! ## Termination (R189, R320, R321) -/

/-- Whether a core of a group is idle for the termination tree (R189): a core that has left is, one that waits for its next kernel's
first task is not. (DEDUCED, log 43). -/
def State.coreIdle (s : State) (g k : Nat) : Bool :=
  let c := s.coreAt k
  let rests (t : TaskCtx) : Bool := t.run == .free || t.run == .left
  c.group != g || (c.power == .bound && rests c.tc0 && rests c.tc1 && c.dq.held == 0 && !c.dq.reserved && c.mbCount == 0 &&
    !c.hd.running && c.waiters.isEmpty)

/-- TERMINATION_WAVE (R321): the next wave starts, unless one is in flight. -/
def execTerminationWave (s : State) : Out :=
  match s.now with
  | some (.terminationWave g) =>
    let gr := s.groupAt g
    if gr.state ≠ .running ∨ gr.kernel ≠ .running ∨ gr.waveOn then ok s else
    ok ((s.modGroup g fun gr =>
        { gr with wave := gr.wave + 1, waveOn := true, answered := 0, sumIdle := true, sumSent := 0#32, sumRecv := 0#32,
                  sumWrap := false }).postAll ((List.range gr.cores.length).map (.terminationProbe g)))
  | _ => ok s

/-- TERMINATION_PROBE (R321, class 13): a core's answer joins the sums; its wrap flag starts afresh. -/
def execTerminationProbe (s : State) : Out :=
  match s.now with
  | some (.terminationProbe g rank) =>
    let gr := s.groupAt g
    match gr.waveOn, gr.cores[rank]? with
    | true, some k =>
      let n : Counts := SMap.get {} gr.counts k
      let idle := s.coreIdle g k
      let s := s.modGroup g fun gr =>
        { gr with answered := gr.answered + 1, sumIdle := gr.sumIdle && idle, sumSent := gr.sumSent + n.sent,
                  sumRecv := gr.sumRecv + n.received, sumWrap := gr.sumWrap || n.wrapped,
                  counts := gr.counts.put k { n with wrapped := false } }
      ok (if (s.groupAt g).answered = gr.cores.length then s.post (.terminationWaveEnd g) else s)
    | _, _ => ok s
  | _ => ok s

/-- TERMINATION_WAVE_END (R321, R322): a wrap escalates; two balanced all-idle waves fire the tree; else a later wave follows. -/
def execTerminationWaveEnd (s : State) : Out :=
  match s.now with
  | some (.terminationWaveEnd g) =>
    let gr := s.groupAt g
    if gr.state ≠ .running ∨ !gr.waveOn ∨ gr.answered ≠ gr.cores.length then ok s else
    let s := s.modGroup g fun gr => { gr with waveOn := false, lastWave := some (gr.sumIdle, gr.sumSent, gr.sumRecv) }
    if gr.sumWrap then
      ok (s.escalate g .termImbalance { cause := 0, tval := 0#32, epc := 0#32, coreid := 0, kslot := 0, handler := false })
    else if gr.sumIdle ∧ gr.sumSent = gr.sumRecv ∧ gr.lastWave = some (true, gr.sumSent, gr.sumRecv) then
      ok (s.modGroup g fun gr => { gr with kernel := .draining })
    else ok (s.post (.terminationWave g))
  | _ => ok s

/-! ## What is under way for cores -/

/-- The cores that a message or an engine's event in flight concerns, as sender or as receiver. -/
def State.involves (s : State) (e : Event) : List Nat :=
  match e with
  | .remoteBusyResend m _ | .feLoad m | .feStore m => [m.src.core, m.dst]
  | .remoteLoad m | .remoteStore m => [m.src.core, m.dst]
  | .localAtomic m => [m.src.core, m.dst]
  | .barrierOperation m =>
    m.src.core :: match m.place with
      | .loc k _ => [k]
      | .vault .. => []
  | .barrierWaitResend m => [m.src.core]
  | .engineArrival a =>
    match a.from_ with
    | .transfer k _ => [k]
    | .landing _ => []
  | .dbarNotification n => if n.there.isNone then [n.src, n.dst] else []
  | .enqRequest m => if m.local_ then [m.src.core] else []
  | .tokenPush i _ | .storeAck i | .messageAccept i => [i.core]
  | .enqAnswer i .. => [i.core]
  | .prtLanding k .. => (List.range 16).map (16 * k + ·)
  | .loadReply r => [r.dst.core]
  | .barrierReply r => [r.dst.core]
  | .remoteNack n => [n.to_.core]
  | .feWake (.feLoad i ..) | .feWake (.feStore i ..) => [i.core]
  | .feWake (.barrier r) => [r.dst.core]
  | .steal a b | .stealReply a b .. => [a, b]
  | .joinDecrement f i _ => [i.core, frameOwner f]
  | .localGather k .. | .localScatterAdd k .. | .gatherRow k .. | .scatterAddRow k .. | .chunkFault k .. => [k]
  | .sliceRequest a => if a.park.isSome then [] else [a.src.core]
  | .sendHeader h => if h.spart = s.partAddr then [h.score] else []
  | .sendAnswer k .. => [k]
  | _ => []

/-- Whether nothing is under way for cores: no message, no access at a slice, the pager, the host or another part (R283). -/
def State.netQuiet (s : State) (ks : List Nat) : Bool :=
  !(s.pending.any fun e => (s.involves e).any ks.contains) &&
    !(s.away.any fun e => e.2.acc.park.isNone && ks.contains e.2.acc.src.core) &&
    !(s.pagerAccs.any fun a => a.park.isNone && ks.contains a.src.core)

/-- The commands of a group in a bank's stream are done, but for a PRT at the head whose tiles have not both landed, and what stands
behind it (R165). -/
def Bank.settledFor (g : Nat) (b : Bank) : Bool :=
  !(b.stream.any fun c => c.group == g) || (b.landingDue && (b.stream.head?.any fun c => c.group == g))

/-- A core's contexts and transfers have come to rest (R283, steps 1 to 4). -/
def Core.atRest (c : Core) : Bool :=
  let rests (t : TaskCtx) : Bool := t.run != .stalled .answer && t.run != .stalled .pager
  rests c.tc0 && rests c.tc1 && !c.hd.running && c.slots.all fun t => t.2.state != .active

/-- Whether steps 1 to 4 of R283 have ended for a group that is being stopped, pre-empted or FAULTED (R283, R335). -/
def State.stilled (s : State) (g : Nat) : Bool :=
  let gr := s.groupAt g
  let ks := s.boundTo g
  s.netQuiet ks && (ks.all fun k => (s.coreAt k).atRest) &&
    (clustersOf gr.cores).all fun k => ((s.clusterAt k).bank gr.bank).settledFor g

/-- A task context whose stalled instruction is withdrawn without effect (R283). -/
def TaskCtx.withdraw (t : TaskCtx) : TaskCtx :=
  match t.run with
  | .stalled .retry | .stalled .idle => { t with run := .running, waiting := false }
  | _ => t

/-- The stalled instructions of a group's contexts are withdrawn, but for waits parked at an owner and answers on their way; a wait
that its owner has answered BUSY is withdrawn too (R226, R283). -/
def State.withdrawGroup (g : Nat) (s : State) : State :=
  let busy := s.pending.filterMap fun e =>
    match e with
    | .barrierWaitResend m => if m.group = g then some m.src else none
    | _ => none
  let s := { s with pending := s.pending.filter fun e =>
    match e with
    | .barrierWaitResend m => m.group != g
    | _ => true }
  let s := busy.foldl (fun s i => s.modTask i fun t => { t with run := .running }) s
  (s.boundTo g).foldl (fun s k =>
    ((s.dropFetches (.send k false)).dropFetches (.send k true)).modCore k fun c =>
      { c with tc0 := c.tc0.withdraw, tc1 := c.tc1.withdraw }) s

/-! ## Release (R322, R335) -/

/-- A bank without the commands, landed tiles, leases and waits of a group's cores. -/
def Bank.forget (g : Nat) (ks : List Nat) (b : Bank) : Bank :=
  { b with stream := b.stream.filter (·.group != g), landings := b.landings.filter (·.group != g),
           leases := b.leases.filter fun e => !ks.contains e.1.core,
           held := match b.held with
             | some e => if ks.contains e.1.core then none else some e
             | none => none }

/-- The operations of a group that are parked at other cores and at vault records are withdrawn. -/
def State.unparkGroup (g : Nat) (s : State) : State :=
  let clear (c : Core) : Core :=
    { c with parkedFe := c.parkedFe.filter (·.group != g), parkedBar := c.parkedBar.filter (·.group != g) }
  { s with cores := s.cores.map fun e => (e.1, clear e.2), vaultParks := s.vaultParks.filter (·.group != g) }

/-- Whether a fetch serves one of a list of cores. -/
def Engine.ofCores (ks : List Nat) : Engine → Bool
  | .chunk k .. | .row k .. | .pull _ k .. | .send k _ => ks.contains k
  | _ => false

/-- Whether a group has an image in mirror banks or in its save area: SAVED, not yet restored from it, or FAULTED with it and not yet
released (R276, R335). -/
def Group.holdsImage (gr : Group) : Bool := gr.stored || (gr.state == .faulted && !gr.image.isEmpty)

/-- The groups of a context that hold images. -/
def State.savedOf (s : State) (ctx : Nat) : List Nat :=
  (s.groups.filter fun e => e.2.ctx == ctx && e.2.holdsImage).map (·.1)

/-- A context that holds no image any more has layout 0 (R275). -/
def State.noImage (ctx : Nat) (s : State) : State :=
  if s.savedOf ctx = [] then s.modContext ctx fun c => { c with layout := 0#8 } else s

/-- What a context comes to when a group of it has been saved or released (R277): RUNNING without groups it is READY; PREEMPTING, it is
SAVED once every group that is left is, and READY where none is. A group not yet bound has nothing to save. (DEDUCED, log 40). -/
def State.settleContext (ctx : Nat) (s : State) : State :=
  let gs := (s.groupsOf ctx).map s.groupAt
  match (s.contextAt ctx).state with
  | .running => if gs.isEmpty then s.modContext ctx fun c => { c with state := .ready } else s
  | .preempting =>
    if !gs.all fun gr => gr.state == .saved || gr.state == .requested then s
    else if gs.any fun gr => gr.state == .saved then s.modContext ctx fun c => { c with state := .saved, layout := 3#8 }
    else s.modContext ctx fun c => { c with state := .ready }
  | _ => s

/-- The group is RELEASED: its cores go OFF, what it had parked or under way elsewhere ends, its image is freed, messages held for it
are answered as for cores that are not bound, and its clusters' slot tables are rewritten (R94, R335). -/
def State.dissolve (g : Nat) (s : State) : State :=
  let gr := s.groupAt g
  let ks := s.boundTo g
  let s := s.unparkGroup g
  let s := ks.foldl (fun s k => (s.turnAway k).powerOff k) s
  let s := (clustersOf gr.cores).foldl (fun s k => s.modCluster k (Cluster.modBank gr.bank (Bank.forget g ks))) s
  let s := (s.modGroup g fun gr =>
    { gr with state := .released, image := [], banks := [], heldMsgs := [], waveOn := false, spilled := false,
              restoring := false }).postAll gr.heldMsgs
  let gone := (s.parks.filter fun p => p.2.group == g).map (·.1)
  let s := { s with parks := s.parks.filter fun p => p.2.group != g,
                    pagerAccs := s.pagerAccs.filter fun a => !(a.park.any gone.contains),
                    fetches := s.fetches.filter fun f => !f.2.by_.ofCores ks && f.2.by_ != .group g }
  let s := (clustersOf gr.cores).foldl State.rewriteSlots s
  (s.noImage gr.ctx).settleContext gr.ctx

/-- A launch no longer counts in its queue's inflight (R301, R322). -/
def State.endLaunch (g : Nat) (s : State) : State :=
  let gr := s.groupAt g
  if gr.counted then (s.modGroup g fun gr => { gr with counted := false }).endInflight gr.queue else s

/-- A launch whose kernel has not ended is ABORTED, and its queue takes KERNEL_FAULT (R301, R322). -/
def State.abortKernel (g : Nat) (s : State) : State :=
  let gr := s.groupAt g
  if gr.kernel.live then
    (s.modGroup g fun gr => { gr with kernel := .aborted }).queueError gr.queue .kernelFault gr.index (s.faultSeq.setWidth 32)
  else s

/-- The transfers of a SAVED image stop: bound vault barriers are poisoned, and receivers of rendezvous SENDs are told (R335). -/
def State.stopSaved (g : Nat) (s : State) : State :=
  let gr := s.groupAt g
  let all := gr.image.flatMap fun e => (e.2.slots.filter fun t => t.2.state == .saved).map fun t => (e.1, t.1, t.2)
  all.foldl (fun s (k, slot, t) =>
    if t.kind = .send then
      match t.header with
      | some h => if t.phase = .admitted ∧ h.eager.isNone then s.tellCancel h else s
      | none => s
    else
      match t.bar, barPlace gr.ctx t.bref t.barMap with
      | true, .vault c va =>
        s.post (.engineArrival { from_ := .transfer k slot, place := .vault c va, coreid := k, sel := t.pslot, chunk := none, group := g,
                                 poison := true })
      | _, _ => s) s

/-- Every ACTIVE and SAVED transfer of a group's cores is stopped as by CPCANCEL (R335). -/
def State.stopTransfers (g : Nat) (s : State) : State :=
  let live := (s.boundTo g).flatMap fun k =>
    ((s.coreAt k).slots.filter fun t => t.2.state == .active || t.2.state == .saved).map fun t => (k, t.1)
  live.foldl (fun s (k, slot) =>
    (s.modSlot k slot fun t => if t.state = .saved then { t with state := .active } else t).requestStop k slot) s

/-- Whether a group's release is due: it is FAULTED and its context not held for a reset, or its context is TERMINATED (R335). -/
def State.releaseDue (s : State) (g : Nat) : Bool :=
  let gr := s.groupAt g
  let c := (s.contextAt gr.ctx).state
  gr.state != .none && gr.state != .released && (c == .terminated || (gr.state == .faulted && c != .faulted))

/-- Whether nothing of a group's cores is ACTIVE and nothing is under way for them. -/
def State.stopped (s : State) (g : Nat) : Bool :=
  let ks := s.boundTo g
  s.netQuiet ks && ks.all fun k => (s.coreAt k).slots.all fun t => t.2.state != .active

/-- GROUP_RELEASE (R322, R335): a FAULTED group has first come to rest by steps 1 to 4 of R283, unless its context is TERMINATED; the
transfers are stopped, and once what is under way has ended the group is RELEASED; a kernel that has not ended is ABORTED.
(DEDUCED, log 43). -/
def execGroupRelease (s : State) : Out :=
  match s.now with
  | some (.groupRelease g) =>
    if !s.releaseDue g then ok s else
    let killed := (s.contextAt (s.groupAt g).ctx).state == .terminated
    if !killed && (s.groupAt g).image.isEmpty && !s.stilled g then ok ((s.withdrawGroup g).postOnce (.groupRelease g)) else
    let s := if (s.groupAt g).state.live then s.modGroup g fun gr => { gr with state := .faulted } else s
    let s := ((s.withdrawGroup g).unparkGroup g).stopTransfers g
    if !s.stopped g then ok (s.postOnce (.groupRelease g))
    else ok ((((s.stopSaved g).dissolve g).endLaunch g).abortKernel g)
  | _ => ok s

/-- The oldest held fault of a group: of the lowest rank, tc0 before tc1, and the one held first (R322). -/
def State.oldestFault (s : State) (g : Nat) : Option (Issuer × Word) :=
  (s.boundTo g).findSome? fun k =>
    let c := s.coreAt k
    [CtxSel.tc0, .tc1].findSome? fun x =>
      (c.task x).held.head?.map fun slot => (⟨k, x⟩, recordWord slot (c.slotAt slot))

/-- Whether a draining launch has ended: no transfer of its cores is under way, and nothing in flight (R322). (DEDUCED, log 43). -/
def State.drainDone (s : State) (g : Nat) : Bool :=
  let gr := s.groupAt g
  gr.kernel == .draining && gr.state == .running && s.netQuiet (s.boundTo g) &&
    ((s.boundTo g).all fun k => (s.coreAt k).slots.all fun t => t.2.state != .active && t.2.state != .saved)

/-- The end of a launch whose group has been released: its signal is written, and it is COMPLETE and counts no more in inflight (R299,
R322). -/
def State.completeLaunch (g : Nat) (s : State) : State :=
  let gr := s.groupAt g
  let finish (s : State) : State := ((s.modGroup g fun gr => { gr with kernel := .complete }).endLaunch g).dropFetches (.group g)
  match gr.signal with
  | none => finish s
  | some (va, v) =>
    match s.signalWrite (.group g) gr.ctx va false v with
    | (.wait, s) => s
    | (.fault _ fva, s) => finish (s.queueError gr.queue .signalFault gr.index (BitVec.ofNat 32 fva))
    | (.done _, s) => finish s

/-- DRAIN_END (R299, R322): a held fault escalates FAULT_AT_RELEASE; else the group is released, and then the signal is written, which may
take further steps, and the launch is COMPLETE; ABORTED if its context ends before. -/
def execDrainEnd (s : State) : Out :=
  match s.now with
  | some (.drainEnd g) =>
    let gr := s.groupAt g
    if gr.state = .released ∧ gr.kernel = .draining then
      let c := (s.contextAt gr.ctx).state
      if c = .terminated ∨ c = .free then ok (((s.dropFetches (.group g)).endLaunch g).abortKernel g) else ok (s.completeLaunch g)
    else if !s.drainDone g then ok s else
    match s.oldestFault g with
    | some (i, w) => ok (s.escalateAt i .faultAtRelease w 0#32)
    | none => ok ((s.dissolve g).completeLaunch g)
  | _ => ok s

/-- WATCHDOG (R282): a group that runs longer than its context's wdog. -/
def execWatchdog (s : State) : Out :=
  match s.now with
  | some (.watchdog g) =>
    let gr := s.groupAt g
    if gr.state = .running ∧ (s.contextAt gr.ctx).wdog ≠ 0#16 then
      ok (s.escalate g .watchdog
        { cause := 0, tval := BitVec.ofNat 32 g, epc := 0#32, coreid := 0, kslot := 0, handler := false })
    else ok s
  | _ => ok s

end Sys2Proof.Machine
end

