-- ==== Sys2Proof/Machine/Preempt.lean ====
section
/-! DEFINITION. Pre-emption: stopping a group, saving it to its clusters' mirror banks and its context's save area, resuming it, spilling
and reloading images (R276, R277, R282 to R291, R335, R336). -/

namespace Sys2Proof.Machine

/-! ## What a save writes (R286 to R288) -/

/-- Bytes whose values the spec gives, or words that it leaves open. (DESIGN CHOICE, log 44). -/
inductive Seg where
  | bytes (bs : List Byte)
  | open_ (words : Nat)
  deriving DecidableEq, Repr

/-- The bytes of a list of segments, the open ones filled with the free values that begin at a count: the same whenever they are
written again (R290). (DESIGN CHOICE, log 44). -/
def fillFrom (seed : Nat) (segs : List Seg) : List Byte :=
  (segs.foldl (fun (acc : List Byte × Nat) g =>
    match g with
    | .bytes bs => (acc.1 ++ bs, acc.2)
    | .open_ n => (acc.1 ++ wordBytes ((List.range n).map fun i => Config.freeWord (acc.2 + i)), acc.2 + n)) ([], seed)).1

/-- The special registers of task scope that a state block holds, in ascending number (R50, R287). -/
def savedSrs : List Nat :=
  [0x001, 0x002, 0x003, 0x004, 0x005, 0x00C, 0x012, 0x018, 0x020, 0x021, 0x022, 0x024, 0x025, 0x026, 0x030, 0x031, 0x032,
   0x033, 0x048, 0x049, 0x04A, 0x04B] ++ (List.range 9).map (0x050 + ·) ++ (List.range 7).map (0x070 + ·) ++ [0x0A2]

/-- The code that a run word gives a stall kind, which the spec does not number. (DESIGN CHOICE, log 44). -/
def Run.stallCode : Run → Nat
  | .stalled .retry => 1
  | .stalled (.parked _) => 2
  | .stalled .answer => 3
  | .stalled .idle => 4
  | .stalled .pager => 5
  | _ => 0

/-- The run word of a task context (R287): a context that HALT took out of the free list is FREE too (R77). -/
def TaskCtx.runWord (t : TaskCtx) : Word :=
  BitVec.ofNat 32 (bits t.pc.toNat 1 24 + t.run.stallCode * 2 ^ 24 + (t.run == .free || t.run == .left).toNat * 2 ^ 27 +
    (t.traps.any (·.a)).toNat * 2 ^ 28)

/-- The task word: frame, NF and the cause of the held trap (R287); how the four words share them is not given. (DESIGN CHOICE, log 44). -/
def TaskCtx.taskWords (t : TaskCtx) : List Word :=
  let held : Nat := match t.traps with
    | tr :: _ => tr.cause.code + tr.a.toNat * 2 ^ 7
    | [] => 0
  [t.frame, BitVec.ofNat 32 (t.nf.toNat + held * 2 ^ 8), 0#32, 0#32]

/-- The token queue and the sequence counter of a task context, 32 words (R287). (DESIGN CHOICE, log 44). -/
def TaskCtx.tokenWords (t : TaskCtx) : List Word :=
  ((t.tokens.map tokenWord) ++ List.replicate 31 0#32).take 31 ++ [BitVec.ofNat 32 (t.cmdSeq.toNat + t.tokens.length * 2 ^ 16)]

/-- The deque's block: top, bottom, reservation, steal round and generator (R287). (DESIGN CHOICE, log 44). -/
def Deque.words (d : Deque) : List Word :=
  let (r, n, e) := d.round.getD (0, 0, false)
  [BitVec.ofNat 32 (d.top.toNat + d.bottom.toNat * 2 ^ 16),
   BitVec.ofNat 32 (d.g.toNat + d.reserved.toNat * 2 ^ 16 + d.backoff.toNat * 2 ^ 17 + d.round.isSome.toNat * 2 ^ 18 + e.toNat * 2 ^ 19),
   BitVec.ofNat 32 r, BitVec.ofNat 32 n]

/-- A dissemination context's block: E, round, s and the held notifications by episode bit (R287). (DESIGN CHOICE, log 44). -/
def Dissem.words (d : Dissem) : List Word :=
  let mask (b : Bool) : Nat := (d.held.filter fun e => e.1 == b).foldl (fun m e => m ||| 2 ^ e.2) 0
  [d.episode, BitVec.ofNat 32 (d.round + d.running.toNat * 2 ^ 8 + d.span * 2 ^ 16), BitVec.ofNat 32 (mask false), BitVec.ofNat 32 (mask true)]

/-- The part of a state block that a task context fills (R287). -/
def TaskCtx.segs (x : CtxSel) (t : TaskCtx) : List Seg :=
  [.bytes (wordBytes ((t.x.toList.drop 1) ++ [0#32] ++ [statusWord x t] ++ savedSrs.map t.sr ++ t.p.toList.drop 1 ++ [t.runWord] ++
     t.taskWords)),
   .bytes (t.v.toList.flatMap fun v => leBytes 32 v.toNat),
   .bytes (t.tm.toList.flatMap fun r => wordBytes ((r.getD (Vector.replicate 16 0#32)).toList.take 12))]

/-- A core's state block (R287); its handler context is IDLE when its group is saved (R283). -/
def Core.segs (c : Core) : List Seg :=
  c.tc0.segs .tc0 ++ c.tc1.segs .tc1 ++
    [.bytes (wordBytes ((c.hd.x.toList.drop 1) ++ [0#32] ++ c.dq.words ++ c.tc0.tokenWords ++ c.tc1.tokenWords ++
       c.dissem.toList.flatMap Dissem.words ++ c.wp.toList)),
     .bytes (leBytes 8 c.cycle.toNat), .bytes (leBytes 4 c.hbudget.toNat), .bytes (List.replicate 20 0#8)]

/-- The lease queue with its remaining counts, 32 entries of 2 bytes: the core's place in the cluster, the context and the count.
(DESIGN CHOICE, log 44). -/
def Bank.leaseBytes (b : Bank) : List Byte :=
  let entry (e : Issuer × Nat) : List Byte := leBytes 2 (e.1.core % 16 + (e.1.ctx == .tc1).toNat * 16 + e.2 * 32)
  ((b.leases.flatMap entry) ++ List.replicate 64 0#8).take 64

/-- The mirror image of a cluster of a context's saved groups, 576 KiB (R23, R286): a mirror bank holds one image, which carries the
cores of all of them; its block names the group saved last. (DESIGN CHOICE, log 55). -/
def State.imageBytes (s : State) (ctx k : Nat) : List Byte :=
  let gs := ((s.savedOf ctx).filter fun g => !(SMap.find k (s.groupAt g).banks).isNone).map fun g => (g, s.groupAt g)
  let bank : Bank := ((gs.find? fun e => !e.2.bank).map fun e => SMap.get {} e.2.banks k).getD
    ((gs.head?.map fun e => SMap.get {} e.2.banks k).getD {})
  let core (i : Nat) : Core := (gs.findSome? fun e => e.2.image.find (16 * k + i)).getD {}
  let last := (gs.getLast?.map (·.1)).getD 0
  fillFrom 0 (((List.range 16).map fun i => .bytes ((core i).lm.bytes 0 0x8000)) ++
    [.bytes (bank.m.toList.flatMap fun m => m.bytes 0 2048)] ++ ((List.range 16).flatMap fun i => (core i).segs) ++
    [.bytes (wordBytes ([BitVec.ofNat 32 (3 * 2 ^ 24 + ctx), BitVec.ofNat 32 last,
        BitVec.ofNat 32 (k / 2048 * 2 ^ 24 + k % 2048)] ++ List.replicate 5 0#32 ++ bank.mcfg.toList)),
     .bytes bank.leaseBytes, .bytes (leBytes 4 bank.prtStep), .bytes (List.replicate (1024 - 0x84) 0#8)])

/-- The entries of a group's save for a cluster: generations, SAVED transfers, PRT landings, and held traps beyond one (R288). The
layouts of a transfer's and a trap's entry are not given: their words are free. (DESIGN CHOICE, log 44). -/
def Group.clusterSegs (gr : Group) (k : Nat) : List Seg :=
  let cores := gr.image.filter fun e => clusterOf e.1 == k
  let bank : Bank := SMap.get {} gr.banks k
  let gens (c : Core) : Seg := .bytes ((List.range 256).map fun i => (c.slotAt i).gen)
  (cores.map fun e => gens e.2) ++
  [.open_ (16 * (cores.map fun e => e.2.slots.countP fun t => t.2.state == .saved).sum)] ++
  (bank.landings.map fun l => .bytes (l.tile.bytes 0 2048)) ++
  [.open_ (16 * (cores.map fun e => (e.2.tc0.traps.length - 1) + (e.2.tc1.traps.length - 1)).sum)]

/-- The records that the entries of a cluster hold, entry by entry: those of its SAVED transfers (R288). -/
def Group.clusterRecords (gr : Group) (k : Nat) : List (Option Word) :=
  let cores := gr.image.filter fun e => clusterOf e.1 == k
  List.replicate (4 * cores.length) none ++
    cores.flatMap fun e => (e.2.slots.filter fun t => t.2.state == .saved).map fun t => some (recordWord t.1 t.2)

/-- How many entries a group's save takes: the transfers that it would stop among them (R288). -/
def State.entryCount (s : State) (g : Nat) : Nat :=
  let gr := s.groupAt g
  let cores : List Core := if gr.holdsImage then gr.image.map (·.2) else (s.boundTo g).map s.coreAt
  let banks : List Bank := if gr.holdsImage then gr.banks.map (·.2)
    else (clustersOf gr.cores).map fun k => (s.clusterAt k).bank gr.bank
  let live (t : Nat × Transfer) : Bool := t.2.state == .active || t.2.state == .saved
  (cores.map fun c => 4 + c.slots.countP live + (c.tc0.traps.length - 1) + (c.tc1.traps.length - 1)).sum +
    32 * (banks.map fun b => b.landings.length).sum

/-- The offset of image slot 0 above a number of entries (R291). -/
def imageBase (entries : Nat) : Nat := (0x40 + 64 * entries + 65535) / 65536 * 65536

/-- The clusters whose images of a context have been spilled, in ascending die and cluster: their places are the image slots (R290). -/
def State.spilledOf (s : State) (ctx : Nat) : List Nat :=
  let ks := ((s.savedOf ctx).filter fun g => (s.groupAt g).spilled).flatMap fun g => (s.groupAt g).banks.map (·.1)
  ks.dedup.insertionSort (· ≤ ·)

/-- How many entries the saved groups of a context have. -/
def State.savedEntries (s : State) (ctx : Nat) : Nat := ((s.savedOf ctx).map s.entryCount).sum

/-- How many entries the groups of a context that are being pre-empted take, but for one. -/
def State.comingEntries (s : State) (ctx but : Nat) : Nat :=
  ((s.groups.filter fun e => e.2.ctx == ctx && e.2.state == .preempting && e.1 != but).map fun e => s.entryCount e.1).sum

/-- Whether a context's entries and a number of image slots fit its save area, below its last 4 KiB (R291). -/
def State.areaHolds (s : State) (ctx entries slots : Nat) : Bool :=
  (if slots = 0 then 0x40 + 64 * entries else imageBase entries + 0x90000 * slots) + 4096 ≤ (s.contextAt ctx).ssize * 65536

/-- Whether a group's entries, with others still to come, fit its context's save area beside those of its SAVED groups and the images in
it (R291). -/
def State.saveFits (s : State) (g others : Nat) : Bool :=
  let ctx := (s.groupAt g).ctx
  s.areaHolds ctx (s.savedEntries ctx + s.entryCount g + others) (s.spilledOf ctx).length

/-- Whether a context's images fit its save area (R291). -/
def State.spillFits (s : State) (ctx : Nat) : Bool :=
  s.areaHolds ctx (s.savedEntries ctx) ((s.savedOf ctx).flatMap fun g => (s.groupAt g).banks.map (·.1)).dedup.length

/-- The variable entries of a group, as they stand in its context's save area (R288). -/
def Group.entryBytes (gr : Group) : List Byte := fillFrom gr.seed ((clustersOf gr.cores).flatMap gr.clusterSegs)

/-- Parts laid one after another from an offset (R291). -/
def layParts : Nat → List AreaPart → List AreaPart
  | _, [] => []
  | off, p :: ps => { p with off := off } :: layParts (off + p.bytes.length) ps

/-- What firmware puts into a context's save area: the variable entries of its SAVED groups, then the images of those that are spilled
(R288, R290, R291). (DESIGN CHOICE, log 44). -/
def State.areaParts (s : State) (ctx : Nat) : List AreaPart :=
  let entry (g : Nat) : AreaPart :=
    let gr := s.groupAt g
    ⟨false, g, 0, gr.entryBytes, (clustersOf gr.cores).flatMap gr.clusterRecords⟩
  let entries := layParts 0x40 ((s.savedOf ctx).map entry)
  let base := imageBase ((entries.map fun p => p.bytes.length).sum / 64)
  entries ++ (s.spilledOf ctx).zipIdx.map fun (k, j) => ⟨true, k, base + 0x90000 * j, s.imageBytes ctx k, []⟩

/-- The header of a save area (R291). -/
def areaHeader (ps : List AreaPart) : List Word :=
  let n := ((ps.filter fun p => !p.image).map fun p => p.bytes.length).sum / 64
  [BitVec.ofNat 32 (3 * 2 ^ 24 + n), BitVec.ofNat 32 (ps.countP (·.image)), BitVec.ofNat 32 (imageBase n)] ++ List.replicate 13 0#32

/-- Firmware writes a context's save area: its parts, then the header (R291). (DESIGN CHOICE, log 44). -/
def State.writeArea (ctx : Nat) (s : State) : State :=
  let base := (s.contextAt ctx).save
  let ps := s.areaParts ctx
  let s := ps.foldl (fun s p => s.writeFrame (base + p.off) p.bytes) s
  (s.writeFrame base (wordBytes (areaHeader ps))).modContext ctx fun c => { c with area := ps }

/-- The bytes of a part of a save area that do not stand there sound: those changed since they were written, and those of poisoned sectors,
by their place in the part (R266, R289). (DESIGN CHOICE, log 44). -/
def State.partFlaws (s : State) (ctx : Nat) (p : AreaPart) : List Nat :=
  let at_ := (s.contextAt ctx).save + p.off
  p.bytes.zipIdx.filterMap fun (b, i) => if s.phys.byte (at_ + i) != b || s.rangePoisoned (at_ + i) 1 then some i else none

/-! ## Mirror banks (R276, R290) -/

/-- The contexts whose unspilled images stand in mirror banks of a group's clusters, but for its own context's (R276).
(DESIGN CHOICE, log 55). -/
def State.mirrorHolders (s : State) (g : Nat) : List Nat :=
  let gr := s.groupAt g
  let ks := clustersOf gr.cores
  ((s.groups.filter fun e => e.2.holdsImage && !e.2.spilled && e.2.ctx != gr.ctx &&
    (e.2.banks.any fun b => ks.contains b.1)).map fun e => e.2.ctx).dedup

/-- SPILL (R277, R290, R291): a context's images go to its save area, if they fit; those that a restore is under way from stay. -/
def execSpill (s : State) : Out :=
  match s.now with
  | some (.spill ctx) =>
    let gs := (s.savedOf ctx).filter fun g => !(s.groupAt g).spilled && !(s.groupAt g).restoring
    if gs.isEmpty ∨ !s.spillFits ctx then ok s else
    let s := gs.foldl (fun s g => s.modGroup g fun gr => { gr with spilled := true }) s
    let s := s.modContext ctx fun c => if c.state = .saved then { c with state := .spilled } else c
    ok (s.writeArea ctx)
  | _ => ok s

/-- The error that a group's spilled images show when they are read back: the first of them that does not stand in the save area as it was
written (R289, R290). (DESIGN CHOICE, log 44). -/
def State.spillFlaw (s : State) (ctx g : Nat) : Option (Cause × Word) :=
  let mine (p : AreaPart) : Bool := p.image && !(SMap.find p.id (s.groupAt g).banks).isNone && s.partFlaws ctx p != []
  ((s.contextAt ctx).area.find? mine).map fun p => (.spillEcc, BitVec.ofNat 32 (p.id % 2048))

/-- RELOAD (R277, R290): the images go back to mirror banks that hold no other context's image; a SPILLED context is SAVED again
while fewer than 64 are resident. An image whose bytes have changed in the area is one in error (R289). (DESIGN CHOICE, log 44). -/
def execReload (s : State) : Out :=
  match s.now with
  | some (.reload ctx) =>
    let gs := (s.savedOf ctx).filter fun g => (s.groupAt g).spilled
    let c := s.contextAt ctx
    if gs.isEmpty ∨ (gs.any fun g => !(s.mirrorHolders g).isEmpty) ∨ (c.state = .spilled ∧ 64 ≤ s.residents) then ok s else
    let back (u : State) (g : Nat) : State := u.modGroup g fun gr => { gr with spilled := false, flaw := gr.flaw <|> s.spillFlaw ctx g }
    ok ((gs.foldl back s).modContext ctx fun c => if c.state = .spilled then { c with state := .saved } else c)
  | _ => ok s

/-! ## Stopping (R283, R336) -/

/-- Whether firmware can pre-empt a group: its entries fit, and so do the images that it must first spill (R276, R291). -/
def State.canPreempt (s : State) (g others : Nat) : Bool := s.saveFits g others && (s.mirrorHolders g).all s.spillFits

/-- The waves of a group's termination tree end (R321). -/
def State.stopWaves (g : Nat) (s : State) : State :=
  let mine (e : Event) : Bool := match e with
    | .terminationProbe h _ | .terminationWave h | .terminationWaveEnd h => h == g
    | _ => false
  { s.modGroup g fun gr => { gr with waveOn := false, lastWave := none } with pending := s.pending.filter fun e => !mine e }

/-- Step 1 of R283: the group enters PREEMPTING, its cores SAVING, its stalled instructions are withdrawn, held leases go back to their
queues (R149), and its context follows when all its bound groups do (R277). -/
def State.beginPreempt (g : Nat) (s : State) : State :=
  let gr := s.groupAt g
  let s := (s.modGroup g fun gr => { gr with state := .preempting }).stopWaves g
  let s := s.withdrawGroup g
  let s := (s.boundTo g).foldl (fun s k => s.modCore k fun c => { c with power := .saving }) s
  let giveBack (b : Bank) : Bank :=
    if b.held.any fun e => gr.cores.contains e.1.core then b.returnLease else b
  let s := (clustersOf gr.cores).foldl (fun s k => s.modCluster k (Cluster.modBank gr.bank giveBack)) s
  let all := (s.groupsOf gr.ctx).all fun h =>
    let st := (s.groupAt h).state
    st == .preempting || st == .saved || st == .requested
  if all ∧ (s.contextAt gr.ctx).state = .running then s.modContext gr.ctx fun c => { c with state := .preempting } else s

/-- A pre-emption that is not done since its save would not fit ends a checkpoint (R291, R376). -/
def State.notPreempted (s : State) : State := if s.ckpt.isSome then s.post (.checkpointComplete false) else s

/-- PREEMPT (R283, R291, R336): at once when the group is RUNNING, held when it is not RUNNING yet, and not done when the save would not
fit beside those under way. -/
def execPreempt (s : State) : Out :=
  match s.now with
  | some (.preempt g) =>
    match (s.groupAt g).state with
    | .running =>
      ok (if s.canPreempt g (s.comingEntries (s.groupAt g).ctx g) then s.beginPreempt g else s.notPreempted)
    | .requested | .binding | .resident => ok (s.modGroup g fun gr => { gr with preemptHeld := true })
    | _ => ok s
  | _ => ok s

/-- Whether page waits hold up the quiescing of a group (R282, R284). -/
def State.pageWaits (s : State) (g : Nat) : Bool :=
  let ks := s.boundTo g
  s.pagerAccs.any (fun a => a.park.isNone && ks.contains a.src.core) ||
    s.pagerAsks.any fun p => p.1 == (s.groupAt g).ctx

/-- PREEMPT_TIMEOUT (R282): quiescing has gone on for 100 ms in page waits, which is reported. -/
def execPreemptTimeout (s : State) : Out :=
  match s.now with
  | some (.preemptTimeout g) =>
    if (s.groupAt g).state = .preempting ∧ s.pageWaits g then
      ok (s.report .preemptTimeout (BitVec.ofNat 32 g) (s.groupAt g).ctx g 0)
    else ok s
  | _ => ok s

/-! ## Saving (R283, step 5) -/

/-- Whether a PREEMPTING group has quiesced (R283). -/
def State.quiesced (s : State) (g : Nat) : Bool := (s.groupAt g).state == .preempting && s.stilled g

/-- What a bank keeps for a SAVED group: its contents and the group's own commands, landed tiles and leases (R165).
(DESIGN CHOICE, log 15). -/
def Bank.savedFor (g : Nat) (ks : List Nat) (b : Bank) : Bank :=
  { b with stream := b.stream.filter (·.group == g), landings := b.landings.filter (·.group == g), leases := b.leases.filter fun e => ks.contains e.1.core, held := none }

/-- A group runs on its cores, as its image restores it or as it was stopped: the messages held for it are released in their order, a new
termination wave begins, and the transfers that had been told to stop end (R285, R289, R321). -/
def State.goOn (g : Nat) (s : State) : State :=
  let gr := s.groupAt g
  let s := (s.modGroup g fun gr => { gr with state := .running, restoring := false, image := [], banks := [], heldMsgs := [],
                                                released := gr.heldMsgs }).noImage gr.ctx
  let reserved := (s.boundTo g).filter fun k => (s.coreAt k).power == .reserved
  let s := reserved.foldl (fun s k => s.takeUpReserved k) s
  let s := (s.postAll gr.heldMsgs).post (.terminationWave g)
  let told := (s.boundTo g).flatMap fun k =>
    ((s.coreAt k).slots.filter fun t => t.2.state == .active && t.2.stopReq).map fun t => (k, t.1)
  told.foldl (fun s (k, slot) => s.tryEnd k slot) s

/-- A transfer that was stopped goes on (R192). -/
def Transfer.goesOn (t : Transfer) : Transfer := if t.state = .saved then { t with state := .active } else t

/-- A core whose group runs again: its stopped transfers go on; one whose contexts had both left for a successor kernel is RESERVED
(R75, R318). -/
def Core.restored (c : Core) : Core :=
  let left := c.tc0.run == .left && c.tc1.run == .left && c.succ.isSome
  { c with power := if left then .reserved else .bound, slots := c.slots.map fun e => (e.1, e.2.goesOn) }

/-- A pre-emption is left undone: the group, its cores still bound, runs on, and its context too (R291). (DEDUCED, log 40). -/
def State.leavePreempt (g : Nat) (s : State) : State :=
  let s := (s.boundTo g).foldl (fun s k => s.modCore k Core.restored) s
  (s.modContext (s.groupAt g).ctx fun c => if c.state = .preempting then { c with state := .running } else c).goOn g

/-- PREEMPT_SAVE (R276, R277, R283, R288, R291): once the group has quiesced and its mirror banks are free, its cores and banks are saved
and go OFF; the slot tables are rewritten. A save that does not fit, or that needs a mirror bank whose image cannot be spilled, is left
undone. -/
def execPreemptSave (s : State) : Out :=
  match s.now with
  | some (.preemptSave g) =>
    if !s.quiesced g then ok s
    else if !s.canPreempt g 0 then ok (s.leavePreempt g).notPreempted
    else if !(s.mirrorHolders g).isEmpty then ok ((s.mirrorHolders g).foldl (fun s c => s.postOnce (.spill c)) s)
    else
      let gr := s.groupAt g
      let ks := s.boundTo g
      let image : SMap Core := ks.map fun k => (k, { s.coreAt k with l1 := [] })
      let banks : SMap Bank := (clustersOf gr.cores).map fun k => (k, ((s.clusterAt k).bank gr.bank).savedFor g ks)
      let s := s.modGroup g fun gr => { gr with state := .saved, image := image, banks := banks, spilled := false, flaw := none, released := [],
                                                  version := 3#8, seed := s.freeCount }
      let s := { s with freeCount := s.freeCount + 16 * s.entryCount g }
      let s := (clustersOf gr.cores).foldl (fun s k => s.modCluster k (Cluster.modBank gr.bank (Bank.forget g ks))) s
      let s := ks.foldl (fun s k => s.powerOff k) s
      let s := (clustersOf gr.cores).foldl State.rewriteSlots s
      ok (((s.modContext gr.ctx fun c => { c with layout := 3#8 }).settleContext gr.ctx).writeArea gr.ctx)
  | _ => ok s

/-! ## Resuming (R289) -/

/-- A bank restored from an image: whole, or its commands, leases, PRT step and landings beside those of another group of the context
that uses it (assumption 15). (DESIGN CHOICE, log 15). -/
def Bank.restore (ctx : Nat) (shared : Bool) (saved b : Bank) : Bank :=
  if shared then { b with stream := saved.stream ++ b.stream, leases := saved.leases ++ b.leases,
                          landings := saved.landings ++ b.landings, prtStep := max saved.prtStep b.prtStep }
  else { saved with owner := some ctx }

/-- What an image of save-layout version 2 does not hold: landings and PRT step counts are none, and the generators are seeded afresh as
at bind (R288). -/
def oldCore (k : Nat) (c : Core) : Core :=
  let g := BitVec.ofNat 16 (k % 65536) ^^^ 0xACE1#16
  { c with dq := { c.dq with g := if g = 0#16 then 1#16 else g } }

/-- A bank of an image of version 2 (R288). -/
def Bank.old (b : Bank) : Bank := { b with landings := [], prtStep := 0 }

/-- The error that a group's entries show when they are read back (R289): of a SAVED transfer's entry the tval is its record; of another
entry it is not given, and is the free value w. (DESIGN CHOICE, log 44). -/
def State.entryFlaw (s : State) (g : Nat) (w : Word) : Option (Cause × Word) :=
  let ctx := (s.groupAt g).ctx
  match (s.contextAt ctx).area.find? fun p => !p.image && p.id == g with
  | some p => (s.partFlaws ctx p).head?.map fun i => (.resumeRecord, (p.records.getD (i / 64) none).getD w)
  | none => none

/-- The error that a restore meets: a version that the firmware cannot read, or an image or an entry that fails its check (R288, R289). -/
def State.restoreFlaw (s : State) (g : Nat) (w : Word) : Option (Cause × Word) :=
  let gr := s.groupAt g
  if gr.version ≠ 2#8 ∧ gr.version ≠ 3#8 then some (.saveLayout, gr.version.setWidth 32) else gr.flaw <|> s.entryFlaw g w

/-- The cores and banks of a group restored from its image, one of version 2 as R288 gives. -/
def State.restoreImage (g : Nat) (s : State) : State :=
  let gr := s.groupAt g
  let two := gr.version == 2#8
  let s := gr.image.foldl (fun s (e : Nat × Core) => s.setCore e.1 (if two then oldCore e.1 e.2.restored else e.2.restored)) s
  let gone := gr.cores.filter fun k => (gr.image.find k).isNone
  let s := gone.foldl (fun s k => s.powerOff k) s
  gr.banks.foldl (fun s (e : Nat × Bank) =>
    s.modCluster e.1 (Cluster.modBank gr.bank (Bank.restore gr.ctx (s.bankUsed e.1 gr.bank g) (if two then e.2.old else e.2)))) s

/-- RESUME_GROUP (R285, R287, R289, R321, R335): the cores and banks are restored, from an image of version 2 or 3 (R288), the transfers
go on before any task issues, the held messages are released in their order, and a new termination wave begins; an image that fails its
check escalates, the group's first core in the fault record, since R280 names none. (DESIGN CHOICE, logs 44 and 72). -/
def execResumeGroup (s : State) : Out :=
  match s.now with
  | some (.resumeGroup g) =>
    let gr := s.groupAt g
    if gr.state ≠ .binding ∨ !gr.restoring ∨ !s.piecesGone g then ok s else
    let (w, u) := s.freeWord
    match s.restoreFlaw g w with
    | some (c, v) =>
      ok (u.escalate g c { cause := 0, tval := v, epc := 0#32, coreid := gr.cores.headD 0, handler := false, kslot := 0 })
    | none =>
      let s := (s.restoreImage g).goOn g
      ok (if gr.preemptHeld then (s.modGroup g fun gr => { gr with preemptHeld := false }).post (.preempt g) else s)
  | _ => ok s

end Sys2Proof.Machine
end

