-- ==== Sys2Proof/Machine/Mapping.lean ====
section
/-! DEFINITION. Firmware's hold on physical memory and page tables: allocating ranges, mapping and unmapping, and the pages of a
context (R257 to R261, R313, R371). -/

namespace Sys2Proof.Machine

/-! ## Physical ranges (R18, R371; assumption 13) -/

/-- A value rounded up to a multiple. -/
def roundUp (n a : Nat) : Nat := (n + a - 1) / a * a

/-- The lowest free aligned range between two addresses. (DESIGN CHOICE, log 13). -/
def State.findFree (s : State) (lo hi n align : Nat) : Option Nat :=
  let used := s.allocs ++ s.areas ++ s.givens
  let starts := (lo :: used.map fun e => e.2.1 + e.2.2).map fun a => roundUp (max a lo) align
  let fits (a : Nat) : Bool := a + n ≤ hi && used.all fun e => e.2.1 + e.2.2 ≤ a || a + n ≤ e.2.1
  ((starts.insertionSort (· ≤ ·)).find? fits)

/-- A range of LPDDR of a context, its bytes zeroed: a table or an area that firmware keeps. -/
def State.allocArea (ctx n align : Nat) (s : State) : Option (Nat × State) :=
  (s.findFree 0 s.lpddrEnd n align).map fun a => (a, State.zeroFrame a n { s with areas := s.areas ++ [(ctx, a, n)] })

/-- The range of a kind on a die, or on every die that exists (R2, R17, R369). -/
def State.kindRange (s : State) (kind : Nat) (die : Option Nat) : Nat × Nat :=
  match kind, die with
  | 0, some d => (d * 2 ^ 38, min ((d + 1) * 2 ^ 38) s.lpddrEnd)
  | 0, none => (0, s.lpddrEnd)
  | _, some d => (0x20000000000 + d * 2 ^ 32, 0x20000000000 + (d + if s.dieRuns d then 1 else 0) * 2 ^ 32)
  | _, none => (0x20000000000, 0x20000000000 + (if s.feature 0 then 8 else 1) * 2 ^ 32)

/-! ## Mapping (R371) -/

/-- What a mapping asks for, beside its range. -/
structure MapReq where
  ctx   : Nat
  kind  : Nat
  state : Nat
  granule : Nat := 0
  reuse : Nat := 0
  /-- R, W, X and F in the places of bits 11 to 14 of a leaf, and P. -/
  perms : Nat := 0
  pin   : Nat := 0
  die   : Option Nat := none
  home  : Nat := 0
  deriving DecidableEq, Repr

/-- How many of the twelve sizes pages with its permissions may have: without R, W and X only an L0 entry is a leaf (R259). -/
def MapReq.sizes (q : MapReq) : Nat := if q.perms % 8 = 0 then 4 else 12

/-- The pages of a range: virtual address, frame, and the size 4 KiB × 4^i, the largest of the first `sizes` that the alignments allow
(R259, R371). -/
def pagesOf (sizes : Nat) : Nat → Nat → Nat → Nat → List (Nat × Nat × Nat)
  | 0, _, _, _ => []
  | n + 1, va, pa, rest =>
    if rest = 0 then [] else
    let fits (i : Nat) : Bool := va % (4096 * 4 ^ i) == 0 && pa % (4096 * 4 ^ i) == 0 && 4096 * 4 ^ i ≤ rest
    let i := ((List.range sizes).reverse.find? fits).getD 0
    (va, pa, i) :: pagesOf sizes n (va + 4096 * 4 ^ i) (pa + 4096 * 4 ^ i) (rest - 4096 * 4 ^ i)

/-- The entry of a page of size 4 KiB × 4^i at a frame (R258). -/
def MapReq.entry (q : MapReq) (pa i : Nat) : Nat :=
  let home := if q.kind ≤ 2 then frameDie q.kind pa else if q.kind = 4 then q.home else 0
  1 + q.state * 2 + i % 4 * 2 ^ 4 + q.granule * 2 ^ 6 + q.kind * 2 ^ 8 + q.perms * 2 ^ 11 + q.reuse * 2 ^ 15 + q.pin * 2 ^ 19 +
    pa / 4096 * 2 ^ 21 + home * 2 ^ 52

/-- Whether a page at a frame obeys R18 and R260. -/
def State.entryGood (s : State) (q : MapReq) (va pa i : Nat) : Bool :=
  let l : Leaf := { entry := 0, raw := q.entry pa i, base := va, size := 4096 * 4 ^ i }
  pa < 2 ^ 43 && l.wellFormed (s.feature 9) && s.populated q.kind pa (pa + l.size)

/-- The table of a level for a virtual address, the tables that are missing on the way made (R257). -/
def State.tableFor (ctx va k : Nat) : Nat → Nat → State → Option (Nat × State)
  | 0, tbl, s => some (tbl, s)
  | n + 1, tbl, s =>
    let at_ := tbl + 8 * levelIndex va (k + n + 1)
    let e := s.phys.le at_ 8
    if bits e 0 1 = 1 then State.tableFor ctx va k n (bits e 21 31 * 4096 + bits e 5 1 * 2048) s
    else match s.allocArea ctx 2048 2048 with
      | some (t, s) =>
        State.tableFor ctx va k n t
          { s with phys := s.phys.setLe at_ 8 (1 + t / 2048 % 2 * 2 ^ 5 + t / 4096 * 2 ^ 21) }
      | none => none

/-- A page's entries written (R259); none when no table can be made. -/
def State.mapPage (q : MapReq) (va pa i : Nat) (s : State) : Option State :=
  let k := i / 4
  (State.tableFor q.ctx va k (4 - k) (s.contextAt q.ctx).root s).map fun (t, s) =>
    let n := 4 ^ (i % 4)
    let idx := levelIndex va k
    let l : Leaf := { entry := t + 8 * (idx - idx % n), raw := q.entry pa i, base := va, size := 4096 * 4 ^ i }
    s.writeLeaf l l.raw

/-- Pages mapped, at their frames or at frames that firmware finds; none when frames run out. -/
def State.mapPages (q : MapReq) (given : Bool) : List (Nat × Nat × Nat) → State → Option State
  | [], s => some s
  | (va, pa, i) :: ps, s =>
    let n := 4096 * 4 ^ i
    let (lo, hi) := s.kindRange q.kind q.die
    match (if given then some pa else s.findFree lo hi n n) with
    | some pa =>
      let s := if q.kind ≤ 1 then (if given then s.holdRange q.ctx pa n else s.useRange q.ctx pa n) else s
      match s.mapPage q va pa i with
      | some s => State.mapPages q given ps s
      | none => none
    | none => none

/-! ## Unmapping (R261, R371) -/

/-- A page leaves its context's tables: its entries lose V, the slices and the victim tier drop it, and its frame is free, unless another
page of the context still maps some of it or firmware keeps it as a table or an area (R19, R261, R371). -/
def State.unmapPage (ctx : Nat) (s : State) (l : Leaf) : State :=
  let s := (((s.writeLeaf l (setBits l.raw 0 1 0)).dropPage ctx l true).freeVictim ctx l.base).unask ctx l
  let shared := (s.leaves ctx).any fun m => m.kind ≤ 1 && m.frame < l.frame + l.size && l.frame < m.frame + m.size
  if l.kind ≤ 1 ∧ shared = false then s.freeRange ctx l.frame l.size else s

/-- The pages of a range leave; the accesses that waited for them meet PAGE_FAULT (R260). -/
def State.unmapRange (ctx va n : Nat) (s : State) : State := ((s.leavesIn ctx va n).foldl (State.unmapPage ctx) s).replay

end Sys2Proof.Machine
end

