-- ==== Sys2Proof/Machine/Contexts.lean ====
section
/-! DEFINITION. The host's command mailbox, and its commands for contexts and mappings (R277, R306, R330, R371). -/

namespace Sys2Proof.Machine

/-! ## The mailbox (R371) -/

/-- The status codes of R371. -/
inductive Status where
  | done | args | state | resource | signature | access | unknown
  deriving DecidableEq, Repr

/-- The number of a status. -/
def Status.code : Status → BitVec 8
  | .done => 0
  | .args => 1
  | .state => 2
  | .resource => 3
  | .signature => 4
  | .access => 5
  | .unknown => 6

/-- A word of the command block in hand. -/
def State.cmdW (s : State) (i : Nat) : Nat := (s.device.block.toList.getD i 0#32).toNat

/-- The opcode of the command in hand. -/
def State.cmdOp (s : State) : Nat := s.cmdW 0 % 256

/-- The context that the command in hand names. -/
def State.cmdCtx (s : State) : Nat := s.cmdW 1 % 1024

/-- The state with the device's registers changed. -/
def State.modDevice (f : Device → Device) (s : State) : State := { s with device := f s.device }

/-- A command ends: busy clears, the status and the result words are written, the vector is raised if enabled (R371). A result that
the command does not give is zero. -/
def State.endCommand (st : Status) (r0 r1 : Nat) (s : State) : State :=
  let d := s.device
  let s := s.modDevice fun d => { d with busy := false, begun := false, opcode := BitVec.ofNat 8 s.cmdOp, status := st.code,
                                         hres0 := BitVec.ofNat 32 r0, hres1 := BitVec.ofNat 32 r1 }
  if d.hcmdvec.getLsbD 31 then s.raiseMsix (bits d.hcmdvec.toNat 0 11) else s

/-- A command that ends with DONE and no result. -/
def State.endDone (s : State) : State := s.endCommand .done 0 0

/-- A command that changes nothing. -/
def State.endBad (st : Status) (s : State) : State := s.endCommand st 0 0

/-- Whether the command in hand may run: one is submitted and no hand-over is in progress (R371). -/
def State.commandReady (s : State) : Bool := s.device.busy && s.firmware.role == .standby

/-- Whether a command's malformed words, or its context, end it: HCMD0 [31:8] and the words that the command gives as zero; a context
that is FREE (R371). The order of these checks is the model's (assumption 16). (DESIGN CHOICE, log 16). -/
def State.commandFault (s : State) (zero : List Bool) : Option Status :=
  if bits (s.cmdW 0) 8 24 != 0 || !zero.all id then some .args
  else if (s.contextAt s.cmdCtx).state == .free then some .access
  else none

/-- A command of an opcode, on a context that is not FREE. (DESIGN CHOICE, log 16). -/
def State.command (op : Nat) (zero : List Bool) (s : State) (k : Nat → Context → State → State) : State :=
  if !s.commandReady || s.cmdOp != op then s
  else match s.commandFault zero with
    | some st => s.endBad st
    | none => k s.cmdCtx (s.contextAt s.cmdCtx) s

/-- UNKNOWN_COMMAND (R371). -/
def execUnknownCommand (s : State) : Out :=
  if s.commandReady ∧ (s.cmdOp = 0 ∨ 0x0D < s.cmdOp) then ok (s.endBad .unknown) else ok s

/-! ## Contexts (R275, R277, R371) -/

/-- The lowest range of a table that no context uses: of n entries, starting at a multiple of a, below a limit (assumption 13).
(DESIGN CHOICE, log 13). -/
def freeEntries (used : List (Nat × Nat)) (n a limit : Nat) : Option Nat :=
  let starts := (0 :: used.map fun e => e.1 + e.2).map fun x => roundUp x a
  (starts.insertionSort (· ≤ ·)).find? fun x => x + n ≤ limit && used.all fun e => e.1 + e.2 ≤ x || x + n ≤ e.1 || e.2 == 0

/-- The trigger entries of a context (assumption 13): 16, so that 64 contexts share the 1,024 of R323. -/
def trigEach : Nat := 16

/-- Whether the words of a CTX_CREATE are well formed (R371, R369). -/
def State.createWords (s : State) : Bool :=
  let w := s.cmdW
  let feat : BitVec 128 := BitVec.ofNat 128 (w 3 + 2 ^ 32 * w 4 + 2 ^ 64 * w 5 + 2 ^ 96 * w 6)
  bits (w 0) 8 24 == 0 && bits (w 1) 10 6 == 0 && bits (w 1) 16 16 != 0 && bits (w 2) 2 14 == 0 && feat &&& s.feats == feat &&
    w 7 ≤ 4096 && bits (w 9) 0 5 ≤ 16 && bits (w 9) 5 3 == 0 && bits (w 9) 9 23 == 0 &&
    (List.range 6).all (fun i => w (10 + i) == 0) && (feat.getLsbD 5 || (w 7 == 0 && w 8 == 0)) && (feat.getLsbD 7 || bits (w 9) 8 1 == 0)

/-- The record that a CTX_CREATE writes, without its areas. -/
def State.createRecord (s : State) : Context :=
  let w := s.cmdW
  { state := .loading, dl := bits (w 9) 8 1 == 1, policy := BitVec.ofNat 2 (w 2), wdog := BitVec.ofNat 16 (bits (w 2) 16 16),
    feat := BitVec.ofNat 128 (w 3 + 2 ^ 32 * w 4 + 2 ^ 64 * w 5 + 2 ^ 96 * w 6), ssize := bits (w 1) 16 16, rlcap := w 7,
    ursize := w 8, aclcnt := bits (w 9) 0 5, acl := List.replicate (bits (w 9) 0 5) 0#32, trigCnt := trigEach }

/-- What a CTX_CREATE allocates: the top page table, the save area, the unexpected region, access-control entries, and trigger entries, whose
counts stay as they stand. (DESIGN CHOICE, log 77). -/
def State.createAreas (ctx : Nat) (c : Context) (s : State) : Option (Context × State) :=
  let used (f : Context → Nat × Nat) : List (Nat × Nat) := (s.contexts.filter fun e => e.2.state != .free).map fun e => f e.2
  match freeEntries (used fun c => (c.aclbase, c.aclcnt)) c.aclcnt 1 65536,
        freeEntries (used fun c => (c.trigBase, c.trigCnt)) trigEach trigEach 1024 with
  | some a, some t =>
    match s.allocArea ctx 128 128 with
    | none => none
    | some (root, s) =>
      match s.allocArea ctx (c.ssize * 65536) 65536 with
      | none => none
      | some (save, s) =>
        let c := { c with root := root, save := save, aclbase := a, trigBase := t }
        if c.ursize = 0 then some (c, s)
        else (s.allocArea ctx (c.ursize * 4096) 4096).map fun (ur, s) => ({ c with urbase := ur }, s)
  | _, _ => none

/-- CTX_CREATE (R277, R371). (DESIGN CHOICE, log 16). -/
def execCtxCreate (s : State) : Out :=
  if !s.commandReady || s.cmdOp != 1 then ok s
  else if !s.createWords then ok (s.endBad .args)
  else if (s.contextAt s.cmdCtx).state ≠ .free then ok (s.endBad .state)
  else if 64 ≤ s.residents then ok (s.endBad .resource)
  else match s.createAreas s.cmdCtx s.createRecord with
    | none => ok (s.endBad .resource)
    | some (c, t) =>
      ok (((t.modContext s.cmdCtx fun _ => c).modClasp s.cmdCtx fun _ => {}).endCommand .done
        (c.trigBase + c.trigCnt * 2 ^ 16) 0)

/-- CTX_READY (R277, R371). -/
def execCtxReady (s : State) : Out :=
  ok (s.command 2 [] fun ctx c s =>
    if c.state = .loading then (s.modContext ctx fun c => { c with state := .ready }).endDone else s.endBad .state)

/-- CTX_RESET (R277, R322, R335, R371): the held groups are released; a launch dispatched since is ABORTED with its group, and so is one
whose group is RELEASED and whose signal is still to be written. -/
def execCtxReset (s : State) : Out :=
  ok (s.command 3 [] fun ctx c s =>
    if c.state = .faulted then
      let s := (s.groupsOf ctx).foldl (fun s g =>
        s.modGroup g fun gr => if gr.state.live then { gr with state := .faulted } else gr) s
      (((s.abortReleased ctx).modContext ctx fun c => { c with state := .ready }).postAll ((s.groupsOf ctx).map .groupRelease)).endDone
    else s.endBad .state)

/-- A context killed: a fault record with CONTEXT_KILLED, counted, and everything is released (R277, R280). -/
def State.killContext (ctx : Nat) (s : State) : State :=
  let r : FaultRec := { cause := Cause.contextKilled.code, tval := BitVec.ofNat 32 ctx, epc := 0#32, coreid := 0, kslot := 0, handler := false }
  ((s.writeFault ctx 0 r).count .contextKilled).terminate ctx

/-- CTX_DESTROY (R277, R280, R371): the context is killed, and the command ends when it is FREE; firmware kills a context likewise. -/
def execCtxDestroy (s : State) : Out :=
  match s.now with
  | some (.firmwareKill ctx) =>
    let c := (s.contextAt ctx).state
    ok (if c = .free ∨ c = .terminated then s else s.killContext ctx)
  | _ =>
    ok (if s.device.begun then s else s.command 4 [] fun ctx c s =>
      if c.state = .terminated then s.endBad .state
      else (s.killContext ctx).modDevice fun d => { d with begun := true })

/-- A landing of a context ends: its rendezvous sender is told (R348). -/
def State.dropLand (s : State) (l : Land) : State :=
  if l.header.eager.isSome then s
  else if l.header.spart = s.partAddr then s.post (.fabricRequest (.sendDone l.header.score l.header.slot))
  else s.toPart l.header.spart (.sendDone l.header.score l.header.slot)

/-- A context's resources go: its tables, areas and frames, binaries, receive lists, landings, pieces, tile banks, and what the pager
and the slices hold for it (R277). -/
def State.freeResources (ctx : Nat) (s : State) : State :=
  let lands := (s.lands.filter fun e => e.2.ctx == ctx).map (·.2)
  let s := lands.foldl State.dropLand s
  let s := (s.victims.filter fun v => v.ctx == ctx).foldl (fun s v => s.freeVictim ctx v.va) s
  let disown (b : Bank) : Bank := if b.owner = some ctx then {} else b
  let slice (sl : Slice) : Slice :=
    { sl with lines := sl.lines.filter (fun m => m.ctx != ctx), pins := sl.pins.filter (fun p => p.ctx != ctx),
              counts := sl.counts.filter (fun e => e.1 != ctx), ptrs := sl.ptrs.filter fun p => p.1 != ctx }
  { s with contexts := s.contexts.del ctx, binaries := s.binaries.filter fun e => e.2.ctx != ctx,
           allocs := s.allocs.filter (fun e => e.1 != ctx), areas := s.areas.filter (fun e => e.1 != ctx),
           givens := s.givens.filter fun e => e.1 != ctx,
           clasps := s.clasps.del ctx, lands := s.lands.filter fun e => e.2.ctx != ctx,
           clusters := s.clusters.map fun e => (e.1, { e.2 with bank0 := disown e.2.bank0, bank1 := disown e.2.bank1 }),
           slices := s.slices.map fun e => (e.1, slice e.2),
           pagerAccs := s.pagerAccs.filter fun a => a.ctx != ctx, pagerAsks := s.pagerAsks.filter fun e => e.1 != ctx,
           engineAsks := s.engineAsks.filter (fun e => e.2.1 != ctx), pagerFailed := s.pagerFailed.filter fun e => e.2.1 != ctx }

/-- CONTEXT_FREE (R277): once its groups are released, a TERMINATED context's resources are freed, and a CTX_DESTROY of it ends. -/
def execContextFree (s : State) : Out :=
  match s.now with
  | some (.contextFree ctx) =>
    if (s.contextAt ctx).state ≠ .terminated ∨ s.groupsOf ctx ≠ [] then ok s else
    let s := s.freeResources ctx
    ok (if s.device.begun ∧ s.cmdOp = 4 ∧ s.cmdCtx = ctx then s.endDone else s)
  | _ => ok s

/-- CTX_SET (R306, R330, R371). -/
def execCtxSet (s : State) : Out :=
  ok (s.command 5 [bits (s.cmdW 2) 18 14 == 0] fun ctx _ s =>
    let w := s.cmdW 2
    let quota := if bits w 0 6 = 0 then 64 else bits w 0 6
    let share := if bits w 8 4 = 0 then 8 else bits w 8 4
    (s.modContext ctx fun c =>
      { c with quota := if bits w 16 1 = 1 then quota else c.quota, share := if bits w 17 1 = 1 then share else c.share }).endDone)

/-- An access-control entry with its reserved bits zero (R293). -/
def aclEntry (w : Nat) : Word := BitVec.ofNat 32 (setBits (w % 2 ^ 32) 22 8 0)

/-- ACL_SET (R371): entry k, below aclcnt. -/
def execAclSet (s : State) : Out :=
  ok (s.command 6 [] fun ctx c s =>
    let k := bits (s.cmdW 2) 0 4
    if c.aclcnt ≤ k then s.endBad .args
    else (s.modContext ctx fun c => { c with acl := c.acl.set k (aclEntry (s.cmdW 3)) }).endDone)

/-- Words w0 and w15 of a context record (R275). -/
def Context.w0 (ctx : Nat) (c : Context) : Nat := c.state.code * 2 ^ 16 + c.dl.toNat * 2 ^ 11 + ctx
/-- Word w15 of a context record (R275). -/
def Context.w15 (c : Context) : Nat := c.layout.toNat * 2 ^ 24 + c.ssize

/-- CTX_QUERY (R371). -/
def execCtxQuery (s : State) : Out := ok (s.command 7 [] fun ctx c s => s.endCommand .done (c.w0 ctx) c.w15)

/-- FOLLOW_SET (R271, R371). -/
def execFollowSet (s : State) : Out :=
  ok (s.command 10 [] fun ctx _ s =>
    let p := bits (s.cmdW 2) 0 12
    let e : Nat × Nat := (bits (s.cmdW 3) 0 10, bits (s.cmdW 4) 0 16)
    (s.modContext ctx fun c =>
      { c with follow := if bits (s.cmdW 2) 16 1 = 1 then c.follow.put p e else c.follow.del p }).endDone)

/-! ## MAP and UNMAP (R371) -/

/-- The range that words 2 to 5 of the command name. -/
def State.cmdRange (s : State) : Nat × Nat := (s.cmdW 2 + 2 ^ 32 * s.cmdW 3, s.cmdW 4 + 2 ^ 32 * s.cmdW 5)

/-- Whether a range is whole 4 KiB units of the virtual space (R371). -/
def rangeGood (r : Nat × Nat) : Bool := r.1 % 4096 == 0 && r.2 % 4096 == 0 && r.2 != 0 && r.1 + r.2 ≤ 2 ^ 48

/-- The request of a MAP (R371). -/
def State.mapReq (s : State) : MapReq :=
  let w := s.cmdW 6
  { ctx := s.cmdCtx, kind := bits w 0 3, state := if bits w 0 3 = 4 then 4 else 0, granule := bits w 4 2, reuse := bits w 6 2,
    perms := bits w 8 3 + bits w 12 1 * 8, pin := bits w 11 1, die := if bits w 16 1 = 1 then some (bits w 13 3) else none,
    home := bits (s.cmdW 9) 0 12 }

/-- The frame that a MAP's address names: a HOST address lies in the window at HBASE (R17, R371). -/
def State.mapFrameOf (s : State) (kind a : Nat) : Nat :=
  if kind = 3 then (if s.hostBase.toNat ≤ a then 0x40000000000 + (a - s.hostBase.toNat) else 0) else a

/-- Whether the words of a MAP are well formed, its pages by R18 and R260 among them (R371). -/
def State.mapWords (s : State) : Bool :=
  let q := s.mapReq
  let w := s.cmdW 6
  let given := bits w 17 1 == 1
  let (va, n) := s.cmdRange
  let a := s.mapFrameOf q.kind (s.cmdW 7 + 2 ^ 32 * s.cmdW 8)
  rangeGood (va, n) && q.kind ≤ 4 && bits w 3 1 == 0 && bits w 18 14 == 0 && (given || q.kind ≤ 1) &&
    (q.granule == 0 || q.kind == 0) && (bits w 12 1 == 0 || q.kind == 4 || !s.feature 9) &&
    (!given || (a % 4096 == 0 && (pagesOf q.sizes (n / 4096) va a n).all fun p => s.entryGood q p.1 p.2.1 p.2.2))

/-- MAP (R371). A page in the range that is already mapped is STATE, frames or tables that run out are RESOURCE. The new entries
replace none, so no access stands in the way of the shoot-down (R261). (DESIGN CHOICE, log 16). -/
def execMap (s : State) : Out :=
  ok (s.command 12 [s.mapWords] fun ctx c s =>
    let q := s.mapReq
    let (va, n) := s.cmdRange
    let given := bits (s.cmdW 6) 17 1 == 1
    let a := if given then s.mapFrameOf q.kind (s.cmdW 7 + 2 ^ 32 * s.cmdW 8) else va
    if c.state = .terminated ∨ s.leavesIn ctx va n ≠ [] then s.endBad .state
    else match State.mapPages q given (pagesOf q.sizes (n / 4096) va a n) s with
      | some t => t.endDone
      | none => s.endBad .resource)

/-- UNMAP (R261, R371): of whole pages, once no access translated under their entries is on its way. (DESIGN CHOICE, log 16). -/
def execUnmap (s : State) : Out :=
  ok (s.command 13 [rangeGood s.cmdRange] fun ctx c s =>
    let (va, n) := s.cmdRange
    if c.state = .terminated then s.endBad .state
    else if !(s.leavesIn ctx va n).all fun l => va ≤ l.base && l.base + l.size ≤ va + n then s.endBad .args
    else if s.rangeBusy ctx va n then s
    else (s.unmapRange ctx va n).endDone)

end Sys2Proof.Machine
end

