-- ==== Sys2Proof/Machine/Binaries.lean ====
section
/-! DEFINITION. Bymel graph binaries: reading a .byg, loading it into a context and unloading it, domain-set tables, and the withdrawal
of a signature (R229, R311 to R313, R316, R371). -/

namespace Sys2Proof.Machine

/-! ## The sections of a .byg (R311, R312) -/

/-- A word of a binary. -/
def bygWord (bs : List Byte) (a : Nat) : Nat := leNat ((bs.drop a).take 4)

/-- The offset and the length of section k, from 2 to 10 (R311). -/
def bygSection (bs : List Byte) (k : Nat) : Nat × Nat := (bygWord bs (0x10 + 8 * (k - 2)), bygWord bs (0x14 + 8 * (k - 2)))

/-- The bytes of a section. -/
def bygBytes (bs : List Byte) (k : Nat) : List Byte := (bs.drop (bygSection bs k).1).take (bygSection bs k).2

/-- The entries of n words of a section's bytes. -/
def entriesOf (n : Nat) (bs : List Byte) : List (List Nat) :=
  (List.range (bs.length / (4 * n))).map fun i => (List.range n).map fun j => bygWord bs (4 * n * i + 4 * j)

/-- A word of an entry. -/
def ent (e : List Nat) (i : Nat) : Nat := e.getD i 0

/-- How many nodes a binary has. -/
def bygNodes (bs : List Byte) : Nat := bygWord bs 4 / 2 ^ 16

/-- The header and the directory (R311). -/
def headerGood (bs : List Byte) (len : Nat) : Bool :=
  let secs := (List.range 9).map fun i => bygSection bs (i + 2)
  0x80 ≤ bs.length && bygWord bs 0 == 0x47594D42 && bygWord bs 4 % 2 ^ 16 == 1 && 1 ≤ bygNodes bs && bygNodes bs ≤ 255 &&
    bygWord bs 8 == bs.length && bs.length == len && bygWord bs 12 == 0 && ((bs.drop 0x58).take 40).all (· == 0#8) &&
    secs.all (fun e => e.1 % 64 == 0 && e.1 + e.2 ≤ bs.length) && ((0x80, 0) :: secs).Pairwise fun a b => a.1 + a.2 ≤ b.1

/-- Whether the three words of a name are padded with NULs: none is followed by another byte (R312). -/
def nameGood (ws : List Nat) : Bool :=
  let bs := ws.flatMap fun w => leBytes 4 w
  (bs.dropWhile (· != 0#8)).all (· == 0#8)

/-- A node table entry (R312, R315). -/
def nodeGood (code : Nat) (e : List Nat) : Bool :=
  nameGood (e.take 3) && shapeValid (BitVec.ofNat 32 (ent e 7)) && ent e 3 % 4 == 0 && ent e 3 + ent e 4 ≤ code && ent e 4 % 2 == 0 && ent e 4 ≤ 2 ^ 25 && ent e 5 % 2 == 0 && ent e 5 < ent e 4 &&
    ent e 6 % 2 == 0 && ent e 6 < ent e 4

/-- An edge (R312). -/
def edgeGood (n : Nat) (e : List Nat) : Bool :=
  bits (ent e 0) 0 8 < n && bits (ent e 0) 8 8 < n && bits (ent e 0) 16 8 == 1 && bits (ent e 0) 24 8 == 0 && 1 ≤ ent e 1 && ent e 1 ≤ 256

/-- A handler table word (R183, R312). -/
def handlerGood (w : Nat) : Bool := bits w 25 6 == 0 && w % 2 == 0

/-- A patch point (R312). -/
def patchGood (n : Nat) (e : List Nat) : Bool :=
  let size := bits (ent e 0) 8 8
  bits (ent e 0) 0 8 < n && (size == 4 || size == 8) && bits (ent e 0) 17 15 == 0 && bits (ent e 2) 16 16 == 0 &&
    (bits (ent e 0) 16 1 == 1 || (ent e 2 == 0 && ent e 1 + size ≤ 1024))

/-- The regions of a memory plan: the entries before the first initial contents that one of them names (assumption 17).
(DESIGN CHOICE, log 17). -/
def planEntries (bs : List Byte) : List (List Nat) :=
  ((entriesOf 8 bs).foldl (fun (acc : Nat × List (List Nat)) e =>
    if 32 * acc.2.length + 32 ≤ acc.1 ∧ acc.1 ≤ bs.length then
      (if ent e 6 = 0 then acc.1 else min acc.1 (ent e 5), acc.2 ++ [e])
    else acc) (bs.length, [])).2

/-- The virtual address and the size of a region, whole 4 KiB units. -/
def planRange (e : List Nat) : Nat × Nat := (ent e 0 + 2 ^ 32 * ent e 1, roundUp (ent e 2 + 2 ^ 32 * ent e 3) 4096)

/-- A memory-plan entry (R312). -/
def planGood (len : Nat) (e : List Nat) : Bool :=
  bits (ent e 1) 16 16 == 0 && bits (ent e 4) 0 3 ≤ 3 && bits (ent e 4) 3 1 == 0 && bits (ent e 4) 12 20 == 0 && ent e 7 == 0 &&
    (ent e 6 == 0 || ent e 5 + ent e 6 ≤ len) && ent e 6 ≤ ent e 2 + 2 ^ 32 * ent e 3 && rangeGood (planRange e) &&
    (bits (ent e 4) 4 2 == 0 || bits (ent e 4) 0 3 == 0)

/-- Whether no two regions of a memory plan overlap, so that each can be mapped (R313). (DESIGN CHOICE, log 17). -/
def plansApart (es : List (List Nat)) : Bool :=
  (es.map planRange).Pairwise fun a b => a.1 + a.2 ≤ b.1 ∨ b.1 + b.2 ≤ a.1

/-- The signature section: key index, length, padding (R312). -/
def signatureGood (bs : List Byte) : Bool :=
  bs.length == 4672 && bygWord bs 4 == 4627 && (bs.drop 4635).all (· == 0#8)

/-- Whether a binary is well formed under R311 and R312. -/
def bygGood (bs : List Byte) (len : Nat) : Bool :=
  let n := bygNodes bs
  let sec := bygBytes bs
  headerGood bs len && (sec 2).length == 32 * n && (entriesOf 8 (sec 2)).all (nodeGood (sec 4).length) &&
    (sec 3).length % 16 == 0 && (entriesOf 4 (sec 3)).all (edgeGood n) && (sec 5).length == 192 * n &&
    (entriesOf 1 (sec 5)).all (fun e => handlerGood (ent e 0)) && (sec 6).length == 1024 * n && (sec 7).length % 16 == 0 &&
    (entriesOf 4 (sec 7)).all (patchGood n) && (planEntries (sec 8)).all (planGood (sec 8).length) && plansApart (planEntries (sec 8)) && (sec 9).length == 16 &&
    signatureGood (sec 10)

/-- A node of a binary (R312). -/
def bygNode (bs : List Byte) (i : Nat) : Node :=
  let e := (entriesOf 8 (bygBytes bs 2)).getD i []
  let words (l : List Nat) : List Word := l.map (BitVec.ofNat 32)
  { name := words (e.take 3), code := ((bygBytes bs 4).drop (ent e 3)).take (ent e 4), entry := ent e 5, trapEntry := ent e 6,
    shape := BitVec.ofNat 32 (ent e 7),
    handlers := words ((List.range 48).map fun j => bygWord (bygBytes bs 5) (192 * i + 4 * j)),
    templates := (List.range 16).map fun t => recOfBytes ((bygBytes bs 6).drop (1024 * i + 64 * t)) }

/-- What loading makes of a well-formed binary (R312, R313). -/
def bygBinary (ctx : Nat) (bs : List Byte) : Binary :=
  { loaded := true, ctx := ctx, nodes := (List.range (bygNodes bs)).map (bygNode bs),
    edges := (entriesOf 4 (bygBytes bs 3)).map fun e => ⟨bits (ent e 0) 0 8, bits (ent e 0) 8 8, ent e 1⟩,
    patches := (entriesOf 4 (bygBytes bs 7)).map fun e =>
      { node := bits (ent e 0) 0 8, size := bits (ent e 0) 8 8, data := bits (ent e 0) 16 1 == 1, offset := ent e 1,
        va := ent e 1 + 2 ^ 32 * (ent e 2 % 2 ^ 16), arg := ent e 3 },
    regions := (planEntries (bygBytes bs 8)).map planRange, features := BitVec.ofNat 128 (leNat (bygBytes bs 9)),
    keyIndex := BitVec.ofNat 32 (bygWord (bygBytes bs 10) 0) }

/-! ## Loading (R313) -/

/-- The request that maps a region: read and written, on its home die if it gives one. A LOCALWIN or HOST region, for which the plan
gives no frame, is ABSENT until the pager maps one (assumption 17). (DESIGN CHOICE, log 17). -/
def planReq (ctx : Nat) (e : List Nat) : MapReq :=
  let w := ent e 4
  let k := bits w 0 3
  { ctx := ctx, kind := k, state := if k ≤ 1 then 0 else 5, granule := bits w 4 2, reuse := bits w 6 2, perms := 3,
    die := if bits w 11 1 = 1 then some (bits w 8 3) else none }

/-- The first frame of a window: what an ABSENT entry of kind 2 or 3 holds (R260). -/
def windowFrame (kind : Nat) : Nat := if kind = 2 then 0x30000000000 else 0x40000000000

/-- A region mapped; an ABSENT one in 4 KiB pages. (DESIGN CHOICE, log 17). -/
def State.mapRegion (ctx : Nat) (s : State) (e : List Nat) : Option State :=
  let q := planReq ctx e
  let (va, n) := planRange e
  if q.kind ≤ 1 then State.mapPages q false (pagesOf q.sizes (n / 4096) va va n) s
  else if ent e 6 ≠ 0 then none
  else State.mapPages q true ((List.range (n / 4096)).map fun i => (va + 4096 * i, windowFrame q.kind, 0)) s

/-- Bytes written at a virtual address of a context, 4 KiB unit by unit. -/
def State.writeVa (ctx va : Nat) (bs : List Byte) (s : State) : State :=
  (List.range (bs.length / 4096 + 1)).foldl (fun s i =>
    match s.walk ctx (va + 4096 * i) with
    | .leaf l => s.writeFrame (l.pa (va + 4096 * i)) ((bs.drop (4096 * i)).take 4096)
    | .fault _ => s) s

/-- A region's initial contents (R312, R313). -/
def State.fillRegion (ctx : Nat) (plan : List Byte) (s : State) (e : List Nat) : State :=
  if ent e 6 = 0 then s else s.writeVa ctx (planRange e).1 ((plan.drop (ent e 5)).take (ent e 6))

/-- The lowest handle that names no binary (assumption 13). (DESIGN CHOICE, log 13). -/
def State.freeHandle (s : State) : Option Nat := ((List.range 65535).map (· + 1)).find? fun h => (s.binaries.find h).isNone

/-- Whether a binary's ML-DSA-87 signature verifies, under the provisioned key that its key index names, over the SHA3-512 digest of every
byte before the signature section (R313). (DESIGN CHOICE, log 57). -/
def State.signatureVerifies (s : State) (bs : List Byte) : Bool :=
  let at_ := (bygSection bs 10).1
  match s.keys.find (bygWord (bygBytes bs 10) 0) with
  | some key => Config.mldsaVerifies key (Config.sha3 (bs.take at_)) ((bs.drop (at_ + 8)).take 4627)
  | none => false

/-- BIN_LOAD (R313, R371): well formed, signed under a key that stands, and every region mapped. (DESIGN CHOICE, log 46). -/
def execBinLoad (s : State) : Out :=
  match s.now with
  | some (.binLoad bs) =>
    ok (s.command 8 [s.cmdW 2 % 64 == 0, bygGood bs (s.cmdW 4)] fun ctx c s =>
      let plan := bygBytes bs 8
      let regions := planEntries plan
      let b := bygBinary ctx bs
      if c.state = .terminated ∨ regions.any fun e => !(s.leavesIn ctx (planRange e).1 (planRange e).2).isEmpty then s.endBad .state
      else if !s.signatureVerifies bs ∨ s.firmware.revoked.contains b.keyIndex.toNat then (s.count .signatureBad).endBad .signature
      else match s.freeHandle, regions.foldlM (State.mapRegion ctx) s with
        | some h, some t =>
          let t := regions.foldl (State.fillRegion ctx plan) t
          State.endCommand .done h 0 { t with binaries := t.binaries.put h b }
        | _, _ => s.endBad .resource)
  | _ => ok s

/-! ## Unloading (R313) -/

/-- Whether a launch of a binary is in flight, its completion signal still to be written too (R313, R322). -/
def State.launchInFlight (s : State) (h : Nat) : Bool :=
  s.groups.any fun e => e.2.handle == h && e.2.state != .none && (e.2.state != .released || e.2.kernel == .draining)

/-- The binary that the command in hand names in its context. -/
def State.cmdBinary (s : State) (ctx : Nat) : Option (Nat × Binary) :=
  let h := bits (s.cmdW 2) 0 16
  match s.binaries.find h with
  | some b => if b.loaded && b.ctx == ctx then some (h, b) else none
  | none => none

/-- A binary goes: its regions are unmapped and its handle is free (R313). -/
def State.unload (h : Nat) (b : Binary) (s : State) : State :=
  let s := b.regions.foldl (fun s r => s.unmapRange b.ctx r.1 r.2) s
  { s with binaries := s.binaries.del h }

/-- BIN_UNLOAD (R313, R371): waits until no launch of the binary is in flight. -/
def execBinUnload (s : State) : Out :=
  ok (s.command 9 [] fun ctx _ s =>
    match s.cmdBinary ctx with
    | none => s.endBad .access
    | some (h, b) =>
      if b.unloading && !s.device.begun then s.endBad .state
      else if s.launchInFlight h || b.regions.any (fun r => s.rangeBusy ctx r.1 r.2) then
        State.modDevice (fun d => { d with begun := true }) { s with binaries := s.binaries.put h { b with unloading := true } }
      else (s.unload h b).endDone)

/-! ## Domain-set tables and keys (R229, R316, R371) -/

/-- The entries of a domain-set list: part, context ID and handle there, and whether their other bits are zero (R371). -/
def dsetEntries (bs : List Byte) : List (Nat × Nat × Nat) × Bool :=
  let es := entriesOf 2 bs
  (es.map fun e => (bits (ent e 0) 0 12, bits (ent e 0) 12 10, bits (ent e 1) 0 16),
   es.all fun e => bits (ent e 0) 22 10 == 0 && bits (ent e 1) 16 16 == 0)

/-- DSET_SET (R229, R371): the list, read from host memory. (DESIGN CHOICE, log 46). -/
def execDsetSet (s : State) : Out :=
  match s.now with
  | some (.dsetSet bs) =>
    let n := bits (s.cmdW 2) 16 7
    let (es, good) := dsetEntries bs
    ok (s.command 11 [1 ≤ n, n ≤ 64, bs.length == 8 * n, good, es.countP (fun e => e.1 == s.partAddr) == 1] fun ctx _ s =>
      match s.cmdBinary ctx with
      | none => s.endBad .access
      | some (h, b) => State.endDone { s with binaries := s.binaries.put h { b with dset := es } })
  | _ => ok s

/-- KEY_REVOCATION (R316): the signature check of the binaries loaded under the key is withdrawn. -/
def execKeyRevocation (s : State) : Out :=
  match s.now with
  | some (.keyRevocation k) =>
    let withdraw (b : Binary) : Binary := if b.keyIndex.toNat = k then { b with withdrawn := true } else b
    ok { s with firmware := { s.firmware with revoked := s.firmware.revoked ++ [k] },
                binaries := s.binaries.map fun e => (e.1, withdraw e.2) }
  | _ => ok s

end Sys2Proof.Machine
end

