-- ==== Sys2Proof/Machine/Device.lean ====
section
/-! DEFINITION. The device's registers and BAR2, bring-up and features, checkpoints, live update, attestation, field records and power
(R292, R293, R366 to R379). -/

namespace Sys2Proof.Machine

/-! ## Bring-up and features (R369, R370) -/

/-- The offer of BRINGUP: bits 5 to 11 (R370). -/
def reducedOffer : BitVec 128 := 0xFE0#128
/-- The offer of READY: bits 0 to 11 (R369, R370). -/
def fullOffer : BitVec 128 := 0xFFF#128

/-- The clock of the accepted features in units of 0.1 GHz (R369: CLK12). -/
def State.baseClock (s : State) : Nat := if s.feature 1 then 12 else 8

/-- A die's clock (R379). -/
def State.clockOf (s : State) (die : Nat) : Nat := SMap.get s.baseClock s.clocks die

/-- POWER_ON (R370, R375): the records are read from flash, CD0 is trained, and the part is in BRINGUP with the reduced offer. -/
def execPowerOn (s : State) : Out :=
  if s.device.state ≠ 0#4 then ok s else
  ok { s with device := { s.device with state := 1#4, foffer := reducedOffer, faccept := 0#128 }, feats := 0#128,
              records := { s.flash with cycles := satCount s.flash.cycles } }

/-- What firmware sets (R212, R262, R264, R306, R313, R337, R344): the address, the route table and the ring peers while the part is brought
up; the keys, over the side-band, and the rest at any time. ECC32C stays clear unless its feature is accepted (R369).
(DESIGN CHOICE, log 51). -/
def State.setting (x : Setting) (s : State) : State :=
  let bringup := s.device.state = 1#4
  match x with
  | .partAddress a => if bringup then { s with partAddr := a % 4096 } else s
  | .dimension d n wraps =>
    if bringup ∧ 1 ≤ n ∧ n ≤ 8 then { s with dims := s.dims.set d n, wraps := s.wraps.set d wraps } else s
  | .ringPeer r p => if bringup then { s with ringPeers := s.ringPeers.set r (p.map (· % 4096)) } else s
  | .key k bs => { s with keys := s.keys.put k bs }
  | .pinThreshold n => { s with pinThreshold := n }
  | .quantum n => if n = 0 then s else { s with quantum := n }
  | .ecc32c b => { s with ecc32c := b && s.feature 6 }
  | .codeExec h node x =>
    match s.binaries.find h with
    | some b => { s with binaries := s.binaries.put h { b with nodes := b.nodes.modify node fun n => { n with exec := x } } }
    | none => s

/-- BRINGUP_END (R370), and what firmware sets. -/
def execBringupEnd (s : State) : Out :=
  match s.now with
  | some (.firmwareSetting x) => ok (s.setting x)
  | some (.bringupEnd good step) =>
    if s.device.state ≠ 1#4 then ok s
    else ok (s.modDevice fun d =>
      if good then { d with state := 2#4, foffer := fullOffer, step := step } else { d with state := 3#4, step := step })
  | _ => ok s

/-- The frames of WBASE (R366, R367). -/
def Device.window (d : Device) : BitVec 64 := BitVec.ofNat 64 (bits d.wbase.toNat 0 7 * 2 ^ 36)

/-- FCOMMIT (R369): FACCEPT, WBASE and HBASE take effect while every context is FREE; else CR. (DEDUCED, log 28). -/
def execFcommit (s : State) : Out :=
  if s.contexts.any fun e => e.2.state != .free then ok (s.modDevice fun d => { d with cr := true })
  else
    let f := s.device.faccept &&& s.device.foffer
    ok { s with feats := f, barBase := s.device.window, hostBase := s.device.hbase, clocks := [],
                ecc32c := s.ecc32c && f.getLsbD 6, device := { s.device with faccept := f, cr := false } }

/-! ## Registers (R292, R293, R366, R371) -/

/-- A 64-bit register with its low or high word written. -/
def setHalf (r : BitVec 64) (hi : Bool) (w : Word) : BitVec 64 :=
  if hi then BitVec.ofNat 64 (r.toNat % 2 ^ 32 + w.toNat * 2 ^ 32) else BitVec.ofNat 64 (r.toNat / 2 ^ 32 * 2 ^ 32 + w.toNat)

/-- A 128-bit register with word k written. -/
def setQuarter (r : BitVec 128) (k : Nat) (w : Word) : BitVec 128 := BitVec.ofNat 128 (setBits r.toNat (32 * k) 32 w.toNat)

/-- HCMDGO (R371): the block is submitted, unless a command is in hand. -/
def Device.submit (d : Device) : Device := if d.busy then d else { d with busy := true, begun := false, block := d.hcmd }

/-- A host write of a word to a device register without a row of its own, by its offset from 0x110_0000 (R366, R371); read-only
registers and unlisted offsets drop it. -/
def Device.write (off : Nat) (w : Word) (d : Device) : Device :=
  if off = 0 then { d with cr := d.cr && !w.getLsbD 7 }
  else if 0x20 ≤ off ∧ off < 0x30 then { d with faccept := setQuarter d.faccept ((off - 0x20) / 4) w }
  else if off = 0x40 then { d with wbase := (w &&& 0x7F#32).setWidth 64 }
  else if off = 0x48 then { d with hbase := setHalf d.hbase false (w &&& 0xFFFFF000#32) }
  else if off = 0x4C then { d with hbase := setHalf d.hbase true w }
  else if off = 0x50 then { d with ckptd := setHalf d.ckptd false (w &&& 0xFFFFFFC0#32) }
  else if off = 0x54 then { d with ckptd := setHalf d.ckptd true w }
  else if h : 0x100 ≤ off ∧ off < 0x140 then { d with hcmd := d.hcmd.set ((off - 0x100) / 4) w (by omega) }
  else if off = 0x140 then (if w = 1#32 then d.submit else d)
  else if off = 0x150 then { d with hcmdvec := w &&& 0x800007FF#32 }
  else d

/-- A queue control block with a word written through its window (R293): some fields only in state DISABLED. -/
def Queue.write (k : Nat) (w : Word) (u : Queue) : Queue :=
  let free := u.state == .disabled
  if k = 1 then (if free then { u with prod := w.getLsbD 11, ctxid := w.setWidth 10 } else u)
  else if k = 2 then (if free then { u with lsize := w.setWidth 4 } else u)
  else if k = 3 then (if free then { u with base := BitVec.ofNat 48 (setBits u.base.toNat 0 32 w.toNat) } else u)
  else if k = 4 then (if free then { u with base := BitVec.ofNat 48 (setBits u.base.toNat 32 16 w.toNat) } else u)
  else if k = 7 then { u with quota := w.setWidth 4 }
  else if k = 13 then { u with msix := w.setWidth 11 }
  else if h : 16 ≤ k ∧ k < 32 then { u with acl := u.acl.set (k - 16) (aclEntry w.toNat) (by omega) }
  else u

/-- The event that a write of a queue's page or window is, when the table gives it a row (R292 to R294). -/
def queueEvent (off : Nat) (w : Word) : Option Event :=
  if off < 0x1000000 then
    let q := off / 0x1000
    if off % 0x1000 = 0 then some (.kick q w)
    else if off % 0x1000 = 0xC then
      (if w = 3#32 then some (.suspend q) else if w = 4#32 then some (.resume q) else if w = 5#32 then some (.skip q) else none)
    else none
  else
    let q := (off - 0x1000000) / 0x100
    if off % 0x100 = 0 then (if bits w.toNat 0 4 = 1 then some (.enable q) else if bits w.toNat 0 4 = 0 then some (.disable q) else none)
    else if off % 0x100 = 4 then some (.prioChange q (BitVec.ofNat 4 (bits w.toNat 16 4)))
    else none

/-- A write of a word of the MSI-X table (R365): the fourth word of an entry holds the vector's mask, and the message that waited for a
vector now unmasked is sent. (PRESUMED, log 31). -/
def State.writeMsix (o : Nat) (w : Word) (s : State) : State :=
  let v := o / 16
  let bit := 1#2048 <<< v
  if o % 16 ≠ 12 then s.modDevice fun d => { d with msixMem := d.msixMem.setWord o w }
  else if w.getLsbD 0 then s.modDevice fun d => { d with msixMask := d.msixMask ||| bit }
  else
    let t := s.modDevice fun d => { d with msixMask := d.msixMask &&& ~~~bit, msixPend := d.msixPend &&& ~~~bit }
    if s.device.msixPend.getLsbD v then t.raiseMsix v else t

/-- A checkpoint requested: its descriptor is read from host memory at CKPTD (R376, R377). -/
def State.askCkpt (s : State) : State :=
  let (id, s) := s.newWait
  let r : HostReq := ⟨id, s.device.ckptd.toNat, 320, .read⟩
  State.modDevice (fun d => { d with ckptReads := d.ckptReads ++ [id] }) { s with hostOut := s.hostOut ++ [r] }

/-- REGISTER_WRITE (R292, R293, R366, R371): a host write of an aligned word of BAR0. What has a row of its own follows as that row's
event, before any later access of the host. -/
def execRegisterWrite (s : State) : Out :=
  match s.now with
  | some (.registerWrite off w) =>
    if off < 0x1100000 then
      let s := if 0x1000000 ≤ off then s.modQueue ((off - 0x1000000) / 0x100) (Queue.write (off % 0x100 / 4) w) else s
      ok (match queueEvent off w with
        | some e => s.repost e
        | none => s)
    else if off < 0x1200000 then
      if off = 0x1100030 then ok (if w = 1#32 then s.repost .fcommit else s)
      else if off = 0x1100058 then ok (if w = 1#32 then s.askCkpt else s)
      else ok (s.modDevice (Device.write (off - 0x1100000) w))
    else if off < 0x1208000 then ok (s.writeMsix (off - 0x1200000) w)
    else ok s
  | _ => ok s

/-- A word of the queue control block as its window reads it (R293). -/
def Queue.read (k : Nat) (u : Queue) : Word :=
  match k with
  | 0 => BitVec.ofNat 32 u.state.code
  | 1 => BitVec.ofNat 32 (u.eff.toNat * 2 ^ 20 + u.prio.toNat * 2 ^ 16 + u.prod.toNat * 2 ^ 11 + u.ctxid.toNat)
  | 2 => u.lsize.setWidth 32
  | 3 => u.base.setWidth 32
  | 4 => (u.base >>> 32).setWidth 32
  | 5 => u.ri
  | 6 => u.wi
  | 7 => u.quota.setWidth 32
  | 8 => u.ecode.setWidth 32
  | 9 => u.eidx
  | 10 => u.edetail
  | 11 => u.etime
  | 12 => u.age
  | 13 => u.msix.setWidth 32
  | 14 => u.kickdrop
  | 15 => u.acldrop
  | 32 => BitVec.ofNat 32 (u.waitW.toNat * 2 ^ 31 + u.waitB.toNat * 2 ^ 30 + u.inflight)
  | 33 => u.stale
  | _ => if 16 ≤ k ∧ k < 32 then u.acl.toList.getD (k - 16) 0#32 else 0#32

/-- DSTAT (R366); HO stands from LOADING until the update ends (R372). -/
def State.dstat (s : State) : Word :=
  BitVec.ofNat 32 (s.device.step.toNat * 2 ^ 16 + s.device.cr.toNat * 2 ^ 7 + s.device.ck.toNat * 2 ^ 6 +
    (s.firmware.role != .standby).toNat * 2 ^ 5 + s.device.state.toNat)

/-- What a host read of a word of BAR0 returns (R292, R293, R366, R371); write-only and unlisted offsets read zero. -/
def State.barRead (s : State) (off : Nat) : Word :=
  let d := s.device
  if off < 0x1000000 then
    let u := s.queueAt (off / 0x1000)
    if off % 0x1000 = 4 then u.ri else if off % 0x1000 = 8 then BitVec.ofNat 32 (u.ecode.toNat * 2 ^ 24 + u.state.code) else 0#32
  else if off < 0x1100000 then (s.queueAt ((off - 0x1000000) / 0x100)).read (off % 0x100 / 4)
  else if off < 0x1200000 then
    let o := off - 0x1100000
    if o = 0 then s.dstat
    else if 0x10 ≤ o ∧ o < 0x20 then (d.foffer >>> (8 * (o - 0x10))).setWidth 32
    else if 0x20 ≤ o ∧ o < 0x30 then (d.faccept >>> (8 * (o - 0x20))).setWidth 32
    else if o = 0x40 then d.wbase.setWidth 32
    else if o = 0x48 then d.hbase.setWidth 32
    else if o = 0x4C then (d.hbase >>> 32).setWidth 32
    else if o = 0x50 then d.ckptd.setWidth 32
    else if o = 0x54 then (d.ckptd >>> 32).setWidth 32
    else if o = 0x5C then BitVec.ofNat 32 (d.ckcount.toNat * 2 ^ 16 + d.ckstat.toNat)
    else if 0x100 ≤ o ∧ o < 0x140 then d.hcmd.toList.getD ((o - 0x100) / 4) 0#32
    else if o = 0x144 then BitVec.ofNat 32 (d.busy.toNat * 2 ^ 31 + d.status.toNat * 2 ^ 8 + d.opcode.toNat)
    else if o = 0x148 then d.hres0
    else if o = 0x14C then d.hres1
    else if o = 0x150 then d.hcmdvec
    else 0#32
  else if off < 0x1208000 then
    let o := off - 0x1200000
    if o % 16 = 12 then BitVec.ofNat 32 (d.msixMask.getLsbD (o / 16)).toNat else d.msixMem.word o
  else if off < 0x1208100 then (d.msixPend >>> (8 * (off - 0x1208000))).setWidth 32
  else 0#32

/-! ## BAR2 (R367) -/

/-- Whether a range of physical space is one that a BAR2 access reaches: LPDDR that exists, VAULT or LOCALWIN. (DESIGN CHOICE, log 29). -/
def State.barReaches (s : State) (pa n : Nat) : Bool :=
  (inLpddr pa && inLpddr (pa + n - 1) && s.populated 0 pa (pa + n)) ||
    (inVault pa && inVault (pa + n - 1) && s.populated 1 pa (pa + n)) ||
    (inLocalwin pa && inLocalwin (pa + n - 1) && pa / 0x8000 == (pa + n - 1) / 0x8000 && s.populated 2 pa (pa + n))

/-- BAR2_ACCESS (R367): performed at the physical address without the slices, or Unsupported Request, whose data is dropped; a read of a
poisoned sector brings no data (R266). A read gives its length in bytes as that of its list. (DESIGN CHOICE, log 29). -/
def execBar2Access (s : State) : Out :=
  match s.now with
  | some (.bar2Access write off bs) =>
    let pa := s.barBase.toNat + off
    let answer (a : Option (List Byte)) (s : State) : State := { s with barAnswers := s.barAnswers ++ [a] }
    if bs.isEmpty ∨ 2 ^ 36 < off + bs.length then ok s
    else if !s.barReaches pa bs.length then ok (answer none s)
    else if write then ok (s.writeFrame pa bs)
    else if s.rangePoisoned pa bs.length then ok (answer none s)
    else ok (answer (some (s.physBytes pa bs.length)) s)
  | _ => ok s

/-! ## Checkpoint (R376, R377) -/

/-- The part beside a port under the route table (R337, R377). -/
def State.neighbour (s : State) (port : Nat) : Option Nat :=
  let d := port / 2
  let n := (s.dims.toList.getD d 1)
  let wrap := s.wraps.toList.getD d false
  let o := coord s.partAddr d
  let to_ : Option Nat :=
    if n ≤ 1 then none
    else if port % 2 = 0 then (if o + 1 < n then some (o + 1) else if wrap then some 0 else none)
    else (if 0 < o then some (o - 1) else if wrap then some (n - 1) else none)
  to_.map fun t => setBits s.partAddr (9 - 3 * d) 3 t

/-- Target entry p of a descriptor, if its words obey R377; an unused one must be zero. -/
def State.ckptTarget (s : State) (desc : List Word) (p : Nat) : Option (Option CkptTarget) :=
  let w (i : Nat) : Nat := (desc.getD (16 + 8 * p + i) 0#32).toNat
  let base := w 2 + 2 ^ 32 * w 3
  let limit := w 4 + 2 ^ 32 * w 5
  if bits (desc.getD 1 0#32).toNat p 1 = 0 then
    (if (List.range 8).all fun i => w i == 0 then some none else none)
  else if w 6 != 0 || w 7 != 0 || w 1 != 0 || bits (w 0) 12 20 != 0 || s.neighbour p != some (w 0) || base % 64 != 0 || limit % 64 != 0
  then none
  else some (some { port := p, part := w 0, base := base, limit := limit })

/-- The targets of a descriptor in ascending port number, or none when it ends the checkpoint at once (R377). -/
def State.ckptTargets (s : State) (desc : List Word) : Option (List CkptTarget) :=
  let w (i : Nat) : Nat := (desc.getD i 0#32).toNat
  if 2 ≤ w 0 || 256 ≤ w 1 || w 1 == 0 || (List.range 12).any (fun i => w (4 + i) != 0) then none
  else ((List.range 8).mapM (s.ckptTarget desc)).map fun l => l.filterMap id

/-- The end of a checkpoint with a CKSTAT (R366, R376): the groups resume and dispatch restarts. -/
def State.endCkpt (st : BitVec 4) (s : State) : State :=
  { s with ckpt := none, device := { s.device with ck := false, ckstat := st } }.requestPass

/-- CKPT (R376, R377): the descriptor that the oldest read under way has brought from the host is examined, dispatch stops, and every group
is pre-empted. A request during a hand-over or a checkpoint waits (R372). (DESIGN CHOICE, log 26). (DEDUCED, log 27). (DESIGN CHOICE, log 46). -/
def execCkpt (s : State) : Out :=
  match s.now with
  | some (.ckpt desc) =>
    if s.device.ckptReads = [] then ok s
    else if s.ckpt.isSome ∨ s.firmware.role ≠ .standby then ok (s.repost (.ckpt desc)) else
    let s := s.modDevice fun d => { d with ckptReads := d.ckptReads.drop 1 }
    match s.ckptTargets desc with
    | none => ok (s.modDevice fun d => { d with ckstat := 3#4 })
    | some ts =>
      let w (i : Nat) : Nat := (desc.getD i 0#32).toNat
      let ck : Ckpt := { full := w 0 == 1, tag := BitVec.ofNat 64 (w 2 + 2 ^ 32 * w 3), ports := ts }
      let gs := (s.groups.filter fun e => e.2.state == .binding || e.2.state == .resident || e.2.state == .running).map (·.1)
      ok (State.postAll (gs.map .preempt)
        { s with ckpt := some ck, device := { s.device with ck := true, ckstat := 1#4, ckcount := s.device.ckcount + 1#16 } })
  | _ => ok s

/-- A record of the stream: kind, context, where, and its data (R377). -/
structure CkptRecord where
  kind  : Nat
  ctx   : Nat
  where_ : Nat
  data  : List Byte
  /-- The page whose K is cleared as it is sent. -/
  leaf  : Option Leaf
  deriving DecidableEq, Repr

/-- The bytes of a page that stand in the part, if any do: in its frame, in pieces, in a core or its group's image, or zeros where it is
DISCARDED. (DESIGN CHOICE, log 26). -/
def State.pageBytes (s : State) (ctx : Nat) (l : Leaf) : Option (List Byte) :=
  if l.state = 1 then some (List.replicate l.size 0#8)
  else if l.state = 5 ∨ 3 ≤ l.kind then none
  else if l.state = 2 then
    (s.victimOf ctx l.base).map fun v => v.places.flatMap fun p => (s.coreAt p.1).lm.bytes (512 * p.2) 512
  else if l.kind = 2 then
    let (k, a) := windowCore l.frame
    let c : Core := match s.savedGroup k ctx with
      | some g => SMap.get {} (s.groupAt g).image k
      | none => s.coreAt k
    some (c.lm.bytes a l.size)
  else some (s.phys.bytes l.frame l.size)

/-- The images of a context in ascending die and cluster index, mirror and spilled (R286, R291, R377). -/
def State.imageRecords (s : State) (ctx : Nat) : List CkptRecord :=
  let c := s.contextAt ctx
  let spilled := s.spilledOf ctx
  let place (k : Nat) : Nat := c.save + ((c.area.find? fun p => p.image && p.id == k).map fun p => p.off).getD 0
  (((s.savedOf ctx).flatMap fun g => (s.groupAt g).banks.map (·.1)).dedup.insertionSort (· ≤ ·)).map fun k =>
    let at_ := k / 2048 * 2 ^ 24 + k % 2048
    if spilled.contains k then ⟨3, ctx, at_, s.phys.bytes (place k) 0x90000, none⟩
    else ⟨2, ctx, at_, s.imageBytes ctx k, none⟩

/-- The records of a context: its pages, then its images (R377). -/
def State.ckptRecords (s : State) (full : Bool) (ctx : Nat) : List CkptRecord :=
  let pages := ((s.leaves ctx).filter fun l => full || bits l.raw 20 1 == 1).filterMap fun l =>
    (s.pageBytes ctx l).map fun bs => ({ kind := 1, ctx := ctx, where_ := l.base, data := bs, leaf := some l } : CkptRecord)
  pages ++ s.imageRecords ctx

/-- Every slice writes back its dirty lines (R376). -/
def State.flushLines (s : State) : State :=
  let s := (s.slices.flatMap fun e => e.2.lines).foldl (fun s l => s.writeBack l) s
  { s with slices := s.slices.map fun e => (e.1, { e.2 with lines := e.2.lines.map fun l => { l with dirty := 0#4 } }) }

/-- The header of a record (R377). -/
def CkptRecord.header (r : CkptRecord) (count : Nat) (tag : BitVec 64) : List Byte :=
  leBytes 4 r.kind ++ leBytes 4 r.ctx ++ leBytes 8 r.where_ ++ leBytes 8 r.data.length ++ leBytes 8 tag.toNat ++ leBytes 8 count ++
    List.replicate 24 0#8

/-- Whether a fabric port carries packets: the feature is accepted and the port is in service (R338, R339). -/
def State.portServes (s : State) (port : Nat) : Bool := s.feature 3 && !s.portsDown.contains port

/-- Record j sent to the j-th used port, cyclically, on its channel 60; none when it would pass the target's limit or its port carries none. -/
def State.sendRecord (ck : Ckpt) (j : Nat) (r : CkptRecord) (s : State) : Option (Ckpt × State) :=
  match ck.ports[j % ck.ports.length]? with
  | none => none
  | some t =>
    let r := if r.kind = 4 then { r with where_ := t.written + 64 } else r
    let bs := r.header s.device.ckcount.toNat ck.tag ++ r.data
    if t.limit < t.written + bs.length ∨ s.portServes t.port = false then none else
    let s := s.toPart t.part (.record t.port 60 (t.base + t.written) bs)
    let s := match r.leaf with
      | some l => s.writeLeaf l (setBits l.raw 20 1 0)
      | none => s
    let t' : CkptTarget := { t with written := t.written + bs.length }
    some ({ ck with ports := ck.ports.set (j % ck.ports.length) t' }, s)

/-- The stream: every record in order, after which the acknowledgements of the end records are awaited, or the checkpoint ends with
CKSTAT 3 at the first record that cannot be sent (R376, R377). -/
def State.stream : Nat → List CkptRecord → Ckpt → State → State
  | _, [], ck, s => { s with ckpt := some { ck with streamed := true } }
  | j, r :: rs, ck, s =>
    match s.sendRecord ck j r with
    | some (ck, s) => State.stream (j + 1) rs ck s
    | none => s.endCkpt 3#4

/-- Whether every hardware queue slot is at a packet boundary (R305). -/
def State.atBoundaries (s : State) : Bool := s.hwSlots.all fun e => !e.2.v || !s.midPacket e.2.queue

/-- Whether a checkpoint may stream: it has not streamed yet, dispatch stands at packet boundaries, and no group is between REQUESTED and SAVED
(R376). -/
def State.ckptReady (s : State) : Bool :=
  s.ckpt.any (!·.streamed) && s.atBoundaries && s.groups.all fun e => !e.2.state.inUse

/-- CHECKPOINT_COMPLETE (R376, R377): once every group is SAVED the slices write back and the records are streamed, one end record to each port; when every target has
acknowledged its end record, which is an outside input, the checkpoint ends with 2; a fault of a port or a target ends it with 3.
(DESIGN CHOICE, log 26). -/
def execCheckpointComplete (s : State) : Out :=
  match s.now, s.ckpt with
  | some (.checkpointComplete good), some ck =>
    if !good then ok (s.endCkpt 3#4)
    else if ck.streamed then ok (s.endCkpt 2#4)
    else if !s.ckptReady then ok s
    else
      let ctxs := (s.contexts.filter fun e => e.2.state != .free && e.2.state != .terminated).map (·.1)
      let s := s.flushLines
      ok (State.stream 0 (ctxs.flatMap (s.ckptRecords ck.full) ++ ck.ports.map fun _ => ⟨4, 0, 0, [], none⟩) ck s)
  | _, _ => ok s

/-! ## Live update and attestation (R368, R372, R373) -/

/-- The layouts of the images of SAVED and SPILLED contexts (R275, R372). -/
def State.savedLayouts (s : State) : List Nat :=
  (s.contexts.filter fun e => e.2.state == .saved || e.2.state == .spilled).map fun e => e.2.layout.toNat

/-- The state with the firmware complexes changed. -/
def State.modFirmware (f : Firmware → Firmware) (s : State) : State := { s with firmware := f s.firmware }

/-- The bytes of the measurements of R373 that an answer signs: how they are laid out is SPDM's. (DESIGN CHOICE, log 57). -/
def State.measureBytes (s : State) : List Byte :=
  let f := s.firmware
  leBytes 64 f.active.toNat ++ leBytes 64 f.prior.toNat ++ leBytes 8 f.version ++ leBytes 8 f.seq.toNat ++ leBytes 16 s.feats.toNat

/-- A measurement answer of the active complex, or of the standby that serves for it, signed by it (R368, R373). -/
def State.measures (s : State) : SpdmAnswer :=
  let f := s.firmware
  let second := f.second != f.standbyServes
  ⟨f.active, f.prior, f.version, f.seq, s.feats, second, Config.mldsaSign second s.measureBytes⟩

/-- The update ends: the role is STANDBY again, the held measurement requests are answered, and passes go on (R372, R373). -/
def State.endUpdate (st : UpdateStatus) (s : State) : State :=
  (s.modFirmware fun f =>
    { f with role := .standby, image := none, update := st, heldSpdm := 0,
             spdmOut := f.spdmOut ++ List.replicate f.heldSpdm s.measures }).requestPass

/-- IMAGE_RECEIVED (R372). It waits while a checkpoint runs. (DEDUCED, log 27). -/
def execImageReceived (s : State) : Out :=
  match s.now with
  | some (.imageReceived im) =>
    if s.firmware.role ≠ .standby then ok s
    else if !s.feature 11 then ok (s.modFirmware fun f => { f with update := .refused })
    else if s.ckpt.isSome then ok (s.repost (.imageReceived im))
    else ok (s.modFirmware fun f => { f with role := .loading, image := some im })
  | _ => ok s

/-- IMAGE_BOOTED (R372): the signature, then the state-table version, then the layouts. (DEDUCED, log 27). -/
def execImageBooted (s : State) : Out :=
  match s.firmware.role, s.firmware.image with
  | .loading, some im =>
    if !im.sigOk then ok (s.endUpdate .signature)
    else if !im.tables.contains s.firmware.version then ok (s.endUpdate .stateVersion)
    else if !s.savedLayouts.all im.layouts.contains then ok (s.endUpdate .handoverLayout)
    else ok (s.modFirmware fun f => { f with role := .importing })
  | _, _ => ok s

/-- IMPORT_TIMEOUT (R372). -/
def execImportTimeout (s : State) : Out := if s.firmware.role = .importing then ok (s.endUpdate .timeout) else ok s

/-- IMPORT_COMPLETE (R372): the layouts are checked again, and the new complex takes over. -/
def execImportComplete (s : State) : Out :=
  match s.firmware.role, s.firmware.image with
  | .importing, some im =>
    if !s.atBoundaries then ok (s.repost .importComplete)
    else if !im.tables.contains s.firmware.version ∨ !s.savedLayouts.all im.layouts.contains then ok (s.endUpdate .handoverLayout)
    else
      let s := s.modFirmware fun f => 
        { f with active := im.digest, prior := f.active, seq := f.seq + 1#64, standbyServes := false, second := !f.second }
      ok (State.endUpdate .done { s with records := { s.records with handovers := satCount s.records.handovers } })
  | _, _ => ok s

/-- SPDM_REQUEST (R373): answered, or held from the start of IMPORTING until takeover. -/
def execSpdmRequest (s : State) : Out :=
  ok (s.modFirmware fun f =>
    if f.role = .importing then { f with heldSpdm := f.heldSpdm + 1 } else { f with spdmOut := f.spdmOut ++ [s.measures] })

/-- The records as they stand: with the counts by cause (R282). -/
def State.lifetime (s : State) : Records := { s.records with causes := s.counters }

/-- PLDM_REQUEST (R368): served by the active complex, or by the standby when that has stopped answering, with the counters of R375 and the
last readings of the sensors, which are outside inputs. (DESIGN CHOICE, log 32). -/
def execPldmRequest (s : State) : Out :=
  match s.now with
  | some (.pldmRequest r) =>
    ok (s.modFirmware fun f => { f with pldmOut := f.pldmOut ++ [(r, f.standbyServes, s.lifetime, f.sensors)] })
  | some (.sensed rails temps) =>
    let put (m : SMap Nat) (es : List (Nat × Nat)) : SMap Nat := es.foldl (fun m e => m.put e.1 e.2) m
    ok (s.modFirmware fun f => { f with sensors := ⟨put f.sensors.rails rails, put f.sensors.temps temps⟩ })
  | _ => ok s

/-- ACTIVE_COMPLEX_STOPS_ANSWERING (R368). -/
def execActiveComplexStopsAnswering (s : State) : Out := ok (s.modFirmware fun f => { f with standbyServes := true })

/-! ## Field records (R375) -/

/-- The bin of a histogram that a measure of a die or a rail falls in, of 16 bins each (R375). -/
def histogramKey (e : Nat × Nat) : Nat := 16 * e.1 + min 15 e.2

/-- RECORD_WRITE (R375): ten more minutes of operation, and the records go to flash; a minute's measures of the dies' temperatures and of the
rails, by bin, go to the histograms. (DESIGN CHOICE, log 32). -/
def execRecordWrite (s : State) : Out :=
  match s.now with
  | some (.minutePassed heat supply) =>
    let tally (m : SMap Nat) (es : List (Nat × Nat)) : SMap Nat := es.foldl (fun m e => m.tally (histogramKey e)) m
    ok { s with records := { s.records with heat := tally s.records.heat heat, supply := tally s.records.supply supply } }
  | _ =>
    let r := { s.lifetime with tenMinutes := satCount s.records.tenMinutes }
    ok { s with records := r, flash := r }

/-- The part without power: what flash keeps, its place among its neighbours, and power-on to come (R337, R375). (DESIGN CHOICE, log 30). -/
def State.unpowered (s : State) : State :=
  { State.reset with flash := s.flash, records := s.flash, counters := s.flash.causes, pending := s.pending.filter (· == .powerOn),
                     partAddr := s.partAddr, dims := s.dims, wraps := s.wraps, ringPeers := s.ringPeers, keys := s.keys, freeCount := s.freeCount,
                     firmware := { active := s.firmware.active, prior := s.firmware.prior, version := s.firmware.version,
                                   seq := s.firmware.seq, second := s.firmware.second, revoked := s.firmware.revoked } }

/-- POWER_OFF (R375): the records are written, and power goes. -/
def execPowerOff (s : State) : Out := ok (State.unpowered { s with flash := s.lifetime })

/-- ABRUPT_LOSS_OF_POWER (R375): the counts since the last write are lost. -/
def execAbruptLossOfPower (s : State) : Out := ok s.unpowered

/-! ## Power (R378, R379) -/

/-- A die's clock lowered by 0.1 GHz, to 0.8 GHz at least. -/
def State.lowerClock (die : Nat) (s : State) : State :=
  if 8 < s.clockOf die then { s with clocks := s.clocks.put die (s.clockOf die - 1) } else s

/-- The groups on a die that can be pre-empted, lowest queue priority first. -/
def State.victimGroups (s : State) (die : Nat) : List Nat :=
  let on := s.groups.filter fun e => e.2.state == .running && (e.2.cores.any fun k => k / 32768 == die) &&
    s.canPreempt e.1 (s.comingEntries e.2.ctx e.1)
  (on.insertionSort fun a b => (s.queueAt a.2.queue).prio.toNat ≤ (s.queueAt b.2.queue).prio.toNat).map (·.1)

/-- The action of R379 on a die: the clock first; when the excess persists, the group of lowest queue priority that can be saved is
pre-empted, which is counted (R291). -/
def State.relieve (c : Cause) (die : Nat) (persists : Bool) (s : State) : State :=
  if !persists then s.lowerClock die
  else match (s.victimGroups die).head? with
    | some g => (s.count c).post (.preempt g)
    | none => s.lowerClock die

/-- POWER_LIMIT (R378, R379): rails 0 to 7 are those of the compute dies. -/
def execPowerLimit (s : State) : Out :=
  match s.now with
  | some (.powerLimit rail persists) => if rail < 8 then ok (s.relieve .powerLimit rail persists) else ok s
  | _ => ok s

/-- THERMAL_LIMIT (R379). -/
def execThermalLimit (s : State) : Out :=
  match s.now with
  | some (.thermalLimit die persists) => ok (s.relieve .thermalLimit die persists)
  | _ => ok s

/-- DROOP_STOP (R375, R379): issue on the die stops for at most 1 µs, which is counted. -/
def execDroopStop (s : State) : Out :=
  match s.now with
  | some (.droopStop die) =>
    let r := { s.records with droops := s.records.droops.tally die }
    ok { s.count .droopStop with records := r }
  | _ => ok s

end Sys2Proof.Machine
end

