-- ==== Sys2Proof/Machine/Errors.lean ====
section
/-! DEFINITION. Storage errors: the codes of LPDDR memory and what comes of a granule's errors, soft errors of the part's own structures, and
the scrubber (R263 to R266, R281, R282, R375). -/

namespace Sys2Proof.Machine

/-! ## The codes (R264) -/

/-- Multiplication by α in GF(2^8), α^8 being α^4 + α^3 + α^2 + 1 (R264). -/
def gfDouble (a : Byte) : Byte := (a <<< 1) ^^^ (if a.getLsbD 7 then 0x1D#8 else 0#8)

/-- The product of a and the lowest n coefficients of b. -/
def gfMulLow : Nat → Byte → Byte → Byte
  | 0, _, _ => 0#8
  | n + 1, a, b => (if b.getLsbD 0 then a else 0#8) ^^^ gfMulLow n (gfDouble a) (b >>> 1)

/-- The product in GF(2^8) (R264). -/
def gfMul (a b : Byte) : Byte := gfMulLow 8 a b

/-- α^n. -/
def gfAlpha : Nat → Byte
  | 0 => 1#8
  | n + 1 => gfDouble (gfAlpha n)

/-- The generator with roots α^0 to α^(n − 1) without its leading 1, highest power first (R264). -/
def rsGenerator : Nat → List Byte
  | 0 => []
  | n + 1 =>
    let g := rsGenerator n
    List.zipWith (fun hi lo => hi ^^^ gfMul (gfAlpha n) lo) (g ++ [0#8]) (1#8 :: g)

/-- The remainder of a polynomial times x^n by a generator of degree n: the check symbols of the data (R264). -/
def rsRemainder (g : List Byte) (data : List Byte) : List Byte :=
  data.foldl (fun r d =>
    let f := d ^^^ r.headD 0#8
    List.zipWith (fun a c => a ^^^ gfMul f c) (r.tail ++ [0#8]) g) (List.replicate g.length 0#8)

/-- The codeword of data: the data in order, and the check symbols after it (R264). Its first symbol stands for the highest power. (DESIGN CHOICE,
log 62). -/
def rsCodeword (checks : Nat) (data : List Byte) : List Byte := data ++ rsRemainder (rsGenerator checks) data

/-- A word at a power of α. -/
def syndrome (word : List Byte) (j : Nat) : Byte := word.foldl (fun acc c => gfMul acc (gfAlpha j) ^^^ c) 0#8

/-- Whether a word is in a code of that many check symbols. -/
def inCode (checks : Nat) (word : List Byte) : Bool := (List.range checks).all fun j => syndrome word j == 0#8

/-- The data bytes and check symbols of a codeword of a granule code; a G256 granule has two (R264). -/
def codeShape (g : Nat) : Nat × Nat :=
  match g with
  | 0 => (32, 4)
  | 1 => (64, 8)
  | _ => (128, 16)

/-- How many symbol errors the code of a granule corrects (R264). -/
def corrects (ecc32c : Bool) (g : Nat) : Nat := if g = 0 then (if ecc32c then 2 else 1) else if g = 1 then 4 else 8

/-- Up to how many symbol errors it promises to detect what it does not correct (R264). -/
def detects (ecc32c : Bool) (g : Nat) : Nat := if g = 0 ∧ ecc32c = false then 3 else 0

/-- A symbol error: the sub-channel of the granule in placement order, the DQ, the octet of beats, and the bits in error. -/
abbrev SymbolError := Nat × Nat × Nat × Byte

/-- The position of a symbol in its codeword: a burst of a sub-channel carries 36, symbol 3q + b those of octet b of DQ q (R264). -/
def SymbolError.position (e : SymbolError) : Nat := 36 * (e.1 % 4) + 3 * e.2.1 + e.2.2.1

/-- The errors of codeword w of a granule, symbol by symbol. -/
def errorWord (n w : Nat) (es : List SymbolError) : List Byte :=
  (List.range n).map fun p =>
    (es.filter fun e => e.1 / 4 == w && SymbolError.position e == p).foldl (fun a e => a ^^^ e.2.2.2) 0#8

/-- What comes of a codeword read with errors (R264). -/
inductive EccVerdict where
  | inCode | corrected | uncorrectable | unpromised
  deriving DecidableEq, Repr

/-- The verdict on the errors of a codeword: those that make it another codeword, which is to say a codeword themselves, are not seen, and
beyond what the code promises nothing is said (R264). (DESIGN CHOICE, log 62). -/
def eccVerdict (ecc32c : Bool) (g : Nat) (err : List Byte) : EccVerdict :=
  let n := err.countP (· != 0#8)
  if inCode (codeShape g).2 err then .inCode
  else if n ≤ corrects ecc32c g then .corrected
  else if n ≤ detects ecc32c g then .uncorrectable
  else .unpromised

/-! ## Errors of a granule (R265, R266, R375) -/

/-- Free bytes. -/
def State.freeData (n : Nat) (s : State) : List Byte × State :=
  ((List.range n).map fun i => (Config.freeWord (s.freeCount + i)).setWidth 8, { s with freeCount := s.freeCount + n })

/-- The channels on which a codeword has symbols in error. -/
def errorChannels (g pa w : Nat) (es : List SymbolError) : List Nat :=
  let places := placement g (pa + 128 * w)
  ((es.filter fun e => e.1 / 4 == w && e.2.2.2 != 0#8).filterMap fun e => (places[e.1 % 4]?).map (·.1)).dedup

/-- One more corrected error at each of some channels, for a granule size (R266, R375). -/
def State.countCorrected (g : Nat) (chans : List Nat) (s : State) : State :=
  { s with records := { s.records with corrected := chans.foldl (fun m c => m.tally (4 * c + g)) s.records.corrected } }

/-- A granule found uncorrectable: counted at its channels, and every sector that it covers is poisoned (R266, R375). -/
def State.uncorrectable (g pa : Nat) (s : State) : State :=
  let chans := ((placement g pa).map (·.1)).dedup
  let s := { s with records := { s.records with uncorrectable := chans.foldl (fun m c => m.tally c) s.records.uncorrectable } }
  (granuleSectors g pa).foldl (fun s a => s.markFrame a true) s

/-- A codeword of a granule read with errors (R264, R266); what happens beyond the code's promise is open: the granule is uncorrectable, or its
bytes come out otherwise. (DESIGN CHOICE, log 62). -/
def State.codewordError (g pa : Nat) (es : List SymbolError) (s : State) (w : Nat) : State :=
  let (k, c) := codeShape g
  let at_ := pa + 128 * w
  let err := errorWord (k + c) w es
  let received := List.zipWith (· ^^^ ·) (rsCodeword c (s.phys.bytes at_ k)) err
  match eccVerdict s.ecc32c g err with
  | .inCode => s.setPhysBytes at_ (received.take k)
  | .corrected => s.countCorrected g (errorChannels g pa w es)
  | .uncorrectable => s.uncorrectable g pa
  | .unpromised =>
    let (b, s) := s.flip
    if b then s.uncorrectable g pa
    else
      let (bs, s) := s.freeData k
      (s.countCorrected g (errorChannels g pa w es)).setPhysBytes at_ bs

/-- The errors of the granule of an address, as its page sizes it (R263 to R266); a frame of no page has G32 granules. (DESIGN CHOICE,
log 62). -/
def State.granuleError (pa : Nat) (es : List SymbolError) (s : State) : State :=
  if !inLpddr pa ∨ !s.populated 0 pa (pa + 1) then s else
  let g := ((s.pageOfFrame pa).map fun e => e.2.granule).getD 0
  let at_ := pa / granuleBytes g * granuleBytes g
  (List.range (if g = 3 then 2 else 1)).foldl (State.codewordError g at_ es) s

/-! ## Soft errors (R281, R282, R375) -/

/-- The storage errors that trap at an instruction (R282: S). -/
def trapErrors : List Cause :=
  [.codeEcc, .xregEcc, .vregEcc, .sregEcc, .localEcc, .feEcc, .tmapRecordEcc, .loopbackEcc, .vunitResidue, .tokenEcc,
    .cqEcc, .wpEcc, .frameEcc, .barrierEcc, .dbarEcc]

/-- The storage errors of a core that escalate (R282: E). -/
def coreErrors : List Cause :=
  [.pipeEcc, .mailboxEcc, .bankPowerFail, .feWakeLost, .leaseEcc, .genEcc, .stealLost, .frameEcc, .messageEcc, .handlerTableEcc, .dequeEcc]

/-- The storage errors that a token carries (R282: C). -/
def tokenErrors : List Cause := [.tileEcc, .prismEcc, .mcfgEcc, .landingEcc, .sliceEcc]

/-- The storage errors that a transfer's chunk carries (R282: C). -/
def chunkErrors : List Cause := [.sliceEcc, .engineEcc, .gatherEcc, .scatterEcc, .indexEcc, .barrierEcc]

/-- The storage errors of a saved image or of its entries (R282, R289). -/
def imageErrors : List Cause := [.mirrorEcc, .spillEcc, .saveLayout, .resumeRecord]

/-- The storage errors that are counted, and reported to the context that they concern (R282: F). -/
def counterErrors : List Cause :=
  [.tcacheEcc, .pinEcc, .sketchEcc, .slotTableEcc, .pctrEcc, .holdPieceEcc, .regranuleFail, .forwardTableEcc, .channelPoolEcc]

/-- tval of a trap by a storage error: the byte offset, 0, or what the error names (R282). -/
def errorTval (c : Cause) (pc v : Word) : Word :=
  match c with
  | .codeEcc | .vunitResidue => pc
  | .tokenEcc | .cqEcc => 0#32
  | _ => v

/-- tval of an escalation by a storage error of a core: its coreid, its cluster, or what the error names (R282). -/
def coreTval (c : Cause) (k : Nat) (v : Word) : Word :=
  match c with
  | .pipeEcc | .bankPowerFail | .genEcc | .dequeEcc => BitVec.ofNat 32 k
  | .leaseEcc => BitVec.ofNat 32 (clusterOf k % 2048)
  | _ => v

/-- An error met by the instruction that a context executes: it traps (R281, R282); while registers are pending the instruction waits, and
meets it again. -/
def State.trapError (i : Issuer) (c : Cause) (v : Word) (s : State) : State :=
  if !trapErrors.contains c ∨ !s.groupRuns i.core then s
  else if i.ctx = .handler then
    let h := (s.coreAt i.core).hd
    if h.running then s.trapAt i ⟨c, false, errorTval c h.pc v⟩ else s
  else
    let t := s.taskAt i
    if t.run ≠ .running then s
    else if t.anyPending then s.repost (.softError (.trap i c v))
    else s.trapAt i ⟨c, false, errorTval c t.pc v⟩

/-- An error of a core's structures that escalates (R280, R282). -/
def State.coreError (k : Nat) (c : Cause) (v : Word) (s : State) : State :=
  if coreErrors.contains c ∧ (s.coreAt k).group ≠ 0 then s.escalateCore k c (coreTval c k v) else s

/-- An error met by the command at the head of a bank's stream: it completes with the error's cause, or, where it exceeds its bound,
escalates (R162, R282). -/
def State.commandError (k : Nat) (b : Bool) (c : Cause) (v : Word) (s : State) : State :=
  match ((s.clusterAt k).bank b).stream with
  | [] => s
  | cmd :: _ =>
    if c = .arrayStuck then
      s.escalateCore cmd.src.core c (cmd.token (some (c, none))).tval
    else if tokenErrors.contains c ∧ (c ≠ .landingEcc ∨ ((s.clusterAt k).bank b).waiting) then
      (s.modCluster k (Cluster.modBank b (Bank.endStep cmd))).endCmd k b cmd
        { fault := some (c, if c = .sliceEcc then some v else none) }
    else s

/-- An error met by a chunk of a transfer, which it faults; the element of a failed addition is poisoned (R201, R282). -/
def State.transferError (core slot chunk : Nat) (c : Cause) (va : Nat) (s : State) : State :=
  let t := s.slotT core slot
  if !chunkErrors.contains c ∨ t.state ≠ .active ∨ chunk ∈ t.done ∨ t.chunks ≤ chunk then s else
  let s := match c, s.walk (s.coreAt core).ctxid va with
    | .scatterEcc, .leaf l => if l.kind = 0 ∧ l.state = 0 then s.markFrame (l.pa va) true else s
    | _, _ => s
  s.chunkFails core slot chunk c (if c = .sliceEcc then BitVec.ofNat 32 va else 0#32)

/-- A message for a remote operation of an issuer, by the number that it carries. -/
def remoteOf (i : Issuer) (n : Nat) : Event → Bool
  | .remoteLoad m | .remoteStore m => m.src == i && m.seq == n
  | .feLoad m | .feStore m => m.src == i && m.wait == n
  | .localAtomic m => m.src == i && m.seq == n && m.old.isNone
  | _ => false

/-- The error of local memory that a remote operation meets at its owner, which answers it: at the instruction that waits for a load's
register, asynchronous for a store (R282: REMOTE_LOCAL_ECC). -/
def State.remoteError (i : Issuer) (n : Nat) (s : State) : State :=
  let lost (d : Dest) (acq atomic : Bool) (off dst g : Nat) (s : State) : State :=
    s.answer g dst i.core (.loadReply ⟨i, d, 0#256, acq, atomic, some ⟨.remoteLocalEcc, false, BitVec.ofNat 32 off⟩, some (dst, g)⟩)
  match s.pending.find? (remoteOf i n) with
  | none => s
  | some e =>
    let s := { s with pending := s.pending.erase e }
    match e with
    | .remoteLoad m => s.atOwner 1 i m.group m.dst e (.load (.x m.reg) false false) (lost (.x m.reg) false false m.off m.dst m.group)
    | .remoteStore m =>
      s.atOwner 2 i m.group m.dst e .store fun s =>
        s.postTo m.group (.remoteNack ⟨i, .store, .remoteLocalEcc, BitVec.ofNat 32 m.off, m.group⟩)
    | .feLoad m => s.atOwner 3 i m.group m.dst e (.load (.x m.reg) true false) (State.feFailed .remoteLocalEcc m)
    | .feStore m => s.atOwner 4 i m.group m.dst e .store (State.feFailed .remoteLocalEcc m)
    | .localAtomic m => s.atOwner 5 i m.group m.dst e (.load (.x m.reg) m.acq true) (lost (.x m.reg) m.acq true m.off m.dst m.group)
    | _ => s

/-- A park table loses an operation, which ends with the error (R282: FE_PARK_ECC). -/
def State.parkError (k wait : Nat) (s : State) : State :=
  match (s.coreAt k).parkedFe.find? fun m => m.wait == wait with
  | some m => (s.withdrawFe k wait).feFailed .feParkEcc m
  | none => s

/-- A saved image, mirror or spilled, that will fail its check (R289). -/
def State.imageError (g : Nat) (c : Cause) (v : Word) (s : State) : State :=
  let gr := s.groupAt g
  if imageErrors.contains c ∧ gr.holdsImage ∧ (c = .spillEcc → gr.spilled) ∧ (c = .mirrorEcc → !gr.spilled) then
    s.modGroup g fun gr => { gr with flaw := gr.flaw <|> some (c, v) }
  else s

/-- What an error that is only counted takes with it: a translation, a pinned line, a sketch row, a slot, a counter, or the soundness of a
victim piece (R282). -/
def State.dropStructure (c : Cause) (unit index : Nat) (s : State) : State :=
  match c with
  | .tcacheEcc => s.modSlice unit fun sl => { sl with counts := sl.counts.eraseIdx index }
  | .pinEcc =>
    match (s.sliceAt unit).pins[index]? with
    | some p =>
      let s := match (s.sliceAt unit).lineAt p.ctx p.line with
        | some l => s.dropLine unit l
        | none => s
      s.modSlice unit fun sl => { sl with pins := sl.pins.eraseIdx index }
    | none => s
  | .sketchEcc => s.modSlice unit fun sl => { sl with sketch := sl.sketch.filter fun e => e.1 / 1024 != index }
  | .slotTableEcc => s.modCluster unit fun cl => { cl with pslot := cl.pslot.setIfInBounds index 0#2 }
  | .pctrEcc =>
    s.modTask ⟨unit, if index / 2 = 0 then .tc0 else .tc1⟩ fun t =>
      if index % 2 = 0 then { t with pnz := 0#32 } else { t with pcyc := 0#32 }
  | .holdPieceEcc =>
    { s with victims := s.victims.map fun v =>
        if v.ctx = unit ∧ v.recalling ∧ v.va ≤ 32 * index ∧ 32 * index < v.va + 512 * v.places.length then
          { v with poison := index :: v.poison.filter (· != index) }
        else v }
  | _ => s

/-- The context that a counted error concerns, with the core and the tval that the table gives; none for an error of no context's structure
(R282). -/
def State.errorContext (s : State) (c : Cause) (unit index : Nat) : Option (Nat × Nat × Nat) :=
  match c with
  | .pctrEcc => if (s.coreAt unit).group = 0 then none else some ((s.coreAt unit).ctxid, unit, unit)
  | .holdPieceEcc => some (unit, 0, 32 * index)
  | .regranuleFail => some (unit, 0, index)
  | _ => none

/-- An error that is counted, and reported to the context that it concerns. -/
def State.countedError (c : Cause) (unit index : Nat) (s : State) : State :=
  let t := s.dropStructure c unit index
  match s.errorContext c unit index with
  | some (ctx, k, v) => t.report c (BitVec.ofNat 32 v) ctx (t.coreAt k).group k
  | none => t.count c

/-- A storage error (R281, R282): a corrected one is counted by structure and die, and changes nothing else. (DESIGN CHOICE, log 49). -/
def State.storageError (e : SoftError) (s : State) : State :=
  match e with
  | .corrected k die => { s with records := { s.records with soft := s.records.soft.tally (8 * k + die) } }
  | .trap i c v => s.trapError i c v
  | .core k c v => s.coreError k c v
  | .command k b c v => s.commandError k b c v
  | .transfer core slot chunk c va => s.transferError core slot chunk c va
  | .remote i n => s.remoteError i n
  | .park k wait => s.parkError k wait
  | .landing id => s.failLanding id .claspEcc
  | .image g c v => s.imageError g c v
  | .counter c unit index => if counterErrors.contains c then s.countedError c unit index else s

/-- SCRUBBER: an error in an unbound core is counted (R282); the errors of the part's storage and of LPDDR, which are outside inputs, show
(R264, R266, R281). (DESIGN CHOICE, logs 32 and 49). -/
def execScrubber (s : State) : Out :=
  match s.now with
  | some (.scrubber k) =>
    if (s.coreAt k).power = .off ∨ (s.coreAt k).power = .holding then ok (s.count .localScrub) else ok s
  | some (.softError e) => ok (s.storageError e)
  | some (.memoryError pa es) => ok (s.granuleError pa es)
  | _ => ok s

end Sys2Proof.Machine
end

