-- ==== Sys2Proof/Machine/Scalar.lean ====
section
/-! DEFINITION. The scalar instructions: register-register and immediate arithmetic, multiply and divide, bits, branches,
jumps, hardware loops, and their 16-bit forms (R27, R62, R63, R78 to R86). -/

namespace Sys2Proof.Machine

/-! ## The arithmetic -/

/-- 1 for true and 0 for false, as a word. -/
def boolWord (b : Bool) : Word := if b then 1#32 else 0#32

/-- The shift amount b[4:0] (R78). -/
def shamt (b : Word) : Nat := b.toNat % 32

/-- ROL (R78). -/
def rol (a b : Word) : Word := a.rotateLeft (shamt b)

/-- The signed lesser (R78). -/
def smin (a b : Word) : Word := if a.toInt ≤ b.toInt then a else b
/-- The signed greater (R78). -/
def smax (a b : Word) : Word := if a.toInt ≤ b.toInt then b else a
/-- The unsigned lesser (R78). -/
def umin (a b : Word) : Word := if a.toNat ≤ b.toNat then a else b
/-- The unsigned greater (R78). -/
def umax (a b : Word) : Word := if a.toNat ≤ b.toNat then b else a

/-- DIV: the quotient towards zero; −1 for divisor 0, and −2^31 ÷ −1 wraps to −2^31 (R27). -/
def divS (a b : Word) : Word := if b = 0#32 then 0xFFFFFFFF#32 else BitVec.ofInt 32 (a.toInt.tdiv b.toInt)
/-- REM: the remainder with the dividend's sign; the dividend for divisor 0 (R27). -/
def remS (a b : Word) : Word := if b = 0#32 then a else BitVec.ofInt 32 (a.toInt.tmod b.toInt)
/-- DIVN (R27). -/
def divU (a b : Word) : Word := if b = 0#32 then 0xFFFFFFFF#32 else a / b
/-- REMN (R27). -/
def remU (a b : Word) : Word := if b = 0#32 then a else a % b

/-- MULH: bits [63:32] of the signed product (R80). -/
def mulHigh (a b : Word) : Word := ((a.signExtend 64 * b.signExtend 64) >>> 32).setWidth 32
/-- MULHN: bits [63:32] of the unsigned product (R80). -/
def mulHighU (a b : Word) : Word := ((a.setWidth 64 * b.setWidth 64) >>> 32).setWidth 32

/-- Leading zero bits among the low n bits (R81). -/
def leadingZeros : Nat → Word → Nat
  | 0, _ => 0
  | n + 1, a => if a.getLsbD n then 0 else 1 + leadingZeros n a
/-- Trailing zero bits among n bits from bit i (R81). -/
def trailingZeros : Nat → Nat → Word → Nat
  | 0, _, _ => 0
  | n + 1, i, a => if a.getLsbD i then 0 else 1 + trailingZeros n (i + 1) a
/-- The number of set bits among the low n bits. -/
def popCount : Nat → Nat → Nat
  | 0, _ => 0
  | n + 1, a => a % 2 + popCount n (a / 2)
/-- BREV (R81). -/
def bitReverse (a : Word) : Word := a.reverse
/-- BSWAP (R81). -/
def byteSwap (a : Word) : Word :=
  a.extractLsb' 0 8 ++ a.extractLsb' 8 8 ++ a.extractLsb' 16 8 ++ a.extractLsb' 24 8

/-! ## Shared operations -/

/-- An instruction of n bytes that writes a function of two registers to a third. -/
def opRR (n : Word) (d a b : BitVec 4) (f : Word → Word → Word) (s : State) : Out :=
  ok (s.withRegs [a, b, d] [] fun s => (s.setX d (f (s.x a) (s.x b))).retire n)

/-- An instruction of n bytes that writes a function of one register to another. -/
def opR (n : Word) (d a : BitVec 4) (f : Word → Word) (s : State) : Out :=
  ok (s.withRegs [a, d] [] fun s => (s.setX d (f (s.x a))).retire n)

/-- An instruction of n bytes that writes a constant to a register. -/
def opConst (n : Word) (d : BitVec 4) (w : Word) (s : State) : Out :=
  ok (s.withRegs [d] [] fun s => (s.setX d w).retire n)

/-- A branch of n bytes to a relative target when its condition holds (R82). -/
def branch {m : Nat} (n : Word) (a b : BitVec 4) (off : BitVec m) (p : Word → Word → Bool) (s : State) : Out :=
  ok (s.withRegs [a, b] [] fun s =>
    if p (s.x a) (s.x b) then s.jump (relTarget s.pc off) else s.retire n)

/-- JAL of n bytes (R83). -/
def jumpLink {m : Nat} (n : Word) (d : BitVec 4) (off : BitVec m) (s : State) : Out :=
  ok (s.withRegs [d] [] fun s => (s.setX d (s.pc + n)).jump (relTarget s.pc off))

/-- JALR of n bytes: the target is formed before the link is written (R83). -/
def jumpReg (n : Word) (d a : BitVec 4) (i : BitVec 16) (s : State) : Out :=
  ok (s.withRegs [a, d] [] fun s => (s.setX d (s.pc + n)).jump (regTarget (s.addr16 a i)))

/-- A task context with loop i armed from offset pc (R84). -/
def TaskCtx.arm (i : BitVec 1) (count pc : Word) (sOff eOff : Nat) (t : TaskCtx) : TaskCtx :=
  { t with lc := t.lc.set i.toFin count, ls := t.ls.set i.toFin (pc + BitVec.ofNat 32 (2 * sOff)),
           le := t.le.set i.toFin (pc + BitVec.ofNat 32 (2 * eOff)), vl := true }

/-- LSET with its count (R84): a count of 0 skips the body, reading the length of the instruction at le. -/
def loopSet (e : BitVec 10) (sOff : BitVec 6) (i : BitVec 1) (count : State → Word) (rs : List (BitVec 4)) (s : State) :
    Out :=
  ok (s.inTask fun s => s.withRegs rs [] fun s =>
    let n := count s
    let last := s.pc + BitVec.ofNat 32 (2 * e.toNat)
    let node := s.codeNode
    let s := s.modT (TaskCtx.arm i n s.pc sOff.toNat e.toNat)
    if n = 0#32 then
      match node.half last.toNat with
      | some h => s.jump (last + BitVec.ofNat 32 (instrBytes h))
      | none => s.trap .codeRange last
    else s.retire 4#32)

/-! ## Meanings -/

/-- ADD (R78). -/
def execAdd (b : BitVec 4) (d : BitVec 4) (a : BitVec 4) (s : State) : Out := opRR 4#32 d a b (· + ·) s
/-- SUB (R78). -/
def execSub (b : BitVec 4) (d : BitVec 4) (a : BitVec 4) (s : State) : Out := opRR 4#32 d a b (· - ·) s
/-- AND (R78). -/
def execAnd (b : BitVec 4) (d : BitVec 4) (a : BitVec 4) (s : State) : Out := opRR 4#32 d a b (· &&& ·) s
/-- OR (R78). -/
def execOr (b : BitVec 4) (d : BitVec 4) (a : BitVec 4) (s : State) : Out := opRR 4#32 d a b (· ||| ·) s
/-- XOR (R78). -/
def execXor (b : BitVec 4) (d : BitVec 4) (a : BitVec 4) (s : State) : Out := opRR 4#32 d a b (· ^^^ ·) s
/-- ANDN (R78). -/
def execAndn (b : BitVec 4) (d : BitVec 4) (a : BitVec 4) (s : State) : Out := opRR 4#32 d a b (fun x y => x &&& ~~~y) s
/-- SLL (R78). -/
def execSll (b : BitVec 4) (d : BitVec 4) (a : BitVec 4) (s : State) : Out := opRR 4#32 d a b (fun x y => x <<< shamt y) s
/-- SRL (R78). -/
def execSrl (b : BitVec 4) (d : BitVec 4) (a : BitVec 4) (s : State) : Out := opRR 4#32 d a b (fun x y => x >>> shamt y) s
/-- SRA (R78). -/
def execSra (b : BitVec 4) (d : BitVec 4) (a : BitVec 4) (s : State) : Out := opRR 4#32 d a b (fun x y => x.sshiftRight (shamt y)) s
/-- ROL (R78). -/
def execRol (b : BitVec 4) (d : BitVec 4) (a : BitVec 4) (s : State) : Out := opRR 4#32 d a b rol s
/-- SLT (R78). -/
def execSlt (b : BitVec 4) (d : BitVec 4) (a : BitVec 4) (s : State) : Out := opRR 4#32 d a b (fun x y => boolWord (x.slt y)) s
/-- SLTN (R78). -/
def execSltn (b : BitVec 4) (d : BitVec 4) (a : BitVec 4) (s : State) : Out := opRR 4#32 d a b (fun x y => boolWord (x.ult y)) s
/-- MIN (R78). -/
def execMin (b : BitVec 4) (d : BitVec 4) (a : BitVec 4) (s : State) : Out := opRR 4#32 d a b smin s
/-- MAX (R78). -/
def execMax (b : BitVec 4) (d : BitVec 4) (a : BitVec 4) (s : State) : Out := opRR 4#32 d a b smax s
/-- MINN (R78). -/
def execMinn (b : BitVec 4) (d : BitVec 4) (a : BitVec 4) (s : State) : Out := opRR 4#32 d a b umin s
/-- MAXN (R78). -/
def execMaxn (b : BitVec 4) (d : BitVec 4) (a : BitVec 4) (s : State) : Out := opRR 4#32 d a b umax s
/-- MUL (R80). -/
def execMul (b : BitVec 4) (d : BitVec 4) (a : BitVec 4) (s : State) : Out := opRR 4#32 d a b (· * ·) s
/-- MULH (R80). -/
def execMulh (b : BitVec 4) (d : BitVec 4) (a : BitVec 4) (s : State) : Out := opRR 4#32 d a b mulHigh s
/-- MULHN (R80). -/
def execMulhn (b : BitVec 4) (d : BitVec 4) (a : BitVec 4) (s : State) : Out := opRR 4#32 d a b mulHighU s
/-- DIV (R80, R27). -/
def execDiv (b : BitVec 4) (d : BitVec 4) (a : BitVec 4) (s : State) : Out := opRR 4#32 d a b divS s
/-- DIVN (R80, R27). -/
def execDivn (b : BitVec 4) (d : BitVec 4) (a : BitVec 4) (s : State) : Out := opRR 4#32 d a b divU s
/-- REM (R80, R27). -/
def execRem (b : BitVec 4) (d : BitVec 4) (a : BitVec 4) (s : State) : Out := opRR 4#32 d a b remS s
/-- REMN (R80, R27). -/
def execRemn (b : BitVec 4) (d : BitVec 4) (a : BitVec 4) (s : State) : Out := opRR 4#32 d a b remU s
/-- CLZ (R81). -/
def execClz (d : BitVec 4) (a : BitVec 4) (s : State) : Out := opR 4#32 d a (fun x => BitVec.ofNat 32 (leadingZeros 32 x)) s
/-- CTZ (R81). -/
def execCtz (d : BitVec 4) (a : BitVec 4) (s : State) : Out := opR 4#32 d a (fun x => BitVec.ofNat 32 (trailingZeros 32 0 x)) s
/-- POPC (R81). -/
def execPopc (d : BitVec 4) (a : BitVec 4) (s : State) : Out := opR 4#32 d a (fun x => BitVec.ofNat 32 (popCount 32 x.toNat)) s
/-- BREV (R81). -/
def execBrev (d : BitVec 4) (a : BitVec 4) (s : State) : Out := opR 4#32 d a bitReverse s
/-- SEXTB (R81). -/
def execSextb (d : BitVec 4) (a : BitVec 4) (s : State) : Out := opR 4#32 d a (fun x => sext (x.setWidth 8)) s
/-- SEXTH (R81). -/
def execSexth (d : BitVec 4) (a : BitVec 4) (s : State) : Out := opR 4#32 d a (fun x => sext (x.setWidth 16)) s
/-- ZEXTH (R81). -/
def execZexth (d : BitVec 4) (a : BitVec 4) (s : State) : Out := opR 4#32 d a (fun x => zext (x.setWidth 16)) s
/-- BSWAP (R81). -/
def execBswap (d : BitVec 4) (a : BitVec 4) (s : State) : Out := opR 4#32 d a byteSwap s
/-- ADDI (R79). -/
def execAddi (i : BitVec 16) (d : BitVec 4) (a : BitVec 4) (s : State) : Out := opR 4#32 d a (· + sext i) s
/-- ANDI (R79). -/
def execAndi (i : BitVec 16) (d : BitVec 4) (a : BitVec 4) (s : State) : Out := opR 4#32 d a (· &&& zext i) s
/-- ORI (R79). -/
def execOri (i : BitVec 16) (d : BitVec 4) (a : BitVec 4) (s : State) : Out := opR 4#32 d a (· ||| zext i) s
/-- XORI (R79). -/
def execXori (i : BitVec 16) (d : BitVec 4) (a : BitVec 4) (s : State) : Out := opR 4#32 d a (· ^^^ zext i) s
/-- SLTI (R79). -/
def execSlti (i : BitVec 16) (d : BitVec 4) (a : BitVec 4) (s : State) : Out := opR 4#32 d a (fun x => boolWord (x.slt (sext i))) s
/-- SLTNI (R79). -/
def execSltni (i : BitVec 16) (d : BitVec 4) (a : BitVec 4) (s : State) : Out := opR 4#32 d a (fun x => boolWord (x.ult (zext i))) s
/-- SLLI (R79). -/
def execSlli (n : BitVec 5) (d : BitVec 4) (a : BitVec 4) (s : State) : Out := opR 4#32 d a (· <<< n.toNat) s
/-- SRLI (R79). -/
def execSrli (n : BitVec 5) (d : BitVec 4) (a : BitVec 4) (s : State) : Out := opR 4#32 d a (· >>> n.toNat) s
/-- SRAI (R79). -/
def execSrai (n : BitVec 5) (d : BitVec 4) (a : BitVec 4) (s : State) : Out := opR 4#32 d a (·.sshiftRight n.toNat) s
/-- RORI (R79). -/
def execRori (n : BitVec 5) (d : BitVec 4) (a : BitVec 4) (s : State) : Out := opR 4#32 d a (·.rotateRight n.toNat) s
/-- LUI (R79). -/
def execLui (i : BitVec 16) (d : BitVec 4) (s : State) : Out := opConst 4#32 d (zext i <<< 16) s
/-- BEQ (R82). -/
def execBeq (o : BitVec 16) (a : BitVec 4) (b : BitVec 4) (s : State) : Out := branch 4#32 a b o (· == ·) s
/-- BNE (R82). -/
def execBne (o : BitVec 16) (a : BitVec 4) (b : BitVec 4) (s : State) : Out := branch 4#32 a b o (· != ·) s
/-- BLT (R82). -/
def execBlt (o : BitVec 16) (a : BitVec 4) (b : BitVec 4) (s : State) : Out := branch 4#32 a b o BitVec.slt s
/-- BGE (R82). -/
def execBge (o : BitVec 16) (a : BitVec 4) (b : BitVec 4) (s : State) : Out := branch 4#32 a b o (fun x y => !x.slt y) s
/-- BLTN (R82). -/
def execBltn (o : BitVec 16) (a : BitVec 4) (b : BitVec 4) (s : State) : Out := branch 4#32 a b o BitVec.ult s
/-- BGEN (R82). -/
def execBgen (o : BitVec 16) (a : BitVec 4) (b : BitVec 4) (s : State) : Out := branch 4#32 a b o (fun x y => !x.ult y) s
/-- JAL: h is off20[19:16] and o off20[15:0] (R55, R83). -/
def execJal (o : BitVec 16) (d : BitVec 4) (h : BitVec 4) (s : State) : Out := jumpLink 4#32 d (h ++ o) s
/-- JALR (R83). -/
def execJalr (i : BitVec 16) (d : BitVec 4) (a : BitVec 4) (s : State) : Out := jumpReg 4#32 d a i s
/-- LSET with an immediate count (R84). (DEDUCED, log 21). -/
def execLset (e : BitVec 10) (sOff : BitVec 6) (l : BitVec 1) (c : BitVec 6) (s : State) : Out := loopSet e sOff l (fun _ => zext c) [] s
/-- LSET with a count register (R84). -/
def execLsetReg (e : BitVec 10) (sOff : BitVec 6) (l : BitVec 1) (r : BitVec 4) (s : State) : Out := loopSet e sOff l (fun s => s.x r) [r] s
/-! ## The 16-bit forms (R62, R63) -/

/-- C.MOV: ADD rd, rs, x0 (R62). -/
def execCMov (d : BitVec 4) (r : BitVec 4) (s : State) : Out := opRR 2#32 d r 0#4 (· + ·) s
/-- C.ADD: ADD rd, rd, rs (R62). -/
def execCAdd (d : BitVec 4) (r : BitVec 4) (s : State) : Out := opRR 2#32 d d r (· + ·) s
/-- C.SUB: SUB rd, rd, rs (R62). -/
def execCSub (d : BitVec 4) (r : BitVec 4) (s : State) : Out := opRR 2#32 d d r (· - ·) s
/-- C.AND: AND rd, rd, rs (R62). -/
def execCAnd (d : BitVec 4) (r : BitVec 4) (s : State) : Out := opRR 2#32 d d r (· &&& ·) s
/-- C.OR: OR rd, rd, rs (R62). -/
def execCOr (d : BitVec 4) (r : BitVec 4) (s : State) : Out := opRR 2#32 d d r (· ||| ·) s
/-- C.XOR: XOR rd, rd, rs (R62). -/
def execCXor (d : BitVec 4) (r : BitVec 4) (s : State) : Out := opRR 2#32 d d r (· ^^^ ·) s
/-- C.SLL: SLL rd, rd, rs (R62). -/
def execCSll (d : BitVec 4) (r : BitVec 4) (s : State) : Out := opRR 2#32 d d r (fun x y => x <<< shamt y) s
/-- C.SRL: SRL rd, rd, rs (R62). -/
def execCSrl (d : BitVec 4) (r : BitVec 4) (s : State) : Out := opRR 2#32 d d r (fun x y => x >>> shamt y) s
/-- C.SRA: SRA rd, rd, rs (R62). -/
def execCSra (d : BitVec 4) (r : BitVec 4) (s : State) : Out := opRR 2#32 d d r (fun x y => x.sshiftRight (shamt y)) s
/-- C.SLT: SLT rd, rd, rs (R62). -/
def execCSlt (d : BitVec 4) (r : BitVec 4) (s : State) : Out := opRR 2#32 d d r (fun x y => boolWord (x.slt y)) s
/-- C.JR: JALR x0, rs, 0 (R62). -/
def execCJr (r : BitVec 4) (s : State) : Out := jumpReg 2#32 0#4 r 0#16 s
/-- C.JALR: JALR lr, rs, 0, with the link PC + 2 (R62, R63). -/
def execCJalr (r : BitVec 4) (s : State) : Out := jumpReg 2#32 1#4 r 0#16 s
/-- C.ADDI (R62). -/
def execCAddi (d : BitVec 4) (i : BitVec 6) (s : State) : Out := opR 2#32 d d (· + sext i) s
/-- C.LI: ADDI rd, x0, sext(imm6) (R62). -/
def execCLi (d : BitVec 4) (i : BitVec 6) (s : State) : Out := opR 2#32 d 0#4 (· + sext i) s
/-- C.SLLI (R62). -/
def execCSlli (d : BitVec 4) (n : BitVec 5) (s : State) : Out := opR 2#32 d d (· <<< n.toNat) s
/-- C.SRLI (R62). -/
def execCSrli (d : BitVec 4) (n : BitVec 5) (s : State) : Out := opR 2#32 d d (· >>> n.toNat) s
/-- C.SRAI (R62). -/
def execCSrai (d : BitVec 4) (n : BitVec 5) (s : State) : Out := opR 2#32 d d (·.sshiftRight n.toNat) s
/-- C.ANDI: ANDI rd, rd, zext(imm6) (R62). -/
def execCAndi (d : BitVec 4) (i : BitVec 6) (s : State) : Out := opR 2#32 d d (· &&& zext i) s
/-- C.LUI: LUI rd, trunc(sext(imm6), 16) (R62). -/
def execCLui (d : BitVec 4) (i : BitVec 6) (s : State) : Out := opConst 2#32 d (zext (i.signExtend 16) <<< 16) s
/-- C.BEQZ (R62). -/
def execCBeqz (r : BitVec 4) (o : BitVec 7) (s : State) : Out := branch 2#32 r 0#4 o (· == ·) s
/-- C.BNEZ (R62). -/
def execCBnez (r : BitVec 4) (o : BitVec 7) (s : State) : Out := branch 2#32 r 0#4 o (· != ·) s
/-- C.J: JAL x0 (R62). -/
def execCJ (o : BitVec 11) (s : State) : Out := jumpLink 2#32 0#4 o s
/-- C.RET: JALR x0, lr, 0 (R62). -/
def execCRet (s : State) : Out := jumpReg 2#32 0#4 1#4 0#16 s
/-- C.NOP (R62, R108). -/
def execCNop (s : State) : Out := ok (s.retire 2#32)

end Sys2Proof.Machine
end

