-- ==== Sys2Proof/Machine/Dispatch.lean ====
section
/-! DEFINITION. One arm for each row of the table: a direct call of its meaning. -/

namespace Sys2Proof.Machine

/-- The meaning of each row. -/
def exec (i : Instr) (s : State) : Host.Outcome State Fault Refusal :=
  match i with
  | .add b d a => Sys2Proof.Machine.execAdd b d a s
  | .sub b d a => Sys2Proof.Machine.execSub b d a s
  | .and b d a => Sys2Proof.Machine.execAnd b d a s
  | .or b d a => Sys2Proof.Machine.execOr b d a s
  | .xor b d a => Sys2Proof.Machine.execXor b d a s
  | .andn b d a => Sys2Proof.Machine.execAndn b d a s
  | .sll b d a => Sys2Proof.Machine.execSll b d a s
  | .srl b d a => Sys2Proof.Machine.execSrl b d a s
  | .sra b d a => Sys2Proof.Machine.execSra b d a s
  | .rol b d a => Sys2Proof.Machine.execRol b d a s
  | .slt b d a => Sys2Proof.Machine.execSlt b d a s
  | .sltn b d a => Sys2Proof.Machine.execSltn b d a s
  | .min b d a => Sys2Proof.Machine.execMin b d a s
  | .max b d a => Sys2Proof.Machine.execMax b d a s
  | .minn b d a => Sys2Proof.Machine.execMinn b d a s
  | .maxn b d a => Sys2Proof.Machine.execMaxn b d a s
  | .mul b d a => Sys2Proof.Machine.execMul b d a s
  | .mulh b d a => Sys2Proof.Machine.execMulh b d a s
  | .mulhn b d a => Sys2Proof.Machine.execMulhn b d a s
  | .div b d a => Sys2Proof.Machine.execDiv b d a s
  | .divn b d a => Sys2Proof.Machine.execDivn b d a s
  | .rem b d a => Sys2Proof.Machine.execRem b d a s
  | .remn b d a => Sys2Proof.Machine.execRemn b d a s
  | .clz d a => Sys2Proof.Machine.execClz d a s
  | .ctz d a => Sys2Proof.Machine.execCtz d a s
  | .popc d a => Sys2Proof.Machine.execPopc d a s
  | .brev d a => Sys2Proof.Machine.execBrev d a s
  | .sextb d a => Sys2Proof.Machine.execSextb d a s
  | .sexth d a => Sys2Proof.Machine.execSexth d a s
  | .zexth d a => Sys2Proof.Machine.execZexth d a s
  | .bswap d a => Sys2Proof.Machine.execBswap d a s
  | .addi im d a => Sys2Proof.Machine.execAddi im d a s
  | .andi im d a => Sys2Proof.Machine.execAndi im d a s
  | .ori im d a => Sys2Proof.Machine.execOri im d a s
  | .xori im d a => Sys2Proof.Machine.execXori im d a s
  | .slti im d a => Sys2Proof.Machine.execSlti im d a s
  | .sltni im d a => Sys2Proof.Machine.execSltni im d a s
  | .slli n d a => Sys2Proof.Machine.execSlli n d a s
  | .srli n d a => Sys2Proof.Machine.execSrli n d a s
  | .srai n d a => Sys2Proof.Machine.execSrai n d a s
  | .rori n d a => Sys2Proof.Machine.execRori n d a s
  | .lui im d => Sys2Proof.Machine.execLui im d s
  | .beq o a b => Sys2Proof.Machine.execBeq o a b s
  | .bne o a b => Sys2Proof.Machine.execBne o a b s
  | .blt o a b => Sys2Proof.Machine.execBlt o a b s
  | .bge o a b => Sys2Proof.Machine.execBge o a b s
  | .bltn o a b => Sys2Proof.Machine.execBltn o a b s
  | .bgen o a b => Sys2Proof.Machine.execBgen o a b s
  | .jal o d h => Sys2Proof.Machine.execJal o d h s
  | .jalr im d a => Sys2Proof.Machine.execJalr im d a s
  | .lset e so l c => Sys2Proof.Machine.execLset e so l c s
  | .lsetReg e so l r => Sys2Proof.Machine.execLsetReg e so l r s
  | .lb im d a => Sys2Proof.Machine.execLb im d a s
  | .lbn im d a => Sys2Proof.Machine.execLbn im d a s
  | .lh im d a => Sys2Proof.Machine.execLh im d a s
  | .lhn im d a => Sys2Proof.Machine.execLhn im d a s
  | .lw im d a => Sys2Proof.Machine.execLw im d a s
  | .sb im d b => Sys2Proof.Machine.execSb im d b s
  | .sh im d b => Sys2Proof.Machine.execSh im d b s
  | .sw im d b => Sys2Proof.Machine.execSw im d b s
  | .lwf o d a => Sys2Proof.Machine.execLwf o d a s
  | .lwfe o d a => Sys2Proof.Machine.execLwfe o d a s
  | .fetest o d a => Sys2Proof.Machine.execFetest o d a s
  | .swe o d b => Sys2Proof.Machine.execSwe o d b s
  | .swf o d b => Sys2Proof.Machine.execSwf o d b s
  | .feset o b => Sys2Proof.Machine.execFeset o b s
  | .feclr o b => Sys2Proof.Machine.execFeclr o b s
  | .rlw b d a => Sys2Proof.Machine.execRlw b d a s
  | .rlwf b d a => Sys2Proof.Machine.execRlwf b d a s
  | .rlwfe b d a => Sys2Proof.Machine.execRlwfe b d a s
  | .rsw b d a => Sys2Proof.Machine.execRsw b d a s
  | .rswe b d a => Sys2Proof.Machine.execRswe b d a s
  | .rswf b d a => Sys2Proof.Machine.execRswf b d a s
  | .amoAdd b o d a => Sys2Proof.Machine.execAmoAdd b o d a s
  | .amoAnd b o d a => Sys2Proof.Machine.execAmoAnd b o d a s
  | .amoOr b o d a => Sys2Proof.Machine.execAmoOr b o d a s
  | .amoXor b o d a => Sys2Proof.Machine.execAmoXor b o d a s
  | .amoMin b o d a => Sys2Proof.Machine.execAmoMin b o d a s
  | .amoMax b o d a => Sys2Proof.Machine.execAmoMax b o d a s
  | .amoSwap b o d a => Sys2Proof.Machine.execAmoSwap b o d a s
  | .amoCas b o d a => Sys2Proof.Machine.execAmoCas b o d a s
  | .tmset so => Sys2Proof.Machine.execTmset so s
  | .tmoff so => Sys2Proof.Machine.execTmoff so s
  | .glw t im d x => Sys2Proof.Machine.execGlw t im d x s
  | .gsw t im d x => Sys2Proof.Machine.execGsw t im d x s
  | .glwa t im d x => Sys2Proof.Machine.execGlwa t im d x s
  | .gswl t im d x => Sys2Proof.Machine.execGswl t im d x s
  | .gaadd t im d x => Sys2Proof.Machine.execGaadd t im d x s
  | .gamin t im d x => Sys2Proof.Machine.execGamin t im d x s
  | .gamax t im d x => Sys2Proof.Machine.execGamax t im d x s
  | .gaswap t im d x => Sys2Proof.Machine.execGaswap t im d x s
  | .gacas t im d x => Sys2Proof.Machine.execGacas t im d x s
  | .gafadd t im d x => Sys2Proof.Machine.execGafadd t im d x s
  | .fence y l so => Sys2Proof.Machine.execFence y l so s
  | .mfs n d => Sys2Proof.Machine.execMfs n d s
  | .mfsCycle d => Sys2Proof.Machine.execMfsCycle d s
  | .mfsPq d => Sys2Proof.Machine.execMfsPq d s
  | .mfsCpGo d => Sys2Proof.Machine.execMfsCpGo d s
  | .mfsCq d => Sys2Proof.Machine.execMfsCq d s
  | .mfsGpGo d => Sys2Proof.Machine.execMfsGpGo d s
  | .mfsRq d => Sys2Proof.Machine.execMfsRq d s
  | .mfsBq d => Sys2Proof.Machine.execMfsBq d s
  | .mts n x => Sys2Proof.Machine.execMts n x s
  | .mtsi n im => Sys2Proof.Machine.execMtsi n im s
  | .mss n x => Sys2Proof.Machine.execMss n x s
  | .mcs n x => Sys2Proof.Machine.execMcs n x s
  | .waito l so c t m => Sys2Proof.Machine.execWaito l so c t m s
  | .trap c => Sys2Proof.Machine.execTrap c s
  | .sync f => Sys2Proof.Machine.execSync f s
  | .haltr k => Sys2Proof.Machine.execHaltr k s
  | .sendam c d => Sys2Proof.Machine.execSendam c d s
  | .frinit d a => Sys2Proof.Machine.execFrinit d a s
  | .spawn o f => Sys2Proof.Machine.execSpawn o f s
  | .pgpre t n im => Sys2Proof.Machine.execPgpre t n im s
  | .pgdisc t n im => Sys2Proof.Machine.execPgdisc t n im s
  | .binit b d a => Sys2Proof.Machine.execBinit b d a s
  | .bexp b d a => Sys2Proof.Machine.execBexp b d a s
  | .barr b d a => Sys2Proof.Machine.execBarr b d a s
  | .bwait b d a => Sys2Proof.Machine.execBwait b d a s
  | .bwaitm b d a => Sys2Proof.Machine.execBwaitm b d a s
  | .btest b d a => Sys2Proof.Machine.execBtest b d a s
  | .dbar so c d => Sys2Proof.Machine.execDbar so c d s
  | .send b d a => Sys2Proof.Machine.execSend b d a s
  | .rpost d a => Sys2Proof.Machine.execRpost d a s
  | .rcancel d a => Sys2Proof.Machine.execRcancel d a s
  | .rprobe d a => Sys2Proof.Machine.execRprobe d a s
  | .enq b d a => Sys2Proof.Machine.execEnq b d a s
  | .cptest d a => Sys2Proof.Machine.execCptest d a s
  | .cpcancel d a => Sys2Proof.Machine.execCpcancel d a s
  | .cpwait d a => Sys2Proof.Machine.execCpwait d a s
  | .mcfg m x => Sys2Proof.Machine.execMcfg m x s
  | .mzero m => Sys2Proof.Machine.execMzero m s
  | .lease n => Sys2Proof.Machine.execLease n s
  | .mld t x d => Sys2Proof.Machine.execMld t x d s
  | .mst t x d => Sys2Proof.Machine.execMst t x d s
  | .pmv t x d a => Sys2Proof.Machine.execPmv t x d a s
  | .pmvx t x d a => Sys2Proof.Machine.execPmvx t x d a s
  | .pmt w d a => Sys2Proof.Machine.execPmt w d a s
  | .pbp b d a => Sys2Proof.Machine.execPbp b d a s
  | .prt w d a => Sys2Proof.Machine.execPrt w d a s
  | .vadd b e d a p => Sys2Proof.Machine.execVadd b e d a p s
  | .vsub b e d a p => Sys2Proof.Machine.execVsub b e d a p s
  | .vadds b e d a p => Sys2Proof.Machine.execVadds b e d a p s
  | .vsubs b e d a p => Sys2Proof.Machine.execVsubs b e d a p s
  | .vmul b e d a p => Sys2Proof.Machine.execVmul b e d a p s
  | .vmulh b e d a p => Sys2Proof.Machine.execVmulh b e d a p s
  | .vmac b e d a p => Sys2Proof.Machine.execVmac b e d a p s
  | .vmin b e d a p => Sys2Proof.Machine.execVmin b e d a p s
  | .vmax b e d a p => Sys2Proof.Machine.execVmax b e d a p s
  | .vand b e d a p => Sys2Proof.Machine.execVand b e d a p s
  | .vor b e d a p => Sys2Proof.Machine.execVor b e d a p s
  | .vxor b e d a p => Sys2Proof.Machine.execVxor b e d a p s
  | .vandn b e d a p => Sys2Proof.Machine.execVandn b e d a p s
  | .vshl b e d a p => Sys2Proof.Machine.execVshl b e d a p s
  | .vshr b e d a p => Sys2Proof.Machine.execVshr b e d a p s
  | .vsra b e d a p => Sys2Proof.Machine.execVsra b e d a p s
  | .vabs e d a p => Sys2Proof.Machine.execVabs e d a p s
  | .vneg e d a p => Sys2Proof.Machine.execVneg e d a p s
  | .vcmpeq b e d a p => Sys2Proof.Machine.execVcmpeq b e d a p s
  | .vcmplt b e d a p => Sys2Proof.Machine.execVcmplt b e d a p s
  | .vcmple b e d a p => Sys2Proof.Machine.execVcmple b e d a p s
  | .vsel b e d a p => Sys2Proof.Machine.execVsel b e d a p s
  | .vfadd b e d a p => Sys2Proof.Machine.execVfadd b e d a p s
  | .vfsub b e d a p => Sys2Proof.Machine.execVfsub b e d a p s
  | .vfmul b e d a p => Sys2Proof.Machine.execVfmul b e d a p s
  | .vfma b e d a p => Sys2Proof.Machine.execVfma b e d a p s
  | .vfmin b e d a p => Sys2Proof.Machine.execVfmin b e d a p s
  | .vfmax b e d a p => Sys2Proof.Machine.execVfmax b e d a p s
  | .vfabs e d a p => Sys2Proof.Machine.execVfabs e d a p s
  | .vfneg e d a p => Sys2Proof.Machine.execVfneg e d a p s
  | .vrcp e d a p => Sys2Proof.Machine.execVrcp e d a p s
  | .vrsq e d a p => Sys2Proof.Machine.execVrsq e d a p s
  | .vexp2 e d a p => Sys2Proof.Machine.execVexp2 e d a p s
  | .vfcmpeq b e d a p => Sys2Proof.Machine.execVfcmpeq b e d a p s
  | .vfcmplt b e d a p => Sys2Proof.Machine.execVfcmplt b e d a p s
  | .vfcmple b e d a p => Sys2Proof.Machine.execVfcmple b e d a p s
  | .vcvt so e r d a p => Sys2Proof.Machine.execVcvt so e r d a p s
  | .vscl b d a p => Sys2Proof.Machine.execVscl b d a p s
  | .vtrit d a p => Sys2Proof.Machine.execVtrit d a p s
  | .vpackt d a p => Sys2Proof.Machine.execVpackt d a p s
  | .vmov e d a p => Sys2Proof.Machine.execVmov e d a p s
  | .vperm b e d a p => Sys2Proof.Machine.execVperm b e d a p s
  | .vcompr e d a p => Sys2Proof.Machine.execVcompr e d a p s
  | .vexpnd e d a p => Sys2Proof.Machine.execVexpnd e d a p s
  | .vzipl b e d a p => Sys2Proof.Machine.execVzipl b e d a p s
  | .vziph b e d a p => Sys2Proof.Machine.execVziph b e d a p s
  | .vrev e d a p => Sys2Proof.Machine.execVrev e d a p s
  | .vband b d a p => Sys2Proof.Machine.execVband b d a p s
  | .vbor b d a p => Sys2Proof.Machine.execVbor b d a p s
  | .vpopp d a p => Sys2Proof.Machine.execVpopp d a p s
  | .vxsect b d a p => Sys2Proof.Machine.execVxsect b d a p s
  | .vnzm e d a p => Sys2Proof.Machine.execVnzm e d a p s
  | .vld im v x => Sys2Proof.Machine.execVld im v x s
  | .vst im v x => Sys2Proof.Machine.execVst im v x s
  | .vldx im z v x => Sys2Proof.Machine.execVldx im z v x s
  | .vstx im z v x => Sys2Proof.Machine.execVstx im z v x s
  | .vldg t im v o x => Sys2Proof.Machine.execVldg t im v o x s
  | .vstg t im v o x => Sys2Proof.Machine.execVstg t im v o x s
  | .vldgs t im v o x => Sys2Proof.Machine.execVldgs t im v o x s
  | .vbcast x e d p => Sys2Proof.Machine.execVbcast x e d p s
  | .vext x e l a p => Sys2Proof.Machine.execVext x e l a p s
  | .vins x e l d p => Sys2Proof.Machine.execVins x e l d p s
  | .vnarrow e so d a p => Sys2Proof.Machine.execVnarrow e so d a p s
  | .vwiden e h d a p => Sys2Proof.Machine.execVwiden e h d a p s
  | .vmxq x d q p => Sys2Proof.Machine.execVmxq x d q p s
  | .vmxd x q a p => Sys2Proof.Machine.execVmxd x q a p s
  | .badq x d a p => Sys2Proof.Machine.execBadq x d a p s
  | .vnzc x e a p => Sys2Proof.Machine.execVnzc x e a p s
  | .vsumr x e a p => Sys2Proof.Machine.execVsumr x e a p s
  | .vmaxr x e a p => Sys2Proof.Machine.execVmaxr x e a p s
  | .vslide x e n d a p => Sys2Proof.Machine.execVslide x e n d a p s
  | .cMov d so => Sys2Proof.Machine.execCMov d so s
  | .cAdd d so => Sys2Proof.Machine.execCAdd d so s
  | .cSub d so => Sys2Proof.Machine.execCSub d so s
  | .cAnd d so => Sys2Proof.Machine.execCAnd d so s
  | .cOr d so => Sys2Proof.Machine.execCOr d so s
  | .cXor d so => Sys2Proof.Machine.execCXor d so s
  | .cSll d so => Sys2Proof.Machine.execCSll d so s
  | .cSrl d so => Sys2Proof.Machine.execCSrl d so s
  | .cSra d so => Sys2Proof.Machine.execCSra d so s
  | .cSlt d so => Sys2Proof.Machine.execCSlt d so s
  | .cJr so => Sys2Proof.Machine.execCJr so s
  | .cJalr so => Sys2Proof.Machine.execCJalr so s
  | .cAddi d im => Sys2Proof.Machine.execCAddi d im s
  | .cLi d im => Sys2Proof.Machine.execCLi d im s
  | .cSlli d n => Sys2Proof.Machine.execCSlli d n s
  | .cSrli d n => Sys2Proof.Machine.execCSrli d n s
  | .cSrai d n => Sys2Proof.Machine.execCSrai d n s
  | .cAndi d im => Sys2Proof.Machine.execCAndi d im s
  | .cLwsp d im => Sys2Proof.Machine.execCLwsp d im s
  | .cSwsp d im => Sys2Proof.Machine.execCSwsp d im s
  | .cLui d im => Sys2Proof.Machine.execCLui d im s
  | .cBeqz so o => Sys2Proof.Machine.execCBeqz so o s
  | .cBnez so o => Sys2Proof.Machine.execCBnez so o s
  | .cLw d b o => Sys2Proof.Machine.execCLw d b o s
  | .cSw d b o => Sys2Proof.Machine.execCSw d b o s
  | .cJ o => Sys2Proof.Machine.execCJ o s
  | .nop => Sys2Proof.Machine.execNop s
  | .ecall => Sys2Proof.Machine.execEcall s
  | .tret => Sys2Proof.Machine.execTret s
  | .brk => Sys2Proof.Machine.execBrk s
  | .yield => Sys2Proof.Machine.execYield s
  | .idle => Sys2Proof.Machine.execIdle s
  | .done => Sys2Proof.Machine.execDone s
  | .halt => Sys2Proof.Machine.execHalt s
  | .hret => Sys2Proof.Machine.execHret s
  | .unlease => Sys2Proof.Machine.execUnlease s
  | .vclear => Sys2Proof.Machine.execVclear s
  | .cVclear => Sys2Proof.Machine.execCVclear s
  | .cNop => Sys2Proof.Machine.execCNop s
  | .cDone => Sys2Proof.Machine.execCDone s
  | .cHret => Sys2Proof.Machine.execCHret s
  | .cRet => Sys2Proof.Machine.execCRet s
  | .feTimeout => Sys2Proof.Machine.execFeTimeout s
  | .remoteBusyResend => Sys2Proof.Machine.execRemoteBusyResend s
  | .idleTimeout => Sys2Proof.Machine.execIdleTimeout s
  | .asynchronousTrap => Sys2Proof.Machine.execAsynchronousTrap s
  | .coreHang => Sys2Proof.Machine.execCoreHang s
  | .coreLeaveGroup => Sys2Proof.Machine.execCoreLeaveGroup s
  | .barrierOperation => Sys2Proof.Machine.execBarrierOperation s
  | .barrierWaitResend => Sys2Proof.Machine.execBarrierWaitResend s
  | .engineArrival => Sys2Proof.Machine.execEngineArrival s
  | .dbarNotification => Sys2Proof.Machine.execDbarNotification s
  | .enqRequest => Sys2Proof.Machine.execEnqRequest s
  | .arrayCommandTurn => Sys2Proof.Machine.execArrayCommandTurn s
  | .tokenPush => Sys2Proof.Machine.execTokenPush s
  | .prtLanding => Sys2Proof.Machine.execPrtLanding s
  | .leaseGrant => Sys2Proof.Machine.execLeaseGrant s
  | .slotEnd => Sys2Proof.Machine.execSlotEnd s
  | .slotTableWrite => Sys2Proof.Machine.execSlotTableWrite s
  | .loadReply => Sys2Proof.Machine.execLoadReply s
  | .storeAck => Sys2Proof.Machine.execStoreAck s
  | .remoteNack => Sys2Proof.Machine.execRemoteNack s
  | .messageAccept => Sys2Proof.Machine.execMessageAccept s
  | .remoteLoad => Sys2Proof.Machine.execRemoteLoad s
  | .remoteStore => Sys2Proof.Machine.execRemoteStore s
  | .feLoad => Sys2Proof.Machine.execFeLoad s
  | .feStore => Sys2Proof.Machine.execFeStore s
  | .localAtomic => Sys2Proof.Machine.execLocalAtomic s
  | .feWake => Sys2Proof.Machine.execFeWake s
  | .steal => Sys2Proof.Machine.execSteal s
  | .stealReply => Sys2Proof.Machine.execStealReply s
  | .joinDecrement => Sys2Proof.Machine.execJoinDecrement s
  | .continuationDelivery => Sys2Proof.Machine.execContinuationDelivery s
  | .deliveryResend => Sys2Proof.Machine.execDeliveryResend s
  | .deliveryBusy => Sys2Proof.Machine.execDeliveryBusy s
  | .ownerPop => Sys2Proof.Machine.execOwnerPop s
  | .stealIssue => Sys2Proof.Machine.execStealIssue s
  | .stealBackoffEnd => Sys2Proof.Machine.execStealBackoffEnd s
  | .activeMessage => Sys2Proof.Machine.execActiveMessage s
  | .handlerBudget => Sys2Proof.Machine.execHandlerBudget s
  | .localGather => Sys2Proof.Machine.execLocalGather s
  | .localScatterAdd => Sys2Proof.Machine.execLocalScatterAdd s
  | .victimPieceStore => Sys2Proof.Machine.execVictimPieceStore s
  | .victimPieceRecall => Sys2Proof.Machine.execVictimPieceRecall s
  | .terminationProbe => Sys2Proof.Machine.execTerminationProbe s
  | .terminationWave => Sys2Proof.Machine.execTerminationWave s
  | .terminationWaveEnd => Sys2Proof.Machine.execTerminationWaveEnd s
  | .chunkDelivered => Sys2Proof.Machine.execChunkDelivered s
  | .chunkFault => Sys2Proof.Machine.execChunkFault s
  | .transferStop => Sys2Proof.Machine.execTransferStop s
  | .transferStall => Sys2Proof.Machine.execTransferStall s
  | .rowRequest => Sys2Proof.Machine.execRowRequest s
  | .gatherRow => Sys2Proof.Machine.execGatherRow s
  | .scatterAddRow => Sys2Proof.Machine.execScatterAddRow s
  | .sketchHalve => Sys2Proof.Machine.execSketchHalve s
  | .sliceRequest => Sys2Proof.Machine.execSliceRequest s
  | .pagerMap => Sys2Proof.Machine.execPagerMap s
  | .pagerFail => Sys2Proof.Machine.execPagerFail s
  | .pagerRevive => Sys2Proof.Machine.execPagerRevive s
  | .pagerReclaim => Sys2Proof.Machine.execPagerReclaim s
  | .pagerDiscard => Sys2Proof.Machine.execPagerDiscard s
  | .pagerTimeout => Sys2Proof.Machine.execPagerTimeout s
  | .parkedDelivery => Sys2Proof.Machine.execParkedDelivery s
  | .migrationBegin => Sys2Proof.Machine.execMigrationBegin s
  | .migrationEnd => Sys2Proof.Machine.execMigrationEnd s
  | .shootdown => Sys2Proof.Machine.execShootdown s
  | .shootdownTimeout => Sys2Proof.Machine.execShootdownTimeout s
  | .taskMigrate => Sys2Proof.Machine.execTaskMigrate s
  | .hostCompletionTimeout => Sys2Proof.Machine.execHostCompletionTimeout s
  | .fabricRequest => Sys2Proof.Machine.execFabricRequest s
  | .retryResend => Sys2Proof.Machine.execRetryResend s
  | .linkRetrain => Sys2Proof.Machine.execLinkRetrain s
  | .flitUncorrectable => Sys2Proof.Machine.execFlitUncorrectable s
  | .linkDown => Sys2Proof.Machine.execLinkDown s
  | .detourSet => Sys2Proof.Machine.execDetourSet s
  | .sendHeader => Sys2Proof.Machine.execSendHeader s
  | .sendAnswer => Sys2Proof.Machine.execSendAnswer s
  | .sendResend => Sys2Proof.Machine.execSendResend s
  | .rnrTimeout => Sys2Proof.Machine.execRnrTimeout s
  | .pullRead => Sys2Proof.Machine.execPullRead s
  | .payloadArrival => Sys2Proof.Machine.execPayloadArrival s
  | .landingComplete => Sys2Proof.Machine.execLandingComplete s
  | .triggerArrival => Sys2Proof.Machine.execTriggerArrival s
  | .kick => Sys2Proof.Machine.execKick s
  | .suspend => Sys2Proof.Machine.execSuspend s
  | .resume => Sys2Proof.Machine.execResume s
  | .skip => Sys2Proof.Machine.execSkip s
  | .enable => Sys2Proof.Machine.execEnable s
  | .disable => Sys2Proof.Machine.execDisable s
  | .disableDrained => Sys2Proof.Machine.execDisableDrained s
  | .prioChange => Sys2Proof.Machine.execPrioChange s
  | .launch => Sys2Proof.Machine.execLaunch s
  | .waitdep => Sys2Proof.Machine.execWaitdep s
  | .waitdepPoll => Sys2Proof.Machine.execWaitdepPoll s
  | .signal => Sys2Proof.Machine.execSignal s
  | .arm => Sys2Proof.Machine.execArm s
  | .copy => Sys2Proof.Machine.execCopy s
  | .hubCopyEnd => Sys2Proof.Machine.execHubCopyEnd s
  | .nopPacket => Sys2Proof.Machine.execNopPacket s
  | .stampReread => Sys2Proof.Machine.execStampReread s
  | .schedulingPass => Sys2Proof.Machine.execSchedulingPass s
  | .ageingStep => Sys2Proof.Machine.execAgeingStep s
  | .slotQuiescent => Sys2Proof.Machine.execSlotQuiescent s
  | .bindRecord => Sys2Proof.Machine.execBindRecord s
  | .bindComplete => Sys2Proof.Machine.execBindComplete s
  | .drainEnd => Sys2Proof.Machine.execDrainEnd s
  | .groupRelease => Sys2Proof.Machine.execGroupRelease s
  | .preempt => Sys2Proof.Machine.execPreempt s
  | .preemptSave => Sys2Proof.Machine.execPreemptSave s
  | .preemptTimeout => Sys2Proof.Machine.execPreemptTimeout s
  | .resumeGroup => Sys2Proof.Machine.execResumeGroup s
  | .spill => Sys2Proof.Machine.execSpill s
  | .reload => Sys2Proof.Machine.execReload s
  | .watchdog => Sys2Proof.Machine.execWatchdog s
  | .contextFree => Sys2Proof.Machine.execContextFree s
  | .ctxCreate => Sys2Proof.Machine.execCtxCreate s
  | .ctxReady => Sys2Proof.Machine.execCtxReady s
  | .ctxReset => Sys2Proof.Machine.execCtxReset s
  | .ctxDestroy => Sys2Proof.Machine.execCtxDestroy s
  | .ctxSet => Sys2Proof.Machine.execCtxSet s
  | .aclSet => Sys2Proof.Machine.execAclSet s
  | .ctxQuery => Sys2Proof.Machine.execCtxQuery s
  | .binLoad => Sys2Proof.Machine.execBinLoad s
  | .binUnload => Sys2Proof.Machine.execBinUnload s
  | .followSet => Sys2Proof.Machine.execFollowSet s
  | .dsetSet => Sys2Proof.Machine.execDsetSet s
  | .map => Sys2Proof.Machine.execMap s
  | .unmap => Sys2Proof.Machine.execUnmap s
  | .unknownCommand => Sys2Proof.Machine.execUnknownCommand s
  | .fcommit => Sys2Proof.Machine.execFcommit s
  | .ckpt => Sys2Proof.Machine.execCkpt s
  | .checkpointComplete => Sys2Proof.Machine.execCheckpointComplete s
  | .registerWrite => Sys2Proof.Machine.execRegisterWrite s
  | .bar2Access => Sys2Proof.Machine.execBar2Access s
  | .powerOn => Sys2Proof.Machine.execPowerOn s
  | .bringupEnd => Sys2Proof.Machine.execBringupEnd s
  | .imageReceived => Sys2Proof.Machine.execImageReceived s
  | .imageBooted => Sys2Proof.Machine.execImageBooted s
  | .importTimeout => Sys2Proof.Machine.execImportTimeout s
  | .importComplete => Sys2Proof.Machine.execImportComplete s
  | .spdmRequest => Sys2Proof.Machine.execSpdmRequest s
  | .pldmRequest => Sys2Proof.Machine.execPldmRequest s
  | .recordWrite => Sys2Proof.Machine.execRecordWrite s
  | .powerOff => Sys2Proof.Machine.execPowerOff s
  | .powerLimit => Sys2Proof.Machine.execPowerLimit s
  | .thermalLimit => Sys2Proof.Machine.execThermalLimit s
  | .droopStop => Sys2Proof.Machine.execDroopStop s
  | .illegalOp => Sys2Proof.Machine.execIllegalOp s
  | .codeRange => Sys2Proof.Machine.execCodeRange s
  | .mailboxArrival => Sys2Proof.Machine.execMailboxArrival s
  | .malformedPacket => Sys2Proof.Machine.execMalformedPacket s
  | .enqAnswer => Sys2Proof.Machine.execEnqAnswer s
  | .barrierReply => Sys2Proof.Machine.execBarrierReply s
  | .hostCompletion => Sys2Proof.Machine.execHostCompletion s
  | .hostLinkDown => Sys2Proof.Machine.execHostLinkDown s
  | .abruptLossOfPower => Sys2Proof.Machine.execAbruptLossOfPower s
  | .activeComplexStopsAnswering => Sys2Proof.Machine.execActiveComplexStopsAnswering s
  | .retentionLoss => Sys2Proof.Machine.execRetentionLoss s
  | .scrubber => Sys2Proof.Machine.execScrubber s
  | .keyRevocation => Sys2Proof.Machine.execKeyRevocation s
  | .debugHaltRequest => Sys2Proof.Machine.execDebugHaltRequest s
  | .coreClockCycle => Sys2Proof.Machine.execCoreClockCycle s

end Sys2Proof.Machine
end

