-- ==== Sys2Proof/Machine/Turn.lean ====
section
/-! DEFINITION. Who moves next, and what a step performs: the choice among the contexts, the enabled events and the messages
in flight, fetching and decoding an instruction, and laying out an instruction where a step fetches it (R53, R61, R72, R95,
R187, R279). -/

namespace Sys2Proof.Machine

/-! ## Contexts -/

/-- Whether a task context issues: RUNNING, with no access in the pager's hands (R72, R268). -/
def State.issues (s : State) (i : Issuer) : Bool := (s.taskAt i).run == .running && (s.atPager i).isEmpty

/-- Whether an instruction uses the divider (R111). -/
def divides : Instr → Bool
  | .div .. | .divn .. | .rem .. | .remn .. => true
  | _ => false

/-- Whether an instruction of the handler context uses a port of local memory (R72). -/
def usesLocalPort : Instr → Bool
  | .lb .. | .lbn .. | .lh .. | .lhn .. | .lw .. | .sb .. | .sh .. | .sw .. | .swf .. | .fetest .. | .feset .. | .feclr ..
  | .cLwsp .. | .cSwsp .. | .cLw .. | .cSw .. => true
  | _ => false

/-- How many instructions an issuer has completed (R50). -/
def State.retired (s : State) (i : Issuer) : Word :=
  match i.ctx with
  | .handler => (s.coreAt i.core).hd.instret
  | _ => (s.taskAt i).instret

/-- The divider is busy after a divide that the context of a turn has completed, which one that stalled or trapped has not (R111). -/
def State.divided (i : Instr) (before s : State) : State :=
  if divides i && s.retired before.who != before.retired before.who then
    s.modCore before.who.core fun c => { c with divider := c.divider + 34 }
  else s

/-- Whether the next instruction of an issuer is of a kind. -/
def State.nextIs (s : State) (i : Issuer) (f : Instr → Bool) : Bool :=
  let s := { s with who := i }
  match s.codeNode.fetch s.pc.toNat with
  | some w => match decode w with
    | .ok i => f i
    | .error _ => false
  | none => false

/-- Whether the handler context of a core may wait for a port of local memory: its next instruction uses one (R72). (DEDUCED, log 66). -/
def State.atPort (s : State) (k : Nat) : Bool := s.nextIs ⟨k, .handler⟩ usesLocalPort

/-- The task contexts of a core that may issue next (R72): the preferred one, and the other when that one cannot issue, or when its next
instruction may wait for the divider. (DEDUCED, log 66). -/
def State.taskIssuers (s : State) (k : Nat) : List CtxSel :=
  let c := s.coreAt k
  let p : CtxSel := if c.pref then .tc1 else .tc0
  let q := otherTask p
  if s.issues ⟨k, p⟩ then p :: (if 0 < c.divider && s.issues ⟨k, q⟩ && s.nextIs ⟨k, p⟩ divides then [q] else [])
  else if s.issues ⟨k, q⟩ then [q]
  else []

/-- The contexts of a core of which one issues next (R72): the handler while it runs a message, which may wait for a port of local memory,
then the task contexts. A group that is being pre-empted, or stopped as FAULTED, finishes its handler runs (R283, R335). -/
def State.issuers (s : State) (k : Nat) : List CtxSel :=
  let c := s.coreAt k
  let g := (s.groupAt c.group).state
  let on := g = .running ∨ g = .preempting ∨ (g = .faulted ∧ (s.contextAt c.ctxid).state ≠ .terminated)
  let tasks := if c.power = .bound ∧ g = .running then s.taskIssuers k else []
  if c.hd.running ∧ (c.power = .bound ∨ c.power = .saving) ∧ on then .handler :: (if s.atPort k then tasks else []) else tasks

/-! ## Events that the state enables -/

/-- An event, if a condition holds. -/
def when (p : Bool) (e : Event) : List Event := if p then [e] else []

/-- Whether a core leaves its group, or takes up its next kernel (R75, R188, R318). -/
def State.canLeave (s : State) (k : Nat) : Bool :=
  let c := s.coreAt k
  (c.power == .bound && c.tc0.run == .left && c.tc1.run == .left && c.quiet && !s.atomicOpen k) ||
    (c.power == .reserved && (s.groupAt c.group).state == .running)

/-- The events that an ACTIVE transfer enables (R192, R198, R208, R213, R282, R348). -/
def State.slotEvents (s : State) (k slot : Nat) : List Event :=
  (s.readyChunks k slot).map (.chunkDelivered k slot) ++ ((s.nextRow k slot).toList.map (.rowRequest k slot)) ++
  when (s.stopsTransfers k) (.transferStop k slot) ++
  when (s.fetches.any fun f => f.2.by_.ofSlot k slot && f.2.ans == .none) (.transferStall k slot) ++
  when (s.canSend k slot) (.sendResend k slot) ++
  (if s.canResend k slot then [.sendResend k slot, .rnrTimeout k slot] else [])

/-- The events that a core enables. -/
def State.coreEvents (s : State) (k : Nat) : List Event :=
  let c := s.coreAt k
  when (s.canPop k .tc0) (.ownerPop k .tc0) ++ when (s.canPop k .tc1) (.ownerPop k .tc1) ++
  when (s.canSteal k) (.stealIssue k) ++ when c.dq.backoff (.stealBackoffEnd k) ++
  when (s.canHandle k) (.activeMessage k) ++ when (s.canLeave k) (.coreLeaveGroup k) ++
  when (c.tc0.run == .stalled .idle) (.idleTimeout k .tc0) ++ when (c.tc1.run == .stalled .idle) (.idleTimeout k .tc1) ++
  (c.parkedFe.map fun m => .feTimeout k m.wait) ++
  (c.slots.filter fun e => e.2.state == .active).flatMap fun e => s.slotEvents k e.1

/-- The events that a cluster's banks enable (R143, R147, R149). -/
def State.clusterEvents (s : State) (k : Nat) : List Event :=
  let c := s.clusterAt k
  when (c.turnDue false) (.arrayCommandTurn k false) ++ when (c.turnDue true) (.arrayCommandTurn k true) ++
  when (s.canGrant k false) (.leaseGrant k false) ++ when (s.canGrant k true) (.leaseGrant k true) ++ [.slotEnd k]

/-- The bind record that would restore a SAVED group to its place (R327, R335). -/
def State.restoreRec (s : State) (g : Nat) : Rec :=
  let gr := s.groupAt g
  gr.bindRec g true gr.origin ((gr.cores.map (· / 32768)).dedup) gr.bank (s.slotsFor gr.ctx gr.bank (clusterOf (gr.cores.headD 0)))

/-- The events that a group enables (R282, R283, R321, R322, R335). -/
def State.groupEvents (s : State) (g : Nat) : List Event :=
  let gr := s.groupAt g
  let binds := s.ckpt.isNone && s.firmware.role != .importing
  match gr.state with
  | .requested => if binds then (s.firstFit g).toList.map (.bindRecord g) else []
  | .binding => if gr.restoring then [.resumeGroup g] else [.bindComplete g]
  | .resident => [.bindComplete g]
  | .released => when (gr.kernel == .draining) (.drainEnd g)
  | .running =>
    when (s.drainDone g) (.drainEnd g) ++ when ((s.contextAt gr.ctx).wdog != 0#16) (.watchdog g)
  | .preempting => when (s.quiesced g) (.preemptSave g) ++ when (s.pageWaits g) (.preemptTimeout g)
  | .saved => when (binds && !gr.spilled) (.bindRecord g (s.restoreRec g))
  | _ => []

/-- The events that a context enables (R277, R290). -/
def State.contextEvents (s : State) (ctx : Nat) : List Event :=
  when ((s.contextAt ctx).state == .terminated && (s.groupsOf ctx).isEmpty) (.contextFree ctx) ++
  when ((s.savedOf ctx).any fun g => (s.groupAt g).spilled) (.reload ctx)

/-- What dispatch does next: the examination of the first bound queue, in ascending slot number from the slot whose turn it is, that has
something to be examined (R304). -/
def State.dispatchEvents (s : State) : List Event :=
  (((List.range 64).filterMap fun i => s.hwSlots.find ((s.hwTurn + i) % 64)).findSome? fun h =>
    if h.v then s.dispatchDue h.queue else none).toList

/-- The events that a queue enables (R294, R297, R301, R306). -/
def State.queueEvents (s : State) (q : Nat) : List Event :=
  let u := s.queueAt q
  when u.acting.isSome (.signal q) ++ when (u.disabling && u.inflight == 0) (.disableDrained q) ++
  when (u.state == .pending || (u.state == .bound && !u.eligible)) (.ageingStep q) ++ when (u.state == .pending) (.ageMicro q)

/-- What the pager does for a page that it has been asked for: a frame while there is one, else its failure (R269, assumption 13).
(DESIGN CHOICE, log 13). -/
def State.pagerEvents (s : State) (ctx va : Nat) : List Event :=
  match s.walk ctx va with
  | .leaf l =>
    if l.state = 5 then
      let (lo, hi) := s.kindRange l.kind none
      (if l.kind ≤ 1 then
        match s.findFree lo hi l.size l.size with
        | some pa => [.pagerMap ctx va pa]
        | none => [.pagerFail ctx va]
       else []) ++ [.pagerTimeout ctx va]
    else when (l.state == 1) (.pagerRevive ctx va) ++ when (l.state == 1) (.pagerTimeout ctx va)
  | .fault _ => []

/-- The event of the host command in hand, but for those that bring bytes from the host (R371). -/
def State.commandEvent (s : State) : Option Event :=
  if !s.commandReady || (s.device.begun && s.cmdOp == 4) then none else
  match s.cmdOp with
  | 1 => some .ctxCreate
  | 2 => some .ctxReady
  | 3 => some .ctxReset
  | 4 => some .ctxDestroy
  | 5 => some .ctxSet
  | 6 => some .aclSet
  | 7 => some .ctxQuery
  | 8 => none
  | 9 => some .binUnload
  | 10 => some .followSet
  | 11 => none
  | 12 => some .map
  | 13 => some .unmap
  | _ => some .unknownCommand

/-- The events that the hub and the firmware enable (R211, R267, R300, R305, R371, R372, R376). -/
def State.hubEvents (s : State) : List Event :=
  s.commandEvent.toList ++ when s.ckptReady (.checkpointComplete true) ++
  when (s.firmware.role == .importing) .importTimeout ++
  ((s.hwSlots.filter fun e => e.2.v && e.2.stopping).map fun e => .slotQuiescent e.1) ++
  (s.hubCopies.map fun c => .hubCopyEnd c.queue c.idx) ++
  ((s.slices.filter fun e => 2 ^ 20 ≤ e.2.class2).map fun e => .sketchHalve e.1) ++
  ((s.away.filter fun e => e.2.home.isNone).map fun e => .hostCompletionTimeout e.1) ++
  ((s.fetches.filter fun e => e.2.home.isNone && e.2.ans == .none).map fun e => .hostCompletionTimeout e.1) ++
  s.pagerAsks.flatMap fun e => s.pagerEvents e.1 e.2

/-- Every event that the state enables; a core clock cycle may always pass. -/
def State.enabled (s : State) : List Event :=
  s.cores.flatMap (fun e => s.coreEvents e.1) ++ s.clusters.flatMap (fun e => s.clusterEvents e.1) ++
  s.groups.flatMap (fun e => s.groupEvents e.1) ++ s.contexts.flatMap (fun e => s.contextEvents e.1) ++
  s.queues.flatMap (fun e => s.queueEvents e.1) ++ s.dispatchEvents ++ s.hubEvents ++ [.coreClockCycle]

/-! ## The choice (assumption 4) -/

/-- The channels on which messages keep their order. -/
inductive Chan where
  /-- One context, of this part or of another, to one core (R95, R187). -/
  | core (src : Issuer) (part : Option Nat) (dst : Nat)
  /-- Requests of one core of another part, and headers of a core, by the port on which they were sent and their index (R340, R344,
  R348). -/
  | request (part core : Nat) (ring : Option Nat) (index : Nat)
  /-- Notifications of one core of another part in a dissemination context (R340). -/
  | notify (part core c : Nat)
  /-- The tokens of one bank (R144). -/
  | token (cluster ctx : Nat)
  /-- The host's writes (R236: the host link's own rules for posted writes). -/
  | host
  deriving DecidableEq, Repr

/-- The channels of an event. -/
def State.chansOf (s : State) (e : Event) : List Chan :=
  let part (p : Nat) : Option Nat := if p = s.partAddr then none else some p
  let request (p core : Nat) : Chan := .request p core none (core % 16)
  let header (h : Header) : Chan := .request h.spart h.score h.ring ((h.sid.toNat % 16) ^^^ (h.tag.toNat % 16))
  match e with
  | .mailboxArrival m => [.core m.src (part m.part) m.dst]
  | .fabricRequest (.am m) => [request m.part m.src.core, .core m.src (part m.part) m.dst]
  | .joinDecrement f i _ => [.core i none (frameOwner f)]
  | .fabricRequest (.join p f i ..) => [request p i.core, .core i (part p) (frameOwner f)]
  | .fabricRequest (.access p _ _ a) => [request p a.src.core]
  | .fabricRequest (.enq p m) => [request p m.src.core]
  | .fabricRequest (.delivery p _ _ _ _ _ back _) => [request p back.1]
  | .fabricRequest (.notify n) => [.notify n.part n.src n.c]
  | .fabricRequest (.header h) => [header h]
  | .sendHeader h => [header h]
  | .tokenPush i _ => [.token (clusterOf i.core) (s.coreAt i.core).ctxid]
  | .kick .. | .suspend _ | .resume _ | .skip _ | .enable _ | .disable _ | .prioChange .. | .fcommit | .ckpt _ | .registerWrite .. |
    .bar2Access .. => [.host]
  | e => (eventChannel e).toList.map fun c => .core c.1 none c.2

/-- Whether a message waits for its own acceptance by the network, which an event before it brings (R405). -/
def acceptBlocked (before : List Event) (e : Event) : Bool :=
  match e with
  | .mailboxArrival m => before.contains (.messageAccept m.src)
  | .remoteStore m => m.src.ctx == .handler && before.contains (.messageAccept m.src)
  | .feStore m => m.src.ctx == .handler && before.contains (.messageAccept m.src)
  | .sendHeader h => [CtxSel.tc0, .tc1].any fun x => before.contains (.messageAccept ⟨h.score, x⟩)
  | _ => false

/-- Whether an injection waits for ENQs that have reached its queue, or for those of lower entries of the trigger table (R310). -/
def State.injectionBlocked (s : State) (e : Event) : Bool :=
  match e with
  | .triggerArrival n _ _ =>
    let q := (s.triggerAt n).queue.toNat
    !(s.fetches.any fun f => f.2.by_ == .inject n) && s.pending.any fun f =>
      match f with
      | .enqRequest m => m.queue == q
      | .triggerArrival k _ true => decide (k < n) && (s.triggerAt k).queue.toNat == q
      | _ => false
  | _ => false

/-- The core that a held message goes to (R285). -/
def heldFor : Event → Option Nat
  | .mailboxArrival m => some m.dst
  | .remoteLoad m | .remoteStore m => some m.dst
  | .feLoad m | .feStore m => some m.dst
  | .localAtomic m => some m.dst
  | .loadReply r => some r.dst.core
  | .barrierReply r => some r.dst.core
  | .storeAck i | .tokenPush i _ => some i.core
  | .remoteNack n => some n.to_.core
  | .joinDecrement f _ _ => some (frameOwner f)
  | .continuationDelivery d => some d.dst
  | .dbarNotification n => some n.dst
  | .feWake (.feLoad i ..) | .feWake (.feStore i ..) => some i.core
  | .feWake (.barrier r) => some r.dst.core
  | _ => none

/-- Whether a message released at a resume waits for one to the same core that arrived before it (R285). -/
def State.resumeBlocked (s : State) (e : Event) : Bool :=
  (heldFor e).isSome && s.groups.any fun g =>
    g.2.released.contains e && (g.2.released.takeWhile (· != e)).any fun f => heldFor f == heldFor e && s.pending.contains f

/-- Whether a pending event may be performed next: none on one of its channels stands before it (R95, R187, R340), no earlier access of its
agent to the same location is still to be performed (R236), and it waits for nothing else that comes first. (DESIGN CHOICE, log 4). -/
def State.deliverable (s : State) (k : Nat) : Bool :=
  match s.pending[k]? with
  | some e =>
    let before := s.pending.take k
    !((s.chansOf e).any fun ch => before.any fun f => (s.chansOf f).contains ch) && !s.eventBlocked e &&
      !acceptBlocked before e && !s.injectionBlocked e && !s.resumeBlocked e
  | none => false

/-- Every turn that may come next. (DESIGN CHOICE, log 1). -/
def State.turns (s : State) : List (Turn × Issuer) :=
  (s.cores.flatMap fun e => (s.issuers e.1).map fun x => (.context, ⟨e.1, x⟩)) ++
  (s.enabled.map fun e => (.event e, s.who)) ++
  (((List.range s.pending.length).filter s.deliverable).map fun k => (.pending k, s.who))

/-- The state after a step: stalled instructions are issued again, tasks that are ready to park do, and the next turn is chosen.
(DESIGN CHOICE, log 4). -/
def State.after (s : State) : State :=
  let mover := if s.turn = .context then some s.who else none
  let s := { s.retryOthers mover with now := none }.settleParks
  let ts := s.turns
  let (t, w) := ts.getD (Config.choice s.freeCount ts.length % ts.length) (.event .coreClockCycle, s.who)
  { s with turn := t, who := w, freeCount := s.freeCount + 1 }

/-! ## What a step performs -/

/-- The state in which an event is performed. -/
def State.withNow (e : Event) (s : State) : State := { s with now := some e }

/-- The row and the state of a context's turn: an exhausted handler budget, a held trap that is due, a task that follows its page, a
fetch that fails, a word that is not an instruction, or the decoded instruction (R53, R61, R184, R271, R279). (DEDUCED, log 61). -/
def State.contextDue (s : State) : Instr × State :=
  let i := s.who
  if s.inHandler ∧ !s.core.hd.traps.isEmpty then (.asynchronousTrap, s.withNow (.asynchronousTrap i.core i.ctx))
  else if s.inHandler ∧ s.core.hd.budget = 0 then (.handlerBudget, s.withNow (.handlerBudget i.core))
  else if !s.inHandler ∧ s.task.trapDue then (.asynchronousTrap, s.withNow (.asynchronousTrap i.core i.ctx))
  else match (if s.inHandler then none else s.task.follow) with
    | some p => (.taskMigrate, s.withNow (.taskMigrate i.core i.ctx p))
    | none =>
      if !s.codeNode.exec then (.codeRange, s.withNow (.codeRange s.pc true))
      else match s.codeNode.fetch s.pc.toNat with
        | none => (.codeRange, s.withNow (.codeRange s.pc false))
        | some w =>
          match decode w with
          | .ok j => (j, s)
          | .error _ => (.illegalOp, s.withNow (.illegalOp (BitVec.ofNat 32 w)))

/-- The row that a step performs, and the state in which it does. (DESIGN CHOICE, log 48). -/
def State.due (s : State) : Instr × State :=
  match s.turn with
  | .context => s.contextDue
  | .event e => (e.row, s.withNow e)
  | .pending k =>
    match s.pending[k]? with
    | some e => (e.row, { s with now := some e, pending := s.pending.eraseIdx k })
    | none => (.coreClockCycle, s)

/-! ## An instruction laid out where a step fetches it -/

/-- A core bound to group 1 of one core, with a task running at offset 0 on tc0 (the load that assumption 2 stands for).
(DESIGN CHOICE, log 2). -/
def loadedCore (h : Bool) : Core :=
  { power := .bound, group := 1, ctxid := 1, gsize := 1, hbase := 0x6F00#32, tc0 := { run := .running },
    hd := { running := h, budget := 256 } }

/-- The state with the bytes of an instruction as the code segment of the kernel that core 0 runs; an HRET word runs in the
handler context, every other one on tc0. (DESIGN CHOICE, log 2). -/
def State.withCode (bs : List Byte) (s : State) : State :=
  let h := decide (bs.take 4 = [0x00#8, 0xE6#8, 0x05#8, 0x00#8]) || decide (bs.take 2 = [0x02#8, 0xB8#8])
  { s with cores := s.cores.put 0 (loadedCore h),
           groups := s.groups.put 1 { state := .running, kernel := .running, ctx := 1, handle := 1, nodes := 0xFFFFFF00#32,
                                      cores := [0] },
           contexts := s.contexts.put 1 { state := .running },
           binaries := s.binaries.put 1 { loaded := true, ctx := 1, nodes := [{ code := bs }] },
           who := ⟨0, if h then .handler else .tc0⟩, turn := .context }

end Sys2Proof.Machine
end

