-- ==== Sys2Proof/Machine/Step.lean ====
section
/-! DEFINITION. One step of the part: what is due is performed, and the next turn is chosen. -/

namespace Sys2Proof.Machine

/-- One step: an instruction of one context, or one event. -/
def step (s : State) : Host.Outcome State Fault Refusal :=
  match exec s.due.1 s.due.2 with
  | .next t => .next (t.divided s.due.1 s.due.2).after
  | .fault r => .fault r
  | .refused r => .refused r

/-- The state whose next step fetches and runs the instruction of the low nbits of w, zeros above them. (DESIGN CHOICE, log 2). -/
def State.withFetchWord (s : State) (nbits w : Nat) : State := s.withCode (leBytes 4 (w % 2 ^ nbits))

end Sys2Proof.Machine
end

