-- ==== Sys2Proof/Safety.lean ====
section
/-! DEFINITION. What counts as a safe run: the part goes on, and memory and the files keep their form. -/

namespace Sys2Proof.Machine

/-- Memory in its canonical form: addresses strictly rising, no entry equal to what an unlisted address reads as. -/
abbrev Memory.wf (m : Mem) : Prop := Mem.canonical m = true

/-- The memories of the state are canonical: physical memory and every core's local memory. -/
def State.MemWf (s : State) : Prop := Memory.wf s.phys ∧ ∀ e ∈ s.cores, Memory.wf e.2.lm

/-- A step that goes on. -/
def GoesOn (s : State) : Prop := ∃ t, step s = .next t

end Sys2Proof.Machine
end

