-- ==== Sys2Proof/Certificates/Slice0/Obligations.lean ====
section
/-! DEFINITION. The statements for the provers: what the instructions and events of the part do, what they leave alone, and what holds
at every step. A clause on an event names the event as the one that is being performed (State.now). -/

namespace Sys2Proof.Claims

open Sys2Proof.Machine

/-! ## What statements are made of -/

/-- The named registers of the issuing task context are neither pending nor faulted (R73, R94); nothing waits in the handler
context. -/
abbrev Clear (s : State) (xs : List (BitVec 4)) (vs : List (BitVec 3)) : Prop :=
  s.inHandler = true ∨ (s.task.faultIn xs vs = none ∧ s.task.waitsFor xs vs = false)

/-- No acquire of the issuing task context is outstanding (R97). -/
abbrev NoAcquire (s : State) : Prop := s.inHandler = true ∨ s.task.acquires = 0

/-- A task context issues. -/
abbrev InTask (s : State) : Prop := s.inHandler = false

/-- An event is the one that is being performed. -/
abbrev Performs (s : State) (e : Event) : Prop := s.now = some e

/-- Every register of every context of every core but one register of the issuing context is unchanged. -/
def OtherRegs (d : BitVec 4) (s t : State) : Prop := ∀ i r, (i ≠ s.who ∨ r ≠ d) → t.xAt i r = s.xAt i r

/-- All of memory is unchanged: every byte of physical memory and of every core's local memory. -/
def SameMemory (s t : State) : Prop := (∀ a, t.phys.byte a = s.phys.byte a) ∧ ∀ k a, (t.coreAt k).lm.byte a = (s.coreAt k).lm.byte a

/-- Everything of the part beside its cores is unchanged. -/
def SameOutside (s t : State) : Prop := { t with cores := s.cores } = s

/-- The special registers, counts, masks, vectors and maps of a task context are unchanged: all but its registers, its offset, its
retirement count, its loops and VL. -/
def SameTask (t u : TaskCtx) : Prop :=
  { u with x := t.x, pc := t.pc, instret := t.instret, lc := t.lc, vl := t.vl, run := t.run } = t

/-! ## Scalar arithmetic (R27, R62, R78 to R81) -/

/-- What a scalar instruction that writes one register is: its bytes, its destination, the registers it names, and its result. -/
structure ScalarRow where
  bytes : Word
  dest  : BitVec 4
  regs  : List (BitVec 4)
  value : State → Word

/-- 1 for true, 0 for false. -/
def flag (p : Prop) [Decidable p] : Word := if p then 1#32 else 0#32

/-- The rows of the register, immediate and 16-bit forms that write one register. -/
def scalarRow : Instr → Option ScalarRow
  | .add b d a => some ⟨4#32, d, [a, b, d], fun s => s.x a + s.x b⟩
  | .sub b d a => some ⟨4#32, d, [a, b, d], fun s => s.x a - s.x b⟩
  | .and b d a => some ⟨4#32, d, [a, b, d], fun s => s.x a &&& s.x b⟩
  | .or b d a => some ⟨4#32, d, [a, b, d], fun s => s.x a ||| s.x b⟩
  | .xor b d a => some ⟨4#32, d, [a, b, d], fun s => s.x a ^^^ s.x b⟩
  | .andn b d a => some ⟨4#32, d, [a, b, d], fun s => s.x a &&& ~~~(s.x b)⟩
  | .sll b d a => some ⟨4#32, d, [a, b, d], fun s => s.x a <<< ((s.x b).toNat % 32)⟩
  | .srl b d a => some ⟨4#32, d, [a, b, d], fun s => s.x a >>> ((s.x b).toNat % 32)⟩
  | .sra b d a => some ⟨4#32, d, [a, b, d], fun s => (s.x a).sshiftRight ((s.x b).toNat % 32)⟩
  | .rol b d a => some ⟨4#32, d, [a, b, d], fun s => (s.x a).rotateLeft ((s.x b).toNat % 32)⟩
  | .slt b d a => some ⟨4#32, d, [a, b, d], fun s => flag ((s.x a).toInt < (s.x b).toInt)⟩
  | .sltn b d a => some ⟨4#32, d, [a, b, d], fun s => flag ((s.x a).toNat < (s.x b).toNat)⟩
  | .min b d a => some ⟨4#32, d, [a, b, d], fun s => BitVec.ofInt 32 (Min.min (s.x a).toInt (s.x b).toInt)⟩
  | .max b d a => some ⟨4#32, d, [a, b, d], fun s => BitVec.ofInt 32 (Max.max (s.x a).toInt (s.x b).toInt)⟩
  | .minn b d a => some ⟨4#32, d, [a, b, d], fun s => BitVec.ofNat 32 (Min.min (s.x a).toNat (s.x b).toNat)⟩
  | .maxn b d a => some ⟨4#32, d, [a, b, d], fun s => BitVec.ofNat 32 (Max.max (s.x a).toNat (s.x b).toNat)⟩
  | .mul b d a => some ⟨4#32, d, [a, b, d], fun s => BitVec.ofInt 32 ((s.x a).toInt * (s.x b).toInt)⟩
  | .mulh b d a => some ⟨4#32, d, [a, b, d], fun s => BitVec.ofInt 32 ((s.x a).toInt * (s.x b).toInt / 2 ^ 32)⟩
  | .mulhn b d a => some ⟨4#32, d, [a, b, d], fun s => BitVec.ofNat 32 ((s.x a).toNat * (s.x b).toNat / 2 ^ 32)⟩
  | .div b d a => some ⟨4#32, d, [a, b, d], fun s => if s.x b = 0#32 then 0xFFFFFFFF#32
      else BitVec.ofInt 32 ((s.x a).toInt.tdiv (s.x b).toInt)⟩
  | .divn b d a => some ⟨4#32, d, [a, b, d], fun s => if s.x b = 0#32 then 0xFFFFFFFF#32
      else BitVec.ofNat 32 ((s.x a).toNat / (s.x b).toNat)⟩
  | .rem b d a => some ⟨4#32, d, [a, b, d], fun s => if s.x b = 0#32 then s.x a
      else BitVec.ofInt 32 ((s.x a).toInt.tmod (s.x b).toInt)⟩
  | .remn b d a => some ⟨4#32, d, [a, b, d], fun s => if s.x b = 0#32 then s.x a
      else BitVec.ofNat 32 ((s.x a).toNat % (s.x b).toNat)⟩
  | .brev d a => some ⟨4#32, d, [a, d], fun s => (s.x a).reverse⟩
  | .sextb d a => some ⟨4#32, d, [a, d], fun s => ((s.x a).setWidth 8).signExtend 32⟩
  | .sexth d a => some ⟨4#32, d, [a, d], fun s => ((s.x a).setWidth 16).signExtend 32⟩
  | .zexth d a => some ⟨4#32, d, [a, d], fun s => s.x a &&& 0xFFFF#32⟩
  | .addi i d a => some ⟨4#32, d, [a, d], fun s => s.x a + i.signExtend 32⟩
  | .andi i d a => some ⟨4#32, d, [a, d], fun s => s.x a &&& i.setWidth 32⟩
  | .ori i d a => some ⟨4#32, d, [a, d], fun s => s.x a ||| i.setWidth 32⟩
  | .xori i d a => some ⟨4#32, d, [a, d], fun s => s.x a ^^^ i.setWidth 32⟩
  | .slti i d a => some ⟨4#32, d, [a, d], fun s => flag ((s.x a).toInt < i.toInt)⟩
  | .sltni i d a => some ⟨4#32, d, [a, d], fun s => flag ((s.x a).toNat < i.toNat)⟩
  | .slli n d a => some ⟨4#32, d, [a, d], fun s => s.x a <<< n.toNat⟩
  | .srli n d a => some ⟨4#32, d, [a, d], fun s => s.x a >>> n.toNat⟩
  | .srai n d a => some ⟨4#32, d, [a, d], fun s => (s.x a).sshiftRight n.toNat⟩
  | .rori n d a => some ⟨4#32, d, [a, d], fun s => (s.x a).rotateRight n.toNat⟩
  | .lui i d => some ⟨4#32, d, [d], fun _ => i.setWidth 32 <<< 16⟩
  | .cMov d r => some ⟨2#32, d, [r, 0#4, d], fun s => s.x r⟩
  | .cAdd d r => some ⟨2#32, d, [d, r, d], fun s => s.x d + s.x r⟩
  | .cSub d r => some ⟨2#32, d, [d, r, d], fun s => s.x d - s.x r⟩
  | .cAnd d r => some ⟨2#32, d, [d, r, d], fun s => s.x d &&& s.x r⟩
  | .cOr d r => some ⟨2#32, d, [d, r, d], fun s => s.x d ||| s.x r⟩
  | .cXor d r => some ⟨2#32, d, [d, r, d], fun s => s.x d ^^^ s.x r⟩
  | .cSll d r => some ⟨2#32, d, [d, r, d], fun s => s.x d <<< ((s.x r).toNat % 32)⟩
  | .cSrl d r => some ⟨2#32, d, [d, r, d], fun s => s.x d >>> ((s.x r).toNat % 32)⟩
  | .cSra d r => some ⟨2#32, d, [d, r, d], fun s => (s.x d).sshiftRight ((s.x r).toNat % 32)⟩
  | .cSlt d r => some ⟨2#32, d, [d, r, d], fun s => flag ((s.x d).toInt < (s.x r).toInt)⟩
  | .cAddi d i => some ⟨2#32, d, [d, d], fun s => s.x d + i.signExtend 32⟩
  | .cLi d i => some ⟨2#32, d, [0#4, d], fun _ => i.signExtend 32⟩
  | .cSlli d n => some ⟨2#32, d, [d, d], fun s => s.x d <<< n.toNat⟩
  | .cSrli d n => some ⟨2#32, d, [d, d], fun s => s.x d >>> n.toNat⟩
  | .cSrai d n => some ⟨2#32, d, [d, d], fun s => (s.x d).sshiftRight n.toNat⟩
  | .cAndi d i => some ⟨2#32, d, [d, d], fun s => s.x d &&& i.setWidth 32⟩
  | .cLui d i => some ⟨2#32, d, [d], fun _ => (i.signExtend 16).setWidth 32 <<< 16⟩
  | _ => none

/-- The registers that each row names first are those that it reads; the last is its destination. -/
abbrev ScalarRow.ready (r : ScalarRow) (s : State) : Prop := Clear s r.regs []

/-- A word of R78, R80 and R81: its major, func8, rs2, rd and rs1. -/
def rrWord (major func : Nat) (b d a : BitVec 4) : Nat := 0xC000 + major * 2 ^ 8 + func * 2 ^ 16 + b.toNat * 2 ^ 28 + d.toNat * 2 ^ 4 + a.toNat

/-- A word of R79: its major, imm16, rd and rs1. -/
def riWord (major imm : Nat) (d a : BitVec 4) : Nat := 0xC000 + major * 2 ^ 8 + imm * 2 ^ 16 + d.toNat * 2 ^ 4 + a.toNat

/-- The words of the 32-bit arithmetic instructions, written out from R78 to R81. -/
def aluWord : Instr → Option Nat
  | .add b d a => some (rrWord 0 0x00 b d a)
  | .sub b d a => some (rrWord 0 0x01 b d a)
  | .and b d a => some (rrWord 0 0x02 b d a)
  | .or b d a => some (rrWord 0 0x03 b d a)
  | .xor b d a => some (rrWord 0 0x04 b d a)
  | .andn b d a => some (rrWord 0 0x05 b d a)
  | .sll b d a => some (rrWord 0 0x06 b d a)
  | .srl b d a => some (rrWord 0 0x07 b d a)
  | .sra b d a => some (rrWord 0 0x08 b d a)
  | .rol b d a => some (rrWord 0 0x09 b d a)
  | .slt b d a => some (rrWord 0 0x0A b d a)
  | .sltn b d a => some (rrWord 0 0x0B b d a)
  | .min b d a => some (rrWord 0 0x0C b d a)
  | .max b d a => some (rrWord 0 0x0D b d a)
  | .minn b d a => some (rrWord 0 0x0E b d a)
  | .maxn b d a => some (rrWord 0 0x0F b d a)
  | .mul b d a => some (rrWord 1 0x00 b d a)
  | .mulh b d a => some (rrWord 1 0x01 b d a)
  | .mulhn b d a => some (rrWord 1 0x02 b d a)
  | .div b d a => some (rrWord 1 0x04 b d a)
  | .divn b d a => some (rrWord 1 0x05 b d a)
  | .rem b d a => some (rrWord 1 0x06 b d a)
  | .remn b d a => some (rrWord 1 0x07 b d a)
  | .clz d a => some (rrWord 2 0x00 0#4 d a)
  | .ctz d a => some (rrWord 2 0x01 0#4 d a)
  | .popc d a => some (rrWord 2 0x02 0#4 d a)
  | .brev d a => some (rrWord 2 0x03 0#4 d a)
  | .sextb d a => some (rrWord 2 0x04 0#4 d a)
  | .sexth d a => some (rrWord 2 0x05 0#4 d a)
  | .zexth d a => some (rrWord 2 0x06 0#4 d a)
  | .bswap d a => some (rrWord 2 0x07 0#4 d a)
  | .addi i d a => some (riWord 3 i.toNat d a)
  | .andi i d a => some (riWord 4 i.toNat d a)
  | .ori i d a => some (riWord 5 i.toNat d a)
  | .xori i d a => some (riWord 6 i.toNat d a)
  | .slti i d a => some (riWord 7 i.toNat d a)
  | .sltni i d a => some (riWord 8 i.toNat d a)
  | .slli n d a => some (riWord 9 n.toNat d a)
  | .srli n d a => some (riWord 9 (0x4000 + n.toNat) d a)
  | .srai n d a => some (riWord 9 (0x8000 + n.toNat) d a)
  | .rori n d a => some (riWord 9 (0xC000 + n.toNat) d a)
  | .lui i d => some (riWord 10 i.toNat d 0#4)
  | _ => none

/-- Bit k of a word. -/
def bitOf (w : Word) (k : Nat) : Prop := w.getLsbD k = true

/-- Byte k of a word. -/
def byteOf (w : Word) (k : Nat) : BitVec 8 := (w >>> (8 * k)).setWidth 8

end Sys2Proof.Claims

open Sys2Proof Sys2Proof.Machine Sys2Proof.Claims

/-! ## Decoding, stepping, reset -/

/-- Words written out from the encodings of R55 to R62 decode to the instructions that they stand for: a register form, a 16-bit form, a
branch, a local and a global load, a special register, a message, a frame, a barrier, a send, a queue, a transfer, an array and a vector
instruction. -/
def Obligations.DecodesSpecWords : Prop :=
  decode 0x3000C054 = .ok (.add 3#4 5#4 4#4) ∧ decode 0x0054 = .ok (.cMov 5#4 4#4) ∧ decode 0xFFFECC56 = .ok (.beq 0xFFFE#16 5#4 6#4) ∧
  decode 0x0010D973 = .ok (.lw 0x0010#16 7#4 3#4) ∧ decode 0x2005E173 = .ok (.glw 2#4 5#8 7#4 3#4) ∧
  decode 0x0401E330 = .ok (.mts 0x040#12 3#4) ∧ decode 0x3004E604 = .ok (.sendam 3#4 4#4) ∧ decode 0x0006E656 = .ok (.frinit 5#4 6#4) ∧
  decode 0x2002EA54 = .ok (.barr 2#4 5#4 4#4) ∧ decode 0x5000EC34 = .ok (.send 5#4 3#4 4#4) ∧ decode 0x5004EC34 = .ok (.enq 5#4 3#4 4#4) ∧
  decode 0x0000ED56 = .ok (.cptest 5#4 6#4) ∧ decode 0x2002F04C = .ok (.pmt 1#3 2#3 3#3) ∧
  decode 0x2800F171 = .ok (.vadd 1#3 2#3 3#3 4#3 1#2)

/-- R53 to R62: decoding the encoding of a well-formed instruction gives it back, with every operand at every value. -/
def Obligations.DecodeOfEncode : Prop :=
  ∀ i n w, encode i = some (n, w) → i.illFormed = none → decode w = .ok i ∧ instrBytes w = n ∧ w < 2 ^ (8 * n)

/-- R53 to R62: a word that decodes is the encoding of its instruction, so no two words of one length mean the same, and a word with a
fixed field that does not hold its value decodes to nothing. -/
def Obligations.EncodeOfDecode : Prop :=
  ∀ w i, w < 2 ^ (8 * instrBytes w) → decode w = .ok i → encode i = some (instrBytes w, w) ∧ i.illFormed = none

/-- A context's turn runs the instruction that its offset's bytes decode to (R53, R72), when neither a held trap nor an exhausted budget
nor a follow access comes first; the step adds the choice of the next turn.
Where the spec leaves it open, the model's choices are those of log 4 and 19. -/
def Obligations.StepRunsDecoded : Prop :=
  ∀ (s : State) w i, s.turn = .context → (s.inHandler = true → s.core.hd.budget ≠ 0 ∧ s.core.hd.traps = []) →
    (s.inHandler = false → s.task.trapDue = false ∧ s.task.follow = none) → s.codeNode.exec = true →
    s.codeNode.fetch s.pc.toNat = some w → decode w = .ok i →
    step s = (match exec i s with
      | .next t => .next (t.divided i s).after
      | .fault r => .fault r
      | .refused r => .refused r)

/-- A fetch at or beyond the code segment's length performs CODE_RANGE, and a word that is not an instruction ILLEGAL_OP (R53, R61). -/
def Sys2Proof.Claims.StepOfBadFetch : Prop :=
  (∀ (s : State), s.turn = .context → s.inHandler = false → s.task.trapDue = false → s.task.follow = none → s.codeNode.exec = true →
    s.codeNode.fetch s.pc.toNat = none → s.due = (.codeRange, s.withNow (.codeRange s.pc false))) ∧
  (∀ (s : State) w r, s.turn = .context → s.inHandler = false → s.task.trapDue = false → s.task.follow = none → s.codeNode.exec = true →
    s.codeNode.fetch s.pc.toNat = some w → decode w = .error r →
    s.due = (.illegalOp, s.withNow (.illegalOp (BitVec.ofNat 32 w))))

/-- The turn that a state holds is one that the order of the part allows: a context is the one of its core that R72 lets issue, and a
message has none before it on its channel (R95, R187, R236). -/
def Sys2Proof.Claims.TurnLegal (s : State) : Prop :=
  s.now = none ∧
  match s.turn with
  | .context => s.who.ctx ∈ s.issuers s.who.core
  | .event _ => True
  | .pending k => s.deliverable k = true

/-- Every step leaves a legal turn: the handler of a core goes before its task contexts, of these the preferred one goes first, and
messages of one context to one core are performed in issue order (R72, R95, R187, R236).
Where the spec leaves it open, the model's choices are those of log 1 and 47. -/
def Obligations.EveryStepLeavesLegalTurn : Prop := ∀ (s t : State), TurnLegal s → step s = .next t → TurnLegal t

/-- The state after power is applied has a legal turn, and nothing in it but the power-on: every core is OFF, no context, queue or
group exists, and the accepted feature set is empty (R75, R369, R370).
Where the spec leaves it open, the model's choices are those of log 20, 47 and 51. -/
def Obligations.ResetState : Prop :=
  TurnLegal State.reset ∧ (∀ k, (State.reset.coreAt k).power = .off) ∧ (∀ c, (State.reset.contextAt c).state = .free) ∧
    (∀ q, (State.reset.queueAt q).state = .disabled) ∧ (∀ g, (State.reset.groupAt g).state = .none) ∧
    State.reset.feats = 0#128 ∧ State.reset.device.state = 0#4 ∧ State.reset.device.faccept = 0#128 ∧
    State.reset.turn = .pending 0 ∧ State.reset.pending = [.powerOn] ∧ State.reset.MemWf

/-! ## Scalar instructions -/

/-- R27, R62, R78 to R81: each row's result is written to its destination, and the instruction retires. -/
def Sys2Proof.Claims.ScalarResults : Prop :=
  ∀ i r (s : State), scalarRow i = some r → r.ready s → exec i s = .next ((s.setX r.dest (r.value s)).retire r.bytes)

/-- R81: CLZ and CTZ count the zeros before the first set bit, POPC the set bits, BSWAP reverses the bytes. -/
def Sys2Proof.Claims.BitCounts : Prop :=
  ∀ (d a : BitVec 4) (s : State), Clear s [a, d] [] →
    (∃ n, exec (.clz d a) s = .next ((s.setX d (BitVec.ofNat 32 n)).retire 4#32) ∧ n ≤ 32 ∧
      (∀ k, 32 - n ≤ k → k < 32 → ¬ bitOf (s.x a) k) ∧ (n < 32 → bitOf (s.x a) (31 - n))) ∧
    (∃ n, exec (.ctz d a) s = .next ((s.setX d (BitVec.ofNat 32 n)).retire 4#32) ∧ n ≤ 32 ∧
      (∀ k, k < n → ¬ bitOf (s.x a) k) ∧ (n < 32 → bitOf (s.x a) n)) ∧
    (exec (.popc d a) s = .next ((s.setX d (BitVec.ofNat 32 ((List.range 32).countP fun k => (s.x a).getLsbD k))).retire 4#32)) ∧
    (∃ w, exec (.bswap d a) s = .next ((s.setX d w).retire 4#32) ∧ ∀ k, k < 4 → byteOf w k = byteOf (s.x a) (3 - k))

/-- R78 to R81: the words of the rules, and they alone, mean these instructions; the fields that must be zero are, and func8 0x03 of major
0x01 is illegal. -/
def Sys2Proof.Claims.ScalarWords : Prop :=
  (∀ i w, aluWord i = some w → decode w = .ok i) ∧
  (∀ i w v, aluWord i = some w → v < 2 ^ 32 → decode v = .ok i → v = w) ∧
  (∀ b d a : BitVec 4, ∃ r, decode (rrWord 1 0x03 b d a) = .error r)

/-- What an instruction of R78 to R81 leaves alone: every register but its destination, x0 among them whatever the destination, the special
registers, vectors, maps, all of memory, and everything outside the core. -/
def Sys2Proof.Claims.ScalarFrame : Prop :=
  ∀ i r (s t : State), scalarRow i = some r → r.ready s → exec i s = .next t →
    OtherRegs r.dest s t ∧ t.xAt s.who 0#4 = 0#32 ∧ SameMemory s t ∧ SameOutside s t ∧
      ∀ j, SameTask (s.taskAt j) (t.taskAt j)

/-- R27: DIV and REM round towards zero: the dividend is the divisor times the quotient plus the remainder, the remainder is smaller than
the divisor and has the dividend's sign; DIVN and REMN do the same on unsigned values; a divisor of 0 gives all ones and the dividend,
−2^31 ÷ −1 gives −2^31 and 0; none of them traps. -/
def Obligations.DivisionLaw : Prop :=
  ∀ (b d a : BitVec 4) (s : State), Clear s [a, b, d] [] → ∃ q r p m : Word,
    exec (.div b d a) s = .next ((s.setX d q).retire 4#32) ∧ exec (.rem b d a) s = .next ((s.setX d r).retire 4#32) ∧
    exec (.divn b d a) s = .next ((s.setX d p).retire 4#32) ∧ exec (.remn b d a) s = .next ((s.setX d m).retire 4#32) ∧
    (s.x b = 0#32 → q = 0xFFFFFFFF#32 ∧ p = 0xFFFFFFFF#32 ∧ r = s.x a ∧ m = s.x a) ∧
    (s.x a = 0x80000000#32 → s.x b = 0xFFFFFFFF#32 → q = 0x80000000#32 ∧ r = 0#32) ∧
    (s.x b ≠ 0#32 → ¬(s.x a = 0x80000000#32 ∧ s.x b = 0xFFFFFFFF#32) →
      (s.x a).toInt = (s.x b).toInt * q.toInt + r.toInt ∧ r.toInt.natAbs < (s.x b).toInt.natAbs ∧
      (r = 0#32 ∨ (r.toInt < 0 ↔ (s.x a).toInt < 0))) ∧
    (s.x b ≠ 0#32 → (s.x a).toNat = (s.x b).toNat * p.toNat + m.toNat ∧ m.toNat < (s.x b).toNat)

/-- R85: a completing instruction of a task context counts once; without an armed loop ending at it, it goes on behind itself. -/
def Sys2Proof.Claims.RetireAdvances : Prop :=
  ∀ (s : State) (n : Word), s.inHandler = false → (∀ l : Fin 2, s.task.lc[l] = 0#32 ∨ s.task.le[l] ≠ s.task.pc) →
    (s.retire n).task = { s.task with pc := s.task.pc + n, instret := s.task.instret + 1#32, run := .running }

/-- The loop-back decision of loop 0 alone, behind an instruction of n bytes: where the context goes, and what is left of the count (R85). -/
def Sys2Proof.Claims.loopZero (s : State) (n : Word) : Word × Word :=
  let c := s.task.lc[(0 : Fin 2)]
  if c ≠ 0#32 ∧ s.task.le[(0 : Fin 2)] = s.task.pc then
    (if c = 1#32 then s.task.pc + n else s.task.ls[(0 : Fin 2)] &&& 0xFFFFFFFE#32, c - 1#32)
  else (s.task.pc + n, c)

/-- R54, R85: at the end of the body of an armed loop its count goes down by one, VL is set, and the body starts again, at ls with bit 0
cleared, unless the count is then 0; loop 1 is examined before loop 0, which is examined when loop 1 is not armed, ends elsewhere, or has
just ended. -/
def Sys2Proof.Claims.LoopBack : Prop :=
  (∀ (s : State) (n : Word), s.inHandler = false → s.task.lc[(1 : Fin 2)] ≠ 0#32 → s.task.le[(1 : Fin 2)] = s.task.pc →
    s.task.lc[(1 : Fin 2)] ≠ 1#32 →
    (s.retire n).task.pc = s.task.ls[(1 : Fin 2)] &&& 0xFFFFFFFE#32 ∧ (s.retire n).task.lc[(1 : Fin 2)] = s.task.lc[(1 : Fin 2)] - 1#32 ∧
      (s.retire n).task.lc[(0 : Fin 2)] = s.task.lc[(0 : Fin 2)] ∧ (s.retire n).task.vl = true) ∧
  (∀ (s : State) (n : Word), s.inHandler = false → s.task.lc[(1 : Fin 2)] = 1#32 → s.task.le[(1 : Fin 2)] = s.task.pc →
    (s.retire n).task.pc = (loopZero s n).1 ∧ (s.retire n).task.lc[(1 : Fin 2)] = 0#32 ∧
      (s.retire n).task.lc[(0 : Fin 2)] = (loopZero s n).2 ∧ (s.retire n).task.vl = true) ∧
  (∀ (s : State) (n : Word), s.inHandler = false → (s.task.lc[(1 : Fin 2)] = 0#32 ∨ s.task.le[(1 : Fin 2)] ≠ s.task.pc) →
    s.task.lc[(0 : Fin 2)] ≠ 0#32 → s.task.le[(0 : Fin 2)] = s.task.pc →
    (s.retire n).task.pc = (loopZero s n).1 ∧ (s.retire n).task.lc[(0 : Fin 2)] = (loopZero s n).2 ∧
      (s.retire n).task.lc[(1 : Fin 2)] = s.task.lc[(1 : Fin 2)] ∧ (s.retire n).task.vl = true)

/-- R62, R63, R82, R83: a branch goes to PC + 2 × its sign-extended offset when its condition holds and behind itself when not; a jump
writes its link, a 16-bit one PC + 2, and goes to its target, a register's with bit 0 cleared and 25 bits. -/
def Sys2Proof.Claims.BranchesAndJumps : Prop :=
  (∀ (o : BitVec 16) (a b : BitVec 4) (s : State), Clear s [a, b] [] →
    let go (p : Prop) [Decidable p] : State := if p then s.jump (s.pc + 2#32 * o.signExtend 32) else s.retire 4#32
    exec (.beq o a b) s = .next (go (s.x a = s.x b)) ∧ exec (.bne o a b) s = .next (go (s.x a ≠ s.x b)) ∧
    exec (.blt o a b) s = .next (go ((s.x a).toInt < (s.x b).toInt)) ∧
    exec (.bge o a b) s = .next (go ((s.x b).toInt ≤ (s.x a).toInt)) ∧
    exec (.bltn o a b) s = .next (go ((s.x a).toNat < (s.x b).toNat)) ∧
    exec (.bgen o a b) s = .next (go ((s.x b).toNat ≤ (s.x a).toNat))) ∧
  (∀ (r : BitVec 4) (o : BitVec 7) (s : State), Clear s [r, 0#4] [] →
    let go (p : Prop) [Decidable p] : State := if p then s.jump (s.pc + 2#32 * o.signExtend 32) else s.retire 2#32
    exec (.cBeqz r o) s = .next (go (s.x r = 0#32)) ∧ exec (.cBnez r o) s = .next (go (s.x r ≠ 0#32))) ∧
  (∀ (o : BitVec 16) (d h : BitVec 4) (s : State), Clear s [d] [] →
    exec (.jal o d h) s = .next ((s.setX d (s.pc + 4#32)).jump (s.pc + 2#32 * (h ++ o).signExtend 32))) ∧
  (∀ (o : BitVec 11) (s : State), Clear s [0#4] [] → exec (.cJ o) s = .next (s.jump (s.pc + 2#32 * o.signExtend 32))) ∧
  (∀ (i : BitVec 16) (d a : BitVec 4) (s : State), Clear s [a, d] [] →
    exec (.jalr i d a) s = .next ((s.setX d (s.pc + 4#32)).jump ((s.x a + i.signExtend 32) &&& 0x01FFFFFE#32))) ∧
  (∀ (r : BitVec 4) (s : State), Clear s [r, 0#4] [] → exec (.cJr r) s = .next (s.jump (s.x r &&& 0x01FFFFFE#32))) ∧
  (∀ (r : BitVec 4) (s : State), Clear s [r, 1#4] [] → exec (.cJalr r) s = .next ((s.setX 1#4 (s.pc + 2#32)).jump (s.x r &&& 0x01FFFFFE#32))) ∧
  (∀ (s : State), Clear s [1#4, 0#4] [] → exec .cRet s = .next (s.jump (s.x 1#4 &&& 0x01FFFFFE#32)))

/-- R84: LSET arms its loop with the count, the start and the end, and sets VL; a count of 0 goes on behind the instruction at the
end.
Where the spec leaves it open, the model's choices are those of log 21. -/
def Sys2Proof.Claims.HardwareLoops : Prop :=
  (∀ (e : BitVec 10) (o : BitVec 6) (l : BitVec 1) (c : BitVec 6) (s : State), InTask s → Clear s [] [] → c ≠ 0#6 →
    exec (.lset e o l c) s = .next ((s.modT (TaskCtx.arm l (c.setWidth 32) s.pc o.toNat e.toNat)).retire 4#32)) ∧
  (∀ (e : BitVec 10) (o : BitVec 6) (l : BitVec 1) (r : BitVec 4) (s : State), InTask s → Clear s [r] [] → s.x r ≠ 0#32 →
    exec (.lsetReg e o l r) s = .next ((s.modT (TaskCtx.arm l (s.x r) s.pc o.toNat e.toNat)).retire 4#32)) ∧
  (∀ (e : BitVec 10) (o : BitVec 6) (l : BitVec 1) (r : BitVec 4) (s : State) h, InTask s → Clear s [r] [] → s.x r = 0#32 →
    s.codeNode.half (s.pc + BitVec.ofNat 32 (2 * e.toNat)).toNat = some h →
    exec (.lsetReg e o l r) s = .next ((s.modT (TaskCtx.arm l 0#32 s.pc o.toNat e.toNat)).jump
      (s.pc + BitVec.ofNat 32 (2 * e.toNat) + BitVec.ofNat 32 (instrBytes h))))

/-! ## Every event row completes

One clause for each row of the opcode table that is an event of the part and no encoded word: under conditions on the state and the
event alone, exec of the row answers the next state that the row's own effect gives. What these effects are in the terms of the rules, the
statements behind these say. -/

namespace Sys2Proof.Claims

/-- The packet at ri of a bound queue is r (R302); w is the state in which its ring has been read. -/
abbrev PacketIs (s : State) (q : Nat) (r : Rec) (w : State) : Prop := s.examine q = (.packet r, w)

/-- Nothing keeps the packet at ri back (R301): no barrier, or nothing in flight. -/
abbrev Ungated (s : State) (q : Nat) (r : Rec) : Prop := r[0].getLsbD 24 = false ∨ (s.queueAt q).inflight = 0

/-- Bits 31 to 27 of a packet's header are zero, and S where its type has none (R296). -/
abbrev HeaderGood (r : Rec) : Prop := r[0].toNat < 2 ^ 27

/-- A packet has passed the gate of B: its queue waits for it no more (R301). -/
abbrev passed (q : Nat) (w : State) : State := w.modQueue q fun u => { u with waitB := false }

/-- The command in hand has an opcode, reserved bits that are zero, and a context that is not FREE (R371). -/
abbrev CommandIs (s : State) (op : Nat) : Prop :=
  s.commandReady = true ∧ s.cmdOp = op ∧ bits (s.cmdW 0) 8 24 = 0 ∧ (s.contextAt s.cmdCtx).state ≠ .free

/-- The command ended with a status and two result words; its vector, if enabled, was raised; nothing else is changed (R371). -/
def CommandEnds (s t : State) (st : Status) (r0 r1 : Nat) : Prop :=
  t.device.busy = false ∧ t.device.status = st.code ∧ t.device.opcode = BitVec.ofNat 8 s.cmdOp ∧
  t.device.hres0 = BitVec.ofNat 32 r0 ∧ t.device.hres1 = BitVec.ofNat 32 r1 ∧
  (let v := bits s.device.hcmdvec.toNat 0 11
   let raised := s.device.hcmdvec.getLsbD 31 && !s.device.msixMask.getLsbD v
   t.msix = (if raised then s.msix ++ [v] else s.msix) ∧
   t.device.msixPend = (if s.device.hcmdvec.getLsbD 31 && s.device.msixMask.getLsbD v then s.device.msixPend ||| 1#2048 <<< v
     else s.device.msixPend)) ∧
  { t with device := s.device, msix := s.msix } = s

end Sys2Proof.Claims

/-- R53, R61, R72 to R77, R90 to R98, R138 to R150, R160 to R189, R216 to R231, R262, R279 to R282, R320, R321, R375: each event of a core, a cluster, a task and a group completes:
feTimeout, remoteBusyResend, idleTimeout, asynchronousTrap, coreHang, coreLeaveGroup, illegalOp, codeRange, barrierOperation, barrierWaitResend,
engineArrival, dbarNotification, barrierReply, arrayCommandTurn, tokenPush, prtLanding, leaseGrant, slotEnd, slotTableWrite, loadReply,
storeAck, remoteNack, messageAccept, remoteLoad, remoteStore, feLoad, feStore, localAtomic, feWake, mailboxArrival, steal, stealReply,
stealIssue, stealBackoffEnd, ownerPop, joinDecrement, continuationDelivery, deliveryResend, deliveryBusy, activeMessage, handlerBudget,
terminationProbe, terminationWave, terminationWaveEnd, debugHaltRequest, coreClockCycle, retentionLoss, scrubber.
Where the spec leaves it open, the model's choices are those of log 1, 10, 19, 23, 36 and 43. -/
def Obligations.CoreEventsComplete : Prop :=
  (∀ (s : State) owner wait m, Performs s (.feTimeout owner wait) → ((s.coreAt owner).parkedFe.find? fun m => m.wait == wait) = some m →
    exec .feTimeout s = .next ((s.withdrawFe owner wait).feTimedOut m)) ∧
  (∀ (s : State) m, Performs s (.remoteBusyResend m false) →
    exec .remoteBusyResend s = .next (s.send m.group m.src.core m.dst (if feIsLoad m.op = true then .feLoad m else .feStore m))) ∧
  (∀ (s : State) k x, Performs s (.idleTimeout k x) → exec .idleTimeout s = .next (s.modTask ⟨k, x⟩ TaskCtx.endIdle)) ∧
  (∀ (s : State) k x tr rest, Performs s (.asynchronousTrap k x) → x ≠ .handler → (s.taskAt ⟨k, x⟩).traps = tr :: rest →
    (s.taskAt ⟨k, x⟩).trapDue = true → (s.taskAt ⟨k, x⟩).anyPending = false →
    exec .asynchronousTrap s = .next ((s.modTask ⟨k, x⟩ fun t => { t with traps := rest }).trapAt ⟨k, x⟩ tr)) ∧
  (∀ (s : State) k x, Performs s (.coreHang k x) → (s.taskAt ⟨k, x⟩).run = .running →
    exec .coreHang s = .next (s.escalateAt ⟨k, x⟩ .coreHang (BitVec.ofNat 32 k) (s.taskAt ⟨k, x⟩).pc)) ∧
  (∀ (s : State) k, Performs s (.coreLeaveGroup k) → (s.coreAt k).power = .bound → (s.coreAt k).tc0.run = .left →
    (s.coreAt k).tc1.run = .left → (s.coreAt k).quiet = true → s.atomicOpen k = false → (s.coreAt k).succ = none →
    exec .coreLeaveGroup s = .next ((s.turnAway k).powerOff k)) ∧
  (∀ (s : State) w, Performs s (.illegalOp w) → exec .illegalOp s = .next (s.trap .illegalOp w)) ∧
  (∀ (s : State) w, (Performs s (.codeRange w false) → exec .codeRange s = .next (s.trap .codeRange w)) ∧
    (Performs s (.codeRange w true) → exec .codeRange s = .next (s.trap .permExec w))) ∧
  (∀ (s : State) m v t, Performs s (.barrierOperation m) →
    (∀ c va, m.place = .vault c va → s.barPerform m = (.value v, t) →
      exec .barrierOperation s = .next (t.barAnswer m (barReply m v none))) ∧
    (∀ k a, m.place = .loc k a → (s.groupAt m.group).stored = false → (s.coreAt k).group = m.group → s.handlerFree k = true →
      ((s.passMailbox 5 m.src.core k (.barrierOperation m)).accept m.group m.src.core k).barPerform m = (.value v, t) →
      exec .barrierOperation s = .next (t.barAnswer m (barReply m v none)))) ∧
  (∀ (s : State) m, Performs s (.barrierWaitResend m) →
    (∀ k a, m.place = .loc k a → exec .barrierWaitResend s = .next (s.send m.group m.src.core k (.barrierOperation m))) ∧
    (∀ c v, m.place = .vault c v → exec .barrierWaitResend s = .next (s.post (.barrierOperation m)))) ∧
  (∀ (s : State) a r pa r', Performs s (.engineArrival a) → s.barAt a.place (s.arrivalGroup a) .atomic = .found r pa → barRejects false r = false →
    (a.poison = true → exec .engineArrival s =
      .next (((s.barTouch a.place .atomic).barPut a.place pa (setRecField 0 3 1 1 r)).wakeAll a.place .bwait 1#32)) ∧
    (a.poison = false → barCredit a.coreid a.sel a.chunk r = some r' → exec .engineArrival s =
      .next (((s.barTouch a.place .atomic).barTestPhase a.place pa r').tellEngine a none))) ∧
  (∀ (s : State) n g k, Performs s (.dbarNotification n) → s.notified n = some (g, k) → (s.groupAt g).stored = false →
    (s.groupAt g).state ≠ .preempting → (s.coreAt k).group = g → exec .dbarNotification s = .next (s.disArrive k n)) ∧
  (∀ (s : State) r, Performs s (.barrierReply r) →
    (r.src = none → exec .barrierReply s = .next (s.barResult r)) ∧
    (∀ k g, r.src = some (k, g) → s.handlerFree r.dst.core = true → exec .barrierReply s =
      .next (((s.passMailbox 0 k r.dst.core (.barrierReply r)).accept g k r.dst.core).barResult r))) ∧
  (∀ (s : State) k b c rest, Performs s (.arrayCommandTurn k b) → ((s.clusterAt k).bank b).stream = c :: rest →
    (s.clusterAt k).turnDue b = true → exec .arrayCommandTurn s = .next (s.runHead k b c)) ∧
  (∀ (s : State) i tk, Performs s (.tokenPush i tk) → exec .tokenPush s = .next (s.modTask i fun c =>
    { c with tokens := c.tokens ++ [tk], ocnt := { c.ocnt with cmds := c.ocnt.cmds - 1 } }.endIdle)) ∧
  (∀ (s : State) k b g n toW tile, Performs s (.prtLanding k b g n toW tile) →
    exec .prtLanding s = .next (s.modCluster k (Cluster.modBank b (Bank.landTile ⟨g, n, toW, tile⟩)))) ∧
  (∀ (s : State) k b e rest, Performs s (.leaseGrant k b) → s.canGrant k b = true → ((s.clusterAt k).bank b).leases = e :: rest →
    ∃ t, exec .leaseGrant s = .next t ∧ ((t.clusterAt k).bank b).held = some e ∧ ((t.clusterAt k).bank b).leases = rest) ∧
  (∀ (s : State) k, Performs s (.slotEnd k) → ∃ t, exec .slotEnd s = .next t ∧ (t.clusterAt k).slot = ((s.clusterAt k).slot + 1) % 16) ∧
  (∀ (s : State) k w, Performs s (.slotTableWrite k none w) →
    ∃ t, exec .slotTableWrite s = .next t ∧ (t.clusterAt k).slot = 0 ∧ (t.clusterAt k).pslen = w.setWidth 16) ∧
  (∀ (s : State) (r : Reply), Performs s (.loadReply r) →
    (r.src = none → exec .loadReply s = .next (s.takeReply r)) ∧
    (∀ k g, r.src = some (k, g) → s.handlerFree r.dst.core = true → exec .loadReply s =
      .next (((s.passMailbox 0 k r.dst.core (.loadReply r)).accept g k r.dst.core).takeReply r))) ∧
  (∀ (s : State) i, Performs s (.storeAck i) → exec .storeAck s = .next (s.endStoreAt i)) ∧
  (∀ (s : State) (n : Nack), Performs s (.remoteNack n) → (s.groupAt n.group).stored = false → (s.coreAt n.to_.core).group = n.group →
    exec .remoteNack s = .next (s.nacked n)) ∧
  (∀ (s : State) i, Performs s (.messageAccept i) → i.ctx ≠ .handler → exec .messageAccept s = .next (s.modTask i TaskCtx.endMsg)) ∧
  (∀ (s : State) m, Performs s (.remoteLoad m) → exec .remoteLoad s =
    .next (s.atOwner 1 m.src m.group m.dst (.remoteLoad m) (.load (.x m.reg) false false) fun s =>
      (s.loopRead m).2.answer m.group m.dst m.src.core
        (.loadReply ⟨m.src, .x m.reg, (s.loopRead m).1.setWidth 256, false, false, none, some (m.dst, m.group)⟩))) ∧
  (∀ (s : State) m, Performs s (.remoteStore m) → exec .remoteStore s =
    .next (s.atOwner 2 m.src m.group m.dst (.remoteStore m) .store fun s =>
      (s.setLocalWord m.dst m.off m.data).postTo m.group (.storeAck m.src))) ∧
  (∀ (s : State) m, Performs s (.feLoad m) →
    exec .feLoad s = .next (s.atOwner 3 m.src m.group m.dst (.feLoad m) (.load (.x m.reg) true false) (State.feRemote m))) ∧
  (∀ (s : State) m, Performs s (.feStore m) →
    exec .feStore s = .next (s.atOwner 4 m.src m.group m.dst (.feStore m) .store (State.feRemote m))) ∧
  (∀ (s : State) m old, Performs s (.localAtomic m) → m.old = some old → exec .localAtomic s = .next (s.amoWrite m old)) ∧
  (∀ (s : State) i k g, Performs s (.feWake (.feStore i k g)) → s.handlerFree i.core = true → exec .feWake s =
    .next ((((s.passMailbox 12 k i.core (.feWake (.feStore i k g))).accept g k i.core).endStoreAt i).wakeIdle i.core)) ∧
  (∀ (s : State) i r v k g, Performs s (.feWake (.feLoad i r v k g)) → s.handlerFree i.core = true → exec .feWake s =
    .next ((((s.passMailbox 12 k i.core (.feWake (.feLoad i r v k g))).accept g k i.core).takeReply
      ⟨i, .x r, v.setWidth 256, true, false, none, none⟩).wakeIdle i.core)) ∧
  (∀ (s : State) (m : AmMsg), Performs s (.mailboxArrival m) → m.part = s.partAddr → s.reach m.dst m.ctx false = .here →
    (s.coreAt m.dst).mbCount < 32 →
    exec .mailboxArrival s = .next ((s.accept m.group m.src.core m.dst).modCore m.dst (Core.land m))) ∧
  (∀ (s : State) k v, Performs s (.steal k v) →
    let t := s.accept (s.coreAt k).group k v
    ((t.coreAt v).dq.held = 0 →
      exec .steal s = .next (t.send (s.coreAt k).group v k (.stealReply k v none none))) ∧
    (t.groupRuns v = true → (t.coreAt v).group = (s.coreAt k).group → 0 < (t.coreAt v).dq.held →
      let a := 0x7000 + 64 * ((t.coreAt v).dq.top.toNat % 32)
      exec .steal s = .next (((t.modCore v fun c => { c.setMark a none with dq := { c.dq with top := c.dq.top + 1#16 } }).pushWaiters v).send
        (s.coreAt k).group v k (.stealReply k v (some ((t.coreAt v).lm.rec a)) ((t.coreAt v).marks.find a))))) ∧
  (∀ (s : State) k v, Performs s (.stealReply k v none none) →
    let t := s.accept (s.coreAt k).group v k
    exec .stealReply s = .next ((t.modCore k fun c => { c with dq := c.dq.replied (t.stealDomain k).length true }).pushWaiters k)) ∧
  (∀ (s : State) k, Performs s (.stealIssue k) → s.canSteal k = true → ∃ t : State, ∃ v,
    exec .stealIssue s = .next (t.send (s.coreAt k).group k v (.steal k v)) ∧ (t.coreAt k).dq.reserved = true ∧ t.pending = s.pending) ∧
  (∀ (s : State) k, Performs s (.stealBackoffEnd k) →
    exec .stealBackoffEnd s = .next (s.modCore k fun c => { c with dq := { c.dq with backoff := false } })) ∧
  (∀ (s : State) k x, Performs s (.ownerPop k x) → s.canPop k x = true →
    let a := 0x7000 + 64 * (((s.coreAt k).dq.bottom - 1#16).toNat % 32)
    exec .ownerPop s = .next (((((s.modCore k fun c => { c with dq := { c.dq with bottom := (s.coreAt k).dq.bottom - 1#16 } }).dropL1 k).takeUp
      ⟨k, x⟩ a ((s.coreAt k).lm.rec a) ((s.coreAt k).marks.find a)).pushWaiters k))) ∧
  (∀ (s : State) f src g, Performs s (.joinDecrement f src g) → (s.groupAt g).stored = false → (s.groupAt g).state ≠ .preempting →
    (s.coreAt (frameOwner f)).group = g → (s.coreAt (frameOwner f)).power = .bound → s.handlerFree (frameOwner f) = true →
    exec .joinDecrement s = .next ((s.accept g src.core (frameOwner f)).joinAt g f)) ∧
  (∀ (s : State) d k t, Performs s (.continuationDelivery d) → (s.groupAt d.group).stored = false → (s.groupAt d.group).state ≠ .preempting →
    s.deliverTo d = some k → s.pushDelivery k d = some t → exec .continuationDelivery s = .next t) ∧
  (∀ (s : State) d, Performs s (.deliveryResend d) → exec .deliveryResend s = .next (s.post (.continuationDelivery d))) ∧
  (∀ (s : State) d, Performs s (.deliveryBusy d) →
    exec .deliveryBusy s = .next (s.escalateCore ((s.deliverTo d).getD d.dst) .deliveryBusy (BitVec.ofNat 32 d.dst))) ∧
  (∀ (s : State) k, Performs s (.activeMessage k) → s.canHandle k = true →
    let entry := 0x7800 + 32 * ((s.coreAt k).mbHead % 32)
    let cls := ((s.coreAt k).lm.word entry).toNat % 64
    let h := (s.coreAt k).lm.word ((s.coreAt k).hbase.toNat + 4 * cls)
    h.getLsbD 31 = true → s.kernelOf (s.coreAt k).group (h.toNat / 2 ^ 28 % 4) ≠ none →
    exec .activeMessage s = .next ((s.dropL1 k).modCore k (Core.beginRun entry cls h))) ∧
  (∀ (s : State) k, Performs s (.handlerBudget k) → (s.coreAt k).hd.running = true → (s.coreAt k).hd.budget = 0 →
    exec .handlerBudget s = .next (s.escalateAt ⟨k, .handler⟩ .handlerBudget ((s.coreAt k).hd.cls.setWidth 32) (s.coreAt k).hd.pc)) ∧
  (∀ (s : State) g, Performs s (.terminationWave g) → (s.groupAt g).state = .running → (s.groupAt g).kernel = .running →
    (s.groupAt g).waveOn = false → ∃ t, exec .terminationWave s = .next t ∧ (t.groupAt g).waveOn = true ∧
      t.pending = s.pending ++ (List.range (s.groupAt g).cores.length).map (.terminationProbe g)) ∧
  (∀ (s : State) g rank k, Performs s (.terminationProbe g rank) → (s.groupAt g).waveOn = true → (s.groupAt g).cores[rank]? = some k →
    ∃ t, exec .terminationProbe s = .next t ∧ (t.groupAt g).answered = (s.groupAt g).answered + 1 ∧
      (t.groupAt g).sumSent = (s.groupAt g).sumSent + (SMap.get {} (s.groupAt g).counts k : Counts).sent ∧
      (t.groupAt g).sumRecv = (s.groupAt g).sumRecv + (SMap.get {} (s.groupAt g).counts k : Counts).received) ∧
  (∀ (s : State) g, Performs s (.terminationWaveEnd g) → (s.groupAt g).state = .running → (s.groupAt g).waveOn = true →
    (s.groupAt g).answered = (s.groupAt g).cores.length → (s.groupAt g).sumWrap = false → ∃ t, exec .terminationWaveEnd s = .next t ∧
      (t.groupAt g).waveOn = false ∧ (t.groupAt g).lastWave = some ((s.groupAt g).sumIdle, (s.groupAt g).sumSent, (s.groupAt g).sumRecv) ∧
      ((t.groupAt g).kernel = .draining ∨ t.pending = s.pending ++ [.terminationWave g])) ∧
  (∀ (s : State) k x, Performs s (.debugHaltRequest k x) →
    exec .debugHaltRequest s = .next (s.asyncTrap ⟨k, x⟩ ⟨.debugHalt, true, 0#32⟩)) ∧
  (∀ (s : State), exec .coreClockCycle s = .next { s with cores := s.cores.map fun e =>
    (e.1, if e.2.power = .bound ∨ e.2.power = .saving then { e.2 with cycle := e.2.cycle + 1#64, divider := e.2.divider - 1 } else e.2) }) ∧
  (∀ (s : State) k, Performs s (.retentionLoss k) → (s.coreAt k).power = .reserved →
    exec .retentionLoss s = .next (s.escalateCore k .retentionLoss (BitVec.ofNat 32 k))) ∧
  (∀ (s : State), (∀ e, Performs s (.softError e) → exec .scrubber s = .next (s.storageError e)) ∧
    (∀ pa es, Performs s (.memoryError pa es) → exec .scrubber s = .next (s.granuleError pa es)) ∧
    (∀ k, Performs s (.scrubber k) → ((s.coreAt k).power = .off ∨ (s.coreAt k).power = .holding) →
      exec .scrubber s = .next (s.count .localScrub)))

/-- R190 to R213, R256 to R274, R279 to R282, R299 to R310, R323, R337 to R359, R375: each event of a slice, the pager, a transfer and the fabric completes:
localGather, localScatterAdd, chunkDelivered, chunkFault, transferStop, transferStall, rowRequest, gatherRow, scatterAddRow, sketchHalve,
sliceRequest, victimPieceStore, victimPieceRecall, pagerMap, pagerFail, pagerRevive, pagerReclaim, pagerDiscard, pagerTimeout,
parkedDelivery, migrationBegin, migrationEnd, shootdown, shootdownTimeout, taskMigrate, hostCompletion, hostCompletionTimeout,
hostLinkDown, fabricRequest, retryResend, linkRetrain, flitUncorrectable, linkDown, detourSet, sendHeader, sendAnswer, sendResend, rnrTimeout,
pullRead, payloadArrival, landingComplete, enqRequest, enqAnswer, triggerArrival.
Where the spec leaves it open, the model's choices are those of log 11, 25, 33, 35, 40 and 41. -/
def Obligations.MemoryAndFabricEventsComplete : Prop :=
  (∀ (s : State) core slot m, Performs s (.localGather core slot m) → exec .localGather s =
    .next (s.atRowOwner 10 core slot m (.localGather core slot m) (State.gatherStep core slot m (State.post (.localGather core slot m))))) ∧
  (∀ (s : State) core slot m, Performs s (.localScatterAdd core slot m) → exec .localScatterAdd s =
    .next (s.atRowOwner 11 core slot m (.localScatterAdd core slot m)
      (State.scatterStep core slot m (State.post (.localScatterAdd core slot m))))) ∧
  (∀ (s : State) core slot k, Performs s (.chunkDelivered core slot k) → s.chunkReady core slot k = true →
    ((s.slotT core slot).isCopy = true → exec .chunkDelivered s = .next (s.copyChunk core slot k)) ∧
    ((s.slotT core slot).isCopy = false → exec .chunkDelivered s = .next (s.credit core slot k))) ∧
  (∀ (s : State) core slot k c v, Performs s (.chunkFault core slot k c v) → (s.slotT core slot).state = .active → ∃ u : State,
    exec .chunkFault s = .next ((u.poisonBar core slot).tryEnd core slot) ∧ (u.slotT core slot).fault ≠ none) ∧
  (∀ (s : State) core slot, Performs s (.transferStop core slot) → s.stopsTransfers core = true → (s.slotT core slot).state = .active →
    (s.slotT core slot).sent = [] → (s.slotT core slot).fault = none → (s.slotT core slot).begun = [] → s.slotHalf core slot = false →
    (s.slotT core slot).kind ≠ .send →
    exec .transferStop s = .next ((s.dropSlotEvents core slot).modSlot core slot fun t =>
      { t with state := .saved, issued := t.landedPieces, heard := t.landedPieces, writes := [] })) ∧
  (∀ (s : State) core slot, Performs s (.transferStall core slot) → (s.slotT core slot).state = .active → exec .transferStall s =
    .next (s.escalateAt ((s.slotT core slot).issuer core) .transferStall (transferId slot (s.slotT core slot).gen) 0#32)) ∧
  (∀ (s : State) core slot id, Performs s (.rowRequest core slot id) → s.nextRow core slot = some id → ∃ (u : State) (e : Event),
    u = (s.readIndex core slot (rowOf id)).modSlot core slot (fun t => { t with issued := t.issued ++ [id] }) ∧
    (exec .rowRequest s = .next (u.post e) ∨ ∃ owner, exec .rowRequest s = .next (u.send (u.coreAt core).group core owner e)) ∧
    (e = .localGather core slot id ∨ e = .gatherRow core slot id ∨ e = .localScatterAdd core slot id ∨ e = .scatterAddRow core slot id)) ∧
  (∀ (s : State) core slot m, Performs s (.gatherRow core slot m) →
    exec .gatherRow s = .next (s.gatherStep core slot m (State.post (.gatherRow core slot m)))) ∧
  (∀ (s : State) core slot m, Performs s (.scatterAddRow core slot m) →
    exec .scatterAddRow s = .next (s.scatterStep core slot m (State.post (.scatterAddRow core slot m)))) ∧
  (∀ (s : State) k, Performs s (.sketchHalve k) → 2 ^ 20 ≤ (s.sliceAt k).class2 → exec .sketchHalve s =
    .next { s with slices := s.slices.put k { s.sliceAt k with
      sketch := (s.sliceAt k).sketch.map fun e => (e.1, e.2 / 2), class2 := (s.sliceAt k).class2 - 2 ^ 20 } }) ∧
  (∀ (s : State) a, Performs s (.sliceRequest a) → exec .sliceRequest s = .next (s.slice a)) ∧
  (∀ (s : State) k p ctx i bs v, Performs s (.victimPieceStore k p ctx i bs) →
    (s.victims.find? fun v => v.ctx == ctx && v.places.contains (k, p)) = some v → (s.coreAt k).power = .holding →
    ∃ t, exec .victimPieceStore s = .next t ∧ (t.coreAt k).lm = (s.coreAt k).lm.setBytes (512 * p) bs) ∧
  (∀ (s : State) k p v, Performs s (.victimPieceRecall k p) → (s.victims.find? fun v => v.recalling && v.places.contains (k, p) &&
      !v.recalled.contains (v.places.idxOf (k, p))) = some v → v.stored < v.places.length →
    exec .victimPieceRecall s = .next (s.post (.victimPieceRecall k p))) ∧
  (∀ (s : State) k p v l, Performs s (.victimPieceRecall k p) → (s.victims.find? fun v => v.recalling && v.places.contains (k, p) &&
      !v.recalled.contains (v.places.idxOf (k, p))) = some v → v.places.length ≤ v.stored → s.walk v.ctx v.va = .leaf l →
    ∃ t, exec .victimPieceRecall s = .next t ∧ (v.recalled.length + 1 ≠ v.places.length → ∃ u : State, t = u.powerDown k)) ∧
  (∀ (s : State) ctx va pa, Performs s (.pagerMap ctx va pa) → exec .pagerMap s = .next (s.atPage ctx va [5] fun l s =>
    (s.giveFrame ctx l pa).elim s fun s => (s.unask ctx l).replay)) ∧
  (∀ (s : State) ctx va, Performs s (.pagerFail ctx va) → (∀ l, s.walk ctx va = .leaf l → s.parksAt ctx l = false) → exec .pagerFail s =
    .next (s.atPage ctx va [1, 5] fun l s => s.failPage ctx l (if l.state = 1 then .discardWrite else .pageFault))) ∧
  (∀ (s : State) ctx va, Performs s (.pagerRevive ctx va) → exec .pagerRevive s = .next (s.atPage ctx va [1] fun l s =>
    if s.writeParked ctx l then (((s.zeroFrame l.frame l.size).setPageState l 0).unask ctx l).replay else s)) ∧
  (∀ (s : State) ctx va, Performs s (.pagerReclaim ctx va none) → exec .pagerReclaim s = .next (s.atPage ctx va [1] fun l s =>
    if s.writeParked ctx l then s else (s.setPageState l 5).freeRange ctx l.frame l.size)) ∧
  (∀ (s : State) ctx va, Performs s (.pagerDiscard ctx va) → exec .pagerDiscard s = .next (s.atPage ctx va [0] fun l s =>
    if l.kind = 0 ∧ l.p = false then s.discardPage ctx l else s)) ∧
  (∀ (s : State) ctx va l, Performs s (.pagerTimeout ctx va) → s.walk ctx va = .leaf l → s.parksAt ctx l = false →
    exec .pagerTimeout s = .next ((s.report .pagerTimeout (BitVec.ofNat 32 va) ctx 0 0).atPage ctx va [1, 5] fun l s =>
      s.failPage ctx l .pageFault)) ∧
  (∀ (s : State) id p, Performs s (.parkedDelivery id) → s.parks.find id = some p → (s.coreAt p.core).group = p.group →
    (s.coreAt p.core).power = .bound → exec .parkedDelivery s =
    .next (State.post (.continuationDelivery ⟨p.core, p.group, p.record, p.fail, p.origin, p.traps, p.faults⟩)
      { s with parks := s.parks.del id })) ∧
  (∀ (s : State) ctx va, Performs s (.migrationBegin ctx va) → exec .migrationBegin s = .next (s.atPage ctx va [0, 4] fun l s =>
    if s.rangeBusy ctx l.base l.size then s.post (.migrationBegin ctx va) else (s.setPageState l 3).dropPage ctx l true)) ∧
  (∀ (s : State) ctx va raw l, Performs s (.migrationEnd ctx va raw) →
    let l' : Leaf := { l with raw := raw.toNat }
    s.walk ctx va = .leaf l → l.state = 3 → l'.wellFormed (s.feature 9) = true → s.populated l'.kind l'.frame (l'.frame + l'.size) = true → l'.state = 0 →
    l'.run = l.run → raw.getLsbD 0 = true → exec .migrationEnd s =
      .next ((((s.movePage ctx l l').writeLeaf l raw.toNat).noteMoved l l').unask ctx l).replay) ∧
  (∀ (s : State) ctx lo hi, Performs s (.shootdown ctx lo hi) →
    (s.rangeBusy ctx lo (hi + 1 - lo) = true → exec .shootdown s = .next (s.post (.shootdown ctx lo hi))) ∧
    (s.rangeBusy ctx lo (hi + 1 - lo) = false → ∃ t, exec .shootdown s = .next t ∧
      ∀ e ∈ t.slices, (∀ p ∈ e.2.pins, p.ctx = ctx → (128 * p.line + 128 ≤ lo ∨ hi < 128 * p.line)) ∧ ∀ p ∈ e.2.ptrs, p.1 ≠ ctx)) ∧
  (∀ (s : State) ctx va, Performs s (.shootdownTimeout ctx va) →
    exec .shootdownTimeout s = .next (s.report .shootdownTimeout (BitVec.ofNat 32 va) ctx 0 0)) ∧
  (∀ (s : State) k x p, Performs s (.taskMigrate k x p) → (s.taskAt ⟨k, x⟩).follow = some p → (s.taskAt ⟨k, x⟩).run = .running →
    x ≠ .handler → s.mayMigrate ⟨k, x⟩ p = true → (s.taskAt ⟨k, x⟩).ocnt.loads = 0 → (s.taskAt ⟨k, x⟩).ocnt.stores = 0 →
    (s.taskAt ⟨k, x⟩).ocnt.msgs = 0 → (s.taskAt ⟨k, x⟩).ocnt.cmds = 0 → (∀ tk ∈ (s.taskAt ⟨k, x⟩).tokens, tk.f = none) →
    (s.taskAt ⟨k, x⟩).faultIn carriedRegs [] = none → (s.taskAt ⟨k, x⟩).waitsFor carriedRegs [] = false →
    ∃ t, exec .taskMigrate s = .next t ∧ (t.taskAt ⟨k, x⟩).run = .free ∧ (t.taskAt ⟨k, x⟩).follow = none) ∧
  (∀ (s : State) id good data w, Performs s (.hostCompletion id good data) → s.away.find id = some w → w.home = none →
    exec .hostCompletion s =
      .next (if good = true then s.awayDone id (hostLanes w.acc data) else s.awayFail id .hostAbort none)) ∧
  (∀ (s : State) id w, Performs s (.hostCompletionTimeout id) → s.away.find id = some w → w.home = none →
    exec .hostCompletionTimeout s = .next (s.awayFail id .remoteUnreachable none)) ∧
  (∀ (s : State), (∀ e ∈ s.away, e.2.home ≠ none) → ∃ t, exec .hostLinkDown s = .next t ∧ t.hostUp = false ∧ t.cores = s.cores) ∧
  (∀ (s : State) h, Performs s (.fabricRequest (.header h)) → exec .fabricRequest s = .next (s.post (.sendHeader h))) ∧
  (∀ (s : State) part id age a, Performs s (.fabricRequest (.access part id age a)) → ((a.elems.map (·.2)).head?.bind s.movedTo) = none →
    exec .fabricRequest s = .next (s.serveAccess part id a (.access part id age a))) ∧
  (∀ (s : State) part id age a p, Performs s (.retryResend (.access part id age a)) → s.homeOf id = some p →
    exec .retryResend s = .next (s.toPart p (.access part id age a))) ∧
  (∀ (s : State) p, Performs s (.linkRetrain p) → exec .linkRetrain s =
    .next ({ s with records := { s.records with retrains := s.records.retrains.tally p } }.count .linkRetrain)) ∧
  (∀ (s : State) p, Performs s (.flitUncorrectable p) → exec .flitUncorrectable s =
    .next ({ s with records := { s.records with flits := s.records.flits.tally p } }.count .flitUncorrectable)) ∧
  (∀ (s : State) port, Performs s (.linkDown port) → port ∉ s.portsDown → s.away = [] → s.lands = [] → s.flight = [] → s.forwards = [] →
    ∃ t, exec .linkDown s = .next t ∧ t.portsDown = s.portsDown ++ [port]) ∧
  (∀ (s : State) p, (Performs s (.detourSet p true) → s.outstandingTo p = false →
      exec .detourSet s = .next { s with detours := s.detours.filter (· != p) ++ [p] }) ∧
    (Performs s (.detourSet p false) → s.outstandingTo p = false →
      exec .detourSet s = .next { s with detours := s.detours.filter (· != p) })) ∧
  (∀ (s : State) h e r, Performs s (.sendHeader h) → s.refuses h = false → (s.claspAt h.dctx).matching h = some (e, r) →
    exec .sendHeader s = .next (((s.modClasp h.dctx fun c => { c with list := c.list.put e { r with posted := false } }).beginLanding
      h.dctx e r h false).answerHeader h (if h.eager.isSome then .landing else .admitted))) ∧
  (∀ (s : State) core n slot resend a, Performs s (.sendAnswer core n resend a) → s.sendHome core n = .here slot →
    (s.slotT core slot).phase = (if resend = true then .resending else .asking) →
    exec .sendAnswer s = .next (s.sendAnswered core slot resend a)) ∧
  (∀ (s : State) core slot h, Performs s (.sendResend core slot) → s.canResend core slot = true → (s.slotT core slot).header = some h →
    s.headerFault h = none →
    exec .sendResend s = .next ((s.modSlot core slot fun t => { t with phase := .resending }).postHeader { h with resend := true })) ∧
  (∀ (s : State) core slot, Performs s (.rnrTimeout core slot) → s.canResend core slot = true → exec .rnrTimeout s =
    .next (s.failSend core slot .rnrTimeout (((s.slotT core slot).header.map Header.dpart).getD 0))) ∧
  (∀ (s : State) part core n landing k bytes slot vs u, Performs s (.pullRead part core n landing k bytes) → s.sendHome core n = .here slot →
    (s.slotT core slot).state ≠ .saved → s.readPayload (.pull part core slot k) core (s.slotT core slot) (512 * k)
      (Min.min bytes ((s.slotT core slot).sendLen - 512 * k)) = (.vals vs, u) →
    exec .pullRead s = .next ((u.dropFetches (.pull part core slot k)).answerPull part landing k (some vs.flatten))) ∧
  (∀ (s : State) id k bs l ws o u, Performs s (.payloadArrival id k bs) → s.lands.find id = some l → l.fault = none → l.stopped = false →
    s.landHeld l = false → l.writes k bs = some ws →
    s.engineWrite (.landing id k) l.ctx ((l.recv.map.map mapReuse).getD 0) ws = (.done o, u) → l.noPlace = false → l.recv.bar = false →
    exec .payloadArrival s =
      .next ((((u.dropFetches (.landing id k)).modLand id fun l => { l with done := l.done ++ [k] }).pullMore id).tryLanded id)) ∧
  (∀ (s : State) id l, Performs s (.landingComplete id) → s.lands.find id = some l → s.landHeld l = false → l.told = true →
    s.endsAfter l = false → s.tagWaits l = false → (s.claspAt l.ctx).rq.length < 8192 → ∃ u : State, u = s.pushRq l.ctx l.record ∧
      exec .landingComplete s = .next { u with lands := u.lands.del id }) ∧
  (∀ (s : State) m u, Performs s (.enqRequest m) → (m.local_ = true ∨ (s.queueAt m.queue).admits m.spart m.sctx = true) →
    (s.queueAt m.queue).state ≠ .disabled → (s.queueAt m.queue).prod = true → (s.queueAt m.queue).full = false →
    s.storeImage (.enq m.spart m.src.core m.src.ctx) m.queue m.img = (.done [], u) →
    exec .enqRequest s = .next (u.answerEnq m ((s.queueAt m.queue).wi <<< 16))) ∧
  (∀ (s : State) i d v, Performs s (.enqAnswer i d v true) → (s.taskAt i).run = .stalled .answer →
    exec .enqAnswer s = .next ((s.setXAt i d v).retireAt i 4#32)) ∧
  (∀ (s : State) e ctx, Performs s (.triggerArrival e ctx false) → s.triggerOwner e = some ctx →
    exec .triggerArrival s = .next ((s.modTrigger e fun t => { t with count := satInc t.count }).testTrigger e))

/-- R275 to R336, R366 to R379: each event of the queues, groups, contexts, the host's commands and the device completes: kick, suspend, resume, skip,
enable, disable, disableDrained, prioChange, launch, waitdep, waitdepPoll, signal, arm, copy, hubCopyEnd, nopPacket, malformedPacket,
stampReread, schedulingPass, ageingStep, slotQuiescent, bindRecord, bindComplete, drainEnd, groupRelease, preempt, preemptSave,
preemptTimeout, resumeGroup, spill, reload, watchdog, contextFree, ctxCreate, ctxReady, ctxReset, ctxDestroy, ctxSet, aclSet, ctxQuery,
binLoad, binUnload, followSet, dsetSet, map, unmap, unknownCommand, fcommit, ckpt, checkpointComplete, registerWrite, bar2Access, powerOn,
bringupEnd, imageReceived, imageBooted, importTimeout, importComplete, spdmRequest, pldmRequest, recordWrite, powerOff, powerLimit,
thermalLimit, droopStop, abruptLossOfPower, activeComplexStopsAnswering, keyRevocation.
Where the spec leaves it open, the model's choices are those of log 41, 46 and 51. -/
def Obligations.HostAndDeviceEventsComplete : Prop :=
  (∀ (s : State) q n, Performs s (.kick q n) → (s.queueAt q).state ≠ .disabled → (s.queueAt q).prod = false →
    (n - (s.queueAt q).ri).toNat ≤ (s.queueAt q).size → ¬ n - (s.queueAt q).ri ≤ (s.queueAt q).wi - (s.queueAt q).ri →
    exec .kick s = .next ((s.modQueue q fun u => { u with wi := n }).advanced q)) ∧
  (∀ (s : State) q, Performs s (.suspend q) → (s.queueAt q).state = .pending →
    exec .suspend s = .next ((s.stopSlot q).modQueue q fun u => { u with state := .suspended })) ∧
  (∀ (s : State) q, Performs s (.resume q) → (s.queueAt q).halted = true → s.midPacket q = false → (s.queueAt q).wi ≠ (s.queueAt q).ri →
    exec .resume s = .next (((s.dropFetches (.hub q (s.queueAt q).ri.toNat)).modQueue q fun u =>
      { u with state := .idle, ecode := 0#8, waitB := false, waitW := false, stale := 0#32 }).advanced q)) ∧
  (∀ (s : State) q, Performs s (.skip q) → (s.queueAt q).halted = true → s.midPacket q = false → (s.queueAt q).wi ≠ (s.queueAt q).ri →
    exec .skip s = .next (s.passRi q)) ∧
  (∀ (s : State) q, Performs s (.enable q) → (s.queueAt q).state = .disabled → (s.queueAt q).lsize.toNat ≤ 12 →
    (s.queueAt q).base.toNat % 4096 = 0 → (s.contextAt (s.queueAt q).ctxid.toNat).state = .ready →
    exec .enable s = .next (s.modQueue q fun u =>
      { u with state := .idle, ri := 0#32, wi := 0#32, ecode := 0#8, stale := 0#32, waitB := false, waitW := false })) ∧
  (∀ (s : State) q, Performs s (.disable q) → (s.queueAt q).state ≠ .disabled → s.midPacket q = false →
    (s.queueAt q).inflight = 0 → exec .disable s = .next (s.disableQueue q)) ∧
  (∀ (s : State) q, Performs s (.disableDrained q) → (s.queueAt q).disabling = true → (s.queueAt q).inflight = 0 →
    s.midPacket q = false → exec .disableDrained s = .next (s.disableQueue q)) ∧
  (∀ (s : State) q p, Performs s (.prioChange q p) →
    exec .prioChange s = .next ((s.modQueue q fun u => { u with prio := p, reprio := true }).requestPass)) ∧
  (∀ (s w : State) q r, PacketIs s q r w → HeaderGood r → Ungated w q r → r[0].getLsbD 25 = false →
    (Performs s (.nopPacket q) → r[0].toNat % 256 = 6 → exec .nopPacket s = .next ((passed q w).consume q id)) ∧
    (Performs s (.signal q) → (s.queueAt q).acting = none → r[0].toNat % 256 = 3 → (∀ i, (h : i < 16) → 6 ≤ i → r[i] = 0#32) → r[3].toNat < 65536 →
      r[1].toNat &&& 0xF800FFF8 = 0 → r[1].toNat % 4 < 2 → r[2].toNat % 8 = 0 →
      exec .signal s = .next ((passed q w).consume q fun s => s.signalAct q (w.queueAt q).ri r)) ∧
    (Performs s (.copy q) → r[0].toNat % 256 = 5 → (w.queueAt q).inflight < (w.queueAt q).most →
      lowestFailing r.toList (0xF8000000#32 :: copyReserved) [] = none → goodLen r[1].toNat = true → recVa r 2 3 % 4 = 0 →
      recVa r 4 5 % 4 = 0 → exec .copy s = .next ((passed q w).consume q fun t =>
        { t.modQueue q fun u => { u with inflight := u.inflight + 1 } with
          hubCopies := t.hubCopies ++ [{ queue := q, idx := (w.queueAt q).ri.toNat, packet := r }] }))) ∧
  (∀ (s w v : State) q r bs, PacketIs s q r w → HeaderGood r → Ungated v q r → lowestFailing r.toList (0xF8000000#32 :: armReserved) [] = none →
    Performs s (.arm q) → r[0].toNat % 256 = 4 → r[0].getLsbD 25 = false → (w.queueAt (r[3].toNat % 4096)).ctxid = (w.queueAt q).ctxid →
    w.triggerOwner (r[1].toNat % 1024) = some (w.queueAt q).ctxid.toNat → (w.triggerAt (r[1].toNat % 1024)).state = .free → r[2] ≠ 0#32 →
    w.engineRead (.hub q (w.queueAt q).ri.toNat) (w.queueAt q).ctxid.toNat 0 [(recVa r 4 5, 64)] = (.done bs, v) →
    packetType (recOfBytes bs) ≠ 4 → ∃ act : State → State, exec .arm s = .next ((passed q v).consume q act)) ∧
  (∀ (s w v : State) q r args, Performs s (.launch q) → PacketIs s q r w → HeaderGood r → r[0].toNat % 256 = 1 → Ungated v q r →
    (v.queueAt q).inflight < (v.queueAt q).most → lowestFailing r.toList (0xF8000000#32 :: launchReserved) [] = none →
    (w.launchAccess (w.queueAt q).ctxid.toNat r).filterMap id = [] →
    w.engineRead (.hub q (w.queueAt q).ri.toNat) (w.queueAt q).ctxid.toNat 0 [(recVa r 5 6, r[4].toNat % 8192)] = (.done args, v) →
    (v.launchChecks (w.queueAt q).ctxid.toNat r args).filterMap id = [] →
    exec .launch s = .next ((passed q v).consume q (State.requestGroup q (w.queueAt q).ri (w.queueAt q).ctxid.toNat r args))) ∧
  (∀ (s : State) q, (Performs s (.waitdep q) → exec .waitdep s = .next (s.tryWaitdep q)) ∧
    (Performs s (.waitdepPoll q) → (s.queueAt q).waitW = true → exec .waitdepPoll s = .next (s.tryWaitdep q))) ∧
  (∀ (s : State) q idx r, Performs s (.signal q) → (s.queueAt q).acting = some (idx, r) →
    exec .signal s = .next (s.signalAct q idx r)) ∧
  (∀ (s : State) q idx (c : HubCopy), Performs s (.hubCopyEnd q idx) →
    (s.hubCopies.find? fun c => c.queue == q && c.idx == idx.toNat) = some c → Rec.w c.packet 1 ≤ c.copied → packetS c.packet = false →
    exec .hubCopyEnd s = .next (s.endCopy c)) ∧
  (∀ (s : State) q r u, Performs s (.malformedPacket q) → s.examine q = (.packet r, u) → 6 < packetType r →
    exec .malformedPacket s = .next (u.failPacket q .type (packetType r))) ∧
  (∀ (s : State) q stamp u, Performs s (.stampReread q) → s.examine q = (.stale stamp, u) → (u.queueAt q).stale = 0#32 →
    exec .stampReread s =
      .next ((u.dropFetches (.hub q (u.queueAt q).ri.toNat)).modQueue q fun c => { c with stale := 1#32 })) ∧
  (∀ (s : State), Performs s .schedulingPass → s.firmware.role ≠ .importing → exec .schedulingPass s =
    .next (((((s.takePrio.queues.filter fun e => e.2.state == .bound && e.2.drained).map (·.1)).foldl (fun s q => s.stopSlot q)
      s.takePrio).bindFree 64).giveWay)) ∧
  (∀ (s : State) q, Performs s (.ageingStep q) → (s.queueAt q).state = .pending → (s.queueAt q).wi = (s.queueAt q).ri →
    ∃ t : State, exec .ageingStep s = .next t.requestPass ∧ (t.queueAt q).age = s.quantumEnd (s.queueAt q).age) ∧
  (∀ (s : State) k, Performs s (.slotQuiescent k) →
    let h : HwSlot := SMap.get {} s.hwSlots k
    h.v = true → h.stopping = true → (s.queueAt h.queue).acting = none → s.midPacket h.queue = false → (s.queueAt h.queue).state ≠ .bound →
    exec .slotQuiescent s = .next (State.requestPass { s with hwSlots := s.hwSlots.put k {} })) ∧
  (∀ (s : State) g r, Performs s (.bindRecord g r) → exec .bindRecord s = .next (s.bind g r)) ∧
  (∀ (s : State) g, Performs s (.bindComplete g) → (s.groupAt g).state = .resident →
    exec .bindComplete s = .next (s.placeRoot g)) ∧
  (∀ (s : State) g, Performs s (.drainEnd g) → (s.groupAt g).state ≠ .released → s.drainDone g = true → s.oldestFault g = none →
    exec .drainEnd s = .next ((s.dissolve g).completeLaunch g)) ∧
  (∀ (s : State) g, Performs s (.groupRelease g) → s.releaseDue g = true → (s.contextAt (s.groupAt g).ctx).state = .terminated →
    let u := if (s.groupAt g).state.live then s.modGroup g fun gr => { gr with state := .faulted } else s
    let v := ((u.withdrawGroup g).unparkGroup g).stopTransfers g
    (v.stopped g = false → exec .groupRelease s = .next (v.postOnce (.groupRelease g))) ∧
    (v.stopped g = true → exec .groupRelease s = .next ((((v.stopSaved g).dissolve g).endLaunch g).abortKernel g))) ∧
  (∀ (s : State) g, Performs s (.preempt g) → (s.groupAt g).state = .running →
    s.canPreempt g (s.comingEntries (s.groupAt g).ctx g) = true → exec .preempt s = .next (s.beginPreempt g)) ∧
  (∀ (s : State) g, Performs s (.preemptSave g) → s.quiesced g = true → s.canPreempt g 0 = true → (s.mirrorHolders g) = [] → ∃ u : State,
    exec .preemptSave s = .next (u.writeArea (s.groupAt g).ctx)) ∧
  (∀ (s : State) g, Performs s (.preemptTimeout g) → (s.groupAt g).state = .preempting → s.pageWaits g = true →
    exec .preemptTimeout s = .next (s.report .preemptTimeout (BitVec.ofNat 32 g) (s.groupAt g).ctx g 0)) ∧
  (∀ (s : State) g, Performs s (.resumeGroup g) → (s.groupAt g).state = .binding → (s.groupAt g).restoring = true →
    s.piecesGone g = true → s.restoreFlaw g (s.freeWord).1 = none → (s.groupAt g).preemptHeld = false →
    (∀ e ∈ (s.groupAt g).image, ∀ t ∈ e.2.slots, t.2.stopReq = false) → ∃ t, exec .resumeGroup s = .next t ∧
      (t.groupAt g).state = .running ∧ t.pending = s.pending ++ (s.groupAt g).heldMsgs ++ [.terminationWave g]) ∧
  (∀ (s : State) ctx, Performs s (.spill ctx) →
    ((s.savedOf ctx).filter fun g => !(s.groupAt g).spilled && !(s.groupAt g).restoring) ≠ [] → s.spillFits ctx = true →
    ∃ u : State, exec .spill s = .next (u.writeArea ctx)) ∧
  (∀ (s : State) ctx, Performs s (.reload ctx) → ((s.savedOf ctx).filter fun g => (s.groupAt g).spilled) ≠ [] →
    (((s.savedOf ctx).filter fun g => (s.groupAt g).spilled).any fun g => !(s.mirrorHolders g).isEmpty) = false →
    (s.contextAt ctx).state = .spilled → s.residents < 64 →
    ∃ t, exec .reload s = .next t ∧ (t.contextAt ctx).state = .saved ∧ t.cores = s.cores) ∧
  (∀ (s : State) g, Performs s (.watchdog g) → (s.groupAt g).state = .running → (s.contextAt (s.groupAt g).ctx).wdog ≠ 0#16 →
    exec .watchdog s = .next (s.escalate g .watchdog
      { cause := 0, tval := BitVec.ofNat 32 g, epc := 0#32, coreid := 0, kslot := 0, handler := false })) ∧
  (∀ (s : State) ctx, Performs s (.contextFree ctx) → (s.contextAt ctx).state = .terminated → s.groupsOf ctx = [] →
    s.device.begun = false → exec .contextFree s = .next (s.freeResources ctx)) ∧
  (∀ (s : State), s.commandReady = true → (s.cmdOp = 0 ∨ 0x0D < s.cmdOp) → ∃ t, exec .unknownCommand s = .next t ∧ CommandEnds s t .unknown 0 0) ∧
  (∀ (s : State) c u, s.commandReady = true → s.cmdOp = 1 → s.createWords = true → (s.contextAt s.cmdCtx).state = .free → s.residents < 64 →
    s.createAreas s.cmdCtx s.createRecord = some (c, u) → exec .ctxCreate s = .next
      (((u.modContext s.cmdCtx fun _ => c).modClasp s.cmdCtx fun _ => {}).endCommand .done (c.trigBase + c.trigCnt * 2 ^ 16) 0)) ∧
  (∀ (s : State), CommandIs s 2 → (s.contextAt s.cmdCtx).state = .loading →
    exec .ctxReady s = .next (s.modContext s.cmdCtx fun c => { c with state := .ready }).endDone) ∧
  (∀ (s : State), CommandIs s 3 → (s.contextAt s.cmdCtx).state = .faulted → ∃ t, exec .ctxReset s = .next t ∧
    (t.contextAt s.cmdCtx).state = .ready ∧ t.device.status = Status.done.code) ∧
  (∀ (s : State) ctx, Performs s (.firmwareKill ctx) → (s.contextAt ctx).state ≠ .free → (s.contextAt ctx).state ≠ .terminated →
    exec .ctxDestroy s = .next (s.killContext ctx)) ∧
  (∀ (s : State), CommandIs s 4 → (∀ c, ¬ Performs s (.firmwareKill c)) → s.device.begun = false → (s.contextAt s.cmdCtx).state ≠ .terminated →
    exec .ctxDestroy s = .next ((s.killContext s.cmdCtx).modDevice fun d => { d with begun := true })) ∧
  (∀ (s : State), CommandIs s 5 → bits (s.cmdW 2) 18 14 = 0 → ∃ u : State, exec .ctxSet s = .next u.endDone ∧ u.cores = s.cores) ∧
  (∀ (s : State), CommandIs s 6 → bits (s.cmdW 2) 0 4 < (s.contextAt s.cmdCtx).aclcnt → exec .aclSet s =
    .next (s.modContext s.cmdCtx fun c => { c with acl := c.acl.set (bits (s.cmdW 2) 0 4) (aclEntry (s.cmdW 3)) }).endDone) ∧
  (∀ (s : State), CommandIs s 7 → exec .ctxQuery s =
    .next (s.endCommand .done ((s.contextAt s.cmdCtx).w0 s.cmdCtx) (s.contextAt s.cmdCtx).w15)) ∧
  (∀ (s : State) bs h u, CommandIs s 8 → Performs s (.binLoad bs) → s.cmdW 2 % 64 = 0 → bygGood bs (s.cmdW 4) = true →
    (s.contextAt s.cmdCtx).state ≠ .terminated →
    (∀ e ∈ planEntries (bygBytes bs 8), s.leavesIn s.cmdCtx (planRange e).1 (planRange e).2 = []) →
    (bygBinary s.cmdCtx bs).keyIndex.toNat ∉ s.firmware.revoked → s.freeHandle = some h →
    (planEntries (bygBytes bs 8)).foldlM (State.mapRegion s.cmdCtx) s = some u → ∃ v : State,
      exec .binLoad s = .next (if s.signatureVerifies bs then v.endCommand .done h 0 else (s.count .signatureBad).endBad .signature) ∧
      v.binaries.find h = some (bygBinary s.cmdCtx bs)) ∧
  (∀ (s : State) h b, CommandIs s 9 → s.cmdBinary s.cmdCtx = some (h, b) → b.unloading = false → s.launchInFlight h = false →
    (∀ r ∈ b.regions, s.rangeBusy s.cmdCtx r.1 r.2 = false) → exec .binUnload s = .next (s.unload h b).endDone) ∧
  (∀ (s : State), CommandIs s 10 → ∃ u : State, exec .followSet s = .next u.endDone ∧ u.cores = s.cores) ∧
  (∀ (s : State) bs h b, CommandIs s 11 → Performs s (.dsetSet bs) → 1 ≤ bits (s.cmdW 2) 16 7 → bits (s.cmdW 2) 16 7 ≤ 64 →
    bs.length = 8 * bits (s.cmdW 2) 16 7 → (dsetEntries bs).2 = true → (dsetEntries bs).1.countP (fun e => e.1 == s.partAddr) = 1 →
    s.cmdBinary s.cmdCtx = some (h, b) →
    exec .dsetSet s = .next (State.endDone { s with binaries := s.binaries.put h { b with dset := (dsetEntries bs).1 } })) ∧
  (∀ (s : State) u, CommandIs s 12 → s.mapWords = true → (s.contextAt s.cmdCtx).state ≠ .terminated →
    s.leavesIn s.cmdCtx s.cmdRange.1 s.cmdRange.2 = [] →
    let given := bits (s.cmdW 6) 17 1 == 1
    let a := if given then s.mapFrameOf s.mapReq.kind (s.cmdW 7 + 2 ^ 32 * s.cmdW 8) else s.cmdRange.1
    State.mapPages s.mapReq given (pagesOf s.mapReq.sizes (s.cmdRange.2 / 4096) s.cmdRange.1 a s.cmdRange.2) s = some u → exec .map s = .next u.endDone) ∧
  (∀ (s : State), CommandIs s 13 → rangeGood s.cmdRange = true → (s.contextAt s.cmdCtx).state ≠ .terminated →
    (∀ l ∈ s.leavesIn s.cmdCtx s.cmdRange.1 s.cmdRange.2, s.cmdRange.1 ≤ l.base ∧ l.base + l.size ≤ s.cmdRange.1 + s.cmdRange.2) →
    s.rangeBusy s.cmdCtx s.cmdRange.1 s.cmdRange.2 = false →
    exec .unmap s = .next (s.unmapRange s.cmdCtx s.cmdRange.1 s.cmdRange.2).endDone) ∧
  (∀ (s : State), (s.contexts.any fun e => e.2.state != .free) = false → ∃ t, exec .fcommit s = .next t ∧
    t.feats = s.device.faccept &&& s.device.foffer ∧ t.hostBase = s.device.hbase ∧ t.barBase = s.device.window) ∧
  (∀ (s : State) desc ts, Performs s (.ckpt desc) → s.device.ckptReads ≠ [] → s.ckpt = none → s.firmware.role = .standby → s.ckptTargets desc = some ts →
    ∃ t, exec .ckpt s = .next t ∧ t.ckpt ≠ none ∧ t.device.ck = true ∧ t.device.ckcount = s.device.ckcount + 1#16) ∧
  (∀ (s : State) ck, s.ckpt = some ck →
    (Performs s (.checkpointComplete false) → exec .checkpointComplete s = .next (s.endCkpt 3#4)) ∧
    (Performs s (.checkpointComplete true) → ck.streamed = true → exec .checkpointComplete s = .next (s.endCkpt 2#4))) ∧
  (∀ (s : State) off w, Performs s (.registerWrite off w) → 0x1100000 ≤ off → off < 0x1200000 → off ≠ 0x1100030 → off ≠ 0x1100058 →
    exec .registerWrite s = .next (s.modDevice (Device.write (off - 0x1100000) w))) ∧
  (∀ (s : State), Performs s (.registerWrite 0x1100058 1#32) → exec .registerWrite s = .next s.askCkpt) ∧
  (∀ (s : State) off w, Performs s (.registerWrite off w) → 0x1200000 ≤ off → off < 0x1208000 →
    exec .registerWrite s = .next (s.writeMsix (off - 0x1200000) w)) ∧
  (∀ (s : State) off bs, Performs s (.bar2Access true off bs) → bs ≠ [] → off + bs.length ≤ 2 ^ 36 →
    s.barReaches (s.barBase.toNat + off) bs.length = true →
    exec .bar2Access s = .next (s.writeFrame (s.barBase.toNat + off) bs)) ∧
  (∀ (s : State), s.device.state = 0#4 → ∃ t, exec .powerOn s = .next t ∧ t.device.state = 1#4 ∧ t.feats = 0#128 ∧
    t.records.cycles = satCount s.flash.cycles) ∧
  (∀ (s : State) step, Performs s (.bringupEnd true step) → s.device.state = 1#4 →
    exec .bringupEnd s = .next (s.modDevice fun d => { d with state := 2#4, foffer := fullOffer, step := step })) ∧
  (∀ (s : State) im, Performs s (.imageReceived im) → s.firmware.role = .standby → s.feature 11 = true → s.ckpt = none →
    exec .imageReceived s = .next (s.modFirmware fun f => { f with role := .loading, image := some im })) ∧
  (∀ (s : State) im, s.firmware.role = .loading → s.firmware.image = some im → im.sigOk = true →
    im.tables.contains s.firmware.version = true → s.savedLayouts.all im.layouts.contains = true →
    exec .imageBooted s = .next (s.modFirmware fun f => { f with role := .importing })) ∧
  (∀ (s : State), s.firmware.role = .importing → exec .importTimeout s = .next (s.endUpdate .timeout)) ∧
  (∀ (s : State) im, s.firmware.role = .importing → s.firmware.image = some im → s.atBoundaries = true →
    im.tables.contains s.firmware.version = true → s.savedLayouts.all im.layouts.contains = true → ∃ t, exec .importComplete s = .next t ∧
      t.firmware.active = im.digest ∧ t.firmware.seq = s.firmware.seq + 1#64 ∧ t.records.handovers = satCount s.records.handovers) ∧
  (∀ (s : State), s.firmware.role ≠ .importing →
    exec .spdmRequest s = .next (s.modFirmware fun f => { f with spdmOut := f.spdmOut ++ [s.measures] })) ∧
  (∀ (s : State) r, Performs s (.pldmRequest r) →
    exec .pldmRequest s = .next (s.modFirmware fun f => { f with pldmOut := f.pldmOut ++ [(r, f.standbyServes, s.lifetime, f.sensors)] })) ∧
  (∀ (s : State), Performs s .recordWrite → exec .recordWrite s = .next { s with
    records := { s.lifetime with tenMinutes := satCount s.records.tenMinutes },
    flash := { s.lifetime with tenMinutes := satCount s.records.tenMinutes } }) ∧
  (∀ (s : State), exec .powerOff s = .next (State.unpowered { s with flash := s.lifetime })) ∧
  (∀ (s : State) rail persists, Performs s (.powerLimit rail persists) → rail < 8 →
    exec .powerLimit s = .next (s.relieve .powerLimit rail persists)) ∧
  (∀ (s : State) die persists, Performs s (.thermalLimit die persists) →
    exec .thermalLimit s = .next (s.relieve .thermalLimit die persists)) ∧
  (∀ (s : State) die, Performs s (.droopStop die) → exec .droopStop s =
    .next { s.count .droopStop with records := { s.records with droops := s.records.droops.tally die } }) ∧
  (∀ (s : State), exec .abruptLossOfPower s = .next s.unpowered) ∧
  (∀ (s : State), exec .activeComplexStopsAnswering s = .next (s.modFirmware fun f => { f with standbyServes := true })) ∧
  (∀ (s : State) k, Performs s (.keyRevocation k) → ∃ t, exec .keyRevocation s = .next t ∧
    t.firmware.revoked = s.firmware.revoked ++ [k])

/-! ## Local memory (R62, R88 to R92) -/

namespace Sys2Proof.Claims

/-- An access of the issuing context goes on: its registers are free and no acquire is outstanding (R73, R97). -/
abbrev Ready (s : State) (xs : List (BitVec 4)) : Prop := Clear s xs [] ∧ NoAcquire s

/-- An address of local memory at which an access of n bytes is aligned (R88, R89). -/
abbrev LocalAt (a : Word) (n : Nat) : Prop := a.toNat < 0x8000 ∧ a.toNat % n = 0

/-- An address that a program may store to: outside the deque and mailbox regions (R88). -/
abbrev Storable (a : Word) : Prop := ¬(0x7000 ≤ a.toNat ∧ a.toNat < 0x7C00)

/-- Of n bytes at a local address, no access that the issuing context made through global memory is still to be performed (R236). -/
abbrev OwnClear (s : State) (a : Word) (n : Nat) : Prop := s.ownClear a.toNat n = true

/-- A local load or store: its bytes, the register that it writes or stores, its base register, its address, its size, and for a
load its value from the bytes at the address. -/
structure LocalRow where
  bytes : Word
  reg   : BitVec 4
  base  : BitVec 4
  addr  : State → Word
  size  : Nat
  value : (Nat → BitVec 8) → Word

/-- The local loads. -/
def localLoad : Instr → Option LocalRow
  | .lb i d a => some ⟨4#32, d, a, fun s => s.x a + i.signExtend 32, 1, fun b => (b 0).signExtend 32⟩
  | .lbn i d a => some ⟨4#32, d, a, fun s => s.x a + i.signExtend 32, 1, fun b => (b 0).setWidth 32⟩
  | .lh i d a => some ⟨4#32, d, a, fun s => s.x a + i.signExtend 32, 2, fun b => (b 1 ++ b 0).signExtend 32⟩
  | .lhn i d a => some ⟨4#32, d, a, fun s => s.x a + i.signExtend 32, 2, fun b => (b 1 ++ b 0).setWidth 32⟩
  | .lw i d a => some ⟨4#32, d, a, fun s => s.x a + i.signExtend 32, 4, fun b => b 3 ++ b 2 ++ b 1 ++ b 0⟩
  | .cLwsp d i => some ⟨2#32, d, 14#4, fun s => s.x 14#4 + 4#32 * i.setWidth 32, 4, fun b => b 3 ++ b 2 ++ b 1 ++ b 0⟩
  | .cLw d a o => some ⟨2#32, d, a, fun s => s.x a + 4#32 * o.setWidth 32, 4, fun b => b 3 ++ b 2 ++ b 1 ++ b 0⟩
  | _ => none

/-- The local stores. -/
def localStore : Instr → Option LocalRow
  | .sb i d a => some ⟨4#32, d, a, fun s => s.x a + i.signExtend 32, 1, fun _ => 0#32⟩
  | .sh i d a => some ⟨4#32, d, a, fun s => s.x a + i.signExtend 32, 2, fun _ => 0#32⟩
  | .sw i d a => some ⟨4#32, d, a, fun s => s.x a + i.signExtend 32, 4, fun _ => 0#32⟩
  | .cSwsp d i => some ⟨2#32, d, 14#4, fun s => s.x 14#4 + 4#32 * i.setWidth 32, 4, fun _ => 0#32⟩
  | .cSw d a o => some ⟨2#32, d, a, fun s => s.x a + 4#32 * o.setWidth 32, 4, fun _ => 0#32⟩
  | _ => none

/-- The address of a full/empty operation: base plus four times the signed offset (R56, R90). -/
def feAddr (s : State) (o : BitVec 14) (a : BitVec 4) : Word := s.x a + 4#32 * o.signExtend 32

/-- A release of a task context waits for nothing: no load, store or message of it is outstanding (R239). -/
abbrev Settled (s : State) : Prop := s.task.ocnt.loads = 0 ∧ s.task.ocnt.stores = 0 ∧ s.task.ocnt.msgs = 0

/-- A release of the handler context waits for nothing: no store of it is unacknowledged, and no message unsent (R185, R239). -/
abbrev HandlerSettled (s : State) : Prop := s.core.hd.unacked = 0 ∧ s.core.hd.unsent = 0

/-- A word stored by a local full/empty operation; what it held may be read by the loop-back until a fence (R245). -/
def feStored (s : State) (n : Nat) (w : Word) : State :=
  s.modCore s.who.core fun c => { c.age s.who.ctx n with lm := c.lm.setWord n w }

/-- The operation that a local full/empty instruction of the issuing context parks (R91, R92). -/
def feParked (s : State) (op : FeOp) (d : BitVec 4) (a : Word) : FeMsg :=
  { src := s.who, dst := s.who.core, off := a.toNat, op := op, reg := d, data := s.x d, wait := s.waitCount, limit := s.task.fetmo,
    remote := false, group := s.core.group }

end Sys2Proof.Claims

/-- R62, R89: a load at an aligned local address, which waits for no access of its own to it through global memory (R236), writes the bytes there, little-endian and extended as its form says, and retires. -/
def Sys2Proof.Claims.LocalLoads : Prop :=
  ∀ i r (s : State), localLoad i = some r → Ready s [r.base, r.reg] → LocalAt (r.addr s) r.size → OwnClear s (r.addr s) r.size →
    exec i s = .next ((s.setX r.reg (r.value fun k => s.core.lm.byte ((r.addr s).toNat + k))).retire r.bytes)

/-- A local load leaves every register but its destination, all of memory, the special registers and everything outside the core. -/
def Sys2Proof.Claims.LocalLoadFrame : Prop :=
  ∀ i r (s t : State), localLoad i = some r → Ready s [r.base, r.reg] → LocalAt (r.addr s) r.size → exec i s = .next t →
    OtherRegs r.reg s t ∧ t.xAt s.who 0#4 = 0#32 ∧ SameMemory s t ∧ SameOutside s t ∧ ∀ j, SameTask (s.taskAt j) (t.taskAt j)

/-- R62, R89: a store at an aligned local address outside the protected regions, which waits for no access of its own to it through global
memory (R236), completes: the bytes of the access hold the low bytes
of the register, every other byte of every memory and every register is as before, memory stays in its canonical form, no full/empty
bit changes, and the context goes on as any completing instruction does. -/
def Sys2Proof.Claims.LocalStores : Prop :=
  ∀ i r (s : State), localStore i = some r → Ready s [r.base, r.reg] → LocalAt (r.addr s) r.size → Storable (r.addr s) →
    OwnClear s (r.addr s) r.size → ∃ t, exec i s = .next t ∧
      (∀ k, k < r.size → (t.coreAt s.who.core).lm.byte ((r.addr s).toNat + k) = byteOf (s.x r.reg) k) ∧
      (∀ a, (a < (r.addr s).toNat ∨ (r.addr s).toNat + r.size ≤ a) → (t.coreAt s.who.core).lm.byte a = s.core.lm.byte a) ∧
      (∀ j, j ≠ s.who.core → t.coreAt j = s.coreAt j) ∧ t.phys = s.phys ∧
      (s.core.lm.canonical = true → (t.coreAt s.who.core).lm.canonical = true) ∧ (t.coreAt s.who.core).fe = s.core.fe ∧
      (∀ j x, t.xAt j x = s.xAt j x) ∧ SameOutside s t ∧ (∀ j, SameTask (s.taskAt j) (t.taskAt j)) ∧
      (∀ j, t.taskAt j = (s.retire r.bytes).taskAt j)

/-- R88, R89: an address beyond local memory performs LOCAL_RANGE, else a misaligned one MISALIGNED, else a store to the deque or
mailbox regions LOCAL_PROTECT: the trap is taken with the address as its value. -/
def Sys2Proof.Claims.LocalAccessFaults : Prop :=
  ∀ i r (s : State), (localLoad i = some r ∨ localStore i = some r) → Ready s [r.base, r.reg] →
    (0x8000 ≤ (r.addr s).toNat → exec i s = .next (s.trap .localRange (r.addr s))) ∧
    ((r.addr s).toNat < 0x8000 → (r.addr s).toNat % r.size ≠ 0 → exec i s = .next (s.trap .misaligned (r.addr s))) ∧
    (LocalAt (r.addr s) r.size → ¬ Storable (r.addr s) → localStore i = some r →
      exec i s = .next (s.trap .localProtect (r.addr s)))

/-- R90: a full/empty operation whose condition holds is performed: the loads when the bit is set, LWFE clearing it; SWE when it is
clear and SWF always, storing and setting it; FETEST writes the bit; FESET and FECLR write it; after each change the operations parked
at the word are examined (R91). -/
def Sys2Proof.Claims.FullEmptyCompletes : Prop :=
  ∀ (o : BitVec 14) (d a : BitVec 4) (s : State), Ready s [a, d] → LocalAt (feAddr s o a) 4 → OwnClear s (feAddr s o a) 4 →
    let k := s.who.core
    let n := (feAddr s o a).toNat
    let w := s.core.lm.word n
    (InTask s → n ∈ s.core.fe →
      exec (.lwf o d a) s = .next (((((s.setXAt s.who d w).dropL1 k).retireAt s.who 4#32).feWakeWord k n).prefer)) ∧
    (InTask s → n ∈ s.core.fe →
      exec (.lwfe o d a) s = .next ((((((s.writeFe k n false).setXAt s.who d w).dropL1 k).retireAt s.who 4#32).feWakeWord k n).prefer)) ∧
    (InTask s → Storable (feAddr s o a) → Settled s → n ∉ s.core.fe →
      exec (.swe o d a) s = .next (((((feStored s n (s.x d)).writeFe k n true).retireAt s.who 4#32).feWakeWord k n).prefer)) ∧
    (Storable (feAddr s o a) → (InTask s → Settled s) → (¬ InTask s → HandlerSettled s) →
      exec (.swf o d a) s = .next (((((feStored s n (s.x d)).writeFe k n true).retireAt s.who 4#32).feWakeWord k n).prefer)) ∧
    exec (.fetest o d a) s = .next ((s.setX d (flag (n ∈ s.core.fe))).retire 4#32) ∧
    (Storable (feAddr s o a) → exec (.feset o a) s = .next (((s.writeFe k n true).retire 4#32).feWakeWord k n)) ∧
    (Storable (feAddr s o a) → exec (.feclr o a) s = .next (((s.writeFe k n false).retire 4#32).feWakeWord k n))

/-- R91, R92: a full/empty operation of a task context whose condition does not hold parks at its word behind those that wait there,
and its context stalls; with fetmo = 0 it takes FE_TIMEOUT at once; a wait that its limit ends is withdrawn without effect and takes
FE_TIMEOUT at its instruction. -/
def Sys2Proof.Claims.FullEmptyWaits : Prop :=
  (∀ (o : BitVec 14) (d a : BitVec 4) (s : State), InTask s → Ready s [a, d] → LocalAt (feAddr s o a) 4 →
    OwnClear s (feAddr s o a) 4 →
    let n := (feAddr s o a).toNat
    let parks (op : FeOp) : State :=
      if s.task.fetmo = 0#32 then s.trap .feTimeout (feAddr s o a)
      else (({ s with waitCount := s.waitCount + 1 } : State).fePark (feParked s op d (feAddr s o a))).stall (.parked s.waitCount)
    (n ∉ s.core.fe → exec (.lwf o d a) s = .next (parks .lwf)) ∧ (n ∉ s.core.fe → exec (.lwfe o d a) s = .next (parks .lwfe)) ∧
    (Storable (feAddr s o a) → Settled s → n ∈ s.core.fe → exec (.swe o d a) s = .next (parks .swe))) ∧
  (∀ (s : State) (k w : Nat) (m : FeMsg), Performs s (.feTimeout k w) → (s.coreAt k).parkedFe.find? (fun m => m.wait == w) = some m →
    m.remote = false → ∃ t, exec .feTimeout s = .next t ∧ (∀ j, (t.coreAt j).lm = (s.coreAt j).lm ∧ (t.coreAt j).fe = (s.coreAt j).fe) ∧
      (∀ p, p ∈ (t.coreAt k).parkedFe ↔ p ∈ (s.coreAt k).parkedFe ∧ p.wait ≠ w) ∧
      (m.src.ctx ≠ .handler → (t.taskAt m.src).run = .running ∧
        (t.taskAt m.src).traps = ⟨.feTimeout, false, BitVec.ofNat 32 m.off⟩ :: (s.taskAt m.src).traps))

/-! ## Remote loads and stores, atomics, and what answers them (R73, R74, R92 to R97) -/

namespace Sys2Proof.Claims

/-- A remote offset is in range and aligned to a word (R93). -/
abbrev RemoteAt (a : Word) : Prop := LocalAt a 4

/-- A load of the issuing task context has been counted and its destination marked pending (R73, R74). -/
def LoadBegun (d : BitVec 4) (acq atomic : Nat) (t u : TaskCtx) : Prop :=
  u = { t with pendX := if d = 0#4 then t.pendX else t.pendX ||| (1#16 <<< d.toNat), acquires := t.acquires + acq,
               ocnt := { t.ocnt with loads := t.ocnt.loads + 1, atomics := t.ocnt.atomics + atomic } }

/-- The message of a remote load or store (R93). -/
def remote (s : State) (d a b : BitVec 4) : RemMsg :=
  { src := s.who, dst := (s.x a).toNat, off := (s.x b).toNat, reg := d, data := s.x d, group := s.core.group, seq := s.waitCount }

/-- The message of a remote full/empty operation (R93). -/
def remoteFe (s : State) (op : FeOp) (d a b : BitVec 4) : FeMsg :=
  ⟨s.who, (s.x a).toNat, (s.x b).toNat, op, d, s.x d, s.waitCount, s.task.fetmo, true, s.core.group⟩

/-- The operation of each AMO. -/
def amoRow : Instr → Option (AmoOp × BitVec 2 × BitVec 4 × BitVec 4 × BitVec 4)
  | .amoAdd b o d a => some (.add, o, d, a, b)
  | .amoAnd b o d a => some (.and, o, d, a, b)
  | .amoOr b o d a => some (.or, o, d, a, b)
  | .amoXor b o d a => some (.xor, o, d, a, b)
  | .amoMin b o d a => some (.min, o, d, a, b)
  | .amoMax b o d a => some (.max, o, d, a, b)
  | .amoSwap b o d a => some (.swap, o, d, a, b)
  | _ => none

/-- The message of an atomic, with its second operand (R96). -/
def atomic (s : State) (op : AmoOp) (o : BitVec 2) (d a b : BitVec 4) (data2 : Word) : AmoMsg :=
  { src := s.who, dst := (s.x a).toNat, off := (s.x b).toNat, op := op, reg := d, data := s.x d, data2 := data2, acq := o.getLsbD 0,
    group := s.core.group, seq := s.waitCount }

/-- The state of the issuing context's next wait. -/
abbrev waited (s : State) : State := { s with waitCount := s.waitCount + 1 }

/-- An AMO is issued (R96, R97): its message goes to the owner, and the context goes on with its destination pending. -/
def amoIssued (s : State) (m : AmoMsg) : State :=
  (((waited s).modT (TaskCtx.beginLoad m.reg m.acq true)).send s.core.group s.who.core m.dst (.localAtomic m)).retire 4#32

/-- A message of a group's core meets a core: there it is performed, held or answered NACK (R94, R285). -/
abbrev meets (s : State) (g k : Nat) (e : Event) : Reach := s.reach k (s.groupAt g).ctx ((s.coreAt k).group == g && s.drawn e)

/-- A built-in message of a group's core is performed at a core: the core is bound to a group of that context, its handler context runs
nothing, nothing landed before, and no atomic is within its two halves (R94, R96, R182, R184). -/
abbrev Reaches (s : State) (g k : Nat) (e : Event) : Prop := meets s g k e = .here ∧ s.handlerFree k = true

/-- A built-in message of a class passes through the mailbox of its core, accepted (R182, R320). -/
def arrived (s : State) (cls g src dst : Nat) (e : Event) : State := (s.passMailbox cls src dst e).accept g src dst

/-- The value that an atomic leaves (R96). -/
def atomicResult : AmoOp → Word → Word → Word → Word
  | .add, w, a, _ => w + a
  | .and, w, a, _ => w &&& a
  | .or, w, a, _ => w ||| a
  | .xor, w, a, _ => w ^^^ a
  | .min, w, a, _ => BitVec.ofInt 32 (Min.min w.toInt a.toInt)
  | .max, w, a, _ => BitVec.ofInt 32 (Max.max w.toInt a.toInt)
  | .swap, _, a, _ => a
  | .cas, w, a, b => if w = a then b else w

/-- The word of an atomic holds its result, and the old value is on its way back (R96). -/
def amoDone (t : State) (m : AmoMsg) (w : Word) : State :=
  (t.setLocalWord m.dst m.off (atomicResult m.op w m.data m.data2)).answer m.group m.dst m.src.core
    (.loadReply ⟨m.src, .x m.reg, w.setWidth 256, m.acq, true, none, some (m.dst, m.group)⟩)

/-- The reply of a remote load (R93). -/
def remoteReply (m : RemMsg) (w : Word) : Event :=
  .loadReply ⟨m.src, .x m.reg, w.setWidth 256, false, false, none, some (m.dst, m.group)⟩

end Sys2Proof.Claims

/-- R73, R74, R93, R185, R238: a remote access with a good offset and room in its count sends its message and completes; a load marks its
destination pending and is counted; a store is counted until it is acknowledged, RSWE and RSWF only once all that is earlier is; the handler
context counts its stores as messages too. -/
def Sys2Proof.Claims.RemoteAccessesIssue : Prop :=
  (∀ (b d a : BitVec 4) (s : State), InTask s → Ready s [a, b, d] → RemoteAt (s.x b) → s.task.ocnt.loads < 63 →
    let issued (acq : Bool) (e : Event) : State :=
      (((waited s).modT (TaskCtx.beginLoad d acq false)).send s.core.group s.who.core (s.x a).toNat e).retire 4#32
    LoadBegun d 0 0 s.task (TaskCtx.beginLoad d false false s.task) ∧ LoadBegun d 1 0 s.task (TaskCtx.beginLoad d true false s.task) ∧
    exec (.rlw b d a) s = .next (issued false (.remoteLoad (remote s d a b))) ∧
    exec (.rlwf b d a) s = .next (issued true (.feLoad (remoteFe s .lwf d a b))) ∧
    exec (.rlwfe b d a) s = .next (issued true (.feLoad (remoteFe s .lwfe d a b)))) ∧
  (∀ (b d a : BitVec 4) (s : State), InTask s → Ready s [a, b, d] → RemoteAt (s.x b) → Storable (s.x b) → s.task.ocnt.stores < 63 →
    let issued (e : Event) : State :=
      (((waited s).modT fun t => { t with ocnt := { t.ocnt with stores := t.ocnt.stores + 1 } }).send
        s.core.group s.who.core (s.x a).toNat e).retire 4#32
    exec (.rsw b d a) s = .next (issued (.remoteStore (remote s d a b))) ∧
    (Settled s → exec (.rswe b d a) s = .next (issued (.feStore (remoteFe s .swe d a b)))) ∧
    (Settled s → exec (.rswf b d a) s = .next (issued (.feStore (remoteFe s .swf d a b))))) ∧
  (∀ (b d a : BitVec 4) (s : State), ¬ InTask s → RemoteAt (s.x b) → Storable (s.x b) →
    let issued (e : Event) : State :=
      ((((waited s).modCore s.who.core fun c =>
        { c with hd := { c.hd with unsent := c.hd.unsent + 1, unacked := c.hd.unacked + 1 } }).post (.messageAccept s.who)).send
          s.core.group s.who.core (s.x a).toNat e).retire 4#32
    exec (.rsw b d a) s = .next (issued (.remoteStore (remote s d a b))) ∧
    (HandlerSettled s → exec (.rswf b d a) s = .next (issued (.feStore (remoteFe s .swf d a b)))))

/-- R96, R97: an AMO with a good offset sends its operands to the word's owner and completes with its destination pending; with the
release bit only once every earlier load, store and message is complete; AMO.CAS names a pair of registers. -/
def Sys2Proof.Claims.AtomicsIssue : Prop :=
  (∀ i op o d a b (s : State), amoRow i = some (op, o, d, a, b) → InTask s → Ready s [a, b, d] → RemoteAt (s.x b) → Storable (s.x b) →
    s.task.ocnt.loads < 63 → (o.getLsbD 1 = true → Settled s) → exec i s = .next (amoIssued s (atomic s op o d a b 0#32))) ∧
  (∀ (b : BitVec 4) (o : BitVec 2) (d : BitVec 3) (a : BitVec 4) (s : State), InTask s → Ready s [a, b, d ++ 0#1, d ++ 1#1] →
    RemoteAt (s.x b) → Storable (s.x b) → s.task.ocnt.loads < 63 → (o.getLsbD 1 = true → Settled s) →
    exec (.amoCas b o d a) s = .next (amoIssued s (atomic s .cas o (d ++ 0#1) a b (s.x (d ++ 1#1)))))

/-- R93, R94, R96, R182, R285: at a core bound to a group of the issuing context whose handler context is free, a remote load is answered
with the word at its offset, a remote store writes it and is acknowledged, and an atomic writes its result, at once or after a further read of
the part, and is answered with the value that it read; while the handler context runs the message waits; a message for any other core is
answered with REMOTE_UNREACHABLE and its number, but held for a SAVED group. A loop-back load may read what its own context's store hid.
Where the spec leaves it open, the model's choices are those of log 4, 36 and 54. -/
def Sys2Proof.Claims.RemoteAccessesPerform : Prop :=
  (∀ (s : State) (m : RemMsg), Performs s (.remoteLoad m) → Reaches s m.group m.dst (.remoteLoad m) →
    let t := arrived s 1 m.group m.src.core m.dst (.remoteLoad m)
    ((m.src.core ≠ m.dst ∨ (t.coreAt m.dst).agedAt m.src.ctx m.off = none) →
      exec .remoteLoad s = .next (t.answer m.group m.dst m.src.core (remoteReply m ((t.coreAt m.dst).lm.word m.off)))) ∧
    (∀ old, m.src.core = m.dst → (t.coreAt m.dst).agedAt m.src.ctx m.off = some old →
      ∃ (u : State) (w : Word), exec .remoteLoad s = .next (u.answer m.group m.dst m.src.core (remoteReply m w)) ∧
        (w = old ∨ w = (t.coreAt m.dst).lm.word m.off) ∧ ∀ k, (u.coreAt k).lm = (t.coreAt k).lm)) ∧
  (∀ (s : State) (m : RemMsg), Performs s (.remoteStore m) → Reaches s m.group m.dst (.remoteStore m) →
    exec .remoteStore s = .next (((arrived s 2 m.group m.src.core m.dst (.remoteStore m)).setLocalWord m.dst m.off m.data).postTo m.group
      (.storeAck m.src))) ∧
  (∀ (s : State) (m : AmoMsg), Performs s (.localAtomic m) → m.old = none → Reaches s m.group m.dst (.localAtomic m) →
    let t := arrived s 5 m.group m.src.core m.dst (.localAtomic m)
    let w := (t.coreAt m.dst).lm.word m.off
    exec .localAtomic s = .next (if t.flip.1 then t.flip.2.repost (.localAtomic { m with old := some w }) else amoDone t.flip.2 m w)) ∧
  (∀ (s : State) (m : AmoMsg) (w : Word), Performs s (.localAtomic m) → m.old = some w → exec .localAtomic s = .next (amoDone s m w)) ∧
  (∀ (s : State) (m : RemMsg), s.handlerFree m.dst = false →
    (Performs s (.remoteLoad m) → meets s m.group m.dst (.remoteLoad m) = .here →
      exec .remoteLoad s = .next (s.repost (.remoteLoad m))) ∧
    (Performs s (.remoteStore m) → meets s m.group m.dst (.remoteStore m) = .here →
      exec .remoteStore s = .next (s.repost (.remoteStore m)))) ∧
  (∀ (s : State) (m : RemMsg), Performs s (.remoteLoad m) → meets s m.group m.dst (.remoteLoad m) = .nack →
    exec .remoteLoad s = .next (((s.takeSeq (.remoteLoad m)).2.accept m.group m.src.core m.dst).post
      (.remoteNack ⟨m.src, .load (.x m.reg) false false, .remoteUnreachable, BitVec.ofNat 32 m.dst, m.group⟩))) ∧
  (∀ (s : State) (m : RemMsg) (g : Nat), Performs s (.remoteStore m) → meets s m.group m.dst (.remoteStore m) = .hold g →
    exec .remoteStore s = .next (s.hold g (.remoteStore m)))

/-- R91 to R93, R182: a remote full/empty operation whose condition holds at its word is performed; else it times out at once with a limit of
0, parks there while fewer than eight remote ones are parked in the group of eight words, and is answered BUSY otherwise; BUSY is sent again
while its limit has not passed, and is REMOTE_BUSY once it has. -/
def Sys2Proof.Claims.RemoteFullEmpty : Prop :=
  (∀ (s : State) (m : FeMsg), s.handlerFree m.dst = true →
    let full := decide (m.off ∈ (s.coreAt m.dst).fe)
    let there (f : State → State) : Prop :=
      (Performs s (.feLoad m) → meets s m.group m.dst (.feLoad m) = .here →
        exec .feLoad s = .next (f (arrived s 3 m.group m.src.core m.dst (.feLoad m)))) ∧
      (Performs s (.feStore m) → meets s m.group m.dst (.feStore m) = .here →
        exec .feStore s = .next (f (arrived s 4 m.group m.src.core m.dst (.feStore m))))
    (feHolds m.op full = true → there fun t => (t.fePerform false m).feWakeWord m.dst m.off) ∧
    (feHolds m.op full = false → m.limit = 0#32 → there (State.feTimedOut m)) ∧
    (feHolds m.op full = false → m.limit ≠ 0#32 → (s.coreAt m.dst).parkedIn m.off < 8 →
      there fun t => t.modCore m.dst fun c => { c with parkedFe := c.parkedFe ++ [m] }) ∧
    (feHolds m.op full = false → m.limit ≠ 0#32 → 8 ≤ (s.coreAt m.dst).parkedIn m.off →
      there fun t => t.flip.2.post (.remoteBusyResend m t.flip.1))) ∧
  (∀ (s : State) (m : FeMsg), Performs s (.remoteBusyResend m false) →
    exec .remoteBusyResend s = .next (s.send m.group m.src.core m.dst (if feIsLoad m.op then .feLoad m else .feStore m))) ∧
  (∀ (s : State) (m : FeMsg), Performs s (.remoteBusyResend m true) →
    exec .remoteBusyResend s = .next (if feIsLoad m.op
      then s.takeReply ⟨m.src, .x m.reg, 0#256, true, false, some ⟨.remoteBusy, false, BitVec.ofNat 32 m.dst⟩, none⟩
      else (s.endStoreAt m.src).asyncTrap m.src ⟨.remoteBusy, true, BitVec.ofNat 32 m.dst⟩))

/-- R73, R97, R104: a reply to a task context ends its load, clears its destination's mark and writes the value there, or keeps its
fault for the instruction that waits on the register; an acquire's reply empties the L1 of the core. A core's reply passes through the
mailbox first (R182). -/
def Sys2Proof.Claims.RepliesArrive : Prop :=
  (∀ (s : State) (r : Reply) k g, Performs s (.loadReply r) → r.src = some (k, g) → s.handlerFree r.dst.core = true →
    exec .loadReply s = .next ((arrived s 0 g k r.dst.core (.loadReply r)).takeReply r)) ∧
  ∀ (s : State) (r : Reply) (d : BitVec 4), Performs s (.loadReply r) → r.src = none → r.dst.ctx ≠ .handler → r.dest = .x d → d ≠ 0#4 →
    ∃ t, exec .loadReply s = .next t ∧
      (t.taskAt r.dst).ocnt.loads = (s.taskAt r.dst).ocnt.loads - 1 ∧
      (t.taskAt r.dst).pendX = (s.taskAt r.dst).pendX &&& ~~~(1#16 <<< d.toNat) ∧
      (r.trap = none → t.xAt r.dst d = r.value.setWidth 32 ∧ (t.taskAt r.dst).faultX = (s.taskAt r.dst).faultX) ∧
      (∀ tr, r.trap = some tr → t.xAt r.dst d = s.xAt r.dst d ∧ (t.taskAt r.dst).faultX = SMap.put d.toNat tr (s.taskAt r.dst).faultX) ∧
      (∀ e, e ≠ d → t.xAt r.dst e = s.xAt r.dst e) ∧
      (t.coreAt r.dst.core).l1 = (if r.acq then [] else (s.coreAt r.dst.core).l1) ∧ SameMemory s t

/-- R74, R93, R104, R107: an acknowledgement ends a store of its issuer, and the network's acceptance a message. -/
def Sys2Proof.Claims.AcknowledgementsArrive : Prop :=
  (∀ (s : State) (i : Issuer), Performs s (.storeAck i) → i.ctx ≠ .handler →
    exec .storeAck s = .next (s.modTask i fun t => { t with ocnt := { t.ocnt with stores := t.ocnt.stores - 1 } })) ∧
  (∀ (s : State) (i : Issuer), Performs s (.messageAccept i) → i.ctx ≠ .handler →
    exec .messageAccept s = .next (s.modTask i fun t => { t with ocnt := { t.ocnt with msgs := t.ocnt.msgs - 1 } })) ∧
  (∀ (s : State) (i : Issuer), Performs s (.messageAccept i) → i.ctx = .handler →
    exec .messageAccept s = .next (s.modCore i.core fun c => { c with hd := { c.hd with unsent := c.hd.unsent - 1 } }))

/-! ## Traps, waits, special registers and the events of a core (R49 to R52, R72, R85, R100, R105 to R110, R278 to R282) -/

namespace Sys2Proof.Claims

/-- A special register of a task context with the bits that a write of it changes (R50 to R52, R86, R194, R206). -/
def srMask : Nat → Option Word
  | 0x000 => some 0x00000002#32
  | 0x001 => some 0x000000FF#32
  | 0x002 => some 0x01FFFFFE#32
  | 0x003 => some 0xFFFFFFFF#32
  | 0x004 => some 0x01FFFFFE#32
  | 0x005 => some 0xFFFFFFFF#32
  | 0x010 => some 0xFFFFFFFF#32
  | 0x012 => some 0xFFFFFFFF#32
  | 0x020 => some 0xFFFFFFFF#32
  | 0x021 => some 0xFFFFFFFF#32
  | 0x022 => some 0xFFFFFFFF#32
  | 0x024 => some 0xFFFFFFFF#32
  | 0x025 => some 0xFFFFFFFF#32
  | 0x026 => some 0xFFFFFFFF#32
  | 0x030 => some 0x0000000F#32
  | 0x031 => some 0xFFFFFFFF#32
  | 0x032 => some 0xFFFFFFFF#32
  | 0x033 => some 0xFFFFFFFF#32
  | 0x048 => some 0x00000001#32
  | 0x049 => some 0x00000003#32
  | 0x04A => some 0xFFFFFFFF#32
  | 0x04B => some 0xFFFFFFFF#32
  | 0x050 => some 0x00000F1F#32
  | 0x051 => some 0xFFFFFFFF#32
  | 0x052 => some 0x00000F1F#32
  | 0x053 => some 0xFFFFFFFF#32
  | 0x054 => some 0xFFFFFFFF#32
  | 0x055 => some 0x07FFFFFF#32
  | 0x056 => some 0xFFFFFFFF#32
  | 0x057 => some 0xFFFFFFFF#32
  | 0x058 => some 0xFFFFFFFF#32
  | 0x060 => some 0xFFFFFFFF#32
  | 0x061 => some 0xFFFFFFFF#32
  | 0x062 => some 0xFFFFFFFF#32
  | 0x063 => some 0xFFFFFFFF#32
  | 0x070 => some 0x0000000F#32
  | 0x071 => some 0xFFFFFFFF#32
  | 0x072 => some 0x0000FFFF#32
  | 0x073 => some 0x00000F1F#32
  | 0x074 => some 0xFFFFFFFF#32
  | 0x075 => some 0x0000FFFF#32
  | 0x076 => some 0xFFFFFFFF#32
  | 0x0A1 => some 0x0000FFFF#32
  | 0x0A2 => some 0xFFFFFFFF#32
  | _ => none

/-- The special registers that the handler context may read (R49). -/
def handlerMayRead : List Nat := [0x000, 0x008, 0x009, 0x00A, 0x00B, 0x00C, 0x010, 0x011, 0x012, 0x018, 0x0A0, 0x0A1]

/-- Whether a number names a loop register, whose write sets status.VL (R86). -/
def loopSr (n : Nat) : Prop := 0x020 ≤ n ∧ n ≤ 0x026

/-- The instructions that write a special register, with its number, the registers they read and the value that they write (R106). -/
def srWriter : Instr → Option (BitVec 12 × List (BitVec 4) × (State → Word))
  | .mts n r => some (n, [r], fun s => s.x r)
  | .mtsi n i => some (n, [], fun _ => i.setWidth 32)
  | .mss n r => some (n, [r], fun s => s.readSr n.toNat ||| s.x r)
  | .mcs n r => some (n, [r], fun s => s.readSr n.toNat &&& ~~~(s.x r))
  | _ => none

/-- The limit of a WAITO code: none for code 15 (R107). -/
def waitLimits : List Nat := [0, 1, 2, 3, 4, 6, 8, 12, 16, 24, 32, 48, 64, 128, 192]

/-- A count is at or below the limit of a code (R107). -/
abbrev Within (c : BitVec 4) (n : Nat) : Prop := ∀ l, waitLimits[c.toNat]? = some l → n ≤ l

/-- No register of a task context is pending (R73). -/
abbrev NonePending (t : TaskCtx) : Prop := t.pendX = 0#16 ∧ t.pendV = 0#8

end Sys2Proof.Claims

/-- R52, R278: a trap outside trap mode with no register pending saves the offset of its instruction, its code with the A bit, its value
and VL, enters trap mode and goes to tvec, is counted by its cause, and changes nothing else; in trap mode it escalates TRAP_NESTED with its code, and in the
handler context HANDLER_TRAP; while a register is pending the context waits.
Where the spec leaves it open, the model's choices are those of log 19. -/
def Sys2Proof.Claims.TrapEntry : Prop :=
  ∀ (s : State) (i : Issuer) (tr : Trap),
    (i.ctx ≠ .handler → NonePending (s.taskAt i) → (s.taskAt i).trapMode = false →
      s.trapAt i tr = (s.modTask i fun t =>
        { t with epc := (t.pc >>> 1).setWidth 24, causeA := tr.a, causeCode := BitVec.ofNat 7 tr.cause.code, tval := tr.tval,
                 svl := t.vl, trapMode := true, pc := t.tvec.setWidth 32 <<< 1, run := .running, waiting := false }).count tr.cause) ∧
    (i.ctx ≠ .handler → NonePending (s.taskAt i) → (s.taskAt i).trapMode = true →
      s.trapAt i tr = s.escalateAt i .trapNested (BitVec.ofNat 32 tr.cause.code) (s.taskAt i).pc) ∧
    (i.ctx = .handler → s.trapAt i tr = s.escalateAt i .handlerTrap (BitVec.ofNat 32 tr.cause.code) (s.coreAt i.core).hd.pc) ∧
    (i.ctx ≠ .handler → ¬ NonePending (s.taskAt i) → s.trapAt i tr = s.modTask i fun t => { t with run := .stalled .retry })

/-- R61, R53, R108, R278: ECALL, TRAP and BRK of a task context take their traps with the values 0, the code and 0; a word that is no
instruction takes ILLEGAL_OP with the word, a fetch beyond the code CODE_RANGE with its offset, and one of pages without X PERM_EXEC. -/
def Sys2Proof.Claims.SoftwareTraps : Prop :=
  (∀ (s : State) (c : BitVec 8), InTask s → exec .ecall s = .next (s.trap .ecall 0#32) ∧
    exec (.trap c) s = .next (s.trap .softwareTrap (c.setWidth 32)) ∧ exec .brk s = .next (s.trap .breakpoint 0#32)) ∧
  (∀ (s : State) w, Performs s (.illegalOp w) → exec .illegalOp s = .next (s.trap .illegalOp w)) ∧
  (∀ (s : State) w, Performs s (.codeRange w false) → exec .codeRange s = .next (s.trap .codeRange w)) ∧
  (∀ (s : State) w, Performs s (.codeRange w true) → exec .codeRange s = .next (s.trap .permExec w)) ∧
  (∀ (s : State) k x tr rest, Performs s (.asynchronousTrap k x) → x ≠ .handler → (s.taskAt ⟨k, x⟩).traps = tr :: rest →
    (s.taskAt ⟨k, x⟩).trapMode = false → NonePending (s.taskAt ⟨k, x⟩) →
    exec .asynchronousTrap s = .next ((s.modTask ⟨k, x⟩ fun t => { t with traps := rest }).trapAt ⟨k, x⟩ tr)) ∧
  (∀ (s : State) k x tr rest, Performs s (.asynchronousTrap k x) → x ≠ .handler → (s.taskAt ⟨k, x⟩).traps = tr :: rest → tr.a = true →
    (s.taskAt ⟨k, x⟩).trapMode = true → exec .asynchronousTrap s = .next s) ∧
  (∀ (s : State) k tr rest, Performs s (.asynchronousTrap k .handler) → (s.coreAt k).hd.traps = tr :: rest →
    exec .asynchronousTrap s = .next ((s.modCore k fun c => { c with hd := { c.hd with traps := rest } }).trapAt ⟨k, .handler⟩ tr)) ∧
  (∀ (s : State) k x, Performs s (.debugHaltRequest k x) → x ≠ .handler →
    exec .debugHaltRequest s = .next (s.modTask ⟨k, x⟩ fun t => { t with traps := t.traps ++ [⟨.debugHalt, true, 0#32⟩] }))

/-- R109: TRET outside trap mode is ILLEGAL_OP; in trap mode it sets VL to VL or SVL, leaves trap mode, and goes on at epc; after an
ECALL or a TRAP it completes the instruction there, whose length the code segment gives; TRET itself is counted as an instruction (the
model's reading, log 18).
Where the spec leaves it open, the model's choices are those of log 74. -/
def Sys2Proof.Claims.TrapReturn : Prop :=
  (∀ (s : State), InTask s → s.task.trapMode = false → exec .tret s = .next (s.trap .illegalOp 0x0003E500#32)) ∧
  (∀ (s : State), InTask s → s.task.trapMode = true →
    (s.task.causeA = true ∨ (s.task.causeCode.toNat ≠ Cause.ecall.code ∧ s.task.causeCode.toNat ≠ Cause.softwareTrap.code)) →
    exec .tret s = .next ((s.modT fun t => { t with vl := t.vl || t.svl, trapMode := false, pc := t.epc.setWidth 32 <<< 1,
                                                    instret := t.instret + 1#32, run := .running }).prefer)) ∧
  (∀ (s : State) h, InTask s → s.task.trapMode = true → s.task.causeA = false →
    (s.task.causeCode.toNat = Cause.ecall.code ∨ s.task.causeCode.toNat = Cause.softwareTrap.code) →
    s.codeNode.half (2 * s.task.epc.toNat) = some h →
    exec .tret s = .next ((s.modT fun t =>
      ({ t with vl := t.vl || t.svl, trapMode := false, pc := t.epc.setWidth 32 <<< 1, instret := t.instret + 1#32,
                run := .running } : TaskCtx).complete (BitVec.ofNat 32 (instrBytes h))).prefer))

/-- R72, R105, R108, R110: NOP only completes; YIELD completes and prefers the other task context; IDLE stalls, for 65,536 cycles at
most; FENCE waits for what its type orders, messages with the writes, and with LB for its context's loop-back operations, on their way or
parked; it empties the L1 when it acquires at cluster scope or wider, and completes. -/
def Sys2Proof.Claims.HintsAndFences : Prop :=
  (∀ (s : State), exec .nop s = .next (s.retire 4#32) ∧ exec .cNop s = .next (s.retire 2#32)) ∧
  (∀ (s : State), InTask s → exec .yield s = .next ((s.retire 4#32).modCore s.who.core fun c => { c with pref := s.who.ctx != .tc1 }) ∧
    exec .idle s = .next (s.modT fun t => { t with run := .stalled .idle }).prefer) ∧
  (∀ (s : State) k x, Performs s (.idleTimeout k x) → x ≠ .handler → (s.taskAt ⟨k, x⟩).run = .stalled .idle →
    ∃ t, exec .idleTimeout s = .next t ∧ t.taskAt ⟨k, x⟩ = (s.taskAt ⟨k, x⟩).complete 4#32) ∧
  (∀ (y : BitVec 2) (l : BitVec 1) (sc : BitVec 3) (s : State), InTask s →
    (y ≠ 1#2 → s.task.ocnt.stores = 0 ∧ s.task.ocnt.atomics = 0 ∧ s.task.ocnt.msgs = 0) → (y ≠ 2#2 → s.task.ocnt.loads = 0) →
    (l = 1#1 → (∀ e ∈ s.pending, loopsBack s.who e = false) ∧ ∀ m ∈ s.core.parkedFe, ¬(m.remote = true ∧ m.src = s.who)) →
    let u := if l = 1#1 then s.modCore s.who.core (Core.orderAliases s.who.ctx) else s
    exec (.fence y l sc) s = .next ((if y ≠ 2#2 ∧ 1 ≤ sc.toNat then u.modCore s.who.core fun c => { c with l1 := [], l1Fills := [] } else u).retire 4#32)) ∧
  (∀ (y : BitVec 2) (sc : BitVec 3) (s : State), s.inHandler = true → (y ≠ 1#2 → HandlerSettled s) →
    exec (.fence y 0#1 sc) s = .next (if y ≠ 2#2 ∧ 1 ≤ sc.toNat then (s.modCore s.who.core fun c => { c with l1 := [], l1Fills := [] }).retire 4#32
      else s.retire 4#32)) ∧
  (∀ (y : BitVec 2) (l : BitVec 1) (sc : BitVec 3) (s : State), InTask s → y ≠ 1#2 → s.task.ocnt.stores ≠ 0 →
    exec (.fence y l sc) s = .next (s.modT fun t => { t with run := .stalled .retry }))

/-- R98, R100: TMSET binds its slot to a snapshot of the record at 0x7C00 + 64 × slot; a malformed record leaves the slot unbound and
takes TMAP_UNBOUND with the record's address; TMOFF unbinds its slot. -/
def Sys2Proof.Claims.TensorMapSlots : Prop :=
  (∀ (n : BitVec 4) (s : State), InTask s → NoAcquire s →
    let m := s.core.lm.rec (0x7C00 + 64 * n.toNat)
    mapMalformed m = false → bmvMalformed m = false →
    exec (.tmset n) s = .next ((s.modT fun t => { t with tm := t.tm.set n.toFin (some m) }).retire 4#32)) ∧
  (∀ (n : BitVec 4) (s : State), InTask s → NoAcquire s → NonePending s.task →
    mapMalformed (s.core.lm.rec (0x7C00 + 64 * n.toNat)) = true →
    exec (.tmset n) s = .next ((s.modT fun t => { t with tm := t.tm.set n.toFin none }).trapAt s.who
      ⟨.tmapUnbound, false, BitVec.ofNat 32 (0x7C00 + 64 * n.toNat)⟩).prefer) ∧
  (∀ (n : BitVec 4) (s : State), InTask s →
    exec (.tmoff n) s = .next ((s.modT fun t => { t with tm := t.tm.set n.toFin none }).retire 4#32))

/-- R49, R50, R106: MFS of a task context writes the register's value to its destination, zero for an unassigned number; a read of
cp.wp0 to cp.wp3 also empties the L1 (R238), and a read of cycle latches the upper half for cycleh; in the handler context a number that
it may not read traps SR_ILLEGAL. -/
def Sys2Proof.Claims.SpecialReads : Prop :=
  (∀ (n : BitVec 12) (d : BitVec 4) (s : State), (InTask s ∨ n.toNat ∈ handlerMayRead) → Clear s [d] [] →
    (¬(0x060 ≤ n.toNat ∧ n.toNat ≤ 0x063) → exec (.mfs n d) s = .next ((s.setX d (s.readSr n.toNat)).retire 4#32)) ∧
    (0x060 ≤ n.toNat → n.toNat ≤ 0x063 → exec (.mfs n d) s = .next (((s.dropL1 s.who.core).setX d (s.readSr n.toNat)).retire 4#32)) ∧
    exec (.mfsCycle d) s = .next (((s.modCore s.who.core fun c => { c with cycleLatch := c.cycle.extractLsb' 32 32 }).setX d
      (s.core.cycle.extractLsb' 0 32)).retire 4#32)) ∧
  (∀ (s : State), InTask s →
    s.readSr 0x002 = s.task.epc.setWidth 32 <<< 1 ∧ s.readSr 0x003 = s.task.tval ∧ s.readSr 0x004 = s.task.tvec.setWidth 32 <<< 1 ∧
    s.readSr 0x008 = BitVec.ofNat 32 s.who.core ∧ s.readSr 0x009 = BitVec.ofNat 32 s.core.rank ∧
    s.readSr 0x00A = BitVec.ofNat 32 s.core.gsize ∧ s.readSr 0x00B = BitVec.ofNat 32 s.core.ctxid ∧
    s.readSr 0x00C = s.task.kslot.setWidth 32 ∧ s.readSr 0x011 = s.core.cycleLatch ∧ s.readSr 0x012 = s.task.instret ∧
    s.readSr 0x0A0 = s.core.hbase ∧
    ((s.readSr 0x000).getLsbD 0 = s.task.trapMode ∧ (s.readSr 0x000).getLsbD 1 = s.task.vl ∧ (s.readSr 0x000).getLsbD 9 = s.task.svl ∧
      (s.readSr 0x000).extractLsb' 2 2 = (if s.who.ctx = .tc1 then 2#2 else 0#2)) ∧
    ((s.readSr 0x001).getLsbD 7 = s.task.causeA ∧ (s.readSr 0x001).setWidth 7 = s.task.causeCode ∧ (s.readSr 0x001) >>> 8 = 0#32) ∧
    (∀ n, srMask n = none → n ∉ [0x008, 0x009, 0x00A, 0x00B, 0x00C, 0x011, 0x018, 0x0A0] → ¬(0x040 ≤ n ∧ n ≤ 0x047) → s.readSr n = 0#32)) ∧
  (∀ (n : BitVec 12) (d : BitVec 4) (s : State), s.inHandler = true →
    n.toNat ∉ handlerMayRead →
    exec (.mfs n d) s = .next (s.trap .srIllegal (n.setWidth 32)))

/-- R49, R86, R106: MTS, MTSI, MSS and MCS of a writable register complete with the value in its writable bits and every other special
register as before, but for VL, which a write of a loop register sets; the scalar registers and memory are unchanged; a write to cycleh
sets the counter's upper half; of a register that is not writable, and in the handler context, they take SR_ILLEGAL with its number. -/
def Sys2Proof.Claims.SpecialWrites : Prop :=
  (∀ i n rs v (s : State) m, srWriter i = some (n, rs, v) → InTask s → Clear s rs [] → srMask n.toNat = some m →
    ∃ u, exec i s = .next (u.retire 4#32) ∧ u.readSr n.toNat &&& m = v s &&& m ∧ u.readSr n.toNat &&& ~~~m = s.readSr n.toNat &&& ~~~m ∧
      (∀ k, k ≠ n.toNat → ¬(loopSr n.toNat ∧ k = 0) → u.readSr k = s.readSr k) ∧ (loopSr n.toNat → u.task.vl = true) ∧
      (∀ j r, u.xAt j r = s.xAt j r) ∧ SameMemory s u ∧ SameOutside s u) ∧
  (∀ i n rs v (s : State), srWriter i = some (n, rs, v) → InTask s → Clear s rs [] → n = 0x011#12 →
    exec i s = .next ((s.modCore s.who.core fun c => { c with cycle := v s ++ c.cycle.setWidth 32 }).retire 4#32)) ∧
  (∀ i n rs v (s : State), srWriter i = some (n, rs, v) → InTask s → Clear s rs [] → srMask n.toNat = none → n ≠ 0x011#12 →
    exec i s = .next (s.trap .srIllegal (n.setWidth 32))) ∧
  (∀ i n rs v (s : State), srWriter i = some (n, rs, v) → s.inHandler = true → exec i s = .next (s.trap .srIllegal (n.setWidth 32)))

/-- R107, R144, R146, R200, R202: WAITO completes once every field of ocnt is within its limit and, unless its copies code is 15, no
fault is held, the oldest of which it delivers; MFS of pq and of cq pops the oldest token or record and empties the L1, whether or not it
carries a fault, which it delivers; it reads all ones when there is nothing to come, and stalls when there is. -/
def Sys2Proof.Claims.WaitsAndPops : Prop :=
  (∀ (l st c t m : BitVec 4) (s : State), InTask s → Within l s.task.ocnt.loads → Within st s.task.ocnt.stores →
    Within c s.task.ocnt.copies → Within t s.task.ocnt.cmds → Within m s.task.ocnt.msgs → (c = 15#4 ∨ s.task.held = []) →
    exec (.waito l st c t m) s = .next (s.retire 4#32)) ∧
  (∀ (l st c t m : BitVec 4) (s : State) slot rest, InTask s → Within l s.task.ocnt.loads → Within st s.task.ocnt.stores →
    Within c s.task.ocnt.copies → Within t s.task.ocnt.cmds → Within m s.task.ocnt.msgs → c ≠ 15#4 → s.task.held = slot :: rest →
    NonePending s.task → exec (.waito l st c t m) s = .next (((s.dropHeld s.who slot).dropL1 s.who.core).trapAt s.who
      ⟨.copyFault, true, recordWord slot (s.core.slotAt slot)⟩).prefer) ∧
  (∀ (l st c t m : BitVec 4) (s : State), InTask s →
    ¬(Within l s.task.ocnt.loads ∧ Within st s.task.ocnt.stores ∧ Within c s.task.ocnt.copies ∧ Within t s.task.ocnt.cmds ∧
      Within m s.task.ocnt.msgs) → exec (.waito l st c t m) s = .next (s.modT fun t => { t with run := .stalled .retry })) ∧
  (∀ (d : BitVec 4) (s : State) tk rest, InTask s → Clear s [d] [] → s.task.tokens = tk :: rest → tk.f = none →
    exec (.mfsPq d) s = .next ((((s.modT fun c => { c with tokens := rest }).dropL1 s.who.core).setX d (tk.seq.setWidth 32)).retire 4#32)) ∧
  (∀ (d : BitVec 4) (s : State) tk rest c, InTask s → Clear s [d] [] → NonePending s.task → s.task.tokens = tk :: rest → tk.f = some c →
    exec (.mfsPq d) s = .next (((s.modT fun c => { c with tokens := rest }).dropL1 s.who.core).trapAt s.who ⟨c, true, tk.tval⟩).prefer) ∧
  (∀ (d : BitVec 4) (s : State), InTask s → Clear s [d] [] → s.task.tokens = [] →
    exec (.mfsPq d) s = .next (if s.task.ocnt.cmds = 0 then (s.setX d 0xFFFFFFFF#32).retire 4#32
      else s.modT fun t => { t with run := .stalled .retry })) ∧
  (∀ (d : BitVec 4) (s : State) slot rest, InTask s → Clear s [d] [] → s.task.cq = slot :: rest →
    (s.core.slotAt slot).undelivered = false →
    exec (.mfsCq d) s = .next ((((s.popCq s.who slot).dropL1 s.who.core).setX d (recordWord slot (s.core.slotAt slot))).retire 4#32)) ∧
  (∀ (d : BitVec 4) (s : State) slot rest, InTask s → Clear s [d] [] → NonePending s.task → s.task.cq = slot :: rest →
    (s.core.slotAt slot).undelivered = true →
    exec (.mfsCq d) s = .next ((((s.popCq s.who slot).dropHeld s.who slot).dropL1 s.who.core).trapAt s.who
      ⟨.copyFault, true, recordWord slot (s.core.slotAt slot)⟩).prefer) ∧
  (∀ (d : BitVec 4) (s : State), InTask s → Clear s [d] [] → s.task.cq = [] →
    exec (.mfsCq d) s = .next (if s.core.awaitsRecord (s.who.ctx == .tc1) = false then (s.setX d 0xFFFFFFFF#32).retire 4#32
      else s.modT fun t => { t with run := .stalled .retry }))

/-- R280 to R282, R264, R266: an escalation counts one more, writes its record at offset 0 of the last 4 KiB of the context's save area and
applies the context's policy: with policy 00 the group enters FAULTED and the others run on; CORE_HANG, RETENTION_LOSS and HANDLER_BUDGET
escalate; the scrubber counts LOCAL_SCRUB for an unbound core; a corrected soft error is only counted, an uncorrectable one in a core's
instructions traps or escalates; one symbol in error in a G32 granule of LPDDR is counted as corrected at its channel, and an uncorrectable
G32 granule is counted at its channel and poisoned.
The model's choices are those of log 49 and 62. -/
def Sys2Proof.Claims.CoreEvents : Prop :=
  (∀ (s : State) c g r, let t := s.writeFault c g r
    let a := (s.contextAt c).save + (s.contextAt c).ssize * 65536 - 4096
    t.faultSeq = s.faultSeq + 1#64 ∧
    (∀ k, k < 8 → t.phys.word (a + 4 * k) = (r.words c g (s.faultSeq + 1#64)).getD k 0#32) ∧
    (∀ b, (b < a ∨ a + 32 ≤ b) → t.phys.byte b = s.phys.byte b)) ∧
  (∀ (s : State) g cause r, (s.contextAt (s.groupAt g).ctx).policy = 0#2 → (s.groupAt g).state.live = true →
    ((s.escalate g cause r).groupAt g).state = .faulted ∧ (∀ h, h ≠ g → (s.escalate g cause r).groupAt h = s.groupAt h) ∧
    (s.escalate g cause r).cores = s.cores ∧ Event.groupRelease g ∈ (s.escalate g cause r).pending) ∧
  (∀ (s : State) k x, Performs s (.coreHang k x) → (s.taskAt ⟨k, x⟩).run = .running →
    exec .coreHang s = .next (s.escalateAt ⟨k, x⟩ .coreHang (BitVec.ofNat 32 k) (s.taskAt ⟨k, x⟩).pc)) ∧
  (∀ (s : State) k, Performs s (.retentionLoss k) → (s.coreAt k).power = .reserved →
    exec .retentionLoss s = .next (s.escalateAt ⟨k, .tc0⟩ .retentionLoss (BitVec.ofNat 32 k) 0#32)) ∧
  (∀ (s : State) k, Performs s (.handlerBudget k) → (s.coreAt k).hd.running = true → (s.coreAt k).hd.budget = 0 →
    exec .handlerBudget s = .next (s.escalateAt ⟨k, .handler⟩ .handlerBudget ((s.coreAt k).hd.cls.setWidth 32) (s.coreAt k).hd.pc)) ∧
  (∀ (s : State) k, Performs s (.scrubber k) → (s.coreAt k).power = .off → exec .scrubber s = .next (s.count .localScrub)) ∧
  (∀ (s : State) k die, Performs s (.softError (.corrected k die)) →
    exec .scrubber s = .next { s with records := { s.records with soft := s.records.soft.tally (8 * k + die) } }) ∧
  (∀ (s : State) k x c v, Performs s (.softError (.trap ⟨k, x⟩ c v)) → c ∈ trapErrors → c ∉ [.codeEcc, .vunitResidue, .tokenEcc, .cqEcc] →
    s.groupRuns k = true → x ≠ .handler → (s.taskAt ⟨k, x⟩).run = .running → NonePending (s.taskAt ⟨k, x⟩) →
    exec .scrubber s = .next (s.trapAt ⟨k, x⟩ ⟨c, false, v⟩)) ∧
  (∀ (s : State) k v, Performs s (.softError (.core k .pipeEcc v)) → (s.coreAt k).group ≠ 0 →
    exec .scrubber s = .next (s.escalateAt ⟨k, .tc0⟩ .pipeEcc (BitVec.ofNat 32 k) 0#32)) ∧
  (∀ (s : State) pa q b (x : Byte), Performs s (.memoryError pa [(0, q, b, x)]) → inLpddr pa = true → s.populated 0 pa (pa + 1) = true →
    s.pageOfFrame pa = none → q < 12 → b < 3 → x ≠ 0#8 →
    exec .scrubber s = .next (s.countCorrected 0 (errorChannels 0 (pa / 32 * 32) 0 [(0, q, b, x)]))) ∧
  (∀ (s : State) pa, s.uncorrectable 0 pa = (({ s with records := { s.records with
      uncorrectable := (((placement 0 pa).map (·.1)).dedup).foldl (fun m c => m.tally c) s.records.uncorrectable } } : State).markFrame
    (pa / 32 * 32) true)) ∧
  (∀ (s : State), ∃ t, exec .coreClockCycle s = .next t ∧ SameOutside s t ∧
    ∀ k, t.coreAt k = if (s.coreAt k).power = .bound ∨ (s.coreAt k).power = .saving
      then { s.coreAt k with cycle := (s.coreAt k).cycle + 1#64, divider := (s.coreAt k).divider - 1 } else s.coreAt k)

/-! ## Vectors (R112 to R133) -/

namespace Sys2Proof.Claims

/-- Lane k of width w of a vector register (R112). -/
def laneAt (v : Vec) (w k : Nat) : Nat := (v.extractLsb' (w * k) w).toNat

/-- A vector register of the issuing task context. -/
def vr (s : State) (r : BitVec 3) : Vec := s.task.v[r.toFin]

/-- Lane k is active under p(pm): bit k of the predicate; every lane is with pm = 0 (R113). -/
abbrev Active (s : State) (pm : BitVec 2) (k : Nat) : Prop := pm = 0#2 ∨ s.task.p[pm.toFin].getLsbD k = true

/-- The w low bits of an integer. -/
def wrap (w : Nat) (x : Int) : Nat := (x % 2 ^ w).toNat

/-- Lane k as the integer that its element type gives it (R24, R115). -/
def intAt (s : State) (r : BitVec 3) (et k : Nat) : Int := etInt et (laneAt (vr s r) (etBits et) k)

/-- Lane k as a floating value (R31). -/
def fpAt (s : State) (r : BitVec 3) (et k : Nat) : FVal := (etFmt et).decode (laneAt (vr s r) (etBits et) k)

/-- A value clamped to its type, with the SAT flag when that changes it (R25). -/
def clamp (et : Nat) (x : Int) : Nat × BitVec 4 :=
  if x < etMin et then (wrap (etBits et) (etMin et), 2#4)
  else if etMax et < x then (wrap (etBits et) (etMax et), 2#4) else (wrap (etBits et) x, 0#4)

/-- x ÷ 2^s to the nearest integer, ties to even (R26). -/
def nearest (x : Int) (s : Nat) : Int :=
  let q := x / 2 ^ s
  let r := x % 2 ^ s
  if 2 * r < 2 ^ s then q else if 2 * r = 2 ^ s then q + q % 2 else q + 1

/-- A vector instruction that writes the active lanes of one register: its element type, its predicate, the registers that it names,
and the value and the flags of a lane. -/
structure LaneRow where
  et   : Nat
  dest : BitVec 3
  pm   : BitVec 2
  xs   : List (BitVec 4)
  vs   : List (BitVec 3)
  lane : State → Nat → Nat × BitVec 4

/-- A row of two integer sources. -/
def intRow (b e d a : BitVec 3) (p : BitVec 2) (f : Nat → Int → Int → Nat × BitVec 4) : Option LaneRow :=
  some ⟨e.toNat, d, p, [], [a, b, d], fun s k => f e.toNat (intAt s a e.toNat k) (intAt s b e.toNat k)⟩

/-- A row of two sources taken as bits of the lane's width. -/
def bitRow (b e d a : BitVec 3) (p : BitVec 2) (f : Nat → Nat → Nat → Nat) : Option LaneRow :=
  some ⟨e.toNat, d, p, [], [a, b, d], fun s k =>
    (f (etBits e.toNat) (laneAt (vr s a) (etBits e.toNat) k) (laneAt (vr s b) (etBits e.toNat) k), 0#4)⟩

/-- A row of one source. -/
def oneRow (e d a : BitVec 3) (p : BitVec 2) (f : State → Nat → Nat × BitVec 4) : Option LaneRow :=
  some ⟨e.toNat, d, p, [], [a, d], f⟩

/-- An exact floating value rounded once to a lane's type, with its flags (R33). -/
def rounded (et : Nat) (x : FVal) : Nat × BitVec 4 := (((etFmt et).rne x).val, ((etFmt et).rne x).fl)

/-- The lane-by-lane vector instructions (R115 to R117, R119, R121, R122, R124, R129). -/
def laneRow : Instr → Option LaneRow
  | .vadd b e d a p => intRow b e d a p fun et x y => (wrap (etBits et) (x + y), 0#4)
  | .vsub b e d a p => intRow b e d a p fun et x y => (wrap (etBits et) (x - y), 0#4)
  | .vadds b e d a p => intRow b e d a p fun et x y => clamp et (x + y)
  | .vsubs b e d a p => intRow b e d a p fun et x y => clamp et (x - y)
  | .vmul b e d a p => intRow b e d a p fun et x y => (wrap (etBits et) (x * y), 0#4)
  | .vmulh b e d a p => intRow b e d a p fun et x y => (wrap (etBits et) (x * y / 2 ^ etBits et), 0#4)
  | .vmin b e d a p => intRow b e d a p fun et x y => (wrap (etBits et) (Min.min x y), 0#4)
  | .vmax b e d a p => intRow b e d a p fun et x y => (wrap (etBits et) (Max.max x y), 0#4)
  | .vmac b e d a p => some ⟨e.toNat, d, p, [], [a, b, d], fun s k =>
      (wrap (etBits e.toNat) (intAt s d e.toNat k + intAt s a e.toNat k * intAt s b e.toNat k), 0#4)⟩
  | .vand b e d a p => bitRow b e d a p fun _ x y => x &&& y
  | .vor b e d a p => bitRow b e d a p fun _ x y => x ||| y
  | .vxor b e d a p => bitRow b e d a p fun _ x y => x ^^^ y
  | .vandn b e d a p => bitRow b e d a p fun w x y => x &&& (2 ^ w - 1 - y)
  | .vshl b e d a p => bitRow b e d a p fun w x y => if w ≤ y then 0 else x * 2 ^ y
  | .vshr b e d a p => bitRow b e d a p fun w x y => if w ≤ y then 0 else x / 2 ^ y
  | .vsra b e d a p => bitRow b e d a p fun w x y =>
      if w ≤ y then (if x < 2 ^ (w - 1) then 0 else 2 ^ w - 1) else wrap w (sintOf w x / 2 ^ y)
  | .vabs e d a p => oneRow e d a p fun s k => (wrap (etBits e.toNat) |intAt s a e.toNat k|, 0#4)
  | .vneg e d a p => oneRow e d a p fun s k => (wrap (etBits e.toNat) (-intAt s a e.toNat k), 0#4)
  | .vfadd b e d a p => some ⟨e.toNat, d, p, [], [a, b, d], fun s k => rounded e.toNat ((fpAt s a e.toNat k).add (fpAt s b e.toNat k))⟩
  | .vfsub b e d a p => some ⟨e.toNat, d, p, [], [a, b, d], fun s k => rounded e.toNat ((fpAt s a e.toNat k).add (fpAt s b e.toNat k).neg)⟩
  | .vfmul b e d a p => some ⟨e.toNat, d, p, [], [a, b, d], fun s k => rounded e.toNat ((fpAt s a e.toNat k).mul (fpAt s b e.toNat k))⟩
  | .vfma b e d a p => some ⟨e.toNat, d, p, [], [a, b, d], fun s k =>
      rounded e.toNat ((fpAt s d e.toNat k).add ((fpAt s a e.toNat k).mul (fpAt s b e.toNat k)))⟩
  | .vfmin b e d a p => some ⟨e.toNat, d, p, [], [a, b, d], fun s k => rounded e.toNat ((fpAt s a e.toNat k).least (fpAt s b e.toNat k))⟩
  | .vfmax b e d a p => some ⟨e.toNat, d, p, [], [a, b, d], fun s k => rounded e.toNat ((fpAt s a e.toNat k).greatest (fpAt s b e.toNat k))⟩
  | .vfabs e d a p => oneRow e d a p fun s k => rounded e.toNat (fpAt s a e.toNat k).abs
  | .vfneg e d a p => oneRow e d a p fun s k => rounded e.toNat (fpAt s a e.toNat k).neg
  | .vrcp e d a p => oneRow e d a p fun s k => rounded e.toNat (fpAt s a e.toNat k).recip
  | .vrsq e d a p => oneRow e d a p fun s k => rounded e.toNat (fpAt s a e.toNat k).rsqrt
  | .vexp2 e d a p => oneRow e d a p fun s k => rounded e.toNat (fpAt s a e.toNat k).exp2
  | .vscl b d a p => some ⟨7, d, p, [], [a, b, d], fun s k =>
      let q := fmt32.rne (FVal.ofInt (intAt s a 4 k) 0)
      let r := fmt32.rne (((fmt32.decode q.val).mul (fpAt s b 7 k)).add (fpAt s d 7 k))
      (r.val, q.fl ||| r.fl)⟩
  | .vmov e d a p => oneRow e d a p fun s k => (laneAt (vr s a) (etBits e.toNat) k, 0#4)
  | .vperm b e d a p => some ⟨e.toNat, d, p, [], [a, b, d], fun s k =>
      let j := laneAt (vr s b) (etBits e.toNat) k
      (if j < lanes e.toNat then laneAt (vr s a) (etBits e.toNat) j else 0, 0#4)⟩
  | .vzipl b e d a p => some ⟨e.toNat, d, p, [], [a, b, d], fun s k =>
      (laneAt (vr s (if k % 2 = 0 then a else b)) (etBits e.toNat) (k / 2), 0#4)⟩
  | .vziph b e d a p => some ⟨e.toNat, d, p, [], [a, b, d], fun s k =>
      (laneAt (vr s (if k % 2 = 0 then a else b)) (etBits e.toNat) (lanes e.toNat / 2 + k / 2), 0#4)⟩
  | .vrev e d a p => oneRow e d a p fun s k => (laneAt (vr s a) (etBits e.toNat) (lanes e.toNat - 1 - k), 0#4)
  | .vbcast x e d p => some ⟨e.toNat, d, p, [x], [d], fun s _ => ((s.x x).toNat % 2 ^ etBits e.toNat, 0#4)⟩
  | .vins x e l d p => some ⟨e.toNat, d, p, [x], [d], fun s k =>
      (if k = l.toNat then (s.x x).toNat % 2 ^ etBits e.toNat else laneAt (vr s d) (etBits e.toNat) k, 0#4)⟩
  | .vslide x e n d a p => some ⟨e.toNat, d, p, [x], [a, d], fun s k =>
      (if k + n.toNat < lanes e.toNat then laneAt (vr s a) (etBits e.toNat) (k + n.toNat) else (s.x x).toNat % 2 ^ etBits e.toNat, 0#4)⟩
  | .vnarrow e sh d a p => some ⟨e.toNat, d, p, [], [a ++ 0#1, a ++ 1#1, d], fun s k =>
      let m := lanes (e.toNat + 2)
      let x := if k < m then intAt s (a ++ 0#1) (e.toNat + 2) k else intAt s (a ++ 1#1) (e.toNat + 2) (k - m)
      clamp e.toNat (nearest x sh.toNat)⟩
  | .vwiden e h d a p => oneRow e d a p fun s k =>
      (wrap (etBits e.toNat) (intAt s a (e.toNat - 2) (h.toNat * lanes e.toNat + k)), 0#4)
  | .vpopp d a p => some ⟨3, d, p, [], [a, d], fun s k => ((List.range (16 * k)).countP fun j => (vr s a).getLsbD j, 0#4)⟩
  | _ => none

/-- A predicate-writing vector instruction: its type, destination, predicate, sources and the condition of a lane. -/
structure PredRow where
  et   : Nat
  dest : BitVec 2
  pm   : BitVec 2
  vs   : List (BitVec 3)
  cond : State → Nat → Prop

/-- The compares and VNZM (R115, R116, R131). -/
def predRow : Instr → Option PredRow
  | .vcmpeq b e d a p => some ⟨e.toNat, d, p, [a, b], fun s k => intAt s a e.toNat k = intAt s b e.toNat k⟩
  | .vcmplt b e d a p => some ⟨e.toNat, d, p, [a, b], fun s k => intAt s a e.toNat k < intAt s b e.toNat k⟩
  | .vcmple b e d a p => some ⟨e.toNat, d, p, [a, b], fun s k => intAt s a e.toNat k ≤ intAt s b e.toNat k⟩
  | .vfcmpeq b e d a p => some ⟨e.toNat, d, p, [a, b], fun s k => (fpAt s a e.toNat k).eq (fpAt s b e.toNat k) = true⟩
  | .vfcmplt b e d a p => some ⟨e.toNat, d, p, [a, b], fun s k => (fpAt s a e.toNat k).lt (fpAt s b e.toNat k) = true⟩
  | .vfcmple b e d a p => some ⟨e.toNat, d, p, [a, b], fun s k =>
      (fpAt s a e.toNat k).lt (fpAt s b e.toNat k) = true ∨ (fpAt s a e.toNat k).eq (fpAt s b e.toNat k) = true⟩
  | .vnzm e d a p => some ⟨e.toNat, d, p, [a], fun s k => nonzeroElem e.toNat (laneAt (vr s a) (etBits e.toNat) k) = true⟩
  | _ => none

/-- A node of the fixed tree of R44 over 2^level lanes: level 0 is the entries, each later level combines neighbours of the level below; its
flags are those of all its combinations. -/
def treeNode (f : Nat → Nat → Res) (entry : Nat → Nat) : Nat → Nat → Nat × BitVec 4
  | 0, j => (entry j, 0#4)
  | l + 1, j =>
    let a := treeNode f entry l (2 * j)
    let b := treeNode f entry l (2 * j + 1)
    ((f a.1 b.1).val, a.2 ||| b.2 ||| (f a.1 b.1).fl)

/-- The value and the flags of a floating reduction of a register's lanes: inactive lanes enter as z, each combination is rounded (R44). -/
def floatTree (s : State) (a : BitVec 3) (et : Nat) (p : BitVec 2) (z : Nat) (f : FVal → FVal → FVal) : Nat × BitVec 4 :=
  treeNode (fun x y => (etFmt et).rne (f ((etFmt et).decode x) ((etFmt et).decode y)))
    (fun k => if s.task.active p k then laneAt (vr s a) (etBits et) k else z) (lanes et).log2 0

/-- A scalar register takes the value of a floating reduction, and vstat its flags (R37, R123). -/
def reduced (s : State) (x : BitVec 4) (et : Nat) (r : Nat × BitVec 4) : State :=
  ((s.modT fun t => { t with vstat := t.vstat ||| r.2 }).setX x (extendLane et r.1)).retire 4#32

/-- The element code of an instruction is one that names lanes: R24's codes 0 to 7. -/
abbrev LaneCode (et : Nat) : Prop := et < 8

/-- A task context differs from another at most in its vector registers, predicates, VL, flags, xc, xn and generator. -/
def SameButVectors (t u : TaskCtx) : Prop :=
  { u with v := t.v, p := t.p, vl := t.vl, vstat := t.vstat, xc := t.xc, xn := t.xn, lfsr := t.lfsr } = t

/-- A task context differs from another at most in one vector register and VL, which is set (R48, R113). -/
def OnlyRegister (d : BitVec 3) (t u : TaskCtx) : Prop :=
  { u with v := t.v, vl := t.vl } = t ∧ (∀ e, e ≠ d → u.v[e.toFin] = t.v[e.toFin]) ∧ u.vl = true

end Sys2Proof.Claims

/-- R112 to R117, R119, R121, R122, R124, R129: a lane-by-lane instruction of a task context writes each active lane of its destination
with the lane's value, keeps the inactive lanes, sets VL and the flags of its active lanes, leaves every other register as it was, and
retires.
Where the spec leaves it open, the model's choices are those of log 6. -/
def Obligations.LanewiseResults : Prop :=
  ∀ i r (s : State), laneRow i = some r → InTask s → Clear s r.xs r.vs →
    ∃ u : TaskCtx, exec i s = .next ((s.modT fun _ => u).retire 4#32) ∧
      (∀ k, k < lanes r.et → laneAt u.v[r.dest.toFin] (etBits r.et) k =
        if Active s r.pm k then (r.lane s k).1 % 2 ^ etBits r.et else laneAt (vr s r.dest) (etBits r.et) k) ∧
      (∀ e, e ≠ r.dest → u.v[e.toFin] = s.task.v[e.toFin]) ∧ u.vl = true ∧
      (∀ j, u.vstat.getLsbD j = true ↔ s.task.vstat.getLsbD j = true ∨
        ∃ k, k < lanes r.et ∧ Active s r.pm k ∧ (r.lane s k).2.getLsbD j = true) ∧
      u.p = s.task.p ∧ u.xc = s.task.xc ∧ u.xn = s.task.xn ∧ u.lfsr = s.task.lfsr ∧ SameButVectors s.task u

/-- R113, R115, R116, R131: a compare or VNZM writes bit k of its predicate for each active lane k at which its condition holds, zero
elsewhere; a write of p0 is discarded; it sets VL and retires, and leaves the vector registers and flags alone. -/
def Sys2Proof.Claims.PredicateResults : Prop :=
  ∀ i r (s : State), predRow i = some r → InTask s → Clear s [] r.vs →
    ∃ u : TaskCtx, exec i s = .next ((s.modT fun _ => u).retire 4#32) ∧
      (r.dest ≠ 0#2 → ∀ k, k < 32 →
        (u.p[r.dest.toFin].getLsbD k = true ↔ k < lanes r.et ∧ Active s r.pm k ∧ r.cond s k)) ∧
      (∀ e, (e ≠ r.dest ∨ r.dest = 0#2) → u.p[e.toFin] = s.task.p[e.toFin]) ∧ u.vl = true ∧ u.v = s.task.v ∧
      u.vstat = s.task.vstat ∧ SameButVectors s.task u

/-- R115, R121: VSEL takes each lane from its first source where pm is active and else from its second; VCOMPR gathers the active lanes
at the low end and VEXPND spreads the low lanes over the active ones, with zero elsewhere; every lane is written. -/
def Sys2Proof.Claims.SelectsAndCompressions : Prop :=
  (∀ (b e d a : BitVec 3) (p : BitVec 2) (s : State), InTask s → Clear s [] [a, b, d] →
    ∃ u : TaskCtx, exec (.vsel b e d a p) s = .next ((s.modT fun _ => u).retire 4#32) ∧ OnlyRegister d s.task u ∧
      ∀ k, k < lanes e.toNat → (Active s p k → laneAt u.v[d.toFin] (etBits e.toNat) k = laneAt (vr s a) (etBits e.toNat) k) ∧
        (¬ Active s p k → laneAt u.v[d.toFin] (etBits e.toNat) k = laneAt (vr s b) (etBits e.toNat) k)) ∧
  (∀ (e d a : BitVec 3) (p : BitVec 2) (s : State), InTask s → Clear s [] [a, d] →
    let on := (List.range (lanes e.toNat)).filter fun k => s.task.active p k
    (∃ u : TaskCtx, exec (.vcompr e d a p) s = .next ((s.modT fun _ => u).retire 4#32) ∧ OnlyRegister d s.task u ∧
      ∀ k, k < lanes e.toNat → laneAt u.v[d.toFin] (etBits e.toNat) k =
        match on[k]? with | some j => laneAt (vr s a) (etBits e.toNat) j | none => 0) ∧
    (∃ u : TaskCtx, exec (.vexpnd e d a p) s = .next ((s.modT fun _ => u).retire 4#32) ∧ OnlyRegister d s.task u ∧
      ∀ k, k < lanes e.toNat → (Active s p k → laneAt u.v[d.toFin] (etBits e.toNat) k =
          laneAt (vr s a) (etBits e.toNat) (on.countP fun j => j < k)) ∧
        (¬ Active s p k → laneAt u.v[d.toFin] (etBits e.toNat) k = 0)))

/-- R44, R122, R123: VEXT writes a lane to a scalar register, zero when it is inactive; VNZC counts the active nonzero lanes; VSUMR of
integer lanes gives the sum of the active lanes in the lane's width, VMAXR their greatest, or the least value of the type when none
is active; a floating reduction runs the fixed tree, inactive lanes entering as +0 and as −∞, each combination rounded to nearest, and
sets the flags of all of them. -/
def Sys2Proof.Claims.LaneReductions : Prop :=
  ∀ (x : BitVec 4) (e a : BitVec 3) (p : BitVec 2) (s : State), InTask s → Clear s [x] [a] →
    (∀ l : BitVec 5, exec (.vext x e l a p) s = .next ((s.setX x
      (if s.task.active p l.toNat then extendLane e.toNat (laneAt (vr s a) (etBits e.toNat) l.toNat) else 0#32)).retire 4#32)) ∧
    exec (.vnzc x e a p) s = .next ((s.setX x (extendLane e.toNat ((List.range (lanes e.toNat)).countP fun k =>
      s.task.active p k && nonzeroElem e.toNat (laneAt (vr s a) (etBits e.toNat) k)))).retire 4#32) ∧
    (etFloat e.toNat = false →
      exec (.vsumr x e a p) s = .next ((s.setX x (extendLane e.toNat (wrap (etBits e.toNat)
        (((List.range (lanes e.toNat)).filter fun k => s.task.active p k).map (intAt s a e.toNat)).sum))).retire 4#32)) ∧
    (etFloat e.toNat = false → ∃ m : Int,
      exec (.vmaxr x e a p) s = .next ((s.setX x (extendLane e.toNat (wrap (etBits e.toNat) m))).retire 4#32) ∧
      (∀ k, k < lanes e.toNat → Active s p k → intAt s a e.toNat k ≤ m) ∧
      ((m = etMin e.toNat) ∨ ∃ k, k < lanes e.toNat ∧ Active s p k ∧ intAt s a e.toNat k = m)) ∧
    (etFloat e.toNat = true →
      exec (.vsumr x e a p) s = .next (reduced s x e.toNat (floatTree s a e.toNat p 0 FVal.add)) ∧
      exec (.vmaxr x e a p) s = .next (reduced s x e.toNat
        (floatTree s a e.toNat p ((etFmt e.toNat).infinity true) FVal.greatest)))

/-- R36, R118, R120, R125 to R127: VCVT without stochastic rounding converts each active lane that both types have and clears the lanes
that only the destination has; VTRIT unpacks thirty trits, VPACKT packs the signs of thirty lanes so that they unpack again; the block
instructions quantise, dequantise and add blocks under the least scale that fits; VCLEAR clears the vector state and VL.
Where the spec leaves it open, the model's choices are those of log 50. -/
def Obligations.ConversionsAndBlocks : Prop :=
  (∀ (so e : BitVec 3) (r : BitVec 2) (d a : BitVec 3) (p : BitVec 2) (s : State), InTask s → Clear s [] [a, d] → r ≠ 2#2 →
    ∃ u : TaskCtx, exec (.vcvt so e r d a p) s = .next ((s.modT fun _ => u).retire 4#32) ∧ u.lfsr = s.task.lfsr ∧
      SameButVectors s.task u ∧ ∀ k, k < lanes e.toNat →
        (lanes so.toNat ≤ k → laneAt u.v[d.toFin] (etBits e.toNat) k = 0) ∧
        (k < lanes so.toNat → Active s p k → laneAt u.v[d.toFin] (etBits e.toNat) k =
          (convLane so.toNat e.toNat (rmOfField r.toNat) 0 (laneAt (vr s a) (etBits so.toNat) k)).val % 2 ^ etBits e.toNat) ∧
        (k < lanes so.toNat → ¬ Active s p k →
          laneAt u.v[d.toFin] (etBits e.toNat) k = laneAt (vr s d) (etBits e.toNat) k)) ∧
  (∀ (so e : BitVec 3) (d a : BitVec 3) (p : BitVec 2) (s : State), InTask s → Clear s [] [a, d] →
    ∃ u : TaskCtx, exec (.vcvt so e 2#2 d a p) s = .next ((s.modT fun _ => u).retire 4#32) ∧ SameButVectors s.task u) ∧
  (∀ (d a : BitVec 3) (p : BitVec 2) (s : State), InTask s → Clear s [] [a, d] →
    ∃ u : TaskCtx, exec (.vtrit d a p) s = .next ((s.modT fun _ => u).retire 4#32) ∧ SameButVectors s.task u ∧
      ∀ k, k < 32 → laneAt u.v[d.toFin] 8 k =
        (if Active s p k then (if k < 30 then wrap 8 (tritAt (laneAt (vr s a) 8) k) else 0) else laneAt (vr s d) 8 k)) ∧
  (∀ (d a : BitVec 3) (p : BitVec 2) (s : State), InTask s → Clear s [] [a, d] →
    ∃ u : TaskCtx, exec (.vpackt d a p) s = .next ((s.modT fun _ => u).retire 4#32) ∧ SameButVectors s.task u ∧
      (∀ k, k < 30 → tritAt (laneAt u.v[d.toFin] 8) k =
        (if Active s p k then (sintOf 8 (laneAt (vr s a) 8 k)).sign else 0)) ∧
      ∀ k, 6 ≤ k → k < 32 → laneAt u.v[d.toFin] 8 k = 0) ∧
  (∀ (x : BitVec 4) (d : BitVec 3) (q : BitVec 1) (p : BitVec 2) (s : State), InTask s → Clear s [x] (d :: quadRegs q) →
    exec (.vmxq x d q p) s = .next ((s.writeBlock d x ((List.range 32).map fun k =>
      if s.task.active p k then fpAt s (quadReg q (k / 8)) 7 (k % 8) else .fin false 0 0)).retire 4#32)) ∧
  (∀ (x : BitVec 4) (q : BitVec 1) (a : BitVec 3) (p : BitVec 2) (s : State), InTask s → Clear s [x] (a :: quadRegs q) →
    ∃ u : TaskCtx, exec (.vmxd x q a p) s = .next ((s.modT fun _ => u).retire 4#32) ∧ SameButVectors s.task u ∧
      (∀ k, k < 32 → s.task.active p k = true → laneAt u.v[(quadReg q (k / 8)).toFin] 32 (k % 8) =
        (fmt32.rne (mx8Val (laneAt (vr s a) 8 k) ((s.x x).toNat % 256))).val)) ∧
  (∀ (x : BitVec 4) (d a : BitVec 3) (p : BitVec 2) (s : State), InTask s → Clear s [x] [d, a] →
    (s.x x).toNat % 256 ≠ 255 → (s.x x).toNat / 256 % 256 ≠ 255 →
    exec (.badq x d a p) s = .next ((s.writeBlock d x ((List.range 32).map fun k =>
      if s.task.active p k then (mx8Val (laneAt (vr s d) 8 k) ((s.x x).toNat % 256)).add
        (mx8Val (laneAt (vr s a) 8 k) ((s.x x).toNat / 256 % 256)) else .fin false 0 0)).retire 4#32)) ∧
  (∀ (fs : List FVal), (∀ f ∈ fs, f ≠ .nan) →
    let fits (e : Nat) (f : FVal) : Prop := ∃ y, inUnits e f = some y ∧ y.natAbs ≤ 127
    (quantise fs).1 ≤ 254 ∧ ((quantise fs).1 = 254 ∨ ∀ f ∈ fs, fits (quantise fs).1 f) ∧
    ∀ e, e < (quantise fs).1 → ∃ f ∈ fs, ¬ fits e f) ∧
  (∀ (s : State), InTask s → Clear s [] allVregs →
    let clear (n : Word) : State := (s.modT fun t => { t with
      v := Vector.replicate 8 0#256, p := ((t.p.set 1 0#32).set 2 0#32).set 3 0#32, vl := false }).retire n
    exec .vclear s = .next (clear 4#32) ∧ exec .cVclear s = .next (clear 2#32))

/-- R128, R130: VBAND and VBOR combine bitmaps in the active bytes, clear xc and count the bits of the result in xn; VXSECT takes the
next sixteen common positions from xc on, with their ranks in both bitmaps, counts them in xn, marks them in its predicate and moves
xc behind them. -/
def Sys2Proof.Claims.Bitmaps : Prop :=
  (∀ (b d a : BitVec 3) (p : BitVec 2) (s : State), InTask s → Clear s [] [a, b, d] →
    let result (i : Instr) (f : Nat → Nat → Nat) : Prop := ∃ u : TaskCtx, exec i s = .next ((s.modT fun _ => u).retire 4#32) ∧
      SameButVectors s.task u ∧ u.xc = 0#32 ∧
      u.xn = BitVec.ofNat 32 ((List.range 256).countP fun j => u.v[d.toFin].getLsbD j) ∧
      ∀ k, k < 32 → laneAt u.v[d.toFin] 8 k =
        if s.task.active p k then f (laneAt (vr s a) 8 k) (laneAt (vr s b) 8 k) else laneAt (vr s d) 8 k
    result (.vband b d a p) (· &&& ·) ∧ result (.vbor b d a p) (· ||| ·)) ∧
  (∀ (b d a : BitVec 3) (p : BitVec 2) (s : State), InTask s → Clear s [] [a, b, d] →
    let common := (List.range 256).filter fun j => decide (s.task.xc.toNat ≤ j) && (vr s a).getLsbD j && (vr s b).getLsbD j
    let rank (v : Vec) (j : Nat) : Nat := (List.range j).countP fun i => v.getLsbD i
    ∃ u : TaskCtx, exec (.vxsect b d a p) s = .next ((s.modT fun _ => u).retire 4#32) ∧ SameButVectors s.task u ∧
      u.xn = BitVec.ofNat 32 (Min.min 16 common.length) ∧
      (∀ k, k < 16 → laneAt u.v[d.toFin] 16 k =
        match common[k]? with | some j => rank (vr s b) j * 256 + rank (vr s a) j | none => 0) ∧
      (p ≠ 0#2 → ∀ k, k < 32 → (u.p[p.toFin].getLsbD k = true ↔ k < common.length ∧ k < 16)) ∧
      (s.task.xc.toNat < 256 → common.length ≤ 16 → u.xc = 256#32) ∧
      (∀ j, 16 < common.length → common[15]? = some j → u.xc = BitVec.ofNat 32 (j + 1)))

/-- R56, R132, R133: VLD and VST move 32 bytes at a word-aligned local address, VLDX and VSTX the sixteen bytes or halfwords or eight
words at the indexed addresses; the stores change only the bytes that they store, outside the protected regions. -/
def Obligations.VectorMemory : Prop :=
  (∀ (i : BitVec 11) (v : BitVec 3) (x : BitVec 4) (s : State), InTask s → Clear s [x] [v] → NoAcquire s →
    let a := s.x x + 4#32 * i.signExtend 32
    a.toNat + 32 ≤ 0x8000 → a.toNat % 4 = 0 → OwnClear s a 32 →
    (∃ u : TaskCtx, exec (.vld i v x) s = .next ((s.modT fun _ => u).retire 4#32) ∧ u.vl = true ∧
      (∀ k, k < 32 → laneAt u.v[v.toFin] 8 k = (s.core.lm.byte (a.toNat + k)).toNat) ∧
      (∀ e, e ≠ v → u.v[e.toFin] = s.task.v[e.toFin]) ∧ SameButVectors s.task u) ∧
    ((a.toNat + 32 ≤ 0x7000 ∨ 0x7C00 ≤ a.toNat) →
      let stored := (List.range 32).map fun k => (vr s v).extractLsb' (8 * k) 8
      let words := (List.range 8).map fun k => a.toNat + 4 * k
      exec (.vst i v x) s =
        .next ((s.modCore s.who.core fun c => { c.ageAll s.who.ctx words with lm := c.lm.setBytes a.toNat stored }).retire 4#32))) ∧
  (∀ (i : BitVec 3) (z : BitVec 2) (v : BitVec 3) (x : BitVec 4) (s : State), InTask s → Clear s [x] [i, v] → NoAcquire s → z ≠ 3#2 →
    let n := 2 ^ z.toNat
    let a (k : Nat) : Nat := (s.x x + BitVec.ofNat 32 (laneAt (vr s i) 16 k * n)).toNat
    let count := if z = 2#2 then 8 else 16
    (∀ k, k < count → a k + n ≤ 0x8000 ∧ a k % n = 0 ∧ s.ownClear (a k) n = true) →
    (∃ u : TaskCtx, exec (.vldx i z v x) s = .next ((s.modT fun _ => u).retire 4#32) ∧ SameButVectors s.task u ∧
      ∀ k, k < 32 / n → laneAt u.v[v.toFin] (8 * n) k = if k < count then s.core.lm.le (a k) n else 0) ∧
    ((∀ k, k < count → a k + n ≤ 0x7000 ∨ 0x7C00 ≤ a k) → ∃ t, exec (.vstx i z v x) s = .next t ∧
      (∀ k, k < count → (∀ j, k < j → j < count → a j ≠ a k) →
        (t.coreAt s.who.core).lm.le (a k) n = laneAt (vr s v) (8 * n) k) ∧
      (∀ b, (∀ k, k < count → b < a k ∨ a k + n ≤ b) → (t.coreAt s.who.core).lm.byte b = s.core.lm.byte b) ∧
      (∀ j r, t.xAt j r = s.xAt j r) ∧ SameOutside s t ∧ ∀ j, j ≠ s.who.core → t.coreAt j = s.coreAt j))

/-! ## Global accesses, pages and the pager (R99 to R104, R134 to R136, R211, R257 to R274) -/

namespace Sys2Proof.Claims

/-- A tensor map is bound, its element code is one of R102, and the index names the element at a virtual address that is a multiple
of 4 (R99, R102). -/
abbrev GlobalAt (s : State) (t : BitVec 4) (i : BitVec 8) (x : BitVec 4) (m : Rec) (va : Nat) : Prop :=
  s.task.tm[t.toFin] = some m ∧ (mapEt m = 4 ∨ mapEt m = 5 ∨ mapEt m = 7) ∧
    viewVa m s.core.gsize s.core.rank (s.x x + i.setWidth 32).toNat = some va ∧ va % 4 = 0

/-- No page fault meets an access at issue (R102, R262). -/
abbrev PageFree (s : State) (va : Nat) (n : Need) : Prop := s.pageTrap s.core.ctxid va n = none

/-- The access that a scalar global instruction sends to the slice (R102, R236). -/
def scalarAccess (s : State) (m : Rec) (va : Nat) (op : AccOp) (dest : Dest) (fill acq : Bool) : Access :=
  ⟨s.who, s.core.ctxid, 4, [(0, va)], op, dest, fill, acq, s.waitCount, mapReuse m, [], none, s.core.group⟩

/-- An access on its way to its slice. -/
def sent (s : State) (a : Access) : State := { s with waitCount := s.waitCount + 1, pending := s.pending ++ [.sliceRequest a] }

/-- The global atomics but GACAS (R102): the operation depends on the element code for GAMIN and GAMAX. -/
def gaRow : Instr → Option ((Rec → GAtomic) × BitVec 4 × BitVec 8 × BitVec 4 × BitVec 4)
  | .gaadd t i d x => some (fun _ => .add, t, i, d, x)
  | .gamin t i d x => some (fun m => if mapEt m = 5 then .minn else .min, t, i, d, x)
  | .gamax t i d x => some (fun m => if mapEt m = 5 then .maxn else .max, t, i, d, x)
  | .gaswap t i d x => some (fun _ => .swap, t, i, d, x)
  | .gafadd t i d x => some (fun _ => .fadd, t, i, d, x)
  | _ => none

/-- The scalar global instructions with their map slot and the registers that they name. -/
def gmemRow : Instr → Option (BitVec 4 × BitVec 8 × BitVec 4 × List (BitVec 4))
  | .glw t i d x => some (t, i, x, [x, d])
  | .glwa t i d x => some (t, i, x, [x, d])
  | .gsw t i d x => some (t, i, x, [x, d])
  | .gswl t i d x => some (t, i, x, [x, d])
  | .gaadd t i d x => some (t, i, x, [x, d])
  | .gamin t i d x => some (t, i, x, [x, d])
  | .gamax t i d x => some (t, i, x, [x, d])
  | .gaswap t i d x => some (t, i, x, [x, d])
  | .gafadd t i d x => some (t, i, x, [x, d])
  | .gacas t i d x => some (t, i, x, [x, d ++ 0#1, d ++ 1#1])
  | _ => none

/-- The value that a global atomic leaves (R102, R103). -/
def globalResult : GAtomic → Word → Word → Word → Word
  | .add, w, a, _ => w + a
  | .min, w, a, _ => BitVec.ofInt 32 (Min.min w.toInt a.toInt)
  | .max, w, a, _ => BitVec.ofInt 32 (Max.max w.toInt a.toInt)
  | .minn, w, a, _ => BitVec.ofNat 32 (Min.min w.toNat a.toNat)
  | .maxn, w, a, _ => BitVec.ofNat 32 (Max.max w.toNat a.toNat)
  | .swap, _, a, _ => a
  | .cas, w, a, b => if w = a then b else w
  | .fadd, w, a, _ => BitVec.ofNat 32 (fmt32.rne ((fmt32.decode w.toNat).add (fmt32.decode a.toNat))).val

/-- A vector global access finds its slot bound and no invalid index under edge = 1: the element size and the elements (R134). -/
abbrev VectorAt (s : State) (t : BitVec 4) (i : BitVec 9) (x : BitVec 4) (walk : Bool) (m : Rec) (n : Nat) (es : List VElem) : Prop :=
  s.task.tm[t.toFin] = some m ∧ s.vElems m walk (s.x x + i.setWidth 32).toNat = (n, es) ∧
    (mapEdge m = true → ∀ e ∈ es, e.va ≠ none)

/-- The access that a vector global instruction sends. -/
def vectorAccess (s : State) (m : Rec) (n : Nat) (es : List VElem) (op : AccOp) (dest : Dest) (fill acq : Bool) : Access :=
  ⟨s.who, s.core.ctxid, n, es.filterMap fun e => e.va.map fun va => (e.lane, va), op, dest, fill, acq, s.waitCount, mapReuse m, [], none, s.core.group⟩

/-- The access of a PGDISC to one page of this part (R273). -/
def discardAccess (s : State) (page : Nat) : Access :=
  ⟨s.who, s.core.ctxid, 1, [(0, page)], .discard, .none, false, false, s.waitCount, mapReuse (Vector.replicate 16 0#32), [], none,
    s.core.group⟩

/-- A byte that the L1 of a core holds for a context's address. -/
def l1Byte (c : Core) (ctx a : Nat) : Option Byte := (c.l1Find ctx (a / 32)).bind fun l => l.bytes[a % 32]?

/-- The need of a scalar global instruction (R262). -/
def gmemNeed : Instr → Need
  | .glw .. | .glwa .. => .read
  | .gsw .. | .gswl .. => .write
  | _ => .atomic

/-- The page's fault comes before anything that a scalar global instruction waits for: GLW misses the L1, GSWL has nothing outstanding. -/
def gmemMeets (s : State) (va : Nat) : Instr → Prop
  | .glw .. => s.core.l1Find s.core.ctxid (va / 32) = none
  | .gswl .. => Settled s
  | _ => True

/-- The held lines updated by the lanes that a vector store writes, lane by lane (R104, R136). -/
def vstgLines (s : State) (v : Vec) (n : Nat) (el : List (Nat × Nat)) : State :=
  el.foldl (fun s e => s.modCore s.who.core (Core.l1Write s.core.ctxid e.2 (leBytes n (laneOf v (8 * n) e.1)))) s

/-- The vector global accesses: VLDG, VLDGS and VSTG. -/
def vgmemRow : Instr → Option (BitVec 4 × BitVec 9 × BitVec 3 × BitVec 1 × BitVec 4 × Bool × Need)
  | .vldg t i v o x => some (t, i, v, o, x, false, .read)
  | .vldgs t i v o x => some (t, i, v, o, x, true, .read)
  | .vstg t i v o x => some (t, i, v, o, x, false, .write)
  | _ => none

/-- A line of 128 bytes overlaps a range of addresses. -/
abbrev LineIn (lo hi line : Nat) : Prop := lo < 128 * line + 128 ∧ 128 * line ≤ hi

/-- A piece that has returned to its slices: it is marked, and its core goes OFF when it held no other (R75, R270). -/
def pieceBack (s : State) (v : Victim) (k p : Nat) (l : Leaf) : State :=
  let i := v.places.idxOf (k, p)
  let back := s.takePiece v (v.va + 512 * i) l ((s.coreAt k).lm.bytes (512 * p) 512)
  State.powerDown k
    { back with victims := back.victims.map fun u => if u == v then { u with recalled := u.recalled ++ [i] } else u }

/-- A pager event finds its page's leaf in a state (R269). -/
abbrev PageIs (s : State) (ctx va : Nat) (l : Leaf) (st : Nat) : Prop := s.walk ctx va = .leaf l ∧ l.state = st

end Sys2Proof.Claims

/-- R99, R102, R104, R406: GLW of a held line gives its bytes at once, else it sends its access and marks its destination pending; GLWA
does so as an acquire that bypasses the L1; GSW and GSWL update a held line and send their word, GSWL once all earlier accesses are
done; an invalid index of a map with edge = 0 reads zero. -/
def Sys2Proof.Claims.GlobalLoadsAndStores : Prop :=
  (∀ (t : BitVec 4) (i : BitVec 8) (d x : BitVec 4) (s : State) m va, InTask s → Ready s [x, d] → GlobalAt s t i x m va →
    (s.core.l1Find s.core.ctxid (va / 32) = none → PageFree s va .read → s.task.ocnt.loads < 63 →
      exec (.glw t i d x) s = .next ((sent (s.modT (TaskCtx.beginLoad d false false))
        (scalarAccess s m va .read (.x d) true false)).retire 4#32)) ∧
    (∀ l bs, s.core.l1Find s.core.ctxid (va / 32) = some l → s.core.l1Read s.core.ctxid va 4 = some bs →
      exec (.glw t i d x) s = .next ((((s.seeL1 [(va, 4)]).modCore s.who.core (Core.l1Put l)).setX d (BitVec.ofNat 32 (leNat bs))).retire 4#32)) ∧
    (PageFree s va .read → s.task.ocnt.loads < 63 →
      exec (.glwa t i d x) s = .next ((sent (s.modT (TaskCtx.beginLoad d true false))
        (scalarAccess s m va .read (.x d) false true)).retire 4#32)) ∧
    (PageFree s va .write → s.task.ocnt.stores < 63 →
      let stored := (sent ((s.modCore s.who.core (Core.l1Write s.core.ctxid va (leBytes 4 (s.x d).toNat))).modT TaskCtx.beginStore)
        (scalarAccess s m va (.write ((s.x d).setWidth 256)) .none false false)).retire 4#32
      exec (.gsw t i d x) s = .next stored ∧ (Settled s → exec (.gswl t i d x) s = .next stored))) ∧
  (∀ (t : BitVec 4) (i : BitVec 8) (d x : BitVec 4) (s : State) m, InTask s → Ready s [x, d] → s.task.tm[t.toFin] = some m →
    (mapEt m = 4 ∨ mapEt m = 5 ∨ mapEt m = 7) → viewVa m s.core.gsize s.core.rank (s.x x + i.setWidth 32).toNat = none → mapEdge m = false →
    exec (.glw t i d x) s = .next ((s.setX d 0#32).retire 4#32) ∧ exec (.gsw t i d x) s = .next (s.retire 4#32))

/-- R102, R103: a global atomic sends its operands to the slice of its element and completes with its destination pending; GACAS names a
pair of registers.
Where the spec leaves it open, the model's choices are those of log 69. -/
def Sys2Proof.Claims.GlobalAtomics : Prop :=
  (∀ i k t n d x (s : State) m va, gaRow i = some (k, t, n, d, x) → InTask s → Ready s [x, d] → GlobalAt s t n x m va →
    PageFree s va .atomic → s.task.ocnt.loads < 63 →
    exec i s = .next ((sent (s.modT (TaskCtx.beginLoad d false true))
      (scalarAccess s m va (.atomic (k m) (s.x d) 0#32) (.x d) false false)).retire 4#32)) ∧
  (∀ (t : BitVec 4) (n : BitVec 8) (d : BitVec 3) (x : BitVec 4) (s : State) m va, InTask s → Ready s [x, d ++ 0#1, d ++ 1#1] →
    GlobalAt s t n x m va → PageFree s va .atomic → s.task.ocnt.loads < 63 →
    exec (.gacas t n d x) s = .next ((sent (s.modT (TaskCtx.beginLoad (d ++ 0#1) false true))
      (scalarAccess s m va (.atomic .cas (s.x (d ++ 0#1)) (s.x (d ++ 1#1))) (.x (d ++ 0#1)) false false)).retire 4#32))

/-- R99 to R102, R262: an unbound slot takes TMAP_UNBOUND with the slot, another element code or an invalid index under edge = 1 TMAP_RANGE
with the index, a misaligned element MISALIGNED with its address, and a page that refuses the access its own trap. -/
def Sys2Proof.Claims.GlobalAccessFaults : Prop :=
  ∀ i t n x rs (s : State), gmemRow i = some (t, n, x, rs) → InTask s → Ready s rs →
    let l := s.x x + n.setWidth 32
    (s.task.tm[t.toFin] = none → exec i s = .next (s.trap .tmapUnbound (t.setWidth 32))) ∧
    (∀ m, s.task.tm[t.toFin] = some m → mapEt m ≠ 4 → mapEt m ≠ 5 → mapEt m ≠ 7 → exec i s = .next (s.trap .tmapRange l)) ∧
    (∀ m, s.task.tm[t.toFin] = some m → (mapEt m = 4 ∨ mapEt m = 5 ∨ mapEt m = 7) → viewVa m s.core.gsize s.core.rank l.toNat = none →
      mapEdge m = true → exec i s = .next (s.trap .tmapRange l)) ∧
    (∀ m va, s.task.tm[t.toFin] = some m → (mapEt m = 4 ∨ mapEt m = 5 ∨ mapEt m = 7) → viewVa m s.core.gsize s.core.rank l.toNat = some va →
      va % 4 ≠ 0 → exec i s = .next (s.trap .misaligned (BitVec.ofNat 32 va))) ∧
    (∀ m va tr, GlobalAt s t n x m va → gmemMeets s va i → s.pageTrap s.core.ctxid va (gmemNeed i) = some tr →
      exec i s = .next (s.trapWith tr))

/-- R260, R262, R267, R338: what a page does to an access at its issue: a walk that finds no entry takes PAGE_FAULT, a malformed entry
PTE_MALFORMED, a poisoned one MEM_UNCORRECTABLE; a permission that the leaf lacks PERM_READ before PERM_WRITE; a HOST page without a host link
REMOTE_UNREACHABLE, and a REMOTE page whose home has no route ROUTE_UNREACHABLE with the home; nothing else traps there, an ABSENT or
DISCARDED page neither. -/
def Sys2Proof.Claims.PageTrapsAtIssue : Prop :=
  ∀ (s : State) (ctx va : Nat) (n : Need), va < 2 ^ 48 →
    (∀ c, s.walk ctx va = .fault c → s.pageTrap ctx va n = some ⟨c, false, BitVec.ofNat 32 va⟩ ∧
      (c = .pageFault ∨ c = .pteMalformed ∨ c = .memUncorrectable)) ∧
    (let root := (s.contextAt ctx).root
      let at_ := root + 8 * (va / 2 ^ 44)
      (s.lpddrEnd < root + 0x80 → s.walk ctx va = .fault .pteMalformed) ∧
      (root + 0x80 ≤ s.lpddrEnd → at_ / 32 ∈ s.poison → s.walk ctx va = .fault .memUncorrectable) ∧
      (root + 0x80 ≤ s.lpddrEnd → at_ / 32 ∉ s.poison → s.phys.le at_ 8 % 2 = 0 → s.walk ctx va = .fault .pageFault)) ∧
    (∀ l, s.walk ctx va = .leaf l →
      (n ≠ .write → l.r = false → s.pageTrap ctx va n = some ⟨.permRead, false, BitVec.ofNat 32 va⟩) ∧
      ((n = .write ∨ l.r = true) → n ≠ .read → l.w = false → s.pageTrap ctx va n = some ⟨.permWrite, false, BitVec.ofNat 32 va⟩) ∧
      (l.denies n = none →
        (l.state = 0 → l.kind = 3 → s.hostUp = false → s.pageTrap ctx va n = some ⟨.remoteUnreachable, false, BitVec.ofNat 32 va⟩) ∧
        (l.state = 0 → l.kind = 3 → s.hostUp = true → s.pageTrap ctx va n = none) ∧
        (l.state = 0 → l.kind < 2 → s.pageTrap ctx va n = none) ∧
        (l.state = 4 → s.routed l.home = false → s.pageTrap ctx va n = some ⟨.routeUnreachable, false, BitVec.ofNat 32 l.home⟩) ∧
        (l.state = 4 → s.routed l.home = true → s.pageTrap ctx va n = none) ∧
        (l.state ≠ 0 → l.state ≠ 4 → s.pageTrap ctx va n = none)))

/-- R134 to R136, R406: a vector global load whose lines the L1 all holds takes its lanes from them; else it sends the access of its valid
elements and marks its register pending; without a valid element it writes zeros; VSTG updates the held lines with its lanes and sends them,
as a release once all earlier accesses are done, and without a valid element only completes. -/
def Sys2Proof.Claims.VectorGlobalAccesses : Prop :=
  (∀ (t : BitVec 4) (i : BitVec 9) (v : BitVec 3) (o : BitVec 1) (x : BitVec 4) (s : State) (walk : Bool) m n es, InTask s →
    Clear s [x] [v] → NoAcquire s → VectorAt s t i x walk m n es → s.elemTrap n .read es = none → s.task.ocnt.loads < 63 →
    validElems es ≠ [] → (o = 1#1 ∨ s.l1Lanes n (validElems es) = none) →
    exec (if walk then .vldgs t i v o x else .vldg t i v o x) s =
      .next ((sent (s.modT (TaskCtx.beginVLoad v (o == 1#1))) (vectorAccess s m n es .read (.v v) (o != 1#1) (o == 1#1))).retire 4#32)) ∧
  (∀ (t : BitVec 4) (i : BitVec 9) (v : BitVec 3) (x : BitVec 4) (s : State) (walk : Bool) m n es got, InTask s →
    Clear s [x] [v] → NoAcquire s → VectorAt s t i x walk m n es → validElems es ≠ [] →
    (∀ e ∈ validElems es, e.2 % n = 0) → s.l1Lanes n (validElems es) = some got →
    ∃ (u : State) (w : Vec), exec (if walk then .vldgs t i v 0#1 x else .vldg t i v 0#1 x) s =
        .next ((u.modT (TaskCtx.setV v w)).retire 4#32) ∧ (∀ j, u.taskAt j = s.taskAt j) ∧ SameOutside s u ∧ SameMemory s u ∧
      ∀ k, k < 32 / n → laneAt w (8 * n) k = ((got.find? fun g => g.1 == k).map (·.2)).getD 0) ∧
  (∀ (t : BitVec 4) (i : BitVec 9) (v : BitVec 3) (o : BitVec 1) (x : BitVec 4) (s : State) (walk : Bool) m n es, InTask s →
    Clear s [x] [v] → NoAcquire s → VectorAt s t i x walk m n es → validElems es = [] →
    let u := s.modT (TaskCtx.setV v 0#256)
    exec (if walk then .vldgs t i v o x else .vldg t i v o x) s = .next ((if o = 1#1 then u.dropL1 s.who.core else u).retire 4#32)) ∧
  (∀ (t : BitVec 4) (i : BitVec 9) (v : BitVec 3) (o : BitVec 1) (x : BitVec 4) (s : State) m n es, InTask s →
    Clear s [x] [v] → NoAcquire s → VectorAt s t i x false m n es → s.elemTrap n .write es = none → (o = 1#1 → Settled s) →
    (validElems es = [] → exec (.vstg t i v o x) s = .next (s.retire 4#32)) ∧
    (validElems es ≠ [] → s.task.ocnt.stores < 63 →
      exec (.vstg t i v o x) s = .next ((sent ((vstgLines s s.task.v[v.toFin] n (validElems es)).modT TaskCtx.beginStore)
        (vectorAccess s m n es (.write s.task.v[v.toFin]) .none false false)).retire 4#32))) ∧
  (∀ (c : Core) (ctx va a : Nat) (bs : List Byte), l1Byte (c.l1Write ctx va bs) ctx a =
    (l1Byte c ctx a).map fun b => if va ≤ a ∧ a < va + bs.length then bs.getD (a - va) b else b)

/-- R99, R134, R262: a vector global access of an unbound slot takes TMAP_UNBOUND with the slot, the lowest invalid index under edge = 1
TMAP_RANGE with the index, and else the first element that is misaligned, or whose page refuses it, MISALIGNED with its address or the page's
trap. -/
def Sys2Proof.Claims.VectorGlobalFaults : Prop :=
  (∀ i t n v o x walk need (s : State), vgmemRow i = some (t, n, v, o, x, walk, need) → InTask s → Clear s [x] [v] → NoAcquire s →
    (s.task.tm[t.toFin] = none → exec i s = .next (s.trap .tmapUnbound (t.setWidth 32))) ∧
    (∀ m z es e, s.task.tm[t.toFin] = some m → s.vElems m walk (s.x x + n.setWidth 32).toNat = (z, es) → mapEdge m = true →
      (es.filter fun e => e.va.isNone).head? = some e → exec i s = .next (s.trap .tmapRange (BitVec.ofNat 32 e.index))) ∧
    (∀ m z es tr, VectorAt s t n x walk m z es → s.elemTrap z need es = some tr →
      (need = .write ∨ o = 1#1 ∨ tr.cause = .misaligned ∨ s.l1Lanes z (validElems es) = none) →
      exec i s = .next (s.trapWith tr))) ∧
  (∀ (s : State) (z : Nat) (need : Need) (before after : List VElem) (e : VElem) va, e.va = some va →
    (∀ b ∈ before, ∀ a, b.va = some a → a % z = 0 ∧ s.pageTrap s.core.ctxid a need = none) →
    (va % z ≠ 0 → s.elemTrap z need (before ++ e :: after) = some ⟨.misaligned, false, BitVec.ofNat 32 va⟩) ∧
    (∀ tr, va % z = 0 → s.pageTrap s.core.ctxid va need = some tr → s.elemTrap z need (before ++ e :: after) = some tr))

/-- The selects, compressions and reductions of lanes, with the registers that they name. -/
def Sys2Proof.Claims.laneForm : Instr → Option (List (BitVec 4) × List (BitVec 3))
  | .vsel b _ d a _ => some ([], [a, b, d])
  | .vcompr _ d a _ => some ([], [a, d])
  | .vexpnd _ d a _ => some ([], [a, d])
  | .vext x _ _ a _ => some ([x], [a])
  | .vnzc x _ a _ => some ([x], [a])
  | .vsumr x _ a _ => some ([x], [a])
  | .vmaxr x _ a _ => some ([x], [a])
  | _ => none

/-- R60, R73, R115, R121 to R123, R134, R136: VSEL, VCOMPR, VEXPND, VEXT, VNZC, VSUMR and VMAXR of a task context complete once their registers
are free; VLDG, VLDGS and VSTG complete, with every count below its limit and, for a release, nothing outstanding, when their slot is bound, no
index is invalid under edge = 1, and no element is misaligned or refused by its page. -/
def Sys2Proof.Claims.VectorFormsComplete : Prop :=
  (∀ i xs vs (s : State), laneForm i = some (xs, vs) → InTask s → Clear s xs vs → ∃ u : State, exec i s = .next (u.retire 4#32) ∧
    u.task.pc = s.task.pc ∧ SameMemory s u ∧ SameOutside s u) ∧
  (∀ i t n v o x walk need (s : State) m z es, vgmemRow i = some (t, n, v, o, x, walk, need) → InTask s → Clear s [x] [v] → NoAcquire s →
    VectorAt s t n x walk m z es → s.elemTrap z need es = none → s.task.ocnt.loads < 63 → s.task.ocnt.stores < 63 → Settled s →
    ∃ u : State, exec i s = .next (u.retire 4#32) ∧ u.task.pc = s.task.pc ∧ SameMemory s u)

/-- R262, R267: a permission that the leaf lacks is PERM_READ before PERM_WRITE; an allowed access of a RESIDENT page of LPDDR or VAULT is
performed at its frame, one of a HOST page goes to the host, one of a DISCARDED page reads zero or goes to the pager, a MIGRATING page delays it, a VICTIM one is recalled once its pieces stand, an ABSENT one goes to the
pager, and a REMOTE one to its home.
Where the spec leaves it open, the model's choices are those of log 34 and 68. -/
def Sys2Proof.Claims.PageMeetings : Prop :=
  ∀ (s : State) (ctx va : Nat) (n : Need) (l : Leaf), va < 2 ^ 48 → s.walk ctx va = .leaf l →
    (n ≠ .write → l.r = false → s.meet ctx va n = .fault .permRead) ∧
    ((n = .write ∨ l.r = true) → n ≠ .read → l.w = false → s.meet ctx va n = .fault .permWrite) ∧
    ((n = .write ∨ l.r = true) → (n = .read ∨ l.w = true) →
      (l.state = 0 → l.kind < 2 → s.meet ctx va n = .here (l.frame + (va - l.base)) l) ∧
      (l.state = 1 → s.meet ctx va n = (if n = .read then .zero l else .pager l)) ∧
      (l.state = 3 → s.meet ctx va n = .wait) ∧ (l.state = 5 → s.meet ctx va n = .pager l) ∧
      (l.state = 4 → s.meet ctx va n = .away l.home (l.frame + (va - l.base)) l) ∧
      (l.state = 2 → s.victimOf ctx l.base = none → s.meet ctx va n = .recall l) ∧
      (∀ v, l.state = 2 → s.victimOf ctx l.base = some v → s.meet ctx va n = (if v.stored < v.places.length then .wait else .recall l)) ∧
      (l.state = 0 → l.kind = 3 → s.meet ctx va n =
        (if s.hostUp = true then .host (s.hostBase.toNat + (l.frame + (va - l.base) - 0x40000000000)) l else .fault .remoteUnreachable)))

/-- R257 to R260: the leaf that a walk finds covers the address, its page is a power of four times a level's size, its frame is aligned to
the page and lies in its kind's range, which exists, a LOCALWIN page in one core's window below 0x7000, and its state, its granule and its
home agree with its kind. -/
def Obligations.WalkFindsSoundLeaf : Prop :=
  ∀ (s : State) (ctx va : Nat) (l : Leaf), s.walk ctx va = .leaf l →
    l.base ≤ va % 2 ^ 48 ∧ va % 2 ^ 48 < l.base + l.size ∧ l.base % l.size = 0 ∧ l.frame % l.size = 0 ∧
    (∃ k j, k < 4 ∧ j < 4 ∧ l.size = 4096 * 256 ^ k * 4 ^ j) ∧ l.state ≤ 5 ∧ l.kind ≤ 4 ∧
    (l.kind = 0 → l.frame + l.size ≤ 0x20000000000) ∧
    (l.kind = 1 → 0x20000000000 ≤ l.frame ∧ l.frame + l.size ≤ 0x20800000000) ∧
    (l.kind = 2 → 0x30000000000 ≤ l.frame ∧ l.frame + l.size ≤ 0x30200000000 ∧ l.frame % 0x8000 + l.size ≤ 0x7000) ∧
    (l.kind = 3 → 0x40000000000 ≤ l.frame ∧ l.frame + l.size ≤ 0x80000000000 ∧ l.home = 0) ∧
    s.populated l.kind l.frame (l.frame + l.size) = true ∧
    (l.state = 4 → l.kind = 4) ∧ (l.kind = 4 → l.state = 3 ∨ l.state = 4 ∨ l.state = 5) ∧ (l.state = 1 ∨ l.state = 2 → l.kind = 0) ∧
    (l.granule = 0 ∨ l.kind = 0) ∧ (l.f = true → s.feature 9 = true → l.kind = 4) ∧
    (l.kind ≤ 2 → l.home = frameDie l.kind l.frame)

/-- R102, R103, R236, R262, R265, R273: at its slice an access of one element that meets its frame reads it, writes it or does both, touches its
page, is noted there and is answered; its answer is held while the group of its agent is SAVED; where no line of the slice holds the sector and the access allocates none, the frame's own bytes
are read and written; one that meets a page fault, or reads poison, is answered with it; one for the pager joins those in its hands; a
page of a PGDISC is discarded, and its agent answered.
Where the spec leaves it open, the model's choices are those of log 34. -/
def Obligations.SliceRequests : Prop :=
  (∀ (s : State) (a : Access) lane va pa l, Performs s (.sliceRequest a) → a.elems = [(lane, va)] → a.park = none → a.got = [] →
    a.fill = false → va < 2 ^ 48 → a.size ≤ 4 → s.meet a.ctx va a.need = .here pa l → (a.reads = true → s.poisonedAt a.ctx va l = false) →
    (a.isAtomic = true → l.kind = 2 → s.atomicOpen (windowCore pa).1 = false) →
    let u (w : Bool) : State := s.touch l w
    let old (w : Bool) : Nat := leNat ((u w).memBytes a.ctx va a.size l)
    let word (v : Nat) : Vec := ({ a with got := [(lane, v)], elems := [] } : Access).value
    let noted (t : State) : State := t.noteLines a.ctx a.reuse [(va, l)]
    let stored (bs : List Byte) : State := (u true).memWrite a.ctx va a.reuse l bs
    (a.op = .read → exec .sliceRequest s = .next ((noted ((u false).memRead a.ctx va a.reuse l)).postTo a.group
        (.loadReply ⟨a.src, a.dest, word (old false), a.acq, false, none, none⟩))) ∧
    (∀ v, a.op = .write v →
      exec .sliceRequest s = .next ((noted (stored (leBytes a.size (laneOf v (8 * a.size) lane)))).postTo a.group (.storeAck a.src))) ∧
    (∀ k x y, a.op = .atomic k x y →
      exec .sliceRequest s = .next ((noted (stored (leBytes 4 (globalResult k (BitVec.ofNat 32 (old true)) x y).toNat))).postTo a.group
        (.loadReply ⟨a.src, a.dest, word (old true), a.acq, true, none, none⟩)))) ∧
  (∀ (s : State) (a : Access) lane va pa l, Performs s (.sliceRequest a) → a.elems = [(lane, va)] → a.park = none → a.got = [] →
    a.fill = false → va < 2 ^ 48 → a.size ≤ 4 → s.meet a.ctx va a.need = .here pa l → (a.reads = true → s.poisonedAt a.ctx va l = false) →
    (a.isAtomic = true → l.kind = 2 → s.atomicOpen (windowCore pa).1 = false) →
    (l.kind = 1 ∨ l.kind = 0 ∧ s.sectorHit a.ctx va = none ∧ a.reuse ≠ 1 ∧ a.reuse ≠ 2) → pa + a.size ≤ 0x20800000000 → (s.groupAt a.group).stored = false →
    let u (w : Bool) : State := s.touch l w
    let old (w : Bool) : Nat := leNat ((List.range a.size).map fun k => (u w).phys.byte (pa + k))
    let word (v : Nat) : Vec := ({ a with got := [(lane, v)], elems := [] } : Access).value
    ∃ t, exec .sliceRequest s = .next t ∧ t.cores = s.cores ∧
      (a.op = .read → t.phys = (u false).phys ∧
        t.pending = s.pending ++ [.loadReply ⟨a.src, a.dest, word (old false), a.acq, false, none, none⟩]) ∧
      (∀ v, a.op = .write v → t.phys = (u true).phys.setBytes pa (leBytes a.size (laneOf v (8 * a.size) lane)) ∧
        t.pending = s.pending ++ [.storeAck a.src]) ∧
      (∀ k x y, a.op = .atomic k x y → a.size = 4 →
        t.phys = (u true).phys.setBytes pa (leBytes 4 (globalResult k (BitVec.ofNat 32 (old true)) x y).toNat) ∧
        t.pending = s.pending ++ [.loadReply ⟨a.src, a.dest, word (old true), a.acq, true, none, none⟩])) ∧
  (∀ (s : State) (a : Access) lane va, Performs s (.sliceRequest a) → a.elems = [(lane, va)] → a.op ≠ .discard →
    (∀ c, s.meet a.ctx va a.need = .fault c → exec .sliceRequest s = .next (s.answerFault a c va)) ∧
    (∀ pa l, s.meet a.ctx va a.need = .here pa l → a.reads = true → s.poisonedAt a.ctx va l = true →
      exec .sliceRequest s = .next (s.answerFault a .memUncorrectable va)) ∧
    (∀ l, s.meet a.ctx va a.need = .pager l →
      exec .sliceRequest s = .next (({ s with pagerAccs := s.pagerAccs ++ [a] } : State).askPager a.ctx l.base))) ∧
  (∀ (s : State) (a : Access) lane va l, Performs s (.sliceRequest a) → a.elems = [(lane, va)] → a.op = .discard → a.park = none →
    s.walk a.ctx va = .leaf l → l.kind = 0 → l.p = false → l.state = 0 →
    exec .sliceRequest s =
      .next ((((s.writeLeaf l (setBits (l.touched true) 1 3 1)).dropPage a.ctx l false).freeVictim a.ctx l.base).postTo a.group
        (.storeAck a.src)))

/-- R268, R269, R282: the pager maps an ABSENT page, fails an ABSENT or a DISCARDED one, revives or reclaims a DISCARDED one, discards a
RESIDENT one of kind 0 that is not pinned, leaves a VICTIM one as it is, and times out, once the tasks that wait have parked; a parked task is delivered to its core while that is
bound to its group, else to rank 0, with the traps and faults that it held.
Where the spec leaves it open, the model's choices are those of log 13 and 25. -/
def Sys2Proof.Claims.PagerEvents : Prop :=
  (∀ (s : State) ctx va pa l u, Performs s (.pagerMap ctx va pa) → PageIs s ctx va l 5 → s.giveFrame ctx l pa = some u →
    exec .pagerMap s = .next (u.unask ctx l).replay) ∧
  (∀ (s : State) ctx va l, Performs s (.pagerFail ctx va) → s.parksAt ctx l = false →
    (PageIs s ctx va l 5 → exec .pagerFail s = .next (s.failPage ctx l .pageFault)) ∧
    (PageIs s ctx va l 1 → exec .pagerFail s = .next (s.failPage ctx l .discardWrite))) ∧
  (∀ (s : State) ctx va l, Performs s (.pagerRevive ctx va) → PageIs s ctx va l 1 → s.writeParked ctx l = true →
    exec .pagerRevive s = .next ((((s.zeroFrame l.frame l.size).setPageState l 0).unask ctx l).replay)) ∧
  (∀ (s : State) ctx va l, Performs s (.pagerReclaim ctx va none) → PageIs s ctx va l 1 → s.writeParked ctx l = false →
    exec .pagerReclaim s = .next ((s.setPageState l 5).freeRange ctx l.frame l.size)) ∧
  (∀ (s : State) ctx va pa l u, Performs s (.pagerReclaim ctx va (some pa)) → PageIs s ctx va l 1 → s.writeParked ctx l = true →
    (s.freeRange ctx l.frame l.size).giveFrame ctx l pa = some u →
    exec .pagerReclaim s = .next ((u.zeroFrame pa l.size).unask ctx l).replay) ∧
  (∀ (s : State) ctx va l, Performs s (.pagerDiscard ctx va) → (PageIs s ctx va l 0 → l.kind = 0 → l.p = false →
      exec .pagerDiscard s = .next (((s.writeLeaf l (setBits (l.touched true) 1 3 1)).dropPage ctx l false).freeVictim ctx l.base)) ∧
    (PageIs s ctx va l 2 → exec .pagerDiscard s = .next s)) ∧
  (∀ (s : State) ctx va l, Performs s (.pagerTimeout ctx va) → PageIs s ctx va l 5 → s.parksAt ctx l = false →
    let t := s.report .pagerTimeout (BitVec.ofNat 32 va) ctx 0 0
    PageIs t ctx va l 5 → exec .pagerTimeout s = .next (t.failPage ctx l .pageFault)) ∧
  (∀ (s : State) id p, Performs s (.parkedDelivery id) → s.parks.find id = some p → 
    let to_ (k : Nat) : State := { s with
      parks := s.parks.del id
      pending := s.pending ++ [.continuationDelivery ⟨k, p.group, p.record, p.fail, p.origin, p.traps, p.faults⟩] }
    ((s.coreAt p.core).group = p.group → (s.coreAt p.core).power = .bound → exec .parkedDelivery s = .next (to_ p.core)) ∧
    ((s.coreAt p.core).group ≠ p.group → (s.groupAt p.group).stored = false →
      exec .parkedDelivery s = .next (to_ ((s.groupAt p.group).cores.headD p.core))))

/-- R211, R261, R267, R269, R270, R282: migration begins at a RESIDENT or REMOTE page, once no access under its entry is left, and ends with
its new entry; a shootdown waits for the accesses of its range, then takes its lines and pins from every slice, and its counts; the host's answers end the accesses that wait for them, and its loss fails them; pieces of a page move
to a core of the victim tier, and return to the slices as lines with the bytes that they held; a sketch is halved after 2^20 requests.
Where the spec leaves it open, the model's choices are those of log 8 and 33. -/
def Sys2Proof.Claims.MigrationHostAndVictims : Prop :=
  (∀ (s : State) ctx va l st, Performs s (.migrationBegin ctx va) → PageIs s ctx va l st → (st = 0 ∨ st = 4) →
    exec .migrationBegin s = .next (if s.rangeBusy ctx l.base l.size then s.post (.migrationBegin ctx va)
      else (s.setPageState l 3).dropPage ctx l true)) ∧
  (∀ (s : State) ctx va (raw : BitVec 64) l, Performs s (.migrationEnd ctx va raw) → PageIs s ctx va l 3 →
    ({ l with raw := raw.toNat } : Leaf).wellFormed (s.feature 9) = true →
    (let l' : Leaf := { l with raw := raw.toNat }; s.populated l'.kind l'.frame (l'.frame + l'.size) = true) →
    (({ l with raw := raw.toNat } : Leaf).state = 0 ∨ ({ l with raw := raw.toNat } : Leaf).state = 4) →
    ({ l with raw := raw.toNat } : Leaf).run = l.run → raw.getLsbD 0 = true →
    exec .migrationEnd s = .next (((((s.movePage ctx l { l with raw := raw.toNat }).writeLeaf l raw.toNat).noteMoved l
      { l with raw := raw.toNat }).unask ctx l).replay)) ∧
  (∀ (s : State) ctx lo hi, Performs s (.shootdown ctx lo hi) →
    (s.rangeBusy ctx lo (hi + 1 - lo) = true → exec .shootdown s = .next (s.post (.shootdown ctx lo hi))) ∧
    (s.rangeBusy ctx lo (hi + 1 - lo) = false → ∃ t, exec .shootdown s = .next t ∧ t.cores = s.cores ∧
      (∀ k m, m ∈ (t.sliceAt k).lines → ¬(m.ctx = ctx ∧ LineIn lo hi m.line)) ∧
      (∀ k p, p ∈ (t.sliceAt k).pins ↔ p ∈ (s.sliceAt k).pins ∧ ¬(p.ctx = ctx ∧ LineIn lo hi p.line)) ∧
      ((∀ e ∈ s.slices, ∀ m ∈ e.2.lines, ¬(m.ctx = ctx ∧ LineIn lo hi m.line)) → t.phys = s.phys ∧
        ∀ k c page n, (c, page, n) ∈ (t.sliceAt k).counts → (c, page, n) ∈ (s.sliceAt k).counts ∧
          (c = ctx → ∀ l, s.walk ctx page = .leaf l → ¬(lo < l.base + l.size ∧ l.base ≤ hi))))) ∧
  (∀ (s : State) ctx va, Performs s (.shootdownTimeout ctx va) →
    exec .shootdownTimeout s = .next (s.report .shootdownTimeout (BitVec.ofNat 32 va) ctx 0 0)) ∧
  (∀ (s : State) id data w, Performs s (.hostCompletion id true data) → s.away.find id = some w → w.home = none →
    exec .hostCompletion s = .next (s.awayDone id (hostLanes w.acc data))) ∧
  (∀ (s : State) id data w, Performs s (.hostCompletion id false data) → s.away.find id = some w → w.home = none →
    exec .hostCompletion s = .next (s.awayFail id .hostAbort none)) ∧
  (∀ (s : State) id w, Performs s (.hostCompletionTimeout id) → s.away.find id = some w → w.home = none →
    exec .hostCompletionTimeout s = .next (s.awayFail id .remoteUnreachable none)) ∧
  (∀ (s : State), ∃ t, exec .hostLinkDown s = .next t ∧ t.hostUp = false ∧ t.phys = s.phys ∧
    (∀ ctx va n l, s.walk ctx va = .leaf l → l.denies n = none → l.state = 0 → l.kind = 3 →
      t.meet ctx va n = .fault .remoteUnreachable) ∧
    (∀ id w, s.away.find id = some w → w.home = none → w.acc.park = none → (s.groupAt w.acc.group).stored = false →
      let v := BitVec.ofNat 32 ((w.acc.elems.map (·.2)).headD 0)
      (w.acc.op = .read ∨ w.acc.isAtomic = true → Event.loadReply ⟨w.acc.src, w.acc.dest, 0#256, w.acc.acq, w.acc.isAtomic,
        some ⟨.remoteUnreachable, false, v⟩, none⟩ ∈ t.pending) ∧
      (∀ b, w.acc.op = .write b → Event.remoteNack ⟨w.acc.src, .store, .remoteUnreachable, v, w.acc.group⟩ ∈ t.pending)) ∧
    (∀ id f, s.fetches.find id = some f → f.home = none → f.ans = .none →
      t.fetches.find id = some { f with ans := .fail .remoteUnreachable none })) ∧
  (∀ (s : State) k p ctx va bs v, Performs s (.victimPieceStore k p ctx va bs) →
    (s.victims.find? fun v => v.ctx == ctx && v.places.contains (k, p)) = some v → (s.coreAt k).power = .off →
    ∃ t, exec .victimPieceStore s = .next t ∧ (t.coreAt k).power = .holding ∧
      (t.coreAt k).lm = Mem.setBytes (512 * p) bs []) ∧
  (∀ (s : State) k p v l, Performs s (.victimPieceRecall k p) →
    (s.victims.find? fun v => v.recalling && v.places.contains (k, p) && !v.recalled.contains (v.places.idxOf (k, p))) = some v →
    v.places.length ≤ v.stored → s.walk v.ctx v.va = .leaf l →
    (v.recalled.length + 1 ≠ v.places.length → exec .victimPieceRecall s = .next (pieceBack s v k p l) ∧
      (l.kind = 0 → v.va % 512 = 0 → ∀ j, j < 16 →
        (pieceBack s v k p l).memBytes v.ctx (v.va + 512 * v.places.idxOf (k, p) + 32 * j) 32 l =
          (s.coreAt k).lm.bytes (512 * p + 32 * j) 32)) ∧
    (v.recalled.length + 1 = v.places.length →
      exec .victimPieceRecall s = .next (((pieceBack s v k p l).setPageState l 0).freeVictim v.ctx v.va))) ∧
  (∀ (s : State) k, Performs s (.sketchHalve k) → 2 ^ 20 ≤ (s.sliceAt k).class2 → ∃ t, exec .sketchHalve s = .next t ∧
    (t.sliceAt k).class2 = (s.sliceAt k).class2 - 2 ^ 20 ∧ (∀ i, SMap.get 0 (t.sliceAt k).sketch i = SMap.get 0 (s.sliceAt k).sketch i / 2) ∧
    ∀ j, j ≠ k → t.sliceAt j = s.sliceAt j)

/-- R272 to R274: PGPRE never traps: whatever its slot and its range, it completes and leaves every core as it was; PGDISC of no element completes, an unbound slot takes TMAP_UNBOUND, and one whose range
holds a single RESIDENT page of kind 0 sends the discard of that page to its slice behind its own earlier accesses, and its lines
leave the core's L1.
Where the spec leaves it open, the model's choices are those of log 24, 70 and 71. -/
def Sys2Proof.Claims.PrefetchAndDiscard : Prop :=
  (∀ (t n i : BitVec 4) (s : State), InTask s → Clear s [n, i] [] → ∃ u : State, exec (.pgpre t n i) s = .next (u.retire 4#32) ∧
    u.cores = s.cores ∧ (s.task.tm[t.toFin] = none → u = s)) ∧
  (∀ (t n i : BitVec 4) (s : State) m lo top, InTask s → Clear s [n, i] [] → s.task.tm[t.toFin] = some m → s.x n ≠ 0#32 → mapEt m ≠ 11 →
    s.elemVa m (s.x i).toNat = some lo → s.elemVa m ((s.x i).toNat + (s.x n).toNat - 1) = some top →
    let hi := Min.min (top + mapEsize m - 1) (lo + 0xFFFFF)
    let pages := s.pagesIn s.core.ctxid 257 lo hi
    exec (.pgpre t n i) s = .next ((pages.foldl (fun s w => s.prefetch s.core.ctxid lo hi w) s).retire 4#32)) ∧
  (∀ (t n i : BitVec 4) (s : State) m, InTask s → Ready s [n, i] → s.task.tm[t.toFin] = some m → s.x n = 0#32 →
    exec (.pgdisc t n i) s = .next (s.retire 4#32)) ∧
  (∀ (t n i : BitVec 4) (s : State), InTask s → Ready s [n, i] → s.task.tm[t.toFin] = none →
    exec (.pgdisc t n i) s = .next (s.trap .tmapUnbound (t.setWidth 32))) ∧
  (∀ (t n i : BitVec 4) (s : State) m lo top l, InTask s → Ready s [n, i] → s.task.tm[t.toFin] = some m → s.x n ≠ 0#32 → mapEt m ≠ 11 →
    s.elemVa m (s.x i).toNat = some lo → s.elemVa m ((s.x i).toNat + (s.x n).toNat - 1) = some top → lo < top + mapEsize m →
    s.task.ocnt.stores < 63 → s.walk s.core.ctxid lo = .leaf l → lo = l.base → top + mapEsize m = l.base + l.size →
    l.w = true → l.kind = 0 → l.p = false → l.state = 0 →
    exec (.pgdisc t n i) s = .next ((sent ((s.modCore s.who.core (Core.l1Forget s.core.ctxid l)).modT TaskCtx.beginStore)
      (discardAccess s l.base)).retire 4#32))

/-! ## Tasks, frames, the deque and active messages (R167 to R189) -/

namespace Sys2Proof.Claims

/-- The registers that a task record carries, with one more (R167, R174). -/
def carriedWith (r : BitVec 4) : List (BitVec 4) :=
  [r, 1#4, 2#4, 3#4, 4#4, 5#4, 6#4, 7#4, 8#4, 9#4, 10#4, 11#4, 12#4, 13#4, 14#4]

/-- The end-of-task steps of the issuing task context have nothing to wait for and no token with a fault (R145, R169). -/
abbrev MayEnd (s : State) : Prop :=
  s.task.ocnt.loads = 0 ∧ s.task.ocnt.stores = 0 ∧ s.task.ocnt.msgs = 0 ∧ s.task.ocnt.cmds = 0 ∧ ∀ k ∈ s.task.tokens, k.f = none

/-- The issuing task context's tokens are discarded (R145), which is an acquire when there are any (R246, R248). -/
def dropTokens (s : State) : State :=
  if s.task.tokens = [] then s else (s.modT fun t => { t with tokens := [] }).dropL1 s.who.core

/-- A task context that takes work: FREE and not waiting for a steal reply (R178). -/
abbrev Free (s : State) (k : Nat) (x : CtxSel) : Prop := (s.coreAt k).takes x = true

/-- The deque of a core, with one entry more at its bottom (R177). -/
def pushed (r : Rec) (c : Core) : Core :=
  { c with marks := c.marks.del (0x7000 + 64 * (c.dq.bottom.toNat % 32)), lm := c.lm.setRec (0x7000 + 64 * (c.dq.bottom.toNat % 32)) r,
           dq := { c.dq with bottom := c.dq.bottom + 1#16, backoff := false, round := none } }

/-- Whether a message came to a core that is bound to its own group, from which a message is still to be drawn (R285). -/
def ownDrawn (s : State) (m : AmMsg) : Bool := (s.coreAt m.dst).group == m.group && s.drawn (.mailboxArrival m)

/-- A destination word that names a core of this part, bits 31 and 30 zero (R186). -/
abbrev NamesCore (w : Word) : Prop := w.toNat < 2 ^ 18

end Sys2Proof.Claims

/-- R171, R172, R174: FRINIT writes a frame's four words and its reference; SPAWN pushes the child's record, which carries x1 to x14, the
target and the frame reference, after counting it in a valid frame of its own core; with x0 no frame is named, and without room
the target's DEQUE_FULL is taken. -/
def Sys2Proof.Claims.FramesAndSpawn : Prop :=
  (∀ (d a : BitVec 4) (s : State), InTask s → Ready s [a, d] → (s.x a).toNat % 16 = 0 → (s.x a).toNat + 80 ≤ 0x7000 →
    let n := (s.x a).toNat
    ∃ t, exec (.frinit d a) s = .next t ∧ (t.coreAt s.who.core).lm.word n = 0#32 ∧
      (t.coreAt s.who.core).lm.word (n + 4) = BitVec.ofNat 32 (n + 16) ∧ (t.coreAt s.who.core).lm.word (n + 8) = 1#32 ∧
      (t.coreAt s.who.core).lm.word (n + 12) = 0#32 ∧
      (∀ b, (b < n ∨ n + 16 ≤ b) → (t.coreAt s.who.core).lm.byte b = s.core.lm.byte b) ∧
      t.xAt s.who d = (if d = 0#4 then 0#32 else BitVec.ofNat 32 (s.who.core * 2 ^ 13 + n / 4)) ∧ SameOutside s t) ∧
  (∀ (o : BitVec 16) (s : State), InTask s → Clear s (carriedWith 0#4) [] → s.core.dq.held + s.core.dq.reserved.toNat < 32 →
    exec (.spawn o 0#4) s = .next ((s.modCore s.who.core (pushed ({ s.task with frame := 0#32, nf := true }.toRec 0 false
      (s.pc + 2#32 * o.signExtend 32)))).retire 4#32)) ∧
  (∀ (o : BitVec 16) (f : BitVec 4) (s : State), InTask s → Clear s (carriedWith f) [] → f ≠ 0#4 →
    s.core.dq.held + s.core.dq.reserved.toNat < 32 → s.frameValid s.core.group (s.x f) = true → frameOwner (s.x f) = s.who.core →
    s.frameCount (s.x f) ≠ 0xFFFFFFFF#32 →
    exec (.spawn o f) s = .next (((s.setLocalWord s.who.core (frameAddr (s.x f)) (s.frameCount (s.x f) + 1#32)).modCore s.who.core
      (pushed ({ s.task with frame := s.x f, nf := false }.toRec 0 false (s.pc + 2#32 * o.signExtend 32)))).retire 4#32)) ∧
  (∀ (o : BitVec 16) (s : State), InTask s → Clear s (carriedWith 0#4) [] → 32 ≤ s.core.dq.held + s.core.dq.reserved.toNat →
    exec (.spawn o 0#4) s = .next (s.trap .dequeFull (s.pc + 2#32 * o.signExtend 32)))

/-- R145, R169, R175, R176, R188: SYNC of x0 or of a finished frame goes on at PC + 4; of an unfinished one it leaves the waiter's record in the frame
and frees its context once the end-of-task steps are done; DONE joins and frees its context; HALT and HALTR leave the free list;
a frame's decrement is held for a group that is not resident, waits for its owner's handler, and at its owner counts down, or escalates FRAME_INVALID for an invalid frame.
Where the spec leaves it open, the model's choices are those of log 23 and 43. -/
def Sys2Proof.Claims.TasksEnd : Prop :=
  (∀ (s : State), InTask s → exec (.sync 0#4) s = .next (s.jump (s.pc + 4#32))) ∧
  (∀ (f : BitVec 4) (s : State), InTask s → Clear s [f] [] → f ≠ 0#4 → s.frameValid s.core.group (s.x f) = true →
    frameOwner (s.x f) = s.who.core → s.frameCount (s.x f) = 0#32 →
    exec (.sync f) s = .next ((s.dropL1 s.who.core).jump (s.pc + 4#32))) ∧
  (∀ (f : BitVec 4) (s : State), InTask s → Clear s (carriedWith f) [] → f ≠ 0#4 → s.frameValid s.core.group (s.x f) = true →
    frameOwner (s.x f) = s.who.core → s.frameCount (s.x f) ≠ 0#32 → s.frameWaits (s.x f) = false → s.task.vl = false → MayEnd s →
    ∃ t, exec (.sync f) s = .next t ∧ (t.taskAt s.who).run = .free ∧ frameAddr (s.x f) ∈ (t.coreAt s.who.core).waiters) ∧
  (∀ (s : State), InTask s → MayEnd s →
    exec .done s = .next (((dropTokens s).joinTask.leaveTask s.who .free).prefer) ∧
    exec .cDone s = .next (((dropTokens s).joinTask.leaveTask s.who .free).prefer)) ∧
  (∀ (s : State), InTask s → MayEnd s → s.task.nf = true → ∃ t, exec .done s = .next t ∧ (t.taskAt s.who).run = .free ∧
    t.phys = s.phys ∧ (t.coreAt s.who.core).lm = s.core.lm ∧ t.pending = s.pending) ∧
  (∀ (s : State) (k : BitVec 2), InTask s → MayEnd s →
    ((s.core.task (otherTask s.who.ctx)).run ≠ .left ∨ s.core.quiet = true) →
    let left : State := (dropTokens s).joinTask.leaveTask s.who .left
    exec .halt s = .next ((left.modCore s.who.core fun c => { c with succ := c.succ }).prefer) ∧
    (s.kernelOf s.core.group k.toNat ≠ none → exec (.haltr k) s =
      .next ((left.modCore s.who.core fun c => { c with succ := some k }).prefer))) ∧
  (∀ (s : State) f (src : Issuer) g, Performs s (.joinDecrement f src g) →
    let k := frameOwner f
    let holds := (s.groupAt g).stored = true ∨ ((s.groupAt g).state = .preempting ∧ s.drawn (.joinDecrement f src g) = false)
    (holds → exec .joinDecrement s = .next (s.hold g (.joinDecrement f src g))) ∧
    (¬ holds → (s.coreAt k).group = g → ((s.coreAt k).power = .bound ∨ (s.coreAt k).power = .saving) →
      (s.handlerFree k = true → exec .joinDecrement s = .next ((s.accept g src.core k).joinAt g f)) ∧
      (s.handlerFree k = false → exec .joinDecrement s = .next { s with pending := .joinDecrement f src g :: s.pending })) ∧
    (¬ holds → (s.coreAt k).group ≠ g →
      exec .joinDecrement s = .next ((s.accept g src.core k).post (.remoteNack ⟨src, .join g, .frameInvalid, f, g⟩)))) ∧
  (∀ (s : State) g f, s.frameValid g f = true → s.frameCount f ≠ 0#32 →
    s.joinAt g f = (s.setLocalWord (frameOwner f) (frameAddr f) (s.frameCount f - 1#32)).pushWaiters (frameOwner f)) ∧
  (∀ (s : State) g f, (s.frameValid g f = false ∨ s.frameCount f = 0#32) → s.joinAt g f = s.escalateCore (frameOwner f) .frameInvalid f)

/-- R168, R177 to R180: a FREE task context takes the record at the bottom of its core's deque, and a task starts with its registers, offset
and frame; an idle core asks the next candidate of its steal round; a victim gives the record at the top of its deque or answers
empty; a stolen record starts on the thief, and an empty last reply begins a back-off, which ends. -/
def Sys2Proof.Claims.DequeAndSteals : Prop :=
  (∀ (s : State) k x, Performs s (.ownerPop k x) → s.canPop k x = true →
    let b := (s.coreAt k).dq.bottom - 1#16
    let a := 0x7000 + 64 * (b.toNat % 32)
    exec .ownerPop s = .next (((((s.modCore k fun c => { c with dq := { c.dq with bottom := b } }).dropL1 k).takeUp ⟨k, x⟩ a
      ((s.coreAt k).lm.rec a) ((s.coreAt k).marks.find a)).pushWaiters k))) ∧
  (∀ (s : State) (i : Issuer) a (r : Rec), i.ctx ≠ .handler → s.malformedRec (s.coreAt i.core).group r = false →
    let t := (s.takeUp i a r none).taskAt i
    t.run = .running ∧ t.pc = BitVec.ofNat 32 (2 * (r[0].toNat % 2 ^ 24)) ∧ t.frame = BitVec.ofNat 32 (r[1].toNat % 2 ^ 31) ∧
    t.x[0] = 0#32 ∧ t.x[15] = BitVec.ofNat 32 a ∧ (∀ k (h : k < 14), t.x[k + 1] = r[k + 2]) ∧ t.trapMode = false ∧ t.vl = false ∧
    t.tm = (s.coreAt i.core).launchTm) ∧
  (∀ (s : State) k, Performs s (.stealIssue k) → s.canSteal k = true → (s.coreAt k).dq.round = none →
    let g := stepGs 16 (s.coreAt k).dq.g
    let dom := s.stealDomain k
    let v := dom.getD (g.toNat % dom.length) 0
    exec .stealIssue s = .next ((s.modCore k fun c => { c with dq := { c.dq with
      g := g, reserved := true, thief := some (!c.takes .tc0), round := some (g.toNat % dom.length, 1, true) } }).send (s.coreAt k).group
        k v (.steal k v))) ∧
  (∀ (s : State) k v, Performs s (.steal k v) →
    let g := (s.coreAt k).group
    let t := s.accept g k v
    ((t.groupRuns v = false ∨ (t.coreAt v).group ≠ g ∨ (t.coreAt v).dq.held = 0) →
      exec .steal s = .next (t.send g v k (.stealReply k v none none))) ∧
    (t.groupRuns v = true → (t.coreAt v).group = g → 0 < (t.coreAt v).dq.held →
      let a := 0x7000 + 64 * ((t.coreAt v).dq.top.toNat % 32)
      exec .steal s = .next (((t.modCore v fun c => { c.setMark a none with dq := { c.dq with top := c.dq.top + 1#16 } }).pushWaiters v).send
        g v k (.stealReply k v (some ((t.coreAt v).lm.rec a)) ((t.coreAt v).marks.find a))))) ∧
  (∀ (s : State) k v, Performs s (.stealReply k v none none) →
    let t := s.accept (s.coreAt k).group v k
    let u := t.modCore k fun c => { c with dq := c.dq.replied (t.stealDomain k).length true }
    exec .stealReply s = .next (u.pushWaiters k)) ∧
  (∀ (s : State) k v (r : Rec) m tc, Performs s (.stealReply k v (some r) m) →
    let t := s.accept (s.coreAt k).group v k
    (t.coreAt k).dq.thief = some tc →
    let a := 0x7000 + 64 * ((((t.coreAt k).dq.top - 1#16).toNat) % 32)
    let u := (t.modCore k fun c => { c with dq := c.dq.replied (t.stealDomain k).length false }).modCore k fun c =>
      { c with lm := c.lm.setRec a r }
    exec .stealReply s = .next (((u.dropL1 k).takeUp ⟨k, if tc then .tc1 else .tc0⟩ a r m).pushWaiters k)) ∧
  (∀ (s : State) k, Performs s (.stealBackoffEnd k) →
    exec .stealBackoffEnd s = .next (s.modCore k fun c => { c with dq := { c.dq with backoff := false } }))

/-- R107, R181 to R187: SENDAM of classes 16 to 63 sends its header, its core's message count, which goes on by one, and x4 to x7 to the named core
and counts them as unsent, in the handler context in no ocnt; a lower or higher class takes MAILBOX_CLASS; a message lands in the next mailbox entry, waits while the mailbox is full, or is held for a group that is not resident; a
handler run takes its class's entry point and frees its mailbox entry when it returns.
Where the spec leaves it open, the model's choices are those of log 23. -/
def Obligations.ActiveMessages : Prop :=
  (∀ (c d : BitVec 4) (s : State), InTask s → Ready s [d, c, 4#4, 5#4, 6#4, 7#4] → 16 ≤ (s.x c).toNat → (s.x c).toNat < 64 →
    NamesCore (s.x d) → s.task.ocnt.msgs < 63 →
    ∃ m : AmMsg, m.src = s.who ∧ m.dst = (s.x d).toNat ∧ m.ctx = s.core.ctxid ∧ m.group = s.core.group ∧
      m.words[0] = BitVec.ofNat 32 (s.who.core * 64 + (s.x c).toNat) ∧
      m.words[1] = BitVec.ofNat 32 (s.core.msgSeq.toNat * 4096 + s.partAddr % 4096) ∧
      m.words[2] = s.x 4#4 ∧ m.words[3] = s.x 5#4 ∧ m.words[4] = s.x 6#4 ∧ m.words[5] = s.x 7#4 ∧
      exec (.sendam c d) s = .next ((((s.modT fun t => { t with ocnt := { t.ocnt with msgs := t.ocnt.msgs + 1 } }).post
        (.messageAccept s.who)).send s.core.group s.who.core m.dst (.mailboxArrival m)).retire 4#32)) ∧
  (∀ (s : State) g src dst (m : AmMsg), (s.coreAt src).power ≠ .off →
    ((s.send g src dst (.mailboxArrival m)).coreAt src).msgSeq = (s.coreAt src).msgSeq + 1#20) ∧
  (∀ (c d : BitVec 4) (s : State), ¬ InTask s → Ready s [d, c, 4#4, 5#4, 6#4, 7#4] → 16 ≤ (s.x c).toNat → (s.x c).toNat < 64 →
    NamesCore (s.x d) →
    ∃ m : AmMsg, m.src = s.who ∧ m.dst = (s.x d).toNat ∧
      exec (.sendam c d) s = .next ((((s.modCore s.who.core fun c => { c with hd := { c.hd with unsent := c.hd.unsent + 1 } }).post
        (.messageAccept s.who)).send s.core.group s.who.core m.dst (.mailboxArrival m)).retire 4#32)) ∧
  (∀ (c d : BitVec 4) (s : State), Ready s [d, c, 4#4, 5#4, 6#4, 7#4] → ((s.x c).toNat < 16 ∨ 63 < (s.x c).toNat) →
    exec (.sendam c d) s = .next (s.trap .mailboxClass (s.x c))) ∧
  (∀ (s : State) (m : AmMsg), Performs s (.mailboxArrival m) → m.part = s.partAddr → s.reach m.dst m.ctx (ownDrawn s m) = .here →
    ((s.coreAt m.dst).mbCount < 32 →
      exec .mailboxArrival s = .next ((s.accept m.group m.src.core m.dst).modCore m.dst (Core.land m))) ∧
    (32 ≤ (s.coreAt m.dst).mbCount → exec .mailboxArrival s = .next { s with pending := .mailboxArrival m :: s.pending })) ∧
  (∀ (s : State) (m : AmMsg) g, Performs s (.mailboxArrival m) → m.part = s.partAddr → s.reach m.dst m.ctx (ownDrawn s m) = .hold g →
    exec .mailboxArrival s = .next (s.hold g (.mailboxArrival m))) ∧
  (∀ (s : State) k, Performs s (.activeMessage k) → s.canHandle k = true →
    let entry := 0x7800 + 32 * ((s.coreAt k).mbHead % 32)
    let cls := ((s.coreAt k).lm.word entry).toNat % 64
    let h := (s.coreAt k).lm.word ((s.coreAt k).hbase.toNat + 4 * cls)
    (h.getLsbD 31 = true → s.kernelOf (s.coreAt k).group (h.toNat / 2 ^ 28 % 4) ≠ none → ∃ t, exec .activeMessage s = .next t ∧
      (t.coreAt k).hd.running = true ∧ (t.coreAt k).hd.pc = BitVec.ofNat 32 (h.toNat % 2 ^ 25) ∧
      (t.coreAt k).hd.x[15] = BitVec.ofNat 32 entry ∧ (∀ j (hj : j < 6), (t.coreAt k).hd.x[j + 2] = (s.coreAt k).lm.word (entry + 4 * j)) ∧
      (t.coreAt k).hd.budget = (if (s.coreAt k).hbudget = 0#16 then 65536 else (s.coreAt k).hbudget.toNat)) ∧
    ((h.getLsbD 31 = false ∨ s.kernelOf (s.coreAt k).group (h.toNat / 2 ^ 28 % 4) = none) →
      exec .activeMessage s = .next (s.escalateAt ⟨k, .handler⟩ .mailboxClass (BitVec.ofNat 32 cls) 0#32))) ∧
  (∀ (s : State), s.inHandler = true → s.core.hd.unsent = 0 →
    (∃ t, exec .hret s = .next t ∧ exec .cHret s = .next t ∧ (t.coreAt s.who.core).hd.running = false ∧
      (t.coreAt s.who.core).mbHead = (s.core.mbHead + 1) % 32 ∧ (t.coreAt s.who.core).mbCount = s.core.mbCount - 1 ∧
      (t.coreAt s.who.core).hd.instret = s.core.hd.instret + 1#32)) ∧
  (∀ (s : State), s.inHandler = true → s.core.hd.unsent ≠ 0 → exec .hret s = .next s ∧ exec .cHret s = .next s) ∧
  (∀ (s : State), InTask s → exec .hret s = .next (s.trap .illegalOp 0x0005E600#32) ∧ exec .cHret s = .next (s.trap .illegalOp 0x0000B802#32))

/-! ## The prism array (R138 to R162) -/

namespace Sys2Proof.Claims

/-- The bank of the issuing context's core (R138). -/
abbrev BankHeld (s : State) (b : Bool) : Prop := (s.clusterAt (s.who.core / 16)).bankOf s.core.ctxid = some b

/-- That bank's record. -/
def bankAt (s : State) (b : Bool) : Bank := (s.clusterAt (s.who.core / 16)).bank b

/-- The issuing context holds its bank's lease (R149). -/
def LeaseHeld (s : State) (b : Bool) : Prop := ∃ n, (bankAt s b).held = some (s.who, n)

/-- The stream takes a command now (R143, R145, R148): no group of the bank is being pre-empted, the bank owns the slot, has a place
for the command and one for its token, and the issuer's earlier loads and stores are complete. -/
abbrev StreamFree (s : State) (b : Bool) : Prop :=
  s.bankStopped (s.who.core / 16) b = false ∧ (s.clusterAt (s.who.core / 16)).slotBank = some b ∧ (bankAt s b).stream.length < 3 ∧ s.task.ocnt.cmds + s.task.tokens.length < 31 ∧ Settled s

/-- The array commands with the slot of their map and the register of their index or shape. -/
def arrayRow : Instr → Option (Option (BitVec 4) × Option (BitVec 4))
  | .mzero _ => some (none, none)
  | .mld t x _ => some (some t, some x)
  | .mst t x _ => some (some t, some x)
  | .pmv t x _ _ => some (some t, some x)
  | .pmvx t x _ _ => some (some t, some x)
  | .pmt _ _ _ => some (none, none)
  | .pbp _ _ _ => some (none, none)
  | .prt _ _ _ => some (none, none)
  | _ => none

/-- A command as its bank's stream holds it (R143): its issuer, its number, its map, its index, and what it took at issue, in the order of
acceptance. -/
def commandOf (s : State) (i : Instr) (m : Option Rec) (x : Word) : ArrayCmd :=
  ⟨s.who, s.task.cmdSeq, i, m, x, s.task.pctl, s.core.rank, s.core.gsize, s.core.group, s.waitCount, none⟩

/-- The state after the command's acceptance (R143, R144, R149). -/
def accepted (s : State) (b : Bool) (c : ArrayCmd) : State :=
  ((({ s with waitCount := s.waitCount + 1 } : State).modCluster (s.who.core / 16) (Cluster.modBank b fun k => { k.useLease with stream := k.stream ++ [c] })).modT fun t =>
    { t with cmdSeq := t.cmdSeq + 1#16, ocnt := { t.ocnt with cmds := t.ocnt.cmds + 1 }, vl := true }).retire 4#32

/-- A command heads its bank's stream and has its turn (R143, R148): the array runs none that it accepted earlier for the other bank, and
no PRT of the bank waits for its tiles. -/
abbrev Heads (s : State) (k : Nat) (b : Bool) (c : ArrayCmd) (rest : List ArrayCmd) : Prop :=
  ((s.clusterAt k).bank b).stream = c :: rest ∧ (s.clusterAt k).turnDue b = true

/-- The signed element of an s8 tile of n columns. -/
def s8At (t : Mem) (n r c : Nat) : Int := (t.byte (r * n + c)).toInt

/-- The element of an s32 tile of n columns. -/
def s32At (t : Mem) (n r c : Nat) : Int := (t.word (4 * (r * n + c))).toInt

/-- Trit k of a t5 byte (R29): 0 where the byte is no code. -/
def tritOf (b : Byte) (k : Nat) : Int := if 242 < b.toNat then 0 else ((b.toNat / 3 ^ k % 3 : Nat) : Int) - 1

/-- Trit k of row r of a t5 tile of n columns (R29, R154): 0 where its byte is no code. -/
def tritIn (t : Mem) (n r k : Nat) : Int := tritOf (t.byte (r * n + k / 5)) (k % 5)

/-- Trit k of row r of the weights that a command streams, w bytes to the row, from what its places gave (R154). -/
def streamTrit (got : List (Place × List Byte)) (w r k : Nat) : Int :=
  match got[r * w + k / 5]? with
  | some q => tritOf (q.2.headD 121#8) (k % 5)
  | none => 0

/-- The places of the weights of PMV and PMVX, row after row (R154). -/
def weightPlaces (c : ArrayCmd) (m : Rec) (rows w : Nat) : List Place :=
  (List.range rows).flatMap fun i => (List.range w).map fun j => c.place m i j (i * w + j) 1

/-- The sum of one block of 32 of PMVX: the trits of row r times the s8 elements of column j (R156). -/
def blockSum (got : List (Place × List Byte)) (w : Nat) (ha : Shape) (ma : Mem) (r j q : Nat) : Int :=
  (((List.range 32).filter fun i => 32 * q + i < ha.r).map fun i =>
    streamTrit got w r (32 * q + i) * s8At ma ha.c (32 * q + i) j).sum

/-- The shapes with which PMV and PMVX run (R160). -/
abbrev StreamShapes (hd ha : Shape) (acc act : Nat) : Prop :=
  hd.code = acc ∧ hd.r ≤ 32 ∧ hd.c ≤ 8 ∧ ha.code = act ∧ ha.r ≤ 160 ∧ ha.c = hd.c

/-- What a tile load or store moves from: a map of the tile's format, and for an mx8 tile an index at the head of a block (R152, R153). -/
abbrev Moves (c : ArrayCmd) (m : Rec) (h : Shape) : Prop :=
  mapEt m = h.code ∧ (h.code = 9 → c.index.toNat % viewExtent m c.gsize c.rank 0 % 32 = 0)

end Sys2Proof.Claims

/-- R147, R149, R150: a slot's end begins the next of the sixteen, a write of the slot table restarts them at slot 0, and both give a held
lease back to the head of its queue; LEASE enters the queue behind the others, or renews the issuer's count; UNLEASE withdraws; the head of
the queue of the bank that owns the slot is granted. -/
def Sys2Proof.Claims.SlotsAndLeases : Prop :=
  (∀ (s : State) k, Performs s (.slotEnd k) → ∃ t, exec .slotEnd s = .next t ∧ SameMemory s t ∧
    (t.clusterAt k).slot = ((s.clusterAt k).slot + 1) % 16 ∧
    ∀ b, ((t.clusterAt k).bank b).held = none ∧
      ((t.clusterAt k).bank b).leases = ((s.clusterAt k).bank b).held.toList ++ ((s.clusterAt k).bank b).leases) ∧
  (∀ (s : State) k w, Performs s (.slotTableWrite k none w) → ∃ t, exec .slotTableWrite s = .next t ∧
    (t.clusterAt k).slot = 0 ∧ (t.clusterAt k).pslen = w.setWidth 16 ∧ (t.clusterAt k).pslot = (s.clusterAt k).pslot) ∧
  (∀ (s : State) k (j : BitVec 4) w, Performs s (.slotTableWrite k (some j) w) → ∃ t, exec .slotTableWrite s = .next t ∧
    (t.clusterAt k).slot = 0 ∧ (t.clusterAt k).pslen = (s.clusterAt k).pslen ∧
    (t.clusterAt k).pslot = (s.clusterAt k).pslot.set j.toFin (w.setWidth 2)) ∧
  (∀ (n : BitVec 6) (s : State) b, InTask s → BankHeld s b → (∀ m, (bankAt s b).held ≠ some (s.who, m)) →
    (∀ e ∈ (bankAt s b).leases, e.1 ≠ s.who) →
    exec (.lease n) s = .next (((s.modCluster (s.who.core / 16) (Cluster.modBank b fun k =>
      { k with leases := k.leases ++ [(s.who, n.toNat + 1)] })).modT fun t => { t with vl := true }).retire 4#32)) ∧
  (∀ (n : BitVec 6) (s : State) b, InTask s → BankHeld s b → LeaseHeld s b →
    exec (.lease n) s = .next (((s.modCluster (s.who.core / 16) (Cluster.modBank b fun k =>
      { k with held := some (s.who, n.toNat + 1) })).modT fun t => { t with vl := true }).retire 4#32)) ∧
  (∀ (s : State) b, InTask s → BankHeld s b → ∃ u : State, exec .unlease s = .next (u.retire 4#32) ∧ u.task.vl = true ∧
    (∀ n, (bankAt u b).held ≠ some (s.who, n)) ∧ (∀ e, e ∈ (bankAt u b).leases ↔ e ∈ (bankAt s b).leases ∧ e.1 ≠ s.who)) ∧
  (∀ (s : State) k b i n rest, Performs s (.leaseGrant k b) → ((s.clusterAt k).bank b).leases = (i, n) :: rest →
    ((s.clusterAt k).bank b).held = none → (s.clusterAt k).slotBank = some b → (s.groupAt (s.coreAt i.core).group).state = .running →
    exec .leaseGrant s = .next (s.modCluster k (Cluster.modBank b fun c => { c with held := some (i, n), leases := rest }))) ∧
  (∀ (n : BitVec 6) (s : State), InTask s → (s.clusterAt (s.who.core / 16)).bankOf s.core.ctxid = none →
    exec (.lease n) s = .next (s.trap .tileBank 0#32) ∧ exec .unlease s = .next (s.trap .tileBank 0#32))

/-- R138, R142 to R145, R149: an array command of the lease's holder enters its bank's stream with its operands, counts one command
against the lease and in ocnt, sets VL and completes; MCFG carries its shape; without a bank each takes TILE_BANK, without a lease or a
request for one PRISM_LEASE, with an unbound map TMAP_UNBOUND, and MCFG with an illegal shape TILE_SHAPE; with a request each waits. -/
def Sys2Proof.Claims.ArrayCommandsIssue : Prop :=
  (∀ (s : State) i t x, InTask s → (s.clusterAt (s.who.core / 16)).bankOf s.core.ctxid = none → Clear s x.toList [] →
    (arrayRow i = some (t, x) ∨ ∃ m r, i = .mcfg m r ∧ x = some r) → exec i s = .next (s.trap .tileBank 0#32)) ∧
  ∀ (s : State) b, InTask s → BankHeld s b →
    (∀ i t x, arrayRow i = some (t, x) → Clear s x.toList [] → LeaseHeld s b → StreamFree s b → (∀ n ∈ t, s.task.tm[n.toFin] ≠ none) →
      exec i s = .next (accepted s b (commandOf s i (t.bind fun n => s.task.tm[n.toFin]) (x.elim 0#32 s.x)))) ∧
    (∀ (m : BitVec 3) (x : BitVec 4), Clear s [x] [] →
      ((s.x x) >>> 20 = 0#32 → (shapeOf (s.x x)).legal = true → LeaseHeld s b → StreamFree s b →
        exec (.mcfg m x) s = .next (accepted s b (commandOf s (.mcfg m x) none (s.x x)))) ∧
      (((s.x x) >>> 20 ≠ 0#32 ∨ (shapeOf (s.x x)).legal = false) → exec (.mcfg m x) s = .next (s.trap .tileShape (s.x x))) ∧
      ((s.x x) >>> 20 = 0#32 → (shapeOf (s.x x)).legal = true → ¬ LeaseHeld s b → (∀ e ∈ (bankAt s b).leases, e.1 ≠ s.who) →
        exec (.mcfg m x) s = .next (s.trap .prismLease 0#32))) ∧
    (∀ i t x, arrayRow i = some (t, x) → Clear s x.toList [] → ¬ LeaseHeld s b → (∀ e ∈ (bankAt s b).leases, e.1 ≠ s.who) →
      exec i s = .next (s.trap .prismLease 0#32)) ∧
    (∀ i t x, arrayRow i = some (t, x) → Clear s x.toList [] → ¬ LeaseHeld s b → (∃ e ∈ (bankAt s b).leases, e.1 = s.who) →
      exec i s = .next (s.stall .retry)) ∧
    (∀ i n x, arrayRow i = some (some n, x) → Clear s x.toList [] → LeaseHeld s b → s.task.tm[n.toFin] = none →
      exec i s = .next (s.trap .tmapUnbound (n.setWidth 32)))

/-- R140, R143, R144, R151, R153, R155, R157 to R159, R162: the command at the head of a stream runs whole: MCFG writes its register, MZERO zeroes its
shape's bytes, the others do their work or end by their check; each leaves the stream and its token comes; the token joins the issuer's
queue, and a PRT tile its bank.
Where the spec leaves it open, the model's choices are those of log 9 and 22. -/
def Sys2Proof.Claims.ArrayCommandsRun : Prop :=
  (∀ (s : State) k b c rest m x, Performs s (.arrayCommandTurn k b) → Heads s k b c rest → c.op = .mcfg m x →
    ∃ t, exec .arrayCommandTurn s = .next t ∧ ((t.clusterAt k).bank b).stream = rest ∧
      ((t.clusterAt k).bank b).mcfg = ((s.clusterAt k).bank b).mcfg.set m.toFin c.index ∧
      ((t.clusterAt k).bank b).m = ((s.clusterAt k).bank b).m ∧
      t.pending = s.pending ++ [.tokenPush c.src ⟨none, c.seq, 0#32⟩]) ∧
  (∀ (s : State) k b c rest m, Performs s (.arrayCommandTurn k b) → Heads s k b c rest → c.op = .mzero m →
    let h := shapeOf ((s.clusterAt k).bank b).mcfg[m.toFin]
    ∃ t, exec .arrayCommandTurn s = .next t ∧ ((t.clusterAt k).bank b).stream = rest ∧
      (∀ j, j < h.bytes ∨ (1984 ≤ j ∧ j < 1984 + h.scales) → (((t.clusterAt k).bank b).m[m.toFin]).byte j = 0#8) ∧
      (∀ j, h.bytes ≤ j → (j < 1984 ∨ 1984 + h.scales ≤ j) →
        (((t.clusterAt k).bank b).m[m.toFin]).byte j = (((s.clusterAt k).bank b).m[m.toFin]).byte j) ∧
      (∀ n, n ≠ m → ((t.clusterAt k).bank b).m[n.toFin] = ((s.clusterAt k).bank b).m[n.toFin]) ∧
      t.pending = s.pending ++ [.tokenPush c.src ⟨none, c.seq, 0#32⟩]) ∧
  (∀ (s : State) k b c rest w d a, Performs s (.arrayCommandTurn k b) → Heads s k b c rest → c.op = .pmt w d a →
    exec .arrayCommandTurn s = .next (s.endCmd k b c (runPmt ((s.clusterAt k).bank b) c w d a))) ∧
  (∀ (s : State) k b c rest w d a, Performs s (.arrayCommandTurn k b) → Heads s k b c rest → c.op = .pbp w d a →
    exec .arrayCommandTurn s = .next (s.endCmd k b c (runPbp ((s.clusterAt k).bank b) w d a))) ∧
  (∀ (s : State) k b c rest m t x d, Performs s (.arrayCommandTurn k b) → Heads s k b c rest →
    c.map = some m → (c.op = .mld t x d ∨ c.op = .mst t x d) → mapEt m ≠ (shapeOf ((s.clusterAt k).bank b).mcfg[d.toFin]).code →
    exec .arrayCommandTurn s = .next (s.endCmd k b c .operand)) ∧
  (∀ (s : State) i tk, Performs s (.tokenPush i tk) →
    exec .tokenPush s = .next (s.modTask i fun c => { c with tokens := c.tokens ++ [tk], ocnt := { c.ocnt with cmds := c.ocnt.cmds - 1 } }.endIdle)) ∧
  (∀ (s : State) k b g n toW tile, Performs s (.prtLanding k b g n toW tile) →
    exec .prtLanding s = .next (s.modCluster k (Cluster.modBank b fun c => { c with landings := c.landings ++ [⟨g, n, toW, tile⟩] }))) ∧
  (∀ (s : State) k b c rest, Performs s (.arrayCommandTurn k b) → ((s.clusterAt k).bank b).stream = c :: rest →
    (s.clusterAt k).turnDue b = false → exec .arrayCommandTurn s = .next s)

/-- R146, R152, R153: MLD in its turn fills its tile: each place with the bytes that memory gave at its address, a place outside the view with
the filling byte, and leaves the tile's other bytes; MST writes the tile's bytes at the addresses of its places; an index outside an
edge-1 map is TMAP_RANGE with the lowest such index, an address that its page refuses the page's cause, and both wait for memory. -/
def Sys2Proof.Claims.TilesMove : Prop :=
  (∀ (s : State) k b c rest m t x d, Performs s (.arrayCommandTurn k b) → Heads s k b c rest → c.map = some m → c.op = .mld t x d →
    let bk := (s.clusterAt k).bank b
    let h := shapeOf bk.mcfg[d.toFin]
    let ps := c.places m h
    let reads := s.engineRead (.array k b) (s.groupAt c.group).ctx (mapReuse m) (placeReads ps)
    Moves c m h → h.legal = true →
    (∀ l, rangeFault m ps = some l → exec .arrayCommandTurn s = .next (s.endCmd k b c (.range l))) ∧
    (∀ bs u, rangeFault m ps = none → reads = (.done bs, u) →
      ∃ v, exec .arrayCommandTurn s = .next (u.endCmd k b c
          { write := some (d, v), busy := s.moveBusy c (s.groupAt c.group).ctx h ps, least := (h.bytes + h.scales + 255) / 256 }) ∧
        (∀ q ∈ fillPlaces h.code ps bs, ∀ j (hj : j < q.2.length), v.byte (q.1.off + j) = q.2[j]) ∧
        (∀ o, (∀ p ∈ ps, o < p.off ∨ p.off + p.n ≤ o) → v.byte o = (bk.m[d.toFin]).byte o)) ∧
    (∀ cause va u, rangeFault m ps = none → reads = (.fault cause va, u) →
      exec .arrayCommandTurn s = .next (u.endCmd k b c (.paged cause va))) ∧
    (∀ u, rangeFault m ps = none → reads = (.wait, u) → exec .arrayCommandTurn s = .next u)) ∧
  (∀ (s : State) k b c rest m t x d, Performs s (.arrayCommandTurn k b) → Heads s k b c rest → c.map = some m → c.op = .mst t x d →
    let bk := (s.clusterAt k).bank b
    let h := shapeOf bk.mcfg[d.toFin]
    let ps := c.places m h
    let writes := s.engineWrite (.array k b) (s.groupAt c.group).ctx (mapReuse m)
      ((ArrayCmd.storeOrder h ps).filterMap fun p => p.va.map fun va => (va, (bk.m[d.toFin]).bytes p.off p.n))
    Moves c m h →
    (∀ l, rangeFault m ps = some l → exec .arrayCommandTurn s = .next (s.endCmd k b c (.range l))) ∧
    (∀ bs u, rangeFault m ps = none → writes = (.done bs, u) →
      exec .arrayCommandTurn s = .next (u.endCmd k b c
        { busy := s.moveBusy c (s.groupAt c.group).ctx h ps, least := (h.bytes + h.scales + 255) / 256 })) ∧
    (∀ cause va u, rangeFault m ps = none → writes = (.fault cause va, u) →
      exec .arrayCommandTurn s = .next (u.endCmd k b c (.paged cause va))) ∧
    (∀ u, rangeFault m ps = none → writes = (.wait, u) → exec .arrayCommandTurn s = .next u))

/-- R154 to R156, R159: PMV in its turn adds to each s32 element the exact sum of the streamed trits times s8 elements, wrapped to 32 bits;
PMVX adds to each f32 element its blocks' sums, scaled, in ascending order; PRT adds as PMT does, sends its weight tile to the west
neighbour and its activation tile to the north one, and ends when both of its own have landed, which become its tiles. -/
def Sys2Proof.Claims.ProductsStream : Prop :=
  (∀ (s : State) k b c rest m t x d a, Performs s (.arrayCommandTurn k b) → Heads s k b c rest → c.map = some m → d ≠ a → mapEt m = 8 →
    let bk := (s.clusterAt k).bank b
    let hd := shapeOf bk.mcfg[d.toFin]
    let ha := shapeOf bk.mcfg[a.toFin]
    let w := (ha.r + 4) / 5
    let ps := weightPlaces c m hd.r w
    let reads := s.engineRead (.array k b) (s.groupAt c.group).ctx (mapReuse m) (placeReads ps)
    let run (acc act : Nat) : Prop := StreamShapes hd ha acc act ∧ rangeFault m ps = none
    (∀ l, ((c.op = .pmv t x d a ∧ StreamShapes hd ha 4 0) ∨ (c.op = .pmvx t x d a ∧ StreamShapes hd ha 7 9)) → rangeFault m ps = some l →
      exec .arrayCommandTurn s = .next (s.endCmd k b c (.range l))) ∧
    (∀ bs u, c.op = .pmv t x d a → run 4 0 → reads = (.done bs, u) → bs.length = (placeReads ps).length →
      ∃ dn v, exec .arrayCommandTurn s = .next (u.endCmd k b c dn) ∧ dn.write = some (d, v) ∧ (c.trapIwc = false → dn.fault = none) ∧
        ∀ i j, i < hd.r → j < hd.c → s32At v hd.c i j = (s32At bk.m[d.toFin] hd.c i j +
          ((List.range ha.r).map fun n => streamTrit (fillPlaces 8 ps bs) w i n * s8At bk.m[a.toFin] ha.c n j).sum).bmod (2 ^ 32)) ∧
    (∀ bs u, c.op = .pmvx t x d a → run 7 9 → reads = (.done bs, u) → bs.length = (placeReads ps).length →
      ∃ dn v, exec .arrayCommandTurn s = .next (u.endCmd k b c dn) ∧ dn.write = some (d, v) ∧ (c.trapIwc = false → dn.fault = none) ∧
        ∀ i j, i < hd.r → j < hd.c → v.le (4 * (i * hd.c + j)) 4 =
          ((List.range ((ha.r + 31) / 32)).foldl (fun acc q =>
            mxStep (blockSum (fillPlaces 8 ps bs) w ha bk.m[a.toFin] i j q) ((bk.m[a.toFin]).byte (ha.scaleAt q j)).toNat acc)
            ((bk.m[d.toFin]).le (4 * (i * hd.c + j)) 4, false)).1 % 2 ^ 32) ∧
    (∀ cause va u, ((c.op = .pmv t x d a ∧ run 4 0) ∨ (c.op = .pmvx t x d a ∧ run 7 9)) → reads = (.fault cause va, u) →
      exec .arrayCommandTurn s = .next (u.endCmd k b c (.paged cause va))) ∧
    (∀ u, ((c.op = .pmv t x d a ∧ run 4 0) ∨ (c.op = .pmvx t x d a ∧ run 7 9)) → reads = (.wait, u) →
      exec .arrayCommandTurn s = .next u)) ∧
  (∀ (s : State) k b c rest w d a, Performs s (.arrayCommandTurn k b) → Heads s k b c rest → c.op = .prt w d a → c.step = none →
    let bk := (s.clusterAt k).bank b
    let r := runPmt bk c w d a
    let g := s.groupAt c.group
    (r.fault = some (.prismOperand, none) → exec .arrayCommandTurn s = .next (s.endCmd k b c r)) ∧
    (∀ v, r.write = some (d, v) → ∃ u, exec .arrayCommandTurn s = .next u ∧
      ((u.clusterAt k).bank b).m = bk.m.set d.toFin v ∧ ((u.clusterAt k).bank b).stream = { c with step := some bk.prtStep } :: rest ∧
      (g.west k ≠ k → g.north k ≠ k → u.pending = s.pending ++
        [.prtLanding (g.west k) b c.group bk.prtStep true bk.m[w.toFin], .prtLanding (g.north k) b c.group bk.prtStep false bk.m[a.toFin]]) ∧
      (g.west k = k → g.north k = k → u.pending = s.pending ∧ ((u.clusterAt k).bank b).landings = bk.landings ++
        [⟨c.group, bk.prtStep, true, bk.m[w.toFin]⟩, ⟨c.group, bk.prtStep, false, bk.m[a.toFin]⟩]))) ∧
  (∀ (s : State) k b c rest w d a n tw ta, Performs s (.arrayCommandTurn k b) → Heads s k b c rest → c.op = .prt w d a → c.step = some n →
    let bk := (s.clusterAt k).bank b
    bk.landed c true = some tw → bk.landed c false = some ta →
    ∃ u tk, exec .arrayCommandTurn s = .next u ∧ ((u.clusterAt k).bank b).m = (bk.m.set w.toFin tw).set a.toFin ta ∧
      ((u.clusterAt k).bank b).stream = rest ∧ ((u.clusterAt k).bank b).prtStep = max bk.prtStep (n + 1) ∧ tk.seq = c.seq ∧
      u.pending = s.pending ++ [.tokenPush c.src tk])

/-- R43, R155, R157, R158: PMT adds to each s32 element the exact sum of trits times s8 elements and PBP the exact sum of s8 products, wrapped to 32 bits; every
other byte of the destination is unchanged. -/
def Obligations.ArrayProducts : Prop :=
  ∀ (b : Bank) (w d a : BitVec 3),
    let hd := shapeOf b.mcfg[d.toFin]
    let ha := shapeOf b.mcfg[a.toFin]
    let hw := shapeOf b.mcfg[w.toFin]
    (∀ c : ArrayCmd, d ≠ a → d ≠ w → hd.code = 4 → hd.r ≤ 32 → hd.c ≤ 8 → ha.code = 0 → ha.r ≤ 160 → ha.c = hd.c → hw.code = 8 → hd.r ≤ hw.r →
      ha.r ≤ 5 * hw.c → ∃ t, (runPmt b c w d a).write = some (d, t) ∧
        (∀ i j, i < hd.r → j < hd.c → s32At t hd.c i j = (s32At b.m[d.toFin] hd.c i j +
          ((List.range ha.r).map fun k => tritIn b.m[w.toFin] hw.c i k * s8At b.m[a.toFin] ha.c k j).sum).bmod (2 ^ 32)) ∧
        (∀ k, 4 * hd.r * hd.c ≤ k → t.byte k = (b.m[d.toFin]).byte k)) ∧
    (d ≠ a → d ≠ w → hd.code = 4 → hd.r ≤ 32 → hd.c ≤ 8 → ha.code = 0 → ha.r = hd.r → ha.c ≤ 64 → hw.code = 0 → hw.r = ha.c → hw.c = hd.c →
      ∃ t, (runPbp b w d a).write = some (d, t) ∧
        (∀ i j, i < hd.r → j < hd.c → s32At t hd.c i j = (s32At b.m[d.toFin] hd.c i j +
          ((List.range ha.c).map fun k => s8At b.m[a.toFin] ha.c i k * s8At b.m[w.toFin] hd.c k j).sum).bmod (2 ^ 32)) ∧
        (∀ k, 4 * hd.r * hd.c ≤ k → t.byte k = (b.m[d.toFin]).byte k))

/-! ## Transfers (R191 to R209, R213) -/

namespace Sys2Proof.Claims

/-- Word i of the copy registers cp.src to cp.rcp of the issuing context (R194). -/
def cpw (s : State) (i : Nat) : Nat := (s.task.cp.toList.getD i 0#32).toNat

/-- A task context reads an acting register (R106). -/
abbrev Acts (s : State) (d : BitVec 4) : Prop := InTask s ∧ Clear s [d] []

/-- A transfer is launched into a slot (R191, R192, R199): the slot is ACTIVE with the next generation and the issuer's side, the issuer's
copies count goes up, and the transfer's ID is the generation and the slot. -/
def Launched (s : State) (d : BitVec 4) (slot : Nat) (t : State) : Prop :=
  let old := s.core.slotAt slot
  let new := t.core.slotAt slot
  new.state = .active ∧ new.gen = old.gen + 1#8 ∧ new.launched = true ∧ new.tc = (s.who.ctx == .tc1) ∧
    t.task.ocnt = { s.task.ocnt with copies := s.task.ocnt.copies + 1 } ∧
    t.x d = (if d = 0#4 then 0#32 else BitVec.ofNat 32 (new.gen.toNat * 256 + slot)) ∧
    (∀ j, j ≠ slot → t.core.slotAt j = s.core.slotAt j) ∧ SameMemory s t

/-- The status that the transfer instructions give for an ID (R203). -/
def idStatus (c : Core) (id : Word) : Word :=
  let t := c.slotAt (id.toNat % 256)
  if t.launched = true ∧ t.gen.toNat = id.toNat / 256 % 256 then
    (if t.state = .active ∨ t.state = .saved then 0#32 else if t.cancelled then 2#32 else 1#32)
  else 3#32

/-- The slot of a transfer. -/
def slotOf (s : State) (k n : Nat) : Transfer := (s.coreAt k).slotAt n

/-- Bytes at a place of a core's local memory are, each of them, the new one or the one that stood there, and all new unless what is left
of them still stands with the transfer under a number (R201, R249); no other byte of local memory has changed. -/
def LandsAt (s t : State) (core slot id at_ n : Nat) (new : Nat → BitVec 8) : Prop :=
  (∀ j, j < n → (t.coreAt core).lm.byte (at_ + j) = new j ∨ (t.coreAt core).lm.byte (at_ + j) = (s.coreAt core).lm.byte (at_ + j)) ∧
  ((∀ j, j < n → (t.coreAt core).lm.byte (at_ + j) = new j) ∨ (slotOf t core slot).writes.find id ≠ none) ∧
  (∀ j, (j < at_ ∨ at_ + n ≤ j) → (t.coreAt core).lm.byte j = (s.coreAt core).lm.byte j) ∧
  ∀ i, i ≠ core → (t.coreAt i).lm = (s.coreAt i).lm

/-- A row message is received by its owner core, whose handler performs it, once (R182, R208, R320). -/
def rowHeard (s : State) (cls core slot id owner : Nat) : State :=
  if (slotOf s core slot).heard.contains id then s
  else
    let e : Event := if cls = 10 then .localGather core slot id else .localScatterAdd core slot id
    let u := s.passMailbox cls core owner e
    (u.accept (u.coreAt core).group core owner).modSlot core slot fun t => { t with heard := t.heard ++ [id] }

/-- Local writes performed in order. -/
def localWrites (ws : List (Spot × List Byte)) (m : Mem) : Mem :=
  ws.foldl (fun m w => match w.1 with
    | .loc a => m.setBytes a w.2
    | _ => m) m

end Sys2Proof.Claims

/-- R192, R199, R207: a read of cp.go or gp.go that passes its checks, once the issuer's earlier loads and stores are complete, launches the
transfer in the lowest FREE slot and gives its ID; a bad operation or an empty region or list takes COPY_SHAPE with the register's
number; in the handler context both take SR_ILLEGAL. -/
def Sys2Proof.Claims.TransferLaunch : Prop :=
  (∀ (d : BitVec 4) (s : State) slot, Acts s d → Settled s → s.core.freeSlot = some slot →
    (s.task.copyTrap = none → ∃ u : State, exec (.mfsCpGo d) s = .next (u.retire 4#32) ∧ Launched s d slot u ∧
      (u.core.slotAt slot).kind = .copy ∧ (u.core.slotAt slot).sh = s.task.cp.toList ∧ (u.core.slotAt slot).lfsr = s.task.lfsr) ∧
    (s.task.gatherTrap s.core.gsize s.core.rank = none → ∃ u : State, exec (.mfsGpGo d) s = .next (u.retire 4#32) ∧ Launched s d slot u ∧
      (u.core.slotAt slot).kind = (if (s.task.gp.toList.getD 5 0#32).getLsbD 0 then TKind.scatterAdd else .gather) ∧
      (u.core.slotAt slot).sh = s.task.gp.toList)) ∧
  (∀ (s : State) (slot : Nat), s.core.freeSlot = some slot → slot < 256 ∧ (s.core.slotAt slot).state = .free ∧
    ∀ j, j < slot → (s.core.slotAt j).state ≠ .free) ∧
  (∀ (d : BitVec 4) (s : State), Acts s d → cpw s 5 % 4 = 3 →
    exec (.mfsCpGo d) s = .next (s.trapWith ⟨.copyShape, false, 0x055#32⟩)) ∧
  (∀ (d : BitVec 4) (s : State) tr, Acts s d → (s.task.copyTrap = some tr → exec (.mfsCpGo d) s = .next (s.trapWith tr)) ∧
    (s.task.gatherTrap s.core.gsize s.core.rank = some tr → exec (.mfsGpGo d) s = .next (s.trapWith tr))) ∧
  (∀ (d : BitVec 4) (s : State), Acts s d → (s.task.gp.toList.getD 2 0#32).toNat % 65536 = 0 →
    exec (.mfsGpGo d) s = .next (s.trapWith ⟨.copyShape, false, 0x072#32⟩)) ∧
  (∀ (d : BitVec 4) (s : State), s.inHandler = true → exec (.mfsCpGo d) s = .next (s.trap .srIllegal 0x05F#32) ∧
    exec (.mfsGpGo d) s = .next (s.trap .srIllegal 0x07F#32))

/-- R191, R203: CPTEST gives the status of an ID and CPWAIT waits while it is 0: 3 for one that is not current, 1 for one that has ended, 2 for
one that was cancelled; 1 and 2 acquire, emptying the L1; an ID with bits 31 to 16 set takes TRANSFER_ID.
Where the spec leaves it open, the model's choices are those of log 35. -/
def Sys2Proof.Claims.TransferStatus : Prop :=
  ∀ (d a : BitVec 4) (s : State), InTask s → Clear s [a, d] [] →
    let st := idStatus s.core (s.x a)
    let gives : State :=
      ((((if st = 1#32 ∨ st = 2#32 then s.dropL1 s.who.core else s).modT fun t => { t with waiting := false }).setX d st).retire 4#32)
    ((s.x a).toNat < 65536 → (s.task.waiting = true ∨ s.task.held = []) →
      exec (.cptest d a) s = .next gives ∧ (st ≠ 0#32 → exec (.cpwait d a) s = .next gives) ∧
      (st = 0#32 → exec (.cpwait d a) s =
        .next ((s.modT fun t => { t with waiting := true }).modT fun t => { t with run := .stalled .retry }))) ∧
    (65536 ≤ (s.x a).toNat → exec (.cptest d a) s = .next (s.trap .transferId (s.x a)) ∧
      exec (.cpwait d a) s = .next (s.trap .transferId (s.x a)))

/-- R196, R198, R201, R204: of a chunk of a plain copy between local memories each byte is written or still to be written, and no other
byte of local memory changes; what was read of a chunk lands later, in order; a chunk of a gather or scatter-add is credited; a chunk
fault keeps the transfer's first fault, credits the chunk no more and poisons its barrier.
Where the spec leaves it open, the model's choices are those of log 10. -/
def Sys2Proof.Claims.ChunkEvents : Prop :=
  (∀ (s : State) core slot k, Performs s (.chunkDelivered core slot k) → s.chunkReady core slot k = true →
    let t := slotOf s core slot
    ∀ sc a dc b, t.kind = .copy → t.op = 0 → t.writes.find k = none → t.src = .loc sc a → t.dst = .loc dc b → sc ≤ 10 → dc ≤ 10 →
      codeSize sc = codeSize dc →
      let n := Min.min 512 (t.rows * t.cols * codeSize sc - 512 * k)
      ∃ u, exec .chunkDelivered s = .next u ∧ u.phys = s.phys ∧
        LandsAt s u core slot k (b + 512 * k) n fun j => (s.coreAt core).lm.byte (a + 512 * k + j)) ∧
  (∀ (s : State) core slot k fl ws, Performs s (.chunkDelivered core slot k) → s.chunkReady core slot k = true →
    (slotOf s core slot).kind = .copy → (slotOf s core slot).writes.find k = some (fl, ws) → (∀ w ∈ ws, ∃ a, w.1 = .loc a) →
    ∃ u n, exec .chunkDelivered s = .next u ∧ n ≤ ws.length ∧ (u.coreAt core).lm = localWrites (ws.take n) (s.coreAt core).lm ∧
      (n < ws.length → (slotOf u core slot).writes.find k = some (fl, ws.drop n)) ∧ u.phys = s.phys) ∧
  (∀ (s : State) core slot k, Performs s (.chunkDelivered core slot k) → s.chunkReady core slot k = true →
    (slotOf s core slot).kind ≠ .copy → exec .chunkDelivered s = .next (s.credit core slot k)) ∧
  (∀ (s : State) core slot k c w, Performs s (.chunkFault core slot k c w) → (slotOf s core slot).state = .active →
    let u := (s.stray core slot (some k)).modSlot core slot fun t =>
      let t := { t with fault := some (t.fault.getD (c, w)), lost := if t.lost.contains k then t.lost else t.lost ++ [k] }
      if t.kind = .copy then { t with writes := t.writes.del k, begun := t.begun.del k } else t
    let v : State := { u with pending := u.pending.filter fun e => !faultEvent core slot e }
    exec .chunkFault s = .next ((v.poisonBar core slot).tryEnd core slot) ∧
      ((slotOf s core slot).kind ≠ .copy → s.stray core slot (some k) = s)) ∧
  (∀ (s : State) core slot k, (slotOf s core slot).lost.contains k = true → s.chunkReady core slot k = false ∧
    (Performs s (.chunkDelivered core slot k) → exec .chunkDelivered s = .next s)) ∧
  (∀ (s : State) core slot, (slotOf s core slot).state = .active →
    let t := slotOf s core slot
    let i : Issuer := ⟨core, if t.tc then .tc1 else .tc0⟩
    let u := s.endTransfer core slot
    (u.taskAt i).ocnt = { (s.taskAt i).ocnt with copies := (s.taskAt i).ocnt.copies - 1 } ∧
      (u.taskAt i).held = (if t.fault.isSome then (s.taskAt i).held ++ [slot] else (s.taskAt i).held) ∧
      (u.taskAt i).cq = (if t.q then (s.taskAt i).cq ++ [slot] else (s.taskAt i).cq) ∧
      ((slotOf u core slot).state = .free ↔ t.fault = none ∧ t.q = false))

/-- R207 to R209: a row request reads its row's index once and goes on its way; what a gather's request takes of a row lands at its place of
a local destination, zero filled for an index beyond the table; a scatter-added row adds its elements to the row in memory, and is
dropped beyond the table; with edge = 1 an index beyond the table is a GATHER_INDEX fault of the transfer; a row message is performed by
its owner core's handler.
Where the spec leaves it open, the model's choices are those of log 33. -/
def Sys2Proof.Claims.RowEvents : Prop :=
  (∀ (s : State) core slot id, Performs s (.rowRequest core slot id) → s.nextRow core slot = some id →
    let t := slotOf s core slot
    let m := rowOf id
    let x := ((s.coreAt core).lm.word (t.w 1 + 4 * m)).toNat
    ∃ u e, exec .rowRequest s = .next u ∧ u.pending = s.pending ++ [e] ∧ slotEvent core slot e = true ∧
      (slotOf u core slot).asked = (if (t.asked.find m).isSome then t.asked else t.asked.put m x) ∧
      (slotOf u core slot).issued = t.issued ++ [id] ∧ SameMemory s u) ∧
  (∀ (s : State) core slot id c0 cn owner, (slotOf s core slot).pieces.find id = some (c0, cn, some owner) →
    (Performs s (.localGather core slot id) →
      (s.handlerFree owner = true →
        exec .localGather s = .next ((rowHeard s 10 core slot id owner).gatherStep core slot id (State.post (.localGather core slot id)))) ∧
      (s.handlerFree owner = false →
        exec .localGather s = .next { s with pending := .localGather core slot id :: s.pending })) ∧
    (Performs s (.localScatterAdd core slot id) →
      (s.handlerFree owner = true →
        exec .localScatterAdd s =
          .next ((rowHeard s 11 core slot id owner).scatterStep core slot id (State.post (.localScatterAdd core slot id)))) ∧
      (s.handlerFree owner = false →
        exec .localScatterAdd s = .next { s with pending := .localScatterAdd core slot id :: s.pending }))) ∧
  (∀ (s : State) core slot id, (Performs s (.gatherRow core slot id) →
      exec .gatherRow s = .next (s.gatherStep core slot id (State.post (.gatherRow core slot id)))) ∧
    (Performs s (.scatterAddRow core slot id) →
      exec .scatterAddRow s = .next (s.scatterStep core slot id (State.post (.scatterAddRow core slot id))))) ∧
  (∀ (s : State) (e : Event) core slot id, (slotOf s core slot).rowOpen id = true →
    ∀ map code b c0 cn owner, (slotOf s core slot).srcMap = some map → (slotOf s core slot).dst = .loc code b →
    codeSize code = codeSize (mapEt map) → (slotOf s core slot).pieces.find id = some (c0, cn, owner) →
    (slotOf s core slot).writes.find id = none →
    let t := slotOf s core slot
    let c := s.coreAt core
    let e0 := viewExtent map c.gsize c.rank 0
    let x := SMap.get 0 t.asked (rowOf id)
    let size := codeSize code
    let at_ := b + (rowOf id * e0 + c0) * size
    let w := s.gatherStep core slot id (State.post e)
    (∀ (vas : List Nat) bs u, x < viewSize map c.gsize c.rank / e0 →
      (List.range cn).map (fun j => (tableRow map c.gsize c.rank x).getD (c0 + j) none) = vas.map some → bs.length = cn * size →
      s.engineRead (.row core slot id) c.ctxid t.reuse (vas.map fun a => (a, size)) = (.done bs, u) → u.cores = s.cores →
      w.phys = u.phys ∧ LandsAt s w core slot id at_ (cn * size) fun j => bs.getD j 0#8) ∧
    (viewSize map c.gsize c.rank / e0 ≤ x → mapEdge map = false → mapEt map ≠ 8 →
      w.phys = s.phys ∧ LandsAt s w core slot id at_ (cn * size) fun _ => 0#8) ∧
    (viewSize map c.gsize c.rank / e0 ≤ x → 0 < cn → mapEdge map = true →
      w = (s.noteFault core slot (t.rowChunk c.gsize c.rank id) id .gatherIndex 0).dropFetches (.row core slot id))) ∧
  (∀ (s : State) (e : Event) core slot id, (slotOf s core slot).rowOpen id = true →
    ∀ map code b c0 cn owner, (slotOf s core slot).srcMap = some map → (slotOf s core slot).dst = .loc code b →
    (slotOf s core slot).pieces.find id = some (c0, cn, owner) → (slotOf s core slot).writes.find id = none →
    let t := slotOf s core slot
    let c := s.coreAt core
    let e0 := viewExtent map c.gsize c.rank 0
    let x := SMap.get 0 t.asked (rowOf id)
    let w := s.scatterStep core slot id (State.post e)
    let en : Engine := .row core slot id
    t.indexBusy (rowOf id) x = false →
    (∀ (vas : List Nat), x < viewSize map c.gsize c.rank / e0 →
      (List.range cn).map (fun j => (tableRow map c.gsize c.rank x).getD (c0 + j) none) = vas.map some → code = 4 → bits t.mode 1 3 = 4 →
      let values := (List.range cn).map fun j => c.lm.bytes (b + (rowOf id * e0 + c0 + j) * 4) 4
      let u : State := { s.dropFetches en with freeCount := s.freeCount + 1 }
      let counted := SMap.get [] t.begun id
      ∃ n, n ≤ cn ∧ (0 < cn → 0 < n) ∧ ∀ v, u.engineAdd en c.ctxid t.reuse 4 ((vas.zip values).take n) counted = (.done [], v) →
        let rest := ((vas.map Spot.va).zip values).drop n
        w = if n = cn then
            ((v.dropFetches en).modSlot core slot fun t => { t with writes := t.writes.del id, begun := t.begun.del id }).rowDone core slot id
          else ((v.dropFetches en).modSlot core slot fun t =>
            { t with writes := t.writes.put id (0#4, rest),
                     begun := t.begun.put id (counted ++ (vas.take n).map fun a => a % 2 ^ 48 / 128).eraseDups }).post e) ∧
    (viewSize map c.gsize c.rank / e0 ≤ x → mapEdge map = false → w = s.rowDone core slot id) ∧
    (viewSize map c.gsize c.rank / e0 ≤ x → mapEdge map = true → w = s.noteFault core slot 0 id .gatherIndex 0)) ∧
  (∀ (s : State) (e : Engine) ctx reuse va pa l (v : List Byte), va < 2 ^ 48 → va % 4 = 0 → v.length = 4 →
    s.fetchOf e ⟨0, va, 4, .add 4 v⟩ = none → s.meet ctx va .write = .here pa l → s.poisonedAt ctx va l = false → l.kind = 1 →
    pa + 4 ≤ 0x20800000000 →
    ∃ w, s.engineAdd e ctx reuse 4 [(va, v)] = (.done [], w) ∧
      let u := s.touch l true
      w.phys = u.phys.setBytes pa (leBytes 4 ((leNat ((List.range 4).map fun k => s.phys.byte (pa + k)) + leNat v) % 2 ^ 32)))

/-- R192, R213, R282, R335: pre-emption, and a group's failure, makes an ACTIVE transfer SAVED between two chunks, its requests that have
not landed to be sent again, once none of them is part written; a transfer that has made no progress for a
second escalates TRANSFER_STALL with its ID. -/
def Sys2Proof.Claims.TransferStops : Prop :=
  (∀ (s : State) core slot, Performs s (.transferStop core slot) → ((s.groupAt (s.coreAt core).group).state = .preempting ∨ (s.groupAt (s.coreAt core).group).state = .faulted) →
    s.slotHalf core slot = false → (slotOf s core slot).begun = [] → (slotOf s core slot).state = .active → (slotOf s core slot).sent = [] → (slotOf s core slot).fault = none →
    ((slotOf s core slot).kind ≠ .send ∨ (slotOf s core slot).phase = .held ∨ (slotOf s core slot).phase = .rnr ∨ (slotOf s core slot).phase = .admitted) →
    ∃ t, exec .transferStop s = .next t ∧ (slotOf t core slot).state = .saved ∧ (slotOf t core slot).done = (slotOf s core slot).done ∧
      (slotOf t core slot).landed = (slotOf s core slot).landed ∧ (slotOf t core slot).asked = (slotOf s core slot).asked ∧
      (slotOf t core slot).issued = (slotOf s core slot).landedPieces ∧ (slotOf t core slot).writes = [] ∧ (∀ e ∈ t.pending, slotEvent core slot e = false) ∧ SameMemory s t) ∧
  (∀ (s : State) core slot, Performs s (.transferStop core slot) → (slotOf s core slot).begun ≠ [] → exec .transferStop s = .next s) ∧
  (∀ (s : State) core slot, Performs s (.transferStall core slot) → (slotOf s core slot).state = .active →
    let t := slotOf s core slot
    exec .transferStall s = .next (s.escalateAt ⟨core, if t.tc then .tc1 else .tc0⟩ .transferStall
      (BitVec.ofNat 32 (t.gen.toNat * 256 + slot)) 0#32))

/-! ## Barriers (R214 to R231) -/

namespace Sys2Proof.Claims

/-- The barrier instructions: the operation, and its registers b, d and a (R221). -/
def barrierRow : Instr → Option (BarOp × BitVec 4 × BitVec 4 × BitVec 4)
  | .binit b d a => some (.binit, b, d, a)
  | .bexp b d a => some (.bexp, b, d, a)
  | .barr b d a => some (.barr, b, d, a)
  | .bwait b d a => some (.bwait, b, d, a)
  | .bwaitm b d a => some (.bwaitm, b, d, a)
  | .btest b d a => some (.btest, b, d, a)
  | _ => none

/-- A local reference to the record at byte address n of core k (R195): the core's number and a quarter of the address. -/
abbrev RefersTo (w : Word) (k n : Nat) : Prop := w.toNat = k * 2 ^ 13 + n / 4 ∧ n % 64 = 0 ∧ n + 64 ≤ 0x7000 ∧ k < 2 ^ 18

/-- The record r stands at byte address n of a bound core k whose group, g, does not stand in a saved image, and is well formed (R214 to R216). -/
abbrev RecordAt (s : State) (g k n : Nat) (r : Rec) : Prop :=
  (s.coreAt k).lm.rec n = r ∧ g ≠ 0 ∧ (s.coreAt k).group = g ∧ (s.coreAt k).power = .bound ∧ (s.groupAt g).stored = false ∧
    barMalformed r = false

/-- The record has been initialised (R214). -/
abbrev Initialised (r : Rec) : Prop := r[0].toNat % 4 = 1

/-- The phase bit of a record, and whether the phase is poisoned (R214). -/
def phase (r : Rec) : Nat := r[0].toNat / 4 % 2
/-- Bit P of a record (R214). -/
abbrev poisoned (r : Rec) : Prop := r[0].getLsbD 3 = true

/-- The current phase is satisfied (R217): not poisoned, every expected count met, and the bitmap covers its mask. -/
def Satisfied (r : Rec) : Prop :=
  ¬ poisoned r ∧ r[3].toNat % 65536 ≤ r[3].toNat / 65536 ∧
    (∀ s, (h : s < 6) → r[5 + 2 * s].toNat % 65536 ≤ r[5 + 2 * s].toNat / 65536) ∧ r[1] &&& r[2] = r[2]

/-- The record after a phase completes (R217): the phase bit flipped, the bitmap and the arrived counts zero, the rest unchanged. -/
def Flipped (r r' : Rec) : Prop :=
  r'[0] = r[0] ^^^ 4#32 ∧ r'[1] = 0#32 ∧ r'[2] = r[2] ∧ r'[3] = r[3] &&& 0xFFFF#32 ∧
    ∀ s, (h : s < 6) → r'[4 + 2 * s] = r[4 + 2 * s] ∧ r'[5 + 2 * s] = r[5 + 2 * s] &&& 0xFFFF#32

/-- The record at n of core k in another state, and every other byte of that core's memory as before. -/
def WritesRecord (s t : State) (k n : Nat) (r : Rec) : Prop :=
  (t.coreAt k).lm.rec n = r ∧ (∀ b, (b < n ∨ n + 64 ≤ b) → (t.coreAt k).lm.byte b = (s.coreAt k).lm.byte b) ∧
    (∀ j, j ≠ k → (t.coreAt j).lm = (s.coreAt j).lm) ∧ t.phys = s.phys

/-- What a reply makes of the instruction that waits for it: its value, as an acquire where it is one, or its trap (R221, R227). -/
def replyEnds (r : BarReply) (s : State) : State :=
  match r.trap with
  | some tr => s.trapWaiting r.dst tr
  | none =>
    let u := if r.acq then s.dropL1 r.dst.core else s
    (match r.rd with
      | some d => u.setXAt r.dst d r.value
      | none => u).retireAt r.dst 4#32

/-- A dissemination context of a core (R230). -/
def dis (s : State) (k : Nat) (n : BitVec 2) : Dissem := (s.coreAt k).dissem[n.toFin]

end Sys2Proof.Claims

/-- R214, R216 to R218, R222: when a record's phase is satisfied, what a completed phase and an arrival make of it, which arrivals are
rejected, and the records that BINIT and BEXP write. -/
def Sys2Proof.Claims.BarrierRecords : Prop :=
  (∀ r : Rec, barSatisfied r = true ↔ Satisfied r) ∧
  (∀ r : Rec, Flipped r (barFlip r)) ∧
  (∀ (r : Rec) core chunk, (∀ k ∈ chunk, k < 32) →
    let bit : Word := match chunk with | some k => 1#32 <<< k | none => 0#32
    (barCredit core 6 chunk r = none ↔ r[3].toNat / 65536 = 65535) ∧
    (∀ q, barCredit core 6 chunk r = some q → q[3] = r[3] + 0x10000#32 ∧ q[1] = r[1] ||| bit ∧
      ∀ j, (h : j < 16) → j ≠ 1 → j ≠ 3 → q[j] = r[j]) ∧
    ∀ s, (h : s < 6) →
      (barCredit core s chunk r = none ↔ r[5 + 2 * s].toNat % 65536 = 0 ∨ r[4 + 2 * s].toNat % 2 ^ 18 ≠ core ∨
        r[5 + 2 * s].toNat / 65536 = 65535) ∧
      (∀ q, barCredit core s chunk r = some q → q[5 + 2 * s] = r[5 + 2 * s] + 0x10000#32 ∧ q[1] = r[1] ||| bit ∧
        ∀ j, (h : j < 16) → j ≠ 1 → j ≠ 5 + 2 * s → q[j] = r[j])) ∧
  (∀ (m g : Word) (r : Rec), let q := barInit m g r
    q[0].toNat = (r[0].toNat / 256 % 256 + 1) % 256 * 256 + 4 * phase r + 1 ∧ q[1] = 0#32 ∧ q[2] = m ∧ q[3] = g &&& 0xFFFF#32 ∧
      ∀ j, (h : j < 16) → 4 ≤ j → q[j] = 0#32) ∧
  (∀ (v e : Word) (r : Rec), e.toNat < 65536 → let q := barExpect v e r
    (v.toNat / 2 ^ 29 = 6 → q[3].toNat = r[3].toNat / 65536 * 65536 + e.toNat ∧ ∀ j, (h : j < 16) → j ≠ 3 → q[j] = r[j]) ∧
    ∀ s, (h : s < 6) → v.toNat / 2 ^ 29 = s → q[4 + 2 * s] = v &&& 0x3FFFF#32 ∧
      q[5 + 2 * s].toNat = r[5 + 2 * s].toNat / 65536 * 65536 + e.toNat ∧ ∀ j, (h : j < 16) → j ≠ 4 + 2 * s → j ≠ 5 + 2 * s → q[j] = r[j])

/-- R215, R221 to R227: on a record of the issuer's own core a barrier instruction is performed at once: BINIT initialises, BEXP sets an expected count, BARR gives the
phase and credits its arrival, BTEST gives the record's state, BWAIT and BWAITM give their status or park; on a record of another core the operation travels
there and the context stalls.
Where the spec leaves it open, the model's choices are those of log 37. -/
def Sys2Proof.Claims.BarrierInstructions : Prop :=
  (∀ (b d a : BitVec 4) (s : State) n r, InTask s → Ready s [a, b, d] → RefersTo (s.x a) s.who.core n →
    RecordAt s s.core.group s.who.core n r →
    let k := s.who.core
    let v := s.x b
    let done (i : Instr) (value : Option Word) (r' : Rec) : Prop := ∃ u : State, exec i s = .next ((u.retireAt s.who 4#32).prefer) ∧
      WritesRecord s u k n r' ∧ (∀ j x, (j ≠ s.who ∨ x ≠ d ∨ value = none) → u.xAt j x = s.xAt j x) ∧
      (∀ w ∈ value, u.x d = if d = 0#4 then 0#32 else w)
    let parks (i : Instr) : Prop := ∃ t, exec i s = .next t ∧ WritesRecord s t k n r ∧ (t.taskAt s.who).run = .stalled (.parked s.waitCount) ∧
      ∃ m ∈ (t.coreAt k).parkedBar, m.wait = s.waitCount ∧ m.src = s.who ∧ m.a = v
    (Settled s → v.toNat < 65536 → done (.binit b d a) none (barInit (s.x d) v r)) ∧
    (Initialised r → v.toNat < 65536 → bits (s.x d).toNat 18 11 = 0 → (bits (s.x d).toNat 29 3 < 6 ∨ s.x d = 0xC0000000#32) →
      let q := barExpect (s.x d) v r
      done (.bexp b d a) none (if barSatisfied q then barFlip q else q)) ∧
    (Initialised r → Settled s → v.toNat ≤ 6 → ∀ q, barCredit k v.toNat none r = some q →
      done (.barr b d a) (some (BitVec.ofNat 32 (phase r))) (if barSatisfied q then barFlip q else q)) ∧
    (Initialised r → Settled s → v.toNat ≤ 6 → barCredit k v.toNat none r = none →
      ∃ u : State, exec (.barr b d a) s = .next (u.trap .barrierProducer (s.x a)) ∧ SameMemory s u) ∧
    (Initialised r → done (.btest b d a) (some (BitVec.ofNat 32 (r[0].toNat / 256 % 256 * 65536 +
      (if r[1] &&& v = v then 4 else 0) + (if r[0].getLsbD 3 then 2 else 0) + phase r))) r) ∧
    (Initialised r → phase r ≠ v.toNat % 2 → done (.bwait b d a) (some 0#32) r) ∧
    (Initialised r → phase r = v.toNat % 2 → poisoned r → done (.bwait b d a) (some 1#32) r) ∧
    (Initialised r → phase r = v.toNat % 2 → ¬ poisoned r → parks (.bwait b d a)) ∧
    (Initialised r → r[1] &&& v = v → done (.bwaitm b d a) (some 0#32) r) ∧
    (Initialised r → r[1] &&& v ≠ v → parks (.bwaitm b d a))) ∧
  (∀ (b d a : BitVec 4) (s : State) n k, InTask s → Ready s [a, b, d] → RefersTo (s.x a) k n → k ≠ s.who.core → Settled s →
    (s.x b).toNat ≤ 6 → s.x d = 0#32 → ∀ i op, barrierRow i = some (op, b, d, a) → ∃ t m, exec i s = .next t ∧
      (t.taskAt s.who).run = .stalled .answer ∧ .barrierOperation m ∈ t.pending ∧ m.src = s.who ∧ m.op = op ∧ m.place = .loc k n ∧
      m.rd = d ∧ SameMemory s t) ∧
  (∀ i op b d a (s : State), barrierRow i = some (op, b, d, a) → InTask s → Ready s [a, b, d] → (s.x a).toNat < 2 ^ 31 →
    ((s.x a).toNat % 16 ≠ 0 ∨ 0x7000 < 4 * ((s.x a).toNat % 2 ^ 13) + 64) →
    exec i s = .next (s.trapWith ⟨.barrierInvalid, false, s.x a⟩))

/-- R201, R215, R218, R219, R221, R226: the owner of a record performs an operation that comes to it, its core's handler being free, and answers with the value, or with
BARRIER_INVALID where the core is no longer of the sender's group, and holds it while that group stands in a saved image; a wait
that was turned away is sent again; a reply completes its instruction, or traps it; an engine's arrival is credited, and a poisoning
sets P and wakes the BWAITs with status 1. -/
def Sys2Proof.Claims.BarrierEvents : Prop :=
  (∀ (s : State) (m : BarMsg) k n, Performs s (.barrierOperation m) → m.place = .loc k n →
    let stored := (s.groupAt m.group).stored
    (stored = true → exec .barrierOperation s = .next (s.hold m.group (.barrierOperation m))) ∧
    (stored = false → (s.coreAt k).group = m.group → s.handlerFree k = false →
      exec .barrierOperation s = .next { s with pending := .barrierOperation m :: s.pending }) ∧
    (stored = false → (s.coreAt k).group ≠ m.group →
      exec .barrierOperation s = .next (((s.takeSeq (.barrierOperation m)).2.accept m.group m.src.core k).answer m.group k m.src.core
        (.barrierReply (barReply m 0#32 (some ⟨.barrierInvalid, false, m.ref⟩)))))) ∧
  (∀ (s : State) (m : BarMsg) k n r, Performs s (.barrierOperation m) → m.place = .loc k n → k ≠ m.src.core → Initialised r →
    (s.groupAt m.group).stored = false → (s.coreAt k).group = m.group → s.handlerFree k = true →
    let t := (s.passMailbox 5 m.src.core k (.barrierOperation m)).accept m.group m.src.core k
    RecordAt t m.group k n r →
    (m.op = .btest → exec .barrierOperation s = .next (t.send m.group k m.src.core (.barrierReply
      { dst := m.src, rd := some m.rd, value := barTest m.a r, acq := true, trap := none, src := some (k, m.group) }))) ∧
    (m.op = .binit → ∃ u, exec .barrierOperation s = .next (State.send m.group k m.src.core (.barrierReply
      { dst := m.src, rd := none, value := 0#32, acq := false, trap := none, src := some (k, m.group) }) u) ∧
      WritesRecord t u k n (barInit m.a m.b r)) ∧
    (m.op = .barr → ∀ q, barCredit m.src.core m.a.toNat none r = some q → ∃ u, exec .barrierOperation s = .next (State.send m.group k m.src.core
      (.barrierReply { dst := m.src, rd := some m.rd, value := BitVec.ofNat 32 (phase r), acq := false, trap := none,
                       src := some (k, m.group) }) u) ∧
      WritesRecord t u k n (if barSatisfied q then barFlip q else q))) ∧
  (∀ (s : State) (m : BarMsg) k n, Performs s (.barrierWaitResend m) → m.place = .loc k n →
    exec .barrierWaitResend s = .next (s.send m.group m.src.core k (.barrierOperation m))) ∧
  (∀ (s : State) (r : BarReply), Performs s (.barrierReply r) →
    (r.src = none → exec .barrierReply s = .next (replyEnds r s)) ∧
    (∀ k g, r.src = some (k, g) → s.handlerFree r.dst.core = true → exec .barrierReply s =
      .next (replyEnds r ((s.passMailbox 0 k r.dst.core (.barrierReply r)).accept g k r.dst.core))) ∧
    (r.src ≠ none → s.handlerFree r.dst.core = false → exec .barrierReply s = .next { s with pending := .barrierReply r :: s.pending })) ∧
  (∀ (s : State) (a : Arrival) core slot k n r, Performs s (.engineArrival a) → a.from_ = .transfer core slot → a.place = .loc k n →
    RecordAt s a.group k n r → Initialised r →
    (∀ q, a.poison = false → barCredit a.coreid a.sel a.chunk r = some q →
      exec .engineArrival s = .next ((s.barTestPhase a.place 0 q).transferArrived core slot a.chunk none)) ∧
    (a.poison = false → barCredit a.coreid a.sel a.chunk r = none →
      exec .engineArrival s = .next (s.transferArrived core slot a.chunk (some .barrierProducer))) ∧
    (a.poison = true → ∃ t, exec .engineArrival s = .next t ∧ WritesRecord s t k n (r.set 0 (r[0] ||| 8#32)) ∧
      ∀ m ∈ (s.coreAt k).parkedBar, m.place = .loc k n → m.op = .bwait → ∀ p ∈ (t.coreAt k).parkedBar, p.wait ≠ m.wait))

/-- R229 to R231: DBAR of a span with one participant completes at once with the new episode; with more it sends the notification of
its first round and waits; a notification is kept for its round, and that of the last round completes the DBAR, the participants being those that it found; while the group's cores take no messages it is held, and at a core that is no
participant it is answered NACK. -/
def Sys2Proof.Claims.DisseminationBarriers : Prop :=
  (∀ (sp : BitVec 3) (n : BitVec 2) (d : BitVec 4) (s : State), InTask s → Ready s [d] → (dis s s.who.core n).running = false → Settled s →
    (s.participants s.who.core sp.toNat).1.length ≤ 1 →
    ∃ t, exec (.dbar sp n d) s = .next t ∧ (dis t s.who.core n).running = false ∧
      (dis t s.who.core n).episode = (dis s s.who.core n).episode + 1#32 ∧
      t.xAt s.who d = (if d = 0#4 then 0#32 else (dis s s.who.core n).episode + 1#32) ∧ (t.taskAt s.who).run = .running ∧
      (t.taskAt s.who).instret = s.task.instret + 1#32 ∧ SameMemory s t) ∧
  (∀ (sp : BitVec 3) (n : BitVec 2) (d : BitVec 4) (s : State) j, InTask s → Ready s [d] → (dis s s.who.core n).running = false → Settled s →
    let ps := s.participants s.who.core sp.toNat
    1 < ps.1.length → ps.1[(ps.2 + 1) % ps.1.length]? = some (.core j) →
    let e := (dis s s.who.core n).episode + 1#32
    (e.getLsbD 0, 0) ∉ (dis s s.who.core n).held →
    ∃ t, exec (.dbar sp n d) s = .next t ∧ (dis t s.who.core n).running = true ∧ (dis t s.who.core n).episode = e ∧
      t.pending = s.pending ++ [.dbarNotification
        { dst := j, src := s.who.core, ctx := s.core.ctxid, group := s.core.group, c := n.toNat, s := e.getLsbD 0, k := 0,
          part := s.partAddr, there := none }] ∧ (dis t s.who.core n).members = ps.1 ∧
      (t.taskAt s.who).run = .stalled (.parked s.waitCount) ∧ SameMemory s t) ∧
  (∀ (s : State) (nt : Notify), Performs s (.dbarNotification nt) →
    (∀ g k, s.notified nt = some (g, k) → ((s.groupAt g).stored = true ∨ (s.groupAt g).state = .preempting) →
      exec .dbarNotification s = .next (s.hold g (.dbarNotification nt))) ∧
    (s.notified nt = none → nt.there = none → nt.part = s.partAddr → exec .dbarNotification s = .next (s.post (.remoteNack
      ⟨⟨nt.src, .tc0⟩, .notify (BitVec.ofNat 4 nt.c), .remoteUnreachable, BitVec.ofNat 32 nt.dst, nt.group⟩)))) ∧
  (∀ (s : State) (nt : Notify) g k, Performs s (.dbarNotification nt) → s.notified nt = some (g, k) → (s.groupAt g).state = .running →
    (s.coreAt k).group = g → let n := BitVec.ofNat 2 nt.c
    ((dis s k n).running = false → ∃ t, exec .dbarNotification s = .next t ∧ (nt.s, nt.k) ∈ (dis t k n).held ∧ SameMemory s t) ∧
    ((dis s k n).running = true → nt.s = (dis s k n).episode.getLsbD 0 → nt.k = (dis s k n).round →
      (dis s k n).members.length ≤ 2 ^ (nt.k + 1) → ¬ (dis s k n).members.length ≤ 2 ^ nt.k →
      (dis s k n).ctx ≠ .handler →
      ∃ t, exec .dbarNotification s = .next t ∧ (dis t k n).running = false ∧
        t.xAt ⟨k, (dis s k n).ctx⟩ (dis s k n).rd = (if (dis s k n).rd = 0#4 then 0#32 else (dis s k n).episode) ∧
        (t.taskAt ⟨k, (dis s k n).ctx⟩).run = .running))

/-! ## The clasp engine (R344 to R363, R203) -/

namespace Sys2Proof.Claims

/-- The eight words of the descriptor at a local address of the issuing core (R346, R349). -/
def descriptorAt (s : State) (a : Word) : List Word := (List.range 8).map fun i => s.core.lm.word (a.toNat + 4 * i)

/-- The SEND that the issuing context's operands describe (R346, R347). -/
def sendHere (s : State) (b d a : BitVec 4) : Transfer := s.sendOf d (s.x a) (descriptorAt s (s.x b))

/-- SEND may go on (R347): no check of it fails, a slot is free, and no earlier access is unsettled. -/
abbrev SendGoes (s : State) (b d a : BitVec 4) (slot : Nat) : Prop :=
  s.sendTrap (s.x a) (s.x b) (descriptorAt s (s.x b)) (sendHere s b d a) = none ∧ s.core.freeSlot = some slot ∧ Settled s ∧
    s.task.ocnt.msgs < 63

/-- The header of a SEND that the issuing context's operands describe (R345, R346). -/
def headerHere (s : State) (b d a : BitVec 4) : Option Header := (sendHere s b d a).header

/-- The engine that reads the payload of the issuing context's eager SEND. -/
abbrev sendEngine (s : State) : Engine := .send s.who.core (s.who.ctx == .tc1)

/-- What an eager SEND sends with its header, and the state after its reading; a longer one sends none (R347). -/
def Payload (s : State) (b d a : BitVec 4) (eager : Option (List Byte)) (u : State) : Prop :=
  let t := sendHere s b d a
  if t.sendLen ≤ 4096 then ∃ vs, (s.dropFetches (sendEngine s)).readPayload (sendEngine s) s.who.core t 0 t.sendLen = (.vals vs, u) ∧
      eager = some vs.flatten
  else u = s ∧ eager = none

/-- A byte of a send descriptor at which a check of R347 fails: a reserved bit is set, a local source names a map, or the length is no
multiple of 4 from 4 to 2^30. -/
def BadByte (s : State) (b d a : BitVec 4) (i : Nat) : Prop :=
  s.core.lm.byte ((s.x b).toNat + i) &&& (wordBytes sendReserved).getD i 0#8 ≠ 0#8 ∨
    (i = 4 ∧ (sendHere s b d a).sendLoc = true ∧ bits ((sendHere s b d a).w 1) 0 4 ≠ 0) ∨
    (i = 16 ∧ let n := (s.core.lm.word ((s.x b).toNat + 16)).toNat
      ¬ (n % 4 = 0 ∧ 4 ≤ n ∧ n ≤ 2 ^ 30))

/-- A SEND becomes a transfer of its task context: its ID in rd, a copy more, and the instruction completes (R348). -/
def becomes (s : State) (core slot : Nat) (u : State) : State :=
  let t := slotOf s core slot
  let i : Issuer := ⟨core, if t.tc then .tc1 else .tc0⟩
  ((u.modTask i fun c => { c with ocnt := { c.ocnt with copies := c.ocnt.copies + 1 }, waiting := false }).setXAt i t.rd
    (BitVec.ofNat 32 (t.gen.toNat * 256 + slot))).retireAt i 4#32

/-- A SEND of a core stands in a slot under its launch number, and nowhere else. -/
abbrev SendIs (s : State) (core n slot : Nat) (ph : SendPhase) : Prop := s.sendHome core n = .here slot ∧ (slotOf s core slot).phase = ph

/-- The ID of the transfer of a slot (R191). -/
def idOf (s : State) (core slot : Nat) : Word := BitVec.ofNat 32 ((slotOf s core slot).gen.toNat * 256 + slot)

end Sys2Proof.Claims

/-- R344, R346, R347: SEND takes a slot and a message count, and sends a header with the descriptor's tag and length and,
up to 4,096 bytes, the payload, of local memory or of a map's view, to an engine of this part or of another, or keeps it while an earlier
header of its channel is not admitted; the context waits for the answer, or for memory to give the payload. A destination word with
reserved bits, or with a part where P is 0, takes REMOTE_UNREACHABLE, a misaligned descriptor MISALIGNED, and a set reserved bit, a map
of a local source or a bad length COPY_SHAPE, with 0x100 and the lowest failing byte. -/
def Sys2Proof.Claims.SendIssues : Prop :=
  (∀ (b d a : BitVec 4) (s : State) slot, InTask s → Ready s [a, b, d] → SendGoes s b d a slot → (sendHere s b d a).sendLoc = true →
    (s.x a).toNat < 1024 → s.task.waiting = false → s.channelHeld s.who.core (sendHere s b d a) = false →
    (headerHere s b d a).bind s.headerFault = none →
    let w (i : Nat) : Word := (descriptorAt s (s.x b)).getD i 0#32
    ∃ (t : State) (h : Header), exec (.send b d a) s = .next t ∧ .sendHeader h ∈ t.pending ∧ (t.taskAt s.who).run = .stalled .answer ∧
      h.dctx = (s.x a).toNat ∧ h.dpart = s.partAddr ∧ h.sctx = s.core.ctxid ∧ h.tag = w 0 ∧ h.len = (w 4).toNat ∧
      h.score = s.who.core ∧ h.slot = s.launchCount ∧
      h.eager = (if (w 4).toNat ≤ 4096 then some (s.core.lm.bytes (w 3).toNat (w 4).toNat) else none) ∧
      (slotOf t s.who.core slot).kind = .send ∧ (slotOf t s.who.core slot).phase = .asking ∧
      (slotOf t s.who.core slot).gen = (s.core.slotAt slot).gen + 1#8 ∧ (∀ i x, t.xAt i x = s.xAt i x) ∧ SameMemory s t) ∧
  (∀ (b d a : BitVec 4) (s : State) slot, InTask s → Ready s [a, b, d] → SendGoes s b d a slot → (sendHere s b d a).sendLoc = true →
    (s.x a).toNat < 1024 → s.task.waiting = false → s.channelHeld s.who.core (sendHere s b d a) = true →
    ∃ t, exec (.send b d a) s = .next t ∧ t.pending = s.pending ∧ (t.taskAt s.who).run = .stalled .answer ∧
      (t.taskAt s.who).ocnt.msgs = s.task.ocnt.msgs + 1 ∧ (slotOf t s.who.core slot).phase = .held ∧
      (slotOf t s.who.core slot).state = .active) ∧
  (∀ (b d a : BitVec 4) (s u : State) slot eager h, InTask s → Ready s [a, b, d] → SendGoes s b d a slot → s.task.waiting = false →
    s.channelHeld s.who.core (sendHere s b d a) = false → u.channelHeld s.who.core (sendHere s b d a) = false →
    Payload s b d a eager u → headerHere s b d a = some h → (u.dropFetches (sendEngine s)).headerFault { h with eager := eager } = none →
    s.headerFault { h with eager := eager } = none → u.cores = s.cores →
    ∃ t, exec (.send b d a) s = .next t ∧ (t.taskAt s.who).run = .stalled .answer ∧ (slotOf t s.who.core slot).phase = .asking ∧
      (h.dpart = s.partAddr → .sendHeader { h with eager := eager } ∈ t.pending) ∧
      (h.dpart ≠ s.partAddr → ∃ detour, (h.dpart, detour, .header { h with eager := eager }) ∈ t.fabricOut) ∧
      h.dpart = (if (s.x a).getLsbD 22 then (s.x a).toNat / 1024 % 4096 else s.partAddr) ∧ h.dctx = (s.x a).toNat % 1024 ∧
      h.tag = (descriptorAt s (s.x b)).getD 0 0#32 ∧ h.len = ((descriptorAt s (s.x b)).getD 4 0#32).toNat) ∧
  (∀ (b d a : BitVec 4) (s u : State) slot, InTask s → Ready s [a, b, d] → SendGoes s b d a slot → s.task.waiting = false →
    (sendHere s b d a).sendLen ≤ 4096 →
    (s.dropFetches (sendEngine s)).readPayload (sendEngine s) s.who.core (sendHere s b d a) 0 (sendHere s b d a).sendLen = (.wait, u) →
    exec (.send b d a) s = .next ((u.modT fun t => { t with waiting := true }).modT fun t => { t with run := .stalled .retry })) ∧
  (∀ (b d a : BitVec 4) (s : State), InTask s → Ready s [a, b, d] →
    ((2 ^ 23 ≤ (s.x a).toNat ∨ (1024 ≤ (s.x a).toNat ∧ (s.x a).toNat < 2 ^ 22)) → exec (.send b d a) s = .next (s.trapWith ⟨.remoteUnreachable, false, s.x a⟩)) ∧
    ((s.x a).toNat < 1024 → 0x7FE0 < (s.x b).toNat → exec (.send b d a) s = .next (s.trapWith ⟨.localRange, false, s.x b⟩)) ∧
    ((s.x a).toNat < 1024 → (s.x b).toNat ≤ 0x7FE0 → (s.x b).toNat % 32 ≠ 0 →
      exec (.send b d a) s = .next (s.trapWith ⟨.misaligned, false, s.x b⟩)) ∧
    (∀ i, (s.x a).toNat < 1024 → (s.x b).toNat ≤ 0x7FE0 → (s.x b).toNat % 32 = 0 → i < 32 → BadByte s b d a i →
      (∀ j, j < i → ¬ BadByte s b d a j) →
      exec (.send b d a) s = .next (s.trapWith ⟨.copyShape, false, BitVec.ofNat 32 (0x100 + i)⟩)))

/-- R345, R347, R348: an answer ends the wait: REFUSE traps SEND_ACL with the part and frees the slot, RNR and ADMIT give the ID, count a
copy and complete the instruction; an admitted eager SEND ends, or, admitted into a posted receive, once its landing has taken it; a
header held back goes out once its channel is free, or is lost and faults its transfer, one answered RNR goes out again, or ends with RNR_TIMEOUT, or with
the fault of a receiver that cannot be reached; a pull reads the source and sends the chunk to its landing.
Where the spec leaves it open, the model's choices are those of log 11. -/
def Sys2Proof.Claims.SendsGoOn : Prop :=
  (∀ (s : State) core n slot, SendIs s core n slot .asking →
    let t := slotOf s core slot
    let i : Issuer := ⟨core, if t.tc then .tc1 else .tc0⟩
    let going := becomes s core slot
    (Performs s (.sendAnswer core n false .refuse) → ∃ u, exec .sendAnswer s = .next u ∧ (slotOf u core slot).state = .free ∧
      (slotOf u core slot).gen = t.gen - 1#8 ∧
      (u.taskAt i).traps = ⟨.sendAcl, false, BitVec.ofNat 32 ((t.header.map Header.dpart).getD 0)⟩ :: (s.taskAt i).traps) ∧
    (Performs s (.sendAnswer core n false .rnr) →
      exec .sendAnswer s = .next (going (s.modCore core (Core.modSlot slot fun t => { t with phase := .rnr })))) ∧
    (Performs s (.sendAnswer core n false .admitted) → 4096 < t.sendLen → t.stopReq = false →
      exec .sendAnswer s = .next ((going s).modCore core (Core.modSlot slot fun t => { t with phase := .admitted }))) ∧
    (Performs s (.sendAnswer core n false .admitted) → t.sendLen ≤ 4096 → t.fault = none → t.q = false →
      ∃ u, exec .sendAnswer s = .next u ∧ (slotOf u core slot).state = .free ∧ (u.taskAt i).ocnt.copies = (s.taskAt i).ocnt.copies ∧
        u.xAt i t.rd = (if t.rd = 0#4 then 0#32 else idOf s core slot)) ∧
    (Performs s (.sendAnswer core n false .landing) → t.sendLen ≤ 4096 →
      exec .sendAnswer s = .next (((going s).modCore core (Core.modSlot slot fun t => { t with phase := .admitted })).modCore core
        (Core.modSlot slot fun t => { t with stopReq := false })))) ∧
  (∀ (s : State) core n g, s.sendHome core n = .saved g →
    (∀ resend a, Performs s (.sendAnswer core n resend a) → exec .sendAnswer s = .next (s.hold g (.sendAnswer core n resend a))) ∧
    (∀ part landing k bytes, Performs s (.pullRead part core n landing k bytes) →
      exec .pullRead s = .next (s.hold g (.pullRead part core n landing k bytes)))) ∧
  (∀ (s : State) core slot h c v, Performs s (.sendResend core slot) → s.canSend core slot = true →
    (slotOf s core slot).header = some h → s.headerFault h = some (c, v) →
    exec .sendResend s = .next ((becomes s core slot (s.modTask ⟨core, if (slotOf s core slot).tc then .tc1 else .tc0⟩ fun t =>
      { t with ocnt := { t.ocnt with msgs := t.ocnt.msgs - 1 } })).failSend core slot c v)) ∧
  (∀ (s : State) core slot h, Performs s (.sendResend core slot) → s.canSend core slot = true → (slotOf s core slot).header = some h →
    h.dpart = s.partAddr → s.headerFault h = none → ∃ t, exec .sendResend s = .next t ∧ (slotOf t core slot).phase = .asking ∧
      t.pending = s.pending ++ [.messageAccept ((slotOf s core slot).issuer core), .sendHeader h]) ∧
  (∀ (s : State) core slot h, Performs s (.sendResend core slot) → s.canResend core slot = true → (slotOf s core slot).header = some h →
    (h.dpart = s.partAddr → s.headerFault h = none → ∃ t, exec .sendResend s = .next t ∧ (slotOf t core slot).phase = .resending ∧
      t.pending = s.pending ++ [.sendHeader { h with resend := true }]) ∧
    (∀ c v, s.headerFault h = some (c, v) → exec .sendResend s = .next (s.failSend core slot c v))) ∧
  (∀ (s : State) core slot, Performs s (.rnrTimeout core slot) → s.canResend core slot = true → (slotOf s core slot).fault = none →
    ∃ t, exec .rnrTimeout s = .next t ∧ (slotOf t core slot).state = .ended ∧
      (slotOf t core slot).fault = some (.rnrTimeout, BitVec.ofNat 32 (((slotOf s core slot).header.map Header.dpart).getD 0))) ∧
  (∀ (s : State) core n slot landing k bytes, Performs s (.pullRead s.partAddr core n landing k bytes) → s.sendHome core n = .here slot →
    (slotOf s core slot).state ≠ .saved → (slotOf s core slot).sendLoc = true →
    let t := slotOf s core slot
    ∃ u, exec .pullRead s = .next u ∧ u.pending = s.pending ++ [.payloadArrival landing k
      ((s.coreAt core).lm.bytes (t.w 3 + 512 * k) (Min.min bytes (t.sendLen - 512 * k)))])

/-- R345, R351, R353: a header is refused where the context refuses its sender; the first matching posted receive takes it and its landing
begins; without one it is queued while the unexpected region has room, and else answered RNR.
Where the spec leaves it open, the model's choices are those of log 11. -/
def Sys2Proof.Claims.HeadersAreAnswered : Prop :=
  ∀ (s : State) (h : Header), Performs s (.sendHeader h) → h.spart = s.partAddr →
    let answer (a : SendAns) : Event := .sendAnswer h.score h.slot h.resend a
    (s.refuses h = true → exec .sendHeader s = .next (s.post (answer .refuse))) ∧
    (s.refuses h = false → ∀ e r, (s.claspAt h.dctx).matching h = some (e, r) → ∃ t l, exec .sendHeader s = .next t ∧
      answer (if h.eager.isSome then .landing else .admitted) ∈ t.pending ∧ (SMap.get {} (t.claspAt h.dctx).list e : Receive).posted = false ∧
      t.lands.find s.waitCount = some l ∧ l.header = h ∧ l.recv = r ∧ l.entry = e ∧ l.ctx = h.dctx ∧ SameMemory s t) ∧
    (s.refuses h = false → (s.claspAt h.dctx).matching h = none → s.regionUsed h.dctx + h.space ≤ (s.contextAt h.dctx).ursize * 4096 →
      exec .sendHeader s = .next ((s.modClasp h.dctx fun c => { c with queue := c.queue ++ [h] }).post (answer .admitted))) ∧
    (s.refuses h = false → (s.claspAt h.dctx).matching h = none → (s.contextAt h.dctx).ursize * 4096 < s.regionUsed h.dctx + h.space →
      ∃ t, exec .sendHeader s = .next t ∧ answer .rnr ∈ t.pending ∧ (t.claspAt h.dctx).queue = (s.claspAt h.dctx).queue) ∧
    (∀ e r, (s.claspAt h.dctx).matching h = some (e, r) → (e, r) ∈ (s.claspAt h.dctx).list ∧ r.posted = true ∧
      matchesWords r.words h = true ∧ ∀ q ∈ (s.claspAt h.dctx).list, q.2.posted = true → matchesWords q.2.words h = true → r.order ≤ q.2.order)

/-- R354 to R357: a chunk that lands without a barrier is written to the receive's view and counted as delivered; a completed landing, behind those of its context that ended before it, writes
w8 to w15 of its descriptor, and then pushes its record to rq, once there is room.
Where the spec leaves it open, the model's choices are those of log 11. -/
def Sys2Proof.Claims.LandingsComplete : Prop :=
  (∀ (s : State) id k bs l ws u, Performs s (.payloadArrival id k bs) → s.lands.find id = some l → l.fault = none → l.stopped = false →
    s.landHeld l = false → l.recv.bar = false → l.writes k bs = some ws → l.header.eager ≠ none → k ∉ l.done →
    s.engineWrite (.landing id k) l.ctx ((l.recv.map.map mapReuse).getD 0) ws = (.done [], u) → u.lands = s.lands →
    ∃ t m, exec .payloadArrival s = .next t ∧ t.phys = u.phys ∧ t.cores = u.cores ∧ t.lands.find id = some m ∧ m.done = l.done ++ [k]) ∧
  (∀ (s : State) id l, Performs s (.landingComplete id) → s.lands.find id = some l → (s.landHeld l = true ∨ s.endsAfter l = true) →
    exec .landingComplete s = .next (s.post (.landingComplete id))) ∧
  (∀ (s : State) id l, Performs s (.landingComplete id) → s.lands.find id = some l → s.landHeld l = false → s.endsAfter l = false →
    l.told = false →
    (s.coreAt l.recv.poster).group ≠ 0 → (s.coreAt l.recv.poster).ctxid = l.ctx → (s.coreAt l.recv.poster).power = .bound →
    ∃ t, exec .landingComplete s = .next t ∧
      (∀ i, i < 8 → (t.coreAt l.recv.poster).lm.word (l.recv.addr + 32 + 4 * i) = l.result.getD i 0#32) ∧
      (∀ a, (a < l.recv.addr + 32 ∨ l.recv.addr + 64 ≤ a) → (t.coreAt l.recv.poster).lm.byte a = (s.coreAt l.recv.poster).lm.byte a) ∧
      t.lands.find id = some { l with told := true } ∧ .landingComplete id ∈ t.pending) ∧
  (∀ l : Land, l.result.getD 0 0#32 = l.header.source ∧ l.result.getD 1 0#32 = l.header.tag ∧
    l.result.getD 2 0#32 = BitVec.ofNat 32 l.header.len) ∧
  (∀ (s : State) id l, Performs s (.landingComplete id) → s.lands.find id = some l → s.landHeld l = false → s.endsAfter l = false →
    l.told = true → s.tagWaits l = false → (s.claspAt l.ctx).rq.length < 8192 → ∃ t, exec .landingComplete s = .next t ∧ t.lands.find id = none ∧
      (t.claspAt l.ctx).rq = (s.claspAt l.ctx).rq ++ [l.record])

/-- R349, R350, R356, R358, R359, R363: RPOST posts its receive in the lowest free entry and gives its handle, or takes a queued message that matches; RCANCEL
withdraws a posted receive; RPROBE reports a queued message that matches; MFS of rq pops the oldest record; MFS of bq hands out the
next block index to a bezel core.
Where the spec leaves it open, the model's choices are those of log 11. -/
def Obligations.ReceivesAndRecords : Prop :=
  (∀ (d a : BitVec 4) (s : State) e, InTask s → Ready s [a, d] → Settled s → s.rpostTrap (s.x a) (descriptorAt s (s.x a)) = none →
    s.freeEntry s.core.ctxid = some e →
    let ctx := s.core.ctxid
    let old : Receive := SMap.get {} (s.claspAt ctx).list e
    ∃ u : State, exec (.rpost d a) s = .next (u.retire 4#32) ∧
      u.x d = (if d = 0#4 then 0#32 else BitVec.ofNat 32 ((old.gen + 1#4).toNat * 4096 + e)) ∧
      (∀ i x, (i ≠ s.who ∨ x ≠ d) → u.xAt i x = s.xAt i x) ∧ SameMemory s u ∧
      let new : Receive := SMap.get {} (u.claspAt ctx).list e
      new.words = descriptorAt s (s.x a) ∧ new.poster = s.who.core ∧ new.addr = (s.x a).toNat ∧ new.gen = old.gen + 1#4 ∧
      ((∀ h ∈ (s.claspAt ctx).queue, matchesWords (descriptorAt s (s.x a)) h = false) → new.posted = true ∧ u.lands = s.lands) ∧
      ∀ h, (s.claspAt ctx).queue.find? (matchesWords (descriptorAt s (s.x a))) = some h → new.posted = false ∧
        (u.claspAt ctx).queue = (s.claspAt ctx).queue.erase h) ∧
  (∀ (d a : BitVec 4) (s : State), InTask s → Ready s [a, d] →
    let ctx := s.core.ctxid
    let r : Receive := SMap.get {} (s.claspAt ctx).list ((s.x a).toNat % 4096)
    let current : Prop := r.words ≠ [] ∧ r.gen.toNat = (s.x a).toNat / 4096 ∧ r.cancelled = false
    (65536 ≤ (s.x a).toNat → exec (.rcancel d a) s = .next (s.trap .transferId (s.x a))) ∧
    ((s.x a).toNat < 65536 → ¬ current → exec (.rcancel d a) s = .next ((s.setX d 3#32).retire 4#32)) ∧
    ((s.x a).toNat < 65536 → current → r.posted = false → exec (.rcancel d a) s = .next ((s.setX d 1#32).retire 4#32)) ∧
    ((s.x a).toNat < 65536 → current → r.posted = true → exec (.rcancel d a) s = .next (((s.modClasp ctx fun c =>
      { c with list := c.list.put ((s.x a).toNat % 4096) { r with posted := false, cancelled := true } }).setX d 0#32).retire 4#32))) ∧
  (∀ (d a : BitVec 4) (s : State), InTask s → Ready s [a, d] → (s.x a).toNat % 64 = 0 → (s.x a).toNat < 0x8000 →
    ((∀ h ∈ (s.claspAt s.core.ctxid).queue, matchesWords (descriptorAt s (s.x a)) h = false) →
      exec (.rprobe d a) s = .next ((s.setX d 0#32).retire 4#32)) ∧
    (∀ h, (s.claspAt s.core.ctxid).queue.find? (matchesWords (descriptorAt s (s.x a))) = some h → ∃ u : State,
      exec (.rprobe d a) s = .next ((u.setX d 1#32).retire 4#32) ∧ u.core.lm.word ((s.x a).toNat + 32) = h.source ∧
      u.core.lm.word ((s.x a).toNat + 36) = h.tag ∧ u.core.lm.word ((s.x a).toNat + 40) = BitVec.ofNat 32 h.len ∧
      (∀ b, (b < (s.x a).toNat + 32 ∨ (s.x a).toNat + 56 ≤ b) → u.core.lm.byte b = s.core.lm.byte b) ∧ u.clasps = s.clasps)) ∧
  (∀ (d : BitVec 4) (s : State), Acts s d →
    ((s.claspAt s.core.ctxid).rq = [] → exec (.mfsRq d) s = .next ((s.setX d 0xFFFFFFFF#32).retire 4#32)) ∧
    (∀ w rest, (s.claspAt s.core.ctxid).rq = w :: rest → exec (.mfsRq d) s =
      .next ((((s.modClasp s.core.ctxid fun c => { c with rq := rest }).dropL1 s.who.core).setX d w).retire 4#32))) ∧
  (∀ (d : BitVec 4) (s : State), Acts s d →
    let limit := ((s.groupAt s.core.group).args.getD 14 0#32).toNat
    (bezel s.who.core = false → exec (.mfsBq d) s = .next ((s.setX d 0xFFFFFFFF#32).retire 4#32)) ∧
    (bezel s.who.core = true → (s.groupAt s.core.group).bq < limit → exec (.mfsBq d) s =
      .next (((s.modGroup s.core.group fun g => { g with bq := g.bq + 1 }).setX d (BitVec.ofNat 32 (s.groupAt s.core.group).bq)).retire 4#32)))

/-- R201, R203: CPCANCEL of an ID that is not current, or of a transfer that has ended, gives its status; of a running chunk transfer of the issuer it asks it
to stop, and gives 2 once it has ended so, or waits; of a current transfer of the other task context it takes TRANSFER_ID.
Where the spec leaves it open, the model's choices are those of log 35. -/
def Sys2Proof.Claims.CancelledTransfers : Prop :=
  ∀ (d a : BitVec 4) (s : State), InTask s → Clear s [a, d] [] → (s.x a).toNat < 65536 → (s.task.waiting = true ∨ s.task.held = []) →
    let st := idStatus s.core (s.x a)
    let slot := (s.x a).toNat % 256
    let t := s.core.slotAt slot
    (st = 3#32 → exec (.cpcancel d a) s = .next (((s.modT fun t => { t with waiting := false }).setX d 3#32).retire 4#32)) ∧
    ((st = 1#32 ∨ st = 2#32) → t.tc = (s.who.ctx == .tc1) →
      exec (.cpcancel d a) s = .next ((((s.dropL1 s.who.core).modT fun t => { t with waiting := false }).setX d st).retire 4#32)) ∧
    (st ≠ 3#32 → t.tc ≠ (s.who.ctx == .tc1) → exec (.cpcancel d a) s = .next (s.trap .transferId (s.x a))) ∧
    (st = 0#32 → t.tc = (s.who.ctx == .tc1) → t.state = .active → t.kind ≠ .send → t.kind ≠ .gather → t.stopReq = false → t.fault = none →
      t.sent = [] → t.q = false → t.done.length ≠ t.chunks → (t.ordered = true ∨ t.writes = []) →
      (∀ e ∈ s.pending, faultEvent s.who.core slot e = false) →
      ∃ u : State, exec (.cpcancel d a) s = .next ((u.setX d 2#32).retire 4#32) ∧ (u.core.slotAt slot).state = .free ∧
        (u.core.slotAt slot).cancelled = true ∧ u.task.ocnt.copies = s.task.ocnt.copies - 1 ∧
        (t.ordered = false → SameMemory s u))

/-! ## Negative answers, deliveries, departures, and the fabric (R91, R94, R182, R188, R268, R271, R338 to R343) -/

namespace Sys2Proof.Claims

/-- A negative answer finds its issuer's core still bound to the group that sent what is answered, which does not stand in a saved image (R94, R285). -/
abbrev AnswersCore (s : State) (n : Nack) : Prop :=
  (s.groupAt n.group).stored = false ∧ (s.coreAt n.to_.core).group = n.group

/-- The group of a delivery takes messages now (R285). -/
abbrev TakesNow (s : State) (g : Nat) : Prop := (s.groupAt g).stored = false ∧ (s.groupAt g).state ≠ .preempting

/-- What a delivery leaves beside its record in the deque: a page's failure, the part that its task came from, and traps (R268, R271). -/
def markOf (d : Delivery) : Option Mark :=
  if d.fail = none ∧ d.part = none ∧ d.traps = [] ∧ d.faults = [] then none else some ⟨d.fail, d.part, d.traps, d.faults⟩

/-- The record that a RESERVED core takes up stands at the bottom of its deque: the kernel slot, and the entry of its kernel (R318). -/
def TakesUp (s t : State) (k : Nat) (slot : BitVec 2) : Prop :=
  (t.coreAt k).power = .bound ∧ (t.coreAt k).tc0.run = .free ∧ (t.coreAt k).tc1.run = .free ∧
  (t.coreAt k).dq.held = ((s.coreAt k).dq.bottom + 1#16 - (s.coreAt k).dq.top).toNat ∧
  ((t.coreAt k).lm.rec (0x7000 + 64 * ((s.coreAt k).dq.bottom.toNat % 32)))[0].toNat / 2 ^ 28 = slot.toNat ∧
  ((t.coreAt k).lm.rec (0x7000 + 64 * ((s.coreAt k).dq.bottom.toNat % 32)))[0].toNat % 2 ^ 24 =
    ((s.kernelOf (s.coreAt k).group slot.toNat).getD {}).entry / 2 % 2 ^ 24

/-- What goes on for a request from another part that is only handed to its place on this part (R343). -/
def handedTo : FabReq → Option Event
  | .am m => some (.mailboxArrival m)
  | .enq _ m => some (.enqRequest m)
  | .header h => some (.sendHeader h)
  | .sendAns core n resend a => some (.sendAnswer core n resend a)
  | .pull part core n landing k bytes => some (.pullRead part core n landing k bytes)
  | .pulled landing k (some bs) => some (.payloadArrival landing k bs)
  | .notify n => some (.dbarNotification n)
  | .nack n => some (.remoteNack n)
  | .retry q => some (.retryResend q)
  | _ => none

end Sys2Proof.Claims

/-- R91, R94, R176, R182, R186, R268, R282: a negative answer traps at its load's register or is held for its store's or message's context, or escalates FRAME_INVALID
in its group for a join; it is held for a SAVED group, and ends for a core that has left its group; a core's wake, which its core's handler performs once it is free,
completes its parked operation; a delivered record stands at the bottom of its core's deque, and one that finds the deque full is resent, or
escalates DELIVERY_BUSY once it has been turned away too long.
Where the spec leaves it open, the model's choices are those of log 36. -/
def Sys2Proof.Claims.AnswersAndDeliveries : Prop :=
  (∀ (s : State) (n : Nack), Performs s (.remoteNack n) →
    ((s.groupAt n.group).stored = true → exec .remoteNack s = .next (s.hold n.group (.remoteNack n))) ∧
    ((s.groupAt n.group).stored = false → (s.coreAt n.to_.core).group ≠ n.group → (∀ g, n.kind ≠ .join g) →
      exec .remoteNack s = .next s) ∧
    (AnswersCore s n → n.to_.ctx ≠ .handler → ∀ d acq atomic, n.kind = .load (.x d) acq atomic → d ≠ 0#4 → ∃ t, exec .remoteNack s = .next t ∧ t.xAt n.to_ d = s.xAt n.to_ d ∧
      (t.taskAt n.to_).faultX = SMap.put d.toNat ⟨n.cause, false, n.tval⟩ (s.taskAt n.to_).faultX ∧
      (t.taskAt n.to_).ocnt.loads = (s.taskAt n.to_).ocnt.loads - 1) ∧
    (AnswersCore s n → n.to_.ctx ≠ .handler → n.kind = .store → ∃ t, exec .remoteNack s = .next t ∧ (t.taskAt n.to_).ocnt.stores = (s.taskAt n.to_).ocnt.stores - 1 ∧
      ⟨n.cause, true, n.tval⟩ ∈ (t.taskAt n.to_).traps) ∧
    (AnswersCore s n → n.to_.ctx ≠ .handler → n.kind = .message →
      ∃ t, exec .remoteNack s = .next t ∧ ⟨n.cause, true, n.tval⟩ ∈ (t.taskAt n.to_).traps) ∧
    (AnswersCore s n → n.to_.ctx = .handler → n.kind = .message → exec .remoteNack s = .next (s.modCore n.to_.core fun c =>
      { c with hd := { c.hd with traps := c.hd.traps ++ [⟨n.cause, true, n.tval⟩] } })) ∧
    (∀ g, (s.groupAt n.group).stored = false → n.kind = .join g → exec .remoteNack s = .next (s.escalate g .frameInvalid
      { cause := 0, tval := n.tval, epc := 0#32, coreid := n.to_.core, handler := false,
        kslot := (s.taskAt ⟨n.to_.core, .tc0⟩).kslot.toNat }))) ∧
  (∀ (s : State) w k j, Performs s (.feWake w) → wakeEnds w = some (k, j) → s.handlerFree j = false →
    exec .feWake s = .next { s with pending := .feWake w :: s.pending }) ∧
  (∀ (s : State) (r : BarReply), Performs s (.feWake (.barrier r)) →
    (r.src = none → exec .feWake s = .next ((replyEnds r s).wakeIdle r.dst.core)) ∧
    (∀ k g, r.src = some (k, g) → s.handlerFree r.dst.core = true → exec .feWake s =
      .next ((replyEnds r ((s.passMailbox 12 k r.dst.core (.feWake (.barrier r))).accept g k r.dst.core)).wakeIdle r.dst.core))) ∧
  (∀ (s : State) (i : Issuer) (r : BitVec 4) (v : Word) k g, Performs s (.feWake (.feLoad i r v k g)) → i.ctx ≠ .handler → r ≠ 0#4 →
    s.handlerFree i.core = true →
    ∃ t, exec .feWake s = .next t ∧ t.xAt i r = v ∧ (t.taskAt i).ocnt.loads = (s.taskAt i).ocnt.loads - 1 ∧ (t.coreAt i.core).l1 = []) ∧
  (∀ (s : State) (i : Issuer) k g, Performs s (.feWake (.feStore i k g)) → i.ctx ≠ .handler → s.handlerFree i.core = true →
    ∃ t, exec .feWake s = .next t ∧ (t.taskAt i).ocnt.stores = (s.taskAt i).ocnt.stores - 1) ∧
  (∀ (s : State) (d : Delivery), Performs s (.continuationDelivery d) →
    (¬ TakesNow s d.group → exec .continuationDelivery s = .next (s.hold d.group (.continuationDelivery d))) ∧
    (TakesNow s d.group → s.deliverTo d = none → exec .continuationDelivery s = .next s) ∧
    ∀ k, TakesNow s d.group → s.deliverTo d = some k →
      ((s.coreAt k).dq.held + (s.coreAt k).dq.reserved.toNat < 32 →
        exec .continuationDelivery s = .next (s.modCore k fun c => match markOf d with
          | none => pushed d.rec_ c
          | some m => { pushed d.rec_ c with marks := c.marks.put (0x7000 + 64 * (c.dq.bottom.toNat % 32)) m })) ∧
      (32 ≤ (s.coreAt k).dq.held + (s.coreAt k).dq.reserved.toNat → ∃ t e, exec .continuationDelivery s = .next t ∧
        t.pending = s.pending ++ [e] ∧ (e = .deliveryResend d ∨ e = .deliveryBusy d) ∧ t.cores = s.cores)) ∧
  (∀ (s : State) (d : Delivery), d.group ≠ 0 → (s.coreAt d.dst).group = d.group → (s.coreAt d.dst).power = .bound →
    s.deliverTo d = some d.dst) ∧
  (∀ (s : State) (d : Delivery), Performs s (.deliveryResend d) → exec .deliveryResend s = .next (s.post (.continuationDelivery d))) ∧
  (∀ (s : State) (d : Delivery), Performs s (.deliveryBusy d) →
    exec .deliveryBusy s = .next (s.escalateCore ((s.deliverTo d).getD d.dst) .deliveryBusy (BitVec.ofNat 32 d.dst)))

/-- R75, R188, R271, R318: a core whose contexts have both left and that has nothing outstanding becomes OFF, holding nothing, or RESERVED when HALTR named a slot;
a RESERVED core of a running group takes up that slot's first task, at once when it has just become so; a task that follows its page leaves as a record for the
page's part and its context becomes FREE.
Where the spec leaves it open, the model's choices are those of log 25. -/
def Sys2Proof.Claims.CoresAndTasksLeave : Prop :=
  (∀ (s : State) k, Performs s (.coreLeaveGroup k) → (s.coreAt k).power = .bound → (s.coreAt k).tc0.run = .left →
    (s.coreAt k).tc1.run = .left → (s.coreAt k).quiet = true → s.atomicOpen k = false →
    ((s.coreAt k).succ = none → ∃ t, exec .coreLeaveGroup s = .next t ∧ (t.coreAt k).power = .off ∧ (t.coreAt k).group = 0 ∧
      (t.coreAt k).lm = [] ∧ (∀ j, j ≠ k → t.coreAt j = s.coreAt j) ∧ t.phys = s.phys) ∧
    (∀ slot, (s.coreAt k).succ = some slot →
      ((s.groupAt (s.coreAt k).group).state ≠ .running →
        exec .coreLeaveGroup s = .next (s.modCore k fun c => { c with power := .reserved })) ∧
      ((s.groupAt (s.coreAt k).group).state = .running → ∃ t, exec .coreLeaveGroup s = .next t ∧ TakesUp s t k slot))) ∧
  (∀ (s : State) k slot, Performs s (.coreLeaveGroup k) → (s.coreAt k).power = .reserved → (s.groupAt (s.coreAt k).group).state = .running →
    (s.coreAt k).succ = some slot → ∃ t, exec .coreLeaveGroup s = .next t ∧ TakesUp s t k slot) ∧
  (∀ (s : State) k x p, Performs s (.taskMigrate k x p) → x ≠ .handler →
    let i : Issuer := ⟨k, x⟩
    let t := s.taskAt i
    t.follow = some p → t.run = .running → s.mayMigrate i p = true → t.ocnt.loads = 0 → t.ocnt.stores = 0 → t.ocnt.msgs = 0 → t.ocnt.cmds = 0 →
    (∀ tk ∈ t.tokens, tk.f = none) → t.faultIn (carriedWith 0#4) [] = none → t.waitsFor (carriedWith 0#4) [] = false →
    ∃ u d, exec .taskMigrate s = .next u ∧ (u.taskAt i).run = .free ∧ (u.taskAt i).follow = none ∧
      u.fabricOut = s.fabricOut ++ [(p, s.detours.contains p, d)] ∧ u.flight = s.flight ++ [(p, d)] ∧
      (∃ cx h node dl, d = .delivery s.partAddr p cx h (s.coreAt k).rank node (k, (s.coreAt k).group) dl ∧
        dl.rec_ = t.toRec 1 false t.pc ∧ dl.part = t.origin) ∧ SameMemory s u)

/-- R258, R266, R267, R273, R338, R339, R342, R343, R375: what comes from another part is handed to its place, and an access is performed at its
frames, whose page is met in its state: a MIGRATING one is waited for, a VICTIM one recalled, a DISCARDED one reads zero and is the
pager's to be written; it is answered, or answered REMOTE_UNREACHABLE outside the frames, for poison, or for a page that the pager fails; a
request that must be sent again goes to the same part; a port that leaves service is out of use; retraining and bad flits are counted, and a detour is set while
nothing is outstanding. -/
def Obligations.FabricEvents : Prop :=
  (∀ (s : State) r e, Performs s (.fabricRequest r) → handedTo r = some e → exec .fabricRequest s = .next (s.post e)) ∧
  (∀ (s : State) part id age (a : Access) lane pa, Performs s (.fabricRequest (.access part id age a)) → a.elems = [(lane, pa)] →
    s.movedTo pa = none →
    let e : Engine := .remote part id
    let sound := (unitParts pa a.size).any (fun u => s.framePoisoned u.1) = false
    let refused := s.servedHere pa a.size = false ∨ (∃ c p, s.frameMeet e a.need pa = .failed c p) ∨
      (s.frameMeet e a.need pa = .here ∧ a.need ≠ .write ∧ ¬ sound)
    let old := s.servedBytes e pa a.size
    (refused → a.op ≠ .discard → exec .fabricRequest s =
      .next ((s.dropFetches e).toPart part (.accessAns id [] (some .remoteUnreachable)))) ∧
    (s.servedHere pa a.size = true → a.op = .read → (s.frameMeet e .read pa = .zero ∨ (s.frameMeet e .read pa = .here ∧ sound)) →
      exec .fabricRequest s = .next ((s.dropFetches e).toPart part (.accessAns id
        [(lane, leNat (if a.fill then s.servedBytes e (pa / 32 * 32) 32 else old))] none))) ∧
    (s.servedHere pa a.size = true → s.frameMeet e .write pa = .here → ∀ v, a.op = .write v → exec .fabricRequest s =
      .next ((((s.frameElemWrite pa (leBytes a.size (laneOf v (8 * a.size) lane))).dropFetches e).cleanseFrames a).toPart part
        (.accessAns id [] none))) ∧
    (s.servedHere pa a.size = true → s.frameMeet e .atomic pa = .here → sound → ∀ k x y, a.op = .atomic k x y → exec .fabricRequest s =
      .next (((s.frameElemWrite pa (leBytes 4 (globalResult k (BitVec.ofNat 32 (leNat old)) x y).toNat)).dropFetches e).toPart part
        (.accessAns id [(lane, leNat old)] none))) ∧
    (s.servedHere pa a.size = true → a.op ≠ .discard →
      (s.frameMeet e a.need pa = .wait → exec .fabricRequest s = .next (s.post (.fabricRequest (.access part id age a)))) ∧
      (∀ c p, s.frameMeet e a.need pa = .recall c p →
        exec .fabricRequest s = .next ((s.recall c p).post (.fabricRequest (.access part id age a)))) ∧
      (∀ c p, s.frameMeet e a.need pa = .ask c p →
        exec .fabricRequest s = .next ((s.askFor e c p).post (.fabricRequest (.access part id age a)))))) ∧
  (∀ (s : State) part id age (a : Access) lane pa l1 n c l, Performs s (.fabricRequest (.access part id age a)) →
    a.elems = [(lane, pa), (l1, n)] → a.op = .discard → s.movedTo pa = none → n ≠ 0 → s.servedHere pa n = true →
    s.pageOfFrame pa = some (c, l) →
    (l.w = false → exec .fabricRequest s = .next (s.toPart part (.accessAns id [] (some .permWrite)))) ∧
    (l.w = true → l.discards = false → exec .fabricRequest s = .next (s.toPart part (.accessAns id [] none))) ∧
    (l.w = true → l.discards = true → s.migrating c l = true →
      exec .fabricRequest s = .next (s.post (.fabricRequest (.access part id age a)))) ∧
    (l.w = true → l.discards = true → s.migrating c l = false →
      exec .fabricRequest s = .next ((s.discardPage c l).toPart part (.accessAns id [] none)))) ∧
  (∀ (s : State) (e : Engine) n pa, (s.pageOfFrame pa = none → s.frameMeet e n pa = .here) ∧
    (∀ c l, s.pageOfFrame pa = some (c, l) →
      (s.migrating c l = true → s.frameMeet e n pa = .wait) ∧
      (s.migrating c l = false → l.state = 2 → s.frameMeet e n pa = .recall c l.base) ∧
      (s.migrating c l = false → l.state = 1 → s.frameMeet e .read pa = .zero ∧ (n ≠ .read →
        s.frameMeet e n pa = if (e, c, l.base) ∈ s.pagerFailed then .failed c l.base else .ask c l.base)) ∧
      (s.migrating c l = false → l.state ≠ 1 → l.state ≠ 2 → s.frameMeet e n pa = .here))) ∧
  (∀ (s : State) (e : Engine) pa n, (s.frameMeet e .read pa = .zero → s.servedBytes e pa n = List.replicate n 0#8) ∧
    (s.frameMeet e .read pa ≠ .zero → pa % 32 + n ≤ 32 → s.servedBytes e pa n = s.frameBytes pa n) ∧
    ∀ bs : List Byte, pa % 32 + bs.length ≤ 32 → s.frameElemWrite pa bs = s.frameWrite pa bs) ∧
  (∀ (s : State) pa n, s.frameLine pa = none → pa + n ≤ 0x20800000000 →
    s.frameBytes pa n = (List.range n).map (fun k => s.phys.byte (pa + k)) ∧
      ∀ bs, pa < 0x20800000000 → (s.frameWrite pa bs).phys = s.phys.setBytes pa bs) ∧
  (∀ (s : State) i rd v, Performs s (.fabricRequest (.enqAns i rd v)) → ∃ t, exec .fabricRequest s = .next t ∧
    t.pending = s.pending ++ [.enqAnswer i rd v true] ∧ t.cores = s.cores ∧ SameMemory s t) ∧
  (∀ (s : State) part id age a p, Performs s (.retryResend (.access part id age a)) → s.homeOf id = some p →
    exec .retryResend s = .next (s.toPart p (.access part id age a))) ∧
  (∀ (s : State) port, Performs s (.linkDown port) → port ∉ s.portsDown → ∃ t, exec .linkDown s = .next t ∧ t.portsDown = s.portsDown ++ [port] ∧
    ((∀ e ∈ s.flight, ∀ n, e.2 ≠ .notify n) → t.phys = s.phys)) ∧
  (∀ (s : State) port, Performs s (.linkRetrain port) → ∃ t, exec .linkRetrain s = .next t ∧ SameMemory s t ∧ t.cores = s.cores ∧
    SMap.get 0 t.records.retrains port = Min.min (2 ^ 64 - 1) (SMap.get 0 s.records.retrains port + 1)) ∧
  (∀ (s : State) port, Performs s (.flitUncorrectable port) → ∃ t, exec .flitUncorrectable s = .next t ∧ SameMemory s t ∧ t.cores = s.cores ∧
    SMap.get 0 t.records.flits port = Min.min (2 ^ 64 - 1) (SMap.get 0 s.records.flits port + 1)) ∧
  (∀ (s : State) p b, Performs s (.detourSet p b) → s.outstandingTo p = false → ∃ t, exec .detourSet s = .next t ∧
    (∀ q, q ∈ t.detours ↔ if q = p then b = true else q ∈ s.detours))

/-! ## Queues and dispatch (R292 to R310, R314 to R316, R322 to R325) -/

namespace Sys2Proof.Claims

/-- The fields of a queue that its host and its packets set alone are as before: all but its state, indices and error record. -/
def SameQueue (u v : Queue) : Prop := v.ctxid = u.ctxid ∧ v.prod = u.prod ∧ v.prio = u.prio ∧ v.lsize = u.lsize ∧ v.base = u.base ∧
  v.quota = u.quota ∧ v.inflight = u.inflight ∧ v.msix = u.msix

/-- Every queue but one, and everything else that programs see, is as before. -/
def OtherQueues (q : Nat) (s t : State) : Prop := (∀ p, p ≠ q → t.queueAt p = s.queueAt p) ∧ SameMemory s t ∧ t.groups = s.groups

/-- The stamp write-back of the packet at ri is done, leaving w (R302). -/
def Stamped (s : State) (q : Nat) (w : State) : Prop :=
  s.engineWrite (.hub q (s.queueAt q).ri.toNat) (s.queueAt q).ctxid.toNat 0 (stampWrite (s.queueAt q)) = (.done [], w)

/-- The action of a SIGNAL whose write is performed, leaving v (R299, R301). -/
def signalled (q : Nat) (idx : Word) (r : Rec) (v : State) : State :=
  let t := (v.dropFetches (.hub q idx.toNat)).modQueue q fun u => { u with acting := none }
  let u := if (t.queueAt q).state = .bound ∧ (t.queueAt q).drained = true then t.requestPass else t
  if r[1].getLsbD 2 then u.raiseMsix (r[1].toNat / 65536 % 2048) else u

/-- The length of a COPY (R300). -/
def r1 (c : HubCopy) : Nat := c.packet[1].toNat

/-- A queue in ERROR with its record (R297): code, index and detail. -/
abbrev ErrorIs (u : Queue) (code : BitVec 8) (idx detail : Word) : Prop := u.state = .error ∧ u.ecode = code ∧ u.eidx = idx ∧ u.edetail = detail

end Sys2Proof.Claims

/-- R293 to R295: a kick moves wi forward, is ignored by a DISABLED or PROD queue, which counts it, and is an OVERRUN beyond the ring's size; SUSPEND, RESUME,
SKIP, ENABLE, DISABLE and a change of prio do what their rows say, to their queue alone; a packet that stands past its
boundary holds RESUME, SKIP and DISABLE back.
Where the spec leaves it open, the model's choices are those of log 5, 76 and 78. -/
def Sys2Proof.Claims.QueueCommands : Prop :=
  (∀ (s : State) q n, Performs s (.kick q n) →
    let u := s.queueAt q
    ((u.state = .disabled ∨ u.prod = true) → exec .kick s = .next (s.modQueue q fun u =>
      { u with kickdrop := if u.kickdrop = 0xFFFFFFFF#32 then u.kickdrop else u.kickdrop + 1#32 })) ∧
    (u.state ≠ .disabled → u.state ≠ .error → u.prod = false → 2 ^ (u.lsize.toNat + 4) < (n - u.ri).toNat →
      ∃ t, exec .kick s = .next t ∧ ErrorIs (t.queueAt q) QErr.overrun.code n u.wi ∧ OtherQueues q s t) ∧
    (u.state ≠ .disabled → u.prod = false → (n - u.ri).toNat ≤ 2 ^ (u.lsize.toNat + 4) → (n - u.ri).toNat ≤ (u.wi - u.ri).toNat →
      exec .kick s = .next s) ∧
    (u.state ≠ .disabled → u.prod = false → (n - u.ri).toNat ≤ 2 ^ (u.lsize.toNat + 4) → (u.wi - u.ri).toNat < (n - u.ri).toNat →
      ∃ t, exec .kick s = .next t ∧ (t.queueAt q).wi = n ∧ (t.queueAt q).ri = u.ri ∧ SameQueue u (t.queueAt q) ∧ OtherQueues q s t ∧
        (t.queueAt q).state = (if u.state = .idle then QState.pending else u.state))) ∧
  (∀ (s : State) q, Performs s (.suspend q) → ((s.queueAt q).state = .idle ∨ (s.queueAt q).state = .pending ∨ (s.queueAt q).state = .bound) →
    ∃ t, exec .suspend s = .next t ∧ t.queueAt q = { s.queueAt q with state := .suspended } ∧ OtherQueues q s t) ∧
  (∀ (s : State) q, s.midPacket q = true →
    (Performs s (.resume q) → (s.queueAt q).halted = true → exec .resume s = .next { s with pending := .resume q :: s.pending }) ∧
    (Performs s (.skip q) → (s.queueAt q).halted = true → exec .skip s = .next { s with pending := .skip q :: s.pending }) ∧
    (Performs s (.disable q) → (s.queueAt q).state ≠ .disabled → exec .disable s = .next { s with pending := .disable q :: s.pending }) ∧
    (Performs s (.disableDrained q) → exec .disableDrained s = .next s)) ∧
  (∀ (s : State) q, Performs s (.resume q) → ((s.queueAt q).state = .suspended ∨ (s.queueAt q).state = .error) → s.midPacket q = false →
    ∃ t, exec .resume s = .next t ∧ (t.queueAt q).state = (if (s.queueAt q).wi = (s.queueAt q).ri then QState.idle else .pending) ∧
      (t.queueAt q).ecode = 0#8 ∧ (t.queueAt q).ri = (s.queueAt q).ri ∧ (t.queueAt q).wi = (s.queueAt q).wi ∧
      SameQueue (s.queueAt q) (t.queueAt q) ∧ OtherQueues q s t) ∧
  (∀ (s : State) q, Performs s (.skip q) → ((s.queueAt q).state = .suspended ∨ (s.queueAt q).state = .error) → s.midPacket q = false →
    (s.queueAt q).wi ≠ (s.queueAt q).ri → (∀ e ∈ s.triggers, e.2.state ≠ .waiting) →
    ∃ t, exec .skip s = .next t ∧ (t.queueAt q).ri = (s.queueAt q).ri + 1#32 ∧ (t.queueAt q).state = (s.queueAt q).state ∧
      (t.queueAt q).ecode = (s.queueAt q).ecode ∧ SameQueue (s.queueAt q) (t.queueAt q) ∧ OtherQueues q s t) ∧
  (∀ (s : State) q, Performs s (.enable q) → (s.queueAt q).state = .disabled → (s.queueAt q).lsize.toNat ≤ 12 →
    (s.queueAt q).base.toNat % 4096 = 0 → ((s.contextAt (s.queueAt q).ctxid.toNat).state = .ready ∨
      (s.contextAt (s.queueAt q).ctxid.toNat).state = .running) →
    ∃ t, exec .enable s = .next t ∧ (t.queueAt q).state = .idle ∧ (t.queueAt q).ri = 0#32 ∧ (t.queueAt q).wi = 0#32 ∧
      SameQueue (s.queueAt q) (t.queueAt q) ∧ OtherQueues q s t) ∧
  (∀ (s : State) q, Performs s (.disable q) → (s.queueAt q).state ≠ .disabled → s.midPacket q = false →
    ∃ t, exec .disable s = .next t ∧ OtherQueues q s t ∧ ((s.queueAt q).inflight = 0 → (t.queueAt q).state = .disabled) ∧
      ((s.queueAt q).inflight ≠ 0 → t.queueAt q = { s.queueAt q with disabling := true })) ∧
  (∀ (s : State) q, Performs s (.disableDrained q) → (s.queueAt q).disabling = true → (s.queueAt q).inflight = 0 →
    s.midPacket q = false → ∃ t, exec .disableDrained s = .next t ∧ (t.queueAt q).state = .disabled ∧ (t.queueAt q).disabling = false ∧ OtherQueues q s t) ∧
  (∀ (s : State) q p, Performs s (.prioChange q p) → ∃ t, exec .prioChange s = .next t ∧ (t.queueAt q).prio = p ∧
    .schedulingPass ∈ t.pending ∧ OtherQueues q s t)

/-- R304 to R307: a pass binds the pending queue of highest eff to a free slot while its context is below its quota; a slot that has stopped is free and its
queue PENDING, or IDLE if drained; a pending queue ages by microseconds, and the end of an ageing quantum raises a pending queue's eff by 1 up to 15, unless a packet with N = 1 stands at ri, or makes a bound one eligible to give way.
Where the spec leaves it open, the model's choices are those of log 78. -/
def Sys2Proof.Claims.Scheduling : Prop :=
  (∀ (s : State) q, Performs s .schedulingPass → s.firmware.role ≠ .importing → (∀ e ∈ s.queues, e.2.state ≠ .bound ∧ e.2.reprio = false) →
    s.hwSlots = [] → (q, s.queueAt q) ∈ s.queues → (s.queues.map (·.1)).Nodup → (s.queueAt q).state = .pending →
    (∀ e ∈ s.queues, e.1 ≠ q → e.2.state ≠ .pending) → 0 < (s.contextAt (s.queueAt q).ctxid.toNat).quota →
    ∃ t, exec .schedulingPass s = .next t ∧ (t.queueAt q).state = .bound ∧
      SMap.get {} t.hwSlots 0 = ({ v := true, queue := q, eff := (s.queueAt q).eff, ctxid := (s.queueAt q).ctxid } : HwSlot)) ∧
  (∀ (s : State) k (h : HwSlot), Performs s (.slotQuiescent k) → SMap.get {} s.hwSlots k = h → h.v = true → h.stopping = true →
    (s.queueAt h.queue).acting = none → s.midPacket h.queue = false →
    ∃ t, exec .slotQuiescent s = .next t ∧ (SMap.get {} t.hwSlots k : HwSlot).v = false ∧ .schedulingPass ∈ t.pending ∧ OtherQueues h.queue s t ∧
      ((s.queueAt h.queue).state = .bound → (t.queueAt h.queue).state =
        (if (s.queueAt h.queue).wi = (s.queueAt h.queue).ri then QState.idle else .pending)) ∧
      ((s.queueAt h.queue).state ≠ .bound → t.queueAt h.queue = s.queueAt h.queue)) ∧
  (∀ (s : State) k, Performs s (.slotQuiescent k) → s.midPacket (SMap.get {} s.hwSlots k : HwSlot).queue = true →
    exec .slotQuiescent s = .next s) ∧
  (∀ (s : State) q, Performs s (.ageMicro q) → (s.queueAt q).state = .pending →
    exec .ageingStep s = .next (if (s.queueAt q).age + 1#32 = BitVec.ofNat 32 (((s.queueAt q).age.toNat / s.quantum + 1) * s.quantum) then s
      else s.modQueue q fun u => { u with age := u.age + 1#32 })) ∧
  (∀ (s : State) q, Performs s (.ageingStep q) →
    let u := s.queueAt q
    (∀ bs w, u.state = .pending → u.wi ≠ u.ri → s.engineRead (.hub q u.ri.toNat) u.ctxid.toNat 0
        [(u.base.toNat + 64 * (u.ri.toNat % 2 ^ (u.lsize.toNat + 4)), 4)] = (.done bs, w) →
      ∃ t, exec .ageingStep s = .next t ∧ (∀ p, p ≠ q → t.queueAt p = w.queueAt p) ∧ .schedulingPass ∈ t.pending ∧
        t.queueAt q = { w.queueAt q with age := BitVec.ofNat 32 (((w.queueAt q).age.toNat / w.quantum + 1) * w.quantum)
                                         eff := if (leNat bs / 256 % 65536 = u.ri.toNat % 65536 ∧ leNat bs / 2 ^ 26 % 2 = 1) ∨
                                             (w.queueAt q).eff = 15#4 then (w.queueAt q).eff else (w.queueAt q).eff + 1#4 }) ∧
    (u.state = .bound → u.eligible = false → ∃ t, exec .ageingStep s = .next t ∧ OtherQueues q s t ∧ t.queueAt q = { u with eligible := true }))

/-- R308, R309: ENQ sends its 64 bytes to a queue and its context waits; the queue stores the image with its stamp and advances wi, answers 1 when full, 2 when it
takes no ENQ and 3 when its ACL refuses; the answer completes the instruction with its status, or traps REMOTE_UNREACHABLE of q for a
part that cannot answer.
Where the spec leaves it open, the model's choices are those of log 12. -/
def Sys2Proof.Claims.Enqueues : Prop :=
  (∀ (b d a : BitVec 4) (s : State), InTask s → Ready s [a, b, d] → Settled s → (s.x a).toNat < 4096 → (s.x b).toNat ≤ 0x7FC0 →
    (s.x b).toNat % 4 = 0 → (s.queueAt (s.x a).toNat).ctxid.toNat = s.core.ctxid →
    ∃ t m, exec (.enq b d a) s = .next t ∧ t.pending = s.pending ++ [.enqRequest m] ∧ (t.taskAt s.who).run = .stalled .answer ∧ m.src = s.who ∧
      m.rd = d ∧ m.queue = (s.x a).toNat ∧ m.img = s.core.lm.rec (s.x b).toNat ∧ m.local_ = true ∧ (∀ i x, t.xAt i x = s.xAt i x) ∧ SameMemory s t) ∧
  (∀ (b d a : BitVec 4) (s : State), InTask s → Ready s [a, b, d] → (s.x a).toNat < 4096 →
    (0x7FC0 < (s.x b).toNat → exec (.enq b d a) s = .next (s.trapWith ⟨.localRange, false, s.x b⟩)) ∧
    ((s.x b).toNat ≤ 0x7FC0 → (s.x b).toNat % 4 ≠ 0 → exec (.enq b d a) s = .next (s.trapWith ⟨.misaligned, false, s.x b⟩)) ∧
    ((s.x b).toNat ≤ 0x7FC0 → (s.x b).toNat % 4 = 0 → (s.queueAt (s.x a).toNat).ctxid.toNat ≠ s.core.ctxid →
      exec (.enq b d a) s = .next (s.trapWith ⟨.sendAcl, false, BitVec.ofNat 32 s.partAddr⟩))) ∧
  (∀ (s : State) (m : EnqMsg), Performs s (.enqRequest m) → m.local_ = true →
    let u := s.queueAt m.queue
    ((u.state = .disabled ∨ u.prod = false) → ∃ t, exec .enqRequest s = .next t ∧ t.pending = s.pending ++ [.enqAnswer m.src m.rd 2#32 true] ∧
      (t.queueAt m.queue).wi = u.wi ∧ SameMemory s t) ∧
    (u.state ≠ .disabled → u.prod = true → (u.wi - u.ri).toNat = 2 ^ (u.lsize.toNat + 4) → ∃ t, exec .enqRequest s = .next t ∧
      t.pending = s.pending ++ [.enqAnswer m.src m.rd 1#32 true] ∧ t.queueAt m.queue = u ∧ SameMemory s t) ∧
    (∀ w, u.state ≠ .disabled → u.prod = true → (u.wi - u.ri).toNat ≠ 2 ^ (u.lsize.toNat + 4) →
      s.fetches = [] → s.engineWrite (.enq m.spart m.src.core m.src.ctx) u.ctxid.toNat 0
        [(u.base.toNat + 64 * (u.wi.toNat % 2 ^ (u.lsize.toNat + 4)), wordBytes (m.img.set 0 (BitVec.ofNat 32
          (setBits m.img[0].toNat 8 16 u.wi.toNat))).toList)] = (.done [], w) → w.queues = s.queues →
      ∃ t, exec .enqRequest s = .next t ∧ .enqAnswer m.src m.rd (u.wi <<< 16) true ∈ t.pending ∧ (t.queueAt m.queue).wi = u.wi + 1#32 ∧
        t.phys = w.phys ∧ t.cores = w.cores)) ∧
  (∀ (s : State) (m : EnqMsg), Performs s (.enqRequest m) → m.local_ = false → (s.queueAt m.queue).admits m.spart m.sctx = false →
    ∃ t, exec .enqRequest s = .next t ∧ t.fabricOut = s.fabricOut ++ [(m.spart, s.detours.contains m.spart, .enqAns m.src m.rd 3#32)] ∧
      (t.queueAt m.queue).acldrop = (if (s.queueAt m.queue).acldrop = 0xFFFFFFFF#32 then 0xFFFFFFFF#32 else (s.queueAt m.queue).acldrop + 1#32)) ∧
  (∀ (s : State) i d v, Performs s (.enqAnswer i d v true) → (s.taskAt i).run = .stalled .answer →
    exec .enqAnswer s = .next ((s.setXAt i d v).retireAt i 4#32)) ∧
  (∀ (s : State) i d q, Performs s (.enqAnswer i d q false) → (s.taskAt i).run = .stalled .answer →
    ∃ t, exec .enqAnswer s = .next t ∧ (t.taskAt i).run = .running ∧
      (t.taskAt i).traps = ⟨.remoteUnreachable, false, q⟩ :: (s.taskAt i).traps)

/-- R323, R324: an arrival counts in its entry, saturating; an armed entry that reaches its threshold stores its image in its queue, becomes FREE and keeps the rest
of its count; with a full ring it waits, until ri advances, and with a queue that takes no ENQ it is dropped and counted there; an arrival of another context is refused.
Where the spec leaves it open, the model's choices are those of log 12 and 38. -/
def Sys2Proof.Claims.Triggers : Prop :=
  (∀ (s : State) e ctx, Performs s (.triggerArrival e ctx true) →
    let g : Trigger := SMap.get {} s.triggers e
    g.state ≠ .waiting → (g.state ≠ .armed ∨ g.count.toNat < g.thresh.toNat) → exec .triggerArrival s = .next s) ∧
  ∀ (s : State) e ctx, Performs s (.triggerArrival e ctx false) →
    let g : Trigger := SMap.get {} s.triggers e
    let n : Word := if g.count = 0xFFFFFFFF#32 then g.count else g.count + 1#32
    let u := s.queueAt g.queue.toNat
    (s.triggerOwner e ≠ some ctx → exec .triggerArrival s = .next (s.count .sendAcl)) ∧
    (s.triggerOwner e = some ctx → (g.state ≠ .armed ∨ n.toNat < g.thresh.toNat) →
      exec .triggerArrival s = .next { s with triggers := s.triggers.put e { g with count := n } }) ∧
    (s.triggerOwner e = some ctx → g.state = .armed → g.thresh.toNat ≤ n.toNat → u.state ≠ .disabled → u.prod = true →
      (u.wi - u.ri).toNat = 2 ^ (u.lsize.toNat + 4) → ∃ t, exec .triggerArrival s = .next t ∧
        SMap.get {} t.triggers e = { g with count := n, state := .waiting } ∧ t.queues = s.queues ∧ SameMemory s t) ∧
    (s.triggerOwner e = some ctx → g.state = .armed → g.thresh.toNat ≤ n.toNat → (u.state = .disabled ∨ u.prod = false) →
      ∃ t, exec .triggerArrival s = .next t ∧ SMap.get {} t.triggers e = { g with count := n, state := .free } ∧
        (t.queueAt g.queue.toNat).wi = u.wi ∧
        (t.queueAt g.queue.toNat).kickdrop = (if u.kickdrop = 0xFFFFFFFF#32 then u.kickdrop else u.kickdrop + 1#32) ∧ SameMemory s t) ∧
    (∀ w, s.triggerOwner e = some ctx → g.state = .armed → g.thresh.toNat ≤ n.toNat → u.state ≠ .disabled → u.prod = true →
      (u.wi - u.ri).toNat ≠ 2 ^ (u.lsize.toNat + 4) → s.fetches = [] →
      ({ s with triggers := s.triggers.put e { g with count := n } } : State).engineWrite (.inject e) u.ctxid.toNat 0
        [(u.base.toNat + 64 * (u.wi.toNat % 2 ^ (u.lsize.toNat + 4)), wordBytes (g.image.set 0 (BitVec.ofNat 32
          (setBits g.image[0].toNat 8 16 u.wi.toNat))).toList)] = (.done [], w) → w.queues = s.queues →
      w.triggers = s.triggers.put e { g with count := n } →
      ∃ t, exec .triggerArrival s = .next t ∧ SMap.get {} t.triggers e = { g with count := n - g.thresh, state := .free } ∧
        (t.queueAt g.queue.toNat).wi = u.wi + 1#32 ∧ t.phys = w.phys ∧ t.cores = w.cores) ∧
    ∀ q f, (s.triggers.filter fun t => t.2.state == .waiting && t.2.queue.toNat == q).map (·.1) = [f] →
      (SMap.get {} s.triggers f : Trigger).state = .waiting → s.passRi q =
        ((s.dropFetches (.hub q (s.queueAt q).ri.toNat)).modQueue q fun u =>
          { u with ri := u.ri + 1#32, waitB := false, waitW := false, stale := 0#32 }).inject f

/-- R296, R297, R301, R302: a packet of an unknown type, or with a reserved bit set, puts its queue in ERROR with the type or the lowest byte; a stamp that is not the
index's is read again up to 20 µs and is then STALE; a consumed packet's stamp is written back and ri goes up by 1.
Where the spec leaves it open, the model's choices are those of log 5, 38, 39 and 42. -/
def Sys2Proof.Claims.PacketsAreExamined : Prop :=
  (∀ (s w : State) q r, Performs s (.malformedPacket q) → PacketIs s q r w → (w.queueAt q).state = .bound →
    (r[0].toNat % 256 = 0 ∨ 6 < r[0].toNat % 256) → ∃ t, exec .malformedPacket s = .next t ∧
      ErrorIs (t.queueAt q) QErr.type.code (w.queueAt q).ri (BitVec.ofNat 32 (r[0].toNat % 256)) ∧
      (t.queueAt q).ri = (w.queueAt q).ri ∧ OtherQueues q w t) ∧
  (∀ (s w : State) q r, Performs s (.nopPacket q) → PacketIs s q r w → (w.queueAt q).state = .bound → r[0].toNat % 256 = 6 →
    r[0].getLsbD 25 = true → ∃ t, exec .nopPacket s = .next t ∧
      ErrorIs (t.queueAt q) QErr.reserved.code (w.queueAt q).ri 3#32 ∧ OtherQueues q w t) ∧
  (∀ (s w : State) q st, Performs s (.stampReread q) → s.examine q = (.stale st, w) → (w.queueAt q).state = .bound →
    ((w.queueAt q).stale = 0#32 → ∃ t, exec .stampReread s = .next t ∧ t.queueAt q = { w.queueAt q with stale := 1#32 }) ∧
    ((w.queueAt q).stale.toNat % 2 = 1 → (w.queueAt q).stale.toNat < 19 →
      ∃ t, exec .stampReread s = .next t ∧ t.queueAt q = { w.queueAt q with stale := (w.queueAt q).stale + 2#32 }) ∧
    ((w.queueAt q).stale = 19#32 → ∃ t, exec .stampReread s = .next t ∧
      ErrorIs (t.queueAt q) QErr.stale.code (w.queueAt q).ri (BitVec.ofNat 32 st))) ∧
  (∀ (s : State) q, (s.examine q).2.queues = s.queues ∧ (s.examine q).2.cores = s.cores) ∧
  (∀ (s w : State) q act, Stamped s q w → w.queues = s.queues → (∀ e ∈ w.triggers, e.2.state ≠ .waiting) →
    let u : State := (w.dropFetches (.hub q (s.queueAt q).ri.toNat)).modQueue q fun u =>
      { u with ri := u.ri + 1#32, waitB := false, waitW := false, stale := 0#32 }
    s.consume q act = (if ((act u).queueAt q).state = .bound ∧ ((act u).queueAt q).drained = true then (act u).requestPass else act u)) ∧
  (∀ (s : State) q r k, packetB r = true → (s.queueAt q).inflight ≠ 0 →
    s.gated q r k = s.modQueue q fun u => { u with waitB := true })

/-- R298 to R300, R314 to R316, R322 to R325: a good NOP, SIGNAL, WAITDEP, ARM, COPY or LAUNCH at ri is consumed and does what its type says: a SIGNAL, its stamp written back, writes or adds its value and raises its
vector, a WAITDEP waits until its conditions hold, an ARM fills its trigger entry, a COPY goes on in flight and ends with its signal, or puts its queue in ERROR with SIGNAL_FAULT, a LAUNCH
requests a group, and both wait while the queue has as many in flight as its quota allows.
Where the spec leaves it open, the model's choices are those of log 31 and 41. -/
def Sys2Proof.Claims.PacketsAct : Prop :=
  (∀ (s w : State) q r, Performs s (.nopPacket q) → PacketIs s q r w → HeaderGood r → r[0].toNat % 256 = 6 → r[0].getLsbD 25 = false → Ungated w q r →
    exec .nopPacket s = .next ((passed q w).consume q id)) ∧
  (∀ (s w : State) q r, Performs s (.signal q) → (s.queueAt q).acting = none → PacketIs s q r w → HeaderGood r → r[0].toNat % 256 = 3 → r[0].getLsbD 25 = false → Ungated w q r →
    (∀ i, (h : i < 16) → 6 ≤ i → r[i] = 0#32) → r[3].toNat < 65536 → r[1].toNat &&& 0xF800FFF8 = 0 → r[1].toNat % 4 < 2 → r[2].toNat % 8 = 0 →
    exec .signal s = .next ((passed q w).consume q fun s => s.signalAct q (w.queueAt q).ri r)) ∧
  (∀ (s : State) q idx r, Performs s (.signal q) → (s.queueAt q).acting = some (idx, r) → exec .signal s = .next (s.signalAct q idx r)) ∧
  (∀ (s v : State) q idx r bs, s.signalWrite (.hub q idx.toNat) (s.queueAt q).ctxid.toNat (recVa r 2 3) (r[1].toNat % 4 == 1)
      (BitVec.ofNat 64 (r[4].toNat + 2 ^ 32 * r[5].toNat)) = (.done bs, v) → s.signalAct q idx r = signalled q idx r v) ∧
  (∀ (i : Instr) (s w v : State) q r, ((i = .waitdep ∧ Performs s (.waitdep q)) ∨ (i = .waitdepPoll ∧ Performs s (.waitdepPoll q) ∧ (s.queueAt q).waitW = true)) →
    PacketIs s q r w → HeaderGood r → r[0].toNat % 256 = 2 → r[0].getLsbD 25 = false → Ungated w q r → r[1].toNat < 256 → waitUnused r = [] →
    r[1].toNat % 16 = 1 → (waitSignal r 0).1 % 8 = 0 → ∀ bs, (passed q w).engineRead (.hub q (w.queueAt q).ri.toNat) (w.queueAt q).ctxid.toNat 0 [((waitSignal r 0).1, 8)] = (.done bs, v) →
    let x := BitVec.ofNat 64 (leNat (bs.take 8))
    let holds : Prop := if r[1].getLsbD 4 then x = (waitSignal r 0).2 else (waitSignal r 0).2.toNat ≤ x.toNat
    (holds → exec i s = .next (v.consume q id)) ∧
    (¬ holds → ∃ t, exec i s = .next t ∧ t.queueAt q = { v.queueAt q with waitW := true } ∧ OtherQueues q v t)) ∧
  (∀ (s w v : State) q r, Performs s (.waitdep q) → PacketIs s q r w → HeaderGood r → r[0].toNat % 256 = 2 → r[0].getLsbD 25 = false →
    Ungated w q r → r[1].toNat < 256 → waitUnused r = [] → r[1].toNat % 16 = 1 → (waitSignal r 0).1 % 8 = 0 →
    (passed q w).engineRead (.hub q (w.queueAt q).ri.toNat) (w.queueAt q).ctxid.toNat 0 [((waitSignal r 0).1, 8)] = (.wait, v) →
    exec .waitdep s = .next (v.modQueue q fun u => { u with waitW := true })) ∧
  (∀ (s w v : State) q r bs, Performs s (.arm q) → PacketIs s q r w → HeaderGood r → r[0].toNat % 256 = 4 → r[0].getLsbD 25 = false → Ungated v q r →
    lowestFailing r.toList (0xF8000000#32 :: armReserved) [] = none → (∀ i, (h : i < 16) → 6 ≤ i → r[i] = 0#32) →
    w.triggerOwner (r[1].toNat % 1024) = some (w.queueAt q).ctxid.toNat → (w.queueAt (r[3].toNat % 4096)).ctxid = (w.queueAt q).ctxid →
    (SMap.get {} w.triggers (r[1].toNat % 1024) : Trigger).state = .free → r[2] ≠ 0#32 →
    w.engineRead (.hub q (w.queueAt q).ri.toNat) (w.queueAt q).ctxid.toNat 0 [(recVa r 4 5, 64)] = (.done bs, v) →
    packetType (recOfBytes bs) ≠ 4 →
    exec .arm s = .next ((passed q v).consume q fun s => ((s.armNodes (w.queueAt q).ctxid.toNat (recOfBytes bs)).modTrigger (r[1].toNat % 1024) fun t =>
      { state := .armed, count := if r[1].getLsbD 16 then 0#32 else t.count, thresh := r[2], queue := r[3].setWidth 12, image := recOfBytes bs }).testTrigger
        (r[1].toNat % 1024))) ∧
  (∀ (s w : State) q r, Performs s (.copy q) → PacketIs s q r w → HeaderGood r → r[0].toNat % 256 = 5 → Ungated w q r →
    lowestFailing r.toList (0xF8000000#32 :: copyReserved) [] = none → goodLen r[1].toNat = true → recVa r 2 3 % 4 = 0 → recVa r 4 5 % 4 = 0 →
    (r[0].getLsbD 25 = true → recVa r 6 7 % 8 = 0) →
    (w.queueAt q).inflight < (w.queueAt q).most →
    exec .copy s = .next ((passed q w).consume q fun t => { t.modQueue q fun u => { u with inflight := u.inflight + 1 } with
      hubCopies := t.hubCopies ++ [{ queue := q, idx := (w.queueAt q).ri.toNat, packet := r }] })) ∧
  (∀ (s : State) q idx c, Performs s (.hubCopyEnd q idx) → (s.hubCopies.find? fun c => c.queue == q && c.idx == idx.toNat) = some c →
    r1 c ≤ c.copied → packetS c.packet = false → ∃ t, exec .hubCopyEnd s = .next t ∧ (t.queueAt q).inflight = (s.queueAt q).inflight - 1 ∧
      (∀ d ∈ t.hubCopies, ¬(d.queue = q ∧ d.idx = c.idx)) ∧ OtherQueues q s t) ∧
  (∀ (s : State) q idx c, Performs s (.hubCopyEnd q idx) → (s.hubCopies.find? fun c => c.queue == q && c.idx == idx.toNat) = some c →
    r1 c ≤ c.copied → packetS c.packet = true →
    let write := s.engineWrite (.copy q c.idx) (s.queueAt q).ctxid.toNat 0
      [(recVa c.packet 6 7, leBytes 8 (c.packet[8].toNat + 2 ^ 32 * c.packet[9].toNat))]
    (∀ bs v, write = (.done bs, v) → ∃ t, exec .hubCopyEnd s = .next t ∧ (t.queueAt q).inflight = (v.queueAt q).inflight - 1 ∧
      (∀ d ∈ t.hubCopies, ¬(d.queue = q ∧ d.idx = c.idx)) ∧ t.phys = v.phys ∧ t.cores = v.cores) ∧
    (∀ v, write = (.wait, v) → exec .hubCopyEnd s = .next v) ∧
    (∀ k va v, write = (.fault k va, v) → (v.queueAt q).state = .bound → ∃ t, exec .hubCopyEnd s = .next t ∧
      ErrorIs (t.queueAt q) QErr.signalFault.code (BitVec.ofNat 32 c.idx) (BitVec.ofNat 32 va) ∧
      (∀ d ∈ t.hubCopies, ¬(d.queue = q ∧ d.idx = c.idx)) ∧ t.phys = v.phys ∧ t.cores = v.cores)) ∧
  (∀ (s w : State) q r, Performs s (.copy q) → PacketIs s q r w → HeaderGood r → r[0].toNat % 256 = 5 → packetB r = false →
    lowestFailing r.toList (0xF8000000#32 :: copyReserved) [] = none → goodLen r[1].toNat = true → recVa r 2 3 % 4 = 0 → recVa r 4 5 % 4 = 0 →
    (r[0].getLsbD 25 = true → recVa r 6 7 % 8 = 0) → (w.queueAt q).most ≤ (w.queueAt q).inflight → exec .copy s = .next w) ∧
  (∀ (s w v : State) q r args, Performs s (.launch q) → PacketIs s q r w → HeaderGood r → r[0].toNat % 256 = 1 → packetB r = false →
    lowestFailing r.toList (0xF8000000#32 :: launchReserved) [] = none →
    (w.launchAccess (w.queueAt q).ctxid.toNat r).filterMap id = [] →
    w.engineRead (.hub q (w.queueAt q).ri.toNat) (w.queueAt q).ctxid.toNat 0 [(recVa r 5 6, r[4].toNat % 8192)] = (.done args, v) →
    (v.launchChecks (w.queueAt q).ctxid.toNat r args).filterMap id = [] → (v.queueAt q).most ≤ (v.queueAt q).inflight →
    exec .launch s = .next v) ∧
  (∀ (s : State) q idx c bs u w, Performs s (.hubCopyEnd q idx) → (s.hubCopies.find? fun c => c.queue == q && c.idx == idx.toNat) = some c →
    c.copied < r1 c →
    let src := recVa c.packet 2 3 + c.copied
    let dst := recVa c.packet 4 5 + c.copied
    let n := Min.min (32 - dst % 32) (r1 c - c.copied)
    s.engineRead (.copy q c.idx) (s.queueAt q).ctxid.toNat 0 [(src, n)] = (.done bs, u) →
    u.engineWrite (.copy q c.idx) (s.queueAt q).ctxid.toNat 0 [(dst, bs)] = (.done [], w) → w.hubCopies = s.hubCopies →
    ∃ t, exec .hubCopyEnd s = .next t ∧ { c with copied := c.copied + n } ∈ t.hubCopies ∧ t.phys = w.phys ∧ t.cores = w.cores) ∧
  (∀ (s w v : State) q r args, Performs s (.launch q) → PacketIs s q r w → HeaderGood r → r[0].toNat % 256 = 1 → Ungated v q r →
    (v.queueAt q).inflight < (v.queueAt q).most → lowestFailing r.toList (0xF8000000#32 :: launchReserved) [] = none →
    (w.launchAccess (w.queueAt q).ctxid.toNat r).filterMap id = [] →
    w.engineRead (.hub q (w.queueAt q).ri.toNat) (w.queueAt q).ctxid.toNat 0 [(recVa r 5 6, r[4].toNat % 8192)] = (.done args, v) →
    (v.launchChecks (w.queueAt q).ctxid.toNat r args).filterMap id = [] →
    exec .launch s = .next ((passed q v).consume q (State.requestGroup q (w.queueAt q).ri (w.queueAt q).ctxid.toNat r args))) ∧
  (∀ (s : State) q idx ctx r args, let t := s.requestGroup q idx ctx r args
    (t.groupAt s.nextGroup).state = .requested ∧ (t.groupAt s.nextGroup).ctx = ctx ∧ (t.groupAt s.nextGroup).handle = r[1].toNat % 65536 ∧
      (t.groupAt s.nextGroup).nodes = r[2] ∧ (t.queueAt q).inflight = (s.queueAt q).inflight + 1)

/-! ## Groups: bind, termination, release, pre-emption (R75, R189, R276 to R291, R317 to R336) -/

namespace Sys2Proof.Claims

/-- Nothing of a group is under way or parked and its cores hold no transfer that is ACTIVE (R283, R335). -/
abbrev GroupAtRest (s : State) (g : Nat) : Prop := s.stopped g = true

end Sys2Proof.Claims

/-- R75, R317, R326 to R329, R335: a malformed record is counted as a firmware error; a record that fits takes its cores and banks into BINDING; at the end of the bind the
cores are BOUND with their ranks, their broadcast memory and nothing running, and the group is RESIDENT; then rank 0 takes the root task, and the
group is RUNNING.
Where the spec leaves it open, the model's choices are those of log 13, 14, 40, 73 and 75. -/
def Obligations.GroupsBind : Prop :=
  (∀ (s : State) g r, Performs s (.bindRecord g r) → recordMalformed r = true → exec .bindRecord s = .next (s.count .firmwareError)) ∧
  (∀ (s : State) g (r : Rec), Performs s (.bindRecord g r) → recordMalformed r = false → s.firmware.role ≠ .importing → s.ckpt = none →
    s.recordFits g r = true → r[0].getLsbD 1 = false → (s.groupAt g).state = .requested →
    ((s.contextAt (s.groupAt g).ctx).state = .ready ∨ (s.contextAt (s.groupAt g).ctx).state = .running) →
    exec .bindRecord s = .next ((s.beginBind g r).modGroup g fun gr => { gr with kernel := .placed })) ∧
  (∀ (s : State) g (r : Rec), recordMalformed r = false → s.recordFits g r = true → s.victims = [] →
    let t := s.beginBind g r
    (t.groupAt g).state = .binding ∧ (t.groupAt g).cores = recordCores r ∧ (t.groupAt g).bank = r[4].getLsbD 8 ∧
    (∀ k ∈ recordCores r, (t.coreAt k).power = .binding ∧ (t.coreAt k).group = g ∧ (t.coreAt k).ctxid = (s.groupAt g).ctx ∧
      (t.coreAt k).gsize = (recordCores r).length ∧ ((recordCores r)[(t.coreAt k).rank]? = some k)) ∧
    (∀ k, k ∉ recordCores r → t.coreAt k = s.coreAt k) ∧ t.phys = s.phys) ∧
  (∀ (s : State) g w, Performs s (.bindComplete g) → (s.groupAt g).state = .binding → (s.groupAt g).restoring = false → s.piecesGone g = true →
    (s.groupAt g).cores.Nodup →
    s.engineWrite (.group g) (s.groupAt g).ctx 0 ((s.groupAt g).dataPatches (s.binaryAt (s.groupAt g).handle)) = (.done [], w) →
    w.groups = s.groups →
    ∃ t, exec .bindComplete s = .next t ∧ (t.groupAt g).state = .resident ∧ (t.groupAt g).kernel = (s.groupAt g).kernel ∧ t.phys = w.phys ∧
      ∀ j k, (s.groupAt g).cores[j]? = some k → (t.coreAt k).power = .bound ∧ (t.coreAt k).group = g ∧ (t.coreAt k).rank = j ∧
        (t.coreAt k).gsize = (s.groupAt g).cores.length ∧ (t.coreAt k).hbase = 0x6F00#32 ∧ (t.coreAt k).hd.running = false ∧
        (t.coreAt k).tc0.run = .free ∧ (t.coreAt k).tc1.run = .free ∧ (t.coreAt k).cycle = 0#64 ∧ (t.coreAt k).dq.held = 0 ∧
        (t.coreAt k).lm = (s.groupAt g).broadcast (s.binaryAt (s.groupAt g).handle)
          (layPipes (((s.binaryAt (s.groupAt g).handle).pipes (nodesOf (s.groupAt g).nodes)).map fun e => e.2.depth) 0x6EE0)) ∧
  (∀ (s : State) g, Performs s (.bindComplete g) → (s.groupAt g).state = .resident → (s.groupAt g).preemptHeld = false →
    exec .bindComplete s = .next (((s.dequePush ((s.groupAt g).cores.headD 0) ((s.groupAt g).entryRec 0 ((s.kernelOf g 0).getD {}).entry)).modGroup g
      fun gr => { gr with state := .running, kernel := .running }).post (.terminationWave g)))

/-- R189, R320 to R322: a wave asks every core once; its end fires the tree after two all-idle waves of equal and balanced sums, escalates when a count has
wrapped, and else another wave follows; the tree's firing starts the drain, whose end releases the group and then writes the launch's
signal, in further steps where its write waits; a context that ends before aborts the launch.
Where the spec leaves it open, the model's choices are those of log 43. -/
def Sys2Proof.Claims.GroupsTerminate : Prop :=
  (∀ (s : State) g, Performs s (.terminationWave g) → (s.groupAt g).state = .running → (s.groupAt g).kernel = .running → (s.groupAt g).waveOn = false →
    ∃ t, exec .terminationWave s = .next t ∧ (t.groupAt g).waveOn = true ∧ (t.groupAt g).answered = 0 ∧
      t.pending = s.pending ++ (List.range (s.groupAt g).cores.length).map (.terminationProbe g) ∧ t.cores = s.cores) ∧
  (∀ (s : State) g rank k, Performs s (.terminationProbe g rank) → (s.groupAt g).waveOn = true → (s.groupAt g).cores[rank]? = some k →
    let n : Counts := SMap.get {} (s.groupAt g).counts k
    ∃ t, exec .terminationProbe s = .next t ∧ (t.groupAt g).answered = (s.groupAt g).answered + 1 ∧
      (t.groupAt g).sumSent = (s.groupAt g).sumSent + n.sent ∧ (t.groupAt g).sumRecv = (s.groupAt g).sumRecv + n.received ∧
      (t.groupAt g).sumIdle = ((s.groupAt g).sumIdle && s.coreIdle g k) ∧ t.cores = s.cores ∧
      ((s.groupAt g).answered + 1 = (s.groupAt g).cores.length ↔ t.pending = s.pending ++ [.terminationWaveEnd g])) ∧
  (∀ (s : State) g, Performs s (.terminationWaveEnd g) → (s.groupAt g).state = .running → (s.groupAt g).waveOn = true →
    (s.groupAt g).answered = (s.groupAt g).cores.length → (s.groupAt g).sumWrap = false →
    let gr := s.groupAt g
    let fires : Prop := gr.sumIdle = true ∧ gr.sumSent = gr.sumRecv ∧ gr.lastWave = some (true, gr.sumSent, gr.sumRecv)
    (fires → ∃ t, exec .terminationWaveEnd s = .next t ∧ (t.groupAt g).kernel = .draining ∧ (t.groupAt g).waveOn = false ∧ t.pending = s.pending) ∧
    (¬ fires → ∃ t, exec .terminationWaveEnd s = .next t ∧ (t.groupAt g).kernel = gr.kernel ∧
      (t.groupAt g).lastWave = some (gr.sumIdle, gr.sumSent, gr.sumRecv) ∧ t.pending = s.pending ++ [.terminationWave g])) ∧
  (∀ (s : State) g, Performs s (.terminationWaveEnd g) → (s.groupAt g).state = .running → (s.groupAt g).waveOn = true →
    (s.groupAt g).answered = (s.groupAt g).cores.length → (s.groupAt g).sumWrap = true →
    let gr := s.groupAt g
    let t := s.modGroup g fun gr => { gr with waveOn := false, lastWave := some (gr.sumIdle, gr.sumSent, gr.sumRecv) }
    exec .terminationWaveEnd s = .next (t.escalate g .termImbalance ⟨0, 0#32, 0#32, 0, 0, false⟩) ∧
    ((s.contextAt gr.ctx).policy = 0#2 →
      (((t.escalate g .termImbalance ⟨0, 0#32, 0#32, 0, 0, false⟩).groupAt g).state = .faulted))) ∧
  (∀ (s : State) g, Performs s (.drainEnd g) → s.drainDone g = true →
    (∀ i w, s.oldestFault g = some (i, w) → exec .drainEnd s = .next (s.escalateAt i .faultAtRelease w 0#32)) ∧
    (s.oldestFault g = none → (s.groupAt g).signal = none →
      ∃ t, exec .drainEnd s = .next t ∧ (t.groupAt g).state = .released ∧ (t.groupAt g).kernel = .complete) ∧
    (∀ va v w, s.oldestFault g = none → (s.groupAt g).signal = some (va, v) →
      (s.dissolve g).engineWrite (.group g) (s.groupAt g).ctx 0 [(va, leBytes 8 v.toNat)] = (.done [], w) → w.groups = (s.dissolve g).groups →
      ∃ t, exec .drainEnd s = .next t ∧ (t.groupAt g).state = .released ∧ (t.groupAt g).kernel = .complete ∧ t.phys = w.phys)) ∧
  (∀ (s : State) g, Performs s (.drainEnd g) → (s.groupAt g).state = .released → (s.groupAt g).kernel = .draining →
    (((s.contextAt (s.groupAt g).ctx).state ≠ .terminated ∧ (s.contextAt (s.groupAt g).ctx).state ≠ .free) →
      exec .drainEnd s = .next (s.completeLaunch g)) ∧
    (((s.contextAt (s.groupAt g).ctx).state = .terminated ∨ (s.contextAt (s.groupAt g).ctx).state = .free) →
      ∃ t, exec .drainEnd s = .next t ∧ (t.groupAt g).kernel = .aborted ∧ t.phys = s.phys))

/-- R94, R322, R335: a group whose release is due first comes to rest, unless its context is TERMINATED, and is then RELEASED: each of its cores is OFF and empty, and a kernel that had not ended is
ABORTED; a group that runs beyond its context's limit escalates WATCHDOG.
Where the spec leaves it open, the model's choices are those of log 43. -/
def Sys2Proof.Claims.GroupsAreReleased : Prop :=
  (∀ (s : State) g, Performs s (.groupRelease g) → s.releaseDue g = true →
    let killed : Prop := (s.contextAt (s.groupAt g).ctx).state = .terminated
    let t := ((if (s.groupAt g).state.live then s.modGroup g fun gr => { gr with state := .faulted } else s).withdrawGroup g |>.unparkGroup g).stopTransfers g
    (¬ killed → (s.groupAt g).image = [] → s.stilled g = false →
      exec .groupRelease s = .next ((s.withdrawGroup g).postOnce (.groupRelease g))) ∧
    ((killed ∨ (s.groupAt g).image ≠ [] ∨ s.stilled g = true) →
      (GroupAtRest t g → ∃ u, exec .groupRelease s = .next u ∧ (u.groupAt g).state = .released ∧
        (u.groupAt g).kernel = (if (s.groupAt g).kernel.live then KState.aborted else (s.groupAt g).kernel)) ∧
      (¬ GroupAtRest t g → exec .groupRelease s = .next (t.postOnce (.groupRelease g))))) ∧
  (∀ (s : State) g, let t := s.dissolve g
    (t.groupAt g).state = .released ∧ ∀ k ∈ s.boundTo g, (t.coreAt k).power = .off ∧ (t.coreAt k).group = 0 ∧ (t.coreAt k).lm = []) ∧
  (∀ (s : State) g, Performs s (.watchdog g) → (s.groupAt g).state = .running → (s.contextAt (s.groupAt g).ctx).wdog ≠ 0#16 →
    exec .watchdog s = .next (s.escalate g .watchdog ⟨0, BitVec.ofNat 32 g, 0#32, 0, 0, false⟩))

/-- R276, R277, R282 to R291, R335, R336: a RUNNING group that may be pre-empted becomes PREEMPTING, a group that does not run yet keeps the request; once it has quiesced its cores are saved and
OFF; SPILL and RELOAD move a context's images to its save area and back; a resume restores every core and bank of the image and releases the held messages,
and escalates for an image that fails its check.
Where the spec leaves it open, the model's choices are those of log 15, 44, 55 and 72. -/
def Sys2Proof.Claims.GroupsArePreempted : Prop :=
  (∀ (s : State) g, Performs s (.preempt g) →
    ((s.groupAt g).state = .running → s.canPreempt g (s.comingEntries (s.groupAt g).ctx g) = true → exec .preempt s = .next (s.beginPreempt g)) ∧
    ((s.groupAt g).state = .running → s.canPreempt g (s.comingEntries (s.groupAt g).ctx g) = false → exec .preempt s = .next s.notPreempted) ∧
    (((s.groupAt g).state = .requested ∨ (s.groupAt g).state = .binding ∨ (s.groupAt g).state = .resident) →
      exec .preempt s = .next (s.modGroup g fun gr => { gr with preemptHeld := true }))) ∧
  (∀ (s : State) g, let t := s.beginPreempt g
    (t.groupAt g).state = .preempting ∧ ∀ k ∈ s.boundTo g, (t.coreAt k).power = .saving ∧ (t.coreAt k).lm = (s.coreAt k).lm) ∧
  (∀ (s : State) g, Performs s (.preemptTimeout g) → (s.groupAt g).state = .preempting → s.pageWaits g = true →
    exec .preemptTimeout s = .next (s.report .preemptTimeout (BitVec.ofNat 32 g) (s.groupAt g).ctx g 0)) ∧
  (∀ (s : State) g, Performs s (.preemptSave g) → s.quiesced g = true → s.canPreempt g 0 = true → s.mirrorHolders g = [] →
    (s.boundTo g).Nodup →
    ∃ t, exec .preemptSave s = .next t ∧ (t.groupAt g).state = .saved ∧ (t.groupAt g).spilled = false ∧
      ∀ k ∈ s.boundTo g, (t.coreAt k).power = .off ∧ (t.coreAt k).lm = [] ∧
        (t.groupAt g).image.find k = some { s.coreAt k with l1 := [] }) ∧
  (∀ (s : State) g, Performs s (.preemptSave g) → s.quiesced g = true → s.canPreempt g 0 = false →
    exec .preemptSave s = .next (s.leavePreempt g).notPreempted) ∧
  (∀ (s : State) g, Performs s (.preemptSave g) → s.quiesced g = true → s.canPreempt g 0 = true → s.mirrorHolders g ≠ [] →
    exec .preemptSave s = .next ((s.mirrorHolders g).foldl (fun s c => s.postOnce (.spill c)) s)) ∧
  (∀ (s : State) ctx, Performs s (.spill ctx) →
    let gs := (s.savedOf ctx).filter fun g => !(s.groupAt g).spilled && !(s.groupAt g).restoring
    gs ≠ [] → s.spillFits ctx = true →
    ∃ u : State, exec .spill s = .next (u.writeArea ctx) ∧ (∀ g ∈ gs, (u.groupAt g).spilled = true) ∧ (∀ g, g ∉ gs → u.groupAt g = s.groupAt g) ∧
      (∀ g, (u.groupAt g).image = (s.groupAt g).image ∧ (u.groupAt g).banks = (s.groupAt g).banks) ∧ u.cores = s.cores ∧ u.phys = s.phys) ∧
  (∀ (s : State) ctx, Performs s (.reload ctx) → ((s.savedOf ctx).filter fun g => (s.groupAt g).spilled) ≠ [] →
    (∀ g ∈ s.savedOf ctx, s.mirrorHolders g = []) → ((s.contextAt ctx).state = .spilled → s.residents < 64) →
    ∃ t, exec .reload s = .next t ∧ (∀ g ∈ s.savedOf ctx, (t.groupAt g).spilled = false ∧ (t.groupAt g).image = (s.groupAt g).image) ∧
      (∀ g ∈ s.savedOf ctx, (s.groupAt g).spilled = true → (t.groupAt g).flaw = ((s.groupAt g).flaw <|> s.spillFlaw ctx g)) ∧
      ((s.contextAt ctx).state = .spilled → (t.contextAt ctx).state = .saved) ∧ t.cores = s.cores ∧ t.phys = s.phys) ∧
  (∀ (s : State) g, Performs s (.resumeGroup g) → (s.groupAt g).state = .binding → (s.groupAt g).restoring = true → s.piecesGone g = true →
    s.restoreFlaw g s.freeWord.1 = none → ((s.groupAt g).image.map (·.1)).Nodup → (∀ e ∈ (s.groupAt g).image, e.1 ∈ (s.groupAt g).cores ∧ e.2.tc0.run ≠ .left ∧
      ∀ t ∈ e.2.slots, t.2.stopReq = false) → (s.groupAt g).preemptHeld = false →
    ∃ t, exec .resumeGroup s = .next t ∧ (t.groupAt g).state = .running ∧ (t.groupAt g).heldMsgs = [] ∧
      (t.groupAt g).released = (s.groupAt g).heldMsgs ∧ (t.groupAt g).restoring = false ∧
      t.pending = s.pending ++ (s.groupAt g).heldMsgs ++ [.terminationWave g] ∧ t.phys = s.phys ∧
      ∀ k c, (k, c) ∈ (s.groupAt g).image → (t.coreAt k).power = .bound ∧ (t.coreAt k).lm = c.lm ∧ (t.coreAt k).tc0 = c.tc0 ∧
        (t.coreAt k).tc1 = c.tc1 ∧ (t.coreAt k).hd = c.hd ∧
        (t.coreAt k).dq = (if (s.groupAt g).version = 2#8 then (oldCore k c).dq else c.dq)) ∧
  (∀ (s : State) g c w, Performs s (.resumeGroup g) → (s.groupAt g).state = .binding → (s.groupAt g).restoring = true → s.piecesGone g = true →
    s.restoreFlaw g s.freeWord.1 = some (c, w) → exec .resumeGroup s = .next (s.freeWord.2.escalate g c
      { cause := 0, tval := w, epc := 0#32, coreid := (s.groupAt g).cores.headD 0, handler := false, kslot := 0 }))

/-- R286 to R291: what firmware puts into a context's save area: the header's version, count of entries, count of images and offset of the
first image; the variable entries from offset 0x40 on; the images at slots of 576 KiB, each with the local memories of its cluster's saved cores in
order; the bytes of each part stand there; and a part that has been changed is found when it is read back.
Where the spec leaves it open, the model's choices are those of log 44. -/
def Sys2Proof.Claims.SaveAreasAreWritten : Prop :=
  (∀ (s : State) ctx, let ps := s.areaParts ctx
    let entries := (((ps.filter fun p => !p.image).map fun p => p.bytes.length).sum) / 64
    (areaHeader ps).length = 16 ∧ (areaHeader ps)[0]? = some (BitVec.ofNat 32 (3 * 2 ^ 24 + entries)) ∧
      (areaHeader ps)[1]? = some (BitVec.ofNat 32 (s.spilledOf ctx).length) ∧ (areaHeader ps)[2]? = some (BitVec.ofNat 32 (imageBase entries)) ∧
      (∀ i w, 3 ≤ i → (areaHeader ps)[i]? = some w → w = 0#32) ∧
      imageBase entries % 65536 = 0 ∧ 0x40 + 64 * entries ≤ imageBase entries ∧ imageBase entries < 0x40 + 64 * entries + 65536 ∧
      (∀ j k, (s.spilledOf ctx)[j]? = some k → ∃ p ∈ ps, p.image = true ∧ p.id = k ∧ p.off = imageBase entries + 0x90000 * j ∧
        p.bytes = s.imageBytes ctx k) ∧
      (∀ g ∈ s.savedOf ctx, ∃ p ∈ ps, p.image = false ∧ p.id = g ∧ p.bytes = (s.groupAt g).entryBytes) ∧
      (∀ p ∈ ps, p.image = false → 0x40 ≤ p.off ∧ p.off + p.bytes.length ≤ 0x40 + 64 * entries)) ∧
  (∀ (s : State) ctx k, (s.imageBytes ctx k).length = 0x90000 ∧
    ∀ i j c, i < 16 → j < 0x8000 →
      (((s.savedOf ctx).filter fun g => !(SMap.find k (s.groupAt g).banks).isNone).findSome? fun g => (s.groupAt g).image.find (16 * k + i)) = some c →
      (s.imageBytes ctx k)[0x8000 * i + j]? = some (Mem.byte c.lm j)) ∧
  (∀ (s : State) ctx, let t := s.writeArea ctx
    let base := (s.contextAt ctx).save
    let ps := s.areaParts ctx
    (t.contextAt ctx).area = ps ∧ t.groups = s.groups ∧ t.cores = s.cores ∧
      (base % 65536 = 0 → (∀ a, base ≤ a → a < base + (s.contextAt ctx).ssize * 65536 → inLocalwin a = false) →
        s.areaHolds ctx (s.savedEntries ctx) (s.spilledOf ctx).length = true → ((s.savedOf ctx).all fun g => (s.groupAt g).entryBytes.length = 64 * s.entryCount g) = true →
        (∀ p ∈ ps, ∀ (i : Nat) b, p.bytes[i]? = some b → t.phys.byte (base + p.off + i) = b) ∧
        (∀ (i : Nat) b, (wordBytes (areaHeader ps))[i]? = some b → t.phys.byte (base + i) = b))) ∧
  (∀ (s : State) ctx g (p : AreaPart) i b, (s.contextAt ctx).area.find? (fun p => !p.image && p.id == g) = some p → (s.groupAt g).ctx = ctx →
    p.bytes[i]? = some b → (s.phys.byte ((s.contextAt ctx).save + p.off + i) ≠ b ∨ s.rangePoisoned ((s.contextAt ctx).save + p.off + i) 1 = true) →
    ∀ v, ∃ w, s.entryFlaw g v = some (.resumeRecord, w))

/-! ## The host's commands (R229, R257 to R261, R271, R275, R277, R280, R306, R311 to R313, R316, R330, R335, R371) -/

namespace Sys2Proof.Claims

/-- The command in hand ended, and one context record has become c (R275, R371). -/
def EndsWithContext (s t : State) (st : Status) (r0 : Nat) (c : Context) : Prop :=
  CommandEnds { s with contexts := s.contexts.put s.cmdCtx c } t st r0 0

/-- No launch of a context has its group RELEASED and its completion signal still to be written (R322). -/
abbrev NoneCompleting (s : State) (ctx : Nat) : Prop :=
  ∀ e ∈ s.groups, ¬ (e.2.ctx = ctx ∧ e.2.state = .released ∧ e.2.kernel = .draining)

end Sys2Proof.Claims

/-- R277, R280, R335, R371: a command of a reserved opcode ends with UNKNOWN; a malformed word ends a command with ARGS, a FREE context with ACCESS, a context in
another state than its row of R277 allows with STATE; the context commands move their context as R277 says and report their results; firmware kills a context as CTX_DESTROY does.
Where the spec leaves it open, the model's choices are those of log 16 and 77. -/
def Sys2Proof.Claims.ContextCommands : Prop :=
  (∀ s : State, s.commandReady = true → (s.cmdOp = 0 ∨ 0x0D < s.cmdOp) → ∃ t, exec .unknownCommand s = .next t ∧ CommandEnds s t .unknown 0 0) ∧
  (∀ s : State, s.commandReady = true → s.cmdOp = 2 → bits (s.cmdW 0) 8 24 ≠ 0 → ∃ t, exec .ctxReady s = .next t ∧ CommandEnds s t .args 0 0) ∧
  (∀ s : State, s.commandReady = true → s.cmdOp = 2 → bits (s.cmdW 0) 8 24 = 0 → (s.contextAt s.cmdCtx).state = .free →
    ∃ t, exec .ctxReady s = .next t ∧ CommandEnds s t .access 0 0) ∧
  (∀ s : State, CommandIs s 2 →
    ((s.contextAt s.cmdCtx).state = .loading → ∃ t, exec .ctxReady s = .next t ∧
      EndsWithContext s t .done 0 { s.contextAt s.cmdCtx with state := .ready }) ∧
    ((s.contextAt s.cmdCtx).state ≠ .loading → ∃ t, exec .ctxReady s = .next t ∧ CommandEnds s t .state 0 0)) ∧
  (∀ s : State, CommandIs s 3 →
    ((s.contextAt s.cmdCtx).state = .faulted → ∃ t, exec .ctxReset s = .next t ∧
      t.contextAt s.cmdCtx = { s.contextAt s.cmdCtx with state := .ready } ∧
      (NoneCompleting s s.cmdCtx → t.pending = s.pending ++ (s.groupsOf s.cmdCtx).map .groupRelease) ∧
      (∀ g, (s.groupAt g).ctx = s.cmdCtx → (s.groupAt g).state = .released → (s.groupAt g).kernel = .draining → (t.groupAt g).kernel = .aborted) ∧
      t.device.status = Status.done.code ∧ t.device.busy = false ∧
      t.cores = s.cores ∧ t.phys = s.phys ∧ ∀ g ∈ s.groupsOf s.cmdCtx, (t.groupAt g).state.live = false) ∧
    ((s.contextAt s.cmdCtx).state ≠ .faulted → ∃ t, exec .ctxReset s = .next t ∧ CommandEnds s t .state 0 0)) ∧
  (∀ (s : State) ctx, Performs s (.firmwareKill ctx) → (s.contextAt ctx).state ≠ .free → (s.contextAt ctx).state ≠ .terminated →
    ∃ t, exec .ctxDestroy s = .next t ∧ (t.contextAt ctx).state = .terminated ∧ t.faultSeq = s.faultSeq + 1#64 ∧
      (NoneCompleting s ctx → t.counters = s.counters.tally Cause.contextKilled.code ∧ t.device = s.device) ∧ t.cores = s.cores ∧
      (∀ g, (s.groupAt g).ctx = ctx → (s.groupAt g).state = .released → (s.groupAt g).kernel = .draining → (t.groupAt g).kernel = .aborted) ∧
      (∀ g, (s.groupAt g).ctx = ctx → (t.groupAt g).state.live = false)) ∧
  (∀ s : State, CommandIs s 4 → (∀ c, ¬ Performs s (.firmwareKill c)) → s.device.begun = false → (s.contextAt s.cmdCtx).state ≠ .terminated →
    ∃ t, exec .ctxDestroy s = .next t ∧ (t.contextAt s.cmdCtx).state = .terminated ∧ t.device.busy = true ∧ t.device.begun = true ∧
      t.faultSeq = s.faultSeq + 1#64 ∧ (NoneCompleting s s.cmdCtx → t.counters = s.counters.tally Cause.contextKilled.code) ∧ t.cores = s.cores) ∧
  (∀ (s : State) ctx, Performs s (.contextFree ctx) → (s.contextAt ctx).state = .terminated → s.groupsOf ctx = [] →
    ∃ t, exec .contextFree s = .next t ∧ (t.contextAt ctx).state = .free ∧ (∀ e ∈ t.allocs, e.1 ≠ ctx) ∧ (∀ e ∈ t.areas, e.1 ≠ ctx) ∧ (∀ e ∈ t.givens, e.1 ≠ ctx) ∧ (∀ e ∈ t.binaries, e.2.ctx ≠ ctx) ∧
      (∀ e ∈ t.victims, e.ctx ≠ ctx) ∧ (∀ k, (s.coreAt k).power ≠ .holding → t.coreAt k = s.coreAt k) ∧ t.phys = s.phys ∧
      (s.device.begun = true → s.cmdOp = 4 → s.cmdCtx = ctx → t.device.busy = false ∧ t.device.status = Status.done.code)) ∧
  (∀ (s : State) c u, s.commandReady = true → s.cmdOp = 1 → s.createWords = true → (s.contextAt s.cmdCtx).state = .free → s.residents < 64 →
    s.createAreas s.cmdCtx s.createRecord = some (c, u) →
    ∃ t, exec .ctxCreate s = .next t ∧ t.contextAt s.cmdCtx = c ∧ t.device.busy = false ∧ t.device.status = Status.done.code ∧
      t.device.hres0 = BitVec.ofNat 32 (c.trigBase + c.trigCnt * 2 ^ 16) ∧ t.phys = u.phys ∧ c.state = .loading ∧
      c.ssize = bits (s.cmdW 1) 16 16 ∧ c.rlcap = s.cmdW 7 ∧ c.ursize = s.cmdW 8 ∧ c.aclcnt = bits (s.cmdW 9) 0 5 ∧ t.cores = s.cores) ∧
  (∀ s : State, s.commandReady = true → s.cmdOp = 1 →
    (s.createWords = false → ∃ t, exec .ctxCreate s = .next t ∧ CommandEnds s t .args 0 0) ∧
    (s.createWords = true → (s.contextAt s.cmdCtx).state ≠ .free → ∃ t, exec .ctxCreate s = .next t ∧ CommandEnds s t .state 0 0) ∧
    (s.createWords = true → (s.contextAt s.cmdCtx).state = .free → 64 ≤ s.residents →
      ∃ t, exec .ctxCreate s = .next t ∧ CommandEnds s t .resource 0 0)) ∧
  (∀ s : State, CommandIs s 5 → bits (s.cmdW 2) 18 14 = 0 → ∃ t, exec .ctxSet s = .next t ∧ EndsWithContext s t .done 0
    { s.contextAt s.cmdCtx with
      quota := if bits (s.cmdW 2) 16 1 = 0 then (s.contextAt s.cmdCtx).quota else if bits (s.cmdW 2) 0 6 = 0 then 64 else bits (s.cmdW 2) 0 6
      share := if bits (s.cmdW 2) 17 1 = 0 then (s.contextAt s.cmdCtx).share else if bits (s.cmdW 2) 8 4 = 0 then 8 else bits (s.cmdW 2) 8 4 }) ∧
  (∀ s : State, CommandIs s 6 →
    ((s.contextAt s.cmdCtx).aclcnt ≤ bits (s.cmdW 2) 0 4 → ∃ t, exec .aclSet s = .next t ∧ CommandEnds s t .args 0 0) ∧
    (bits (s.cmdW 2) 0 4 < (s.contextAt s.cmdCtx).aclcnt → ∃ t, exec .aclSet s = .next t ∧ EndsWithContext s t .done 0
      { s.contextAt s.cmdCtx with acl := (s.contextAt s.cmdCtx).acl.set (bits (s.cmdW 2) 0 4) (aclEntry (s.cmdW 3)) })) ∧
  (∀ s : State, CommandIs s 7 → ∃ t, exec .ctxQuery s = .next t ∧
    CommandEnds s t .done ((s.contextAt s.cmdCtx).state.code * 2 ^ 16 + (s.contextAt s.cmdCtx).dl.toNat * 2 ^ 11 + s.cmdCtx)
      ((s.contextAt s.cmdCtx).layout.toNat * 2 ^ 24 + (s.contextAt s.cmdCtx).ssize)) ∧
  (∀ s : State, CommandIs s 10 → ∃ t, exec .followSet s = .next t ∧ t.device.status = Status.done.code ∧ t.device.busy = false ∧
    t.cores = s.cores ∧ t.phys = s.phys ∧
    (bits (s.cmdW 2) 16 1 = 1 → (t.contextAt s.cmdCtx).follow.find (bits (s.cmdW 2) 0 12) = some (bits (s.cmdW 3) 0 10, bits (s.cmdW 4) 0 16)) ∧
    (bits (s.cmdW 2) 16 1 = 0 → (t.contextAt s.cmdCtx).follow.find (bits (s.cmdW 2) 0 12) = none))

/-- R229, R257 to R261, R311 to R313, R316, R371: MAP writes the entries of unmapped pages and UNMAP takes whole pages away once no access is under way under them;
BIN_LOAD registers a binary that is well formed, signed and fits, BIN_UNLOAD waits for its launches, DSET_SET sets its table; a revoked
key withdraws the signature of the binaries loaded under it.
Where the spec leaves it open, the model's choices are those of log 13, 16, 17 and 46. -/
def Sys2Proof.Claims.MappingAndBinaryCommands : Prop :=
  (∀ (s : State) u, CommandIs s 12 → s.mapWords = true → (s.contextAt s.cmdCtx).state ≠ .terminated →
    s.leavesIn s.cmdCtx s.cmdRange.1 s.cmdRange.2 = [] →
    let given := bits (s.cmdW 6) 17 1 == 1
    let a := if given then s.mapFrameOf s.mapReq.kind (s.cmdW 7 + 2 ^ 32 * s.cmdW 8) else s.cmdRange.1
    State.mapPages s.mapReq given (pagesOf s.mapReq.sizes (s.cmdRange.2 / 4096) s.cmdRange.1 a s.cmdRange.2) s = some u →
    ∃ t, exec .map s = .next t ∧ t.device.busy = false ∧ t.device.status = Status.done.code ∧ t.phys = u.phys ∧ t.allocs = u.allocs ∧ t.cores = u.cores) ∧
  (∀ s : State, CommandIs s 12 → s.mapWords = false → ∃ t, exec .map s = .next t ∧ CommandEnds s t .args 0 0) ∧
  (∀ s : State, CommandIs s 12 → s.mapWords = true → s.leavesIn s.cmdCtx s.cmdRange.1 s.cmdRange.2 ≠ [] →
    ∃ t, exec .map s = .next t ∧ CommandEnds s t .state 0 0) ∧
  (∀ s : State, CommandIs s 13 → rangeGood s.cmdRange = true → (s.contextAt s.cmdCtx).state ≠ .terminated →
    (∀ l ∈ s.leavesIn s.cmdCtx s.cmdRange.1 s.cmdRange.2, s.cmdRange.1 ≤ l.base ∧ l.base + l.size ≤ s.cmdRange.1 + s.cmdRange.2) →
    let u := s.unmapRange s.cmdCtx s.cmdRange.1 s.cmdRange.2
    (s.rangeBusy s.cmdCtx s.cmdRange.1 s.cmdRange.2 = false →
      ∃ t, exec .unmap s = .next t ∧ t.device.status = Status.done.code ∧ t.phys = u.phys ∧ t.allocs = u.allocs ∧ t.cores = u.cores) ∧
    (s.rangeBusy s.cmdCtx s.cmdRange.1 s.cmdRange.2 = true → exec .unmap s = .next s)) ∧
  (∀ (s : State) bs, CommandIs s 8 → Performs s (.binLoad bs) → s.cmdW 2 % 64 = 0 →
    (bygGood bs (s.cmdW 4) = false → ∃ t, exec .binLoad s = .next t ∧ CommandEnds s t .args 0 0) ∧
    (bygGood bs (s.cmdW 4) = true → (s.contextAt s.cmdCtx).state ≠ .terminated →
      (∀ e ∈ planEntries (bygBytes bs 8), s.leavesIn s.cmdCtx (planRange e).1 (planRange e).2 = []) →
      ((s.signatureVerifies bs = false ∨ (bygBinary s.cmdCtx bs).keyIndex.toNat ∈ s.firmware.revoked) →
        ∃ t, exec .binLoad s = .next t ∧ CommandEnds (s.count .signatureBad) t .signature 0 0) ∧
      ((bygBinary s.cmdCtx bs).keyIndex.toNat ∉ s.firmware.revoked → ∀ h u, s.freeHandle = some h →
        (planEntries (bygBytes bs 8)).foldlM (State.mapRegion s.cmdCtx) s = some u →
        let v := (planEntries (bygBytes bs 8)).foldl (State.fillRegion s.cmdCtx (bygBytes bs 8)) u
        ∃ t, exec .binLoad s = .next t ∧ if s.signatureVerifies bs = true
          then CommandEnds { v with binaries := v.binaries.put h (bygBinary s.cmdCtx bs) } t .done h 0
          else CommandEnds (s.count .signatureBad) t .signature 0 0))) ∧
  (∀ (s : State) h b, CommandIs s 9 → s.cmdBinary s.cmdCtx = some (h, b) → (b.unloading = true → s.device.begun = true) →
    (s.launchInFlight h = true → ∃ t, exec .binUnload s = .next t ∧ t.device.busy = true ∧
      t.binaries = s.binaries.put h { b with unloading := true } ∧ t.cores = s.cores ∧ t.phys = s.phys) ∧
    (s.launchInFlight h = false → (∀ r ∈ b.regions, s.rangeBusy s.cmdCtx r.1 r.2 = false) → ∃ t, exec .binUnload s = .next t ∧
      CommandEnds (s.unload h b) t .done 0 0)) ∧
  (∀ s : State, CommandIs s 9 → s.cmdBinary s.cmdCtx = none → ∃ t, exec .binUnload s = .next t ∧ CommandEnds s t .access 0 0) ∧
  (∀ (s : State) bs h b, CommandIs s 11 → Performs s (.dsetSet bs) → 1 ≤ bits (s.cmdW 2) 16 7 → bits (s.cmdW 2) 16 7 ≤ 64 →
    bs.length = 8 * bits (s.cmdW 2) 16 7 → (dsetEntries bs).2 = true → (dsetEntries bs).1.countP (fun e => e.1 == s.partAddr) = 1 →
    s.cmdBinary s.cmdCtx = some (h, b) →
    ∃ t, exec .dsetSet s = .next t ∧ CommandEnds { s with binaries := s.binaries.put h { b with dset := (dsetEntries bs).1 } } t .done 0 0) ∧
  (∀ (s : State) k, Performs s (.keyRevocation k) → ∃ t, exec .keyRevocation s = .next t ∧ k ∈ t.firmware.revoked ∧
    (∀ h b, s.binaries.find h = some b → ∃ c, t.binaries.find h = some c ∧
      c = { b with withdrawn := if b.keyIndex.toNat = k then true else b.withdrawn }) ∧ t.cores = s.cores ∧ t.phys = s.phys)

/-! ## The device, checkpoints, firmware, records and power (R292, R293, R366 to R379) -/

namespace Sys2Proof.Claims

/-- A word of BAR0 written by the host. -/
abbrev HostWrites (s : State) (off : Nat) (w : Word) : Prop := Performs s (.registerWrite off w)

/-- The checkpoint has ended with a CKSTAT (R366, R376). -/
def CkptEnds (t : State) (st : BitVec 4) : Prop := t.ckpt = none ∧ t.device.ck = false ∧ t.device.ckstat = st

end Sys2Proof.Claims

/-- R292, R293, R366, R367, R369 to R371, R375: power-on enters BRINGUP with the reduced offer and its end READY or FAILED; firmware sets the part's address
in BRINGUP only, and the slices' threshold and the stronger code, where its feature is accepted, at any time; FCOMMIT takes FACCEPT, WBASE and
HBASE over while every context is FREE and else sets CR; a register takes the host's write and keeps the rest; a command is submitted
only when none is in hand; a write of 1 to CKPT reads a checkpoint's descriptor at CKPTD; a masked MSI-X vector waits until it is unmasked; BAR2 reads and writes physical space, or is refused where there is none.
Where the spec leaves it open, the model's choices are those of log 28, 29, 31 and 51. -/
def Sys2Proof.Claims.DeviceRegisters : Prop :=
  (∀ s : State, s.device.state = 0#4 → ∃ t, exec .powerOn s = .next t ∧ t.device.state = 1#4 ∧ t.device.foffer = 0xFE0#128 ∧ t.feats = 0#128 ∧
    t.records.cycles = (if s.flash.cycles < 2 ^ 64 - 1 then s.flash.cycles + 1 else 2 ^ 64 - 1) ∧ t.cores = s.cores ∧ t.phys = s.phys) ∧
  (∀ (s : State) good step, Performs s (.bringupEnd good step) → s.device.state = 1#4 →
    exec .bringupEnd s = .next { s with device := { s.device with step := step, state := if good then 2#4 else 3#4,
                                                                  foffer := if good then 0xFFF#128 else s.device.foffer } }) ∧
  (∀ (s : State) x, Performs s (.firmwareSetting x) → exec .bringupEnd s = .next (s.setting x)) ∧
  (∀ (s : State) a, s.setting (.partAddress a) = if s.device.state = 1#4 then { s with partAddr := a % 4096 } else s) ∧
  (∀ (s : State) n, s.setting (.pinThreshold n) = { s with pinThreshold := n }) ∧
  (∀ (s : State) b, s.setting (.ecc32c b) = { s with ecc32c := b && s.feats.getLsbD 6 }) ∧
  (∀ s : State, (∃ e ∈ s.contexts, e.2.state ≠ .free) → exec .fcommit s = .next { s with device := { s.device with cr := true } }) ∧
  (∀ s : State, (∀ e ∈ s.contexts, e.2.state = .free) → ∃ t, exec .fcommit s = .next t ∧ t.feats = s.device.faccept &&& s.device.foffer ∧
    t.device.faccept = s.device.faccept &&& s.device.foffer ∧ t.hostBase = s.device.hbase ∧ t.barBase.toNat = s.device.wbase.toNat % 128 * 2 ^ 36 ∧
    t.cores = s.cores ∧ t.phys = s.phys ∧ t.contexts = s.contexts ∧ t.queues = s.queues) ∧
  (∀ (s : State) i w (h : i < 16), HostWrites s (0x1100100 + 4 * i) w →
    exec .registerWrite s = .next { s with device := { s.device with hcmd := s.device.hcmd.set i w h } }) ∧
  (∀ s : State, HostWrites s 0x1100140 1#32 →
    (s.device.busy = true → exec .registerWrite s = .next s) ∧
    (s.device.busy = false → exec .registerWrite s = .next
      { s with device := { s.device with busy := true, begun := false, block := s.device.hcmd } })) ∧
  (∀ (s : State) q w, q < 4096 → HostWrites s (0x1000 * q) w → exec .registerWrite s = .next { s with pending := .kick q w :: s.pending }) ∧
  (∀ (s : State) q k w, q < 4096 → k < 64 → HostWrites s (0x1000000 + 0x100 * q + 4 * k) w → ∃ t, exec .registerWrite s = .next t ∧
    t.queueAt q = Queue.write k w (s.queueAt q) ∧ (∀ p, p ≠ q → t.queueAt p = s.queueAt p) ∧ t.cores = s.cores ∧ t.phys = s.phys ∧
    t.device = s.device ∧ (∀ e ∈ t.pending, e ∈ s.pending ∨ (k = 0 ∧ (e = .enable q ∨ e = .disable q)) ∨
      (k = 1 ∧ e = .prioChange q (BitVec.ofNat 4 (bits w.toNat 16 4))))) ∧
  (∀ s : State, HostWrites s 0x1100030 1#32 → exec .registerWrite s = .next { s with pending := .fcommit :: s.pending }) ∧
  (∀ s : State, HostWrites s 0x1100058 1#32 → ∃ t, exec .registerWrite s = .next t ∧ t.pending = s.pending ∧ t.ckpt = s.ckpt ∧
    t.hostOut = s.hostOut ++ [⟨s.waitCount, s.device.ckptd.toNat, 320, .read⟩] ∧ t.device.ckptReads = s.device.ckptReads ++ [s.waitCount]) ∧
  (∀ (s : State) v w, v < 2048 → HostWrites s (0x120000C + 16 * v) w → ∃ t, exec .registerWrite s = .next t ∧ t.cores = s.cores ∧ t.phys = s.phys ∧
    t.device.msixMask.getLsbD v = w.getLsbD 0 ∧ (∀ u, u ≠ v → t.device.msixMask.getLsbD u = s.device.msixMask.getLsbD u) ∧
    (w.getLsbD 0 = true → t.msix = s.msix ∧ t.device.msixPend = s.device.msixPend) ∧
    (w.getLsbD 0 = false → t.device.msixPend.getLsbD v = false ∧
      t.msix = s.msix ++ (if s.device.msixPend.getLsbD v then [v] else []))) ∧
  (∀ (s : State) v, v < 2048 → let t := s.raiseMsix v
    if s.device.msixMask.getLsbD v then t.msix = s.msix ∧ t.device.msixPend.getLsbD v = true
    else t.msix = s.msix ++ [v] ∧ t.device = s.device) ∧
  (∀ (s : State) i, i < 64 → s.barRead (0x1208000 + 4 * i) = (s.device.msixPend >>> (32 * i)).setWidth 32) ∧
  (∀ (s : State) off bs, Performs s (.bar2Access true off bs) → bs ≠ [] → off + bs.length ≤ 2 ^ 36 →
    (s.barReaches (s.barBase.toNat + off) bs.length = true → exec .bar2Access s = .next (s.writeFrame (s.barBase.toNat + off) bs)) ∧
    (s.barReaches (s.barBase.toNat + off) bs.length = false → exec .bar2Access s = .next { s with barAnswers := s.barAnswers ++ [none] })) ∧
  (∀ (s : State) off bs, Performs s (.bar2Access false off bs) → bs ≠ [] → off + bs.length ≤ 2 ^ 36 →
    (s.barReaches (s.barBase.toNat + off) bs.length = true → s.rangePoisoned (s.barBase.toNat + off) bs.length = false →
      exec .bar2Access s = .next { s with barAnswers := s.barAnswers ++ [some (s.physBytes (s.barBase.toNat + off) bs.length)] }) ∧
    (s.barReaches (s.barBase.toNat + off) bs.length = false → exec .bar2Access s = .next { s with barAnswers := s.barAnswers ++ [none] })) ∧
  (∀ (s : State) pa bs, s.poison = [] → s.writeFrame pa bs = s.setPhysBytes pa bs)

/-- R366, R372, R376, R377: the descriptor comes from the host at a request's read; a bad one ends a checkpoint with CKSTAT 3 at once; a good one stops dispatch and pre-empts every group that is live; with every
group at rest the slices write their dirty lines back, and the records of the
pages and the images, in order, and an end record for each port are streamed to the ports in turn, the K of each page sent cleared; once every target has acknowledged, which is an
outside input, the checkpoint ends with 2, and a fault of a port or a target ends it with 3 (log 26).
Where the spec leaves it open, the model's choices are those of log 26, 27 and 46. -/
def Sys2Proof.Claims.Checkpoints : Prop :=
  (∀ (s : State) desc, Performs s (.ckpt desc) → s.device.ckptReads = [] → exec .ckpt s = .next s) ∧
  (∀ (s : State) desc, Performs s (.ckpt desc) → s.device.ckptReads ≠ [] → s.ckpt = none → s.firmware.role = .standby →
    (s.ckptTargets desc = none → exec .ckpt s = .next
      { s with device := { s.device with ckptReads := s.device.ckptReads.drop 1, ckstat := 3#4 } }) ∧
    (∀ ts, s.ckptTargets desc = some ts → ∃ t, exec .ckpt s = .next t ∧ t.device.ck = true ∧ t.device.ckstat = 1#4 ∧ t.ckpt.isSome = true ∧ t.ckpt.map (·.ports) = some ts ∧
      t.device.ckcount = s.device.ckcount + 1#16 ∧
      (∀ g, (s.groupAt g).state = .running → (g, s.groupAt g) ∈ s.groups → .preempt g ∈ t.pending) ∧ t.cores = s.cores ∧ t.phys = s.phys ∧
      t.groups = s.groups)) ∧
  (∀ (s : State) ck, Performs s (.checkpointComplete false) → s.ckpt = some ck →
    ∃ t, exec .checkpointComplete s = .next t ∧ CkptEnds t 3#4 ∧ t.cores = s.cores ∧ t.phys = s.phys ∧ t.groups = s.groups) ∧
  (∀ (s : State) ck, Performs s (.checkpointComplete true) → s.ckpt = some ck → ck.streamed = true →
    ∃ t, exec .checkpointComplete s = .next t ∧ CkptEnds t 2#4 ∧ t.cores = s.cores ∧ t.phys = s.phys ∧ t.groups = s.groups) ∧
  (∀ (s : State) ck, Performs s (.checkpointComplete true) → s.ckpt = some ck → s.ckptReady = true →
    ∃ t, exec .checkpointComplete s = .next t ∧
      ((t.ckpt.any (·.streamed) = true ∧ t.device.ckstat = s.device.ckstat) ∨ CkptEnds t 3#4)) ∧
  (∀ (s : State) ck p, Performs s (.checkpointComplete true) → s.ckpt = some ck → s.ckptReady = true →
    (∀ e ∈ s.contexts, e.2.state = .free ∨ e.2.state = .terminated) → ck.ports = [p] → s.portServes p.port = true → p.written + 64 ≤ p.limit →
    ∃ t, exec .checkpointComplete s = .next t ∧
      t.ckpt = some { ck with ports := [{ p with written := p.written + 64 }], streamed := true } ∧ t.device = s.device ∧
      t.cores = s.flushLines.cores ∧ t.phys = s.flushLines.phys) ∧
  (∀ (s : State) ck, Performs s (.checkpointComplete true) → s.ckpt = some ck → ck.streamed = false → s.ckptReady = false →
    exec .checkpointComplete s = .next s) ∧
  (∀ (s : State) ck, Performs s (.checkpointComplete true) → s.ckpt = some ck → s.ckptReady = true →
    let u := s.flushLines
    exec .checkpointComplete s = .next (State.stream 0
      (((s.contexts.filter fun e => e.2.state != .free && e.2.state != .terminated).map (·.1)).flatMap (u.ckptRecords ck.full) ++
        ck.ports.map fun _ => ⟨4, 0, 0, [], none⟩) ck u)) ∧
  (∀ (s : State) full ctx, let rs := s.ckptRecords full ctx
    (∀ l bs, l ∈ s.leaves ctx → (full = true ∨ bits l.raw 20 1 = 1) → s.pageBytes ctx l = some bs → ⟨1, ctx, l.base, bs, some l⟩ ∈ rs) ∧
    (∀ r ∈ rs, r.kind = 1 → ∃ l ∈ s.leaves ctx, r.leaf = some l ∧ r.where_ = l.base ∧ s.pageBytes ctx l = some r.data) ∧
    (∀ g k, g ∈ s.savedOf ctx → k ∈ (s.groupAt g).banks.map (·.1) →
      ∃ r ∈ rs, r.ctx = ctx ∧ r.where_ = k / 2048 * 2 ^ 24 + k % 2048 ∧ r.leaf = none ∧ r.data.length = 0x90000 ∧
        (if k ∈ s.spilledOf ctx then r.kind = 3 else r.kind = 2 ∧ r.data = s.imageBytes ctx k))) ∧
  (∀ (s : State) ctx (l : Leaf), (l.state = 1 → s.pageBytes ctx l = some (List.replicate l.size 0#8)) ∧
    (l.state ≠ 1 → (l.state = 5 ∨ 3 ≤ l.kind) → s.pageBytes ctx l = none) ∧
    (l.kind ≤ 1 → l.state ≠ 1 → l.state ≠ 2 → l.state ≠ 5 → s.pageBytes ctx l = some (s.phys.bytes l.frame l.size))) ∧
  (∀ (s : State) (ck : Ckpt) j (r : CkptRecord) p, ck.ports[j % ck.ports.length]? = some p → r.kind ≠ 4 →
    (s.portServes p.port = true → p.written + 64 + r.data.length ≤ p.limit → ∃ u, s.sendRecord ck j r =
        some ({ ck with ports := ck.ports.set (j % ck.ports.length) { p with written := p.written + 64 + r.data.length } }, u) ∧
      u.fabricOut = s.fabricOut ++ [(p.part, s.detours.contains p.part,
        .record p.port 60 (p.base + p.written) (r.header s.device.ckcount.toNat ck.tag ++ r.data))] ∧ u.cores = s.cores ∧
      (r.leaf = none → u.phys = s.phys) ∧ (∀ l, r.leaf = some l → u.phys = (s.writeLeaf l (setBits l.raw 20 1 0)).phys)) ∧
    ((s.portServes p.port = false ∨ p.limit < p.written + 64 + r.data.length) → s.sendRecord ck j r = none)) ∧
  (∀ (s : State) (ck : Ckpt) j (r : CkptRecord) rs,
    (∀ ck' u, s.sendRecord ck j r = some (ck', u) → State.stream j (r :: rs) ck s = State.stream (j + 1) rs ck' u) ∧
    (s.sendRecord ck j r = none → CkptEnds (State.stream j (r :: rs) ck s) 3#4)) ∧
  (∀ (r : CkptRecord) n tag, (r.header n tag).length = 64 ∧ (r.header n tag).take 4 = leBytes 4 r.kind ∧
    ((r.header n tag).drop 8).take 8 = leBytes 8 r.where_ ∧ ((r.header n tag).drop 16).take 8 = leBytes 8 r.data.length ∧
    ((r.header n tag).drop 24).take 8 = leBytes 8 tag.toNat)

/-- R368, R372, R373: an image that arrives while FEATURE 11 is accepted and no update or checkpoint runs is loaded; its signature, state tables and layouts are
checked in that order; takeover replaces the active image by it; a measurement request is answered, or held while the import runs.
Where the spec leaves it open, the model's choices are those of log 27. -/
def Sys2Proof.Claims.LiveUpdates : Prop :=
  (∀ (s : State) im, Performs s (.imageReceived im) → s.firmware.role = .standby →
    (s.feature 11 = false → ∃ t, exec .imageReceived s = .next t ∧ t.firmware = { s.firmware with update := .refused } ∧ t.cores = s.cores) ∧
    (s.feature 11 = true → s.ckpt = none → ∃ t, exec .imageReceived s = .next t ∧
      t.firmware = { s.firmware with role := .loading, image := some im } ∧ t.cores = s.cores)) ∧
  (∀ (s : State) im, s.firmware.role = .loading → s.firmware.image = some im →
    let fails (u : UpdateStatus) : Prop := ∃ t, exec .imageBooted s = .next t ∧ t.firmware.role = .standby ∧ t.firmware.image = none ∧
      t.firmware.update = u ∧ t.firmware.active = s.firmware.active ∧ t.cores = s.cores ∧ t.phys = s.phys
    (im.sigOk = false → fails .signature) ∧
    (im.sigOk = true → s.firmware.version ∉ im.tables → fails .stateVersion) ∧
    (im.sigOk = true → s.firmware.version ∈ im.tables → (∃ l ∈ s.savedLayouts, l ∉ im.layouts) → fails .handoverLayout) ∧
    (im.sigOk = true → s.firmware.version ∈ im.tables → (∀ l ∈ s.savedLayouts, l ∈ im.layouts) →
      exec .imageBooted s = .next { s with firmware := { s.firmware with role := .importing } })) ∧
  (∀ s : State, s.firmware.role = .importing → ∃ t, exec .importTimeout s = .next t ∧ t.firmware.role = .standby ∧ t.firmware.image = none ∧
    t.firmware.update = .timeout ∧ t.firmware.active = s.firmware.active ∧ t.cores = s.cores ∧ t.phys = s.phys) ∧
  (∀ (s : State) im, s.firmware.role = .importing → s.firmware.image = some im → s.atBoundaries = true → s.firmware.version ∈ im.tables →
    (∀ l ∈ s.savedLayouts, l ∈ im.layouts) → ∃ t, exec .importComplete s = .next t ∧ t.firmware.role = .standby ∧ t.firmware.update = .done ∧
      t.firmware.active = im.digest ∧ t.firmware.prior = s.firmware.active ∧ t.firmware.seq = s.firmware.seq + 1#64 ∧
      t.records.handovers = (if s.records.handovers < 2 ^ 64 - 1 then s.records.handovers + 1 else 2 ^ 64 - 1) ∧ t.firmware.heldSpdm = 0 ∧
      t.firmware.spdmOut.length = s.firmware.spdmOut.length + s.firmware.heldSpdm ∧ t.cores = s.cores ∧ t.phys = s.phys) ∧
  (∀ s : State, exec .spdmRequest s = .next { s with firmware :=
    if s.firmware.role = .importing then { s.firmware with heldSpdm := s.firmware.heldSpdm + 1 }
    else { s.firmware with spdmOut := s.firmware.spdmOut ++ [s.measures] } }) ∧
  (∀ s : State, s.measures.active = s.firmware.active ∧ s.measures.prior = s.firmware.prior ∧ s.measures.version = s.firmware.version ∧
    s.measures.seq = s.firmware.seq ∧ s.measures.feats = s.feats ∧ s.measures.second = (s.firmware.second != s.firmware.standbyServes)) ∧
  (∀ (s : State) r, Performs s (.pldmRequest r) → exec .pldmRequest s = .next
    { s with firmware := { s.firmware with pldmOut := s.firmware.pldmOut ++ [(r, s.firmware.standbyServes, s.lifetime, s.firmware.sensors)] } }) ∧
  (∀ (s : State) rail x die y, Performs s (.sensed [(rail, x)] [(die, y)]) → exec .pldmRequest s = .next
    { s with firmware := { s.firmware with sensors := ⟨s.firmware.sensors.rails.put rail x, s.firmware.sensors.temps.put die y⟩ } }) ∧
  (∀ s : State, exec .activeComplexStopsAnswering s = .next { s with firmware := { s.firmware with standbyServes := true } })

/-- R375, R378, R379: records go to flash every ten minutes and before power goes, a minute's measures go to the histograms, and an abrupt loss of power drops what was counted since; a limit lowers its die's
clock, to 0.8 GHz at least, and pre-empts the group of lowest priority when the excess persists; a droop stop is counted.
Where the spec leaves it open, the model's choices are those of log 30 and 32. -/
def Sys2Proof.Claims.RecordsAndPower : Prop :=
  (∀ s : State, (∀ h v, ¬ Performs s (.minutePassed h v)) → ∃ t, exec .recordWrite s = .next t ∧ t.records.tenMinutes = (if s.records.tenMinutes < 2 ^ 64 - 1 then s.records.tenMinutes + 1 else 2 ^ 64 - 1) ∧ t.flash = t.records ∧
    t.flash.causes = s.counters ∧ t.cores = s.cores ∧ t.phys = s.phys) ∧
  (∀ (s : State) h v, Performs s (.minutePassed h v) → ∃ t, exec .recordWrite s = .next t ∧ t.flash = s.flash ∧
    t.records.tenMinutes = s.records.tenMinutes ∧ t.cores = s.cores ∧ t.phys = s.phys ∧
    (∀ die x, h = [(die, x)] → t.records.heat = s.records.heat.tally (16 * die + min 15 x)) ∧
    (∀ rail x, v = [(rail, x)] → t.records.supply = s.records.supply.tally (16 * rail + min 15 x))) ∧
  (∀ s : State, ∃ t, exec .powerOff s = .next t ∧ t.flash = { s.records with causes := s.counters } ∧ t.device.state = 0#4 ∧ t.cores = [] ∧
    t.phys = [] ∧ t.contexts = [] ∧ t.groups = []) ∧
  (∀ s : State, ∃ t, exec .abruptLossOfPower s = .next t ∧ t.flash = s.flash ∧ t.device.state = 0#4 ∧ t.cores = [] ∧ t.phys = []) ∧
  (∀ (s : State) rail, rail < 8 → Performs s (.powerLimit rail false) →
    ∃ t, exec .powerLimit s = .next t ∧ t.clockOf rail = (if 8 < s.clockOf rail then s.clockOf rail - 1 else s.clockOf rail) ∧
      (∀ d, d ≠ rail → t.clockOf d = s.clockOf d) ∧ t.cores = s.cores ∧ t.phys = s.phys ∧ t.pending = s.pending) ∧
  (∀ (s : State) rail g, rail < 8 → Performs s (.powerLimit rail true) → (s.victimGroups rail).head? = some g →
    exec .powerLimit s = .next { s with counters := s.counters.tally Cause.powerLimit.code, pending := s.pending ++ [.preempt g] }) ∧
  (∀ (s : State) die g, Performs s (.thermalLimit die true) → (s.victimGroups die).head? = some g →
    exec .thermalLimit s = .next { s with counters := s.counters.tally Cause.thermalLimit.code, pending := s.pending ++ [.preempt g] }) ∧
  (∀ (s : State) die, Performs s (.thermalLimit die false) →
    ∃ t, exec .thermalLimit s = .next t ∧ t.clockOf die = (if 8 < s.clockOf die then s.clockOf die - 1 else s.clockOf die) ∧
      t.cores = s.cores ∧ t.phys = s.phys ∧ t.pending = s.pending) ∧
  (∀ (s : State) die, Performs s (.droopStop die) → exec .droopStop s = .next
    { s with counters := s.counters.tally Cause.droopStop.code, records := { s.records with droops := s.records.droops.tally die } })

/-! ## The instructions of tasks, messages, queues and transfers complete -/

/-- R77, R169, R171 to R175, R181, R186, R188, R191 to R207, R309, R344 to R350, R356: under conditions on the state and the operands alone
each of these instructions answers a next state with its own effect: mfsCpGo, mfsGpGo, cptest, cpwait, cpcancel, sync, halt, haltr, done, cDone,
frinit, spawn, sendam, hret, cHret, send, enq, rpost, rcancel, rprobe, mfsRq, mfsBq.
Where the spec leaves it open, the model's choices are those of log 11, 12, 23 and 35. -/
def Obligations.TaskAndTransferFormsComplete : Prop :=
  (∀ (d : BitVec 4) (s : State) slot, Acts s d → Settled s → s.core.freeSlot = some slot → s.task.copyTrap = none →
    ∃ u : State, exec (.mfsCpGo d) s = .next (u.retire 4#32) ∧ (u.core.slotAt slot).state = .active ∧
      u.x d = (if d = 0#4 then 0#32 else BitVec.ofNat 32 (((s.core.slotAt slot).gen + 1#8).toNat * 256 + slot))) ∧
  (∀ (d : BitVec 4) (s : State) slot, Acts s d → Settled s → s.core.freeSlot = some slot →
    s.task.gatherTrap s.core.gsize s.core.rank = none →
    ∃ u : State, exec (.mfsGpGo d) s = .next (u.retire 4#32) ∧ (u.core.slotAt slot).state = .active ∧
      u.x d = (if d = 0#4 then 0#32 else BitVec.ofNat 32 (((s.core.slotAt slot).gen + 1#8).toNat * 256 + slot))) ∧
  (∀ (d a : BitVec 4) (s : State), InTask s → Clear s [a, d] [] → (s.x a).toNat < 65536 → s.task.held = [] → idStatus s.core (s.x a) = 3#32 →
    exec (.cptest d a) s = .next (((s.modT fun t => { t with waiting := false }).setX d 3#32).retire 4#32) ∧
    exec (.cpwait d a) s = .next (((s.modT fun t => { t with waiting := false }).setX d 3#32).retire 4#32) ∧
    exec (.cpcancel d a) s = .next (((s.modT fun t => { t with waiting := false }).setX d 3#32).retire 4#32)) ∧
  (∀ (d a : BitVec 4) (s : State) st, InTask s → Clear s [a, d] [] → (s.x a).toNat < 65536 → s.task.held = [] →
    idStatus s.core (s.x a) = st → (st = 1#32 ∨ st = 2#32) → (s.core.slotAt ((s.x a).toNat % 256)).tc = (s.who.ctx == .tc1) →
    let gives : State := (((s.dropL1 s.who.core).modT fun t => { t with waiting := false }).setX d st).retire 4#32
    exec (.cptest d a) s = .next gives ∧ exec (.cpwait d a) s = .next gives ∧ exec (.cpcancel d a) s = .next gives) ∧
  (∀ (d a : BitVec 4) (s : State), InTask s → Clear s [a, d] [] → (s.x a).toNat < 65536 → s.task.held = [] → idStatus s.core (s.x a) = 0#32 →
    exec (.cptest d a) s = .next (((s.modT fun t => { t with waiting := false }).setX d 0#32).retire 4#32)) ∧
  (∀ (f : BitVec 4) (s : State), InTask s → exec (.sync 0#4) s = .next (s.jump (s.pc + 4#32)) ∧
    (Clear s [f] [] → f ≠ 0#4 → s.frameValid s.core.group (s.x f) = true → frameOwner (s.x f) = s.who.core →
      s.frameCount (s.x f) = 0#32 → exec (.sync f) s = .next ((s.dropL1 s.who.core).jump (s.pc + 4#32)))) ∧
  (∀ (s : State) (k : BitVec 2), InTask s → MayEnd s → (s.core.task (otherTask s.who.ctx)).run ≠ .left → s.kernelOf s.core.group k.toNat ≠ none →
    ∃ t u, exec .halt s = .next t ∧ (t.taskAt s.who).run = .left ∧ exec (.haltr k) s = .next u ∧ (u.taskAt s.who).run = .left ∧
      (u.coreAt s.who.core).succ = some k) ∧
  (∀ (s : State), InTask s → MayEnd s → ∃ t, exec .done s = .next t ∧ exec .cDone s = .next t ∧ (t.taskAt s.who).run = .free) ∧
  (∀ (d a : BitVec 4) (s : State), InTask s → Ready s [a, d] → (s.x a).toNat % 16 = 0 → (s.x a).toNat + 80 ≤ 0x7000 →
    ∃ t, exec (.frinit d a) s = .next t ∧ (t.coreAt s.who.core).lm.word ((s.x a).toNat + 8) = 1#32 ∧
      t.xAt s.who d = (if d = 0#4 then 0#32 else BitVec.ofNat 32 (s.who.core * 2 ^ 13 + (s.x a).toNat / 4))) ∧
  (∀ (o : BitVec 16) (f : BitVec 4) (s : State), InTask s → Clear s (carriedWith f) [] → s.core.dq.held + s.core.dq.reserved.toNat < 32 →
    let target := s.pc + 2#32 * o.signExtend 32
    exec (.spawn o 0#4) s = .next ((s.modCore s.who.core (pushed ({ s.task with frame := 0#32, nf := true }.toRec 0 false target))).retire 4#32) ∧
    (f ≠ 0#4 → s.frameValid s.core.group (s.x f) = true → frameOwner (s.x f) = s.who.core → s.frameCount (s.x f) ≠ 0xFFFFFFFF#32 →
      exec (.spawn o f) s = .next (((s.setLocalWord s.who.core (frameAddr (s.x f)) (s.frameCount (s.x f) + 1#32)).modCore s.who.core
        (pushed ({ s.task with frame := s.x f, nf := false }.toRec 0 false target))).retire 4#32))) ∧
  (∀ (c d : BitVec 4) (s : State), InTask s → Ready s [d, c, 4#4, 5#4, 6#4, 7#4] → 16 ≤ (s.x c).toNat → (s.x c).toNat < 64 →
    NamesCore (s.x d) → s.task.ocnt.msgs < 63 → ∃ (u : State) (m : AmMsg),
      exec (.sendam c d) s = .next ((u.send s.core.group s.who.core m.dst (.mailboxArrival m)).retire 4#32) ∧ m.dst = (s.x d).toNat) ∧
  (∀ (s : State), s.inHandler = true → s.core.hd.unsent = 0 →
    ∃ t, exec .hret s = .next t ∧ exec .cHret s = .next t ∧ (t.coreAt s.who.core).hd.running = false) ∧
  (∀ (b d a : BitVec 4) (s : State) slot, InTask s → Ready s [a, b, d] → SendGoes s b d a slot → (sendHere s b d a).sendLoc = true →
    (s.x a).toNat < 1024 → s.task.waiting = false → s.channelHeld s.who.core (sendHere s b d a) = false →
    (headerHere s b d a).bind s.headerFault = none →
    ∃ (t : State) (h : Header), exec (.send b d a) s = .next t ∧ .sendHeader h ∈ t.pending ∧
      h.dctx = (s.x a).toNat ∧ (slotOf t s.who.core slot).phase = .asking ∧ (t.taskAt s.who).run = .stalled .answer) ∧
  (∀ (b d a : BitVec 4) (s : State), InTask s → Ready s [a, b, d] → Settled s → (s.x a).toNat < 4096 → (s.x b).toNat ≤ 0x7FC0 →
    (s.x b).toNat % 4 = 0 → (s.queueAt (s.x a).toNat).ctxid.toNat = s.core.ctxid →
    ∃ t m, exec (.enq b d a) s = .next t ∧ t.pending = s.pending ++ [.enqRequest m] ∧ (t.taskAt s.who).run = .stalled .answer ∧
      m.queue = (s.x a).toNat ∧ m.img = s.core.lm.rec (s.x b).toNat) ∧
  (∀ (d a : BitVec 4) (s : State) e, InTask s → Ready s [a, d] → Settled s → s.rpostTrap (s.x a) (descriptorAt s (s.x a)) = none →
    s.freeEntry s.core.ctxid = some e → ∃ u : State, exec (.rpost d a) s = .next (u.retire 4#32) ∧
      u.x d = (if d = 0#4 then 0#32 else
        BitVec.ofNat 32 (((SMap.get {} (s.claspAt s.core.ctxid).list e : Receive).gen + 1#4).toNat * 4096 + e))) ∧
  (∀ (d a : BitVec 4) (s : State), InTask s → Ready s [a, d] → (s.x a).toNat < 65536 →
    (SMap.get {} (s.claspAt s.core.ctxid).list ((s.x a).toNat % 4096) : Receive).words = [] →
    exec (.rcancel d a) s = .next ((s.setX d 3#32).retire 4#32)) ∧
  (∀ (d a : BitVec 4) (s : State), InTask s → Ready s [a, d] → (s.x a).toNat % 64 = 0 → (s.x a).toNat < 0x8000 →
    (s.claspAt s.core.ctxid).queue = [] → exec (.rprobe d a) s = .next ((s.setX d 0#32).retire 4#32)) ∧
  (∀ (d : BitVec 4) (s : State), Acts s d →
    ((s.claspAt s.core.ctxid).rq = [] → exec (.mfsRq d) s = .next ((s.setX d 0xFFFFFFFF#32).retire 4#32)) ∧
    (bezel s.who.core = false → exec (.mfsBq d) s = .next ((s.setX d 0xFFFFFFFF#32).retire 4#32)))

/-! ## Statements of several parts -/

/-- R27, R62, R78 to R81: ScalarWords, ScalarResults and BitCounts. -/
def Obligations.ScalarResultsAndWords : Prop := Claims.ScalarWords ∧ Claims.ScalarResults ∧ Claims.BitCounts

/-- R78 to R81, R85: ScalarFrame and RetireAdvances. -/
def Obligations.ScalarFrameAndRetirement : Prop := Claims.ScalarFrame ∧ Claims.RetireAdvances

/-- R54, R62, R63, R82 to R85: BranchesAndJumps, HardwareLoops and LoopBack. -/
def Obligations.ControlFlow : Prop := Claims.BranchesAndJumps ∧ Claims.HardwareLoops ∧ Claims.LoopBack

/-- R62, R89, R236: LocalLoads and LocalLoadFrame. -/
def Obligations.LocalLoadsAndFrame : Prop := Claims.LocalLoads ∧ Claims.LocalLoadFrame

/-- R62, R88, R89, R236: LocalStores and LocalAccessFaults. -/
def Obligations.LocalStoresAndFaults : Prop := Claims.LocalStores ∧ Claims.LocalAccessFaults

/-- R90 to R92: FullEmptyCompletes and FullEmptyWaits. -/
def Obligations.FullEmptyLocal : Prop := Claims.FullEmptyCompletes ∧ Claims.FullEmptyWaits

/-- R73, R74, R93, R96, R97, R185, R238: RemoteAccessesIssue and AtomicsIssue. -/
def Obligations.RemoteIssue : Prop := Claims.RemoteAccessesIssue ∧ Claims.AtomicsIssue

/-- R91 to R94, R96, R182, R285: RemoteAccessesPerform and RemoteFullEmpty. -/
def Obligations.RemotePerform : Prop := Claims.RemoteAccessesPerform ∧ Claims.RemoteFullEmpty

/-- R73, R74, R93, R97, R104, R107, R182: RepliesArrive and AcknowledgementsArrive. -/
def Obligations.RemoteReplies : Prop := Claims.RepliesArrive ∧ Claims.AcknowledgementsArrive

/-- R52, R53, R61, R278: TrapEntry and StepOfBadFetch. -/
def Obligations.TrapEntryAndFetchFaults : Prop := Claims.TrapEntry ∧ Claims.StepOfBadFetch

/-- R53, R61, R108, R109, R278: SoftwareTraps and TrapReturn. -/
def Obligations.SoftwareTrapsAndReturn : Prop := Claims.SoftwareTraps ∧ Claims.TrapReturn

/-- R72, R98, R100, R105, R108, R110: HintsAndFences and TensorMapSlots. -/
def Obligations.HintsFencesAndMaps : Prop := Claims.HintsAndFences ∧ Claims.TensorMapSlots

/-- R49, R50, R86, R106, R238: SpecialReads and SpecialWrites. -/
def Obligations.SpecialRegisters : Prop := Claims.SpecialReads ∧ Claims.SpecialWrites

/-- R107, R144, R146, R200, R202, R264, R266, R280 to R282: WaitsAndPops and CoreEvents. -/
def Obligations.WaitsPopsAndCoreEvents : Prop := Claims.WaitsAndPops ∧ Claims.CoreEvents

/-- R60, R73, R113, R115, R116, R121 to R123, R128, R130, R131, R134, R136: PredicateResults, Bitmaps and VectorFormsComplete. -/
def Obligations.PredicatesAndBitmaps : Prop := Claims.PredicateResults ∧ Claims.Bitmaps ∧ Claims.VectorFormsComplete

/-- R44, R115, R121 to R123: SelectsAndCompressions and LaneReductions. -/
def Obligations.SelectsAndReductions : Prop := Claims.SelectsAndCompressions ∧ Claims.LaneReductions

/-- R99, R102 to R104, R406: GlobalLoadsAndStores and GlobalAtomics. -/
def Obligations.GlobalAccesses : Prop := Claims.GlobalLoadsAndStores ∧ Claims.GlobalAtomics

/-- R99 to R102, R134 to R136, R260, R262, R267, R338, R406: GlobalAccessFaults, PageTrapsAtIssue, VectorGlobalAccesses and
VectorGlobalFaults. -/
def Obligations.GlobalFaultsAndVectors : Prop := Claims.GlobalAccessFaults ∧ Claims.PageTrapsAtIssue ∧ Claims.VectorGlobalAccesses ∧ Claims.VectorGlobalFaults

/-- R262, R267, R272 to R274: PageMeetings and PrefetchAndDiscard. -/
def Obligations.PageMeetingsAndHints : Prop := Claims.PageMeetings ∧ Claims.PrefetchAndDiscard

/-- R211, R261, R267 to R270, R282: PagerEvents and MigrationHostAndVictims. -/
def Obligations.PagerAndMigration : Prop := Claims.PagerEvents ∧ Claims.MigrationHostAndVictims

/-- R145, R168, R169, R171, R172, R174 to R180, R188: FramesAndSpawn, TasksEnd and DequeAndSteals. -/
def Obligations.TasksAndDeques : Prop := Claims.FramesAndSpawn ∧ Claims.TasksEnd ∧ Claims.DequeAndSteals

/-- R140, R143, R144, R146, R151 to R159, R162: ArrayCommandsRun, TilesMove and ProductsStream. -/
def Obligations.ArrayCommandsRunToTheirEnds : Prop := Claims.ArrayCommandsRun ∧ Claims.TilesMove ∧ Claims.ProductsStream

/-- R138, R142 to R145, R147, R149, R150: SlotsAndLeases and ArrayCommandsIssue. -/
def Obligations.LeasesAndArrayIssue : Prop := Claims.SlotsAndLeases ∧ Claims.ArrayCommandsIssue

/-- R191, R192, R199, R203, R207: TransferLaunch and TransferStatus. -/
def Obligations.TransferLaunchAndStatus : Prop := Claims.TransferLaunch ∧ Claims.TransferStatus

/-- R196, R198, R201, R204, R207 to R209: ChunkEvents and RowEvents. -/
def Obligations.TransferProgress : Prop := Claims.ChunkEvents ∧ Claims.RowEvents

/-- R192, R201, R203, R213, R282, R335: TransferStops and CancelledTransfers. -/
def Obligations.TransferEnds : Prop := Claims.TransferStops ∧ Claims.CancelledTransfers

/-- R214 to R218, R221 to R227: BarrierRecords and BarrierInstructions. -/
def Obligations.BarriersAndTheirRecords : Prop := Claims.BarrierRecords ∧ Claims.BarrierInstructions

/-- R2, R292, R293, R366, R367, R369 to R371, R375, R378, R379: DeviceRegisters and RecordsAndPower. -/
def Obligations.DeviceAndItsRecords : Prop := Claims.DeviceRegisters ∧ Claims.RecordsAndPower

/-- R296 to R302, R314 to R316, R322 to R325: PacketsAreExamined and PacketsAct. -/
def Obligations.PacketsAreExaminedAndAct : Prop := Claims.PacketsAreExamined ∧ Claims.PacketsAct

/-- R276, R277, R282 to R291, R335, R336: GroupsArePreempted and SaveAreasAreWritten. -/
def Obligations.GroupsStopAndResume : Prop := Claims.GroupsArePreempted ∧ Claims.SaveAreasAreWritten

/-- R201, R215, R218, R219, R221, R226, R229 to R231: BarrierEvents and DisseminationBarriers. -/
def Obligations.BarrierProgress : Prop := Claims.BarrierEvents ∧ Claims.DisseminationBarriers

/-- R344 to R348: SendIssues and SendsGoOn. -/
def Obligations.ClaspSends : Prop := Claims.SendIssues ∧ Claims.SendsGoOn

/-- R345, R351, R353 to R357: HeadersAreAnswered and LandingsComplete. -/
def Obligations.ClaspHeadersAndLandings : Prop := Claims.HeadersAreAnswered ∧ Claims.LandingsComplete

/-- R75, R91, R94, R176, R182, R186, R188, R268, R271, R282, R318: AnswersAndDeliveries and CoresAndTasksLeave. -/
def Obligations.MessagesAndTasksLeave : Prop := Claims.AnswersAndDeliveries ∧ Claims.CoresAndTasksLeave

/-- R293 to R295, R304 to R307: QueueCommands and Scheduling. -/
def Obligations.QueueCommandsAndScheduling : Prop := Claims.QueueCommands ∧ Claims.Scheduling

/-- R308, R309, R323, R324: Enqueues and Triggers. -/
def Obligations.EnqueuesAndTriggers : Prop := Claims.Enqueues ∧ Claims.Triggers

/-- R94, R189, R320 to R322, R335: GroupsTerminate and GroupsAreReleased. -/
def Obligations.GroupsEnd : Prop := Claims.GroupsTerminate ∧ Claims.GroupsAreReleased

/-- R229, R257 to R261, R277, R280, R311 to R313, R316, R335, R371: ContextCommands and MappingAndBinaryCommands. -/
def Obligations.HostCommands : Prop := Claims.ContextCommands ∧ Claims.MappingAndBinaryCommands

/-- R366, R368, R372, R373, R376, R377: Checkpoints and LiveUpdates. -/
def Obligations.CheckpointsAndUpdates : Prop := Claims.Checkpoints ∧ Claims.LiveUpdates
end

