-- ==== Sys2Proof/Laws/Memory.lean ====
section
/-! SUPPORT. Records by number and bytes by address: what is read after what was written, and the canonical form of memory. -/

namespace Sys2Proof.Machine

variable {α : Type}

/-! ## Records by number -/

@[simp] theorem SMap.find_put_same (k : Nat) (v : α) (m : SMap α) : (m.put k v).find k = some v := by
  induction m with
  | nil => simp [SMap.put, SMap.find]
  | cons e m ih =>
    obtain ⟨k', v'⟩ := e
    unfold SMap.put
    split
    · simp [SMap.find]
    · split
      · simp [SMap.find]
      · simp_all [SMap.find]

theorem SMap.find_put_other {k j : Nat} (h : k ≠ j) (v : α) (m : SMap α) : (m.put k v).find j = m.find j := by
  induction m with
  | nil => simp [SMap.put, SMap.find, h]
  | cons e m ih =>
    obtain ⟨k', v'⟩ := e
    unfold SMap.put
    split
    · subst_vars; simp [SMap.find, h]
    · split
      · simp [SMap.find, h]
      · simp [SMap.find, ih]

theorem SMap.find_put (k j : Nat) (v : α) (m : SMap α) : (m.put k v).find j = if k = j then some v else m.find j := by
  split
  · subst_vars; simp
  · exact SMap.find_put_other ‹_› v m

@[simp] theorem SMap.get_put_same (d : α) (k : Nat) (v : α) (m : SMap α) : SMap.get d (m.put k v) k = v := by
  simp [SMap.get]

theorem SMap.get_put_other (d : α) {k j : Nat} (h : k ≠ j) (v : α) (m : SMap α) :
    SMap.get d (m.put k v) j = SMap.get d m j := by simp [SMap.get, SMap.find_put_other h]

theorem SMap.get_put (d : α) (k j : Nat) (v : α) (m : SMap α) :
    SMap.get d (m.put k v) j = if k = j then v else SMap.get d m j := by
  split
  · subst_vars; simp
  · exact SMap.get_put_other d ‹_› v m

@[simp] theorem SMap.find_del_same (k : Nat) (m : SMap α) : (m.del k).find k = none := by
  induction m with
  | nil => rfl
  | cons e m ih =>
    obtain ⟨k', v'⟩ := e
    by_cases h : k' = k <;> simp_all [SMap.del, SMap.find]

theorem SMap.find_del_other {k j : Nat} (h : k ≠ j) (m : SMap α) : (m.del k).find j = m.find j := by
  induction m with
  | nil => rfl
  | cons e m ih =>
    obtain ⟨k', v'⟩ := e
    by_cases hk : k' = k
    · subst hk; simpa [SMap.del, SMap.find, h] using ih
    · simp only [SMap.del, List.filter_cons, bne_iff_ne, ne_eq, hk, not_false_eq_true, ↓reduceIte, SMap.find] at ih ⊢
      rw [ih]

@[simp] theorem SMap.get_del_same (d : α) (k : Nat) (m : SMap α) : SMap.get d (m.del k) k = d := by simp [SMap.get]

theorem SMap.get_del_other (d : α) {k j : Nat} (h : k ≠ j) (m : SMap α) : SMap.get d (m.del k) j = SMap.get d m j := by
  simp [SMap.get, SMap.find_del_other h]

/-! ## Bytes by address -/

@[simp] theorem Mem.byte_nil (a : Nat) : Mem.byte [] a = 0#8 := rfl

theorem Mem.byte_setByte (m : Mem) (a j : Nat) (b : Byte) : (m.setByte a b).byte j = if a = j then b else m.byte j := by
  unfold Mem.setByte Mem.byte
  by_cases hb : b = 0#8
  · subst hb
    by_cases h : a = j
    · subst h; simp
    · simp [h, SMap.get_del_other _ h]
  · simp [hb, SMap.get_put]

theorem Mem.byte_setBytes_out (bs : List Byte) (m : Mem) (a j : Nat) (h : j < a ∨ a + bs.length ≤ j) :
    (m.setBytes a bs).byte j = m.byte j := by
  induction bs generalizing m a with
  | nil => rfl
  | cons b bs ih =>
    simp only [List.length_cons] at h
    rw [Mem.setBytes, ih _ _ (by omega), Mem.byte_setByte, if_neg (by omega)]

theorem Mem.byte_setBytes_in (bs : List Byte) (m : Mem) (a i : Nat) (h : i < bs.length) :
    (m.setBytes a bs).byte (a + i) = bs[i] := by
  induction bs generalizing m a i with
  | nil => simp at h
  | cons b bs ih =>
    cases i with
    | zero => rw [Mem.setBytes, Nat.add_zero, Mem.byte_setBytes_out _ _ _ _ (by omega), Mem.byte_setByte]; simp
    | succ i =>
      have := ih (m.setByte a b) (a + 1) i (by simpa using h)
      rw [Mem.setBytes, show a + (i + 1) = a + 1 + i by omega, this]; simp

@[simp] theorem leBytes_length (n w : Nat) : (leBytes n w).length = n := by
  induction n generalizing w with
  | zero => rfl
  | succ n ih => simp [leBytes, ih]

theorem leNat_leBytes (n w : Nat) : leNat (leBytes n w) = w % 256 ^ n := by
  induction n generalizing w with
  | zero => simp [leBytes, leNat, Nat.mod_one]
  | succ n ih =>
    rw [leBytes, leNat, ih, BitVec.toNat_ofNat, show 256 ^ (n + 1) = 256 * 256 ^ n from Nat.pow_succ', Nat.mod_mul]

theorem Mem.bytes_setBytes (bs : List Byte) (m : Mem) (a : Nat) : (m.setBytes a bs).bytes a bs.length = bs := by
  apply List.ext_getElem (by simp [Mem.bytes])
  intro i h _
  simp only [Mem.bytes, List.length_map, List.length_range] at h
  simp [Mem.bytes, Mem.byte_setBytes_in _ _ _ _ h]

/-- A word read where it was written is the word (R5). -/
theorem Mem.word_setWord (m : Mem) (a : Nat) (w : Word) : (m.setWord a w).word a = w := by
  unfold Mem.word Mem.le Mem.setWord Mem.setLe
  have h := Mem.bytes_setBytes (leBytes 4 w.toNat) m a
  rw [leBytes_length] at h
  rw [h, leNat_leBytes]
  have := w.isLt
  rw [Nat.mod_eq_of_lt (by omega), BitVec.ofNat_toNat, BitVec.setWidth_eq]

/-- A byte outside the word written is as before. -/
theorem Mem.byte_setWord_out (m : Mem) (a j : Nat) (w : Word) (h : j < a ∨ a + 4 ≤ j) : (m.setWord a w).byte j = m.byte j :=
  Mem.byte_setBytes_out _ _ _ _ (by simpa using h)

theorem Mem.byte_clear (m : Mem) (lo n j : Nat) :
    (m.clear lo n).byte j = if lo ≤ j ∧ j < lo + n then 0#8 else m.byte j := by
  unfold Mem.byte SMap.get Mem.clear
  induction m with
  | nil => simp [SMap.find]
  | cons e m ih =>
    obtain ⟨k, v⟩ := e
    by_cases hk : lo ≤ k ∧ k < lo + n
    · simp only [List.filter_cons, hk, decide_true, Bool.and_self, Bool.not_true, Bool.false_eq_true, ↓reduceIte, SMap.find]
      rw [ih]
      by_cases hj : lo ≤ j ∧ j < lo + n
      · simp [hj]
      · have : k ≠ j := by rintro rfl; exact hj hk
        simp [hj, this]
    · have hk' : (!(decide (lo ≤ k) && decide (k < lo + n))) = true := by simp; omega
      simp only [List.filter_cons, hk', ↓reduceIte, SMap.find]
      by_cases hj : k = j
      · subst hj; simp [hk]
      · simp only [hj, ↓reduceIte]; exact ih

/-! ## The canonical form -/

/-- Every address of a list lies above a bound. -/
theorem Mem.canonical_cons (a : Nat) (b : Byte) (m : Mem) :
    Mem.canonical ((a, b) :: m) = true ↔ b ≠ 0#8 ∧ (∀ e ∈ m, a < e.1) ∧ Mem.canonical m = true := by
  induction m generalizing a b with
  | nil => simp [Mem.canonical]
  | cons e m ih =>
    obtain ⟨a', b'⟩ := e
    simp only [Mem.canonical, Bool.and_eq_true, bne_iff_ne, decide_eq_true_eq, List.mem_cons, forall_eq_or_imp]
    constructor
    · rintro ⟨⟨h1, h2⟩, h3⟩
      refine ⟨h1, ⟨h2, fun x hx => ?_⟩, h3⟩
      have := ((ih a' b').1 h3).2.1 x hx
      omega
    · rintro ⟨h1, ⟨h2, -⟩, h3⟩
      exact ⟨⟨h1, h2⟩, h3⟩

theorem Mem.canonical_filter (p : Host.Cell → Bool) (m : Mem) (h : Mem.canonical m = true) : Mem.canonical (m.filter p) = true := by
  induction m with
  | nil => rfl
  | cons e m ih =>
    obtain ⟨a, b⟩ := e
    obtain ⟨h1, h2, h3⟩ := (Mem.canonical_cons a b m).1 h
    rw [List.filter_cons]
    split
    · exact (Mem.canonical_cons _ _ _).2 ⟨h1, fun x hx => h2 x (List.mem_filter.1 hx).1, ih h3⟩
    · exact ih h3

theorem SMap.put_keys (k : Nat) (v : α) (m : SMap α) : ∀ e ∈ m.put k v, e.1 = k ∨ ∃ f ∈ m, f.1 = e.1 := by
  induction m with
  | nil => simp [SMap.put]
  | cons e m ih =>
    obtain ⟨k', v'⟩ := e
    unfold SMap.put
    split
    · intro x hx
      rcases List.mem_cons.1 hx with rfl | h
      · exact .inl rfl
      · exact .inr ⟨x, List.mem_cons_of_mem _ h, rfl⟩
    · split
      · intro x hx
        rcases List.mem_cons.1 hx with rfl | h
        · exact .inl rfl
        · exact .inr ⟨x, h, rfl⟩
      · intro x hx
        rcases List.mem_cons.1 hx with rfl | h
        · exact .inr ⟨_, List.mem_cons_self, rfl⟩
        · rcases ih x h with h | ⟨f, hf, hfe⟩
          · exact .inl h
          · exact .inr ⟨f, List.mem_cons_of_mem _ hf, hfe⟩

theorem Mem.canonical_put (a : Nat) (b : Byte) (hb : b ≠ 0#8) (m : Mem) (h : Mem.canonical m = true) :
    Mem.canonical (SMap.put a b m) = true := by
  induction m with
  | nil => simpa [SMap.put, Mem.canonical] using hb
  | cons e m ih =>
    obtain ⟨a', b'⟩ := e
    obtain ⟨h1, h2, h3⟩ := (Mem.canonical_cons a' b' m).1 h
    unfold SMap.put
    split
    · subst_vars; exact (Mem.canonical_cons _ _ _).2 ⟨hb, h2, h3⟩
    · split
      · refine (Mem.canonical_cons _ _ _).2 ⟨hb, fun x hx => ?_, h⟩
        rcases List.mem_cons.1 hx with rfl | hx
        · assumption
        · have := h2 x hx; omega
      · refine (Mem.canonical_cons _ _ _).2 ⟨h1, fun x hx => ?_, ih h3⟩
        rcases SMap.put_keys a b m x hx with h | ⟨f, hf, hfe⟩
        · omega
        · have := h2 f hf; omega

/-- Every operation on memory keeps the canonical form. -/
theorem Mem.canonical_setByte (a : Nat) (b : Byte) (m : Mem) (h : Mem.canonical m = true) : Mem.canonical (m.setByte a b) = true := by
  unfold Mem.setByte
  split
  · exact Mem.canonical_filter _ _ h
  · exact Mem.canonical_put a b ‹_› m h

theorem Mem.canonical_setBytes (bs : List Byte) (a : Nat) (m : Mem) (h : Mem.canonical m = true) :
    Mem.canonical (m.setBytes a bs) = true := by
  induction bs generalizing a m with
  | nil => exact h
  | cons b bs ih => exact ih _ _ (Mem.canonical_setByte a b m h)

theorem Mem.canonical_clear (m : Mem) (lo n : Nat) (h : Mem.canonical m = true) : Mem.canonical (m.clear lo n) = true :=
  Mem.canonical_filter _ _ h

theorem Mem.canonical_setLe (a n v : Nat) (m : Mem) (h : Mem.canonical m = true) : Mem.canonical (m.setLe a n v) = true :=
  Mem.canonical_setBytes _ _ _ h

theorem Mem.canonical_setWord (a : Nat) (w : Word) (m : Mem) (h : Mem.canonical m = true) : Mem.canonical (m.setWord a w) = true :=
  Mem.canonical_setBytes _ _ _ h

theorem Mem.canonical_setRec (a : Nat) (r : Rec) (m : Mem) (h : Mem.canonical m = true) : Mem.canonical (m.setRec a r) = true :=
  Mem.canonical_setBytes _ _ _ h

end Sys2Proof.Machine
end

