-- ==== Sys2Proof/Laws/State.lean ====
section
/-! SUPPORT. For each field of the state and each of its updates, that the update leaves the field as it was. -/

namespace Sys2Proof.Machine

variable (s : State)

/-! ## setCore -/

@[simp] theorem State.setCore_who (k : Nat) (c : Core) : (s.setCore k c).who = s.who := rfl
@[simp] theorem State.setCore_turn (k : Nat) (c : Core) : (s.setCore k c).turn = s.turn := rfl
@[simp] theorem State.setCore_now (k : Nat) (c : Core) : (s.setCore k c).now = s.now := rfl
@[simp] theorem State.setCore_pending (k : Nat) (c : Core) : (s.setCore k c).pending = s.pending := rfl
@[simp] theorem State.setCore_freeCount (k : Nat) (c : Core) : (s.setCore k c).freeCount = s.freeCount := rfl
@[simp] theorem State.setCore_waitCount (k : Nat) (c : Core) : (s.setCore k c).waitCount = s.waitCount := rfl
@[simp] theorem State.setCore_clusters (k : Nat) (c : Core) : (s.setCore k c).clusters = s.clusters := rfl
@[simp] theorem State.setCore_groups (k : Nat) (c : Core) : (s.setCore k c).groups = s.groups := rfl
@[simp] theorem State.setCore_nextGroup (k : Nat) (c : Core) : (s.setCore k c).nextGroup = s.nextGroup := rfl
@[simp] theorem State.setCore_contexts (k : Nat) (c : Core) : (s.setCore k c).contexts = s.contexts := rfl
@[simp] theorem State.setCore_binaries (k : Nat) (c : Core) : (s.setCore k c).binaries = s.binaries := rfl
@[simp] theorem State.setCore_queues (k : Nat) (c : Core) : (s.setCore k c).queues = s.queues := rfl
@[simp] theorem State.setCore_hwSlots (k : Nat) (c : Core) : (s.setCore k c).hwSlots = s.hwSlots := rfl
@[simp] theorem State.setCore_bindCount (k : Nat) (c : Core) : (s.setCore k c).bindCount = s.bindCount := rfl
@[simp] theorem State.setCore_launchCount (k : Nat) (c : Core) : (s.setCore k c).launchCount = s.launchCount := rfl
@[simp] theorem State.setCore_triggers (k : Nat) (c : Core) : (s.setCore k c).triggers = s.triggers := rfl
@[simp] theorem State.setCore_phys (k : Nat) (c : Core) : (s.setCore k c).phys = s.phys := rfl
@[simp] theorem State.setCore_faultSeq (k : Nat) (c : Core) : (s.setCore k c).faultSeq = s.faultSeq := rfl
@[simp] theorem State.setCore_counters (k : Nat) (c : Core) : (s.setCore k c).counters = s.counters := rfl
@[simp] theorem State.setCore_partAddr (k : Nat) (c : Core) : (s.setCore k c).partAddr = s.partAddr := rfl
@[simp] theorem State.setCore_fabricOut (k : Nat) (c : Core) : (s.setCore k c).fabricOut = s.fabricOut := rfl
@[simp] theorem State.setCore_msix (k : Nat) (c : Core) : (s.setCore k c).msix = s.msix := rfl
@[simp] theorem State.setCore_pagerAccs (k : Nat) (c : Core) : (s.setCore k c).pagerAccs = s.pagerAccs := rfl
@[simp] theorem State.setCore_parks (k : Nat) (c : Core) : (s.setCore k c).parks = s.parks := rfl
@[simp] theorem State.setCore_pagerAsks (k : Nat) (c : Core) : (s.setCore k c).pagerAsks = s.pagerAsks := rfl
@[simp] theorem State.setCore_quantum (k : Nat) (c : Core) : (s.setCore k c).quantum = s.quantum := rfl
@[simp] theorem State.setCore_pendCount (k : Nat) (c : Core) : (s.setCore k c).pendCount = s.pendCount := rfl
@[simp] theorem State.setCore_hwTurn (k : Nat) (c : Core) : (s.setCore k c).hwTurn = s.hwTurn := rfl
@[simp] theorem State.setCore_flight (k : Nat) (c : Core) : (s.setCore k c).flight = s.flight := rfl
@[simp] theorem State.setCore_engineAsks (k : Nat) (c : Core) : (s.setCore k c).engineAsks = s.engineAsks := rfl
@[simp] theorem State.setCore_keys (k : Nat) (c : Core) : (s.setCore k c).keys = s.keys := rfl
@[simp] theorem State.setCore_pagerFailed (k : Nat) (c : Core) : (s.setCore k c).pagerFailed = s.pagerFailed := rfl
@[simp] theorem State.setCore_away (k : Nat) (c : Core) : (s.setCore k c).away = s.away := rfl
@[simp] theorem State.setCore_hostBase (k : Nat) (c : Core) : (s.setCore k c).hostBase = s.hostBase := rfl
@[simp] theorem State.setCore_hostUp (k : Nat) (c : Core) : (s.setCore k c).hostUp = s.hostUp := rfl
@[simp] theorem State.setCore_hostOut (k : Nat) (c : Core) : (s.setCore k c).hostOut = s.hostOut := rfl
@[simp] theorem State.setCore_victims (k : Nat) (c : Core) : (s.setCore k c).victims = s.victims := rfl
@[simp] theorem State.setCore_slices (k : Nat) (c : Core) : (s.setCore k c).slices = s.slices := rfl
@[simp] theorem State.setCore_pinThreshold (k : Nat) (c : Core) : (s.setCore k c).pinThreshold = s.pinThreshold := rfl
@[simp] theorem State.setCore_poison (k : Nat) (c : Core) : (s.setCore k c).poison = s.poison := rfl
@[simp] theorem State.setCore_fetches (k : Nat) (c : Core) : (s.setCore k c).fetches = s.fetches := rfl
@[simp] theorem State.setCore_clasps (k : Nat) (c : Core) : (s.setCore k c).clasps = s.clasps := rfl
@[simp] theorem State.setCore_lands (k : Nat) (c : Core) : (s.setCore k c).lands = s.lands := rfl
@[simp] theorem State.setCore_vaultParks (k : Nat) (c : Core) : (s.setCore k c).vaultParks = s.vaultParks := rfl
@[simp] theorem State.setCore_dims (k : Nat) (c : Core) : (s.setCore k c).dims = s.dims := rfl
@[simp] theorem State.setCore_wraps (k : Nat) (c : Core) : (s.setCore k c).wraps = s.wraps := rfl
@[simp] theorem State.setCore_detours (k : Nat) (c : Core) : (s.setCore k c).detours = s.detours := rfl
@[simp] theorem State.setCore_portsDown (k : Nat) (c : Core) : (s.setCore k c).portsDown = s.portsDown := rfl
@[simp] theorem State.setCore_ringPeers (k : Nat) (c : Core) : (s.setCore k c).ringPeers = s.ringPeers := rfl
@[simp] theorem State.setCore_forwards (k : Nat) (c : Core) : (s.setCore k c).forwards = s.forwards := rfl
@[simp] theorem State.setCore_refusedAge (k : Nat) (c : Core) : (s.setCore k c).refusedAge = s.refusedAge := rfl
@[simp] theorem State.setCore_moved (k : Nat) (c : Core) : (s.setCore k c).moved = s.moved := rfl
@[simp] theorem State.setCore_feats (k : Nat) (c : Core) : (s.setCore k c).feats = s.feats := rfl
@[simp] theorem State.setCore_barBase (k : Nat) (c : Core) : (s.setCore k c).barBase = s.barBase := rfl
@[simp] theorem State.setCore_ecc32c (k : Nat) (c : Core) : (s.setCore k c).ecc32c = s.ecc32c := rfl
@[simp] theorem State.setCore_device (k : Nat) (c : Core) : (s.setCore k c).device = s.device := rfl
@[simp] theorem State.setCore_firmware (k : Nat) (c : Core) : (s.setCore k c).firmware = s.firmware := rfl
@[simp] theorem State.setCore_records (k : Nat) (c : Core) : (s.setCore k c).records = s.records := rfl
@[simp] theorem State.setCore_flash (k : Nat) (c : Core) : (s.setCore k c).flash = s.flash := rfl
@[simp] theorem State.setCore_ckpt (k : Nat) (c : Core) : (s.setCore k c).ckpt = s.ckpt := rfl
@[simp] theorem State.setCore_clocks (k : Nat) (c : Core) : (s.setCore k c).clocks = s.clocks := rfl
@[simp] theorem State.setCore_hubCopies (k : Nat) (c : Core) : (s.setCore k c).hubCopies = s.hubCopies := rfl
@[simp] theorem State.setCore_allocs (k : Nat) (c : Core) : (s.setCore k c).allocs = s.allocs := rfl
@[simp] theorem State.setCore_areas (k : Nat) (c : Core) : (s.setCore k c).areas = s.areas := rfl
@[simp] theorem State.setCore_givens (k : Nat) (c : Core) : (s.setCore k c).givens = s.givens := rfl
@[simp] theorem State.setCore_seqs (k : Nat) (c : Core) : (s.setCore k c).seqs = s.seqs := rfl
@[simp] theorem State.setCore_barAnswers (k : Nat) (c : Core) : (s.setCore k c).barAnswers = s.barAnswers := rfl

/-! ## modCore -/

@[simp] theorem State.modCore_who (k : Nat) (f : Core → Core) : (s.modCore k f).who = s.who := rfl
@[simp] theorem State.modCore_turn (k : Nat) (f : Core → Core) : (s.modCore k f).turn = s.turn := rfl
@[simp] theorem State.modCore_now (k : Nat) (f : Core → Core) : (s.modCore k f).now = s.now := rfl
@[simp] theorem State.modCore_pending (k : Nat) (f : Core → Core) : (s.modCore k f).pending = s.pending := rfl
@[simp] theorem State.modCore_freeCount (k : Nat) (f : Core → Core) : (s.modCore k f).freeCount = s.freeCount := rfl
@[simp] theorem State.modCore_waitCount (k : Nat) (f : Core → Core) : (s.modCore k f).waitCount = s.waitCount := rfl
@[simp] theorem State.modCore_clusters (k : Nat) (f : Core → Core) : (s.modCore k f).clusters = s.clusters := rfl
@[simp] theorem State.modCore_groups (k : Nat) (f : Core → Core) : (s.modCore k f).groups = s.groups := rfl
@[simp] theorem State.modCore_nextGroup (k : Nat) (f : Core → Core) : (s.modCore k f).nextGroup = s.nextGroup := rfl
@[simp] theorem State.modCore_contexts (k : Nat) (f : Core → Core) : (s.modCore k f).contexts = s.contexts := rfl
@[simp] theorem State.modCore_binaries (k : Nat) (f : Core → Core) : (s.modCore k f).binaries = s.binaries := rfl
@[simp] theorem State.modCore_queues (k : Nat) (f : Core → Core) : (s.modCore k f).queues = s.queues := rfl
@[simp] theorem State.modCore_hwSlots (k : Nat) (f : Core → Core) : (s.modCore k f).hwSlots = s.hwSlots := rfl
@[simp] theorem State.modCore_bindCount (k : Nat) (f : Core → Core) : (s.modCore k f).bindCount = s.bindCount := rfl
@[simp] theorem State.modCore_launchCount (k : Nat) (f : Core → Core) : (s.modCore k f).launchCount = s.launchCount := rfl
@[simp] theorem State.modCore_triggers (k : Nat) (f : Core → Core) : (s.modCore k f).triggers = s.triggers := rfl
@[simp] theorem State.modCore_phys (k : Nat) (f : Core → Core) : (s.modCore k f).phys = s.phys := rfl
@[simp] theorem State.modCore_faultSeq (k : Nat) (f : Core → Core) : (s.modCore k f).faultSeq = s.faultSeq := rfl
@[simp] theorem State.modCore_counters (k : Nat) (f : Core → Core) : (s.modCore k f).counters = s.counters := rfl
@[simp] theorem State.modCore_partAddr (k : Nat) (f : Core → Core) : (s.modCore k f).partAddr = s.partAddr := rfl
@[simp] theorem State.modCore_fabricOut (k : Nat) (f : Core → Core) : (s.modCore k f).fabricOut = s.fabricOut := rfl
@[simp] theorem State.modCore_msix (k : Nat) (f : Core → Core) : (s.modCore k f).msix = s.msix := rfl
@[simp] theorem State.modCore_pagerAccs (k : Nat) (f : Core → Core) : (s.modCore k f).pagerAccs = s.pagerAccs := rfl
@[simp] theorem State.modCore_parks (k : Nat) (f : Core → Core) : (s.modCore k f).parks = s.parks := rfl
@[simp] theorem State.modCore_pagerAsks (k : Nat) (f : Core → Core) : (s.modCore k f).pagerAsks = s.pagerAsks := rfl
@[simp] theorem State.modCore_quantum (k : Nat) (f : Core → Core) : (s.modCore k f).quantum = s.quantum := rfl
@[simp] theorem State.modCore_pendCount (k : Nat) (f : Core → Core) : (s.modCore k f).pendCount = s.pendCount := rfl
@[simp] theorem State.modCore_hwTurn (k : Nat) (f : Core → Core) : (s.modCore k f).hwTurn = s.hwTurn := rfl
@[simp] theorem State.modCore_flight (k : Nat) (f : Core → Core) : (s.modCore k f).flight = s.flight := rfl
@[simp] theorem State.modCore_engineAsks (k : Nat) (f : Core → Core) : (s.modCore k f).engineAsks = s.engineAsks := rfl
@[simp] theorem State.modCore_keys (k : Nat) (f : Core → Core) : (s.modCore k f).keys = s.keys := rfl
@[simp] theorem State.modCore_pagerFailed (k : Nat) (f : Core → Core) : (s.modCore k f).pagerFailed = s.pagerFailed := rfl
@[simp] theorem State.modCore_away (k : Nat) (f : Core → Core) : (s.modCore k f).away = s.away := rfl
@[simp] theorem State.modCore_hostBase (k : Nat) (f : Core → Core) : (s.modCore k f).hostBase = s.hostBase := rfl
@[simp] theorem State.modCore_hostUp (k : Nat) (f : Core → Core) : (s.modCore k f).hostUp = s.hostUp := rfl
@[simp] theorem State.modCore_hostOut (k : Nat) (f : Core → Core) : (s.modCore k f).hostOut = s.hostOut := rfl
@[simp] theorem State.modCore_victims (k : Nat) (f : Core → Core) : (s.modCore k f).victims = s.victims := rfl
@[simp] theorem State.modCore_slices (k : Nat) (f : Core → Core) : (s.modCore k f).slices = s.slices := rfl
@[simp] theorem State.modCore_pinThreshold (k : Nat) (f : Core → Core) : (s.modCore k f).pinThreshold = s.pinThreshold := rfl
@[simp] theorem State.modCore_poison (k : Nat) (f : Core → Core) : (s.modCore k f).poison = s.poison := rfl
@[simp] theorem State.modCore_fetches (k : Nat) (f : Core → Core) : (s.modCore k f).fetches = s.fetches := rfl
@[simp] theorem State.modCore_clasps (k : Nat) (f : Core → Core) : (s.modCore k f).clasps = s.clasps := rfl
@[simp] theorem State.modCore_lands (k : Nat) (f : Core → Core) : (s.modCore k f).lands = s.lands := rfl
@[simp] theorem State.modCore_vaultParks (k : Nat) (f : Core → Core) : (s.modCore k f).vaultParks = s.vaultParks := rfl
@[simp] theorem State.modCore_dims (k : Nat) (f : Core → Core) : (s.modCore k f).dims = s.dims := rfl
@[simp] theorem State.modCore_wraps (k : Nat) (f : Core → Core) : (s.modCore k f).wraps = s.wraps := rfl
@[simp] theorem State.modCore_detours (k : Nat) (f : Core → Core) : (s.modCore k f).detours = s.detours := rfl
@[simp] theorem State.modCore_portsDown (k : Nat) (f : Core → Core) : (s.modCore k f).portsDown = s.portsDown := rfl
@[simp] theorem State.modCore_ringPeers (k : Nat) (f : Core → Core) : (s.modCore k f).ringPeers = s.ringPeers := rfl
@[simp] theorem State.modCore_forwards (k : Nat) (f : Core → Core) : (s.modCore k f).forwards = s.forwards := rfl
@[simp] theorem State.modCore_refusedAge (k : Nat) (f : Core → Core) : (s.modCore k f).refusedAge = s.refusedAge := rfl
@[simp] theorem State.modCore_moved (k : Nat) (f : Core → Core) : (s.modCore k f).moved = s.moved := rfl
@[simp] theorem State.modCore_feats (k : Nat) (f : Core → Core) : (s.modCore k f).feats = s.feats := rfl
@[simp] theorem State.modCore_barBase (k : Nat) (f : Core → Core) : (s.modCore k f).barBase = s.barBase := rfl
@[simp] theorem State.modCore_ecc32c (k : Nat) (f : Core → Core) : (s.modCore k f).ecc32c = s.ecc32c := rfl
@[simp] theorem State.modCore_device (k : Nat) (f : Core → Core) : (s.modCore k f).device = s.device := rfl
@[simp] theorem State.modCore_firmware (k : Nat) (f : Core → Core) : (s.modCore k f).firmware = s.firmware := rfl
@[simp] theorem State.modCore_records (k : Nat) (f : Core → Core) : (s.modCore k f).records = s.records := rfl
@[simp] theorem State.modCore_flash (k : Nat) (f : Core → Core) : (s.modCore k f).flash = s.flash := rfl
@[simp] theorem State.modCore_ckpt (k : Nat) (f : Core → Core) : (s.modCore k f).ckpt = s.ckpt := rfl
@[simp] theorem State.modCore_clocks (k : Nat) (f : Core → Core) : (s.modCore k f).clocks = s.clocks := rfl
@[simp] theorem State.modCore_hubCopies (k : Nat) (f : Core → Core) : (s.modCore k f).hubCopies = s.hubCopies := rfl
@[simp] theorem State.modCore_allocs (k : Nat) (f : Core → Core) : (s.modCore k f).allocs = s.allocs := rfl
@[simp] theorem State.modCore_areas (k : Nat) (f : Core → Core) : (s.modCore k f).areas = s.areas := rfl
@[simp] theorem State.modCore_givens (k : Nat) (f : Core → Core) : (s.modCore k f).givens = s.givens := rfl
@[simp] theorem State.modCore_seqs (k : Nat) (f : Core → Core) : (s.modCore k f).seqs = s.seqs := rfl
@[simp] theorem State.modCore_barAnswers (k : Nat) (f : Core → Core) : (s.modCore k f).barAnswers = s.barAnswers := rfl

/-! ## modTask -/

@[simp] theorem State.modTask_who (i : Issuer) (f : TaskCtx → TaskCtx) : (s.modTask i f).who = s.who := rfl
@[simp] theorem State.modTask_turn (i : Issuer) (f : TaskCtx → TaskCtx) : (s.modTask i f).turn = s.turn := rfl
@[simp] theorem State.modTask_now (i : Issuer) (f : TaskCtx → TaskCtx) : (s.modTask i f).now = s.now := rfl
@[simp] theorem State.modTask_pending (i : Issuer) (f : TaskCtx → TaskCtx) : (s.modTask i f).pending = s.pending := rfl
@[simp] theorem State.modTask_freeCount (i : Issuer) (f : TaskCtx → TaskCtx) : (s.modTask i f).freeCount = s.freeCount := rfl
@[simp] theorem State.modTask_waitCount (i : Issuer) (f : TaskCtx → TaskCtx) : (s.modTask i f).waitCount = s.waitCount := rfl
@[simp] theorem State.modTask_clusters (i : Issuer) (f : TaskCtx → TaskCtx) : (s.modTask i f).clusters = s.clusters := rfl
@[simp] theorem State.modTask_groups (i : Issuer) (f : TaskCtx → TaskCtx) : (s.modTask i f).groups = s.groups := rfl
@[simp] theorem State.modTask_nextGroup (i : Issuer) (f : TaskCtx → TaskCtx) : (s.modTask i f).nextGroup = s.nextGroup := rfl
@[simp] theorem State.modTask_contexts (i : Issuer) (f : TaskCtx → TaskCtx) : (s.modTask i f).contexts = s.contexts := rfl
@[simp] theorem State.modTask_binaries (i : Issuer) (f : TaskCtx → TaskCtx) : (s.modTask i f).binaries = s.binaries := rfl
@[simp] theorem State.modTask_queues (i : Issuer) (f : TaskCtx → TaskCtx) : (s.modTask i f).queues = s.queues := rfl
@[simp] theorem State.modTask_hwSlots (i : Issuer) (f : TaskCtx → TaskCtx) : (s.modTask i f).hwSlots = s.hwSlots := rfl
@[simp] theorem State.modTask_bindCount (i : Issuer) (f : TaskCtx → TaskCtx) : (s.modTask i f).bindCount = s.bindCount := rfl
@[simp] theorem State.modTask_launchCount (i : Issuer) (f : TaskCtx → TaskCtx) : (s.modTask i f).launchCount = s.launchCount := rfl
@[simp] theorem State.modTask_triggers (i : Issuer) (f : TaskCtx → TaskCtx) : (s.modTask i f).triggers = s.triggers := rfl
@[simp] theorem State.modTask_phys (i : Issuer) (f : TaskCtx → TaskCtx) : (s.modTask i f).phys = s.phys := rfl
@[simp] theorem State.modTask_faultSeq (i : Issuer) (f : TaskCtx → TaskCtx) : (s.modTask i f).faultSeq = s.faultSeq := rfl
@[simp] theorem State.modTask_counters (i : Issuer) (f : TaskCtx → TaskCtx) : (s.modTask i f).counters = s.counters := rfl
@[simp] theorem State.modTask_partAddr (i : Issuer) (f : TaskCtx → TaskCtx) : (s.modTask i f).partAddr = s.partAddr := rfl
@[simp] theorem State.modTask_fabricOut (i : Issuer) (f : TaskCtx → TaskCtx) : (s.modTask i f).fabricOut = s.fabricOut := rfl
@[simp] theorem State.modTask_msix (i : Issuer) (f : TaskCtx → TaskCtx) : (s.modTask i f).msix = s.msix := rfl
@[simp] theorem State.modTask_pagerAccs (i : Issuer) (f : TaskCtx → TaskCtx) : (s.modTask i f).pagerAccs = s.pagerAccs := rfl
@[simp] theorem State.modTask_parks (i : Issuer) (f : TaskCtx → TaskCtx) : (s.modTask i f).parks = s.parks := rfl
@[simp] theorem State.modTask_pagerAsks (i : Issuer) (f : TaskCtx → TaskCtx) : (s.modTask i f).pagerAsks = s.pagerAsks := rfl
@[simp] theorem State.modTask_quantum (i : Issuer) (f : TaskCtx → TaskCtx) : (s.modTask i f).quantum = s.quantum := rfl
@[simp] theorem State.modTask_pendCount (i : Issuer) (f : TaskCtx → TaskCtx) : (s.modTask i f).pendCount = s.pendCount := rfl
@[simp] theorem State.modTask_hwTurn (i : Issuer) (f : TaskCtx → TaskCtx) : (s.modTask i f).hwTurn = s.hwTurn := rfl
@[simp] theorem State.modTask_flight (i : Issuer) (f : TaskCtx → TaskCtx) : (s.modTask i f).flight = s.flight := rfl
@[simp] theorem State.modTask_engineAsks (i : Issuer) (f : TaskCtx → TaskCtx) : (s.modTask i f).engineAsks = s.engineAsks := rfl
@[simp] theorem State.modTask_keys (i : Issuer) (f : TaskCtx → TaskCtx) : (s.modTask i f).keys = s.keys := rfl
@[simp] theorem State.modTask_pagerFailed (i : Issuer) (f : TaskCtx → TaskCtx) : (s.modTask i f).pagerFailed = s.pagerFailed := rfl
@[simp] theorem State.modTask_away (i : Issuer) (f : TaskCtx → TaskCtx) : (s.modTask i f).away = s.away := rfl
@[simp] theorem State.modTask_hostBase (i : Issuer) (f : TaskCtx → TaskCtx) : (s.modTask i f).hostBase = s.hostBase := rfl
@[simp] theorem State.modTask_hostUp (i : Issuer) (f : TaskCtx → TaskCtx) : (s.modTask i f).hostUp = s.hostUp := rfl
@[simp] theorem State.modTask_hostOut (i : Issuer) (f : TaskCtx → TaskCtx) : (s.modTask i f).hostOut = s.hostOut := rfl
@[simp] theorem State.modTask_victims (i : Issuer) (f : TaskCtx → TaskCtx) : (s.modTask i f).victims = s.victims := rfl
@[simp] theorem State.modTask_slices (i : Issuer) (f : TaskCtx → TaskCtx) : (s.modTask i f).slices = s.slices := rfl
@[simp] theorem State.modTask_pinThreshold (i : Issuer) (f : TaskCtx → TaskCtx) : (s.modTask i f).pinThreshold = s.pinThreshold := rfl
@[simp] theorem State.modTask_poison (i : Issuer) (f : TaskCtx → TaskCtx) : (s.modTask i f).poison = s.poison := rfl
@[simp] theorem State.modTask_fetches (i : Issuer) (f : TaskCtx → TaskCtx) : (s.modTask i f).fetches = s.fetches := rfl
@[simp] theorem State.modTask_clasps (i : Issuer) (f : TaskCtx → TaskCtx) : (s.modTask i f).clasps = s.clasps := rfl
@[simp] theorem State.modTask_lands (i : Issuer) (f : TaskCtx → TaskCtx) : (s.modTask i f).lands = s.lands := rfl
@[simp] theorem State.modTask_vaultParks (i : Issuer) (f : TaskCtx → TaskCtx) : (s.modTask i f).vaultParks = s.vaultParks := rfl
@[simp] theorem State.modTask_dims (i : Issuer) (f : TaskCtx → TaskCtx) : (s.modTask i f).dims = s.dims := rfl
@[simp] theorem State.modTask_wraps (i : Issuer) (f : TaskCtx → TaskCtx) : (s.modTask i f).wraps = s.wraps := rfl
@[simp] theorem State.modTask_detours (i : Issuer) (f : TaskCtx → TaskCtx) : (s.modTask i f).detours = s.detours := rfl
@[simp] theorem State.modTask_portsDown (i : Issuer) (f : TaskCtx → TaskCtx) : (s.modTask i f).portsDown = s.portsDown := rfl
@[simp] theorem State.modTask_ringPeers (i : Issuer) (f : TaskCtx → TaskCtx) : (s.modTask i f).ringPeers = s.ringPeers := rfl
@[simp] theorem State.modTask_forwards (i : Issuer) (f : TaskCtx → TaskCtx) : (s.modTask i f).forwards = s.forwards := rfl
@[simp] theorem State.modTask_refusedAge (i : Issuer) (f : TaskCtx → TaskCtx) : (s.modTask i f).refusedAge = s.refusedAge := rfl
@[simp] theorem State.modTask_moved (i : Issuer) (f : TaskCtx → TaskCtx) : (s.modTask i f).moved = s.moved := rfl
@[simp] theorem State.modTask_feats (i : Issuer) (f : TaskCtx → TaskCtx) : (s.modTask i f).feats = s.feats := rfl
@[simp] theorem State.modTask_barBase (i : Issuer) (f : TaskCtx → TaskCtx) : (s.modTask i f).barBase = s.barBase := rfl
@[simp] theorem State.modTask_ecc32c (i : Issuer) (f : TaskCtx → TaskCtx) : (s.modTask i f).ecc32c = s.ecc32c := rfl
@[simp] theorem State.modTask_device (i : Issuer) (f : TaskCtx → TaskCtx) : (s.modTask i f).device = s.device := rfl
@[simp] theorem State.modTask_firmware (i : Issuer) (f : TaskCtx → TaskCtx) : (s.modTask i f).firmware = s.firmware := rfl
@[simp] theorem State.modTask_records (i : Issuer) (f : TaskCtx → TaskCtx) : (s.modTask i f).records = s.records := rfl
@[simp] theorem State.modTask_flash (i : Issuer) (f : TaskCtx → TaskCtx) : (s.modTask i f).flash = s.flash := rfl
@[simp] theorem State.modTask_ckpt (i : Issuer) (f : TaskCtx → TaskCtx) : (s.modTask i f).ckpt = s.ckpt := rfl
@[simp] theorem State.modTask_clocks (i : Issuer) (f : TaskCtx → TaskCtx) : (s.modTask i f).clocks = s.clocks := rfl
@[simp] theorem State.modTask_hubCopies (i : Issuer) (f : TaskCtx → TaskCtx) : (s.modTask i f).hubCopies = s.hubCopies := rfl
@[simp] theorem State.modTask_allocs (i : Issuer) (f : TaskCtx → TaskCtx) : (s.modTask i f).allocs = s.allocs := rfl
@[simp] theorem State.modTask_areas (i : Issuer) (f : TaskCtx → TaskCtx) : (s.modTask i f).areas = s.areas := rfl
@[simp] theorem State.modTask_givens (i : Issuer) (f : TaskCtx → TaskCtx) : (s.modTask i f).givens = s.givens := rfl
@[simp] theorem State.modTask_seqs (i : Issuer) (f : TaskCtx → TaskCtx) : (s.modTask i f).seqs = s.seqs := rfl
@[simp] theorem State.modTask_barAnswers (i : Issuer) (f : TaskCtx → TaskCtx) : (s.modTask i f).barAnswers = s.barAnswers := rfl

/-! ## modT -/

@[simp] theorem State.modT_who (f : TaskCtx → TaskCtx) : (s.modT f).who = s.who := rfl
@[simp] theorem State.modT_turn (f : TaskCtx → TaskCtx) : (s.modT f).turn = s.turn := rfl
@[simp] theorem State.modT_now (f : TaskCtx → TaskCtx) : (s.modT f).now = s.now := rfl
@[simp] theorem State.modT_pending (f : TaskCtx → TaskCtx) : (s.modT f).pending = s.pending := rfl
@[simp] theorem State.modT_freeCount (f : TaskCtx → TaskCtx) : (s.modT f).freeCount = s.freeCount := rfl
@[simp] theorem State.modT_waitCount (f : TaskCtx → TaskCtx) : (s.modT f).waitCount = s.waitCount := rfl
@[simp] theorem State.modT_clusters (f : TaskCtx → TaskCtx) : (s.modT f).clusters = s.clusters := rfl
@[simp] theorem State.modT_groups (f : TaskCtx → TaskCtx) : (s.modT f).groups = s.groups := rfl
@[simp] theorem State.modT_nextGroup (f : TaskCtx → TaskCtx) : (s.modT f).nextGroup = s.nextGroup := rfl
@[simp] theorem State.modT_contexts (f : TaskCtx → TaskCtx) : (s.modT f).contexts = s.contexts := rfl
@[simp] theorem State.modT_binaries (f : TaskCtx → TaskCtx) : (s.modT f).binaries = s.binaries := rfl
@[simp] theorem State.modT_queues (f : TaskCtx → TaskCtx) : (s.modT f).queues = s.queues := rfl
@[simp] theorem State.modT_hwSlots (f : TaskCtx → TaskCtx) : (s.modT f).hwSlots = s.hwSlots := rfl
@[simp] theorem State.modT_bindCount (f : TaskCtx → TaskCtx) : (s.modT f).bindCount = s.bindCount := rfl
@[simp] theorem State.modT_launchCount (f : TaskCtx → TaskCtx) : (s.modT f).launchCount = s.launchCount := rfl
@[simp] theorem State.modT_triggers (f : TaskCtx → TaskCtx) : (s.modT f).triggers = s.triggers := rfl
@[simp] theorem State.modT_phys (f : TaskCtx → TaskCtx) : (s.modT f).phys = s.phys := rfl
@[simp] theorem State.modT_faultSeq (f : TaskCtx → TaskCtx) : (s.modT f).faultSeq = s.faultSeq := rfl
@[simp] theorem State.modT_counters (f : TaskCtx → TaskCtx) : (s.modT f).counters = s.counters := rfl
@[simp] theorem State.modT_partAddr (f : TaskCtx → TaskCtx) : (s.modT f).partAddr = s.partAddr := rfl
@[simp] theorem State.modT_fabricOut (f : TaskCtx → TaskCtx) : (s.modT f).fabricOut = s.fabricOut := rfl
@[simp] theorem State.modT_msix (f : TaskCtx → TaskCtx) : (s.modT f).msix = s.msix := rfl
@[simp] theorem State.modT_pagerAccs (f : TaskCtx → TaskCtx) : (s.modT f).pagerAccs = s.pagerAccs := rfl
@[simp] theorem State.modT_parks (f : TaskCtx → TaskCtx) : (s.modT f).parks = s.parks := rfl
@[simp] theorem State.modT_pagerAsks (f : TaskCtx → TaskCtx) : (s.modT f).pagerAsks = s.pagerAsks := rfl
@[simp] theorem State.modT_quantum (f : TaskCtx → TaskCtx) : (s.modT f).quantum = s.quantum := rfl
@[simp] theorem State.modT_pendCount (f : TaskCtx → TaskCtx) : (s.modT f).pendCount = s.pendCount := rfl
@[simp] theorem State.modT_hwTurn (f : TaskCtx → TaskCtx) : (s.modT f).hwTurn = s.hwTurn := rfl
@[simp] theorem State.modT_flight (f : TaskCtx → TaskCtx) : (s.modT f).flight = s.flight := rfl
@[simp] theorem State.modT_engineAsks (f : TaskCtx → TaskCtx) : (s.modT f).engineAsks = s.engineAsks := rfl
@[simp] theorem State.modT_keys (f : TaskCtx → TaskCtx) : (s.modT f).keys = s.keys := rfl
@[simp] theorem State.modT_pagerFailed (f : TaskCtx → TaskCtx) : (s.modT f).pagerFailed = s.pagerFailed := rfl
@[simp] theorem State.modT_away (f : TaskCtx → TaskCtx) : (s.modT f).away = s.away := rfl
@[simp] theorem State.modT_hostBase (f : TaskCtx → TaskCtx) : (s.modT f).hostBase = s.hostBase := rfl
@[simp] theorem State.modT_hostUp (f : TaskCtx → TaskCtx) : (s.modT f).hostUp = s.hostUp := rfl
@[simp] theorem State.modT_hostOut (f : TaskCtx → TaskCtx) : (s.modT f).hostOut = s.hostOut := rfl
@[simp] theorem State.modT_victims (f : TaskCtx → TaskCtx) : (s.modT f).victims = s.victims := rfl
@[simp] theorem State.modT_slices (f : TaskCtx → TaskCtx) : (s.modT f).slices = s.slices := rfl
@[simp] theorem State.modT_pinThreshold (f : TaskCtx → TaskCtx) : (s.modT f).pinThreshold = s.pinThreshold := rfl
@[simp] theorem State.modT_poison (f : TaskCtx → TaskCtx) : (s.modT f).poison = s.poison := rfl
@[simp] theorem State.modT_fetches (f : TaskCtx → TaskCtx) : (s.modT f).fetches = s.fetches := rfl
@[simp] theorem State.modT_clasps (f : TaskCtx → TaskCtx) : (s.modT f).clasps = s.clasps := rfl
@[simp] theorem State.modT_lands (f : TaskCtx → TaskCtx) : (s.modT f).lands = s.lands := rfl
@[simp] theorem State.modT_vaultParks (f : TaskCtx → TaskCtx) : (s.modT f).vaultParks = s.vaultParks := rfl
@[simp] theorem State.modT_dims (f : TaskCtx → TaskCtx) : (s.modT f).dims = s.dims := rfl
@[simp] theorem State.modT_wraps (f : TaskCtx → TaskCtx) : (s.modT f).wraps = s.wraps := rfl
@[simp] theorem State.modT_detours (f : TaskCtx → TaskCtx) : (s.modT f).detours = s.detours := rfl
@[simp] theorem State.modT_portsDown (f : TaskCtx → TaskCtx) : (s.modT f).portsDown = s.portsDown := rfl
@[simp] theorem State.modT_ringPeers (f : TaskCtx → TaskCtx) : (s.modT f).ringPeers = s.ringPeers := rfl
@[simp] theorem State.modT_forwards (f : TaskCtx → TaskCtx) : (s.modT f).forwards = s.forwards := rfl
@[simp] theorem State.modT_refusedAge (f : TaskCtx → TaskCtx) : (s.modT f).refusedAge = s.refusedAge := rfl
@[simp] theorem State.modT_moved (f : TaskCtx → TaskCtx) : (s.modT f).moved = s.moved := rfl
@[simp] theorem State.modT_feats (f : TaskCtx → TaskCtx) : (s.modT f).feats = s.feats := rfl
@[simp] theorem State.modT_barBase (f : TaskCtx → TaskCtx) : (s.modT f).barBase = s.barBase := rfl
@[simp] theorem State.modT_ecc32c (f : TaskCtx → TaskCtx) : (s.modT f).ecc32c = s.ecc32c := rfl
@[simp] theorem State.modT_device (f : TaskCtx → TaskCtx) : (s.modT f).device = s.device := rfl
@[simp] theorem State.modT_firmware (f : TaskCtx → TaskCtx) : (s.modT f).firmware = s.firmware := rfl
@[simp] theorem State.modT_records (f : TaskCtx → TaskCtx) : (s.modT f).records = s.records := rfl
@[simp] theorem State.modT_flash (f : TaskCtx → TaskCtx) : (s.modT f).flash = s.flash := rfl
@[simp] theorem State.modT_ckpt (f : TaskCtx → TaskCtx) : (s.modT f).ckpt = s.ckpt := rfl
@[simp] theorem State.modT_clocks (f : TaskCtx → TaskCtx) : (s.modT f).clocks = s.clocks := rfl
@[simp] theorem State.modT_hubCopies (f : TaskCtx → TaskCtx) : (s.modT f).hubCopies = s.hubCopies := rfl
@[simp] theorem State.modT_allocs (f : TaskCtx → TaskCtx) : (s.modT f).allocs = s.allocs := rfl
@[simp] theorem State.modT_areas (f : TaskCtx → TaskCtx) : (s.modT f).areas = s.areas := rfl
@[simp] theorem State.modT_givens (f : TaskCtx → TaskCtx) : (s.modT f).givens = s.givens := rfl
@[simp] theorem State.modT_seqs (f : TaskCtx → TaskCtx) : (s.modT f).seqs = s.seqs := rfl
@[simp] theorem State.modT_barAnswers (f : TaskCtx → TaskCtx) : (s.modT f).barAnswers = s.barAnswers := rfl

/-! ## post -/

@[simp] theorem State.post_who (e : Event) : (s.post e).who = s.who := rfl
@[simp] theorem State.post_turn (e : Event) : (s.post e).turn = s.turn := rfl
@[simp] theorem State.post_now (e : Event) : (s.post e).now = s.now := rfl
@[simp] theorem State.post_freeCount (e : Event) : (s.post e).freeCount = s.freeCount := rfl
@[simp] theorem State.post_waitCount (e : Event) : (s.post e).waitCount = s.waitCount := rfl
@[simp] theorem State.post_cores (e : Event) : (s.post e).cores = s.cores := rfl
@[simp] theorem State.post_clusters (e : Event) : (s.post e).clusters = s.clusters := rfl
@[simp] theorem State.post_groups (e : Event) : (s.post e).groups = s.groups := rfl
@[simp] theorem State.post_nextGroup (e : Event) : (s.post e).nextGroup = s.nextGroup := rfl
@[simp] theorem State.post_contexts (e : Event) : (s.post e).contexts = s.contexts := rfl
@[simp] theorem State.post_binaries (e : Event) : (s.post e).binaries = s.binaries := rfl
@[simp] theorem State.post_queues (e : Event) : (s.post e).queues = s.queues := rfl
@[simp] theorem State.post_hwSlots (e : Event) : (s.post e).hwSlots = s.hwSlots := rfl
@[simp] theorem State.post_bindCount (e : Event) : (s.post e).bindCount = s.bindCount := rfl
@[simp] theorem State.post_launchCount (e : Event) : (s.post e).launchCount = s.launchCount := rfl
@[simp] theorem State.post_triggers (e : Event) : (s.post e).triggers = s.triggers := rfl
@[simp] theorem State.post_phys (e : Event) : (s.post e).phys = s.phys := rfl
@[simp] theorem State.post_faultSeq (e : Event) : (s.post e).faultSeq = s.faultSeq := rfl
@[simp] theorem State.post_counters (e : Event) : (s.post e).counters = s.counters := rfl
@[simp] theorem State.post_partAddr (e : Event) : (s.post e).partAddr = s.partAddr := rfl
@[simp] theorem State.post_fabricOut (e : Event) : (s.post e).fabricOut = s.fabricOut := rfl
@[simp] theorem State.post_msix (e : Event) : (s.post e).msix = s.msix := rfl
@[simp] theorem State.post_pagerAccs (e : Event) : (s.post e).pagerAccs = s.pagerAccs := rfl
@[simp] theorem State.post_parks (e : Event) : (s.post e).parks = s.parks := rfl
@[simp] theorem State.post_pagerAsks (e : Event) : (s.post e).pagerAsks = s.pagerAsks := rfl
@[simp] theorem State.post_quantum (e : Event) : (s.post e).quantum = s.quantum := rfl
@[simp] theorem State.post_pendCount (e : Event) : (s.post e).pendCount = s.pendCount := rfl
@[simp] theorem State.post_hwTurn (e : Event) : (s.post e).hwTurn = s.hwTurn := rfl
@[simp] theorem State.post_flight (e : Event) : (s.post e).flight = s.flight := rfl
@[simp] theorem State.post_engineAsks (e : Event) : (s.post e).engineAsks = s.engineAsks := rfl
@[simp] theorem State.post_keys (e : Event) : (s.post e).keys = s.keys := rfl
@[simp] theorem State.post_pagerFailed (e : Event) : (s.post e).pagerFailed = s.pagerFailed := rfl
@[simp] theorem State.post_away (e : Event) : (s.post e).away = s.away := rfl
@[simp] theorem State.post_hostBase (e : Event) : (s.post e).hostBase = s.hostBase := rfl
@[simp] theorem State.post_hostUp (e : Event) : (s.post e).hostUp = s.hostUp := rfl
@[simp] theorem State.post_hostOut (e : Event) : (s.post e).hostOut = s.hostOut := rfl
@[simp] theorem State.post_victims (e : Event) : (s.post e).victims = s.victims := rfl
@[simp] theorem State.post_slices (e : Event) : (s.post e).slices = s.slices := rfl
@[simp] theorem State.post_pinThreshold (e : Event) : (s.post e).pinThreshold = s.pinThreshold := rfl
@[simp] theorem State.post_poison (e : Event) : (s.post e).poison = s.poison := rfl
@[simp] theorem State.post_fetches (e : Event) : (s.post e).fetches = s.fetches := rfl
@[simp] theorem State.post_clasps (e : Event) : (s.post e).clasps = s.clasps := rfl
@[simp] theorem State.post_lands (e : Event) : (s.post e).lands = s.lands := rfl
@[simp] theorem State.post_vaultParks (e : Event) : (s.post e).vaultParks = s.vaultParks := rfl
@[simp] theorem State.post_dims (e : Event) : (s.post e).dims = s.dims := rfl
@[simp] theorem State.post_wraps (e : Event) : (s.post e).wraps = s.wraps := rfl
@[simp] theorem State.post_detours (e : Event) : (s.post e).detours = s.detours := rfl
@[simp] theorem State.post_portsDown (e : Event) : (s.post e).portsDown = s.portsDown := rfl
@[simp] theorem State.post_ringPeers (e : Event) : (s.post e).ringPeers = s.ringPeers := rfl
@[simp] theorem State.post_forwards (e : Event) : (s.post e).forwards = s.forwards := rfl
@[simp] theorem State.post_refusedAge (e : Event) : (s.post e).refusedAge = s.refusedAge := rfl
@[simp] theorem State.post_moved (e : Event) : (s.post e).moved = s.moved := rfl
@[simp] theorem State.post_feats (e : Event) : (s.post e).feats = s.feats := rfl
@[simp] theorem State.post_barBase (e : Event) : (s.post e).barBase = s.barBase := rfl
@[simp] theorem State.post_ecc32c (e : Event) : (s.post e).ecc32c = s.ecc32c := rfl
@[simp] theorem State.post_device (e : Event) : (s.post e).device = s.device := rfl
@[simp] theorem State.post_firmware (e : Event) : (s.post e).firmware = s.firmware := rfl
@[simp] theorem State.post_records (e : Event) : (s.post e).records = s.records := rfl
@[simp] theorem State.post_flash (e : Event) : (s.post e).flash = s.flash := rfl
@[simp] theorem State.post_ckpt (e : Event) : (s.post e).ckpt = s.ckpt := rfl
@[simp] theorem State.post_clocks (e : Event) : (s.post e).clocks = s.clocks := rfl
@[simp] theorem State.post_hubCopies (e : Event) : (s.post e).hubCopies = s.hubCopies := rfl
@[simp] theorem State.post_allocs (e : Event) : (s.post e).allocs = s.allocs := rfl
@[simp] theorem State.post_areas (e : Event) : (s.post e).areas = s.areas := rfl
@[simp] theorem State.post_givens (e : Event) : (s.post e).givens = s.givens := rfl
@[simp] theorem State.post_seqs (e : Event) : (s.post e).seqs = s.seqs := rfl
@[simp] theorem State.post_barAnswers (e : Event) : (s.post e).barAnswers = s.barAnswers := rfl

/-! ## repost -/

@[simp] theorem State.repost_who (e : Event) : (s.repost e).who = s.who := rfl
@[simp] theorem State.repost_turn (e : Event) : (s.repost e).turn = s.turn := rfl
@[simp] theorem State.repost_now (e : Event) : (s.repost e).now = s.now := rfl
@[simp] theorem State.repost_freeCount (e : Event) : (s.repost e).freeCount = s.freeCount := rfl
@[simp] theorem State.repost_waitCount (e : Event) : (s.repost e).waitCount = s.waitCount := rfl
@[simp] theorem State.repost_cores (e : Event) : (s.repost e).cores = s.cores := rfl
@[simp] theorem State.repost_clusters (e : Event) : (s.repost e).clusters = s.clusters := rfl
@[simp] theorem State.repost_groups (e : Event) : (s.repost e).groups = s.groups := rfl
@[simp] theorem State.repost_nextGroup (e : Event) : (s.repost e).nextGroup = s.nextGroup := rfl
@[simp] theorem State.repost_contexts (e : Event) : (s.repost e).contexts = s.contexts := rfl
@[simp] theorem State.repost_binaries (e : Event) : (s.repost e).binaries = s.binaries := rfl
@[simp] theorem State.repost_queues (e : Event) : (s.repost e).queues = s.queues := rfl
@[simp] theorem State.repost_hwSlots (e : Event) : (s.repost e).hwSlots = s.hwSlots := rfl
@[simp] theorem State.repost_bindCount (e : Event) : (s.repost e).bindCount = s.bindCount := rfl
@[simp] theorem State.repost_launchCount (e : Event) : (s.repost e).launchCount = s.launchCount := rfl
@[simp] theorem State.repost_triggers (e : Event) : (s.repost e).triggers = s.triggers := rfl
@[simp] theorem State.repost_phys (e : Event) : (s.repost e).phys = s.phys := rfl
@[simp] theorem State.repost_faultSeq (e : Event) : (s.repost e).faultSeq = s.faultSeq := rfl
@[simp] theorem State.repost_counters (e : Event) : (s.repost e).counters = s.counters := rfl
@[simp] theorem State.repost_partAddr (e : Event) : (s.repost e).partAddr = s.partAddr := rfl
@[simp] theorem State.repost_fabricOut (e : Event) : (s.repost e).fabricOut = s.fabricOut := rfl
@[simp] theorem State.repost_msix (e : Event) : (s.repost e).msix = s.msix := rfl
@[simp] theorem State.repost_pagerAccs (e : Event) : (s.repost e).pagerAccs = s.pagerAccs := rfl
@[simp] theorem State.repost_parks (e : Event) : (s.repost e).parks = s.parks := rfl
@[simp] theorem State.repost_pagerAsks (e : Event) : (s.repost e).pagerAsks = s.pagerAsks := rfl
@[simp] theorem State.repost_quantum (e : Event) : (s.repost e).quantum = s.quantum := rfl
@[simp] theorem State.repost_pendCount (e : Event) : (s.repost e).pendCount = s.pendCount := rfl
@[simp] theorem State.repost_hwTurn (e : Event) : (s.repost e).hwTurn = s.hwTurn := rfl
@[simp] theorem State.repost_flight (e : Event) : (s.repost e).flight = s.flight := rfl
@[simp] theorem State.repost_engineAsks (e : Event) : (s.repost e).engineAsks = s.engineAsks := rfl
@[simp] theorem State.repost_keys (e : Event) : (s.repost e).keys = s.keys := rfl
@[simp] theorem State.repost_pagerFailed (e : Event) : (s.repost e).pagerFailed = s.pagerFailed := rfl
@[simp] theorem State.repost_away (e : Event) : (s.repost e).away = s.away := rfl
@[simp] theorem State.repost_hostBase (e : Event) : (s.repost e).hostBase = s.hostBase := rfl
@[simp] theorem State.repost_hostUp (e : Event) : (s.repost e).hostUp = s.hostUp := rfl
@[simp] theorem State.repost_hostOut (e : Event) : (s.repost e).hostOut = s.hostOut := rfl
@[simp] theorem State.repost_victims (e : Event) : (s.repost e).victims = s.victims := rfl
@[simp] theorem State.repost_slices (e : Event) : (s.repost e).slices = s.slices := rfl
@[simp] theorem State.repost_pinThreshold (e : Event) : (s.repost e).pinThreshold = s.pinThreshold := rfl
@[simp] theorem State.repost_poison (e : Event) : (s.repost e).poison = s.poison := rfl
@[simp] theorem State.repost_fetches (e : Event) : (s.repost e).fetches = s.fetches := rfl
@[simp] theorem State.repost_clasps (e : Event) : (s.repost e).clasps = s.clasps := rfl
@[simp] theorem State.repost_lands (e : Event) : (s.repost e).lands = s.lands := rfl
@[simp] theorem State.repost_vaultParks (e : Event) : (s.repost e).vaultParks = s.vaultParks := rfl
@[simp] theorem State.repost_dims (e : Event) : (s.repost e).dims = s.dims := rfl
@[simp] theorem State.repost_wraps (e : Event) : (s.repost e).wraps = s.wraps := rfl
@[simp] theorem State.repost_detours (e : Event) : (s.repost e).detours = s.detours := rfl
@[simp] theorem State.repost_portsDown (e : Event) : (s.repost e).portsDown = s.portsDown := rfl
@[simp] theorem State.repost_ringPeers (e : Event) : (s.repost e).ringPeers = s.ringPeers := rfl
@[simp] theorem State.repost_forwards (e : Event) : (s.repost e).forwards = s.forwards := rfl
@[simp] theorem State.repost_refusedAge (e : Event) : (s.repost e).refusedAge = s.refusedAge := rfl
@[simp] theorem State.repost_moved (e : Event) : (s.repost e).moved = s.moved := rfl
@[simp] theorem State.repost_feats (e : Event) : (s.repost e).feats = s.feats := rfl
@[simp] theorem State.repost_barBase (e : Event) : (s.repost e).barBase = s.barBase := rfl
@[simp] theorem State.repost_ecc32c (e : Event) : (s.repost e).ecc32c = s.ecc32c := rfl
@[simp] theorem State.repost_device (e : Event) : (s.repost e).device = s.device := rfl
@[simp] theorem State.repost_firmware (e : Event) : (s.repost e).firmware = s.firmware := rfl
@[simp] theorem State.repost_records (e : Event) : (s.repost e).records = s.records := rfl
@[simp] theorem State.repost_flash (e : Event) : (s.repost e).flash = s.flash := rfl
@[simp] theorem State.repost_ckpt (e : Event) : (s.repost e).ckpt = s.ckpt := rfl
@[simp] theorem State.repost_clocks (e : Event) : (s.repost e).clocks = s.clocks := rfl
@[simp] theorem State.repost_hubCopies (e : Event) : (s.repost e).hubCopies = s.hubCopies := rfl
@[simp] theorem State.repost_allocs (e : Event) : (s.repost e).allocs = s.allocs := rfl
@[simp] theorem State.repost_areas (e : Event) : (s.repost e).areas = s.areas := rfl
@[simp] theorem State.repost_givens (e : Event) : (s.repost e).givens = s.givens := rfl
@[simp] theorem State.repost_seqs (e : Event) : (s.repost e).seqs = s.seqs := rfl
@[simp] theorem State.repost_barAnswers (e : Event) : (s.repost e).barAnswers = s.barAnswers := rfl

/-! ## postAll -/

@[simp] theorem State.postAll_who (es : List Event) : (s.postAll es).who = s.who := rfl
@[simp] theorem State.postAll_turn (es : List Event) : (s.postAll es).turn = s.turn := rfl
@[simp] theorem State.postAll_now (es : List Event) : (s.postAll es).now = s.now := rfl
@[simp] theorem State.postAll_freeCount (es : List Event) : (s.postAll es).freeCount = s.freeCount := rfl
@[simp] theorem State.postAll_waitCount (es : List Event) : (s.postAll es).waitCount = s.waitCount := rfl
@[simp] theorem State.postAll_cores (es : List Event) : (s.postAll es).cores = s.cores := rfl
@[simp] theorem State.postAll_clusters (es : List Event) : (s.postAll es).clusters = s.clusters := rfl
@[simp] theorem State.postAll_groups (es : List Event) : (s.postAll es).groups = s.groups := rfl
@[simp] theorem State.postAll_nextGroup (es : List Event) : (s.postAll es).nextGroup = s.nextGroup := rfl
@[simp] theorem State.postAll_contexts (es : List Event) : (s.postAll es).contexts = s.contexts := rfl
@[simp] theorem State.postAll_binaries (es : List Event) : (s.postAll es).binaries = s.binaries := rfl
@[simp] theorem State.postAll_queues (es : List Event) : (s.postAll es).queues = s.queues := rfl
@[simp] theorem State.postAll_hwSlots (es : List Event) : (s.postAll es).hwSlots = s.hwSlots := rfl
@[simp] theorem State.postAll_bindCount (es : List Event) : (s.postAll es).bindCount = s.bindCount := rfl
@[simp] theorem State.postAll_launchCount (es : List Event) : (s.postAll es).launchCount = s.launchCount := rfl
@[simp] theorem State.postAll_triggers (es : List Event) : (s.postAll es).triggers = s.triggers := rfl
@[simp] theorem State.postAll_phys (es : List Event) : (s.postAll es).phys = s.phys := rfl
@[simp] theorem State.postAll_faultSeq (es : List Event) : (s.postAll es).faultSeq = s.faultSeq := rfl
@[simp] theorem State.postAll_counters (es : List Event) : (s.postAll es).counters = s.counters := rfl
@[simp] theorem State.postAll_partAddr (es : List Event) : (s.postAll es).partAddr = s.partAddr := rfl
@[simp] theorem State.postAll_fabricOut (es : List Event) : (s.postAll es).fabricOut = s.fabricOut := rfl
@[simp] theorem State.postAll_msix (es : List Event) : (s.postAll es).msix = s.msix := rfl
@[simp] theorem State.postAll_pagerAccs (es : List Event) : (s.postAll es).pagerAccs = s.pagerAccs := rfl
@[simp] theorem State.postAll_parks (es : List Event) : (s.postAll es).parks = s.parks := rfl
@[simp] theorem State.postAll_pagerAsks (es : List Event) : (s.postAll es).pagerAsks = s.pagerAsks := rfl
@[simp] theorem State.postAll_quantum (es : List Event) : (s.postAll es).quantum = s.quantum := rfl
@[simp] theorem State.postAll_pendCount (es : List Event) : (s.postAll es).pendCount = s.pendCount := rfl
@[simp] theorem State.postAll_hwTurn (es : List Event) : (s.postAll es).hwTurn = s.hwTurn := rfl
@[simp] theorem State.postAll_flight (es : List Event) : (s.postAll es).flight = s.flight := rfl
@[simp] theorem State.postAll_engineAsks (es : List Event) : (s.postAll es).engineAsks = s.engineAsks := rfl
@[simp] theorem State.postAll_keys (es : List Event) : (s.postAll es).keys = s.keys := rfl
@[simp] theorem State.postAll_pagerFailed (es : List Event) : (s.postAll es).pagerFailed = s.pagerFailed := rfl
@[simp] theorem State.postAll_away (es : List Event) : (s.postAll es).away = s.away := rfl
@[simp] theorem State.postAll_hostBase (es : List Event) : (s.postAll es).hostBase = s.hostBase := rfl
@[simp] theorem State.postAll_hostUp (es : List Event) : (s.postAll es).hostUp = s.hostUp := rfl
@[simp] theorem State.postAll_hostOut (es : List Event) : (s.postAll es).hostOut = s.hostOut := rfl
@[simp] theorem State.postAll_victims (es : List Event) : (s.postAll es).victims = s.victims := rfl
@[simp] theorem State.postAll_slices (es : List Event) : (s.postAll es).slices = s.slices := rfl
@[simp] theorem State.postAll_pinThreshold (es : List Event) : (s.postAll es).pinThreshold = s.pinThreshold := rfl
@[simp] theorem State.postAll_poison (es : List Event) : (s.postAll es).poison = s.poison := rfl
@[simp] theorem State.postAll_fetches (es : List Event) : (s.postAll es).fetches = s.fetches := rfl
@[simp] theorem State.postAll_clasps (es : List Event) : (s.postAll es).clasps = s.clasps := rfl
@[simp] theorem State.postAll_lands (es : List Event) : (s.postAll es).lands = s.lands := rfl
@[simp] theorem State.postAll_vaultParks (es : List Event) : (s.postAll es).vaultParks = s.vaultParks := rfl
@[simp] theorem State.postAll_dims (es : List Event) : (s.postAll es).dims = s.dims := rfl
@[simp] theorem State.postAll_wraps (es : List Event) : (s.postAll es).wraps = s.wraps := rfl
@[simp] theorem State.postAll_detours (es : List Event) : (s.postAll es).detours = s.detours := rfl
@[simp] theorem State.postAll_portsDown (es : List Event) : (s.postAll es).portsDown = s.portsDown := rfl
@[simp] theorem State.postAll_ringPeers (es : List Event) : (s.postAll es).ringPeers = s.ringPeers := rfl
@[simp] theorem State.postAll_forwards (es : List Event) : (s.postAll es).forwards = s.forwards := rfl
@[simp] theorem State.postAll_refusedAge (es : List Event) : (s.postAll es).refusedAge = s.refusedAge := rfl
@[simp] theorem State.postAll_moved (es : List Event) : (s.postAll es).moved = s.moved := rfl
@[simp] theorem State.postAll_feats (es : List Event) : (s.postAll es).feats = s.feats := rfl
@[simp] theorem State.postAll_barBase (es : List Event) : (s.postAll es).barBase = s.barBase := rfl
@[simp] theorem State.postAll_ecc32c (es : List Event) : (s.postAll es).ecc32c = s.ecc32c := rfl
@[simp] theorem State.postAll_device (es : List Event) : (s.postAll es).device = s.device := rfl
@[simp] theorem State.postAll_firmware (es : List Event) : (s.postAll es).firmware = s.firmware := rfl
@[simp] theorem State.postAll_records (es : List Event) : (s.postAll es).records = s.records := rfl
@[simp] theorem State.postAll_flash (es : List Event) : (s.postAll es).flash = s.flash := rfl
@[simp] theorem State.postAll_ckpt (es : List Event) : (s.postAll es).ckpt = s.ckpt := rfl
@[simp] theorem State.postAll_clocks (es : List Event) : (s.postAll es).clocks = s.clocks := rfl
@[simp] theorem State.postAll_hubCopies (es : List Event) : (s.postAll es).hubCopies = s.hubCopies := rfl
@[simp] theorem State.postAll_allocs (es : List Event) : (s.postAll es).allocs = s.allocs := rfl
@[simp] theorem State.postAll_areas (es : List Event) : (s.postAll es).areas = s.areas := rfl
@[simp] theorem State.postAll_givens (es : List Event) : (s.postAll es).givens = s.givens := rfl
@[simp] theorem State.postAll_seqs (es : List Event) : (s.postAll es).seqs = s.seqs := rfl
@[simp] theorem State.postAll_barAnswers (es : List Event) : (s.postAll es).barAnswers = s.barAnswers := rfl

/-! ## modGroup -/

@[simp] theorem State.modGroup_who (g : Nat) (f : Group → Group) : (s.modGroup g f).who = s.who := rfl
@[simp] theorem State.modGroup_turn (g : Nat) (f : Group → Group) : (s.modGroup g f).turn = s.turn := rfl
@[simp] theorem State.modGroup_now (g : Nat) (f : Group → Group) : (s.modGroup g f).now = s.now := rfl
@[simp] theorem State.modGroup_pending (g : Nat) (f : Group → Group) : (s.modGroup g f).pending = s.pending := rfl
@[simp] theorem State.modGroup_freeCount (g : Nat) (f : Group → Group) : (s.modGroup g f).freeCount = s.freeCount := rfl
@[simp] theorem State.modGroup_waitCount (g : Nat) (f : Group → Group) : (s.modGroup g f).waitCount = s.waitCount := rfl
@[simp] theorem State.modGroup_cores (g : Nat) (f : Group → Group) : (s.modGroup g f).cores = s.cores := rfl
@[simp] theorem State.modGroup_clusters (g : Nat) (f : Group → Group) : (s.modGroup g f).clusters = s.clusters := rfl
@[simp] theorem State.modGroup_nextGroup (g : Nat) (f : Group → Group) : (s.modGroup g f).nextGroup = s.nextGroup := rfl
@[simp] theorem State.modGroup_contexts (g : Nat) (f : Group → Group) : (s.modGroup g f).contexts = s.contexts := rfl
@[simp] theorem State.modGroup_binaries (g : Nat) (f : Group → Group) : (s.modGroup g f).binaries = s.binaries := rfl
@[simp] theorem State.modGroup_queues (g : Nat) (f : Group → Group) : (s.modGroup g f).queues = s.queues := rfl
@[simp] theorem State.modGroup_hwSlots (g : Nat) (f : Group → Group) : (s.modGroup g f).hwSlots = s.hwSlots := rfl
@[simp] theorem State.modGroup_bindCount (g : Nat) (f : Group → Group) : (s.modGroup g f).bindCount = s.bindCount := rfl
@[simp] theorem State.modGroup_launchCount (g : Nat) (f : Group → Group) : (s.modGroup g f).launchCount = s.launchCount := rfl
@[simp] theorem State.modGroup_triggers (g : Nat) (f : Group → Group) : (s.modGroup g f).triggers = s.triggers := rfl
@[simp] theorem State.modGroup_phys (g : Nat) (f : Group → Group) : (s.modGroup g f).phys = s.phys := rfl
@[simp] theorem State.modGroup_faultSeq (g : Nat) (f : Group → Group) : (s.modGroup g f).faultSeq = s.faultSeq := rfl
@[simp] theorem State.modGroup_counters (g : Nat) (f : Group → Group) : (s.modGroup g f).counters = s.counters := rfl
@[simp] theorem State.modGroup_partAddr (g : Nat) (f : Group → Group) : (s.modGroup g f).partAddr = s.partAddr := rfl
@[simp] theorem State.modGroup_fabricOut (g : Nat) (f : Group → Group) : (s.modGroup g f).fabricOut = s.fabricOut := rfl
@[simp] theorem State.modGroup_msix (g : Nat) (f : Group → Group) : (s.modGroup g f).msix = s.msix := rfl
@[simp] theorem State.modGroup_pagerAccs (g : Nat) (f : Group → Group) : (s.modGroup g f).pagerAccs = s.pagerAccs := rfl
@[simp] theorem State.modGroup_parks (g : Nat) (f : Group → Group) : (s.modGroup g f).parks = s.parks := rfl
@[simp] theorem State.modGroup_pagerAsks (g : Nat) (f : Group → Group) : (s.modGroup g f).pagerAsks = s.pagerAsks := rfl
@[simp] theorem State.modGroup_quantum (g : Nat) (f : Group → Group) : (s.modGroup g f).quantum = s.quantum := rfl
@[simp] theorem State.modGroup_pendCount (g : Nat) (f : Group → Group) : (s.modGroup g f).pendCount = s.pendCount := rfl
@[simp] theorem State.modGroup_hwTurn (g : Nat) (f : Group → Group) : (s.modGroup g f).hwTurn = s.hwTurn := rfl
@[simp] theorem State.modGroup_flight (g : Nat) (f : Group → Group) : (s.modGroup g f).flight = s.flight := rfl
@[simp] theorem State.modGroup_engineAsks (g : Nat) (f : Group → Group) : (s.modGroup g f).engineAsks = s.engineAsks := rfl
@[simp] theorem State.modGroup_keys (g : Nat) (f : Group → Group) : (s.modGroup g f).keys = s.keys := rfl
@[simp] theorem State.modGroup_pagerFailed (g : Nat) (f : Group → Group) : (s.modGroup g f).pagerFailed = s.pagerFailed := rfl
@[simp] theorem State.modGroup_away (g : Nat) (f : Group → Group) : (s.modGroup g f).away = s.away := rfl
@[simp] theorem State.modGroup_hostBase (g : Nat) (f : Group → Group) : (s.modGroup g f).hostBase = s.hostBase := rfl
@[simp] theorem State.modGroup_hostUp (g : Nat) (f : Group → Group) : (s.modGroup g f).hostUp = s.hostUp := rfl
@[simp] theorem State.modGroup_hostOut (g : Nat) (f : Group → Group) : (s.modGroup g f).hostOut = s.hostOut := rfl
@[simp] theorem State.modGroup_victims (g : Nat) (f : Group → Group) : (s.modGroup g f).victims = s.victims := rfl
@[simp] theorem State.modGroup_slices (g : Nat) (f : Group → Group) : (s.modGroup g f).slices = s.slices := rfl
@[simp] theorem State.modGroup_pinThreshold (g : Nat) (f : Group → Group) : (s.modGroup g f).pinThreshold = s.pinThreshold := rfl
@[simp] theorem State.modGroup_poison (g : Nat) (f : Group → Group) : (s.modGroup g f).poison = s.poison := rfl
@[simp] theorem State.modGroup_fetches (g : Nat) (f : Group → Group) : (s.modGroup g f).fetches = s.fetches := rfl
@[simp] theorem State.modGroup_clasps (g : Nat) (f : Group → Group) : (s.modGroup g f).clasps = s.clasps := rfl
@[simp] theorem State.modGroup_lands (g : Nat) (f : Group → Group) : (s.modGroup g f).lands = s.lands := rfl
@[simp] theorem State.modGroup_vaultParks (g : Nat) (f : Group → Group) : (s.modGroup g f).vaultParks = s.vaultParks := rfl
@[simp] theorem State.modGroup_dims (g : Nat) (f : Group → Group) : (s.modGroup g f).dims = s.dims := rfl
@[simp] theorem State.modGroup_wraps (g : Nat) (f : Group → Group) : (s.modGroup g f).wraps = s.wraps := rfl
@[simp] theorem State.modGroup_detours (g : Nat) (f : Group → Group) : (s.modGroup g f).detours = s.detours := rfl
@[simp] theorem State.modGroup_portsDown (g : Nat) (f : Group → Group) : (s.modGroup g f).portsDown = s.portsDown := rfl
@[simp] theorem State.modGroup_ringPeers (g : Nat) (f : Group → Group) : (s.modGroup g f).ringPeers = s.ringPeers := rfl
@[simp] theorem State.modGroup_forwards (g : Nat) (f : Group → Group) : (s.modGroup g f).forwards = s.forwards := rfl
@[simp] theorem State.modGroup_refusedAge (g : Nat) (f : Group → Group) : (s.modGroup g f).refusedAge = s.refusedAge := rfl
@[simp] theorem State.modGroup_moved (g : Nat) (f : Group → Group) : (s.modGroup g f).moved = s.moved := rfl
@[simp] theorem State.modGroup_feats (g : Nat) (f : Group → Group) : (s.modGroup g f).feats = s.feats := rfl
@[simp] theorem State.modGroup_barBase (g : Nat) (f : Group → Group) : (s.modGroup g f).barBase = s.barBase := rfl
@[simp] theorem State.modGroup_ecc32c (g : Nat) (f : Group → Group) : (s.modGroup g f).ecc32c = s.ecc32c := rfl
@[simp] theorem State.modGroup_device (g : Nat) (f : Group → Group) : (s.modGroup g f).device = s.device := rfl
@[simp] theorem State.modGroup_firmware (g : Nat) (f : Group → Group) : (s.modGroup g f).firmware = s.firmware := rfl
@[simp] theorem State.modGroup_records (g : Nat) (f : Group → Group) : (s.modGroup g f).records = s.records := rfl
@[simp] theorem State.modGroup_flash (g : Nat) (f : Group → Group) : (s.modGroup g f).flash = s.flash := rfl
@[simp] theorem State.modGroup_ckpt (g : Nat) (f : Group → Group) : (s.modGroup g f).ckpt = s.ckpt := rfl
@[simp] theorem State.modGroup_clocks (g : Nat) (f : Group → Group) : (s.modGroup g f).clocks = s.clocks := rfl
@[simp] theorem State.modGroup_hubCopies (g : Nat) (f : Group → Group) : (s.modGroup g f).hubCopies = s.hubCopies := rfl
@[simp] theorem State.modGroup_allocs (g : Nat) (f : Group → Group) : (s.modGroup g f).allocs = s.allocs := rfl
@[simp] theorem State.modGroup_areas (g : Nat) (f : Group → Group) : (s.modGroup g f).areas = s.areas := rfl
@[simp] theorem State.modGroup_givens (g : Nat) (f : Group → Group) : (s.modGroup g f).givens = s.givens := rfl
@[simp] theorem State.modGroup_seqs (g : Nat) (f : Group → Group) : (s.modGroup g f).seqs = s.seqs := rfl
@[simp] theorem State.modGroup_barAnswers (g : Nat) (f : Group → Group) : (s.modGroup g f).barAnswers = s.barAnswers := rfl

/-! ## modContext -/

@[simp] theorem State.modContext_who (c : Nat) (f : Context → Context) : (s.modContext c f).who = s.who := rfl
@[simp] theorem State.modContext_turn (c : Nat) (f : Context → Context) : (s.modContext c f).turn = s.turn := rfl
@[simp] theorem State.modContext_now (c : Nat) (f : Context → Context) : (s.modContext c f).now = s.now := rfl
@[simp] theorem State.modContext_pending (c : Nat) (f : Context → Context) : (s.modContext c f).pending = s.pending := rfl
@[simp] theorem State.modContext_freeCount (c : Nat) (f : Context → Context) : (s.modContext c f).freeCount = s.freeCount := rfl
@[simp] theorem State.modContext_waitCount (c : Nat) (f : Context → Context) : (s.modContext c f).waitCount = s.waitCount := rfl
@[simp] theorem State.modContext_cores (c : Nat) (f : Context → Context) : (s.modContext c f).cores = s.cores := rfl
@[simp] theorem State.modContext_clusters (c : Nat) (f : Context → Context) : (s.modContext c f).clusters = s.clusters := rfl
@[simp] theorem State.modContext_groups (c : Nat) (f : Context → Context) : (s.modContext c f).groups = s.groups := rfl
@[simp] theorem State.modContext_nextGroup (c : Nat) (f : Context → Context) : (s.modContext c f).nextGroup = s.nextGroup := rfl
@[simp] theorem State.modContext_binaries (c : Nat) (f : Context → Context) : (s.modContext c f).binaries = s.binaries := rfl
@[simp] theorem State.modContext_queues (c : Nat) (f : Context → Context) : (s.modContext c f).queues = s.queues := rfl
@[simp] theorem State.modContext_hwSlots (c : Nat) (f : Context → Context) : (s.modContext c f).hwSlots = s.hwSlots := rfl
@[simp] theorem State.modContext_bindCount (c : Nat) (f : Context → Context) : (s.modContext c f).bindCount = s.bindCount := rfl
@[simp] theorem State.modContext_launchCount (c : Nat) (f : Context → Context) : (s.modContext c f).launchCount = s.launchCount := rfl
@[simp] theorem State.modContext_triggers (c : Nat) (f : Context → Context) : (s.modContext c f).triggers = s.triggers := rfl
@[simp] theorem State.modContext_phys (c : Nat) (f : Context → Context) : (s.modContext c f).phys = s.phys := rfl
@[simp] theorem State.modContext_faultSeq (c : Nat) (f : Context → Context) : (s.modContext c f).faultSeq = s.faultSeq := rfl
@[simp] theorem State.modContext_counters (c : Nat) (f : Context → Context) : (s.modContext c f).counters = s.counters := rfl
@[simp] theorem State.modContext_partAddr (c : Nat) (f : Context → Context) : (s.modContext c f).partAddr = s.partAddr := rfl
@[simp] theorem State.modContext_fabricOut (c : Nat) (f : Context → Context) : (s.modContext c f).fabricOut = s.fabricOut := rfl
@[simp] theorem State.modContext_msix (c : Nat) (f : Context → Context) : (s.modContext c f).msix = s.msix := rfl
@[simp] theorem State.modContext_pagerAccs (c : Nat) (f : Context → Context) : (s.modContext c f).pagerAccs = s.pagerAccs := rfl
@[simp] theorem State.modContext_parks (c : Nat) (f : Context → Context) : (s.modContext c f).parks = s.parks := rfl
@[simp] theorem State.modContext_pagerAsks (c : Nat) (f : Context → Context) : (s.modContext c f).pagerAsks = s.pagerAsks := rfl
@[simp] theorem State.modContext_quantum (c : Nat) (f : Context → Context) : (s.modContext c f).quantum = s.quantum := rfl
@[simp] theorem State.modContext_pendCount (c : Nat) (f : Context → Context) : (s.modContext c f).pendCount = s.pendCount := rfl
@[simp] theorem State.modContext_hwTurn (c : Nat) (f : Context → Context) : (s.modContext c f).hwTurn = s.hwTurn := rfl
@[simp] theorem State.modContext_flight (c : Nat) (f : Context → Context) : (s.modContext c f).flight = s.flight := rfl
@[simp] theorem State.modContext_engineAsks (c : Nat) (f : Context → Context) : (s.modContext c f).engineAsks = s.engineAsks := rfl
@[simp] theorem State.modContext_keys (c : Nat) (f : Context → Context) : (s.modContext c f).keys = s.keys := rfl
@[simp] theorem State.modContext_pagerFailed (c : Nat) (f : Context → Context) : (s.modContext c f).pagerFailed = s.pagerFailed := rfl
@[simp] theorem State.modContext_away (c : Nat) (f : Context → Context) : (s.modContext c f).away = s.away := rfl
@[simp] theorem State.modContext_hostBase (c : Nat) (f : Context → Context) : (s.modContext c f).hostBase = s.hostBase := rfl
@[simp] theorem State.modContext_hostUp (c : Nat) (f : Context → Context) : (s.modContext c f).hostUp = s.hostUp := rfl
@[simp] theorem State.modContext_hostOut (c : Nat) (f : Context → Context) : (s.modContext c f).hostOut = s.hostOut := rfl
@[simp] theorem State.modContext_victims (c : Nat) (f : Context → Context) : (s.modContext c f).victims = s.victims := rfl
@[simp] theorem State.modContext_slices (c : Nat) (f : Context → Context) : (s.modContext c f).slices = s.slices := rfl
@[simp] theorem State.modContext_pinThreshold (c : Nat) (f : Context → Context) : (s.modContext c f).pinThreshold = s.pinThreshold := rfl
@[simp] theorem State.modContext_poison (c : Nat) (f : Context → Context) : (s.modContext c f).poison = s.poison := rfl
@[simp] theorem State.modContext_fetches (c : Nat) (f : Context → Context) : (s.modContext c f).fetches = s.fetches := rfl
@[simp] theorem State.modContext_clasps (c : Nat) (f : Context → Context) : (s.modContext c f).clasps = s.clasps := rfl
@[simp] theorem State.modContext_lands (c : Nat) (f : Context → Context) : (s.modContext c f).lands = s.lands := rfl
@[simp] theorem State.modContext_vaultParks (c : Nat) (f : Context → Context) : (s.modContext c f).vaultParks = s.vaultParks := rfl
@[simp] theorem State.modContext_dims (c : Nat) (f : Context → Context) : (s.modContext c f).dims = s.dims := rfl
@[simp] theorem State.modContext_wraps (c : Nat) (f : Context → Context) : (s.modContext c f).wraps = s.wraps := rfl
@[simp] theorem State.modContext_detours (c : Nat) (f : Context → Context) : (s.modContext c f).detours = s.detours := rfl
@[simp] theorem State.modContext_portsDown (c : Nat) (f : Context → Context) : (s.modContext c f).portsDown = s.portsDown := rfl
@[simp] theorem State.modContext_ringPeers (c : Nat) (f : Context → Context) : (s.modContext c f).ringPeers = s.ringPeers := rfl
@[simp] theorem State.modContext_forwards (c : Nat) (f : Context → Context) : (s.modContext c f).forwards = s.forwards := rfl
@[simp] theorem State.modContext_refusedAge (c : Nat) (f : Context → Context) : (s.modContext c f).refusedAge = s.refusedAge := rfl
@[simp] theorem State.modContext_moved (c : Nat) (f : Context → Context) : (s.modContext c f).moved = s.moved := rfl
@[simp] theorem State.modContext_feats (c : Nat) (f : Context → Context) : (s.modContext c f).feats = s.feats := rfl
@[simp] theorem State.modContext_barBase (c : Nat) (f : Context → Context) : (s.modContext c f).barBase = s.barBase := rfl
@[simp] theorem State.modContext_ecc32c (c : Nat) (f : Context → Context) : (s.modContext c f).ecc32c = s.ecc32c := rfl
@[simp] theorem State.modContext_device (c : Nat) (f : Context → Context) : (s.modContext c f).device = s.device := rfl
@[simp] theorem State.modContext_firmware (c : Nat) (f : Context → Context) : (s.modContext c f).firmware = s.firmware := rfl
@[simp] theorem State.modContext_records (c : Nat) (f : Context → Context) : (s.modContext c f).records = s.records := rfl
@[simp] theorem State.modContext_flash (c : Nat) (f : Context → Context) : (s.modContext c f).flash = s.flash := rfl
@[simp] theorem State.modContext_ckpt (c : Nat) (f : Context → Context) : (s.modContext c f).ckpt = s.ckpt := rfl
@[simp] theorem State.modContext_clocks (c : Nat) (f : Context → Context) : (s.modContext c f).clocks = s.clocks := rfl
@[simp] theorem State.modContext_hubCopies (c : Nat) (f : Context → Context) : (s.modContext c f).hubCopies = s.hubCopies := rfl
@[simp] theorem State.modContext_allocs (c : Nat) (f : Context → Context) : (s.modContext c f).allocs = s.allocs := rfl
@[simp] theorem State.modContext_areas (c : Nat) (f : Context → Context) : (s.modContext c f).areas = s.areas := rfl
@[simp] theorem State.modContext_givens (c : Nat) (f : Context → Context) : (s.modContext c f).givens = s.givens := rfl
@[simp] theorem State.modContext_seqs (c : Nat) (f : Context → Context) : (s.modContext c f).seqs = s.seqs := rfl
@[simp] theorem State.modContext_barAnswers (c : Nat) (f : Context → Context) : (s.modContext c f).barAnswers = s.barAnswers := rfl

/-! ## modQueue -/

@[simp] theorem State.modQueue_who (q : Nat) (f : Queue → Queue) : (s.modQueue q f).who = s.who := rfl
@[simp] theorem State.modQueue_turn (q : Nat) (f : Queue → Queue) : (s.modQueue q f).turn = s.turn := rfl
@[simp] theorem State.modQueue_now (q : Nat) (f : Queue → Queue) : (s.modQueue q f).now = s.now := rfl
@[simp] theorem State.modQueue_pending (q : Nat) (f : Queue → Queue) : (s.modQueue q f).pending = s.pending := rfl
@[simp] theorem State.modQueue_freeCount (q : Nat) (f : Queue → Queue) : (s.modQueue q f).freeCount = s.freeCount := rfl
@[simp] theorem State.modQueue_waitCount (q : Nat) (f : Queue → Queue) : (s.modQueue q f).waitCount = s.waitCount := rfl
@[simp] theorem State.modQueue_cores (q : Nat) (f : Queue → Queue) : (s.modQueue q f).cores = s.cores := rfl
@[simp] theorem State.modQueue_clusters (q : Nat) (f : Queue → Queue) : (s.modQueue q f).clusters = s.clusters := rfl
@[simp] theorem State.modQueue_groups (q : Nat) (f : Queue → Queue) : (s.modQueue q f).groups = s.groups := rfl
@[simp] theorem State.modQueue_nextGroup (q : Nat) (f : Queue → Queue) : (s.modQueue q f).nextGroup = s.nextGroup := rfl
@[simp] theorem State.modQueue_contexts (q : Nat) (f : Queue → Queue) : (s.modQueue q f).contexts = s.contexts := rfl
@[simp] theorem State.modQueue_binaries (q : Nat) (f : Queue → Queue) : (s.modQueue q f).binaries = s.binaries := rfl
@[simp] theorem State.modQueue_hwSlots (q : Nat) (f : Queue → Queue) : (s.modQueue q f).hwSlots = s.hwSlots := rfl
@[simp] theorem State.modQueue_bindCount (q : Nat) (f : Queue → Queue) : (s.modQueue q f).bindCount = s.bindCount := rfl
@[simp] theorem State.modQueue_launchCount (q : Nat) (f : Queue → Queue) : (s.modQueue q f).launchCount = s.launchCount := rfl
@[simp] theorem State.modQueue_triggers (q : Nat) (f : Queue → Queue) : (s.modQueue q f).triggers = s.triggers := rfl
@[simp] theorem State.modQueue_phys (q : Nat) (f : Queue → Queue) : (s.modQueue q f).phys = s.phys := rfl
@[simp] theorem State.modQueue_faultSeq (q : Nat) (f : Queue → Queue) : (s.modQueue q f).faultSeq = s.faultSeq := rfl
@[simp] theorem State.modQueue_counters (q : Nat) (f : Queue → Queue) : (s.modQueue q f).counters = s.counters := rfl
@[simp] theorem State.modQueue_partAddr (q : Nat) (f : Queue → Queue) : (s.modQueue q f).partAddr = s.partAddr := rfl
@[simp] theorem State.modQueue_fabricOut (q : Nat) (f : Queue → Queue) : (s.modQueue q f).fabricOut = s.fabricOut := rfl
@[simp] theorem State.modQueue_msix (q : Nat) (f : Queue → Queue) : (s.modQueue q f).msix = s.msix := rfl
@[simp] theorem State.modQueue_pagerAccs (q : Nat) (f : Queue → Queue) : (s.modQueue q f).pagerAccs = s.pagerAccs := rfl
@[simp] theorem State.modQueue_parks (q : Nat) (f : Queue → Queue) : (s.modQueue q f).parks = s.parks := rfl
@[simp] theorem State.modQueue_pagerAsks (q : Nat) (f : Queue → Queue) : (s.modQueue q f).pagerAsks = s.pagerAsks := rfl
@[simp] theorem State.modQueue_quantum (q : Nat) (f : Queue → Queue) : (s.modQueue q f).quantum = s.quantum := rfl
@[simp] theorem State.modQueue_pendCount (q : Nat) (f : Queue → Queue) : (s.modQueue q f).pendCount = s.pendCount := rfl
@[simp] theorem State.modQueue_hwTurn (q : Nat) (f : Queue → Queue) : (s.modQueue q f).hwTurn = s.hwTurn := rfl
@[simp] theorem State.modQueue_flight (q : Nat) (f : Queue → Queue) : (s.modQueue q f).flight = s.flight := rfl
@[simp] theorem State.modQueue_engineAsks (q : Nat) (f : Queue → Queue) : (s.modQueue q f).engineAsks = s.engineAsks := rfl
@[simp] theorem State.modQueue_keys (q : Nat) (f : Queue → Queue) : (s.modQueue q f).keys = s.keys := rfl
@[simp] theorem State.modQueue_pagerFailed (q : Nat) (f : Queue → Queue) : (s.modQueue q f).pagerFailed = s.pagerFailed := rfl
@[simp] theorem State.modQueue_away (q : Nat) (f : Queue → Queue) : (s.modQueue q f).away = s.away := rfl
@[simp] theorem State.modQueue_hostBase (q : Nat) (f : Queue → Queue) : (s.modQueue q f).hostBase = s.hostBase := rfl
@[simp] theorem State.modQueue_hostUp (q : Nat) (f : Queue → Queue) : (s.modQueue q f).hostUp = s.hostUp := rfl
@[simp] theorem State.modQueue_hostOut (q : Nat) (f : Queue → Queue) : (s.modQueue q f).hostOut = s.hostOut := rfl
@[simp] theorem State.modQueue_victims (q : Nat) (f : Queue → Queue) : (s.modQueue q f).victims = s.victims := rfl
@[simp] theorem State.modQueue_slices (q : Nat) (f : Queue → Queue) : (s.modQueue q f).slices = s.slices := rfl
@[simp] theorem State.modQueue_pinThreshold (q : Nat) (f : Queue → Queue) : (s.modQueue q f).pinThreshold = s.pinThreshold := rfl
@[simp] theorem State.modQueue_poison (q : Nat) (f : Queue → Queue) : (s.modQueue q f).poison = s.poison := rfl
@[simp] theorem State.modQueue_fetches (q : Nat) (f : Queue → Queue) : (s.modQueue q f).fetches = s.fetches := rfl
@[simp] theorem State.modQueue_clasps (q : Nat) (f : Queue → Queue) : (s.modQueue q f).clasps = s.clasps := rfl
@[simp] theorem State.modQueue_lands (q : Nat) (f : Queue → Queue) : (s.modQueue q f).lands = s.lands := rfl
@[simp] theorem State.modQueue_vaultParks (q : Nat) (f : Queue → Queue) : (s.modQueue q f).vaultParks = s.vaultParks := rfl
@[simp] theorem State.modQueue_dims (q : Nat) (f : Queue → Queue) : (s.modQueue q f).dims = s.dims := rfl
@[simp] theorem State.modQueue_wraps (q : Nat) (f : Queue → Queue) : (s.modQueue q f).wraps = s.wraps := rfl
@[simp] theorem State.modQueue_detours (q : Nat) (f : Queue → Queue) : (s.modQueue q f).detours = s.detours := rfl
@[simp] theorem State.modQueue_portsDown (q : Nat) (f : Queue → Queue) : (s.modQueue q f).portsDown = s.portsDown := rfl
@[simp] theorem State.modQueue_ringPeers (q : Nat) (f : Queue → Queue) : (s.modQueue q f).ringPeers = s.ringPeers := rfl
@[simp] theorem State.modQueue_forwards (q : Nat) (f : Queue → Queue) : (s.modQueue q f).forwards = s.forwards := rfl
@[simp] theorem State.modQueue_refusedAge (q : Nat) (f : Queue → Queue) : (s.modQueue q f).refusedAge = s.refusedAge := rfl
@[simp] theorem State.modQueue_moved (q : Nat) (f : Queue → Queue) : (s.modQueue q f).moved = s.moved := rfl
@[simp] theorem State.modQueue_feats (q : Nat) (f : Queue → Queue) : (s.modQueue q f).feats = s.feats := rfl
@[simp] theorem State.modQueue_barBase (q : Nat) (f : Queue → Queue) : (s.modQueue q f).barBase = s.barBase := rfl
@[simp] theorem State.modQueue_ecc32c (q : Nat) (f : Queue → Queue) : (s.modQueue q f).ecc32c = s.ecc32c := rfl
@[simp] theorem State.modQueue_device (q : Nat) (f : Queue → Queue) : (s.modQueue q f).device = s.device := rfl
@[simp] theorem State.modQueue_firmware (q : Nat) (f : Queue → Queue) : (s.modQueue q f).firmware = s.firmware := rfl
@[simp] theorem State.modQueue_records (q : Nat) (f : Queue → Queue) : (s.modQueue q f).records = s.records := rfl
@[simp] theorem State.modQueue_flash (q : Nat) (f : Queue → Queue) : (s.modQueue q f).flash = s.flash := rfl
@[simp] theorem State.modQueue_ckpt (q : Nat) (f : Queue → Queue) : (s.modQueue q f).ckpt = s.ckpt := rfl
@[simp] theorem State.modQueue_clocks (q : Nat) (f : Queue → Queue) : (s.modQueue q f).clocks = s.clocks := rfl
@[simp] theorem State.modQueue_hubCopies (q : Nat) (f : Queue → Queue) : (s.modQueue q f).hubCopies = s.hubCopies := rfl
@[simp] theorem State.modQueue_allocs (q : Nat) (f : Queue → Queue) : (s.modQueue q f).allocs = s.allocs := rfl
@[simp] theorem State.modQueue_areas (q : Nat) (f : Queue → Queue) : (s.modQueue q f).areas = s.areas := rfl
@[simp] theorem State.modQueue_givens (q : Nat) (f : Queue → Queue) : (s.modQueue q f).givens = s.givens := rfl
@[simp] theorem State.modQueue_seqs (q : Nat) (f : Queue → Queue) : (s.modQueue q f).seqs = s.seqs := rfl
@[simp] theorem State.modQueue_barAnswers (q : Nat) (f : Queue → Queue) : (s.modQueue q f).barAnswers = s.barAnswers := rfl

/-! ## count -/

@[simp] theorem State.count_who (c : Cause) : (s.count c).who = s.who := rfl
@[simp] theorem State.count_turn (c : Cause) : (s.count c).turn = s.turn := rfl
@[simp] theorem State.count_now (c : Cause) : (s.count c).now = s.now := rfl
@[simp] theorem State.count_pending (c : Cause) : (s.count c).pending = s.pending := rfl
@[simp] theorem State.count_freeCount (c : Cause) : (s.count c).freeCount = s.freeCount := rfl
@[simp] theorem State.count_waitCount (c : Cause) : (s.count c).waitCount = s.waitCount := rfl
@[simp] theorem State.count_cores (c : Cause) : (s.count c).cores = s.cores := rfl
@[simp] theorem State.count_clusters (c : Cause) : (s.count c).clusters = s.clusters := rfl
@[simp] theorem State.count_groups (c : Cause) : (s.count c).groups = s.groups := rfl
@[simp] theorem State.count_nextGroup (c : Cause) : (s.count c).nextGroup = s.nextGroup := rfl
@[simp] theorem State.count_contexts (c : Cause) : (s.count c).contexts = s.contexts := rfl
@[simp] theorem State.count_binaries (c : Cause) : (s.count c).binaries = s.binaries := rfl
@[simp] theorem State.count_queues (c : Cause) : (s.count c).queues = s.queues := rfl
@[simp] theorem State.count_hwSlots (c : Cause) : (s.count c).hwSlots = s.hwSlots := rfl
@[simp] theorem State.count_bindCount (c : Cause) : (s.count c).bindCount = s.bindCount := rfl
@[simp] theorem State.count_launchCount (c : Cause) : (s.count c).launchCount = s.launchCount := rfl
@[simp] theorem State.count_triggers (c : Cause) : (s.count c).triggers = s.triggers := rfl
@[simp] theorem State.count_phys (c : Cause) : (s.count c).phys = s.phys := rfl
@[simp] theorem State.count_faultSeq (c : Cause) : (s.count c).faultSeq = s.faultSeq := rfl
@[simp] theorem State.count_partAddr (c : Cause) : (s.count c).partAddr = s.partAddr := rfl
@[simp] theorem State.count_fabricOut (c : Cause) : (s.count c).fabricOut = s.fabricOut := rfl
@[simp] theorem State.count_msix (c : Cause) : (s.count c).msix = s.msix := rfl
@[simp] theorem State.count_pagerAccs (c : Cause) : (s.count c).pagerAccs = s.pagerAccs := rfl
@[simp] theorem State.count_parks (c : Cause) : (s.count c).parks = s.parks := rfl
@[simp] theorem State.count_pagerAsks (c : Cause) : (s.count c).pagerAsks = s.pagerAsks := rfl
@[simp] theorem State.count_quantum (c : Cause) : (s.count c).quantum = s.quantum := rfl
@[simp] theorem State.count_pendCount (c : Cause) : (s.count c).pendCount = s.pendCount := rfl
@[simp] theorem State.count_hwTurn (c : Cause) : (s.count c).hwTurn = s.hwTurn := rfl
@[simp] theorem State.count_flight (c : Cause) : (s.count c).flight = s.flight := rfl
@[simp] theorem State.count_engineAsks (c : Cause) : (s.count c).engineAsks = s.engineAsks := rfl
@[simp] theorem State.count_keys (c : Cause) : (s.count c).keys = s.keys := rfl
@[simp] theorem State.count_pagerFailed (c : Cause) : (s.count c).pagerFailed = s.pagerFailed := rfl
@[simp] theorem State.count_away (c : Cause) : (s.count c).away = s.away := rfl
@[simp] theorem State.count_hostBase (c : Cause) : (s.count c).hostBase = s.hostBase := rfl
@[simp] theorem State.count_hostUp (c : Cause) : (s.count c).hostUp = s.hostUp := rfl
@[simp] theorem State.count_hostOut (c : Cause) : (s.count c).hostOut = s.hostOut := rfl
@[simp] theorem State.count_victims (c : Cause) : (s.count c).victims = s.victims := rfl
@[simp] theorem State.count_slices (c : Cause) : (s.count c).slices = s.slices := rfl
@[simp] theorem State.count_pinThreshold (c : Cause) : (s.count c).pinThreshold = s.pinThreshold := rfl
@[simp] theorem State.count_poison (c : Cause) : (s.count c).poison = s.poison := rfl
@[simp] theorem State.count_fetches (c : Cause) : (s.count c).fetches = s.fetches := rfl
@[simp] theorem State.count_clasps (c : Cause) : (s.count c).clasps = s.clasps := rfl
@[simp] theorem State.count_lands (c : Cause) : (s.count c).lands = s.lands := rfl
@[simp] theorem State.count_vaultParks (c : Cause) : (s.count c).vaultParks = s.vaultParks := rfl
@[simp] theorem State.count_dims (c : Cause) : (s.count c).dims = s.dims := rfl
@[simp] theorem State.count_wraps (c : Cause) : (s.count c).wraps = s.wraps := rfl
@[simp] theorem State.count_detours (c : Cause) : (s.count c).detours = s.detours := rfl
@[simp] theorem State.count_portsDown (c : Cause) : (s.count c).portsDown = s.portsDown := rfl
@[simp] theorem State.count_ringPeers (c : Cause) : (s.count c).ringPeers = s.ringPeers := rfl
@[simp] theorem State.count_forwards (c : Cause) : (s.count c).forwards = s.forwards := rfl
@[simp] theorem State.count_refusedAge (c : Cause) : (s.count c).refusedAge = s.refusedAge := rfl
@[simp] theorem State.count_moved (c : Cause) : (s.count c).moved = s.moved := rfl
@[simp] theorem State.count_feats (c : Cause) : (s.count c).feats = s.feats := rfl
@[simp] theorem State.count_barBase (c : Cause) : (s.count c).barBase = s.barBase := rfl
@[simp] theorem State.count_ecc32c (c : Cause) : (s.count c).ecc32c = s.ecc32c := rfl
@[simp] theorem State.count_device (c : Cause) : (s.count c).device = s.device := rfl
@[simp] theorem State.count_firmware (c : Cause) : (s.count c).firmware = s.firmware := rfl
@[simp] theorem State.count_records (c : Cause) : (s.count c).records = s.records := rfl
@[simp] theorem State.count_flash (c : Cause) : (s.count c).flash = s.flash := rfl
@[simp] theorem State.count_ckpt (c : Cause) : (s.count c).ckpt = s.ckpt := rfl
@[simp] theorem State.count_clocks (c : Cause) : (s.count c).clocks = s.clocks := rfl
@[simp] theorem State.count_hubCopies (c : Cause) : (s.count c).hubCopies = s.hubCopies := rfl
@[simp] theorem State.count_allocs (c : Cause) : (s.count c).allocs = s.allocs := rfl
@[simp] theorem State.count_areas (c : Cause) : (s.count c).areas = s.areas := rfl
@[simp] theorem State.count_givens (c : Cause) : (s.count c).givens = s.givens := rfl
@[simp] theorem State.count_seqs (c : Cause) : (s.count c).seqs = s.seqs := rfl
@[simp] theorem State.count_barAnswers (c : Cause) : (s.count c).barAnswers = s.barAnswers := rfl

/-! ## raiseMsix -/

@[simp] theorem State.raiseMsix_who (v : Nat) : (s.raiseMsix v).who = s.who := rfl
@[simp] theorem State.raiseMsix_turn (v : Nat) : (s.raiseMsix v).turn = s.turn := rfl
@[simp] theorem State.raiseMsix_now (v : Nat) : (s.raiseMsix v).now = s.now := rfl
@[simp] theorem State.raiseMsix_pending (v : Nat) : (s.raiseMsix v).pending = s.pending := rfl
@[simp] theorem State.raiseMsix_freeCount (v : Nat) : (s.raiseMsix v).freeCount = s.freeCount := rfl
@[simp] theorem State.raiseMsix_waitCount (v : Nat) : (s.raiseMsix v).waitCount = s.waitCount := rfl
@[simp] theorem State.raiseMsix_cores (v : Nat) : (s.raiseMsix v).cores = s.cores := rfl
@[simp] theorem State.raiseMsix_clusters (v : Nat) : (s.raiseMsix v).clusters = s.clusters := rfl
@[simp] theorem State.raiseMsix_groups (v : Nat) : (s.raiseMsix v).groups = s.groups := rfl
@[simp] theorem State.raiseMsix_nextGroup (v : Nat) : (s.raiseMsix v).nextGroup = s.nextGroup := rfl
@[simp] theorem State.raiseMsix_contexts (v : Nat) : (s.raiseMsix v).contexts = s.contexts := rfl
@[simp] theorem State.raiseMsix_binaries (v : Nat) : (s.raiseMsix v).binaries = s.binaries := rfl
@[simp] theorem State.raiseMsix_queues (v : Nat) : (s.raiseMsix v).queues = s.queues := rfl
@[simp] theorem State.raiseMsix_hwSlots (v : Nat) : (s.raiseMsix v).hwSlots = s.hwSlots := rfl
@[simp] theorem State.raiseMsix_bindCount (v : Nat) : (s.raiseMsix v).bindCount = s.bindCount := rfl
@[simp] theorem State.raiseMsix_launchCount (v : Nat) : (s.raiseMsix v).launchCount = s.launchCount := rfl
@[simp] theorem State.raiseMsix_triggers (v : Nat) : (s.raiseMsix v).triggers = s.triggers := rfl
@[simp] theorem State.raiseMsix_phys (v : Nat) : (s.raiseMsix v).phys = s.phys := rfl
@[simp] theorem State.raiseMsix_faultSeq (v : Nat) : (s.raiseMsix v).faultSeq = s.faultSeq := rfl
@[simp] theorem State.raiseMsix_counters (v : Nat) : (s.raiseMsix v).counters = s.counters := rfl
@[simp] theorem State.raiseMsix_partAddr (v : Nat) : (s.raiseMsix v).partAddr = s.partAddr := rfl
@[simp] theorem State.raiseMsix_fabricOut (v : Nat) : (s.raiseMsix v).fabricOut = s.fabricOut := rfl
@[simp] theorem State.raiseMsix_pagerAccs (v : Nat) : (s.raiseMsix v).pagerAccs = s.pagerAccs := rfl
@[simp] theorem State.raiseMsix_parks (v : Nat) : (s.raiseMsix v).parks = s.parks := rfl
@[simp] theorem State.raiseMsix_pagerAsks (v : Nat) : (s.raiseMsix v).pagerAsks = s.pagerAsks := rfl
@[simp] theorem State.raiseMsix_quantum (v : Nat) : (s.raiseMsix v).quantum = s.quantum := rfl
@[simp] theorem State.raiseMsix_pendCount (v : Nat) : (s.raiseMsix v).pendCount = s.pendCount := rfl
@[simp] theorem State.raiseMsix_hwTurn (v : Nat) : (s.raiseMsix v).hwTurn = s.hwTurn := rfl
@[simp] theorem State.raiseMsix_flight (v : Nat) : (s.raiseMsix v).flight = s.flight := rfl
@[simp] theorem State.raiseMsix_engineAsks (v : Nat) : (s.raiseMsix v).engineAsks = s.engineAsks := rfl
@[simp] theorem State.raiseMsix_keys (v : Nat) : (s.raiseMsix v).keys = s.keys := rfl
@[simp] theorem State.raiseMsix_pagerFailed (v : Nat) : (s.raiseMsix v).pagerFailed = s.pagerFailed := rfl
@[simp] theorem State.raiseMsix_away (v : Nat) : (s.raiseMsix v).away = s.away := rfl
@[simp] theorem State.raiseMsix_hostBase (v : Nat) : (s.raiseMsix v).hostBase = s.hostBase := rfl
@[simp] theorem State.raiseMsix_hostUp (v : Nat) : (s.raiseMsix v).hostUp = s.hostUp := rfl
@[simp] theorem State.raiseMsix_hostOut (v : Nat) : (s.raiseMsix v).hostOut = s.hostOut := rfl
@[simp] theorem State.raiseMsix_victims (v : Nat) : (s.raiseMsix v).victims = s.victims := rfl
@[simp] theorem State.raiseMsix_slices (v : Nat) : (s.raiseMsix v).slices = s.slices := rfl
@[simp] theorem State.raiseMsix_pinThreshold (v : Nat) : (s.raiseMsix v).pinThreshold = s.pinThreshold := rfl
@[simp] theorem State.raiseMsix_poison (v : Nat) : (s.raiseMsix v).poison = s.poison := rfl
@[simp] theorem State.raiseMsix_fetches (v : Nat) : (s.raiseMsix v).fetches = s.fetches := rfl
@[simp] theorem State.raiseMsix_clasps (v : Nat) : (s.raiseMsix v).clasps = s.clasps := rfl
@[simp] theorem State.raiseMsix_lands (v : Nat) : (s.raiseMsix v).lands = s.lands := rfl
@[simp] theorem State.raiseMsix_vaultParks (v : Nat) : (s.raiseMsix v).vaultParks = s.vaultParks := rfl
@[simp] theorem State.raiseMsix_dims (v : Nat) : (s.raiseMsix v).dims = s.dims := rfl
@[simp] theorem State.raiseMsix_wraps (v : Nat) : (s.raiseMsix v).wraps = s.wraps := rfl
@[simp] theorem State.raiseMsix_detours (v : Nat) : (s.raiseMsix v).detours = s.detours := rfl
@[simp] theorem State.raiseMsix_portsDown (v : Nat) : (s.raiseMsix v).portsDown = s.portsDown := rfl
@[simp] theorem State.raiseMsix_ringPeers (v : Nat) : (s.raiseMsix v).ringPeers = s.ringPeers := rfl
@[simp] theorem State.raiseMsix_forwards (v : Nat) : (s.raiseMsix v).forwards = s.forwards := rfl
@[simp] theorem State.raiseMsix_refusedAge (v : Nat) : (s.raiseMsix v).refusedAge = s.refusedAge := rfl
@[simp] theorem State.raiseMsix_moved (v : Nat) : (s.raiseMsix v).moved = s.moved := rfl
@[simp] theorem State.raiseMsix_feats (v : Nat) : (s.raiseMsix v).feats = s.feats := rfl
@[simp] theorem State.raiseMsix_barBase (v : Nat) : (s.raiseMsix v).barBase = s.barBase := rfl
@[simp] theorem State.raiseMsix_ecc32c (v : Nat) : (s.raiseMsix v).ecc32c = s.ecc32c := rfl
@[simp] theorem State.raiseMsix_firmware (v : Nat) : (s.raiseMsix v).firmware = s.firmware := rfl
@[simp] theorem State.raiseMsix_records (v : Nat) : (s.raiseMsix v).records = s.records := rfl
@[simp] theorem State.raiseMsix_flash (v : Nat) : (s.raiseMsix v).flash = s.flash := rfl
@[simp] theorem State.raiseMsix_ckpt (v : Nat) : (s.raiseMsix v).ckpt = s.ckpt := rfl
@[simp] theorem State.raiseMsix_clocks (v : Nat) : (s.raiseMsix v).clocks = s.clocks := rfl
@[simp] theorem State.raiseMsix_hubCopies (v : Nat) : (s.raiseMsix v).hubCopies = s.hubCopies := rfl
@[simp] theorem State.raiseMsix_allocs (v : Nat) : (s.raiseMsix v).allocs = s.allocs := rfl
@[simp] theorem State.raiseMsix_areas (v : Nat) : (s.raiseMsix v).areas = s.areas := rfl
@[simp] theorem State.raiseMsix_givens (v : Nat) : (s.raiseMsix v).givens = s.givens := rfl
@[simp] theorem State.raiseMsix_seqs (v : Nat) : (s.raiseMsix v).seqs = s.seqs := rfl
@[simp] theorem State.raiseMsix_barAnswers (v : Nat) : (s.raiseMsix v).barAnswers = s.barAnswers := rfl

/-! ## modDevice -/

@[simp] theorem State.modDevice_who (f : Device → Device) : (s.modDevice f).who = s.who := rfl
@[simp] theorem State.modDevice_turn (f : Device → Device) : (s.modDevice f).turn = s.turn := rfl
@[simp] theorem State.modDevice_now (f : Device → Device) : (s.modDevice f).now = s.now := rfl
@[simp] theorem State.modDevice_pending (f : Device → Device) : (s.modDevice f).pending = s.pending := rfl
@[simp] theorem State.modDevice_freeCount (f : Device → Device) : (s.modDevice f).freeCount = s.freeCount := rfl
@[simp] theorem State.modDevice_waitCount (f : Device → Device) : (s.modDevice f).waitCount = s.waitCount := rfl
@[simp] theorem State.modDevice_cores (f : Device → Device) : (s.modDevice f).cores = s.cores := rfl
@[simp] theorem State.modDevice_clusters (f : Device → Device) : (s.modDevice f).clusters = s.clusters := rfl
@[simp] theorem State.modDevice_groups (f : Device → Device) : (s.modDevice f).groups = s.groups := rfl
@[simp] theorem State.modDevice_nextGroup (f : Device → Device) : (s.modDevice f).nextGroup = s.nextGroup := rfl
@[simp] theorem State.modDevice_contexts (f : Device → Device) : (s.modDevice f).contexts = s.contexts := rfl
@[simp] theorem State.modDevice_binaries (f : Device → Device) : (s.modDevice f).binaries = s.binaries := rfl
@[simp] theorem State.modDevice_queues (f : Device → Device) : (s.modDevice f).queues = s.queues := rfl
@[simp] theorem State.modDevice_hwSlots (f : Device → Device) : (s.modDevice f).hwSlots = s.hwSlots := rfl
@[simp] theorem State.modDevice_bindCount (f : Device → Device) : (s.modDevice f).bindCount = s.bindCount := rfl
@[simp] theorem State.modDevice_launchCount (f : Device → Device) : (s.modDevice f).launchCount = s.launchCount := rfl
@[simp] theorem State.modDevice_triggers (f : Device → Device) : (s.modDevice f).triggers = s.triggers := rfl
@[simp] theorem State.modDevice_phys (f : Device → Device) : (s.modDevice f).phys = s.phys := rfl
@[simp] theorem State.modDevice_faultSeq (f : Device → Device) : (s.modDevice f).faultSeq = s.faultSeq := rfl
@[simp] theorem State.modDevice_counters (f : Device → Device) : (s.modDevice f).counters = s.counters := rfl
@[simp] theorem State.modDevice_partAddr (f : Device → Device) : (s.modDevice f).partAddr = s.partAddr := rfl
@[simp] theorem State.modDevice_fabricOut (f : Device → Device) : (s.modDevice f).fabricOut = s.fabricOut := rfl
@[simp] theorem State.modDevice_msix (f : Device → Device) : (s.modDevice f).msix = s.msix := rfl
@[simp] theorem State.modDevice_pagerAccs (f : Device → Device) : (s.modDevice f).pagerAccs = s.pagerAccs := rfl
@[simp] theorem State.modDevice_parks (f : Device → Device) : (s.modDevice f).parks = s.parks := rfl
@[simp] theorem State.modDevice_pagerAsks (f : Device → Device) : (s.modDevice f).pagerAsks = s.pagerAsks := rfl
@[simp] theorem State.modDevice_quantum (f : Device → Device) : (s.modDevice f).quantum = s.quantum := rfl
@[simp] theorem State.modDevice_pendCount (f : Device → Device) : (s.modDevice f).pendCount = s.pendCount := rfl
@[simp] theorem State.modDevice_hwTurn (f : Device → Device) : (s.modDevice f).hwTurn = s.hwTurn := rfl
@[simp] theorem State.modDevice_flight (f : Device → Device) : (s.modDevice f).flight = s.flight := rfl
@[simp] theorem State.modDevice_engineAsks (f : Device → Device) : (s.modDevice f).engineAsks = s.engineAsks := rfl
@[simp] theorem State.modDevice_keys (f : Device → Device) : (s.modDevice f).keys = s.keys := rfl
@[simp] theorem State.modDevice_pagerFailed (f : Device → Device) : (s.modDevice f).pagerFailed = s.pagerFailed := rfl
@[simp] theorem State.modDevice_away (f : Device → Device) : (s.modDevice f).away = s.away := rfl
@[simp] theorem State.modDevice_hostBase (f : Device → Device) : (s.modDevice f).hostBase = s.hostBase := rfl
@[simp] theorem State.modDevice_hostUp (f : Device → Device) : (s.modDevice f).hostUp = s.hostUp := rfl
@[simp] theorem State.modDevice_hostOut (f : Device → Device) : (s.modDevice f).hostOut = s.hostOut := rfl
@[simp] theorem State.modDevice_victims (f : Device → Device) : (s.modDevice f).victims = s.victims := rfl
@[simp] theorem State.modDevice_slices (f : Device → Device) : (s.modDevice f).slices = s.slices := rfl
@[simp] theorem State.modDevice_pinThreshold (f : Device → Device) : (s.modDevice f).pinThreshold = s.pinThreshold := rfl
@[simp] theorem State.modDevice_poison (f : Device → Device) : (s.modDevice f).poison = s.poison := rfl
@[simp] theorem State.modDevice_fetches (f : Device → Device) : (s.modDevice f).fetches = s.fetches := rfl
@[simp] theorem State.modDevice_clasps (f : Device → Device) : (s.modDevice f).clasps = s.clasps := rfl
@[simp] theorem State.modDevice_lands (f : Device → Device) : (s.modDevice f).lands = s.lands := rfl
@[simp] theorem State.modDevice_vaultParks (f : Device → Device) : (s.modDevice f).vaultParks = s.vaultParks := rfl
@[simp] theorem State.modDevice_dims (f : Device → Device) : (s.modDevice f).dims = s.dims := rfl
@[simp] theorem State.modDevice_wraps (f : Device → Device) : (s.modDevice f).wraps = s.wraps := rfl
@[simp] theorem State.modDevice_detours (f : Device → Device) : (s.modDevice f).detours = s.detours := rfl
@[simp] theorem State.modDevice_portsDown (f : Device → Device) : (s.modDevice f).portsDown = s.portsDown := rfl
@[simp] theorem State.modDevice_ringPeers (f : Device → Device) : (s.modDevice f).ringPeers = s.ringPeers := rfl
@[simp] theorem State.modDevice_forwards (f : Device → Device) : (s.modDevice f).forwards = s.forwards := rfl
@[simp] theorem State.modDevice_refusedAge (f : Device → Device) : (s.modDevice f).refusedAge = s.refusedAge := rfl
@[simp] theorem State.modDevice_moved (f : Device → Device) : (s.modDevice f).moved = s.moved := rfl
@[simp] theorem State.modDevice_feats (f : Device → Device) : (s.modDevice f).feats = s.feats := rfl
@[simp] theorem State.modDevice_barBase (f : Device → Device) : (s.modDevice f).barBase = s.barBase := rfl
@[simp] theorem State.modDevice_ecc32c (f : Device → Device) : (s.modDevice f).ecc32c = s.ecc32c := rfl
@[simp] theorem State.modDevice_firmware (f : Device → Device) : (s.modDevice f).firmware = s.firmware := rfl
@[simp] theorem State.modDevice_records (f : Device → Device) : (s.modDevice f).records = s.records := rfl
@[simp] theorem State.modDevice_flash (f : Device → Device) : (s.modDevice f).flash = s.flash := rfl
@[simp] theorem State.modDevice_ckpt (f : Device → Device) : (s.modDevice f).ckpt = s.ckpt := rfl
@[simp] theorem State.modDevice_clocks (f : Device → Device) : (s.modDevice f).clocks = s.clocks := rfl
@[simp] theorem State.modDevice_hubCopies (f : Device → Device) : (s.modDevice f).hubCopies = s.hubCopies := rfl
@[simp] theorem State.modDevice_allocs (f : Device → Device) : (s.modDevice f).allocs = s.allocs := rfl
@[simp] theorem State.modDevice_areas (f : Device → Device) : (s.modDevice f).areas = s.areas := rfl
@[simp] theorem State.modDevice_givens (f : Device → Device) : (s.modDevice f).givens = s.givens := rfl
@[simp] theorem State.modDevice_seqs (f : Device → Device) : (s.modDevice f).seqs = s.seqs := rfl
@[simp] theorem State.modDevice_barAnswers (f : Device → Device) : (s.modDevice f).barAnswers = s.barAnswers := rfl

/-! ## modFirmware -/

@[simp] theorem State.modFirmware_who (f : Firmware → Firmware) : (s.modFirmware f).who = s.who := rfl
@[simp] theorem State.modFirmware_turn (f : Firmware → Firmware) : (s.modFirmware f).turn = s.turn := rfl
@[simp] theorem State.modFirmware_now (f : Firmware → Firmware) : (s.modFirmware f).now = s.now := rfl
@[simp] theorem State.modFirmware_pending (f : Firmware → Firmware) : (s.modFirmware f).pending = s.pending := rfl
@[simp] theorem State.modFirmware_freeCount (f : Firmware → Firmware) : (s.modFirmware f).freeCount = s.freeCount := rfl
@[simp] theorem State.modFirmware_waitCount (f : Firmware → Firmware) : (s.modFirmware f).waitCount = s.waitCount := rfl
@[simp] theorem State.modFirmware_cores (f : Firmware → Firmware) : (s.modFirmware f).cores = s.cores := rfl
@[simp] theorem State.modFirmware_clusters (f : Firmware → Firmware) : (s.modFirmware f).clusters = s.clusters := rfl
@[simp] theorem State.modFirmware_groups (f : Firmware → Firmware) : (s.modFirmware f).groups = s.groups := rfl
@[simp] theorem State.modFirmware_nextGroup (f : Firmware → Firmware) : (s.modFirmware f).nextGroup = s.nextGroup := rfl
@[simp] theorem State.modFirmware_contexts (f : Firmware → Firmware) : (s.modFirmware f).contexts = s.contexts := rfl
@[simp] theorem State.modFirmware_binaries (f : Firmware → Firmware) : (s.modFirmware f).binaries = s.binaries := rfl
@[simp] theorem State.modFirmware_queues (f : Firmware → Firmware) : (s.modFirmware f).queues = s.queues := rfl
@[simp] theorem State.modFirmware_hwSlots (f : Firmware → Firmware) : (s.modFirmware f).hwSlots = s.hwSlots := rfl
@[simp] theorem State.modFirmware_bindCount (f : Firmware → Firmware) : (s.modFirmware f).bindCount = s.bindCount := rfl
@[simp] theorem State.modFirmware_launchCount (f : Firmware → Firmware) : (s.modFirmware f).launchCount = s.launchCount := rfl
@[simp] theorem State.modFirmware_triggers (f : Firmware → Firmware) : (s.modFirmware f).triggers = s.triggers := rfl
@[simp] theorem State.modFirmware_phys (f : Firmware → Firmware) : (s.modFirmware f).phys = s.phys := rfl
@[simp] theorem State.modFirmware_faultSeq (f : Firmware → Firmware) : (s.modFirmware f).faultSeq = s.faultSeq := rfl
@[simp] theorem State.modFirmware_counters (f : Firmware → Firmware) : (s.modFirmware f).counters = s.counters := rfl
@[simp] theorem State.modFirmware_partAddr (f : Firmware → Firmware) : (s.modFirmware f).partAddr = s.partAddr := rfl
@[simp] theorem State.modFirmware_fabricOut (f : Firmware → Firmware) : (s.modFirmware f).fabricOut = s.fabricOut := rfl
@[simp] theorem State.modFirmware_msix (f : Firmware → Firmware) : (s.modFirmware f).msix = s.msix := rfl
@[simp] theorem State.modFirmware_pagerAccs (f : Firmware → Firmware) : (s.modFirmware f).pagerAccs = s.pagerAccs := rfl
@[simp] theorem State.modFirmware_parks (f : Firmware → Firmware) : (s.modFirmware f).parks = s.parks := rfl
@[simp] theorem State.modFirmware_pagerAsks (f : Firmware → Firmware) : (s.modFirmware f).pagerAsks = s.pagerAsks := rfl
@[simp] theorem State.modFirmware_quantum (f : Firmware → Firmware) : (s.modFirmware f).quantum = s.quantum := rfl
@[simp] theorem State.modFirmware_pendCount (f : Firmware → Firmware) : (s.modFirmware f).pendCount = s.pendCount := rfl
@[simp] theorem State.modFirmware_hwTurn (f : Firmware → Firmware) : (s.modFirmware f).hwTurn = s.hwTurn := rfl
@[simp] theorem State.modFirmware_flight (f : Firmware → Firmware) : (s.modFirmware f).flight = s.flight := rfl
@[simp] theorem State.modFirmware_engineAsks (f : Firmware → Firmware) : (s.modFirmware f).engineAsks = s.engineAsks := rfl
@[simp] theorem State.modFirmware_keys (f : Firmware → Firmware) : (s.modFirmware f).keys = s.keys := rfl
@[simp] theorem State.modFirmware_pagerFailed (f : Firmware → Firmware) : (s.modFirmware f).pagerFailed = s.pagerFailed := rfl
@[simp] theorem State.modFirmware_away (f : Firmware → Firmware) : (s.modFirmware f).away = s.away := rfl
@[simp] theorem State.modFirmware_hostBase (f : Firmware → Firmware) : (s.modFirmware f).hostBase = s.hostBase := rfl
@[simp] theorem State.modFirmware_hostUp (f : Firmware → Firmware) : (s.modFirmware f).hostUp = s.hostUp := rfl
@[simp] theorem State.modFirmware_hostOut (f : Firmware → Firmware) : (s.modFirmware f).hostOut = s.hostOut := rfl
@[simp] theorem State.modFirmware_victims (f : Firmware → Firmware) : (s.modFirmware f).victims = s.victims := rfl
@[simp] theorem State.modFirmware_slices (f : Firmware → Firmware) : (s.modFirmware f).slices = s.slices := rfl
@[simp] theorem State.modFirmware_pinThreshold (f : Firmware → Firmware) : (s.modFirmware f).pinThreshold = s.pinThreshold := rfl
@[simp] theorem State.modFirmware_poison (f : Firmware → Firmware) : (s.modFirmware f).poison = s.poison := rfl
@[simp] theorem State.modFirmware_fetches (f : Firmware → Firmware) : (s.modFirmware f).fetches = s.fetches := rfl
@[simp] theorem State.modFirmware_clasps (f : Firmware → Firmware) : (s.modFirmware f).clasps = s.clasps := rfl
@[simp] theorem State.modFirmware_lands (f : Firmware → Firmware) : (s.modFirmware f).lands = s.lands := rfl
@[simp] theorem State.modFirmware_vaultParks (f : Firmware → Firmware) : (s.modFirmware f).vaultParks = s.vaultParks := rfl
@[simp] theorem State.modFirmware_dims (f : Firmware → Firmware) : (s.modFirmware f).dims = s.dims := rfl
@[simp] theorem State.modFirmware_wraps (f : Firmware → Firmware) : (s.modFirmware f).wraps = s.wraps := rfl
@[simp] theorem State.modFirmware_detours (f : Firmware → Firmware) : (s.modFirmware f).detours = s.detours := rfl
@[simp] theorem State.modFirmware_portsDown (f : Firmware → Firmware) : (s.modFirmware f).portsDown = s.portsDown := rfl
@[simp] theorem State.modFirmware_ringPeers (f : Firmware → Firmware) : (s.modFirmware f).ringPeers = s.ringPeers := rfl
@[simp] theorem State.modFirmware_forwards (f : Firmware → Firmware) : (s.modFirmware f).forwards = s.forwards := rfl
@[simp] theorem State.modFirmware_refusedAge (f : Firmware → Firmware) : (s.modFirmware f).refusedAge = s.refusedAge := rfl
@[simp] theorem State.modFirmware_moved (f : Firmware → Firmware) : (s.modFirmware f).moved = s.moved := rfl
@[simp] theorem State.modFirmware_feats (f : Firmware → Firmware) : (s.modFirmware f).feats = s.feats := rfl
@[simp] theorem State.modFirmware_barBase (f : Firmware → Firmware) : (s.modFirmware f).barBase = s.barBase := rfl
@[simp] theorem State.modFirmware_ecc32c (f : Firmware → Firmware) : (s.modFirmware f).ecc32c = s.ecc32c := rfl
@[simp] theorem State.modFirmware_device (f : Firmware → Firmware) : (s.modFirmware f).device = s.device := rfl
@[simp] theorem State.modFirmware_records (f : Firmware → Firmware) : (s.modFirmware f).records = s.records := rfl
@[simp] theorem State.modFirmware_flash (f : Firmware → Firmware) : (s.modFirmware f).flash = s.flash := rfl
@[simp] theorem State.modFirmware_ckpt (f : Firmware → Firmware) : (s.modFirmware f).ckpt = s.ckpt := rfl
@[simp] theorem State.modFirmware_clocks (f : Firmware → Firmware) : (s.modFirmware f).clocks = s.clocks := rfl
@[simp] theorem State.modFirmware_hubCopies (f : Firmware → Firmware) : (s.modFirmware f).hubCopies = s.hubCopies := rfl
@[simp] theorem State.modFirmware_allocs (f : Firmware → Firmware) : (s.modFirmware f).allocs = s.allocs := rfl
@[simp] theorem State.modFirmware_areas (f : Firmware → Firmware) : (s.modFirmware f).areas = s.areas := rfl
@[simp] theorem State.modFirmware_givens (f : Firmware → Firmware) : (s.modFirmware f).givens = s.givens := rfl
@[simp] theorem State.modFirmware_seqs (f : Firmware → Firmware) : (s.modFirmware f).seqs = s.seqs := rfl
@[simp] theorem State.modFirmware_barAnswers (f : Firmware → Firmware) : (s.modFirmware f).barAnswers = s.barAnswers := rfl

/-! ## modCluster -/

@[simp] theorem State.modCluster_who (k : Nat) (f : Cluster → Cluster) : (s.modCluster k f).who = s.who := rfl
@[simp] theorem State.modCluster_turn (k : Nat) (f : Cluster → Cluster) : (s.modCluster k f).turn = s.turn := rfl
@[simp] theorem State.modCluster_now (k : Nat) (f : Cluster → Cluster) : (s.modCluster k f).now = s.now := rfl
@[simp] theorem State.modCluster_pending (k : Nat) (f : Cluster → Cluster) : (s.modCluster k f).pending = s.pending := rfl
@[simp] theorem State.modCluster_freeCount (k : Nat) (f : Cluster → Cluster) : (s.modCluster k f).freeCount = s.freeCount := rfl
@[simp] theorem State.modCluster_waitCount (k : Nat) (f : Cluster → Cluster) : (s.modCluster k f).waitCount = s.waitCount := rfl
@[simp] theorem State.modCluster_cores (k : Nat) (f : Cluster → Cluster) : (s.modCluster k f).cores = s.cores := rfl
@[simp] theorem State.modCluster_groups (k : Nat) (f : Cluster → Cluster) : (s.modCluster k f).groups = s.groups := rfl
@[simp] theorem State.modCluster_nextGroup (k : Nat) (f : Cluster → Cluster) : (s.modCluster k f).nextGroup = s.nextGroup := rfl
@[simp] theorem State.modCluster_contexts (k : Nat) (f : Cluster → Cluster) : (s.modCluster k f).contexts = s.contexts := rfl
@[simp] theorem State.modCluster_binaries (k : Nat) (f : Cluster → Cluster) : (s.modCluster k f).binaries = s.binaries := rfl
@[simp] theorem State.modCluster_queues (k : Nat) (f : Cluster → Cluster) : (s.modCluster k f).queues = s.queues := rfl
@[simp] theorem State.modCluster_hwSlots (k : Nat) (f : Cluster → Cluster) : (s.modCluster k f).hwSlots = s.hwSlots := rfl
@[simp] theorem State.modCluster_bindCount (k : Nat) (f : Cluster → Cluster) : (s.modCluster k f).bindCount = s.bindCount := rfl
@[simp] theorem State.modCluster_launchCount (k : Nat) (f : Cluster → Cluster) : (s.modCluster k f).launchCount = s.launchCount := rfl
@[simp] theorem State.modCluster_triggers (k : Nat) (f : Cluster → Cluster) : (s.modCluster k f).triggers = s.triggers := rfl
@[simp] theorem State.modCluster_phys (k : Nat) (f : Cluster → Cluster) : (s.modCluster k f).phys = s.phys := rfl
@[simp] theorem State.modCluster_faultSeq (k : Nat) (f : Cluster → Cluster) : (s.modCluster k f).faultSeq = s.faultSeq := rfl
@[simp] theorem State.modCluster_counters (k : Nat) (f : Cluster → Cluster) : (s.modCluster k f).counters = s.counters := rfl
@[simp] theorem State.modCluster_partAddr (k : Nat) (f : Cluster → Cluster) : (s.modCluster k f).partAddr = s.partAddr := rfl
@[simp] theorem State.modCluster_fabricOut (k : Nat) (f : Cluster → Cluster) : (s.modCluster k f).fabricOut = s.fabricOut := rfl
@[simp] theorem State.modCluster_msix (k : Nat) (f : Cluster → Cluster) : (s.modCluster k f).msix = s.msix := rfl
@[simp] theorem State.modCluster_pagerAccs (k : Nat) (f : Cluster → Cluster) : (s.modCluster k f).pagerAccs = s.pagerAccs := rfl
@[simp] theorem State.modCluster_parks (k : Nat) (f : Cluster → Cluster) : (s.modCluster k f).parks = s.parks := rfl
@[simp] theorem State.modCluster_pagerAsks (k : Nat) (f : Cluster → Cluster) : (s.modCluster k f).pagerAsks = s.pagerAsks := rfl
@[simp] theorem State.modCluster_quantum (k : Nat) (f : Cluster → Cluster) : (s.modCluster k f).quantum = s.quantum := rfl
@[simp] theorem State.modCluster_pendCount (k : Nat) (f : Cluster → Cluster) : (s.modCluster k f).pendCount = s.pendCount := rfl
@[simp] theorem State.modCluster_hwTurn (k : Nat) (f : Cluster → Cluster) : (s.modCluster k f).hwTurn = s.hwTurn := rfl
@[simp] theorem State.modCluster_flight (k : Nat) (f : Cluster → Cluster) : (s.modCluster k f).flight = s.flight := rfl
@[simp] theorem State.modCluster_engineAsks (k : Nat) (f : Cluster → Cluster) : (s.modCluster k f).engineAsks = s.engineAsks := rfl
@[simp] theorem State.modCluster_keys (k : Nat) (f : Cluster → Cluster) : (s.modCluster k f).keys = s.keys := rfl
@[simp] theorem State.modCluster_pagerFailed (k : Nat) (f : Cluster → Cluster) : (s.modCluster k f).pagerFailed = s.pagerFailed := rfl
@[simp] theorem State.modCluster_away (k : Nat) (f : Cluster → Cluster) : (s.modCluster k f).away = s.away := rfl
@[simp] theorem State.modCluster_hostBase (k : Nat) (f : Cluster → Cluster) : (s.modCluster k f).hostBase = s.hostBase := rfl
@[simp] theorem State.modCluster_hostUp (k : Nat) (f : Cluster → Cluster) : (s.modCluster k f).hostUp = s.hostUp := rfl
@[simp] theorem State.modCluster_hostOut (k : Nat) (f : Cluster → Cluster) : (s.modCluster k f).hostOut = s.hostOut := rfl
@[simp] theorem State.modCluster_victims (k : Nat) (f : Cluster → Cluster) : (s.modCluster k f).victims = s.victims := rfl
@[simp] theorem State.modCluster_slices (k : Nat) (f : Cluster → Cluster) : (s.modCluster k f).slices = s.slices := rfl
@[simp] theorem State.modCluster_pinThreshold (k : Nat) (f : Cluster → Cluster) : (s.modCluster k f).pinThreshold = s.pinThreshold := rfl
@[simp] theorem State.modCluster_poison (k : Nat) (f : Cluster → Cluster) : (s.modCluster k f).poison = s.poison := rfl
@[simp] theorem State.modCluster_fetches (k : Nat) (f : Cluster → Cluster) : (s.modCluster k f).fetches = s.fetches := rfl
@[simp] theorem State.modCluster_clasps (k : Nat) (f : Cluster → Cluster) : (s.modCluster k f).clasps = s.clasps := rfl
@[simp] theorem State.modCluster_lands (k : Nat) (f : Cluster → Cluster) : (s.modCluster k f).lands = s.lands := rfl
@[simp] theorem State.modCluster_vaultParks (k : Nat) (f : Cluster → Cluster) : (s.modCluster k f).vaultParks = s.vaultParks := rfl
@[simp] theorem State.modCluster_dims (k : Nat) (f : Cluster → Cluster) : (s.modCluster k f).dims = s.dims := rfl
@[simp] theorem State.modCluster_wraps (k : Nat) (f : Cluster → Cluster) : (s.modCluster k f).wraps = s.wraps := rfl
@[simp] theorem State.modCluster_detours (k : Nat) (f : Cluster → Cluster) : (s.modCluster k f).detours = s.detours := rfl
@[simp] theorem State.modCluster_portsDown (k : Nat) (f : Cluster → Cluster) : (s.modCluster k f).portsDown = s.portsDown := rfl
@[simp] theorem State.modCluster_ringPeers (k : Nat) (f : Cluster → Cluster) : (s.modCluster k f).ringPeers = s.ringPeers := rfl
@[simp] theorem State.modCluster_forwards (k : Nat) (f : Cluster → Cluster) : (s.modCluster k f).forwards = s.forwards := rfl
@[simp] theorem State.modCluster_refusedAge (k : Nat) (f : Cluster → Cluster) : (s.modCluster k f).refusedAge = s.refusedAge := rfl
@[simp] theorem State.modCluster_moved (k : Nat) (f : Cluster → Cluster) : (s.modCluster k f).moved = s.moved := rfl
@[simp] theorem State.modCluster_feats (k : Nat) (f : Cluster → Cluster) : (s.modCluster k f).feats = s.feats := rfl
@[simp] theorem State.modCluster_barBase (k : Nat) (f : Cluster → Cluster) : (s.modCluster k f).barBase = s.barBase := rfl
@[simp] theorem State.modCluster_ecc32c (k : Nat) (f : Cluster → Cluster) : (s.modCluster k f).ecc32c = s.ecc32c := rfl
@[simp] theorem State.modCluster_device (k : Nat) (f : Cluster → Cluster) : (s.modCluster k f).device = s.device := rfl
@[simp] theorem State.modCluster_firmware (k : Nat) (f : Cluster → Cluster) : (s.modCluster k f).firmware = s.firmware := rfl
@[simp] theorem State.modCluster_records (k : Nat) (f : Cluster → Cluster) : (s.modCluster k f).records = s.records := rfl
@[simp] theorem State.modCluster_flash (k : Nat) (f : Cluster → Cluster) : (s.modCluster k f).flash = s.flash := rfl
@[simp] theorem State.modCluster_ckpt (k : Nat) (f : Cluster → Cluster) : (s.modCluster k f).ckpt = s.ckpt := rfl
@[simp] theorem State.modCluster_clocks (k : Nat) (f : Cluster → Cluster) : (s.modCluster k f).clocks = s.clocks := rfl
@[simp] theorem State.modCluster_hubCopies (k : Nat) (f : Cluster → Cluster) : (s.modCluster k f).hubCopies = s.hubCopies := rfl
@[simp] theorem State.modCluster_allocs (k : Nat) (f : Cluster → Cluster) : (s.modCluster k f).allocs = s.allocs := rfl
@[simp] theorem State.modCluster_areas (k : Nat) (f : Cluster → Cluster) : (s.modCluster k f).areas = s.areas := rfl
@[simp] theorem State.modCluster_givens (k : Nat) (f : Cluster → Cluster) : (s.modCluster k f).givens = s.givens := rfl
@[simp] theorem State.modCluster_seqs (k : Nat) (f : Cluster → Cluster) : (s.modCluster k f).seqs = s.seqs := rfl
@[simp] theorem State.modCluster_barAnswers (k : Nat) (f : Cluster → Cluster) : (s.modCluster k f).barAnswers = s.barAnswers := rfl

/-! ## modClasp -/

@[simp] theorem State.modClasp_who (k : Nat) (f : Clasp → Clasp) : (s.modClasp k f).who = s.who := rfl
@[simp] theorem State.modClasp_turn (k : Nat) (f : Clasp → Clasp) : (s.modClasp k f).turn = s.turn := rfl
@[simp] theorem State.modClasp_now (k : Nat) (f : Clasp → Clasp) : (s.modClasp k f).now = s.now := rfl
@[simp] theorem State.modClasp_pending (k : Nat) (f : Clasp → Clasp) : (s.modClasp k f).pending = s.pending := rfl
@[simp] theorem State.modClasp_freeCount (k : Nat) (f : Clasp → Clasp) : (s.modClasp k f).freeCount = s.freeCount := rfl
@[simp] theorem State.modClasp_waitCount (k : Nat) (f : Clasp → Clasp) : (s.modClasp k f).waitCount = s.waitCount := rfl
@[simp] theorem State.modClasp_cores (k : Nat) (f : Clasp → Clasp) : (s.modClasp k f).cores = s.cores := rfl
@[simp] theorem State.modClasp_clusters (k : Nat) (f : Clasp → Clasp) : (s.modClasp k f).clusters = s.clusters := rfl
@[simp] theorem State.modClasp_groups (k : Nat) (f : Clasp → Clasp) : (s.modClasp k f).groups = s.groups := rfl
@[simp] theorem State.modClasp_nextGroup (k : Nat) (f : Clasp → Clasp) : (s.modClasp k f).nextGroup = s.nextGroup := rfl
@[simp] theorem State.modClasp_contexts (k : Nat) (f : Clasp → Clasp) : (s.modClasp k f).contexts = s.contexts := rfl
@[simp] theorem State.modClasp_binaries (k : Nat) (f : Clasp → Clasp) : (s.modClasp k f).binaries = s.binaries := rfl
@[simp] theorem State.modClasp_queues (k : Nat) (f : Clasp → Clasp) : (s.modClasp k f).queues = s.queues := rfl
@[simp] theorem State.modClasp_hwSlots (k : Nat) (f : Clasp → Clasp) : (s.modClasp k f).hwSlots = s.hwSlots := rfl
@[simp] theorem State.modClasp_bindCount (k : Nat) (f : Clasp → Clasp) : (s.modClasp k f).bindCount = s.bindCount := rfl
@[simp] theorem State.modClasp_launchCount (k : Nat) (f : Clasp → Clasp) : (s.modClasp k f).launchCount = s.launchCount := rfl
@[simp] theorem State.modClasp_triggers (k : Nat) (f : Clasp → Clasp) : (s.modClasp k f).triggers = s.triggers := rfl
@[simp] theorem State.modClasp_phys (k : Nat) (f : Clasp → Clasp) : (s.modClasp k f).phys = s.phys := rfl
@[simp] theorem State.modClasp_faultSeq (k : Nat) (f : Clasp → Clasp) : (s.modClasp k f).faultSeq = s.faultSeq := rfl
@[simp] theorem State.modClasp_counters (k : Nat) (f : Clasp → Clasp) : (s.modClasp k f).counters = s.counters := rfl
@[simp] theorem State.modClasp_partAddr (k : Nat) (f : Clasp → Clasp) : (s.modClasp k f).partAddr = s.partAddr := rfl
@[simp] theorem State.modClasp_fabricOut (k : Nat) (f : Clasp → Clasp) : (s.modClasp k f).fabricOut = s.fabricOut := rfl
@[simp] theorem State.modClasp_msix (k : Nat) (f : Clasp → Clasp) : (s.modClasp k f).msix = s.msix := rfl
@[simp] theorem State.modClasp_pagerAccs (k : Nat) (f : Clasp → Clasp) : (s.modClasp k f).pagerAccs = s.pagerAccs := rfl
@[simp] theorem State.modClasp_parks (k : Nat) (f : Clasp → Clasp) : (s.modClasp k f).parks = s.parks := rfl
@[simp] theorem State.modClasp_pagerAsks (k : Nat) (f : Clasp → Clasp) : (s.modClasp k f).pagerAsks = s.pagerAsks := rfl
@[simp] theorem State.modClasp_quantum (k : Nat) (f : Clasp → Clasp) : (s.modClasp k f).quantum = s.quantum := rfl
@[simp] theorem State.modClasp_pendCount (k : Nat) (f : Clasp → Clasp) : (s.modClasp k f).pendCount = s.pendCount := rfl
@[simp] theorem State.modClasp_hwTurn (k : Nat) (f : Clasp → Clasp) : (s.modClasp k f).hwTurn = s.hwTurn := rfl
@[simp] theorem State.modClasp_flight (k : Nat) (f : Clasp → Clasp) : (s.modClasp k f).flight = s.flight := rfl
@[simp] theorem State.modClasp_engineAsks (k : Nat) (f : Clasp → Clasp) : (s.modClasp k f).engineAsks = s.engineAsks := rfl
@[simp] theorem State.modClasp_keys (k : Nat) (f : Clasp → Clasp) : (s.modClasp k f).keys = s.keys := rfl
@[simp] theorem State.modClasp_pagerFailed (k : Nat) (f : Clasp → Clasp) : (s.modClasp k f).pagerFailed = s.pagerFailed := rfl
@[simp] theorem State.modClasp_away (k : Nat) (f : Clasp → Clasp) : (s.modClasp k f).away = s.away := rfl
@[simp] theorem State.modClasp_hostBase (k : Nat) (f : Clasp → Clasp) : (s.modClasp k f).hostBase = s.hostBase := rfl
@[simp] theorem State.modClasp_hostUp (k : Nat) (f : Clasp → Clasp) : (s.modClasp k f).hostUp = s.hostUp := rfl
@[simp] theorem State.modClasp_hostOut (k : Nat) (f : Clasp → Clasp) : (s.modClasp k f).hostOut = s.hostOut := rfl
@[simp] theorem State.modClasp_victims (k : Nat) (f : Clasp → Clasp) : (s.modClasp k f).victims = s.victims := rfl
@[simp] theorem State.modClasp_slices (k : Nat) (f : Clasp → Clasp) : (s.modClasp k f).slices = s.slices := rfl
@[simp] theorem State.modClasp_pinThreshold (k : Nat) (f : Clasp → Clasp) : (s.modClasp k f).pinThreshold = s.pinThreshold := rfl
@[simp] theorem State.modClasp_poison (k : Nat) (f : Clasp → Clasp) : (s.modClasp k f).poison = s.poison := rfl
@[simp] theorem State.modClasp_fetches (k : Nat) (f : Clasp → Clasp) : (s.modClasp k f).fetches = s.fetches := rfl
@[simp] theorem State.modClasp_lands (k : Nat) (f : Clasp → Clasp) : (s.modClasp k f).lands = s.lands := rfl
@[simp] theorem State.modClasp_vaultParks (k : Nat) (f : Clasp → Clasp) : (s.modClasp k f).vaultParks = s.vaultParks := rfl
@[simp] theorem State.modClasp_dims (k : Nat) (f : Clasp → Clasp) : (s.modClasp k f).dims = s.dims := rfl
@[simp] theorem State.modClasp_wraps (k : Nat) (f : Clasp → Clasp) : (s.modClasp k f).wraps = s.wraps := rfl
@[simp] theorem State.modClasp_detours (k : Nat) (f : Clasp → Clasp) : (s.modClasp k f).detours = s.detours := rfl
@[simp] theorem State.modClasp_portsDown (k : Nat) (f : Clasp → Clasp) : (s.modClasp k f).portsDown = s.portsDown := rfl
@[simp] theorem State.modClasp_ringPeers (k : Nat) (f : Clasp → Clasp) : (s.modClasp k f).ringPeers = s.ringPeers := rfl
@[simp] theorem State.modClasp_forwards (k : Nat) (f : Clasp → Clasp) : (s.modClasp k f).forwards = s.forwards := rfl
@[simp] theorem State.modClasp_refusedAge (k : Nat) (f : Clasp → Clasp) : (s.modClasp k f).refusedAge = s.refusedAge := rfl
@[simp] theorem State.modClasp_moved (k : Nat) (f : Clasp → Clasp) : (s.modClasp k f).moved = s.moved := rfl
@[simp] theorem State.modClasp_feats (k : Nat) (f : Clasp → Clasp) : (s.modClasp k f).feats = s.feats := rfl
@[simp] theorem State.modClasp_barBase (k : Nat) (f : Clasp → Clasp) : (s.modClasp k f).barBase = s.barBase := rfl
@[simp] theorem State.modClasp_ecc32c (k : Nat) (f : Clasp → Clasp) : (s.modClasp k f).ecc32c = s.ecc32c := rfl
@[simp] theorem State.modClasp_device (k : Nat) (f : Clasp → Clasp) : (s.modClasp k f).device = s.device := rfl
@[simp] theorem State.modClasp_firmware (k : Nat) (f : Clasp → Clasp) : (s.modClasp k f).firmware = s.firmware := rfl
@[simp] theorem State.modClasp_records (k : Nat) (f : Clasp → Clasp) : (s.modClasp k f).records = s.records := rfl
@[simp] theorem State.modClasp_flash (k : Nat) (f : Clasp → Clasp) : (s.modClasp k f).flash = s.flash := rfl
@[simp] theorem State.modClasp_ckpt (k : Nat) (f : Clasp → Clasp) : (s.modClasp k f).ckpt = s.ckpt := rfl
@[simp] theorem State.modClasp_clocks (k : Nat) (f : Clasp → Clasp) : (s.modClasp k f).clocks = s.clocks := rfl
@[simp] theorem State.modClasp_hubCopies (k : Nat) (f : Clasp → Clasp) : (s.modClasp k f).hubCopies = s.hubCopies := rfl
@[simp] theorem State.modClasp_allocs (k : Nat) (f : Clasp → Clasp) : (s.modClasp k f).allocs = s.allocs := rfl
@[simp] theorem State.modClasp_areas (k : Nat) (f : Clasp → Clasp) : (s.modClasp k f).areas = s.areas := rfl
@[simp] theorem State.modClasp_givens (k : Nat) (f : Clasp → Clasp) : (s.modClasp k f).givens = s.givens := rfl
@[simp] theorem State.modClasp_seqs (k : Nat) (f : Clasp → Clasp) : (s.modClasp k f).seqs = s.seqs := rfl
@[simp] theorem State.modClasp_barAnswers (k : Nat) (f : Clasp → Clasp) : (s.modClasp k f).barAnswers = s.barAnswers := rfl

/-! ## modTrigger -/

@[simp] theorem State.modTrigger_who (k : Nat) (f : Trigger → Trigger) : (s.modTrigger k f).who = s.who := rfl
@[simp] theorem State.modTrigger_turn (k : Nat) (f : Trigger → Trigger) : (s.modTrigger k f).turn = s.turn := rfl
@[simp] theorem State.modTrigger_now (k : Nat) (f : Trigger → Trigger) : (s.modTrigger k f).now = s.now := rfl
@[simp] theorem State.modTrigger_pending (k : Nat) (f : Trigger → Trigger) : (s.modTrigger k f).pending = s.pending := rfl
@[simp] theorem State.modTrigger_freeCount (k : Nat) (f : Trigger → Trigger) : (s.modTrigger k f).freeCount = s.freeCount := rfl
@[simp] theorem State.modTrigger_waitCount (k : Nat) (f : Trigger → Trigger) : (s.modTrigger k f).waitCount = s.waitCount := rfl
@[simp] theorem State.modTrigger_cores (k : Nat) (f : Trigger → Trigger) : (s.modTrigger k f).cores = s.cores := rfl
@[simp] theorem State.modTrigger_clusters (k : Nat) (f : Trigger → Trigger) : (s.modTrigger k f).clusters = s.clusters := rfl
@[simp] theorem State.modTrigger_groups (k : Nat) (f : Trigger → Trigger) : (s.modTrigger k f).groups = s.groups := rfl
@[simp] theorem State.modTrigger_nextGroup (k : Nat) (f : Trigger → Trigger) : (s.modTrigger k f).nextGroup = s.nextGroup := rfl
@[simp] theorem State.modTrigger_contexts (k : Nat) (f : Trigger → Trigger) : (s.modTrigger k f).contexts = s.contexts := rfl
@[simp] theorem State.modTrigger_binaries (k : Nat) (f : Trigger → Trigger) : (s.modTrigger k f).binaries = s.binaries := rfl
@[simp] theorem State.modTrigger_queues (k : Nat) (f : Trigger → Trigger) : (s.modTrigger k f).queues = s.queues := rfl
@[simp] theorem State.modTrigger_hwSlots (k : Nat) (f : Trigger → Trigger) : (s.modTrigger k f).hwSlots = s.hwSlots := rfl
@[simp] theorem State.modTrigger_bindCount (k : Nat) (f : Trigger → Trigger) : (s.modTrigger k f).bindCount = s.bindCount := rfl
@[simp] theorem State.modTrigger_launchCount (k : Nat) (f : Trigger → Trigger) : (s.modTrigger k f).launchCount = s.launchCount := rfl
@[simp] theorem State.modTrigger_phys (k : Nat) (f : Trigger → Trigger) : (s.modTrigger k f).phys = s.phys := rfl
@[simp] theorem State.modTrigger_faultSeq (k : Nat) (f : Trigger → Trigger) : (s.modTrigger k f).faultSeq = s.faultSeq := rfl
@[simp] theorem State.modTrigger_counters (k : Nat) (f : Trigger → Trigger) : (s.modTrigger k f).counters = s.counters := rfl
@[simp] theorem State.modTrigger_partAddr (k : Nat) (f : Trigger → Trigger) : (s.modTrigger k f).partAddr = s.partAddr := rfl
@[simp] theorem State.modTrigger_fabricOut (k : Nat) (f : Trigger → Trigger) : (s.modTrigger k f).fabricOut = s.fabricOut := rfl
@[simp] theorem State.modTrigger_msix (k : Nat) (f : Trigger → Trigger) : (s.modTrigger k f).msix = s.msix := rfl
@[simp] theorem State.modTrigger_pagerAccs (k : Nat) (f : Trigger → Trigger) : (s.modTrigger k f).pagerAccs = s.pagerAccs := rfl
@[simp] theorem State.modTrigger_parks (k : Nat) (f : Trigger → Trigger) : (s.modTrigger k f).parks = s.parks := rfl
@[simp] theorem State.modTrigger_pagerAsks (k : Nat) (f : Trigger → Trigger) : (s.modTrigger k f).pagerAsks = s.pagerAsks := rfl
@[simp] theorem State.modTrigger_quantum (k : Nat) (f : Trigger → Trigger) : (s.modTrigger k f).quantum = s.quantum := rfl
@[simp] theorem State.modTrigger_pendCount (k : Nat) (f : Trigger → Trigger) : (s.modTrigger k f).pendCount = s.pendCount := rfl
@[simp] theorem State.modTrigger_hwTurn (k : Nat) (f : Trigger → Trigger) : (s.modTrigger k f).hwTurn = s.hwTurn := rfl
@[simp] theorem State.modTrigger_flight (k : Nat) (f : Trigger → Trigger) : (s.modTrigger k f).flight = s.flight := rfl
@[simp] theorem State.modTrigger_engineAsks (k : Nat) (f : Trigger → Trigger) : (s.modTrigger k f).engineAsks = s.engineAsks := rfl
@[simp] theorem State.modTrigger_keys (k : Nat) (f : Trigger → Trigger) : (s.modTrigger k f).keys = s.keys := rfl
@[simp] theorem State.modTrigger_pagerFailed (k : Nat) (f : Trigger → Trigger) : (s.modTrigger k f).pagerFailed = s.pagerFailed := rfl
@[simp] theorem State.modTrigger_away (k : Nat) (f : Trigger → Trigger) : (s.modTrigger k f).away = s.away := rfl
@[simp] theorem State.modTrigger_hostBase (k : Nat) (f : Trigger → Trigger) : (s.modTrigger k f).hostBase = s.hostBase := rfl
@[simp] theorem State.modTrigger_hostUp (k : Nat) (f : Trigger → Trigger) : (s.modTrigger k f).hostUp = s.hostUp := rfl
@[simp] theorem State.modTrigger_hostOut (k : Nat) (f : Trigger → Trigger) : (s.modTrigger k f).hostOut = s.hostOut := rfl
@[simp] theorem State.modTrigger_victims (k : Nat) (f : Trigger → Trigger) : (s.modTrigger k f).victims = s.victims := rfl
@[simp] theorem State.modTrigger_slices (k : Nat) (f : Trigger → Trigger) : (s.modTrigger k f).slices = s.slices := rfl
@[simp] theorem State.modTrigger_pinThreshold (k : Nat) (f : Trigger → Trigger) : (s.modTrigger k f).pinThreshold = s.pinThreshold := rfl
@[simp] theorem State.modTrigger_poison (k : Nat) (f : Trigger → Trigger) : (s.modTrigger k f).poison = s.poison := rfl
@[simp] theorem State.modTrigger_fetches (k : Nat) (f : Trigger → Trigger) : (s.modTrigger k f).fetches = s.fetches := rfl
@[simp] theorem State.modTrigger_clasps (k : Nat) (f : Trigger → Trigger) : (s.modTrigger k f).clasps = s.clasps := rfl
@[simp] theorem State.modTrigger_lands (k : Nat) (f : Trigger → Trigger) : (s.modTrigger k f).lands = s.lands := rfl
@[simp] theorem State.modTrigger_vaultParks (k : Nat) (f : Trigger → Trigger) : (s.modTrigger k f).vaultParks = s.vaultParks := rfl
@[simp] theorem State.modTrigger_dims (k : Nat) (f : Trigger → Trigger) : (s.modTrigger k f).dims = s.dims := rfl
@[simp] theorem State.modTrigger_wraps (k : Nat) (f : Trigger → Trigger) : (s.modTrigger k f).wraps = s.wraps := rfl
@[simp] theorem State.modTrigger_detours (k : Nat) (f : Trigger → Trigger) : (s.modTrigger k f).detours = s.detours := rfl
@[simp] theorem State.modTrigger_portsDown (k : Nat) (f : Trigger → Trigger) : (s.modTrigger k f).portsDown = s.portsDown := rfl
@[simp] theorem State.modTrigger_ringPeers (k : Nat) (f : Trigger → Trigger) : (s.modTrigger k f).ringPeers = s.ringPeers := rfl
@[simp] theorem State.modTrigger_forwards (k : Nat) (f : Trigger → Trigger) : (s.modTrigger k f).forwards = s.forwards := rfl
@[simp] theorem State.modTrigger_refusedAge (k : Nat) (f : Trigger → Trigger) : (s.modTrigger k f).refusedAge = s.refusedAge := rfl
@[simp] theorem State.modTrigger_moved (k : Nat) (f : Trigger → Trigger) : (s.modTrigger k f).moved = s.moved := rfl
@[simp] theorem State.modTrigger_feats (k : Nat) (f : Trigger → Trigger) : (s.modTrigger k f).feats = s.feats := rfl
@[simp] theorem State.modTrigger_barBase (k : Nat) (f : Trigger → Trigger) : (s.modTrigger k f).barBase = s.barBase := rfl
@[simp] theorem State.modTrigger_ecc32c (k : Nat) (f : Trigger → Trigger) : (s.modTrigger k f).ecc32c = s.ecc32c := rfl
@[simp] theorem State.modTrigger_device (k : Nat) (f : Trigger → Trigger) : (s.modTrigger k f).device = s.device := rfl
@[simp] theorem State.modTrigger_firmware (k : Nat) (f : Trigger → Trigger) : (s.modTrigger k f).firmware = s.firmware := rfl
@[simp] theorem State.modTrigger_records (k : Nat) (f : Trigger → Trigger) : (s.modTrigger k f).records = s.records := rfl
@[simp] theorem State.modTrigger_flash (k : Nat) (f : Trigger → Trigger) : (s.modTrigger k f).flash = s.flash := rfl
@[simp] theorem State.modTrigger_ckpt (k : Nat) (f : Trigger → Trigger) : (s.modTrigger k f).ckpt = s.ckpt := rfl
@[simp] theorem State.modTrigger_clocks (k : Nat) (f : Trigger → Trigger) : (s.modTrigger k f).clocks = s.clocks := rfl
@[simp] theorem State.modTrigger_hubCopies (k : Nat) (f : Trigger → Trigger) : (s.modTrigger k f).hubCopies = s.hubCopies := rfl
@[simp] theorem State.modTrigger_allocs (k : Nat) (f : Trigger → Trigger) : (s.modTrigger k f).allocs = s.allocs := rfl
@[simp] theorem State.modTrigger_areas (k : Nat) (f : Trigger → Trigger) : (s.modTrigger k f).areas = s.areas := rfl
@[simp] theorem State.modTrigger_givens (k : Nat) (f : Trigger → Trigger) : (s.modTrigger k f).givens = s.givens := rfl
@[simp] theorem State.modTrigger_seqs (k : Nat) (f : Trigger → Trigger) : (s.modTrigger k f).seqs = s.seqs := rfl
@[simp] theorem State.modTrigger_barAnswers (k : Nat) (f : Trigger → Trigger) : (s.modTrigger k f).barAnswers = s.barAnswers := rfl

/-! ## setLocalWord -/

@[simp] theorem State.setLocalWord_who (k a : Nat) (w : Word) : (s.setLocalWord k a w).who = s.who := rfl
@[simp] theorem State.setLocalWord_turn (k a : Nat) (w : Word) : (s.setLocalWord k a w).turn = s.turn := rfl
@[simp] theorem State.setLocalWord_now (k a : Nat) (w : Word) : (s.setLocalWord k a w).now = s.now := rfl
@[simp] theorem State.setLocalWord_pending (k a : Nat) (w : Word) : (s.setLocalWord k a w).pending = s.pending := rfl
@[simp] theorem State.setLocalWord_freeCount (k a : Nat) (w : Word) : (s.setLocalWord k a w).freeCount = s.freeCount := rfl
@[simp] theorem State.setLocalWord_waitCount (k a : Nat) (w : Word) : (s.setLocalWord k a w).waitCount = s.waitCount := rfl
@[simp] theorem State.setLocalWord_clusters (k a : Nat) (w : Word) : (s.setLocalWord k a w).clusters = s.clusters := rfl
@[simp] theorem State.setLocalWord_groups (k a : Nat) (w : Word) : (s.setLocalWord k a w).groups = s.groups := rfl
@[simp] theorem State.setLocalWord_nextGroup (k a : Nat) (w : Word) : (s.setLocalWord k a w).nextGroup = s.nextGroup := rfl
@[simp] theorem State.setLocalWord_contexts (k a : Nat) (w : Word) : (s.setLocalWord k a w).contexts = s.contexts := rfl
@[simp] theorem State.setLocalWord_binaries (k a : Nat) (w : Word) : (s.setLocalWord k a w).binaries = s.binaries := rfl
@[simp] theorem State.setLocalWord_queues (k a : Nat) (w : Word) : (s.setLocalWord k a w).queues = s.queues := rfl
@[simp] theorem State.setLocalWord_hwSlots (k a : Nat) (w : Word) : (s.setLocalWord k a w).hwSlots = s.hwSlots := rfl
@[simp] theorem State.setLocalWord_bindCount (k a : Nat) (w : Word) : (s.setLocalWord k a w).bindCount = s.bindCount := rfl
@[simp] theorem State.setLocalWord_launchCount (k a : Nat) (w : Word) : (s.setLocalWord k a w).launchCount = s.launchCount := rfl
@[simp] theorem State.setLocalWord_triggers (k a : Nat) (w : Word) : (s.setLocalWord k a w).triggers = s.triggers := rfl
@[simp] theorem State.setLocalWord_phys (k a : Nat) (w : Word) : (s.setLocalWord k a w).phys = s.phys := rfl
@[simp] theorem State.setLocalWord_faultSeq (k a : Nat) (w : Word) : (s.setLocalWord k a w).faultSeq = s.faultSeq := rfl
@[simp] theorem State.setLocalWord_counters (k a : Nat) (w : Word) : (s.setLocalWord k a w).counters = s.counters := rfl
@[simp] theorem State.setLocalWord_partAddr (k a : Nat) (w : Word) : (s.setLocalWord k a w).partAddr = s.partAddr := rfl
@[simp] theorem State.setLocalWord_fabricOut (k a : Nat) (w : Word) : (s.setLocalWord k a w).fabricOut = s.fabricOut := rfl
@[simp] theorem State.setLocalWord_msix (k a : Nat) (w : Word) : (s.setLocalWord k a w).msix = s.msix := rfl
@[simp] theorem State.setLocalWord_pagerAccs (k a : Nat) (w : Word) : (s.setLocalWord k a w).pagerAccs = s.pagerAccs := rfl
@[simp] theorem State.setLocalWord_parks (k a : Nat) (w : Word) : (s.setLocalWord k a w).parks = s.parks := rfl
@[simp] theorem State.setLocalWord_pagerAsks (k a : Nat) (w : Word) : (s.setLocalWord k a w).pagerAsks = s.pagerAsks := rfl
@[simp] theorem State.setLocalWord_quantum (k a : Nat) (w : Word) : (s.setLocalWord k a w).quantum = s.quantum := rfl
@[simp] theorem State.setLocalWord_pendCount (k a : Nat) (w : Word) : (s.setLocalWord k a w).pendCount = s.pendCount := rfl
@[simp] theorem State.setLocalWord_hwTurn (k a : Nat) (w : Word) : (s.setLocalWord k a w).hwTurn = s.hwTurn := rfl
@[simp] theorem State.setLocalWord_flight (k a : Nat) (w : Word) : (s.setLocalWord k a w).flight = s.flight := rfl
@[simp] theorem State.setLocalWord_engineAsks (k a : Nat) (w : Word) : (s.setLocalWord k a w).engineAsks = s.engineAsks := rfl
@[simp] theorem State.setLocalWord_keys (k a : Nat) (w : Word) : (s.setLocalWord k a w).keys = s.keys := rfl
@[simp] theorem State.setLocalWord_pagerFailed (k a : Nat) (w : Word) : (s.setLocalWord k a w).pagerFailed = s.pagerFailed := rfl
@[simp] theorem State.setLocalWord_away (k a : Nat) (w : Word) : (s.setLocalWord k a w).away = s.away := rfl
@[simp] theorem State.setLocalWord_hostBase (k a : Nat) (w : Word) : (s.setLocalWord k a w).hostBase = s.hostBase := rfl
@[simp] theorem State.setLocalWord_hostUp (k a : Nat) (w : Word) : (s.setLocalWord k a w).hostUp = s.hostUp := rfl
@[simp] theorem State.setLocalWord_hostOut (k a : Nat) (w : Word) : (s.setLocalWord k a w).hostOut = s.hostOut := rfl
@[simp] theorem State.setLocalWord_victims (k a : Nat) (w : Word) : (s.setLocalWord k a w).victims = s.victims := rfl
@[simp] theorem State.setLocalWord_slices (k a : Nat) (w : Word) : (s.setLocalWord k a w).slices = s.slices := rfl
@[simp] theorem State.setLocalWord_pinThreshold (k a : Nat) (w : Word) : (s.setLocalWord k a w).pinThreshold = s.pinThreshold := rfl
@[simp] theorem State.setLocalWord_poison (k a : Nat) (w : Word) : (s.setLocalWord k a w).poison = s.poison := rfl
@[simp] theorem State.setLocalWord_fetches (k a : Nat) (w : Word) : (s.setLocalWord k a w).fetches = s.fetches := rfl
@[simp] theorem State.setLocalWord_clasps (k a : Nat) (w : Word) : (s.setLocalWord k a w).clasps = s.clasps := rfl
@[simp] theorem State.setLocalWord_lands (k a : Nat) (w : Word) : (s.setLocalWord k a w).lands = s.lands := rfl
@[simp] theorem State.setLocalWord_vaultParks (k a : Nat) (w : Word) : (s.setLocalWord k a w).vaultParks = s.vaultParks := rfl
@[simp] theorem State.setLocalWord_dims (k a : Nat) (w : Word) : (s.setLocalWord k a w).dims = s.dims := rfl
@[simp] theorem State.setLocalWord_wraps (k a : Nat) (w : Word) : (s.setLocalWord k a w).wraps = s.wraps := rfl
@[simp] theorem State.setLocalWord_detours (k a : Nat) (w : Word) : (s.setLocalWord k a w).detours = s.detours := rfl
@[simp] theorem State.setLocalWord_portsDown (k a : Nat) (w : Word) : (s.setLocalWord k a w).portsDown = s.portsDown := rfl
@[simp] theorem State.setLocalWord_ringPeers (k a : Nat) (w : Word) : (s.setLocalWord k a w).ringPeers = s.ringPeers := rfl
@[simp] theorem State.setLocalWord_forwards (k a : Nat) (w : Word) : (s.setLocalWord k a w).forwards = s.forwards := rfl
@[simp] theorem State.setLocalWord_refusedAge (k a : Nat) (w : Word) : (s.setLocalWord k a w).refusedAge = s.refusedAge := rfl
@[simp] theorem State.setLocalWord_moved (k a : Nat) (w : Word) : (s.setLocalWord k a w).moved = s.moved := rfl
@[simp] theorem State.setLocalWord_feats (k a : Nat) (w : Word) : (s.setLocalWord k a w).feats = s.feats := rfl
@[simp] theorem State.setLocalWord_barBase (k a : Nat) (w : Word) : (s.setLocalWord k a w).barBase = s.barBase := rfl
@[simp] theorem State.setLocalWord_ecc32c (k a : Nat) (w : Word) : (s.setLocalWord k a w).ecc32c = s.ecc32c := rfl
@[simp] theorem State.setLocalWord_device (k a : Nat) (w : Word) : (s.setLocalWord k a w).device = s.device := rfl
@[simp] theorem State.setLocalWord_firmware (k a : Nat) (w : Word) : (s.setLocalWord k a w).firmware = s.firmware := rfl
@[simp] theorem State.setLocalWord_records (k a : Nat) (w : Word) : (s.setLocalWord k a w).records = s.records := rfl
@[simp] theorem State.setLocalWord_flash (k a : Nat) (w : Word) : (s.setLocalWord k a w).flash = s.flash := rfl
@[simp] theorem State.setLocalWord_ckpt (k a : Nat) (w : Word) : (s.setLocalWord k a w).ckpt = s.ckpt := rfl
@[simp] theorem State.setLocalWord_clocks (k a : Nat) (w : Word) : (s.setLocalWord k a w).clocks = s.clocks := rfl
@[simp] theorem State.setLocalWord_hubCopies (k a : Nat) (w : Word) : (s.setLocalWord k a w).hubCopies = s.hubCopies := rfl
@[simp] theorem State.setLocalWord_allocs (k a : Nat) (w : Word) : (s.setLocalWord k a w).allocs = s.allocs := rfl
@[simp] theorem State.setLocalWord_areas (k a : Nat) (w : Word) : (s.setLocalWord k a w).areas = s.areas := rfl
@[simp] theorem State.setLocalWord_givens (k a : Nat) (w : Word) : (s.setLocalWord k a w).givens = s.givens := rfl
@[simp] theorem State.setLocalWord_seqs (k a : Nat) (w : Word) : (s.setLocalWord k a w).seqs = s.seqs := rfl
@[simp] theorem State.setLocalWord_barAnswers (k a : Nat) (w : Word) : (s.setLocalWord k a w).barAnswers = s.barAnswers := rfl

/-! ## setLocalBytes -/

@[simp] theorem State.setLocalBytes_who (k a : Nat) (bs : List Byte) : (s.setLocalBytes k a bs).who = s.who := rfl
@[simp] theorem State.setLocalBytes_turn (k a : Nat) (bs : List Byte) : (s.setLocalBytes k a bs).turn = s.turn := rfl
@[simp] theorem State.setLocalBytes_now (k a : Nat) (bs : List Byte) : (s.setLocalBytes k a bs).now = s.now := rfl
@[simp] theorem State.setLocalBytes_pending (k a : Nat) (bs : List Byte) : (s.setLocalBytes k a bs).pending = s.pending := rfl
@[simp] theorem State.setLocalBytes_freeCount (k a : Nat) (bs : List Byte) : (s.setLocalBytes k a bs).freeCount = s.freeCount := rfl
@[simp] theorem State.setLocalBytes_waitCount (k a : Nat) (bs : List Byte) : (s.setLocalBytes k a bs).waitCount = s.waitCount := rfl
@[simp] theorem State.setLocalBytes_clusters (k a : Nat) (bs : List Byte) : (s.setLocalBytes k a bs).clusters = s.clusters := rfl
@[simp] theorem State.setLocalBytes_groups (k a : Nat) (bs : List Byte) : (s.setLocalBytes k a bs).groups = s.groups := rfl
@[simp] theorem State.setLocalBytes_nextGroup (k a : Nat) (bs : List Byte) : (s.setLocalBytes k a bs).nextGroup = s.nextGroup := rfl
@[simp] theorem State.setLocalBytes_contexts (k a : Nat) (bs : List Byte) : (s.setLocalBytes k a bs).contexts = s.contexts := rfl
@[simp] theorem State.setLocalBytes_binaries (k a : Nat) (bs : List Byte) : (s.setLocalBytes k a bs).binaries = s.binaries := rfl
@[simp] theorem State.setLocalBytes_queues (k a : Nat) (bs : List Byte) : (s.setLocalBytes k a bs).queues = s.queues := rfl
@[simp] theorem State.setLocalBytes_hwSlots (k a : Nat) (bs : List Byte) : (s.setLocalBytes k a bs).hwSlots = s.hwSlots := rfl
@[simp] theorem State.setLocalBytes_bindCount (k a : Nat) (bs : List Byte) : (s.setLocalBytes k a bs).bindCount = s.bindCount := rfl
@[simp] theorem State.setLocalBytes_launchCount (k a : Nat) (bs : List Byte) : (s.setLocalBytes k a bs).launchCount = s.launchCount := rfl
@[simp] theorem State.setLocalBytes_triggers (k a : Nat) (bs : List Byte) : (s.setLocalBytes k a bs).triggers = s.triggers := rfl
@[simp] theorem State.setLocalBytes_phys (k a : Nat) (bs : List Byte) : (s.setLocalBytes k a bs).phys = s.phys := rfl
@[simp] theorem State.setLocalBytes_faultSeq (k a : Nat) (bs : List Byte) : (s.setLocalBytes k a bs).faultSeq = s.faultSeq := rfl
@[simp] theorem State.setLocalBytes_counters (k a : Nat) (bs : List Byte) : (s.setLocalBytes k a bs).counters = s.counters := rfl
@[simp] theorem State.setLocalBytes_partAddr (k a : Nat) (bs : List Byte) : (s.setLocalBytes k a bs).partAddr = s.partAddr := rfl
@[simp] theorem State.setLocalBytes_fabricOut (k a : Nat) (bs : List Byte) : (s.setLocalBytes k a bs).fabricOut = s.fabricOut := rfl
@[simp] theorem State.setLocalBytes_msix (k a : Nat) (bs : List Byte) : (s.setLocalBytes k a bs).msix = s.msix := rfl
@[simp] theorem State.setLocalBytes_pagerAccs (k a : Nat) (bs : List Byte) : (s.setLocalBytes k a bs).pagerAccs = s.pagerAccs := rfl
@[simp] theorem State.setLocalBytes_parks (k a : Nat) (bs : List Byte) : (s.setLocalBytes k a bs).parks = s.parks := rfl
@[simp] theorem State.setLocalBytes_pagerAsks (k a : Nat) (bs : List Byte) : (s.setLocalBytes k a bs).pagerAsks = s.pagerAsks := rfl
@[simp] theorem State.setLocalBytes_quantum (k a : Nat) (bs : List Byte) : (s.setLocalBytes k a bs).quantum = s.quantum := rfl
@[simp] theorem State.setLocalBytes_pendCount (k a : Nat) (bs : List Byte) : (s.setLocalBytes k a bs).pendCount = s.pendCount := rfl
@[simp] theorem State.setLocalBytes_hwTurn (k a : Nat) (bs : List Byte) : (s.setLocalBytes k a bs).hwTurn = s.hwTurn := rfl
@[simp] theorem State.setLocalBytes_flight (k a : Nat) (bs : List Byte) : (s.setLocalBytes k a bs).flight = s.flight := rfl
@[simp] theorem State.setLocalBytes_engineAsks (k a : Nat) (bs : List Byte) : (s.setLocalBytes k a bs).engineAsks = s.engineAsks := rfl
@[simp] theorem State.setLocalBytes_keys (k a : Nat) (bs : List Byte) : (s.setLocalBytes k a bs).keys = s.keys := rfl
@[simp] theorem State.setLocalBytes_pagerFailed (k a : Nat) (bs : List Byte) : (s.setLocalBytes k a bs).pagerFailed = s.pagerFailed := rfl
@[simp] theorem State.setLocalBytes_away (k a : Nat) (bs : List Byte) : (s.setLocalBytes k a bs).away = s.away := rfl
@[simp] theorem State.setLocalBytes_hostBase (k a : Nat) (bs : List Byte) : (s.setLocalBytes k a bs).hostBase = s.hostBase := rfl
@[simp] theorem State.setLocalBytes_hostUp (k a : Nat) (bs : List Byte) : (s.setLocalBytes k a bs).hostUp = s.hostUp := rfl
@[simp] theorem State.setLocalBytes_hostOut (k a : Nat) (bs : List Byte) : (s.setLocalBytes k a bs).hostOut = s.hostOut := rfl
@[simp] theorem State.setLocalBytes_victims (k a : Nat) (bs : List Byte) : (s.setLocalBytes k a bs).victims = s.victims := rfl
@[simp] theorem State.setLocalBytes_slices (k a : Nat) (bs : List Byte) : (s.setLocalBytes k a bs).slices = s.slices := rfl
@[simp] theorem State.setLocalBytes_pinThreshold (k a : Nat) (bs : List Byte) : (s.setLocalBytes k a bs).pinThreshold = s.pinThreshold := rfl
@[simp] theorem State.setLocalBytes_poison (k a : Nat) (bs : List Byte) : (s.setLocalBytes k a bs).poison = s.poison := rfl
@[simp] theorem State.setLocalBytes_fetches (k a : Nat) (bs : List Byte) : (s.setLocalBytes k a bs).fetches = s.fetches := rfl
@[simp] theorem State.setLocalBytes_clasps (k a : Nat) (bs : List Byte) : (s.setLocalBytes k a bs).clasps = s.clasps := rfl
@[simp] theorem State.setLocalBytes_lands (k a : Nat) (bs : List Byte) : (s.setLocalBytes k a bs).lands = s.lands := rfl
@[simp] theorem State.setLocalBytes_vaultParks (k a : Nat) (bs : List Byte) : (s.setLocalBytes k a bs).vaultParks = s.vaultParks := rfl
@[simp] theorem State.setLocalBytes_dims (k a : Nat) (bs : List Byte) : (s.setLocalBytes k a bs).dims = s.dims := rfl
@[simp] theorem State.setLocalBytes_wraps (k a : Nat) (bs : List Byte) : (s.setLocalBytes k a bs).wraps = s.wraps := rfl
@[simp] theorem State.setLocalBytes_detours (k a : Nat) (bs : List Byte) : (s.setLocalBytes k a bs).detours = s.detours := rfl
@[simp] theorem State.setLocalBytes_portsDown (k a : Nat) (bs : List Byte) : (s.setLocalBytes k a bs).portsDown = s.portsDown := rfl
@[simp] theorem State.setLocalBytes_ringPeers (k a : Nat) (bs : List Byte) : (s.setLocalBytes k a bs).ringPeers = s.ringPeers := rfl
@[simp] theorem State.setLocalBytes_forwards (k a : Nat) (bs : List Byte) : (s.setLocalBytes k a bs).forwards = s.forwards := rfl
@[simp] theorem State.setLocalBytes_refusedAge (k a : Nat) (bs : List Byte) : (s.setLocalBytes k a bs).refusedAge = s.refusedAge := rfl
@[simp] theorem State.setLocalBytes_moved (k a : Nat) (bs : List Byte) : (s.setLocalBytes k a bs).moved = s.moved := rfl
@[simp] theorem State.setLocalBytes_feats (k a : Nat) (bs : List Byte) : (s.setLocalBytes k a bs).feats = s.feats := rfl
@[simp] theorem State.setLocalBytes_barBase (k a : Nat) (bs : List Byte) : (s.setLocalBytes k a bs).barBase = s.barBase := rfl
@[simp] theorem State.setLocalBytes_ecc32c (k a : Nat) (bs : List Byte) : (s.setLocalBytes k a bs).ecc32c = s.ecc32c := rfl
@[simp] theorem State.setLocalBytes_device (k a : Nat) (bs : List Byte) : (s.setLocalBytes k a bs).device = s.device := rfl
@[simp] theorem State.setLocalBytes_firmware (k a : Nat) (bs : List Byte) : (s.setLocalBytes k a bs).firmware = s.firmware := rfl
@[simp] theorem State.setLocalBytes_records (k a : Nat) (bs : List Byte) : (s.setLocalBytes k a bs).records = s.records := rfl
@[simp] theorem State.setLocalBytes_flash (k a : Nat) (bs : List Byte) : (s.setLocalBytes k a bs).flash = s.flash := rfl
@[simp] theorem State.setLocalBytes_ckpt (k a : Nat) (bs : List Byte) : (s.setLocalBytes k a bs).ckpt = s.ckpt := rfl
@[simp] theorem State.setLocalBytes_clocks (k a : Nat) (bs : List Byte) : (s.setLocalBytes k a bs).clocks = s.clocks := rfl
@[simp] theorem State.setLocalBytes_hubCopies (k a : Nat) (bs : List Byte) : (s.setLocalBytes k a bs).hubCopies = s.hubCopies := rfl
@[simp] theorem State.setLocalBytes_allocs (k a : Nat) (bs : List Byte) : (s.setLocalBytes k a bs).allocs = s.allocs := rfl
@[simp] theorem State.setLocalBytes_areas (k a : Nat) (bs : List Byte) : (s.setLocalBytes k a bs).areas = s.areas := rfl
@[simp] theorem State.setLocalBytes_givens (k a : Nat) (bs : List Byte) : (s.setLocalBytes k a bs).givens = s.givens := rfl
@[simp] theorem State.setLocalBytes_seqs (k a : Nat) (bs : List Byte) : (s.setLocalBytes k a bs).seqs = s.seqs := rfl
@[simp] theorem State.setLocalBytes_barAnswers (k a : Nat) (bs : List Byte) : (s.setLocalBytes k a bs).barAnswers = s.barAnswers := rfl

/-! ## withNow -/

@[simp] theorem State.withNow_who (e : Event) : (s.withNow e).who = s.who := rfl
@[simp] theorem State.withNow_turn (e : Event) : (s.withNow e).turn = s.turn := rfl
@[simp] theorem State.withNow_pending (e : Event) : (s.withNow e).pending = s.pending := rfl
@[simp] theorem State.withNow_freeCount (e : Event) : (s.withNow e).freeCount = s.freeCount := rfl
@[simp] theorem State.withNow_waitCount (e : Event) : (s.withNow e).waitCount = s.waitCount := rfl
@[simp] theorem State.withNow_cores (e : Event) : (s.withNow e).cores = s.cores := rfl
@[simp] theorem State.withNow_clusters (e : Event) : (s.withNow e).clusters = s.clusters := rfl
@[simp] theorem State.withNow_groups (e : Event) : (s.withNow e).groups = s.groups := rfl
@[simp] theorem State.withNow_nextGroup (e : Event) : (s.withNow e).nextGroup = s.nextGroup := rfl
@[simp] theorem State.withNow_contexts (e : Event) : (s.withNow e).contexts = s.contexts := rfl
@[simp] theorem State.withNow_binaries (e : Event) : (s.withNow e).binaries = s.binaries := rfl
@[simp] theorem State.withNow_queues (e : Event) : (s.withNow e).queues = s.queues := rfl
@[simp] theorem State.withNow_hwSlots (e : Event) : (s.withNow e).hwSlots = s.hwSlots := rfl
@[simp] theorem State.withNow_bindCount (e : Event) : (s.withNow e).bindCount = s.bindCount := rfl
@[simp] theorem State.withNow_launchCount (e : Event) : (s.withNow e).launchCount = s.launchCount := rfl
@[simp] theorem State.withNow_triggers (e : Event) : (s.withNow e).triggers = s.triggers := rfl
@[simp] theorem State.withNow_phys (e : Event) : (s.withNow e).phys = s.phys := rfl
@[simp] theorem State.withNow_faultSeq (e : Event) : (s.withNow e).faultSeq = s.faultSeq := rfl
@[simp] theorem State.withNow_counters (e : Event) : (s.withNow e).counters = s.counters := rfl
@[simp] theorem State.withNow_partAddr (e : Event) : (s.withNow e).partAddr = s.partAddr := rfl
@[simp] theorem State.withNow_fabricOut (e : Event) : (s.withNow e).fabricOut = s.fabricOut := rfl
@[simp] theorem State.withNow_msix (e : Event) : (s.withNow e).msix = s.msix := rfl
@[simp] theorem State.withNow_pagerAccs (e : Event) : (s.withNow e).pagerAccs = s.pagerAccs := rfl
@[simp] theorem State.withNow_parks (e : Event) : (s.withNow e).parks = s.parks := rfl
@[simp] theorem State.withNow_pagerAsks (e : Event) : (s.withNow e).pagerAsks = s.pagerAsks := rfl
@[simp] theorem State.withNow_quantum (e : Event) : (s.withNow e).quantum = s.quantum := rfl
@[simp] theorem State.withNow_pendCount (e : Event) : (s.withNow e).pendCount = s.pendCount := rfl
@[simp] theorem State.withNow_hwTurn (e : Event) : (s.withNow e).hwTurn = s.hwTurn := rfl
@[simp] theorem State.withNow_flight (e : Event) : (s.withNow e).flight = s.flight := rfl
@[simp] theorem State.withNow_engineAsks (e : Event) : (s.withNow e).engineAsks = s.engineAsks := rfl
@[simp] theorem State.withNow_keys (e : Event) : (s.withNow e).keys = s.keys := rfl
@[simp] theorem State.withNow_pagerFailed (e : Event) : (s.withNow e).pagerFailed = s.pagerFailed := rfl
@[simp] theorem State.withNow_away (e : Event) : (s.withNow e).away = s.away := rfl
@[simp] theorem State.withNow_hostBase (e : Event) : (s.withNow e).hostBase = s.hostBase := rfl
@[simp] theorem State.withNow_hostUp (e : Event) : (s.withNow e).hostUp = s.hostUp := rfl
@[simp] theorem State.withNow_hostOut (e : Event) : (s.withNow e).hostOut = s.hostOut := rfl
@[simp] theorem State.withNow_victims (e : Event) : (s.withNow e).victims = s.victims := rfl
@[simp] theorem State.withNow_slices (e : Event) : (s.withNow e).slices = s.slices := rfl
@[simp] theorem State.withNow_pinThreshold (e : Event) : (s.withNow e).pinThreshold = s.pinThreshold := rfl
@[simp] theorem State.withNow_poison (e : Event) : (s.withNow e).poison = s.poison := rfl
@[simp] theorem State.withNow_fetches (e : Event) : (s.withNow e).fetches = s.fetches := rfl
@[simp] theorem State.withNow_clasps (e : Event) : (s.withNow e).clasps = s.clasps := rfl
@[simp] theorem State.withNow_lands (e : Event) : (s.withNow e).lands = s.lands := rfl
@[simp] theorem State.withNow_vaultParks (e : Event) : (s.withNow e).vaultParks = s.vaultParks := rfl
@[simp] theorem State.withNow_dims (e : Event) : (s.withNow e).dims = s.dims := rfl
@[simp] theorem State.withNow_wraps (e : Event) : (s.withNow e).wraps = s.wraps := rfl
@[simp] theorem State.withNow_detours (e : Event) : (s.withNow e).detours = s.detours := rfl
@[simp] theorem State.withNow_portsDown (e : Event) : (s.withNow e).portsDown = s.portsDown := rfl
@[simp] theorem State.withNow_ringPeers (e : Event) : (s.withNow e).ringPeers = s.ringPeers := rfl
@[simp] theorem State.withNow_forwards (e : Event) : (s.withNow e).forwards = s.forwards := rfl
@[simp] theorem State.withNow_refusedAge (e : Event) : (s.withNow e).refusedAge = s.refusedAge := rfl
@[simp] theorem State.withNow_moved (e : Event) : (s.withNow e).moved = s.moved := rfl
@[simp] theorem State.withNow_feats (e : Event) : (s.withNow e).feats = s.feats := rfl
@[simp] theorem State.withNow_barBase (e : Event) : (s.withNow e).barBase = s.barBase := rfl
@[simp] theorem State.withNow_ecc32c (e : Event) : (s.withNow e).ecc32c = s.ecc32c := rfl
@[simp] theorem State.withNow_device (e : Event) : (s.withNow e).device = s.device := rfl
@[simp] theorem State.withNow_firmware (e : Event) : (s.withNow e).firmware = s.firmware := rfl
@[simp] theorem State.withNow_records (e : Event) : (s.withNow e).records = s.records := rfl
@[simp] theorem State.withNow_flash (e : Event) : (s.withNow e).flash = s.flash := rfl
@[simp] theorem State.withNow_ckpt (e : Event) : (s.withNow e).ckpt = s.ckpt := rfl
@[simp] theorem State.withNow_clocks (e : Event) : (s.withNow e).clocks = s.clocks := rfl
@[simp] theorem State.withNow_hubCopies (e : Event) : (s.withNow e).hubCopies = s.hubCopies := rfl
@[simp] theorem State.withNow_allocs (e : Event) : (s.withNow e).allocs = s.allocs := rfl
@[simp] theorem State.withNow_areas (e : Event) : (s.withNow e).areas = s.areas := rfl
@[simp] theorem State.withNow_givens (e : Event) : (s.withNow e).givens = s.givens := rfl
@[simp] theorem State.withNow_seqs (e : Event) : (s.withNow e).seqs = s.seqs := rfl
@[simp] theorem State.withNow_barAnswers (e : Event) : (s.withNow e).barAnswers = s.barAnswers := rfl

/-! ## modSlot -/

@[simp] theorem State.modSlot_who (k i : Nat) (f : Transfer → Transfer) : (s.modSlot k i f).who = s.who := rfl
@[simp] theorem State.modSlot_turn (k i : Nat) (f : Transfer → Transfer) : (s.modSlot k i f).turn = s.turn := rfl
@[simp] theorem State.modSlot_now (k i : Nat) (f : Transfer → Transfer) : (s.modSlot k i f).now = s.now := rfl
@[simp] theorem State.modSlot_pending (k i : Nat) (f : Transfer → Transfer) : (s.modSlot k i f).pending = s.pending := rfl
@[simp] theorem State.modSlot_freeCount (k i : Nat) (f : Transfer → Transfer) : (s.modSlot k i f).freeCount = s.freeCount := rfl
@[simp] theorem State.modSlot_waitCount (k i : Nat) (f : Transfer → Transfer) : (s.modSlot k i f).waitCount = s.waitCount := rfl
@[simp] theorem State.modSlot_clusters (k i : Nat) (f : Transfer → Transfer) : (s.modSlot k i f).clusters = s.clusters := rfl
@[simp] theorem State.modSlot_groups (k i : Nat) (f : Transfer → Transfer) : (s.modSlot k i f).groups = s.groups := rfl
@[simp] theorem State.modSlot_nextGroup (k i : Nat) (f : Transfer → Transfer) : (s.modSlot k i f).nextGroup = s.nextGroup := rfl
@[simp] theorem State.modSlot_contexts (k i : Nat) (f : Transfer → Transfer) : (s.modSlot k i f).contexts = s.contexts := rfl
@[simp] theorem State.modSlot_binaries (k i : Nat) (f : Transfer → Transfer) : (s.modSlot k i f).binaries = s.binaries := rfl
@[simp] theorem State.modSlot_queues (k i : Nat) (f : Transfer → Transfer) : (s.modSlot k i f).queues = s.queues := rfl
@[simp] theorem State.modSlot_hwSlots (k i : Nat) (f : Transfer → Transfer) : (s.modSlot k i f).hwSlots = s.hwSlots := rfl
@[simp] theorem State.modSlot_bindCount (k i : Nat) (f : Transfer → Transfer) : (s.modSlot k i f).bindCount = s.bindCount := rfl
@[simp] theorem State.modSlot_launchCount (k i : Nat) (f : Transfer → Transfer) : (s.modSlot k i f).launchCount = s.launchCount := rfl
@[simp] theorem State.modSlot_triggers (k i : Nat) (f : Transfer → Transfer) : (s.modSlot k i f).triggers = s.triggers := rfl
@[simp] theorem State.modSlot_phys (k i : Nat) (f : Transfer → Transfer) : (s.modSlot k i f).phys = s.phys := rfl
@[simp] theorem State.modSlot_faultSeq (k i : Nat) (f : Transfer → Transfer) : (s.modSlot k i f).faultSeq = s.faultSeq := rfl
@[simp] theorem State.modSlot_counters (k i : Nat) (f : Transfer → Transfer) : (s.modSlot k i f).counters = s.counters := rfl
@[simp] theorem State.modSlot_partAddr (k i : Nat) (f : Transfer → Transfer) : (s.modSlot k i f).partAddr = s.partAddr := rfl
@[simp] theorem State.modSlot_fabricOut (k i : Nat) (f : Transfer → Transfer) : (s.modSlot k i f).fabricOut = s.fabricOut := rfl
@[simp] theorem State.modSlot_msix (k i : Nat) (f : Transfer → Transfer) : (s.modSlot k i f).msix = s.msix := rfl
@[simp] theorem State.modSlot_pagerAccs (k i : Nat) (f : Transfer → Transfer) : (s.modSlot k i f).pagerAccs = s.pagerAccs := rfl
@[simp] theorem State.modSlot_parks (k i : Nat) (f : Transfer → Transfer) : (s.modSlot k i f).parks = s.parks := rfl
@[simp] theorem State.modSlot_pagerAsks (k i : Nat) (f : Transfer → Transfer) : (s.modSlot k i f).pagerAsks = s.pagerAsks := rfl
@[simp] theorem State.modSlot_quantum (k i : Nat) (f : Transfer → Transfer) : (s.modSlot k i f).quantum = s.quantum := rfl
@[simp] theorem State.modSlot_pendCount (k i : Nat) (f : Transfer → Transfer) : (s.modSlot k i f).pendCount = s.pendCount := rfl
@[simp] theorem State.modSlot_hwTurn (k i : Nat) (f : Transfer → Transfer) : (s.modSlot k i f).hwTurn = s.hwTurn := rfl
@[simp] theorem State.modSlot_flight (k i : Nat) (f : Transfer → Transfer) : (s.modSlot k i f).flight = s.flight := rfl
@[simp] theorem State.modSlot_engineAsks (k i : Nat) (f : Transfer → Transfer) : (s.modSlot k i f).engineAsks = s.engineAsks := rfl
@[simp] theorem State.modSlot_keys (k i : Nat) (f : Transfer → Transfer) : (s.modSlot k i f).keys = s.keys := rfl
@[simp] theorem State.modSlot_pagerFailed (k i : Nat) (f : Transfer → Transfer) : (s.modSlot k i f).pagerFailed = s.pagerFailed := rfl
@[simp] theorem State.modSlot_away (k i : Nat) (f : Transfer → Transfer) : (s.modSlot k i f).away = s.away := rfl
@[simp] theorem State.modSlot_hostBase (k i : Nat) (f : Transfer → Transfer) : (s.modSlot k i f).hostBase = s.hostBase := rfl
@[simp] theorem State.modSlot_hostUp (k i : Nat) (f : Transfer → Transfer) : (s.modSlot k i f).hostUp = s.hostUp := rfl
@[simp] theorem State.modSlot_hostOut (k i : Nat) (f : Transfer → Transfer) : (s.modSlot k i f).hostOut = s.hostOut := rfl
@[simp] theorem State.modSlot_victims (k i : Nat) (f : Transfer → Transfer) : (s.modSlot k i f).victims = s.victims := rfl
@[simp] theorem State.modSlot_slices (k i : Nat) (f : Transfer → Transfer) : (s.modSlot k i f).slices = s.slices := rfl
@[simp] theorem State.modSlot_pinThreshold (k i : Nat) (f : Transfer → Transfer) : (s.modSlot k i f).pinThreshold = s.pinThreshold := rfl
@[simp] theorem State.modSlot_poison (k i : Nat) (f : Transfer → Transfer) : (s.modSlot k i f).poison = s.poison := rfl
@[simp] theorem State.modSlot_fetches (k i : Nat) (f : Transfer → Transfer) : (s.modSlot k i f).fetches = s.fetches := rfl
@[simp] theorem State.modSlot_clasps (k i : Nat) (f : Transfer → Transfer) : (s.modSlot k i f).clasps = s.clasps := rfl
@[simp] theorem State.modSlot_lands (k i : Nat) (f : Transfer → Transfer) : (s.modSlot k i f).lands = s.lands := rfl
@[simp] theorem State.modSlot_vaultParks (k i : Nat) (f : Transfer → Transfer) : (s.modSlot k i f).vaultParks = s.vaultParks := rfl
@[simp] theorem State.modSlot_dims (k i : Nat) (f : Transfer → Transfer) : (s.modSlot k i f).dims = s.dims := rfl
@[simp] theorem State.modSlot_wraps (k i : Nat) (f : Transfer → Transfer) : (s.modSlot k i f).wraps = s.wraps := rfl
@[simp] theorem State.modSlot_detours (k i : Nat) (f : Transfer → Transfer) : (s.modSlot k i f).detours = s.detours := rfl
@[simp] theorem State.modSlot_portsDown (k i : Nat) (f : Transfer → Transfer) : (s.modSlot k i f).portsDown = s.portsDown := rfl
@[simp] theorem State.modSlot_ringPeers (k i : Nat) (f : Transfer → Transfer) : (s.modSlot k i f).ringPeers = s.ringPeers := rfl
@[simp] theorem State.modSlot_forwards (k i : Nat) (f : Transfer → Transfer) : (s.modSlot k i f).forwards = s.forwards := rfl
@[simp] theorem State.modSlot_refusedAge (k i : Nat) (f : Transfer → Transfer) : (s.modSlot k i f).refusedAge = s.refusedAge := rfl
@[simp] theorem State.modSlot_moved (k i : Nat) (f : Transfer → Transfer) : (s.modSlot k i f).moved = s.moved := rfl
@[simp] theorem State.modSlot_feats (k i : Nat) (f : Transfer → Transfer) : (s.modSlot k i f).feats = s.feats := rfl
@[simp] theorem State.modSlot_barBase (k i : Nat) (f : Transfer → Transfer) : (s.modSlot k i f).barBase = s.barBase := rfl
@[simp] theorem State.modSlot_ecc32c (k i : Nat) (f : Transfer → Transfer) : (s.modSlot k i f).ecc32c = s.ecc32c := rfl
@[simp] theorem State.modSlot_device (k i : Nat) (f : Transfer → Transfer) : (s.modSlot k i f).device = s.device := rfl
@[simp] theorem State.modSlot_firmware (k i : Nat) (f : Transfer → Transfer) : (s.modSlot k i f).firmware = s.firmware := rfl
@[simp] theorem State.modSlot_records (k i : Nat) (f : Transfer → Transfer) : (s.modSlot k i f).records = s.records := rfl
@[simp] theorem State.modSlot_flash (k i : Nat) (f : Transfer → Transfer) : (s.modSlot k i f).flash = s.flash := rfl
@[simp] theorem State.modSlot_ckpt (k i : Nat) (f : Transfer → Transfer) : (s.modSlot k i f).ckpt = s.ckpt := rfl
@[simp] theorem State.modSlot_clocks (k i : Nat) (f : Transfer → Transfer) : (s.modSlot k i f).clocks = s.clocks := rfl
@[simp] theorem State.modSlot_hubCopies (k i : Nat) (f : Transfer → Transfer) : (s.modSlot k i f).hubCopies = s.hubCopies := rfl
@[simp] theorem State.modSlot_allocs (k i : Nat) (f : Transfer → Transfer) : (s.modSlot k i f).allocs = s.allocs := rfl
@[simp] theorem State.modSlot_areas (k i : Nat) (f : Transfer → Transfer) : (s.modSlot k i f).areas = s.areas := rfl
@[simp] theorem State.modSlot_givens (k i : Nat) (f : Transfer → Transfer) : (s.modSlot k i f).givens = s.givens := rfl
@[simp] theorem State.modSlot_seqs (k i : Nat) (f : Transfer → Transfer) : (s.modSlot k i f).seqs = s.seqs := rfl
@[simp] theorem State.modSlot_barAnswers (k i : Nat) (f : Transfer → Transfer) : (s.modSlot k i f).barAnswers = s.barAnswers := rfl

end Sys2Proof.Machine
end

