-- ==== Sys2Proof/Laws/Cores.lean ====
section
/-! SUPPORT. What the operations on cores, task contexts and registers do: what is read back, what is left alone, and what retiring,
jumping and waiting for registers come to. -/

namespace Sys2Proof.Machine

/-! ## Cores and groups by number -/

theorem State.coreAt_setCore (s : State) (k j : Nat) (c : Core) : (s.setCore k c).coreAt j = if k = j then c else s.coreAt j :=
  SMap.get_put _ _ _ _ _

@[simp] theorem State.coreAt_setCore_same (s : State) (k : Nat) (c : Core) : (s.setCore k c).coreAt k = c := by
  simp [State.coreAt_setCore]

theorem State.coreAt_modCore (s : State) (k j : Nat) (f : Core → Core) :
    (s.modCore k f).coreAt j = if k = j then f (s.coreAt k) else s.coreAt j := State.coreAt_setCore _ _ _ _

@[simp] theorem State.coreAt_modCore_same (s : State) (k : Nat) (f : Core → Core) : (s.modCore k f).coreAt k = f (s.coreAt k) := by
  simp [State.coreAt_modCore]

@[simp] theorem State.groupAt_modGroup_same (s : State) (g : Nat) (f : Group → Group) :
    (s.modGroup g f).groupAt g = f (s.groupAt g) := by simp [State.modGroup, State.groupAt]

@[simp] theorem State.contextAt_modContext_same (s : State) (c : Nat) (f : Context → Context) :
    (s.modContext c f).contextAt c = f (s.contextAt c) := by simp [State.modContext, State.contextAt]

@[simp] theorem State.queueAt_modQueue_same (s : State) (q : Nat) (f : Queue → Queue) :
    (s.modQueue q f).queueAt q = f (s.queueAt q) := by simp [State.modQueue, State.queueAt]

theorem State.queueAt_modQueue_other (s : State) {q r : Nat} (h : q ≠ r) (f : Queue → Queue) :
    (s.modQueue q f).queueAt r = s.queueAt r := by simp [State.modQueue, State.queueAt, SMap.get_put_other _ h]

/-! ## Task contexts -/

@[simp] theorem Core.modTask_handler (c : Core) (f : TaskCtx → TaskCtx) : c.modTask .handler f = c := rfl

theorem Core.task_modTask (c : Core) (x y : CtxSel) (f : TaskCtx → TaskCtx) (hx : x ≠ .handler) :
    (c.modTask x f).task y = if x = y ∨ (x = .tc0 ∧ y = .handler) then f (c.task x) else c.task y := by
  cases x <;> cases y <;> simp_all [Core.modTask, Core.task]

theorem Core.modTask_lm (c : Core) (x : CtxSel) (f : TaskCtx → TaskCtx) : (c.modTask x f).lm = c.lm := by cases x <;> rfl

theorem Core.modTask_hd (c : Core) (x : CtxSel) (f : TaskCtx → TaskCtx) : (c.modTask x f).hd = c.hd := by cases x <;> rfl

@[simp] theorem State.taskAt_modTask_same (s : State) (i : Issuer) (f : TaskCtx → TaskCtx) (h : i.ctx ≠ .handler) :
    (s.modTask i f).taskAt i = f (s.taskAt i) := by
  simp [State.modTask, State.taskAt, Core.task_modTask _ _ _ _ h]

/-! ## Scalar registers -/

@[simp] theorem State.xAt_zero (s : State) (i : Issuer) : s.xAt i 0#4 = 0#32 := by simp [State.xAt]

@[simp] theorem State.x_zero (s : State) : s.x 0#4 = 0#32 := State.xAt_zero s s.who

@[simp] theorem State.setXAt_zero (s : State) (i : Issuer) (w : Word) : s.setXAt i 0#4 w = s := by simp [State.setXAt]

@[simp] theorem State.setX_zero (s : State) (w : Word) : s.setX 0#4 w = s := State.setXAt_zero s s.who w

@[simp] theorem State.setXAt_who (s : State) (i : Issuer) (r : BitVec 4) (w : Word) : (s.setXAt i r w).who = s.who := by
  unfold State.setXAt; split
  · rfl
  · split <;> rfl

@[simp] theorem State.setX_who (s : State) (r : BitVec 4) (w : Word) : (s.setX r w).who = s.who := State.setXAt_who ..

/-- Writing a register changes nothing outside the cores. -/
theorem State.setXAt_outside (s : State) (i : Issuer) (r : BitVec 4) (w : Word) :
    { s.setXAt i r w with cores := s.cores } = s := by
  unfold State.setXAt; split
  · rfl
  · split <;> rfl

/-! ## Retiring and jumping -/

@[simp] theorem State.prefer_who (s : State) : s.prefer.who = s.who := by unfold State.prefer; split <;> rfl

@[simp] theorem State.retireAt_who (s : State) (i : Issuer) (n : Word) : (s.retireAt i n).who = s.who := by
  unfold State.retireAt; split <;> rfl

@[simp] theorem State.retire_who (s : State) (n : Word) : (s.retire n).who = s.who := by simp [State.retire]

theorem State.prefer_outside (s : State) : { s.prefer with cores := s.cores } = s := by unfold State.prefer; split <;> rfl

theorem State.retire_outside (s : State) (n : Word) : { s.retire n with cores := s.cores } = s := by
  unfold State.retire State.prefer State.retireAt; split <;> split <;> rfl

theorem State.jump_outside (s : State) (w : Word) : { s.jump w with cores := s.cores } = s := by
  unfold State.jump State.prefer; split <;> split <;> rfl

theorem TaskCtx.complete_pc (t : TaskCtx) (n : Word) (h : ∀ l : Fin 2, t.lc[l] = 0#32 ∨ t.le[l] ≠ t.pc) :
    t.complete n = { t with pc := t.pc + n, instret := t.instret + 1#32, run := .running } := by
  have h0 : ¬(t.lc[(0 : Fin 2)] ≠ 0#32 ∧ t.pc = t.le[(0 : Fin 2)]) := by
    rcases h 0 with h | h
    · simp [h]
    · exact fun e => h e.2.symm
  have h1 : ¬(t.lc[(1 : Fin 2)] ≠ 0#32 ∧ t.pc = t.le[(1 : Fin 2)]) := by
    rcases h 1 with h | h
    · simp [h]
    · exact fun e => h e.2.symm
  simp only [TaskCtx.complete, TaskCtx.loopBack, TaskCtx.loopOne, if_neg h0, if_neg h1]

/-! ## Waiting for registers -/

/-- An instruction whose registers are free goes on. -/
theorem State.withRegs_task (s : State) (xs : List (BitVec 4)) (vs : List (BitVec 3)) (k : State → State)
    (h : s.task.faultIn xs vs = none) (w : s.task.waitsFor xs vs = false) : s.withRegs xs vs k = k s := by
  unfold State.withRegs; split
  · rfl
  · simp [h, w]

theorem State.withRegs_handler (s : State) (xs : List (BitVec 4)) (vs : List (BitVec 3)) (k : State → State)
    (h : s.inHandler = true) : s.withRegs xs vs k = k s := by simp [State.withRegs, h]

theorem State.inTask_task (s : State) (k : State → State) (h : s.inHandler = false) : s.inTask k = k s := by
  simp [State.inTask, h]

theorem State.access_free (s : State) (k : State → State) (h : s.inHandler = true ∨ s.task.acquires = 0) : s.access k = k s := by
  unfold State.access
  rcases h with h | h <;> simp [h]

theorem State.await_true (s : State) (k : State → State) (p : Bool) (h : p = true) : s.await p k = k s := by simp [State.await, h]

theorem State.checked_none (s : State) (f : Option Trap) (k : State → State) (h : f = none) : s.checked f k = k s := by
  simp [State.checked, h]

end Sys2Proof.Machine
end

