-- ==== Sys2Proof/Laws/Engine.lean ====
section
/-! SUPPORT. What the slices and the engines' reads and writes of global memory leave alone: every queue, group, context, trigger, binary,
landing, cluster and the device; and, where they only read, every core. -/

namespace Sys2Proof.Machine

/-- The parts of the state that no access of an engine changes. -/
def State.parts (s : State) := (s.queues, s.groups, s.hwSlots, s.contexts, s.triggers, s.binaries, s.hubCopies, s.clasps, s.lands, s.device, s.clusters)

/-- The same, with the cores. -/
def State.kept (s : State) := (s.parts, s.cores)

/-- A fold of steps that each keep something keeps it. -/
theorem foldl_keeps {α β γ : Type} (p : β → γ) (f : β → α → β) (h : ∀ b x, p (f b x) = p b) (l : List α) (b : β) :
    p (l.foldl f b) = p b := by
  induction l generalizing b with
  | nil => rfl
  | cons x l ih => rw [List.foldl_cons, ih, h]

/-- What is kept does not depend on memory, slices, free values, waits, fetches, the pager or what is on its way. -/
theorem State.kept_parts {s t : State} (h : t.kept = s.kept) : t.parts = s.parts := congrArg Prod.fst h

/-! ## Slices -/

@[simp] theorem State.touch_kept (s : State) (l : Leaf) (w : Bool) : (s.touch l w).kept = s.kept := by
  unfold State.touch; split <;> rfl

@[simp] theorem State.modSlice_kept (s : State) (k : Nat) (f : Slice → Slice) : (s.modSlice k f).kept = s.kept := rfl

@[simp] theorem State.writeSectors_kept (s : State) (l : SLine) (is : List Nat) : (s.writeSectors l is).kept = s.kept := by
  unfold State.writeSectors; refine foldl_keeps State.kept _ (fun t x => ?_) _ s; rfl

@[simp] theorem State.writeBack_kept (s : State) (l : SLine) : (s.writeBack l).kept = s.kept := by
  unfold State.writeBack; dsimp only; split
  · rw [State.modSlice_kept, State.writeSectors_kept, State.writeSectors_kept]
  · exact State.writeSectors_kept ..

@[simp] theorem State.dropLine_kept (s : State) (k : Nat) (l : SLine) : (s.dropLine k l).kept = s.kept := by
  unfold State.dropLine; rw [State.writeBack_kept, State.modSlice_kept]

@[simp] theorem State.fetchGranule_kept (s : State) (c v : Nat) (l : Leaf) : (s.fetchGranule c v l).kept = s.kept := by
  unfold State.fetchGranule; refine foldl_keeps State.kept _ (fun t x => ?_) _ s; rfl

@[simp] theorem State.memRead_kept (s : State) (c v r : Nat) (l : Leaf) : (s.memRead c v r l).kept = s.kept := by
  unfold State.memRead; split
  · exact State.fetchGranule_kept ..
  · rfl

@[simp] theorem State.clearPoison_kept (s : State) (c v : Nat) (l : Leaf) : (s.clearPoison c v l).kept = s.kept := by
  unfold State.clearPoison; split
  · rfl
  · refine foldl_keeps State.kept _ (fun t x => ?_) _ s
    split <;> rfl

@[simp] theorem State.makeRoom_kept {α : Type} (s : State) (n : Nat) (xs : List α) : (s.makeRoom n xs).2.kept = s.kept := by
  unfold State.makeRoom; split <;> rfl

@[simp] theorem State.holdPointer_kept (s : State) (k : Nat) (p : Nat × Nat × Nat) : (s.holdPointer k p).kept = s.kept := by
  unfold State.holdPointer; split
  · rfl
  · dsimp only; rw [State.modSlice_kept, State.makeRoom_kept]

@[simp] theorem State.countAccess_kept (s : State) (k c p v : Nat) : (s.countAccess k c p v).kept = s.kept := by
  unfold State.countAccess; dsimp only; split
  · rfl
  · have h := foldl_keeps State.kept (State.holdPointer k) (fun t x => State.holdPointer_kept t k x) (walkPointers c v) s
    rw [State.modSlice_kept, State.makeRoom_kept]; exact h

@[simp] theorem State.unpin_kept (s : State) (k c n : Nat) : (s.unpin k c n).kept = s.kept := by
  unfold State.unpin; dsimp only; split
  · split
    · exact State.dropLine_kept ..
    · rfl
  · rfl

@[simp] theorem State.noteRequest_kept (s : State) (c v r : Nat) (l : Leaf) : (s.noteRequest c v r l).kept = s.kept := by
  unfold State.noteRequest; dsimp only; split
  · rw [State.modSlice_kept]; split
    · rw [State.unpin_kept, State.countAccess_kept]
    · exact State.countAccess_kept ..
  · exact State.countAccess_kept ..

@[simp] theorem State.dropPage_kept (s : State) (c : Nat) (l : Leaf) (k : Bool) : (s.dropPage c l k).kept = s.kept := by
  unfold State.dropPage; dsimp only; split
  · exact foldl_keeps State.kept (fun (t : State) (e : Nat × SLine) => t.writeBack e.2) (fun t e => State.writeBack_kept t e.2) _ s
  · rfl

@[simp] theorem State.postAll_kept (s : State) (es : List Event) : (s.postAll es).kept = s.kept := rfl

@[simp] theorem State.victimise_kept (s : State) (c : Nat) (l : Leaf) : (s.victimise c l).kept = s.kept := by
  unfold State.victimise; dsimp only; split
  · rfl
  · split
    · rw [State.postAll_kept, State.dropPage_kept]; rfl
    · rfl

theorem State.sweep_kept (s : State) (k : Nat) : (s.sweep k).2.kept = s.kept := by unfold State.sweep; rfl

@[simp] theorem State.evict_kept (s : State) (k : Nat) : (s.evict k).kept = s.kept := by
  unfold State.evict; dsimp only; split
  · split
    · rw [State.victimise_kept, State.sweep_kept, State.dropLine_kept]; rfl
    · rw [State.sweep_kept, State.dropLine_kept]; rfl
  · rfl

@[simp] theorem State.flip_kept (s : State) : s.flip.2.kept = s.kept := rfl

@[simp] theorem State.evictOver_kept (s : State) (k : Nat) : (s.evictOver k).kept = s.kept := by
  have h := foldl_keeps State.kept (fun (t : State) (_ : Nat) => t.evict k) (fun t _ => State.evict_kept t k)
    (List.range ((s.sliceAt k).general.length - generalLines)) s
  unfold State.evictOver; dsimp only; split
  · rw [State.evict_kept, State.flip_kept]; exact h
  · rw [State.flip_kept]; exact h

@[simp] theorem State.evictFor_kept (s : State) (c : Nat) (vas : List Nat) : (s.evictFor c vas).kept = s.kept :=
  foldl_keeps State.kept (fun (t : State) (k : Nat) => t.evictOver k) (fun t k => State.evictOver_kept t k) _ s

@[simp] theorem State.noteLines_kept (s : State) (c r : Nat) (ps : List (Nat × Leaf)) (counted : List Nat) :
    (s.noteLines c r ps counted).kept = s.kept := by
  have h := foldl_keeps (fun acc : List Nat × State => acc.2.kept)
    (fun (acc : List Nat × State) (p : Nat × Leaf) =>
      if acc.1.contains (p.1 / 128) then acc else (p.1 / 128 :: acc.1, acc.2.noteRequest c p.1 r p.2))
    (fun acc x => by split; exacts [rfl, State.noteRequest_kept ..]) ps (counted, s)
  unfold State.noteLines
  split
  rename_i t heq
  replace h : t.kept = s.kept := (congrArg (fun acc : List Nat × State => acc.2.kept) heq).symm.trans h
  split
  · rw [State.evictFor_kept, h]
  · exact h

/-! ## Engines -/

@[simp] theorem State.takeFailure_kept (s : State) (e : Engine) (c v : Nat) : (s.takeFailure e c v).kept = s.kept := by
  unfold State.takeFailure; split <;> rfl

@[simp] theorem State.readPiece_kept (s : State) (c r : Nat) (p : Piece) (m : PieceMeet) : (s.readPiece c r p m).2.kept = s.kept := by
  cases m with
  | here l => exact (State.memRead_kept _ _ _ _ _).trans (State.touch_kept _ _ _)
  | zero l => exact State.touch_kept _ _ _
  | given bs => rfl
  | failed c v => rfl
  | blocked m => rfl

@[simp] theorem State.askFor_kept (s : State) (e : Engine) (c p : Nat) : (s.askFor e c p).kept = s.kept := by
  unfold State.askFor State.askPager; split <;> split <;> rfl

@[simp] theorem State.recall_kept (s : State) (c p : Nat) : (s.recall c p).kept = s.kept := by
  unfold State.recall; split
  · split <;> rfl
  · rfl

@[simp] theorem State.sendPiece_kept (s : State) (e : Engine) (p : Piece) (h : Option Nat) (a : Nat) :
    (s.sendPiece e p h a).kept = s.kept := by cases h <;> rfl

@[simp] theorem State.unblock_kept (s : State) (e : Engine) (c : Nat) (p : Piece) (m : Meet) : (s.unblock e c p m).kept = s.kept := by
  unfold State.unblock; split
  · exact State.askFor_kept ..
  · exact State.recall_kept ..
  · rw [State.sendPiece_kept, State.touch_kept]
  · rw [State.sendPiece_kept, State.touch_kept]
  · rfl

/-- A read of an engine keeps every core and every other part named above. -/
theorem State.engineRead_kept (s : State) (e : Engine) (c r : Nat) (rs : List (Nat × Nat)) : (s.engineRead e c r rs).2.kept = s.kept := by
  unfold State.engineRead; dsimp only; split
  · exact State.takeFailure_kept ..
  · refine foldl_keeps State.kept _ (fun t x => ?_) _ s
    split
    · exact State.unblock_kept ..
    · rfl
  · dsimp only
    rw [State.noteLines_kept]
    refine foldl_keeps (fun acc : List Byte × State => acc.2.kept) _ (fun acc x => ?_) _ ([], s)
    exact State.readPiece_kept ..

theorem State.setPhysBytes_parts (s : State) (a : Nat) (bs : List Byte) : (s.setPhysBytes a bs).parts = s.parts := by
  unfold State.setPhysBytes; split <;> rfl

theorem State.memWrite_parts (s : State) (c v r : Nat) (l : Leaf) (bs : List Byte) : (s.memWrite c v r l bs).parts = s.parts := by
  unfold State.memWrite; dsimp only; split
  · exact State.setPhysBytes_parts ..
  · split
    · rfl
    · split
      · split
        · rfl
        · exact State.kept_parts (State.fetchGranule_kept s c v l)
      · split
        · exact State.setPhysBytes_parts s _ bs
        · exact State.setPhysBytes_parts s _ bs

theorem State.elemWrite_parts (s : State) (c v r : Nat) (l : Leaf) (bs : List Byte) : (s.elemWrite c v r l bs).parts = s.parts := by
  unfold State.elemWrite; refine foldl_keeps State.parts _ (fun t u => ?_) _ s; exact State.memWrite_parts ..

theorem State.writePiece_parts (s : State) (c r : Nat) (p : Piece) (m : PieceMeet) : (s.writePiece c r p m).parts = s.parts := by
  unfold State.writePiece; split
  · exact (State.memWrite_parts ..).trans (State.kept_parts (State.touch_kept ..))
  · exact (State.elemWrite_parts ..).trans (State.kept_parts (State.touch_kept ..))
  · rfl

theorem State.cleansePieces_parts (s : State) (c : Nat) (ps : List (Nat × Nat × Leaf)) : (s.cleansePieces c ps).parts = s.parts := by
  refine foldl_keeps State.parts _ (fun t x => ?_) ps s
  dsimp only; split
  · exact State.kept_parts (State.clearPoison_kept ..)
  · rfl

/-- Writes and additions of an engine keep every part named above; of the cores they change local memory alone, through windows. -/
theorem State.engineDo_parts (s : State) (e : Engine) (c r : Nat) (list : List Piece) (counted : List Nat) :
    (s.engineDo e c r list counted).2.parts = s.parts := by
  have h : ∀ (l : List (Piece × PieceMeet)) ms ns, (((l.foldl (fun s (x : Piece × PieceMeet) => s.writePiece c r x.1 x.2) s).cleansePieces c
      ms).noteLines c r ns counted).parts = s.parts := fun l ms ns =>
    (State.kept_parts (State.noteLines_kept ..)).trans ((State.cleansePieces_parts ..).trans
      (foldl_keeps State.parts _ (fun t x => State.writePiece_parts t c r x.1 x.2) l s))
  unfold State.engineDo; dsimp only; split
  · exact (State.kept_parts (State.takeFailure_kept ..)).trans (h _ _ _)
  · refine (State.kept_parts (State.unblock_kept ..)).trans ?_
    refine Eq.trans (foldl_keeps State.parts _ (fun t x => ?_) _ _) (h _ _ _)
    split <;> rfl
  · exact h _ _ _

theorem State.engineWrite_parts (s : State) (e : Engine) (c r : Nat) (ws : List (Nat × List Byte)) (counted : List Nat) :
    (s.engineWrite e c r ws counted).2.parts = s.parts := State.engineDo_parts ..

theorem State.addAcross_parts (s : State) (e : Engine) (c r f v : Nat) (bs : List Byte) (counted : List Nat) :
    (s.addAcross e c r f v bs counted).2.parts = s.parts := by
  have a := State.kept_parts (State.engineRead_kept s e c r [(v, bs.length)])
  unfold State.addAcross; dsimp only; split
  · exact State.engineWrite_parts ..
  · split
    · rename_i h
      rw [h] at a
      exact (State.engineWrite_parts ..).trans a
    · exact a

theorem State.engineAdd_parts (s : State) (e : Engine) (c r f : Nat) (ws : List (Nat × List Byte)) (counted : List Nat) :
    (s.engineAdd e c r f ws counted).2.parts = s.parts := by
  unfold State.engineAdd; split
  · exact State.addAcross_parts ..
  · exact State.engineDo_parts ..

/-- The examination of a packet keeps them all, and every core. -/
theorem State.examine_kept (s : State) (q : Nat) : (s.examine q).2.kept = s.kept := by
  unfold State.examine; dsimp only; split
  · rfl
  · generalize ht : ({ s with hwTurn := ((s.slotOf q).getD 0 + 1) % 64 } : State) = t
    have h : t.kept = s.kept := by rw [← ht]; rfl
    rw [← h]
    have a := State.engineRead_kept t (.hub q (s.queueAt q).ri.toNat) (s.queueAt q).ctxid.toNat 0 [((s.queueAt q).slotVa (s.queueAt q).ri, 4)]
    split <;> rename_i e <;> rw [e] at a
    · exact a
    · exact a
    · split
      · exact a
      · have b := State.engineRead_kept _ (.hub q (s.queueAt q).ri.toNat) (s.queueAt q).ctxid.toNat 0
          [((s.queueAt q).slotVa (s.queueAt q).ri, 64)] |>.trans a
        split <;> rename_i e <;> rw [e] at b <;> exact b

end Sys2Proof.Machine
end

