-- ==== Sys2Proof/Laws/Lanes.lean ====
section
/-! SUPPORT. What the operations on lanes and predicates do: the lanes of a register put together from a list, and everything that a
lane-by-lane instruction and a predicate-writing one change in their task context. -/

namespace Sys2Proof.Machine

/-- The number that a list of lanes makes, without the bound of the register. -/
theorem ofLanes_lt (w : Nat) (ls : List Nat) : ls.foldr (fun l acc => l % 2 ^ w + 2 ^ w * acc) 0 < 2 ^ (w * ls.length) := by
  induction ls with
  | nil => simp
  | cons l ls ih =>
    simp only [List.foldr_cons, List.length_cons, Nat.mul_add, Nat.mul_one, Nat.pow_add]
    have := Nat.mod_lt l (Nat.two_pow_pos w)
    generalize List.foldr (fun l acc => l % 2 ^ w + 2 ^ w * acc) 0 ls = r at *
    have h : 2 ^ w * (r + 1) ≤ 2 ^ w * 2 ^ (w * ls.length) := Nat.mul_le_mul_left _ ih
    rw [Nat.mul_comm (2 ^ (w * ls.length))]
    rw [Nat.mul_add] at h
    omega

theorem foldr_lane (w : Nat) (ls : List Nat) (i : Nat) :
    ls.foldr (fun l acc => l % 2 ^ w + 2 ^ w * acc) 0 / 2 ^ (w * i) % 2 ^ w = ls.getD i 0 % 2 ^ w := by
  induction ls generalizing i with
  | nil => simp
  | cons l ls ih =>
    cases i with
    | zero => simp
    | succ i =>
      have hl := Nat.mod_lt l (Nat.two_pow_pos w)
      simp only [List.foldr_cons, List.getD_cons_succ, ← ih i]
      rw [Nat.mul_add, Nat.mul_one, Nat.pow_add, Nat.mul_comm (2 ^ (w * i)), ← Nat.div_div_eq_div_mul,
        Nat.add_mul_div_left _ _ (Nat.two_pow_pos w), Nat.div_eq_of_lt hl, Nat.zero_add]

/-- Lane i of a register put together from lanes. -/
theorem laneOf_ofLanes {w : Nat} {ls : List Nat} (i : Nat) (h : w * ls.length ≤ 256) :
    laneOf (ofLanes w ls) w i = ls.getD i 0 % 2 ^ w := by
  have hlt := Nat.lt_of_lt_of_le (ofLanes_lt w ls) (Nat.pow_le_pow_right (by decide) h)
  simp only [laneOf, ofLanes, BitVec.toNat_ofNat, Nat.mod_eq_of_lt hlt, foldr_lane]

/-- A lane as a field of bits. -/
theorem laneOf_extract (v : Vec) (w i : Nat) : laneOf v w i = (v.extractLsb' (w * i) w).toNat := by
  simp [laneOf, Nat.shiftRight_eq_div_pow]

theorem laneOf_lt (v : Vec) (w i : Nat) : laneOf v w i < 2 ^ w := Nat.mod_lt _ (Nat.two_pow_pos w)

/-- A type of R24's codes fills a register exactly. -/
theorem lanes_bits (et : Nat) (h : et < 8) : etBits et * lanes et = 256 := by
  interval_cases et <;> rfl

@[simp] theorem TaskCtx.setV_v (t : TaskCtx) (d : BitVec 3) (w : Vec) : (t.setV d w).v = t.v.set d.toFin w := rfl
@[simp] theorem TaskCtx.setV_vl (t : TaskCtx) (d : BitVec 3) (w : Vec) : (t.setV d w).vl = true := rfl
@[simp] theorem TaskCtx.setV_vstat (t : TaskCtx) (d : BitVec 3) (w : Vec) : (t.setV d w).vstat = t.vstat := rfl

theorem flagsOf_getLsbD (rs : List Res) (j : Nat) :
    (flagsOf rs).getLsbD j = true ↔ ∃ r ∈ rs, r.fl.getLsbD j = true := by
  induction rs with
  | nil => simp [flagsOf]
  | cons r rs ih => simp_all [flagsOf, BitVec.getLsbD_or]

/-- All that a lane-by-lane write does: the active lanes hold the results, the inactive ones what they held, the other registers are as
before, VL is set, and vstat has the flags of the active lanes. -/
theorem TaskCtx.lanewise_spec (et : Nat) (h : et < 8) (d : BitVec 3) (pm : BitVec 2) (f : Nat → Res) (t : TaskCtx) :
    (∀ k, k < lanes et → laneOf ((t.lanewise et d pm f).v[d.toFin]) (etBits et) k =
      if t.active pm k then (f k).val % 2 ^ etBits et else laneOf t.v[d.toFin] (etBits et) k) ∧
    (∀ e, e ≠ d → (t.lanewise et d pm f).v[e.toFin] = t.v[e.toFin]) ∧ (t.lanewise et d pm f).vl = true ∧
    (∀ j, (t.lanewise et d pm f).vstat.getLsbD j = true ↔
      t.vstat.getLsbD j = true ∨ ∃ k, k < lanes et ∧ t.active pm k = true ∧ (f k).fl.getLsbD j = true) ∧
    { t.lanewise et d pm f with v := t.v, vl := t.vl, vstat := t.vstat } = t := by
  have hb := lanes_bits et h
  refine ⟨?_, ?_, rfl, ?_, rfl⟩
  · intro k hk
    simp only [TaskCtx.lanewise, TaskCtx.flag, TaskCtx.setV, TaskCtx.live]
    have hl : etBits et * (((List.range (lanes et)).map fun i =>
        if t.active pm i then f i else ⟨laneOf (t.vreg d) (etBits et) i, 0#4⟩).map (·.val)).length ≤ 256 := by
      simp [hb]
    simp only [Fin.getElem_fin, Vector.getElem_set_self, laneOf_ofLanes _ hl]
    simp [List.getD, hk]
    split
    · rfl
    · exact Nat.mod_eq_of_lt (laneOf_lt _ _ _)
  · intro e he
    have : d.toFin.val ≠ e.toFin.val := fun x => he (BitVec.eq_of_toNat_eq x).symm
    simp only [TaskCtx.lanewise, TaskCtx.flag, TaskCtx.setV, TaskCtx.live, Fin.getElem_fin]
    exact Vector.getElem_set_ne _ _ this
  · intro j
    simp only [TaskCtx.lanewise, TaskCtx.flag, TaskCtx.setV, TaskCtx.live, BitVec.getLsbD_or, Bool.or_eq_true,
      flagsOf_getLsbD]
    apply or_congr_right
    constructor
    · rintro ⟨r, hr, hj⟩
      simp only [List.mem_map, List.mem_range] at hr
      obtain ⟨k, hk, rfl⟩ := hr
      refine ⟨k, hk, ?_⟩
      by_cases ha : t.active pm k = true
      · simp [ha] at hj ⊢; exact hj
      · simp [ha] at hj
    · rintro ⟨k, hk, ha, hj⟩
      exact ⟨f k, List.mem_map.2 ⟨k, List.mem_range.2 hk, by simp [ha]⟩, hj⟩

theorem predBits_getLsbD (bs : List Bool) (k : Nat) (hk : k < 32) :
    (predBits bs).getLsbD k = bs.getD k false := by
  have : ∀ (bs : List Bool) k, (bs.foldr (fun (b : Bool) (acc : Nat) => b.toNat + 2 * acc) 0).testBit k = bs.getD k false := by
    intro bs
    induction bs with
    | nil => simp
    | cons b bs ih =>
      intro k
      cases k with
      | zero => cases b <;> simp [Nat.testBit_zero, Nat.add_mod]
      | succ k =>
        simp only [List.foldr_cons, Nat.testBit_succ, List.getD_cons_succ, ← ih k]
        congr 1
        cases b
        · simp
        · simp; omega
  rw [predBits, BitVec.getLsbD_ofNat, this]
  simp [hk]

/-- All that a write of a predicate does: each active lane's bit says its condition, the others are 0, p0 is never written, VL is set. -/
theorem TaskCtx.lanePred_spec (et : Nat) (d : BitVec 2) (pm : BitVec 2) (f : Nat → Bool) (t : TaskCtx) :
    (d ≠ 0#2 → ∀ k, k < 32 → ((t.lanePred et d pm f).p[d.toFin].getLsbD k = true ↔
      k < lanes et ∧ t.active pm k = true ∧ f k = true)) ∧
    (∀ e, (e ≠ d ∨ d = 0#2) → (t.lanePred et d pm f).p[e.toFin] = t.p[e.toFin]) ∧ (t.lanePred et d pm f).vl = true ∧
    { t.lanePred et d pm f with p := t.p, vl := t.vl } = t := by
  refine ⟨?_, ?_, ?_, ?_⟩
  · intro hd k hk
    simp only [TaskCtx.lanePred, TaskCtx.setP, if_neg hd, TaskCtx.live, Fin.getElem_fin, Vector.getElem_set_self]
    rw [predBits_getLsbD _ _ hk]
    by_cases h' : k < lanes et <;> simp [List.getD, h']
  · intro e he
    simp only [TaskCtx.lanePred, TaskCtx.setP, TaskCtx.live]
    split
    · rfl
    · rename_i hd
      have he := he.resolve_right hd
      have : d.toFin.val ≠ e.toFin.val := fun x => he (BitVec.eq_of_toNat_eq x).symm
      simp only [Fin.getElem_fin]
      exact Vector.getElem_set_ne _ _ this
  · rfl
  · simp only [TaskCtx.lanePred, TaskCtx.setP, TaskCtx.live]
    split <;> rfl

/-- A vector instruction of a task context whose registers are free changes its context by its function and retires. -/
theorem State.vector_task (xs : List (BitVec 4)) (vs : List (BitVec 3)) (f : TaskCtx → TaskCtx) (s : State)
    (hh : s.inHandler = false) (h : s.task.faultIn xs vs = none) (w : s.task.waitsFor xs vs = false) :
    s.vector xs vs f = (s.modT f).retire 4#32 := by
  rw [State.vector, State.inTask_task _ _ hh, State.withRegs_task _ _ _ _ h w]

end Sys2Proof.Machine
end

