-- ==== Sys2Proof/Laws/PerInstr.lean ====
section
/-! SUPPORT. One lemma per instruction on its encoding: its length, its size and the length that its first halfword gives (R53). -/

namespace Sys2Proof.Laws.Encoding

set_option Elab.async false

/-- An encoding has two or four bytes, its word fits them, and bits [15:14] of the word give that length (R53). -/
def Statement (i : Instr) : Prop := ∀ n w, encode i = some (n, w) → (n = 2 ∨ n = 4) ∧ w < 2 ^ (8 * n) ∧ instrBytes w = n

/-- The word of a fixed value and fields. -/
def value (m : Nat) (fs : List (Nat × Nat)) : Nat := fs.foldr (fun f w => f.2 * 2 ^ f.1 + w) m

theorem word_eq (n m : Nat) (fs : List (Nat × Nat)) : word n m fs = some (n, value m fs) := rfl

/-! A word's value by the number of its fields: rewriting with these keeps the kernel from unfolding a literal. -/

theorem value_0 (m : Nat) : value m [] = m := rfl
theorem value_1 (m k1 x1 : Nat) : value m [(k1, x1)] = x1 * 2 ^ k1 + m := rfl
theorem value_2 (m k1 x1 k2 x2 : Nat) : value m [(k1, x1), (k2, x2)] = x1 * 2 ^ k1 + (x2 * 2 ^ k2 + m) := rfl
theorem value_3 (m k1 x1 k2 x2 k3 x3 : Nat) : value m [(k1, x1), (k2, x2), (k3, x3)] = x1 * 2 ^ k1 + (x2 * 2 ^ k2 + (x3 * 2 ^ k3 + m)) := rfl
theorem value_4 (m k1 x1 k2 x2 k3 x3 k4 x4 : Nat) : value m [(k1, x1), (k2, x2), (k3, x3), (k4, x4)] = x1 * 2 ^ k1 + (x2 * 2 ^ k2 + (x3 * 2 ^ k3 + (x4 * 2 ^ k4 + m))) := rfl
theorem value_5 (m k1 x1 k2 x2 k3 x3 k4 x4 k5 x5 : Nat) : value m [(k1, x1), (k2, x2), (k3, x3), (k4, x4), (k5, x5)] = x1 * 2 ^ k1 + (x2 * 2 ^ k2 + (x3 * 2 ^ k3 + (x4 * 2 ^ k4 + (x5 * 2 ^ k5 + m)))) := rfl
theorem value_6 (m k1 x1 k2 x2 k3 x3 k4 x4 k5 x5 k6 x6 : Nat) : value m [(k1, x1), (k2, x2), (k3, x3), (k4, x4), (k5, x5), (k6, x6)] = x1 * 2 ^ k1 + (x2 * 2 ^ k2 + (x3 * 2 ^ k3 + (x4 * 2 ^ k4 + (x5 * 2 ^ k5 + (x6 * 2 ^ k6 + m))))) := rfl

/-- An instruction of a 32-bit word. -/
theorem of_four {i : Instr} {m : Nat} {fs : List (Nat × Nat)} (h : encode i = word 4 m fs)
    (hv : value m fs < 4294967296 ∧ value m fs / 16384 % 4 = 3) : Statement i := by
  intro n w e
  rw [h, word_eq] at e
  cases e
  exact ⟨.inr rfl, hv.1, by simp [instrBytes, bits, hv.2]⟩

/-- An instruction of a 16-bit word. -/
theorem of_two {i : Instr} {m : Nat} {fs : List (Nat × Nat)} (h : encode i = word 2 m fs)
    (hv : value m fs < 65536 ∧ value m fs / 16384 % 4 ≠ 3) : Statement i := by
  intro n w e
  rw [h, word_eq] at e
  cases e
  exact ⟨.inl rfl, hv.1, by simp [instrBytes, bits, hv.2]⟩

/-- An event has no encoding. -/
theorem of_none {i : Instr} (h : encode i = none) : Statement i := fun _ _ e => by simp [h] at e

theorem add (b d a) : Statement (.add b d a) := of_four rfl (by rw [value_3]; omega)
theorem sub (b d a) : Statement (.sub b d a) := of_four rfl (by rw [value_3]; omega)
theorem and (b d a) : Statement (.and b d a) := of_four rfl (by rw [value_3]; omega)
theorem or (b d a) : Statement (.or b d a) := of_four rfl (by rw [value_3]; omega)
theorem xor (b d a) : Statement (.xor b d a) := of_four rfl (by rw [value_3]; omega)
theorem andn (b d a) : Statement (.andn b d a) := of_four rfl (by rw [value_3]; omega)
theorem sll (b d a) : Statement (.sll b d a) := of_four rfl (by rw [value_3]; omega)
theorem srl (b d a) : Statement (.srl b d a) := of_four rfl (by rw [value_3]; omega)
theorem sra (b d a) : Statement (.sra b d a) := of_four rfl (by rw [value_3]; omega)
theorem rol (b d a) : Statement (.rol b d a) := of_four rfl (by rw [value_3]; omega)
theorem slt (b d a) : Statement (.slt b d a) := of_four rfl (by rw [value_3]; omega)
theorem sltn (b d a) : Statement (.sltn b d a) := of_four rfl (by rw [value_3]; omega)
theorem min (b d a) : Statement (.min b d a) := of_four rfl (by rw [value_3]; omega)
theorem max (b d a) : Statement (.max b d a) := of_four rfl (by rw [value_3]; omega)
theorem minn (b d a) : Statement (.minn b d a) := of_four rfl (by rw [value_3]; omega)
theorem maxn (b d a) : Statement (.maxn b d a) := of_four rfl (by rw [value_3]; omega)
theorem mul (b d a) : Statement (.mul b d a) := of_four rfl (by rw [value_3]; omega)
theorem mulh (b d a) : Statement (.mulh b d a) := of_four rfl (by rw [value_3]; omega)
theorem mulhn (b d a) : Statement (.mulhn b d a) := of_four rfl (by rw [value_3]; omega)
theorem div (b d a) : Statement (.div b d a) := of_four rfl (by rw [value_3]; omega)
theorem divn (b d a) : Statement (.divn b d a) := of_four rfl (by rw [value_3]; omega)
theorem rem (b d a) : Statement (.rem b d a) := of_four rfl (by rw [value_3]; omega)
theorem remn (b d a) : Statement (.remn b d a) := of_four rfl (by rw [value_3]; omega)
theorem clz (d a) : Statement (.clz d a) := of_four rfl (by rw [value_2]; omega)
theorem ctz (d a) : Statement (.ctz d a) := of_four rfl (by rw [value_2]; omega)
theorem popc (d a) : Statement (.popc d a) := of_four rfl (by rw [value_2]; omega)
theorem brev (d a) : Statement (.brev d a) := of_four rfl (by rw [value_2]; omega)
theorem sextb (d a) : Statement (.sextb d a) := of_four rfl (by rw [value_2]; omega)
theorem sexth (d a) : Statement (.sexth d a) := of_four rfl (by rw [value_2]; omega)
theorem zexth (d a) : Statement (.zexth d a) := of_four rfl (by rw [value_2]; omega)
theorem bswap (d a) : Statement (.bswap d a) := of_four rfl (by rw [value_2]; omega)
theorem addi (i d a) : Statement (.addi i d a) := of_four rfl (by rw [value_3]; omega)
theorem andi (i d a) : Statement (.andi i d a) := of_four rfl (by rw [value_3]; omega)
theorem ori (i d a) : Statement (.ori i d a) := of_four rfl (by rw [value_3]; omega)
theorem xori (i d a) : Statement (.xori i d a) := of_four rfl (by rw [value_3]; omega)
theorem slti (i d a) : Statement (.slti i d a) := of_four rfl (by rw [value_3]; omega)
theorem sltni (i d a) : Statement (.sltni i d a) := of_four rfl (by rw [value_3]; omega)
theorem slli (n d a) : Statement (.slli n d a) := of_four rfl (by rw [value_3]; omega)
theorem srli (n d a) : Statement (.srli n d a) := of_four rfl (by rw [value_3]; omega)
theorem srai (n d a) : Statement (.srai n d a) := of_four rfl (by rw [value_3]; omega)
theorem rori (n d a) : Statement (.rori n d a) := of_four rfl (by rw [value_3]; omega)
theorem lui (i d) : Statement (.lui i d) := of_four rfl (by rw [value_2]; omega)
theorem beq (o a b) : Statement (.beq o a b) := of_four rfl (by rw [value_3]; omega)
theorem bne (o a b) : Statement (.bne o a b) := of_four rfl (by rw [value_3]; omega)
theorem blt (o a b) : Statement (.blt o a b) := of_four rfl (by rw [value_3]; omega)
theorem bge (o a b) : Statement (.bge o a b) := of_four rfl (by rw [value_3]; omega)
theorem bltn (o a b) : Statement (.bltn o a b) := of_four rfl (by rw [value_3]; omega)
theorem bgen (o a b) : Statement (.bgen o a b) := of_four rfl (by rw [value_3]; omega)
theorem jal (o d h) : Statement (.jal o d h) := of_four rfl (by rw [value_3]; omega)
theorem jalr (i d a) : Statement (.jalr i d a) := of_four rfl (by rw [value_3]; omega)
theorem lset (e s l c) : Statement (.lset e s l c) := of_four rfl (by rw [value_4]; omega)
theorem lsetReg (e s l r) : Statement (.lsetReg e s l r) := of_four rfl (by rw [value_4]; omega)
theorem lb (i d a) : Statement (.lb i d a) := of_four rfl (by rw [value_3]; omega)
theorem lbn (i d a) : Statement (.lbn i d a) := of_four rfl (by rw [value_3]; omega)
theorem lh (i d a) : Statement (.lh i d a) := of_four rfl (by rw [value_3]; omega)
theorem lhn (i d a) : Statement (.lhn i d a) := of_four rfl (by rw [value_3]; omega)
theorem lw (i d a) : Statement (.lw i d a) := of_four rfl (by rw [value_3]; omega)
theorem sb (i d b) : Statement (.sb i d b) := of_four rfl (by rw [value_3]; omega)
theorem sh (i d b) : Statement (.sh i d b) := of_four rfl (by rw [value_3]; omega)
theorem sw (i d b) : Statement (.sw i d b) := of_four rfl (by rw [value_3]; omega)
theorem lwf (o d a) : Statement (.lwf o d a) := of_four rfl (by rw [value_3]; omega)
theorem lwfe (o d a) : Statement (.lwfe o d a) := of_four rfl (by rw [value_3]; omega)
theorem fetest (o d a) : Statement (.fetest o d a) := of_four rfl (by rw [value_3]; omega)
theorem swe (o d b) : Statement (.swe o d b) := of_four rfl (by rw [value_3]; omega)
theorem swf (o d b) : Statement (.swf o d b) := of_four rfl (by rw [value_3]; omega)
theorem feset (o b) : Statement (.feset o b) := of_four rfl (by rw [value_2]; omega)
theorem feclr (o b) : Statement (.feclr o b) := of_four rfl (by rw [value_2]; omega)
theorem rlw (b d a) : Statement (.rlw b d a) := of_four rfl (by rw [value_3]; omega)
theorem rlwf (b d a) : Statement (.rlwf b d a) := of_four rfl (by rw [value_3]; omega)
theorem rlwfe (b d a) : Statement (.rlwfe b d a) := of_four rfl (by rw [value_3]; omega)
theorem rsw (b d a) : Statement (.rsw b d a) := of_four rfl (by rw [value_3]; omega)
theorem rswe (b d a) : Statement (.rswe b d a) := of_four rfl (by rw [value_3]; omega)
theorem rswf (b d a) : Statement (.rswf b d a) := of_four rfl (by rw [value_3]; omega)
theorem amoAdd (b o d a) : Statement (.amoAdd b o d a) := of_four rfl (by rw [value_4]; omega)
theorem amoAnd (b o d a) : Statement (.amoAnd b o d a) := of_four rfl (by rw [value_4]; omega)
theorem amoOr (b o d a) : Statement (.amoOr b o d a) := of_four rfl (by rw [value_4]; omega)
theorem amoXor (b o d a) : Statement (.amoXor b o d a) := of_four rfl (by rw [value_4]; omega)
theorem amoMin (b o d a) : Statement (.amoMin b o d a) := of_four rfl (by rw [value_4]; omega)
theorem amoMax (b o d a) : Statement (.amoMax b o d a) := of_four rfl (by rw [value_4]; omega)
theorem amoSwap (b o d a) : Statement (.amoSwap b o d a) := of_four rfl (by rw [value_4]; omega)
theorem amoCas (b o d a) : Statement (.amoCas b o d a) := of_four rfl (by rw [value_4]; omega)
theorem tmset (s) : Statement (.tmset s) := of_four rfl (by rw [value_1]; omega)
theorem tmoff (s) : Statement (.tmoff s) := of_four rfl (by rw [value_1]; omega)
theorem glw (t i d x) : Statement (.glw t i d x) := of_four rfl (by rw [value_4]; omega)
theorem gsw (t i d x) : Statement (.gsw t i d x) := of_four rfl (by rw [value_4]; omega)
theorem glwa (t i d x) : Statement (.glwa t i d x) := of_four rfl (by rw [value_4]; omega)
theorem gswl (t i d x) : Statement (.gswl t i d x) := of_four rfl (by rw [value_4]; omega)
theorem gaadd (t i d x) : Statement (.gaadd t i d x) := of_four rfl (by rw [value_4]; omega)
theorem gamin (t i d x) : Statement (.gamin t i d x) := of_four rfl (by rw [value_4]; omega)
theorem gamax (t i d x) : Statement (.gamax t i d x) := of_four rfl (by rw [value_4]; omega)
theorem gaswap (t i d x) : Statement (.gaswap t i d x) := of_four rfl (by rw [value_4]; omega)
theorem gacas (t i d x) : Statement (.gacas t i d x) := of_four rfl (by rw [value_4]; omega)
theorem gafadd (t i d x) : Statement (.gafadd t i d x) := of_four rfl (by rw [value_4]; omega)
theorem fence (y l s) : Statement (.fence y l s) := of_four rfl (by rw [value_3]; omega)
theorem mfs (n d) : Statement (.mfs n d) := of_four rfl (by rw [value_2]; omega)
theorem mfsCycle (d) : Statement (.mfsCycle d) := of_four rfl (by rw [value_1]; omega)
theorem mfsPq (d) : Statement (.mfsPq d) := of_four rfl (by rw [value_1]; omega)
theorem mfsCpGo (d) : Statement (.mfsCpGo d) := of_four rfl (by rw [value_1]; omega)
theorem mfsCq (d) : Statement (.mfsCq d) := of_four rfl (by rw [value_1]; omega)
theorem mfsGpGo (d) : Statement (.mfsGpGo d) := of_four rfl (by rw [value_1]; omega)
theorem mfsRq (d) : Statement (.mfsRq d) := of_four rfl (by rw [value_1]; omega)
theorem mfsBq (d) : Statement (.mfsBq d) := of_four rfl (by rw [value_1]; omega)
theorem mts (n x) : Statement (.mts n x) := of_four rfl (by rw [value_2]; omega)
theorem mtsi (n i) : Statement (.mtsi n i) := of_four rfl (by rw [value_2]; omega)
theorem mss (n x) : Statement (.mss n x) := of_four rfl (by rw [value_2]; omega)
theorem mcs (n x) : Statement (.mcs n x) := of_four rfl (by rw [value_2]; omega)
theorem waito (l s c t m) : Statement (.waito l s c t m) := of_four rfl (by rw [value_5]; omega)
theorem trap (c) : Statement (.trap c) := of_four rfl (by rw [value_1]; omega)
theorem sync (f) : Statement (.sync f) := of_four rfl (by rw [value_1]; omega)
theorem haltr (k) : Statement (.haltr k) := of_four rfl (by rw [value_1]; omega)
theorem sendam (c d) : Statement (.sendam c d) := of_four rfl (by rw [value_2]; omega)
theorem frinit (d a) : Statement (.frinit d a) := of_four rfl (by rw [value_2]; omega)
theorem spawn (o f) : Statement (.spawn o f) := of_four rfl (by rw [value_2]; omega)
theorem pgpre (t n i) : Statement (.pgpre t n i) := of_four rfl (by rw [value_3]; omega)
theorem pgdisc (t n i) : Statement (.pgdisc t n i) := of_four rfl (by rw [value_3]; omega)
theorem binit (b d a) : Statement (.binit b d a) := of_four rfl (by rw [value_3]; omega)
theorem bexp (b d a) : Statement (.bexp b d a) := of_four rfl (by rw [value_3]; omega)
theorem barr (b d a) : Statement (.barr b d a) := of_four rfl (by rw [value_3]; omega)
theorem bwait (b d a) : Statement (.bwait b d a) := of_four rfl (by rw [value_3]; omega)
theorem bwaitm (b d a) : Statement (.bwaitm b d a) := of_four rfl (by rw [value_3]; omega)
theorem btest (b d a) : Statement (.btest b d a) := of_four rfl (by rw [value_3]; omega)
theorem dbar (s c d) : Statement (.dbar s c d) := of_four rfl (by rw [value_3]; omega)
theorem send (b d a) : Statement (.send b d a) := of_four rfl (by rw [value_3]; omega)
theorem rpost (d a) : Statement (.rpost d a) := of_four rfl (by rw [value_2]; omega)
theorem rcancel (d a) : Statement (.rcancel d a) := of_four rfl (by rw [value_2]; omega)
theorem rprobe (d a) : Statement (.rprobe d a) := of_four rfl (by rw [value_2]; omega)
theorem enq (b d a) : Statement (.enq b d a) := of_four rfl (by rw [value_3]; omega)
theorem cptest (d a) : Statement (.cptest d a) := of_four rfl (by rw [value_2]; omega)
theorem cpcancel (d a) : Statement (.cpcancel d a) := of_four rfl (by rw [value_2]; omega)
theorem cpwait (d a) : Statement (.cpwait d a) := of_four rfl (by rw [value_2]; omega)
theorem mcfg (m x) : Statement (.mcfg m x) := of_four rfl (by rw [value_2]; omega)
theorem mzero (m) : Statement (.mzero m) := of_four rfl (by rw [value_1]; omega)
theorem lease (n) : Statement (.lease n) := of_four rfl (by rw [value_1]; omega)
theorem mld (t x d) : Statement (.mld t x d) := of_four rfl (by rw [value_3]; omega)
theorem mst (t x d) : Statement (.mst t x d) := of_four rfl (by rw [value_3]; omega)
theorem pmv (t x d a) : Statement (.pmv t x d a) := of_four rfl (by rw [value_4]; omega)
theorem pmvx (t x d a) : Statement (.pmvx t x d a) := of_four rfl (by rw [value_4]; omega)
theorem pmt (w d a) : Statement (.pmt w d a) := of_four rfl (by rw [value_3]; omega)
theorem pbp (b d a) : Statement (.pbp b d a) := of_four rfl (by rw [value_3]; omega)
theorem prt (w d a) : Statement (.prt w d a) := of_four rfl (by rw [value_3]; omega)
theorem vadd (b e d a p) : Statement (.vadd b e d a p) := of_four rfl (by rw [value_5]; omega)
theorem vsub (b e d a p) : Statement (.vsub b e d a p) := of_four rfl (by rw [value_5]; omega)
theorem vadds (b e d a p) : Statement (.vadds b e d a p) := of_four rfl (by rw [value_5]; omega)
theorem vsubs (b e d a p) : Statement (.vsubs b e d a p) := of_four rfl (by rw [value_5]; omega)
theorem vmul (b e d a p) : Statement (.vmul b e d a p) := of_four rfl (by rw [value_5]; omega)
theorem vmulh (b e d a p) : Statement (.vmulh b e d a p) := of_four rfl (by rw [value_5]; omega)
theorem vmac (b e d a p) : Statement (.vmac b e d a p) := of_four rfl (by rw [value_5]; omega)
theorem vmin (b e d a p) : Statement (.vmin b e d a p) := of_four rfl (by rw [value_5]; omega)
theorem vmax (b e d a p) : Statement (.vmax b e d a p) := of_four rfl (by rw [value_5]; omega)
theorem vand (b e d a p) : Statement (.vand b e d a p) := of_four rfl (by rw [value_5]; omega)
theorem vor (b e d a p) : Statement (.vor b e d a p) := of_four rfl (by rw [value_5]; omega)
theorem vxor (b e d a p) : Statement (.vxor b e d a p) := of_four rfl (by rw [value_5]; omega)
theorem vandn (b e d a p) : Statement (.vandn b e d a p) := of_four rfl (by rw [value_5]; omega)
theorem vshl (b e d a p) : Statement (.vshl b e d a p) := of_four rfl (by rw [value_5]; omega)
theorem vshr (b e d a p) : Statement (.vshr b e d a p) := of_four rfl (by rw [value_5]; omega)
theorem vsra (b e d a p) : Statement (.vsra b e d a p) := of_four rfl (by rw [value_5]; omega)
theorem vabs (e d a p) : Statement (.vabs e d a p) := of_four rfl (by rw [value_4]; omega)
theorem vneg (e d a p) : Statement (.vneg e d a p) := of_four rfl (by rw [value_4]; omega)
theorem vcmpeq (b e d a p) : Statement (.vcmpeq b e d a p) := of_four rfl (by rw [value_5]; omega)
theorem vcmplt (b e d a p) : Statement (.vcmplt b e d a p) := of_four rfl (by rw [value_5]; omega)
theorem vcmple (b e d a p) : Statement (.vcmple b e d a p) := of_four rfl (by rw [value_5]; omega)
theorem vsel (b e d a p) : Statement (.vsel b e d a p) := of_four rfl (by rw [value_5]; omega)
theorem vfadd (b e d a p) : Statement (.vfadd b e d a p) := of_four rfl (by rw [value_5]; omega)
theorem vfsub (b e d a p) : Statement (.vfsub b e d a p) := of_four rfl (by rw [value_5]; omega)
theorem vfmul (b e d a p) : Statement (.vfmul b e d a p) := of_four rfl (by rw [value_5]; omega)
theorem vfma (b e d a p) : Statement (.vfma b e d a p) := of_four rfl (by rw [value_5]; omega)
theorem vfmin (b e d a p) : Statement (.vfmin b e d a p) := of_four rfl (by rw [value_5]; omega)
theorem vfmax (b e d a p) : Statement (.vfmax b e d a p) := of_four rfl (by rw [value_5]; omega)
theorem vfabs (e d a p) : Statement (.vfabs e d a p) := of_four rfl (by rw [value_4]; omega)
theorem vfneg (e d a p) : Statement (.vfneg e d a p) := of_four rfl (by rw [value_4]; omega)
theorem vrcp (e d a p) : Statement (.vrcp e d a p) := of_four rfl (by rw [value_4]; omega)
theorem vrsq (e d a p) : Statement (.vrsq e d a p) := of_four rfl (by rw [value_4]; omega)
theorem vexp2 (e d a p) : Statement (.vexp2 e d a p) := of_four rfl (by rw [value_4]; omega)
theorem vfcmpeq (b e d a p) : Statement (.vfcmpeq b e d a p) := of_four rfl (by rw [value_5]; omega)
theorem vfcmplt (b e d a p) : Statement (.vfcmplt b e d a p) := of_four rfl (by rw [value_5]; omega)
theorem vfcmple (b e d a p) : Statement (.vfcmple b e d a p) := of_four rfl (by rw [value_5]; omega)
theorem vcvt (s e r d a p) : Statement (.vcvt s e r d a p) := of_four rfl (by rw [value_6]; omega)
theorem vscl (b d a p) : Statement (.vscl b d a p) := of_four rfl (by rw [value_4]; omega)
theorem vtrit (d a p) : Statement (.vtrit d a p) := of_four rfl (by rw [value_3]; omega)
theorem vpackt (d a p) : Statement (.vpackt d a p) := of_four rfl (by rw [value_3]; omega)
theorem vmov (e d a p) : Statement (.vmov e d a p) := of_four rfl (by rw [value_4]; omega)
theorem vperm (b e d a p) : Statement (.vperm b e d a p) := of_four rfl (by rw [value_5]; omega)
theorem vcompr (e d a p) : Statement (.vcompr e d a p) := of_four rfl (by rw [value_4]; omega)
theorem vexpnd (e d a p) : Statement (.vexpnd e d a p) := of_four rfl (by rw [value_4]; omega)
theorem vzipl (b e d a p) : Statement (.vzipl b e d a p) := of_four rfl (by rw [value_5]; omega)
theorem vziph (b e d a p) : Statement (.vziph b e d a p) := of_four rfl (by rw [value_5]; omega)
theorem vrev (e d a p) : Statement (.vrev e d a p) := of_four rfl (by rw [value_4]; omega)
theorem vband (b d a p) : Statement (.vband b d a p) := of_four rfl (by rw [value_4]; omega)
theorem vbor (b d a p) : Statement (.vbor b d a p) := of_four rfl (by rw [value_4]; omega)
theorem vpopp (d a p) : Statement (.vpopp d a p) := of_four rfl (by rw [value_3]; omega)
theorem vxsect (b d a p) : Statement (.vxsect b d a p) := of_four rfl (by rw [value_4]; omega)
theorem vnzm (e d a p) : Statement (.vnzm e d a p) := of_four rfl (by rw [value_4]; omega)
theorem vld (i v x) : Statement (.vld i v x) := of_four rfl (by rw [value_3]; omega)
theorem vst (i v x) : Statement (.vst i v x) := of_four rfl (by rw [value_3]; omega)
theorem vldx (i z v x) : Statement (.vldx i z v x) := of_four rfl (by rw [value_4]; omega)
theorem vstx (i z v x) : Statement (.vstx i z v x) := of_four rfl (by rw [value_4]; omega)
theorem vldg (t i v o x) : Statement (.vldg t i v o x) := of_four rfl (by rw [value_5]; omega)
theorem vstg (t i v o x) : Statement (.vstg t i v o x) := of_four rfl (by rw [value_5]; omega)
theorem vldgs (t i v o x) : Statement (.vldgs t i v o x) := of_four rfl (by rw [value_5]; omega)
theorem vbcast (x e d p) : Statement (.vbcast x e d p) := of_four rfl (by rw [value_4]; omega)
theorem vext (x e l a p) : Statement (.vext x e l a p) := of_four rfl (by rw [value_5]; omega)
theorem vins (x e l d p) : Statement (.vins x e l d p) := of_four rfl (by rw [value_5]; omega)
theorem vnarrow (e s d a p) : Statement (.vnarrow e s d a p) := of_four rfl (by rw [value_5]; omega)
theorem vwiden (e h d a p) : Statement (.vwiden e h d a p) := of_four rfl (by rw [value_5]; omega)
theorem vmxq (x d q p) : Statement (.vmxq x d q p) := of_four rfl (by rw [value_4]; omega)
theorem vmxd (x q a p) : Statement (.vmxd x q a p) := of_four rfl (by rw [value_4]; omega)
theorem badq (x d a p) : Statement (.badq x d a p) := of_four rfl (by rw [value_4]; omega)
theorem vnzc (x e a p) : Statement (.vnzc x e a p) := of_four rfl (by rw [value_4]; omega)
theorem vsumr (x e a p) : Statement (.vsumr x e a p) := of_four rfl (by rw [value_4]; omega)
theorem vmaxr (x e a p) : Statement (.vmaxr x e a p) := of_four rfl (by rw [value_4]; omega)
theorem vslide (x e n d a p) : Statement (.vslide x e n d a p) := of_four rfl (by rw [value_6]; omega)
theorem cMov (d s) : Statement (.cMov d s) := of_two rfl (by rw [value_2]; omega)
theorem cAdd (d s) : Statement (.cAdd d s) := of_two rfl (by rw [value_2]; omega)
theorem cSub (d s) : Statement (.cSub d s) := of_two rfl (by rw [value_2]; omega)
theorem cAnd (d s) : Statement (.cAnd d s) := of_two rfl (by rw [value_2]; omega)
theorem cOr (d s) : Statement (.cOr d s) := of_two rfl (by rw [value_2]; omega)
theorem cXor (d s) : Statement (.cXor d s) := of_two rfl (by rw [value_2]; omega)
theorem cSll (d s) : Statement (.cSll d s) := of_two rfl (by rw [value_2]; omega)
theorem cSrl (d s) : Statement (.cSrl d s) := of_two rfl (by rw [value_2]; omega)
theorem cSra (d s) : Statement (.cSra d s) := of_two rfl (by rw [value_2]; omega)
theorem cSlt (d s) : Statement (.cSlt d s) := of_two rfl (by rw [value_2]; omega)
theorem cJr (s) : Statement (.cJr s) := of_two rfl (by rw [value_1]; omega)
theorem cJalr (s) : Statement (.cJalr s) := of_two rfl (by rw [value_1]; omega)
theorem cAddi (d i) : Statement (.cAddi d i) := of_two rfl (by rw [value_2]; omega)
theorem cLi (d i) : Statement (.cLi d i) := of_two rfl (by rw [value_2]; omega)
theorem cSlli (d n) : Statement (.cSlli d n) := of_two rfl (by rw [value_2]; omega)
theorem cSrli (d n) : Statement (.cSrli d n) := of_two rfl (by rw [value_2]; omega)
theorem cSrai (d n) : Statement (.cSrai d n) := of_two rfl (by rw [value_2]; omega)
theorem cAndi (d i) : Statement (.cAndi d i) := of_two rfl (by rw [value_2]; omega)
theorem cLwsp (d i) : Statement (.cLwsp d i) := of_two rfl (by rw [value_2]; omega)
theorem cSwsp (d i) : Statement (.cSwsp d i) := of_two rfl (by rw [value_2]; omega)
theorem cLui (d i) : Statement (.cLui d i) := of_two rfl (by rw [value_2]; omega)
theorem cBeqz (s o) : Statement (.cBeqz s o) := of_two rfl (by rw [value_2]; omega)
theorem cBnez (s o) : Statement (.cBnez s o) := of_two rfl (by rw [value_2]; omega)
theorem cLw (d b o) : Statement (.cLw d b o) := of_two rfl (by rw [value_3]; omega)
theorem cSw (d b o) : Statement (.cSw d b o) := of_two rfl (by rw [value_3]; omega)
theorem cJ (o) : Statement (.cJ o) := of_two rfl (by rw [value_1]; omega)
theorem nop : Statement (.nop) := of_four rfl (by rw [value_0]; omega)
theorem ecall : Statement (.ecall) := of_four rfl (by rw [value_0]; omega)
theorem tret : Statement (.tret) := of_four rfl (by rw [value_0]; omega)
theorem brk : Statement (.brk) := of_four rfl (by rw [value_0]; omega)
theorem yield : Statement (.yield) := of_four rfl (by rw [value_0]; omega)
theorem idle : Statement (.idle) := of_four rfl (by rw [value_0]; omega)
theorem done : Statement (.done) := of_four rfl (by rw [value_0]; omega)
theorem halt : Statement (.halt) := of_four rfl (by rw [value_0]; omega)
theorem hret : Statement (.hret) := of_four rfl (by rw [value_0]; omega)
theorem unlease : Statement (.unlease) := of_four rfl (by rw [value_0]; omega)
theorem vclear : Statement (.vclear) := of_four rfl (by rw [value_0]; omega)
theorem cVclear : Statement (.cVclear) := of_two rfl (by rw [value_0]; omega)
theorem cNop : Statement (.cNop) := of_two rfl (by rw [value_0]; omega)
theorem cDone : Statement (.cDone) := of_two rfl (by rw [value_0]; omega)
theorem cHret : Statement (.cHret) := of_two rfl (by rw [value_0]; omega)
theorem cRet : Statement (.cRet) := of_two rfl (by rw [value_0]; omega)
theorem feTimeout : Statement .feTimeout := of_none (by decide +kernel)
theorem remoteBusyResend : Statement .remoteBusyResend := of_none (by decide +kernel)
theorem idleTimeout : Statement .idleTimeout := of_none (by decide +kernel)
theorem asynchronousTrap : Statement .asynchronousTrap := of_none (by decide +kernel)
theorem coreHang : Statement .coreHang := of_none (by decide +kernel)
theorem coreLeaveGroup : Statement .coreLeaveGroup := of_none (by decide +kernel)
theorem barrierOperation : Statement .barrierOperation := of_none (by decide +kernel)
theorem barrierWaitResend : Statement .barrierWaitResend := of_none (by decide +kernel)
theorem engineArrival : Statement .engineArrival := of_none (by decide +kernel)
theorem dbarNotification : Statement .dbarNotification := of_none (by decide +kernel)
theorem enqRequest : Statement .enqRequest := of_none (by decide +kernel)
theorem arrayCommandTurn : Statement .arrayCommandTurn := of_none (by decide +kernel)
theorem tokenPush : Statement .tokenPush := of_none (by decide +kernel)
theorem prtLanding : Statement .prtLanding := of_none (by decide +kernel)
theorem leaseGrant : Statement .leaseGrant := of_none (by decide +kernel)
theorem slotEnd : Statement .slotEnd := of_none (by decide +kernel)
theorem slotTableWrite : Statement .slotTableWrite := of_none (by decide +kernel)
theorem loadReply : Statement .loadReply := of_none (by decide +kernel)
theorem storeAck : Statement .storeAck := of_none (by decide +kernel)
theorem remoteNack : Statement .remoteNack := of_none (by decide +kernel)
theorem messageAccept : Statement .messageAccept := of_none (by decide +kernel)
theorem remoteLoad : Statement .remoteLoad := of_none (by decide +kernel)
theorem remoteStore : Statement .remoteStore := of_none (by decide +kernel)
theorem feLoad : Statement .feLoad := of_none (by decide +kernel)
theorem feStore : Statement .feStore := of_none (by decide +kernel)
theorem localAtomic : Statement .localAtomic := of_none (by decide +kernel)
theorem feWake : Statement .feWake := of_none (by decide +kernel)
theorem steal : Statement .steal := of_none (by decide +kernel)
theorem stealReply : Statement .stealReply := of_none (by decide +kernel)
theorem joinDecrement : Statement .joinDecrement := of_none (by decide +kernel)
theorem continuationDelivery : Statement .continuationDelivery := of_none (by decide +kernel)
theorem deliveryResend : Statement .deliveryResend := of_none (by decide +kernel)
theorem deliveryBusy : Statement .deliveryBusy := of_none (by decide +kernel)
theorem ownerPop : Statement .ownerPop := of_none (by decide +kernel)
theorem stealIssue : Statement .stealIssue := of_none (by decide +kernel)
theorem stealBackoffEnd : Statement .stealBackoffEnd := of_none (by decide +kernel)
theorem activeMessage : Statement .activeMessage := of_none (by decide +kernel)
theorem handlerBudget : Statement .handlerBudget := of_none (by decide +kernel)
theorem localGather : Statement .localGather := of_none (by decide +kernel)
theorem localScatterAdd : Statement .localScatterAdd := of_none (by decide +kernel)
theorem victimPieceStore : Statement .victimPieceStore := of_none (by decide +kernel)
theorem victimPieceRecall : Statement .victimPieceRecall := of_none (by decide +kernel)
theorem terminationProbe : Statement .terminationProbe := of_none (by decide +kernel)
theorem terminationWave : Statement .terminationWave := of_none (by decide +kernel)
theorem terminationWaveEnd : Statement .terminationWaveEnd := of_none (by decide +kernel)
theorem chunkDelivered : Statement .chunkDelivered := of_none (by decide +kernel)
theorem chunkFault : Statement .chunkFault := of_none (by decide +kernel)
theorem transferStop : Statement .transferStop := of_none (by decide +kernel)
theorem transferStall : Statement .transferStall := of_none (by decide +kernel)
theorem rowRequest : Statement .rowRequest := of_none (by decide +kernel)
theorem gatherRow : Statement .gatherRow := of_none (by decide +kernel)
theorem scatterAddRow : Statement .scatterAddRow := of_none (by decide +kernel)
theorem sketchHalve : Statement .sketchHalve := of_none (by decide +kernel)
theorem sliceRequest : Statement .sliceRequest := of_none (by decide +kernel)
theorem pagerMap : Statement .pagerMap := of_none (by decide +kernel)
theorem pagerFail : Statement .pagerFail := of_none (by decide +kernel)
theorem pagerRevive : Statement .pagerRevive := of_none (by decide +kernel)
theorem pagerReclaim : Statement .pagerReclaim := of_none (by decide +kernel)
theorem pagerDiscard : Statement .pagerDiscard := of_none (by decide +kernel)
theorem pagerTimeout : Statement .pagerTimeout := of_none (by decide +kernel)
theorem parkedDelivery : Statement .parkedDelivery := of_none (by decide +kernel)
theorem migrationBegin : Statement .migrationBegin := of_none (by decide +kernel)
theorem migrationEnd : Statement .migrationEnd := of_none (by decide +kernel)
theorem shootdown : Statement .shootdown := of_none (by decide +kernel)
theorem shootdownTimeout : Statement .shootdownTimeout := of_none (by decide +kernel)
theorem taskMigrate : Statement .taskMigrate := of_none (by decide +kernel)
theorem hostCompletionTimeout : Statement .hostCompletionTimeout := of_none (by decide +kernel)
theorem fabricRequest : Statement .fabricRequest := of_none (by decide +kernel)
theorem retryResend : Statement .retryResend := of_none (by decide +kernel)
theorem linkRetrain : Statement .linkRetrain := of_none (by decide +kernel)
theorem flitUncorrectable : Statement .flitUncorrectable := of_none (by decide +kernel)
theorem linkDown : Statement .linkDown := of_none (by decide +kernel)
theorem detourSet : Statement .detourSet := of_none (by decide +kernel)
theorem sendHeader : Statement .sendHeader := of_none (by decide +kernel)
theorem sendAnswer : Statement .sendAnswer := of_none (by decide +kernel)
theorem sendResend : Statement .sendResend := of_none (by decide +kernel)
theorem rnrTimeout : Statement .rnrTimeout := of_none (by decide +kernel)
theorem pullRead : Statement .pullRead := of_none (by decide +kernel)
theorem payloadArrival : Statement .payloadArrival := of_none (by decide +kernel)
theorem landingComplete : Statement .landingComplete := of_none (by decide +kernel)
theorem triggerArrival : Statement .triggerArrival := of_none (by decide +kernel)
theorem kick : Statement .kick := of_none (by decide +kernel)
theorem suspend : Statement .suspend := of_none (by decide +kernel)
theorem resume : Statement .resume := of_none (by decide +kernel)
theorem skip : Statement .skip := of_none (by decide +kernel)
theorem enable : Statement .enable := of_none (by decide +kernel)
theorem disable : Statement .disable := of_none (by decide +kernel)
theorem disableDrained : Statement .disableDrained := of_none (by decide +kernel)
theorem prioChange : Statement .prioChange := of_none (by decide +kernel)
theorem launch : Statement .launch := of_none (by decide +kernel)
theorem waitdep : Statement .waitdep := of_none (by decide +kernel)
theorem waitdepPoll : Statement .waitdepPoll := of_none (by decide +kernel)
theorem signal : Statement .signal := of_none (by decide +kernel)
theorem arm : Statement .arm := of_none (by decide +kernel)
theorem copy : Statement .copy := of_none (by decide +kernel)
theorem hubCopyEnd : Statement .hubCopyEnd := of_none (by decide +kernel)
theorem nopPacket : Statement .nopPacket := of_none (by decide +kernel)
theorem stampReread : Statement .stampReread := of_none (by decide +kernel)
theorem schedulingPass : Statement .schedulingPass := of_none (by decide +kernel)
theorem ageingStep : Statement .ageingStep := of_none (by decide +kernel)
theorem slotQuiescent : Statement .slotQuiescent := of_none (by decide +kernel)
theorem bindRecord : Statement .bindRecord := of_none (by decide +kernel)
theorem bindComplete : Statement .bindComplete := of_none (by decide +kernel)
theorem drainEnd : Statement .drainEnd := of_none (by decide +kernel)
theorem groupRelease : Statement .groupRelease := of_none (by decide +kernel)
theorem preempt : Statement .preempt := of_none (by decide +kernel)
theorem preemptSave : Statement .preemptSave := of_none (by decide +kernel)
theorem preemptTimeout : Statement .preemptTimeout := of_none (by decide +kernel)
theorem resumeGroup : Statement .resumeGroup := of_none (by decide +kernel)
theorem spill : Statement .spill := of_none (by decide +kernel)
theorem reload : Statement .reload := of_none (by decide +kernel)
theorem watchdog : Statement .watchdog := of_none (by decide +kernel)
theorem contextFree : Statement .contextFree := of_none (by decide +kernel)
theorem ctxCreate : Statement .ctxCreate := of_none (by decide +kernel)
theorem ctxReady : Statement .ctxReady := of_none (by decide +kernel)
theorem ctxReset : Statement .ctxReset := of_none (by decide +kernel)
theorem ctxDestroy : Statement .ctxDestroy := of_none (by decide +kernel)
theorem ctxSet : Statement .ctxSet := of_none (by decide +kernel)
theorem aclSet : Statement .aclSet := of_none (by decide +kernel)
theorem ctxQuery : Statement .ctxQuery := of_none (by decide +kernel)
theorem binLoad : Statement .binLoad := of_none (by decide +kernel)
theorem binUnload : Statement .binUnload := of_none (by decide +kernel)
theorem followSet : Statement .followSet := of_none (by decide +kernel)
theorem dsetSet : Statement .dsetSet := of_none (by decide +kernel)
theorem map : Statement .map := of_none (by decide +kernel)
theorem unmap : Statement .unmap := of_none (by decide +kernel)
theorem unknownCommand : Statement .unknownCommand := of_none (by decide +kernel)
theorem fcommit : Statement .fcommit := of_none (by decide +kernel)
theorem ckpt : Statement .ckpt := of_none (by decide +kernel)
theorem checkpointComplete : Statement .checkpointComplete := of_none (by decide +kernel)
theorem registerWrite : Statement .registerWrite := of_none (by decide +kernel)
theorem bar2Access : Statement .bar2Access := of_none (by decide +kernel)
theorem powerOn : Statement .powerOn := of_none (by decide +kernel)
theorem bringupEnd : Statement .bringupEnd := of_none (by decide +kernel)
theorem imageReceived : Statement .imageReceived := of_none (by decide +kernel)
theorem imageBooted : Statement .imageBooted := of_none (by decide +kernel)
theorem importTimeout : Statement .importTimeout := of_none (by decide +kernel)
theorem importComplete : Statement .importComplete := of_none (by decide +kernel)
theorem spdmRequest : Statement .spdmRequest := of_none (by decide +kernel)
theorem pldmRequest : Statement .pldmRequest := of_none (by decide +kernel)
theorem recordWrite : Statement .recordWrite := of_none (by decide +kernel)
theorem powerOff : Statement .powerOff := of_none (by decide +kernel)
theorem powerLimit : Statement .powerLimit := of_none (by decide +kernel)
theorem thermalLimit : Statement .thermalLimit := of_none (by decide +kernel)
theorem droopStop : Statement .droopStop := of_none (by decide +kernel)
theorem illegalOp : Statement .illegalOp := of_none (by decide +kernel)
theorem codeRange : Statement .codeRange := of_none (by decide +kernel)
theorem mailboxArrival : Statement .mailboxArrival := of_none (by decide +kernel)
theorem malformedPacket : Statement .malformedPacket := of_none (by decide +kernel)
theorem enqAnswer : Statement .enqAnswer := of_none (by decide +kernel)
theorem barrierReply : Statement .barrierReply := of_none (by decide +kernel)
theorem hostCompletion : Statement .hostCompletion := of_none (by decide +kernel)
theorem hostLinkDown : Statement .hostLinkDown := of_none (by decide +kernel)
theorem abruptLossOfPower : Statement .abruptLossOfPower := of_none (by decide +kernel)
theorem activeComplexStopsAnswering : Statement .activeComplexStopsAnswering := of_none (by decide +kernel)
theorem retentionLoss : Statement .retentionLoss := of_none (by decide +kernel)
theorem scrubber : Statement .scrubber := of_none (by decide +kernel)
theorem keyRevocation : Statement .keyRevocation := of_none (by decide +kernel)
theorem debugHaltRequest : Statement .debugHaltRequest := of_none (by decide +kernel)
theorem coreClockCycle : Statement .coreClockCycle := of_none (by decide +kernel)

end Sys2Proof.Laws.Encoding
end

