-- ==== Sys2Proof/Tests/Slice0.lean ====
section
/-! SUPPORT. Tests: ill-formed terms that the checks refuse, words written out from the encodings of R55 to R62, instructions whose
results stand in the spec, and for every statement with hypotheses a state and operands that meet them. -/

namespace Sys2Proof.Tests

set_option Elab.async false

open Sys2Proof.Machine Sys2Proof.Claims

/-! ## Small states -/

/-- A binary of one node whose code is a few instructions. -/
def code : List Byte := leBytes 4 0x3000C054 ++ leBytes 4 0x0000E500 ++ List.replicate 56 0#8

/-- A core bound to group 1 of context 1, with one running task context. -/
def core : Core := { power := .bound, group := 1, ctxid := 1, gsize := 1, tc0 := { run := .running } }

/-- A part with one core bound to one running group, its context running. -/
def part : State :=
  { turn := .context, cores := [(0, core)],
    groups := [(1, { state := .running, kernel := .running, ctx := 1, cores := [0], handle := 1, nodes := 0xFFFFFF00#32 })],
    contexts := [(1, { state := .running, root := 0x1000, save := 0x100000, ssize := 1 })],
    binaries := [(1, { loaded := true, ctx := 1, nodes := [{ code := code }] })] }

/-- The part with its task context changed. -/
def partT (f : TaskCtx → TaskCtx) : State := part.modT f

/-- The part with its core changed. -/
def partC (f : Core → Core) : State := part.modCore 0 f

/-- The part while an event is performed. -/
def partE (e : Event) (s : State := part) : State := { s with now := some e }

/-- A task context with registers given from x1 on. -/
def regs (l : List Word) (t : TaskCtx) : TaskCtx :=
  { t with x := (l.zipIdx 1).foldl (fun v e => v.set! e.2 e.1) t.x }

/-- The part in its handler context. -/
def partH : State := { part with who := ⟨0, .handler⟩, cores := [(0, { core with hd := { running := true, budget := 8 } })] }

/-- The part with one page of virtual memory, at address 0 of context 1: its state, kind and R, W, X, F bits, its frame at 0x10000, or where its kind's range begins. -/
def paged (st kind perms : Nat) : State :=
  let to_ (t : Nat) : Nat := 1 + t / 4096 * 2 ^ 21
  let leaf := 1 + st * 2 + kind * 2 ^ 8 + perms * 2 ^ 11 +
    (if kind = 1 then 0x20000000000 else if kind = 2 then 0x30000000000 else if kind = 3 then 0x40000000000 else 0x10000) / 4096 * 2 ^ 21
  { part with phys := (((((Mem.setLe 0x1000 8 (to_ 0x2000) []).setLe 0x2000 8 (to_ 0x3000)).setLe 0x3000 8 (to_ 0x4000)).setLe
      0x4000 8 (to_ 0x5000)).setLe 0x5000 8 leaf) }

/-! ## Ill-formed terms (R57, R59, R61) -/

theorem test_wf_halfword : (Instr.cMov 0#4 0#4).illFormed = some .zeroHalfword ∧ (Instr.cMov 1#4 0#4).illFormed = none := by decide
theorem test_wf_elementType : (Instr.vadd 1#3 6#3 2#3 3#3 0#2).illFormed = some .elementType ∧
    (Instr.vadd 1#3 5#3 2#3 3#3 0#2).illFormed = none := by decide
theorem test_wf_sameType : (Instr.vcvt 4#3 4#3 0#2 1#3 2#3 0#2).illFormed = some .sameType := by decide
theorem test_wf_lane : (Instr.vext 1#4 4#3 8#5 1#3 0#2).illFormed = some .lane ∧
    (Instr.vext 1#4 4#3 7#5 1#3 0#2).illFormed = none := by decide
theorem test_wf_loopBounds : (Instr.lset 1#10 2#6 0#1 3#6).illFormed = some .loopBounds ∧
    (Instr.lset 2#10 2#6 0#1 3#6).illFormed = none ∧ (Instr.lsetReg 4#10 1#6 0#1 3#4).illFormed = some .loopBounds := by decide
theorem test_wf_fence : (Instr.fence 3#2 0#1 0#3).illFormed = some .fenceType ∧ (Instr.fence 0#2 0#1 6#3).illFormed = some .scope ∧
    (Instr.fence 0#2 0#1 5#3).illFormed = none := by decide
theorem test_wf_span : (Instr.dbar 5#3 1#2 1#4).illFormed = some .span := by decide
theorem test_wf_size : (Instr.vldx 1#3 3#2 1#3 1#4).illFormed = some .size := by decide
theorem test_wf_readWithEffect : (Instr.mfs 0x010#12 1#4).illFormed = some .readWithEffect := by decide

/-- R61: words that no instruction has are refused. -/
theorem test_decode_refuses : (decode 0x0000).toOption = none ∧ (decode 0x0003C154).toOption = none ∧
    (decode 0x0100C054).toOption = none ∧ (decode 0xFFFFFFFF).toOption = none := by decide +kernel

/-- Bits beyond the words of the table are zero, and a word too short is refused. -/
theorem test_decodeTableWord : decodeTableWord 32 0x3000C054 = some (.add 3#4 5#4 4#4) ∧ decodeTableWord 16 0x0054 = some (.cMov 5#4 4#4) :=
  by decide +kernel

/-! ## Decoding (R55 to R62): a word of every encoded instruction, written out from the table's fixed bits and fields -/

theorem test_decode_arithmetic_1 :
    decode 0x4000C05C = .ok (.add 4#4 5#4 12#4) ∧
    decode 0x4001C05C = .ok (.sub 4#4 5#4 12#4) ∧
    decode 0x4002C05C = .ok (.and 4#4 5#4 12#4) ∧
    decode 0x4003C05C = .ok (.or 4#4 5#4 12#4) ∧
    decode 0x4004C05C = .ok (.xor 4#4 5#4 12#4) ∧
    decode 0x4005C05C = .ok (.andn 4#4 5#4 12#4) ∧
    decode 0x4006C05C = .ok (.sll 4#4 5#4 12#4) ∧
    decode 0x4007C05C = .ok (.srl 4#4 5#4 12#4) ∧
    decode 0x4008C05C = .ok (.sra 4#4 5#4 12#4) ∧
    decode 0x4009C05C = .ok (.rol 4#4 5#4 12#4) ∧
    decode 0x400AC05C = .ok (.slt 4#4 5#4 12#4) ∧
    decode 0x400BC05C = .ok (.sltn 4#4 5#4 12#4) ∧
    decode 0x400CC05C = .ok (.min 4#4 5#4 12#4) ∧
    decode 0x400DC05C = .ok (.max 4#4 5#4 12#4) ∧
    decode 0x400EC05C = .ok (.minn 4#4 5#4 12#4) ∧
    decode 0x400FC05C = .ok (.maxn 4#4 5#4 12#4) ∧
    decode 0x4000C15C = .ok (.mul 4#4 5#4 12#4) ∧
    decode 0x4001C15C = .ok (.mulh 4#4 5#4 12#4) ∧
    decode 0x4002C15C = .ok (.mulhn 4#4 5#4 12#4) ∧
    decode 0x4004C15C = .ok (.div 4#4 5#4 12#4) ∧
    decode 0x4005C15C = .ok (.divn 4#4 5#4 12#4) ∧
    decode 0x4006C15C = .ok (.rem 4#4 5#4 12#4) ∧
    decode 0x4007C15C = .ok (.remn 4#4 5#4 12#4) ∧
    decode 0x0000C245 = .ok (.clz 4#4 5#4) ∧
    decode 0x0001C245 = .ok (.ctz 4#4 5#4) := by
  decide +kernel

theorem test_decode_arithmetic_2 :
    decode 0x0002C245 = .ok (.popc 4#4 5#4) ∧
    decode 0x0003C245 = .ok (.brev 4#4 5#4) ∧
    decode 0x0004C245 = .ok (.sextb 4#4 5#4) ∧
    decode 0x0005C245 = .ok (.sexth 4#4 5#4) ∧
    decode 0x0006C245 = .ok (.zexth 4#4 5#4) ∧
    decode 0x0007C245 = .ok (.bswap 4#4 5#4) ∧
    decode 0x6C34C35C = .ok (.addi 27700#16 5#4 12#4) ∧
    decode 0x6C34C45C = .ok (.andi 27700#16 5#4 12#4) ∧
    decode 0x6C34C55C = .ok (.ori 27700#16 5#4 12#4) ∧
    decode 0x6C34C65C = .ok (.xori 27700#16 5#4 12#4) ∧
    decode 0x6C34C75C = .ok (.slti 27700#16 5#4 12#4) ∧
    decode 0x6C34C85C = .ok (.sltni 27700#16 5#4 12#4) ∧
    decode 0x0014C95C = .ok (.slli 20#5 5#4 12#4) ∧
    decode 0x4014C95C = .ok (.srli 20#5 5#4 12#4) ∧
    decode 0x8014C95C = .ok (.srai 20#5 5#4 12#4) ∧
    decode 0xC014C95C = .ok (.rori 20#5 5#4 12#4) ∧
    decode 0x6C34CA50 = .ok (.lui 27700#16 5#4) := by
  decide +kernel

theorem test_decode_control :
    decode 0x6C34CC5C = .ok (.beq 27700#16 5#4 12#4) ∧
    decode 0x6C34CD5C = .ok (.bne 27700#16 5#4 12#4) ∧
    decode 0x6C34CE5C = .ok (.blt 27700#16 5#4 12#4) ∧
    decode 0x6C34CF5C = .ok (.bge 27700#16 5#4 12#4) ∧
    decode 0x6C34D05C = .ok (.bltn 27700#16 5#4 12#4) ∧
    decode 0x6C34D15C = .ok (.bgen 27700#16 5#4 12#4) ∧
    decode 0x6C34D25C = .ok (.jal 27700#16 5#4 12#4) ∧
    decode 0x6C34D35C = .ok (.jalr 27700#16 5#4 12#4) ∧
    decode 0x0243D47E = .ok (.lset 9#10 3#6 0#1 62#6) ∧
    decode 0x0243D40E = .ok (.lsetReg 9#10 3#6 0#1 14#4) := by
  decide +kernel

theorem test_decode_memory_1 :
    decode 0x6C34D55C = .ok (.lb 27700#16 5#4 12#4) ∧
    decode 0x6C34D65C = .ok (.lbn 27700#16 5#4 12#4) ∧
    decode 0x6C34D75C = .ok (.lh 27700#16 5#4 12#4) ∧
    decode 0x6C34D85C = .ok (.lhn 27700#16 5#4 12#4) ∧
    decode 0x6C34D95C = .ok (.lw 27700#16 5#4 12#4) ∧
    decode 0x6C34DA5C = .ok (.sb 27700#16 5#4 12#4) ∧
    decode 0x6C34DB5C = .ok (.sh 27700#16 5#4 12#4) ∧
    decode 0x6C34DC5C = .ok (.sw 27700#16 5#4 12#4) ∧
    decode 0x2C34DD5C = .ok (.lwf 11316#14 5#4 12#4) ∧
    decode 0x6C34DD5C = .ok (.lwfe 11316#14 5#4 12#4) ∧
    decode 0xAC34DD5C = .ok (.fetest 11316#14 5#4 12#4) ∧
    decode 0x2C34DE5C = .ok (.swe 11316#14 5#4 12#4) ∧
    decode 0x6C34DE5C = .ok (.swf 11316#14 5#4 12#4) ∧
    decode 0xAC34DE05 = .ok (.feset 11316#14 5#4) ∧
    decode 0xEC34DE05 = .ok (.feclr 11316#14 5#4) ∧
    decode 0x4000DF5C = .ok (.rlw 4#4 5#4 12#4) ∧
    decode 0x4001DF5C = .ok (.rlwf 4#4 5#4 12#4) ∧
    decode 0x4002DF5C = .ok (.rlwfe 4#4 5#4 12#4) ∧
    decode 0x4003DF5C = .ok (.rsw 4#4 5#4 12#4) ∧
    decode 0x4004DF5C = .ok (.rswe 4#4 5#4 12#4) ∧
    decode 0x4005DF5C = .ok (.rswf 4#4 5#4 12#4) ∧
    decode 0x4008E0CE = .ok (.amoAdd 4#4 1#2 12#4 14#4) ∧
    decode 0x4009E0CE = .ok (.amoAnd 4#4 1#2 12#4 14#4) ∧
    decode 0x400AE0CE = .ok (.amoOr 4#4 1#2 12#4 14#4) ∧
    decode 0x400BE0CE = .ok (.amoXor 4#4 1#2 12#4 14#4) := by
  decide +kernel

theorem test_decode_memory_2 :
    decode 0x400CE0CE = .ok (.amoMin 4#4 1#2 12#4 14#4) ∧
    decode 0x400DE0CE = .ok (.amoMax 4#4 1#2 12#4 14#4) ∧
    decode 0x400EE0CE = .ok (.amoSwap 4#4 1#2 12#4 14#4) ∧
    decode 0x400FE08E = .ok (.amoCas 4#4 1#2 4#3 14#4) := by
  decide +kernel

theorem test_decode_global :
    decode 0x0000E840 = .ok (.tmset 4#4) ∧
    decode 0x0001E840 = .ok (.tmoff 4#4) ∧
    decode 0x4065E1CE = .ok (.glw 4#4 101#8 12#4 14#4) ∧
    decode 0x4165E1CE = .ok (.gsw 4#4 101#8 12#4 14#4) ∧
    decode 0x4265E1CE = .ok (.glwa 4#4 101#8 12#4 14#4) ∧
    decode 0x4365E1CE = .ok (.gswl 4#4 101#8 12#4 14#4) ∧
    decode 0x4465E1CE = .ok (.gaadd 4#4 101#8 12#4 14#4) ∧
    decode 0x4565E1CE = .ok (.gamin 4#4 101#8 12#4 14#4) ∧
    decode 0x4665E1CE = .ok (.gamax 4#4 101#8 12#4 14#4) ∧
    decode 0x4765E1CE = .ok (.gaswap 4#4 101#8 12#4 14#4) ∧
    decode 0x4865E18E = .ok (.gacas 4#4 101#8 4#3 14#4) ∧
    decode 0x4965E1CE = .ok (.gafadd 4#4 101#8 12#4 14#4) ∧
    decode 0x001AE200 = .ok (.fence 1#2 1#1 2#3) := by
  decide +kernel

theorem test_decode_system :
    decode 0x0080E350 = .ok (.mfs 8#12 5#4) ∧
    decode 0x0100E340 = .ok (.mfsCycle 4#4) ∧
    decode 0x04F0E340 = .ok (.mfsPq 4#4) ∧
    decode 0x05F0E340 = .ok (.mfsCpGo 4#4) ∧
    decode 0x0680E340 = .ok (.mfsCq 4#4) ∧
    decode 0x07F0E340 = .ok (.mfsGpGo 4#4) ∧
    decode 0x0800E340 = .ok (.mfsRq 4#4) ∧
    decode 0x0810E340 = .ok (.mfsBq 4#4) ∧
    decode 0xC341E350 = .ok (.mts 3124#12 5#4) ∧
    decode 0xC342E305 = .ok (.mtsi 3124#12 5#4) ∧
    decode 0xC343E350 = .ok (.mss 3124#12 5#4) ∧
    decode 0xC344E350 = .ok (.mcs 3124#12 5#4) ∧
    decode 0x45CEE480 = .ok (.waito 4#4 5#4 12#4 14#4 8#4) ∧
    decode 0x0002E534 = .ok (.trap 52#8) ∧
    decode 0x0000E500 = .ok .nop ∧
    decode 0x0001E500 = .ok .ecall ∧
    decode 0x0003E500 = .ok .tret ∧
    decode 0x0004E500 = .ok .brk ∧
    decode 0x0005E500 = .ok .yield ∧
    decode 0x0006E500 = .ok .idle := by
  decide +kernel

theorem test_decode_tasks :
    decode 0x0000E604 = .ok (.sync 4#4) ∧
    decode 0x0003E600 = .ok (.haltr 0#2) ∧
    decode 0x4004E605 = .ok (.sendam 4#4 5#4) ∧
    decode 0x0006E645 = .ok (.frinit 4#4 5#4) ∧
    decode 0x0001E600 = .ok .done ∧
    decode 0x0002E600 = .ok .halt ∧
    decode 0x0005E600 = .ok .hret ∧
    decode 0x6C34E750 = .ok (.spawn 27700#16 5#4) ∧
    decode 0x4000E95C = .ok (.pgpre 4#4 5#4 12#4) ∧
    decode 0x4001E95C = .ok (.pgdisc 4#4 5#4 12#4) := by
  decide +kernel

theorem test_decode_barriers :
    decode 0x4000EA5C = .ok (.binit 4#4 5#4 12#4) ∧
    decode 0x4001EA5C = .ok (.bexp 4#4 5#4 12#4) ∧
    decode 0x4002EA5C = .ok (.barr 4#4 5#4 12#4) ∧
    decode 0x4003EA5C = .ok (.bwait 4#4 5#4 12#4) ∧
    decode 0x4004EA5C = .ok (.bwaitm 4#4 5#4 12#4) ∧
    decode 0x4005EA5C = .ok (.btest 4#4 5#4 12#4) ∧
    decode 0x000DEBC0 = .ok (.dbar 3#3 1#2 12#4) ∧
    decode 0x4000EC5C = .ok (.send 4#4 5#4 12#4) ∧
    decode 0x0001EC45 = .ok (.rpost 4#4 5#4) ∧
    decode 0x0002EC45 = .ok (.rcancel 4#4 5#4) ∧
    decode 0x0003EC45 = .ok (.rprobe 4#4 5#4) ∧
    decode 0x4004EC5C = .ok (.enq 4#4 5#4 12#4) := by
  decide +kernel

theorem test_decode_transfers :
    decode 0x0000ED45 = .ok (.cptest 4#4 5#4) ∧
    decode 0x0001ED45 = .ok (.cpcancel 4#4 5#4) ∧
    decode 0x0002ED45 = .ok (.cpwait 4#4 5#4) ∧
    decode 0x0000EE85 = .ok (.mcfg 4#3 5#4) ∧
    decode 0x0001EE80 = .ok (.mzero 4#3) ∧
    decode 0x0342EE00 = .ok (.lease 52#6) ∧
    decode 0x0003EE00 = .ok .unlease ∧
    decode 0x08A0EF80 = .ok (.mld 4#4 5#4 4#3) ∧
    decode 0x08A1EF80 = .ok (.mst 4#4 5#4 4#3) := by
  decide +kernel

theorem test_decode_arrays :
    decode 0x08A0F098 = .ok (.pmv 4#4 5#4 4#3 6#3) ∧
    decode 0x08A1F098 = .ok (.pmvx 4#4 5#4 4#3 6#3) ∧
    decode 0x8002F0B0 = .ok (.pmt 4#3 5#3 4#3) ∧
    decode 0x8003F0B0 = .ok (.pbp 4#3 5#3 4#3) ∧
    decode 0x8004F0B0 = .ok (.prt 4#3 5#3 4#3) := by
  decide +kernel

theorem test_decode_vectors :
    decode 0x8800F198 = .ok (.vadd 4#3 2#3 4#3 6#3 0#2) ∧
    decode 0x8801F198 = .ok (.vsub 4#3 2#3 4#3 6#3 0#2) ∧
    decode 0x8802F198 = .ok (.vadds 4#3 2#3 4#3 6#3 0#2) ∧
    decode 0x8803F198 = .ok (.vsubs 4#3 2#3 4#3 6#3 0#2) ∧
    decode 0x8804F198 = .ok (.vmul 4#3 2#3 4#3 6#3 0#2) ∧
    decode 0x8805F198 = .ok (.vmulh 4#3 2#3 4#3 6#3 0#2) ∧
    decode 0x8806F198 = .ok (.vmac 4#3 2#3 4#3 6#3 0#2) ∧
    decode 0x8807F198 = .ok (.vmin 4#3 2#3 4#3 6#3 0#2) ∧
    decode 0x8808F198 = .ok (.vmax 4#3 2#3 4#3 6#3 0#2) ∧
    decode 0x8809F198 = .ok (.vand 4#3 2#3 4#3 6#3 0#2) ∧
    decode 0x880AF198 = .ok (.vor 4#3 2#3 4#3 6#3 0#2) ∧
    decode 0x880BF198 = .ok (.vxor 4#3 2#3 4#3 6#3 0#2) ∧
    decode 0x880CF198 = .ok (.vandn 4#3 2#3 4#3 6#3 0#2) ∧
    decode 0x880DF198 = .ok (.vshl 4#3 2#3 4#3 6#3 0#2) ∧
    decode 0x880EF198 = .ok (.vshr 4#3 2#3 4#3 6#3 0#2) ∧
    decode 0x880FF198 = .ok (.vsra 4#3 2#3 4#3 6#3 0#2) ∧
    decode 0x0810F1B2 = .ok (.vabs 2#3 5#3 4#3 2#2) ∧
    decode 0x0811F1B2 = .ok (.vneg 2#3 5#3 4#3 2#2) ∧
    decode 0x8812F118 = .ok (.vcmpeq 4#3 2#3 0#2 6#3 0#2) ∧
    decode 0x8813F118 = .ok (.vcmplt 4#3 2#3 0#2 6#3 0#2) ∧
    decode 0x8814F118 = .ok (.vcmple 4#3 2#3 0#2 6#3 0#2) ∧
    decode 0x8815F198 = .ok (.vsel 4#3 2#3 4#3 6#3 0#2) := by
  decide +kernel

theorem test_decode_vectors_more_1 :
    decode 0x9C00F298 = .ok (.vfadd 4#3 7#3 4#3 6#3 0#2) ∧
    decode 0x9C01F298 = .ok (.vfsub 4#3 7#3 4#3 6#3 0#2) ∧
    decode 0x9C02F298 = .ok (.vfmul 4#3 7#3 4#3 6#3 0#2) ∧
    decode 0x9C03F298 = .ok (.vfma 4#3 7#3 4#3 6#3 0#2) ∧
    decode 0x9C04F298 = .ok (.vfmin 4#3 7#3 4#3 6#3 0#2) ∧
    decode 0x9C05F298 = .ok (.vfmax 4#3 7#3 4#3 6#3 0#2) ∧
    decode 0x1C06F2B2 = .ok (.vfabs 7#3 5#3 4#3 2#2) ∧
    decode 0x1C07F2B2 = .ok (.vfneg 7#3 5#3 4#3 2#2) ∧
    decode 0x1C08F2B2 = .ok (.vrcp 7#3 5#3 4#3 2#2) ∧
    decode 0x1C09F2B2 = .ok (.vrsq 7#3 5#3 4#3 2#2) ∧
    decode 0x1C0AF2B2 = .ok (.vexp2 7#3 5#3 4#3 2#2) ∧
    decode 0x9C0BF218 = .ok (.vfcmpeq 4#3 7#3 0#2 6#3 0#2) ∧
    decode 0x9C0CF218 = .ok (.vfcmplt 4#3 7#3 0#2 6#3 0#2) ∧
    decode 0x9C0DF218 = .ok (.vfcmple 4#3 7#3 0#2 6#3 0#2) ∧
    decode 0x9D00F3C1 = .ok (.vcvt 4#3 7#3 1#2 6#3 0#3 1#2) ∧
    decode 0x9C01F3B2 = .ok (.vscl 4#3 5#3 4#3 2#2) ∧
    decode 0x0002F394 = .ok (.vtrit 4#3 5#3 0#2) ∧
    decode 0x0003F394 = .ok (.vpackt 4#3 5#3 0#2) ∧
    decode 0x0800F4B2 = .ok (.vmov 2#3 5#3 4#3 2#2) ∧
    decode 0x8801F498 = .ok (.vperm 4#3 2#3 4#3 6#3 0#2) ∧
    decode 0x0802F4B2 = .ok (.vcompr 2#3 5#3 4#3 2#2) ∧
    decode 0x0803F4B2 = .ok (.vexpnd 2#3 5#3 4#3 2#2) ∧
    decode 0x8804F498 = .ok (.vzipl 4#3 2#3 4#3 6#3 0#2) ∧
    decode 0x8805F498 = .ok (.vziph 4#3 2#3 4#3 6#3 0#2) ∧
    decode 0x0806F4B2 = .ok (.vrev 2#3 5#3 4#3 2#2) := by
  decide +kernel

theorem test_decode_vectors_more_2 :
    decode 0x8000F5B2 = .ok (.vband 4#3 5#3 4#3 2#2) ∧
    decode 0x8001F5B2 = .ok (.vbor 4#3 5#3 4#3 2#2) ∧
    decode 0x0002F594 = .ok (.vpopp 4#3 5#3 0#2) ∧
    decode 0x8003F5B2 = .ok (.vxsect 4#3 5#3 4#3 2#2) ∧
    decode 0x0804F532 = .ok (.vnzm 2#3 1#2 4#3 2#2) ∧
    decode 0x10D0F6AC = .ok (.vld 1076#11 5#3 12#4) ∧
    decode 0x30D0F6AC = .ok (.vst 1076#11 5#3 12#4) ∧
    decode 0x5100F68E = .ok (.vldx 4#3 1#2 4#3 14#4) ∧
    decode 0x7100F68E = .ok (.vstx 4#3 1#2 4#3 14#4) ∧
    decode 0x4165F788 = .ok (.vldg 4#4 357#9 4#3 0#1 8#4) ∧
    decode 0x4365F788 = .ok (.vstg 4#4 357#9 4#3 0#1 8#4) ∧
    decode 0x4565F788 = .ok (.vldgs 4#4 357#9 4#3 0#1 8#4) ∧
    decode 0x4400F882 = .ok (.vbcast 4#4 2#3 4#3 2#2) ∧
    decode 0x4431F818 = .ok (.vext 4#4 2#3 3#5 6#3 0#2) ∧
    decode 0x4432F8C0 = .ok (.vins 4#4 2#3 3#5 6#3 0#2) ∧
    decode 0x0053F890 = .ok (.vnarrow 0#3 5#5 4#3 2#2 0#2) ∧
    decode 0x0414F898 = .ok (.vwiden 2#3 1#1 4#3 6#3 0#2) ∧
    decode 0x4005F8A2 = .ok (.vmxq 4#4 5#3 0#1 2#2) ∧
    decode 0x4E06F892 = .ok (.vmxd 4#4 1#1 4#3 2#2) ∧
    decode 0x4007F8B2 = .ok (.badq 4#4 5#3 4#3 2#2) ∧
    decode 0x4408F812 = .ok (.vnzc 4#4 2#3 4#3 2#2) ∧
    decode 0x4409F812 = .ok (.vsumr 4#4 2#3 4#3 2#2) ∧
    decode 0x440AF812 = .ok (.vmaxr 4#4 2#3 4#3 2#2) ∧
    decode 0x443BF8C1 = .ok (.vslide 4#4 2#3 3#5 6#3 0#3 1#2) ∧
    decode 0x000CF800 = .ok .vclear := by
  decide +kernel

theorem test_decode_short_forms_1 :
    decode 0x0045 = .ok (.cMov 4#4 5#4) ∧
    decode 0x0145 = .ok (.cAdd 4#4 5#4) ∧
    decode 0x0245 = .ok (.cSub 4#4 5#4) ∧
    decode 0x0345 = .ok (.cAnd 4#4 5#4) ∧
    decode 0x0445 = .ok (.cOr 4#4 5#4) ∧
    decode 0x0545 = .ok (.cXor 4#4 5#4) ∧
    decode 0x0645 = .ok (.cSll 4#4 5#4) ∧
    decode 0x0745 = .ok (.cSrl 4#4 5#4) ∧
    decode 0x0845 = .ok (.cSra 4#4 5#4) ∧
    decode 0x0945 = .ok (.cSlt 4#4 5#4) ∧
    decode 0x0A04 = .ok (.cJr 4#4) ∧
    decode 0x0B04 = .ok (.cJalr 4#4) ∧
    decode 0x4125 = .ok (.cAddi 4#4 37#6) ∧
    decode 0x4525 = .ok (.cLi 4#4 37#6) ∧
    decode 0x4905 = .ok (.cSlli 4#4 5#5) ∧
    decode 0x4D05 = .ok (.cSrli 4#4 5#5) ∧
    decode 0x5105 = .ok (.cSrai 4#4 5#5) ∧
    decode 0x5525 = .ok (.cAndi 4#4 37#6) ∧
    decode 0x5925 = .ok (.cLwsp 4#4 37#6) ∧
    decode 0x5D25 = .ok (.cSwsp 4#4 37#6) ∧
    decode 0x6125 = .ok (.cLui 4#4 37#6) ∧
    decode 0x8265 = .ok (.cBeqz 4#4 101#7) ∧
    decode 0x8A65 = .ok (.cBnez 4#4 101#7) ∧
    decode 0x922C = .ok (.cLw 4#4 5#4 4#3) ∧
    decode 0x9A2C = .ok (.cSw 4#4 5#4 4#3) := by
  decide +kernel

theorem test_decode_short_forms_2 :
    decode 0xB434 = .ok (.cJ 1076#11) ∧
    decode 0xA000 = .ok .cVclear ∧
    decode 0xB800 = .ok .cNop ∧
    decode 0xB801 = .ok .cDone ∧
    decode 0xB802 = .ok .cHret ∧
    decode 0xB803 = .ok .cRet := by
  decide +kernel

/-! ## States and operands that meet the hypotheses of each statement, clause by clause -/

theorem witness_DecodeOfEncode : encode (.add 3#4 5#4 4#4) = some (4, 0x3000C054) ∧ (Instr.add 3#4 5#4 4#4).illFormed = none := by decide +kernel
theorem witness_EncodeOfDecode : 0x3000C054 < 2 ^ (8 * instrBytes 0x3000C054) ∧ decode 0x3000C054 = .ok (.add 3#4 5#4 4#4) := by decide +kernel
theorem witness_StepRunsDecoded : part.turn = .context ∧ part.inHandler = false ∧ part.task.trapDue = false ∧ part.task.follow = none ∧
    part.codeNode.exec = true ∧ part.codeNode.fetch part.pc.toNat = some 0x3000C054 ∧ decode 0x3000C054 = .ok (.add 3#4 5#4 4#4) := by
  decide +kernel
theorem witness_StepOfBadFetch : (partT fun t => { t with pc := 64#32 }).codeNode.fetch 64 = none ∧
    (partT fun t => { t with pc := 64#32 }).task.trapDue = false ∧ (partT fun t => { t with pc := 8#32 }).codeNode.fetch 8 = some 0 ∧
    (decode 0).toOption = none := by decide +kernel
theorem witness_EveryStepLeavesLegalTurn : TurnLegal State.reset ∧ ∃ t, step State.reset = .next t := 
  ⟨⟨rfl, by show State.reset.deliverable 0 = true; decide +kernel⟩, _, rfl⟩
theorem witness_ScalarWords : aluWord (.add 3#4 5#4 4#4) = some 0x3000C054 ∧ decode 0x3000C054 = .ok (.add 3#4 5#4 4#4) := by decide +kernel
theorem witness_ScalarResults : ∃ r, scalarRow (.add 3#4 5#4 4#4) = some r ∧ r.ready part := ⟨_, rfl, by decide +kernel⟩
theorem witness_BitCounts : Clear part [5#4, 4#4] [] := by decide +kernel
theorem witness_ScalarFrame : ∃ r t, scalarRow (.add 3#4 5#4 4#4) = some r ∧ r.ready part ∧ exec (.add 3#4 5#4 4#4) part = .next t :=
  ⟨_, _, rfl, by decide +kernel, rfl⟩
theorem witness_DivisionLaw : Clear part [3#4, 5#4, 4#4] [] ∧ part.x 3#4 = 0#32 ∧
    (partT (regs [7#32, 0xFFFFFFFE#32])).x 2#4 ≠ 0#32 ∧ ¬((partT (regs [7#32, 0xFFFFFFFE#32])).x 1#4 = 0x80000000#32) ∧
    Clear (partT (regs [0x80000000#32, 0xFFFFFFFF#32])) [1#4, 2#4, 3#4] [] ∧ (partT (regs [0x80000000#32, 0xFFFFFFFF#32])).x 1#4 = 0x80000000#32 ∧
    (partT (regs [0x80000000#32, 0xFFFFFFFF#32])).x 2#4 = 0xFFFFFFFF#32 := by decide +kernel
theorem witness_RetireAdvances : part.inHandler = false ∧ ∀ l : Fin 2, part.task.lc[l] = 0#32 ∨ part.task.le[l] ≠ part.task.pc := by
  decide +kernel

/-- A task context at the end of the bodies of both loops. -/
def looping (c0 c1 : Word) (t : TaskCtx) : TaskCtx := { t with pc := 8#32, le := #v[8#32, 8#32], ls := #v[4#32, 4#32], lc := #v[c0, c1] }

theorem witness_LoopBack : (partT (looping 1#32 2#32)).task.lc[(1 : Fin 2)] = 2#32 ∧ (partT (looping 1#32 2#32)).task.le[(1 : Fin 2)] = 8#32 ∧
    (partT (looping 1#32 0#32)).task.lc[(1 : Fin 2)] = 0#32 ∧ (partT (looping 1#32 0#32)).task.lc[(0 : Fin 2)] ≠ 0#32 ∧
    (partT (looping 1#32 0#32)).inHandler = false := by decide +kernel
theorem witness_BranchesAndJumps : Clear part [1#4, 2#4] [] ∧ Clear part [1#4, 0#4] [] ∧ Clear part [0#4] [] := by decide +kernel
theorem witness_HardwareLoops : InTask part ∧ Clear part [] [] ∧ Clear part [3#4] [] ∧ part.x 3#4 = 0#32 ∧
    part.codeNode.half (part.pc + BitVec.ofNat 32 (2 * (4#10).toNat)).toNat = some 0 ∧
    Clear (partT (regs [5#32])) [1#4] [] ∧ (partT (regs [5#32])).x 1#4 ≠ 0#32 := by decide +kernel

/-! ### Local memory -/

theorem witness_LocalLoads : ∃ r, localLoad (.lw 0x7FFC#16 5#4 4#4) = some r ∧ Ready part [r.base, r.reg] ∧ LocalAt (r.addr part) r.size :=
  ⟨_, rfl, by decide +kernel⟩
theorem witness_LocalLoadFrame : ∃ r t, localLoad (.lb 3#16 5#4 4#4) = some r ∧ Ready part [r.base, r.reg] ∧ LocalAt (r.addr part) r.size ∧
    exec (.lb 3#16 5#4 4#4) part = .next t := ⟨_, _, rfl, by decide +kernel, by decide +kernel, rfl⟩
theorem witness_LocalStores : ∃ r, localStore (.sh 0x6FFE#16 5#4 4#4) = some r ∧ Ready part [r.base, r.reg] ∧
    LocalAt (r.addr part) r.size ∧ Storable (r.addr part) ∧ part.core.lm.canonical = true := ⟨_, rfl, by decide +kernel⟩
theorem witness_LocalAccessFaults : ∃ r, localStore (.sw 0x7000#16 5#4 4#4) = some r ∧ Ready part [r.base, r.reg] ∧
    LocalAt (r.addr part) r.size ∧ ¬ Storable (r.addr part) := ⟨_, rfl, by decide +kernel⟩
theorem witness_LocalAccessFaults_range : ∃ r, localLoad (.lh 0xFFFF#16 5#4 4#4) = some r ∧ Ready part [r.base, r.reg] ∧
    0x8000 ≤ (r.addr part).toNat := ⟨_, rfl, by decide +kernel⟩
theorem witness_LocalAccessFaults_aligned : ∃ r, localLoad (.lh 0x7FFF#16 5#4 4#4) = some r ∧ Ready part [r.base, r.reg] ∧
    (r.addr part).toNat < 0x8000 ∧ (r.addr part).toNat % r.size ≠ 0 := ⟨_, rfl, by decide +kernel⟩

/-- The part with the word at 16 full. -/
def full : State := partC fun c => { c with fe := [16] }

theorem witness_FullEmptyCompletes : Ready full [4#4, 5#4] ∧ LocalAt (feAddr full 4#14 4#4) 4 ∧ InTask full ∧ 16 ∈ full.core.fe ∧
    Storable (feAddr full 4#14 4#4) ∧ Settled part ∧ (feAddr part 4#14 4#4).toNat ∉ part.core.fe ∧
    partH.inHandler = true ∧ partH.core.hd.unacked = 0 := by decide +kernel

/-- An operation of the task context parked at the word at 16. -/
def parkedOp : FeMsg :=
  { src := ⟨0, .tc0⟩, dst := 0, off := 16, op := .lwf, reg := 5#4, data := 0#32, wait := 7, limit := 9#32, remote := false, group := 1 }

/-- The part with that operation parked, its limit passed. -/
def parked : State := partE (.feTimeout 0 7) (partC fun c => { c with parkedFe := [parkedOp] })

theorem witness_FullEmptyWaits : (InTask part ∧ Ready part [4#4, 5#4] ∧ LocalAt (feAddr part 4#14 4#4) 4 ∧
    (feAddr part 4#14 4#4).toNat ∉ part.core.fe ∧ 16 ∈ full.core.fe ∧ (feAddr full 4#14 4#4).toNat = 16 ∧ Settled full) ∧
    Performs parked (.feTimeout 0 7) ∧ ((parked.coreAt 0).parkedFe.find? fun m => m.wait == 7) = some parkedOp ∧
    parkedOp.remote = false ∧ parkedOp.src.ctx ≠ .handler := by decide +kernel

/-! ### Remote accesses -/

theorem witness_RemoteAccessesIssue : InTask part ∧ Ready part [1#4, 2#4, 3#4] ∧ RemoteAt (part.x 2#4) ∧ part.task.ocnt.loads < 63 ∧
    Storable (part.x 2#4) ∧ part.task.ocnt.stores < 63 ∧ Settled part := by decide +kernel
theorem witness_AtomicsIssue : amoRow (.amoMin 2#4 3#2 3#4 1#4) = some (.min, 3#2, 3#4, 1#4, 2#4) ∧ InTask part ∧ Ready part [1#4, 2#4, 3#4] ∧
    RemoteAt (part.x 2#4) ∧ Storable (part.x 2#4) ∧ Settled part ∧ Ready part [1#4, 2#4, 2#3 ++ 0#1, 2#3 ++ 1#1] := by decide +kernel

/-- A remote access from core 0 to itself, and to a core that is bound to no group. -/
def remOp (k : Nat) : RemMsg := { src := ⟨0, .tc0⟩, dst := k, off := 16, reg := 5#4, data := 9#32, group := 1 }

/-- The part whose group has been saved, its core taken up by group 2 of another context. -/
def savedPart : State :=
  { part with groups := [(1, { state := .saved, ctx := 1, cores := [0], handle := 1, image := [(0, core)] })], cores := [(0, {})] }

/-- The part whose core's handler context runs. -/
def partRun : State := partC fun c => { c with hd := { running := true, budget := 8 } }

theorem witness_RemoteAccessesPerform : Performs (partE (.remoteLoad (remOp 0))) (.remoteLoad (remOp 0)) ∧
    Reaches part 1 0 (.remoteLoad (remOp 0)) ∧ meets part 1 1 (.remoteLoad (remOp 1)) = .nack ∧ meets savedPart 1 0 (.remoteStore (remOp 0)) = .hold 1 ∧
    (remOp 0).src.core = (remOp 0).dst ∧
    ((partC fun c => { c with aged := [(.tc0, 16, 3#32)] }).coreAt 0).agedAt .tc0 16 = some 3#32 ∧ (part.coreAt 0).agedAt .tc0 16 = none ∧
    meets partRun 1 0 (.remoteLoad (remOp 0)) = .here ∧ partRun.handlerFree 0 = false ∧
    ({ src := ⟨0, .tc0⟩, dst := 0, off := 16, op := .add, reg := 5#4, data := 1#32, data2 := 0#32, acq := false, group := 1 } : AmoMsg).old = none := by
  decide +kernel

/-- A full/empty operation from another core. -/
def feOp (op : FeOp) : FeMsg := { parkedOp with op := op, remote := true }

/-- The part with eight remote operations parked at one word. -/
def crowded : State := partC fun c => { c with parkedFe := List.replicate 8 (feOp .lwf) }

theorem witness_RemoteFullEmpty : Reaches part 1 0 (.feLoad (feOp .lwf)) ∧ feHolds .lwf true = true ∧ feHolds .swe false = true ∧ feHolds .lwf false = false ∧
    (feOp .lwf).limit ≠ 0#32 ∧ (part.coreAt 0).parkedIn 16 < 8 ∧ 8 ≤ (crowded.coreAt 0).parkedIn 16 ∧ feIsLoad .lwf = true ∧
    Performs (partE (.remoteBusyResend (feOp .lwf) false)) (.remoteBusyResend (feOp .lwf) false) ∧
    Performs (partE (.remoteBusyResend (feOp .lwf) true)) (.remoteBusyResend (feOp .lwf) true) := by decide +kernel

/-- A reply to x5. -/
def reply (tr : Option Trap) : Reply := ⟨⟨0, .tc0⟩, .x 5#4, 7#256, true, false, tr, none⟩

theorem witness_RepliesArrive : Performs (partE (.loadReply (reply none))) (.loadReply (reply none)) ∧ (reply none).src = none ∧
    (reply none).dst.ctx ≠ .handler ∧ (reply none).dest = .x 5#4 ∧ (reply (some ⟨.remoteBusy, false, 0#32⟩)).trap ≠ none := by decide +kernel
theorem witness_AcknowledgementsArrive : Performs (partE (.storeAck ⟨0, .tc0⟩)) (.storeAck ⟨0, .tc0⟩) ∧
    Performs (partE (.messageAccept ⟨0, .tc1⟩)) (.messageAccept ⟨0, .tc1⟩) ∧
    Performs (partE (.messageAccept ⟨0, .handler⟩)) (.messageAccept ⟨0, .handler⟩) := by decide +kernel

/-! ### Traps, special registers, waits -/

theorem witness_TrapEntry : NonePending (part.taskAt ⟨0, .tc0⟩) ∧ (part.taskAt ⟨0, .tc0⟩).trapMode = false ∧
    ((partT fun t => { t with trapMode := true }).taskAt ⟨0, .tc0⟩).trapMode = true ∧
    ¬ NonePending ((partT fun t => { t with pendX := 2#16 }).taskAt ⟨0, .tc0⟩) := by decide +kernel

/-- A task context with one held trap. -/
def holding (tm : Bool) (t : TaskCtx) : TaskCtx := { t with traps := [⟨.debugHalt, true, 0#32⟩], trapMode := tm }

theorem witness_SoftwareTraps : InTask part ∧ Performs (partE (.codeRange 64#32 true)) (.codeRange 64#32 true) ∧
    (⟨.debugHalt, true, 0#32⟩ : Trap).a = true ∧ ((partC fun c => { c with hd := { traps := [⟨.debugHalt, true, 0#32⟩] } }).coreAt 0).hd.traps ≠ [] ∧ Performs (partE (.illegalOp 0#32)) (.illegalOp 0#32) ∧
    Performs (partE (.codeRange 64#32 false)) (.codeRange 64#32 false) ∧
    ((partT (holding false)).taskAt ⟨0, .tc0⟩).traps = [⟨.debugHalt, true, 0#32⟩] ∧
    ((partT (holding false)).taskAt ⟨0, .tc0⟩).trapMode = false ∧ NonePending ((partT (holding false)).taskAt ⟨0, .tc0⟩) ∧
    ((partT (holding true)).taskAt ⟨0, .tc0⟩).trapMode = true := by decide +kernel

/-- A task context in trap mode after a cause, its saved offset 0. -/
def trapped (c : Cause) (a : Bool) (t : TaskCtx) : TaskCtx := { t with trapMode := true, causeCode := BitVec.ofNat 7 c.code, causeA := a }

theorem witness_TrapReturn : InTask part ∧ part.task.trapMode = false ∧ (partT (trapped .misaligned false)).task.trapMode = true ∧
    (partT (trapped .misaligned false)).task.causeCode.toNat ≠ Cause.ecall.code ∧
    (partT (trapped .misaligned false)).task.causeCode.toNat ≠ Cause.softwareTrap.code ∧
    (partT (trapped .ecall false)).task.causeCode.toNat = Cause.ecall.code ∧ (partT (trapped .ecall false)).task.causeA = false ∧
    (partT (trapped .ecall false)).codeNode.half (2 * (partT (trapped .ecall false)).task.epc.toNat) = some 0xC054 := by decide +kernel
theorem witness_HintsAndFences : InTask part ∧ part.task.ocnt.stores = 0 ∧ part.task.ocnt.atomics = 0 ∧ part.task.ocnt.msgs = 0 ∧ part.task.ocnt.loads = 0 ∧
    (∀ e ∈ part.pending, loopsBack part.who e = false) ∧ (∀ m ∈ part.core.parkedFe, ¬(m.remote = true ∧ m.src = part.who)) ∧
    partH.inHandler = true ∧ HandlerSettled partH ∧
    (partT fun t => { t with ocnt := { t.ocnt with stores := 1 } }).task.ocnt.stores ≠ 0 ∧
    ((partT fun t => { t with run := .stalled .idle }).taskAt ⟨0, .tc0⟩).run = .stalled .idle := by decide +kernel

/-- The record of a tensor map of one dimension at virtual address 0: its element code, its extent and its edge bit. -/
def mapOf (et d edge : Nat) : Rec :=
  (((Vector.replicate 16 0#32).set 1 (BitVec.ofNat 32 (et * 2 ^ 16))).set 2 (BitVec.ofNat 32 d)).set 11 (BitVec.ofNat 32 edge)

/-- The part with a record in local memory at 0x7C00. -/
def withRec (r : Rec) : State := partC fun c => { c with lm := c.lm.setRec 0x7C00 r }

/-- A state with slot 0 of its task context bound to a map. -/
def bound (s : State) (r : Rec) : State := s.modT fun t => { t with tm := t.tm.set 0 (some r) }

theorem witness_TensorMapSlots : InTask (withRec (mapOf 4 16 0)) ∧ NoAcquire (withRec (mapOf 4 16 0)) ∧
    mapMalformed ((withRec (mapOf 4 16 0)).core.lm.rec 0x7C00) = false ∧ bmvMalformed ((withRec (mapOf 4 16 0)).core.lm.rec 0x7C00) = false ∧
    mapMalformed ((withRec (mapOf 12 16 0)).core.lm.rec 0x7C00) = true ∧ NonePending (withRec (mapOf 12 16 0)).task := by decide +kernel
theorem witness_SpecialReads : InTask part ∧ (0x000#12).toNat ∈ handlerMayRead ∧ Clear partH [5#4] [] ∧ partH.inHandler = true ∧
    (0x002#12).toNat ∉ handlerMayRead ∧ (0x060 ≤ (0x060#12).toNat ∧ (0x060#12).toNat ≤ 0x063) ∧ ¬(0x060 ≤ (0x064#12).toNat ∧ (0x064#12).toNat ≤ 0x063) ∧
    srMask 0x019 = none ∧ (0x019 : Nat) ∉ [0x008, 0x009, 0x00A, 0x00B, 0x00C, 0x011, 0x018, 0x0A0] := by decide +kernel
theorem witness_SpecialWrites : (∃ v, srWriter (.mts 0x020#12 3#4) = some (0x020#12, [3#4], v)) ∧ InTask part ∧ Clear part [3#4] [] ∧
    srMask 0x020 = some 0xFFFFFFFF#32 ∧ (∃ v, srWriter (.mtsi 0x011#12 3#4) = some (0x011#12, [], v)) ∧ Clear part [] [] ∧
    (∃ v, srWriter (.mss 0x008#12 3#4) = some (0x008#12, [3#4], v)) ∧ srMask 0x008 = none ∧ partH.inHandler = true :=
  ⟨⟨_, rfl⟩, by decide +kernel, by decide +kernel, by decide +kernel, ⟨_, rfl⟩, by decide +kernel, ⟨_, rfl⟩, by decide +kernel, by decide +kernel⟩

/-- A task context with a token, a held fault and a record, and one of each count. -/
def busy (t : TaskCtx) : TaskCtx :=
  { t with tokens := [{ seq := 3#16, f := none, tval := 0#32 }], held := [2], cq := [2], ocnt := { t.ocnt with loads := 1, copies := 1 } }

theorem witness_WaitsAndPops : InTask (partT busy) ∧ Within 15#4 (partT busy).task.ocnt.loads ∧ Within 1#4 (partT busy).task.ocnt.loads ∧
    Within 1#4 (partT busy).task.ocnt.copies ∧ (partT busy).task.held = 2 :: [] ∧ NonePending (partT busy).task ∧
    ¬ Within 0#4 (partT busy).task.ocnt.loads ∧ (partT busy).task.tokens ≠ [] ∧ Clear (partT busy) [5#4] [] ∧
    (partT busy).task.cq = 2 :: [] ∧ ((partT busy).core.slotAt 2).undelivered = false ∧ part.task.tokens = [] ∧ part.task.cq = [] ∧
    part.core.awaitsRecord (part.who.ctx == .tc1) = false ∧ part.task.held = [] := by decide +kernel

/-- The part with its core in a power state. -/
def powered (p : Power) : State := partC fun c => { c with power := p }

theorem witness_CoreEvents : (part.contextAt (part.groupAt 1).ctx).policy = 0#2 ∧ (part.groupAt 1).state.live = true ∧
    (part.taskAt ⟨0, .tc0⟩).run = .running ∧ ((powered .reserved).coreAt 0).power = .reserved ∧ ((powered .off).coreAt 0).power = .off ∧
    (({ partH with cores := [(0, { core with hd := { running := true, budget := 0 } })] } : State).coreAt 0).hd.budget = 0 := by decide +kernel

/-! ### Vectors -/

theorem witness_LanewiseResults : ∃ r, laneRow (.vadd 1#3 2#3 3#3 4#3 1#2) = some r ∧ InTask part ∧ Clear part r.xs r.vs :=
  ⟨_, rfl, by decide +kernel⟩
theorem witness_PredicateResults : ∃ r, predRow (.vcmplt 1#3 4#3 2#2 3#3 1#2) = some r ∧ InTask part ∧ Clear part [] r.vs ∧ r.dest ≠ 0#2 :=
  ⟨_, rfl, by decide +kernel⟩
theorem witness_SelectsAndCompressions : InTask part ∧ Clear part [] [1#3, 2#3, 3#3] ∧ Active part 0#2 31 ∧ ¬ Active part 1#2 0 := by
  decide +kernel
theorem witness_LaneReductions : InTask part ∧ Clear part [5#4] [1#3] ∧ etFloat 2 = false ∧ etFloat 7 = true := by decide +kernel
theorem witness_ConversionsAndBlocks : InTask part ∧ Clear part [] [1#3, 2#3] ∧ Clear part [5#4] (1#3 :: quadRegs 1#1) ∧
    Clear part [] allVregs ∧ (part.x 5#4).toNat % 256 ≠ 255 ∧ (part.x 5#4).toNat / 256 % 256 ≠ 255 := by decide +kernel
theorem witness_Bitmaps : InTask part ∧ Clear part [] [1#3, 2#3, 3#3] ∧ part.task.xc.toNat < 256 ∧
    ((List.range 256).filter fun j => decide (part.task.xc.toNat ≤ j) && (vr part 1#3).getLsbD j && (vr part 2#3).getLsbD j).length ≤ 16 ∧
    ((List.range 256).filter fun j => decide ((0 : Word).toNat ≤ j) &&
      (vr (partT fun t => { t with v := Vector.replicate 8 (BitVec.allOnes 256) }) 1#3).getLsbD j)[15]? = some 15 := by decide +kernel
theorem witness_VectorMemory : InTask part ∧ Clear part [4#4] [1#3] ∧ NoAcquire part ∧
    (part.x 4#4 + 4#32 * (1016#11).signExtend 32).toNat % 4 = 0 ∧ (part.x 4#4 + 4#32 * (8#11).signExtend 32).toNat + 32 ≤ 0x7000 ∧
    Clear part [4#4] [2#3, 1#3] ∧
    (∀ k, k < 16 → (part.x 4#4 + BitVec.ofNat 32 (laneAt (vr part 2#3) 16 k * 2)).toNat + 2 ≤ 0x7000 ∧
      (part.x 4#4 + BitVec.ofNat 32 (laneAt (vr part 2#3) 16 k * 2)).toNat % 2 = 0) := by decide +kernel

/-! ### Global memory and pages -/

/-- A part with slot 0 bound to a map of sixteen words of a page of LPDDR that may be read and written. -/
def global : State := bound (paged 0 0 3) (mapOf 5 16 0)

theorem witness_GlobalLoadsAndStores : InTask global ∧ Ready global [4#4, 5#4] ∧ GlobalAt global 0#4 15#8 4#4 (mapOf 5 16 0) 60 ∧
    global.core.l1Find global.core.ctxid (60 / 32) = none ∧ PageFree global 60 .read ∧ PageFree global 60 .write ∧
    global.task.ocnt.loads < 63 ∧ global.task.ocnt.stores < 63 ∧ Settled global ∧
    viewVa (mapOf 5 16 0) 1 0 (global.x 4#4 + (16#8).setWidth 32).toNat = none ∧ mapEdge (mapOf 5 16 0) = false := by decide +kernel

/-- The same with the line of the element held in the L1. -/
def cached : State := global.modCore 0 fun c => { c with l1 := [⟨1, 1, List.replicate 32 7#8⟩] }

theorem witness_GlobalLoads_held : (cached.core.l1Find cached.core.ctxid 1).isSome = true ∧
    (cached.core.l1Read cached.core.ctxid 60 4).isSome = true ∧ GlobalAt cached 0#4 15#8 4#4 (mapOf 5 16 0) 60 := by decide +kernel
theorem witness_GlobalAtomics : (∃ k, gaRow (.gamin 0#4 15#8 5#4 4#4) = some (k, 0#4, 15#8, 5#4, 4#4)) ∧ GlobalAt global 0#4 15#8 4#4 (mapOf 5 16 0) 60 ∧
    PageFree global 60 .atomic ∧ Ready global [4#4, 2#3 ++ 0#1, 2#3 ++ 1#1] :=
  ⟨⟨_, rfl⟩, by decide +kernel, by decide +kernel, by decide +kernel⟩
theorem witness_GlobalAccessFaults : gmemRow (.glw 0#4 16#8 5#4 4#4) = some (0#4, 16#8, 4#4, [4#4, 5#4]) ∧ InTask part ∧ Ready part [4#4, 5#4] ∧
    part.task.tm[(0#4).toFin] = none ∧ mapEt (mapOf 2 16 0) ≠ 4 ∧ mapEt (mapOf 2 16 0) ≠ 5 ∧ mapEt (mapOf 2 16 0) ≠ 7 ∧
    viewVa (mapOf 5 16 1) 1 0 16 = none ∧ mapEdge (mapOf 5 16 1) = true ∧
    viewVa ((mapOf 5 16 1).set 0 2#32) 1 0 15 = some 62 := by decide +kernel
theorem witness_VectorGlobalAccesses : InTask global ∧ Clear global [4#4] [1#3] ∧ NoAcquire global ∧
    VectorAt global 0#4 8#9 4#4 false (mapOf 5 16 0) (global.vElems (mapOf 5 16 0) false 8).1 (global.vElems (mapOf 5 16 0) false 8).2 ∧
    global.elemTrap (global.vElems (mapOf 5 16 0) false 8).1 .write (global.vElems (mapOf 5 16 0) false 8).2 = none ∧
    validElems (global.vElems (mapOf 5 16 0) false 8).2 ≠ [] ∧
    global.l1Lanes (global.vElems (mapOf 5 16 0) false 8).1 (validElems (global.vElems (mapOf 5 16 0) false 8).2) = none ∧
    validElems (global.vElems (mapOf 5 16 0) false 16).2 = [] ∧
    VectorAt global 0#4 16#9 4#4 false (mapOf 5 16 0) (global.vElems (mapOf 5 16 0) false 16).1 (global.vElems (mapOf 5 16 0) false 16).2 := by
  decide +kernel

/-- The leaf that a walk from address 60 finds. -/
def leafOf (s : State) : Leaf :=
  match s.walk 1 60 with
  | .leaf l => l
  | .fault _ => { entry := 0, raw := 0, base := 0, size := 0 }

theorem witness_PageMeetings : (paged 0 0 3).walk 1 60 = .leaf (leafOf (paged 0 0 3)) ∧ (leafOf (paged 0 0 3)).r = true ∧
    (leafOf (paged 0 0 3)).w = true ∧ (leafOf (paged 0 0 3)).state = 0 ∧ (leafOf (paged 0 0 3)).kind = 0 ∧ (leafOf (paged 0 0 1)).w = false ∧
    (leafOf (paged 0 0 2)).r = false ∧ (leafOf (paged 1 0 3)).state = 1 ∧ (leafOf (paged 3 0 3)).state = 3 ∧
    (paged 5 0 3).walk 1 60 = .leaf (leafOf (paged 5 0 3)) ∧ (leafOf (paged 5 0 3)).state = 5 ∧
    (paged 4 4 3).walk 1 60 = .leaf (leafOf (paged 4 4 3)) ∧ (leafOf (paged 4 4 3)).state = 4 := by decide +kernel
theorem witness_WalkFindsSoundLeaf : (paged 0 1 3).walk 1 60 = .leaf (leafOf (paged 0 1 3)) ∧ (leafOf (paged 0 1 3)).kind = 1 := by
  decide +kernel

/-- An access of one word at virtual address 60. -/
def acc (op : AccOp) : Access := ⟨⟨0, .tc0⟩, 1, 4, [(0, 60)], op, .x 5#4, false, false, 0, 0, [], none, 1⟩

theorem witness_SliceRequests : Performs (partE (.sliceRequest (acc .read)) global) (.sliceRequest (acc .read)) ∧
    global.meet 1 60 .read = .here 0x1003C (leafOf global) ∧ global.meet 1 60 (acc (.write 1#256)).need = .here 0x1003C (leafOf global) ∧
    (acc (.atomic .add 1#32 0#32)).need = .atomic ∧ global.poisonedAt 1 60 (leafOf global) = false ∧ (leafOf global).kind = 0 ∧ global.sectorHit 1 60 = none ∧
    (acc .read).reuse ≠ 1 ∧ (acc .read).reuse ≠ 2 ∧ (acc .read).got = [] ∧ (acc .read).fill = false ∧ (acc .read).park = none ∧ 0x1003C + (acc .read).size ≤ 0x20800000000 ∧
    (paged 0 0 2).meet 1 60 (acc .read).need = .fault .permRead ∧
    (paged 5 0 3).meet 1 60 (acc .read).need = .pager (leafOf (paged 5 0 3)) ∧
    (let s : State := { global with poison := [0x1003C / 32] }
     (acc .read).reads = true ∧ s.meet 1 60 .read = .here 0x1003C (leafOf s) ∧ s.poisonedAt 1 60 (leafOf s) = true) ∧
    global.walk 1 60 = .leaf (leafOf global) ∧ (leafOf global).p = false ∧ (leafOf global).state = 0 := by decide +kernel

/-! ### The pager, migration, hints -/

theorem witness_PagerEvents : PageIs (paged 5 0 3) 1 60 (leafOf (paged 5 0 3)) 5 ∧
    ((paged 5 0 3).giveFrame 1 (leafOf (paged 5 0 3)) 0x20000).isSome = true ∧
    (((paged 1 0 3).freeRange 1 0x10000 4096).giveFrame 1 (leafOf (paged 1 0 3)) 0x20000).isSome = true ∧
    PageIs (paged 1 0 3) 1 60 (leafOf (paged 1 0 3)) 1 ∧ (paged 1 0 3).writeParked 1 (leafOf (paged 1 0 3)) = false ∧
    ({ paged 1 0 3 with pagerAccs := [acc (.write 1#256)] } : State).writeParked 1 (leafOf (paged 1 0 3)) = true ∧
    (({ paged 1 0 3 with pagerAccs := [acc (.write 1#256)] } : State).giveFrame 1 (leafOf (paged 1 0 3)) 0x20000).isSome = true ∧
    PageIs (paged 0 0 3) 1 60 (leafOf (paged 0 0 3)) 0 ∧ (leafOf (paged 0 0 3)).kind = 0 ∧ (leafOf (paged 0 0 3)).p = false ∧
    PageIs (paged 2 0 3) 1 60 (leafOf (paged 2 0 3)) 2 ∧ PageIs ((paged 5 0 3).count .pagerTimeout) 1 60 (leafOf (paged 5 0 3)) 5 := by
  decide +kernel
theorem witness_ParkedDelivery : ∃ p, (({ part with parks := [(3, ⟨0, 1, 1, mapOf 5 16 0, none, none, [], []⟩)] } : State).parks.find 3) = some p ∧
    (part.coreAt p.core).group = p.group ∧ (part.coreAt p.core).power = .bound := ⟨_, rfl, by decide +kernel, by decide +kernel⟩

/-- An access of the host's in flight. -/
def away : State := { part with away := [(4, ⟨acc .read, [], none, false⟩)] }

/-- A page of the victim tier with one of two pieces to be stored in core 9, or to be brought back. -/
def tier (stored : Nat) (r : Bool) : State :=
  { paged 2 0 3 with victims := [{ ctx := 1, va := 0, places := [(9, 0), (9, 1)], stored := stored, recalling := r }] }

/-- The same, one of the two pieces brought back. -/
def tierOne : State := { tier 2 true with victims := [{ ctx := 1, va := 0, places := [(9, 0), (9, 1)], stored := 2, recalling := true, recalled := [0] }] }

theorem witness_MigrationHostAndVictims : PageIs (paged 0 0 3) 1 60 (leafOf (paged 0 0 3)) 0 ∧ PageIs (paged 3 0 3) 1 60 (leafOf (paged 3 0 3)) 3 ∧
    ({ leafOf (paged 3 0 3) with raw := (leafOf (paged 0 0 3)).raw } : Leaf).wellFormed ((paged 3 0 3).feature 9) = true ∧
    ({ leafOf (paged 3 0 3) with raw := (leafOf (paged 0 0 3)).raw } : Leaf).state = 0 ∧
    ({ leafOf (paged 3 0 3) with raw := (leafOf (paged 0 0 3)).raw } : Leaf).run = (leafOf (paged 3 0 3)).run ∧
    (BitVec.ofNat 64 (leafOf (paged 0 0 3)).raw).getLsbD 0 = true ∧
    (BitVec.ofNat 64 (leafOf (paged 0 0 3)).raw).toNat = (leafOf (paged 0 0 3)).raw ∧ away.away.find 4 = some ⟨acc .read, [], none, false⟩ ∧
    ((tier 0 false).victims.find? fun v => v.ctx == 1 && v.places.contains (9, 0)).isSome = true ∧ ((tier 0 false).coreAt 9).power = .off ∧
    (((tier 2 true).victims.find? fun v => v.recalling && v.places.contains (9, 1) && !v.recalled.contains (v.places.idxOf (9, 1))).map fun v =>
      decide (v.places.length ≤ v.stored ∧ v.recalled.length + 1 ≠ v.places.length)) = some true ∧
    (((tierOne).victims.find? fun v => v.recalling && v.places.contains (9, 1) && !v.recalled.contains (v.places.idxOf (9, 1))).map fun v =>
      decide (v.places.length ≤ v.stored ∧ v.recalled.length + 1 = v.places.length)) = some true ∧
    (tier 2 true).walk 1 0 = .leaf (leafOf (paged 2 0 3)) ∧ (leafOf (paged 2 0 3)).kind = 0 ∧ (paged 0 0 3).rangeBusy 1 0 4096 = false ∧
    (paged 0 0 3).populated 0 0x10000 0x11000 = true ∧ LineIn 0 4095 31 ∧
    (paged 0 3 3).walk 1 60 = .leaf (leafOf (paged 0 3 3)) ∧ (leafOf (paged 0 3 3)).denies .read = none ∧
    2 ^ 20 ≤ (({ part with slices := [(3, { class2 := 2 ^ 20 })] } : State).sliceAt 3).class2 := by decide +kernel

/-- A part with slot 0 bound to a map of the whole of a page of LPDDR. -/
def wholePage : State := (bound (paged 0 0 3) (mapOf 5 1024 0)).modT (regs [1024#32, 0#32])

theorem witness_PrefetchAndDiscard : InTask part ∧ Clear part [1#4, 2#4] [] ∧ part.task.tm[(0#4).toFin] = none ∧ Ready part [1#4, 2#4] ∧
    wholePage.task.tm[(0#4).toFin] = some (mapOf 5 1024 0) ∧ wholePage.x 1#4 ≠ 0#32 ∧ wholePage.x 2#4 = 0#32 ∧ mapEt (mapOf 5 1024 0) ≠ 11 ∧
    wholePage.elemVa (mapOf 5 1024 0) 0 = some 0 ∧ wholePage.elemVa (mapOf 5 1024 0) (0 + (wholePage.x 1#4).toNat - 1) = some 4092 ∧
    wholePage.walk wholePage.core.ctxid 0 = .leaf (leafOf (paged 0 0 3)) ∧ (leafOf (paged 0 0 3)).base = 0 ∧
    4092 + mapEsize (mapOf 5 1024 0) = (leafOf (paged 0 0 3)).base + (leafOf (paged 0 0 3)).size ∧ (leafOf (paged 0 0 3)).w = true := by
  decide +kernel

/-! ### Tasks, deques, messages -/

/-- The part with a frame of a count at 0x100 of its core, named by x1; WAITER stands for its waiter slot being in use. -/
def framed (n : Word) : State :=
  (partC fun c => { c with lm := (((c.lm.setWord 0x100 n).setWord 0x104 0x110#32).setWord 0x108 1#32) }).modT (regs [0x40#32])

theorem witness_FramesAndSpawn : InTask part ∧ Ready part [4#4, 5#4] ∧ (part.x 4#4).toNat % 16 = 0 ∧ (part.x 4#4).toNat + 80 ≤ 0x7000 ∧
    Clear part (carriedWith 0#4) [] ∧ part.core.dq.held + part.core.dq.reserved.toNat < 32 ∧
    Clear (framed 0#32) (carriedWith 1#4) [] ∧ (framed 0#32).frameValid (framed 0#32).core.group ((framed 0#32).x 1#4) = true ∧
    frameOwner ((framed 0#32).x 1#4) = 0 ∧ (framed 0#32).frameCount ((framed 0#32).x 1#4) ≠ 0xFFFFFFFF#32 ∧
    32 ≤ (partC fun c => { c with dq := { c.dq with bottom := 32#16 } }).core.dq.held := by decide +kernel
theorem witness_TasksEnd : InTask part ∧ (framed 0#32).frameValid 1 ((framed 0#32).x 1#4) = true ∧ (framed 0#32).frameCount ((framed 0#32).x 1#4) = 0#32 ∧
    (framed 2#32).frameCount ((framed 2#32).x 1#4) ≠ 0#32 ∧ (framed 2#32).frameWaits ((framed 2#32).x 1#4) = false ∧
    (framed 2#32).task.vl = false ∧ MayEnd part ∧ MayEnd (framed 2#32) ∧ part.task.nf = true ∧
    (part.core.task (otherTask part.who.ctx)).run ≠ .left ∧ part.kernelOf part.core.group (0#2).toNat ≠ none ∧
    ((framed 2#32).groupAt 1).state ≠ .saved ∧ ((framed 2#32).groupAt 1).state ≠ .preempting ∧ ((framed 2#32).coreAt (frameOwner 0x40#32)).group = 1 ∧
    ((framed 2#32).coreAt (frameOwner 0x40#32)).power = .bound ∧ (framed 2#32).handlerFree (frameOwner 0x40#32) = true ∧
    partRun.handlerFree (frameOwner 0x40#32) = false ∧ (part.coreAt (frameOwner 0x8040#32)).group ≠ 1 ∧ part.frameValid 1 0x41#32 = false ∧
    InTask (framed 0#32) ∧ InTask (framed 2#32) ∧ Clear (framed 0#32) [1#4] [] ∧ Clear (framed 2#32) (carriedWith 1#4) [] := by decide +kernel

/-- A task record that starts at the group's kernel slot 0. -/
def taskRec : Rec := (Vector.replicate 16 0#32).set 2 5#32

/-- Two cores of one group, the first with a free task context, the second with a record in its deque. -/
def pair : State :=
  let b : Core := { core with rank := 1, gsize := 2, dq := { bottom := 1#16 }, lm := Mem.setRec 0x7000 taskRec [], mbCount := 1 }
  { part with cores := [(0, { core with gsize := 2, tc0 := {} }), (1, { b with tc0 := {} })],
              groups := [(1, { part.groupAt 1 with cores := [0, 1] })] }

theorem witness_DequeAndSteals : pair.canPop 1 .tc0 = true ∧ pair.malformedRec (pair.coreAt 0).group taskRec = false ∧ pair.canSteal 0 = true ∧
    (pair.coreAt 0).dq.round = none ∧ (pair.accept 1 0 1).groupRuns 1 = true ∧
    ((pair.accept 1 0 1).coreAt 1).group = ((pair.accept 1 0 1).coreAt 0).group ∧ 0 < ((pair.accept 1 0 1).coreAt 1).dq.held ∧
    ((pair.accept 1 1 0).coreAt 0).dq.held = 0 ∧
    (((pair.modCore 0 fun c => { c with dq := { c.dq with thief := some false } }).accept 1 1 0).coreAt 0).dq.thief = some false := by
  decide +kernel

/-- A message of class 16 to a core. -/
def amMsg : AmMsg := { src := ⟨1, .tc0⟩, dst := 0, part := 0, ctx := 1, group := 1, dword := 0#32, words := Vector.replicate 8 0#32 }

/-- The part with a full mailbox. -/
def mailFull : State := partC fun c => { c with mbCount := 32 }

/-- The part with a message of class 16 in its mailbox and a handler for it. -/
def mailed (h : Word) : State :=
  partC fun c => { c with mbCount := 1, hbase := 0x6F00#32, lm := ((c.lm.setWord 0x7800 16#32).setWord (0x6F00 + 64) h) }

theorem witness_ActiveMessages : (let s := partT (regs [16#32, 0#32])
    InTask s ∧ Ready s [2#4, 1#4, 4#4, 5#4, 6#4, 7#4] ∧ 16 ≤ (s.x 1#4).toNat ∧ (s.x 1#4).toNat < 64 ∧ NamesCore (s.x 2#4) ∧ s.task.ocnt.msgs < 63) ∧
    (let s := partT (regs [64#32]); Ready s [2#4, 1#4, 4#4, 5#4, 6#4, 7#4] ∧ 63 < (s.x 1#4).toNat) ∧ (part.x 1#4).toNat < 16 ∧
    amMsg.part = part.partAddr ∧ part.reach amMsg.dst amMsg.ctx false = .here ∧ savedPart.reach amMsg.dst amMsg.ctx false = .hold 1 ∧ (part.coreAt amMsg.dst).mbCount < 32 ∧
    32 ≤ (mailFull.coreAt amMsg.dst).mbCount ∧ (mailed 0x80000004#32).canHandle 0 = true ∧
    ((mailed 0x80000004#32).coreAt 0).lm.word (((mailed 0x80000004#32).coreAt 0).hbase.toNat + 4 * 16) = 0x80000004#32 ∧
    (mailed 0x80000004#32).kernelOf 1 0 ≠ none ∧ (mailed 4#32).canHandle 0 = true ∧ partH.inHandler = true ∧ partH.core.hd.unsent = 0 := by
  decide +kernel

/-! ### The array -/

/-- The part with bank 0 of its core's cluster held by its context, and a bank record. -/
def tiled (f : Bank → Bank) : State :=
  { part with clusters := [(0, { bank0 := f { owner := some 1 }, pslot := (Vector.replicate 16 0#2).set 0 1#2 })] }

/-- A lease held by the task context. -/
def leased (b : Bank) : Bank := { b with held := some (⟨0, .tc0⟩, 3) }

theorem witness_SlotsAndLeases : InTask (tiled id) ∧ BankHeld (tiled id) false ∧ (bankAt (tiled id) false).held = none ∧
    (∀ e ∈ (bankAt (tiled id) false).leases, e.1 ≠ (tiled id).who) ∧ (bankAt (tiled leased) false).held = some (⟨0, .tc0⟩, 3) ∧
    (((tiled fun b => { b with leases := [(⟨0, .tc0⟩, 3)] }).clusterAt 0).bank false).leases = (⟨0, .tc0⟩, 3) :: [] ∧
    ((tiled id).clusterAt 0).slotBank = some false ∧ ((tiled id).groupAt ((tiled id).coreAt 0).group).state = .running ∧
    (part.clusterAt (part.who.core / 16)).bankOf part.core.ctxid = none := by decide +kernel
theorem witness_ArrayCommandsIssue : arrayRow (.mzero 3#3) = some (none, none) ∧ arrayRow (.mld 0#4 5#4 3#3) = some (some 0#4, some 5#4) ∧
    StreamFree (tiled leased) false ∧ Clear (tiled leased) [5#4] [] ∧ (bound (tiled leased) (mapOf 0 16 0)).task.tm[(0#4).toFin] ≠ none ∧
    (tiled leased).task.tm[(0#4).toFin] = none ∧ (part.x 5#4) >>> 20 = 0#32 ∧ (shapeOf (part.x 5#4)).legal = true ∧
    (shapeOf 1#32).legal = false := by decide +kernel

/-- A command at the head of a stream. -/
def cmd (i : Instr) (m : Option Rec) : ArrayCmd := ⟨⟨0, .tc0⟩, 7#16, i, m, 0x00001011#32, false, 0, 1, 1, 0, none⟩

/-- The part with that command at the head. -/
def commanded (c : ArrayCmd) : State := tiled fun b => { leased b with stream := [c] }

theorem witness_ArrayCommandsRun : Heads (commanded (cmd (.mcfg 2#3 5#4) none)) 0 false (cmd (.mcfg 2#3 5#4) none) [] ∧
    (cmd (.mcfg 2#3 5#4) none).op = .mcfg 2#3 5#4 ∧ (cmd (.mzero 2#3) none).op = .mzero 2#3 ∧ (cmd (.pmt 1#3 2#3 3#3) none).op = .pmt 1#3 2#3 3#3 ∧
    (cmd (.pbp 1#3 2#3 3#3) none).op = .pbp 1#3 2#3 3#3 ∧ (cmd (.mst 0#4 5#4 3#3) (some (mapOf 4 16 0))).map = some (mapOf 4 16 0) ∧
    mapEt (mapOf 4 16 0) ≠ (shapeOf (((commanded (cmd (.mst 0#4 5#4 3#3) (some (mapOf 4 16 0)))).clusterAt 0).bank false).mcfg[(3#3).toFin]).code := by
  decide +kernel

/-- A bank whose register 0 has an s32 tile of 32 × 8, 1 an s8 tile of some shape, 2 a tile of weights. -/
def shapes (a w : Word) : Bank := { mcfg := ((((Vector.replicate 8 0#32).set 0 0x000071F4#32).set 1 a).set 2 w) }

theorem witness_ArrayProducts : (let b := shapes 0x000079F0#32 0x0001F1F8#32
      let hd := shapeOf b.mcfg[(0#3).toFin]
      let ha := shapeOf b.mcfg[(1#3).toFin]
      let hw := shapeOf b.mcfg[(2#3).toFin]
      (0#3 ≠ 1#3 ∧ 0#3 ≠ 2#3) ∧ hd.code = 4 ∧ hd.r ≤ 32 ∧ hd.c ≤ 8 ∧ ha.code = 0 ∧ ha.r ≤ 160 ∧ ha.c = hd.c ∧ hw.code = 8 ∧ hd.r ≤ hw.r ∧ ha.r ≤ 5 * hw.c) ∧
    (let b := shapes 0x0003F1F0#32 0x000073F0#32
      let hd := shapeOf b.mcfg[(0#3).toFin]
      let ha := shapeOf b.mcfg[(1#3).toFin]
      let hw := shapeOf b.mcfg[(2#3).toFin]
      hd.code = 4 ∧ ha.code = 0 ∧ ha.r = hd.r ∧ ha.c ≤ 64 ∧ hw.code = 0 ∧ hw.r = ha.c ∧ hw.c = hd.c) := by decide +kernel

/-! ### Transfers -/

/-- The copy registers of sixteen bytes from 0x100 to 0x200 of local memory. -/
def copyRegs (t : TaskCtx) : TaskCtx := { t with cp := #v[0x10#32, 0x100#32, 0x10#32, 0x200#32, 0x00010010#32, 0#32, 0#32, 0#32, 0#32] }

/-- The gather registers of one row to 0x200 of local memory, or of a scatter-add from there. -/
def gatherRegs (code : Nat) (mode : Word) (t : TaskCtx) : TaskCtx :=
  { t with gp := #v[0#32, 0x40#32, 1#32, BitVec.ofNat 32 (code * 256 + 16), 0x200#32, mode, 0#32], tm := t.tm.set 0 (some (mapOf code 16 0)) }

theorem witness_TransferLaunch : Acts part 5#4 ∧ Settled part ∧ part.core.freeSlot = some 0 ∧ (partT copyRegs).task.copyTrap = none ∧
    (partT (gatherRegs 5 0#32)).task.gatherTrap 1 0 = none ∧ (partT (gatherRegs 4 9#32)).task.gatherTrap 1 0 = none ∧
    cpw (partT fun t => { t with cp := t.cp.set 5 3#32 }) 5 % 4 = 3 ∧ part.task.copyTrap ≠ none ∧ part.task.gatherTrap 1 0 ≠ none ∧
    (part.task.gp.toList.getD 2 0#32).toNat % 65536 = 0 ∧ partH.inHandler = true := by decide +kernel

/-- The part with a transfer in slot 2, whose ID, of generation 1, x1 holds. -/
def moving (t : Transfer) : State :=
  (partC fun c => { c with slots := [(2, { t with state := .active, gen := 1#8, launched := true, chunks := 1 })] }).modT (regs [0x102#32])

/-- A copy between local memories, a gather of one row asked for, and a scatter-add. -/
def copying : Transfer := { kind := .copy, sh := [0x10#32, 0x100#32, 0x10#32, 0x200#32, 0x00010010#32, 0#32, 0#32, 0#32, 0#32] }

/-- A gather or a scatter-add of one row whose index is x. -/
def gathering (k : TKind) (code edge x : Nat) (mode : Word) : Transfer :=
  { kind := k, sh := [0#32, 0x40#32, 1#32, BitVec.ofNat 32 (code * 256 + 16), 0x200#32, mode, 0#32],
    srcMap := some (mapOf code 16 edge), asked := [(0, x)], issued := [0], pieces := [(0, 0, 16, none)] }

theorem witness_TransferStatus : InTask (moving copying) ∧ Clear (moving copying) [1#4, 5#4] [] ∧ ((moving copying).x 1#4).toNat < 65536 ∧
    (moving copying).task.held = [] ∧ idStatus (moving copying).core ((moving copying).x 1#4) = 0#32 ∧ idStatus part.core 0x102#32 = 3#32 ∧
    65536 ≤ ((partT (regs [0x10102#32])).x 1#4).toNat := by decide +kernel
theorem witness_CancelledTransfers : idStatus (moving copying).core ((moving copying).x 1#4) = 0#32 ∧
    (let t := (moving copying).core.slotAt 2
     t.tc = ((moving copying).who.ctx == .tc1) ∧ t.state = .active ∧ t.kind ≠ .send ∧ t.kind ≠ .gather ∧ t.stopReq = false ∧ t.fault = none ∧
       t.sent = [] ∧ t.q = false ∧ t.done.length ≠ t.chunks) ∧
    idStatus ((moving copying).modCore 0 fun c => { c with slots := [(2, { c.slotAt 2 with state := .ended, cancelled := true })] }).core 0x102#32 = 2#32 ∧
    ((moving { copying with tc := true }).core.slotAt 2).tc ≠ ((moving copying).who.ctx == .tc1) := by decide +kernel
theorem witness_ChunkEvents : (moving copying).chunkReady 0 2 0 = true ∧ (let t := slotOf (moving copying) 0 2
      t.kind = .copy ∧ t.op = 0 ∧ t.src = .loc 0 0x100 ∧ t.dst = .loc 0 0x200 ∧ codeSize 0 = codeSize 0 ∧ t.state = .active) ∧
    (moving { gathering .scatterAdd 4 0 0 9#32 with landed := [0] }).chunkReady 0 2 0 = true ∧
    (slotOf (moving (gathering .scatterAdd 4 0 0 9#32)) 0 2).kind ≠ .copy ∧
    (slotOf (moving copying) 0 2).writes.find 0 = none ∧
    (slotOf (moving { copying with writes := [(0, 0#4, [(.loc 0x200, [1#8])])] }) 0 2).writes.find 0 = some (0#4, [(.loc 0x200, [1#8])]) := by decide +kernel

/-- A gather of a row of the mapped page of LPDDR under way there. -/
def rows (k : TKind) (code edge x : Nat) (mode : Word) : State :=
  { moving (gathering k code edge x mode) with phys := (paged 0 0 3).phys }

/-- What an engine's read of row 0 answers. -/
def rowRead (s : State) (code : Nat) : Progress × State :=
  s.engineRead (.row 0 2 0) 1 0 (((tableRow (mapOf code 16 0) 1 0 0).filterMap id).map fun a => (a, 4))

/-- What its additions answer. -/
def rowAdd (s : State) (code : Nat) : Progress × State :=
  s.engineAdd (.row 0 2 0) 1 0 4 ((((tableRow (mapOf code 16 0) 1 0 0).filterMap id).zip (List.replicate 16 (leBytes 4 0))))

theorem witness_RowEvents : (moving { gathering .gather 5 0 0 0#32 with asked := [] }).nextRow 0 2 = some 0 ∧
    (slotOf (rows .gather 5 0 0 0#32) 0 2).rowOpen 0 = true ∧ (slotOf (rows .gather 5 0 0 0#32) 0 2).srcMap = some (mapOf 5 16 0) ∧
    (slotOf (rows .gather 5 0 0 0#32) 0 2).dst = .loc 5 0x200 ∧ codeSize 5 = codeSize (mapEt (mapOf 5 16 0)) ∧
    SMap.get 0 (slotOf (rows .gather 5 0 0 0#32) 0 2).asked 0 < viewSize (mapOf 5 16 0) 1 0 / viewExtent (mapOf 5 16 0) 1 0 0 ∧
    (tableRow (mapOf 5 16 0) 1 0 0).length = 16 ∧ (rowRead (rows .gather 5 0 0 0#32) 5).1 = .done (List.replicate 64 0#8) ∧
    (rowRead (rows .gather 5 0 0 0#32) 5).2.cores = (rows .gather 5 0 0 0#32).cores ∧
    viewSize (mapOf 5 16 0) 1 0 / viewExtent (mapOf 5 16 0) 1 0 0 ≤ SMap.get 0 (slotOf (rows .gather 5 0 1 0#32) 0 2).asked 0 ∧
    mapEdge (mapOf 5 16 0) = false ∧ mapEdge (mapOf 5 16 1) = true ∧ (slotOf (rows .scatterAdd 4 0 0 9#32) 0 2).indexBusy 0 0 = false ∧
    bits (slotOf (rows .scatterAdd 4 0 0 9#32) 0 2).mode 1 3 = 4 ∧
    (rowAdd (rows .scatterAdd 4 0 0 9#32) 4).1 = .done [] ∧
    (slotOf (rows .gather 5 0 0 0#32) 0 2).writes.find 0 = none ∧ (slotOf (rows .gather 5 0 0 0#32) 0 2).pieces.find 0 = some (0, 16, none) ∧
    (tableRow (mapOf 5 16 0) 1 0 0) = ((tableRow (mapOf 5 16 0) 1 0 0).filterMap id).map some := by decide +kernel

/-- The same gather where its row lies in a core's window: its owner core is core 0. -/
def owned : State := moving { gathering .gather 5 0 0 0#32 with pieces := [(0, 0, 16, some 0)] }

theorem witness_RowMessages : (slotOf owned 0 2).pieces.find 0 = some (0, 16, some 0) ∧ (slotOf owned 0 2).heard.contains 0 = false ∧
    owned.handlerFree 0 = true ∧ (owned.modCore 0 fun c => { c with hd := { running := true } }).handlerFree 0 = false := by decide +kernel
theorem witness_engineAdd : (let s := rows .scatterAdd 4 0 0 9#32
    s.fetchOf (.row 0 2 0) ⟨0, 0, 4, .add 4 (leBytes 4 0)⟩ = none ∧
      (match s.meet 1 0 .write with | .here _ l => l.kind == 0 | _ => false) = true) := by decide +kernel
theorem witness_TransferStops : (({ moving copying with groups := [(1, { part.groupAt 1 with state := .preempting })] } : State).groupAt 1).state = .preempting ∧
    (moving copying).slotHalf 0 2 = false ∧
    (slotOf (moving copying) 0 2).state = .active ∧ (slotOf (moving copying) 0 2).sent = [] ∧ (slotOf (moving copying) 0 2).fault = none ∧
    (slotOf (moving copying) 0 2).kind ≠ .send := by decide +kernel

/-! ### Barriers -/

/-- An initialised barrier record whose group is expected to arrive e times; word 0 and the other words from 1 on as given. -/
def barRec (w0 : Word) (mask e : Word) : Rec := (((Vector.replicate 16 0#32).set 0 w0).set 2 mask).set 3 e

/-- The part with that record at 0x200 of its core, named by x1; x2 and x3 as given. -/
def barred (r : Rec) (b d : Word := 0#32) : State :=
  (partC fun c => { c with lm := c.lm.setRec 0x200 r }).modT (regs [0x80#32, b, d])

theorem witness_BarrierRecords : (∀ k ∈ some 31, k < 32) ∧ (1#32).toNat < 65536 ∧ (0xC0000000#32).toNat / 2 ^ 29 = 6 ∧
    (0xA0000000#32).toNat / 2 ^ 29 = 5 ∧ (barCredit 0 6 (some 31) (barRec 1#32 0#32 0xFFFE0001#32)).isSome = true ∧
    (barCredit 7 5 (some 0) ((barRec 1#32 0#32 0#32).set 14 7#32 |>.set 15 1#32)).isSome = true := by decide +kernel
theorem witness_BarrierInstructions_group : InTask (barred (barRec 0#32 0#32 0#32)) ∧ Ready (barred (barRec 0#32 0#32 0#32)) [1#4, 2#4, 3#4] ∧
    RefersTo ((barred (barRec 0#32 0#32 0#32)).x 1#4) 0 0x200 ∧ RecordAt (barred (barRec 0#32 0#32 0#32)) 1 0 0x200 (barRec 0#32 0#32 0#32) ∧
    Settled (barred (barRec 0#32 0#32 0#32)) ∧ ((barred (barRec 0#32 0#32 0#32) 0xFFFF#32).x 2#4).toNat < 65536 ∧
    (let s := barred (barRec 1#32 0#32 0#32) 0xFFFF#32 0xA003FFFF#32
     Initialised (barRec 1#32 0#32 0#32) ∧ RecordAt s 1 0 0x200 (barRec 1#32 0#32 0#32) ∧ bits (s.x 3#4).toNat 18 11 = 0 ∧ bits (s.x 3#4).toNat 29 3 < 6) ∧
    (barred (barRec 1#32 0#32 0#32) 1#32 0xC0000000#32).x 3#4 = 0xC0000000#32 := by decide +kernel
theorem witness_BarrierInstructions_arrive : (let s := barred (barRec 1#32 0#32 1#32) 6#32
     RecordAt s 1 0 0x200 (barRec 1#32 0#32 1#32) ∧ (s.x 2#4).toNat ≤ 6 ∧ (barCredit 0 6 none (barRec 1#32 0#32 1#32)).isSome = true ∧ Settled s) ∧
    barCredit 0 6 none (barRec 1#32 0#32 0xFFFF0001#32) = none ∧ barCredit 0 0 none (barRec 1#32 0#32 1#32) = none ∧
    RecordAt (barred (barRec 1#32 0#32 0xFFFF0001#32)) 1 0 0x200 (barRec 1#32 0#32 0xFFFF0001#32) := by decide +kernel
theorem witness_BarrierInstructions_wait : phase (barRec 1#32 0#32 1#32) ≠ ((barred (barRec 1#32 0#32 1#32) 1#32).x 2#4).toNat % 2 ∧
    phase (barRec 9#32 0#32 1#32) = ((barred (barRec 9#32 0#32 1#32)).x 2#4).toNat % 2 ∧ poisoned (barRec 9#32 0#32 1#32) ∧
    RecordAt (barred (barRec 9#32 0#32 1#32)) 1 0 0x200 (barRec 9#32 0#32 1#32) ∧
    phase (barRec 1#32 0#32 1#32) = ((barred (barRec 1#32 0#32 1#32)).x 2#4).toNat % 2 ∧ ¬ poisoned (barRec 1#32 0#32 1#32) ∧
    (barRec 1#32 0#32 1#32)[1] &&& 0#32 = 0#32 ∧ (barRec 1#32 0#32 1#32)[1] &&& 1#32 ≠ 1#32 := by decide +kernel
theorem witness_BarrierInstructions_remote : (let s := partT (regs [0x2080#32, 6#32])
    InTask s ∧ Ready s [1#4, 2#4, 3#4] ∧ RefersTo (s.x 1#4) 1 0x200 ∧ 1 ≠ s.who.core ∧ Settled s ∧ (s.x 2#4).toNat ≤ 6 ∧ s.x 3#4 = 0#32) ∧
    barrierRow (.bwaitm 2#4 3#4 1#4) = some (.bwaitm, 2#4, 3#4, 1#4) ∧
    (let s := partT (regs [0x7FFFFFF8#32]); (s.x 1#4).toNat < 2 ^ 31 ∧ (s.x 1#4).toNat % 16 ≠ 0) ∧
    (let s := partT (regs [0x1C00#32]); 0x7000 < 4 * ((s.x 1#4).toNat % 2 ^ 13) + 64) := by decide +kernel

/-- An operation that comes from core 1 of the same group to the record at 0x200. -/
def barMsg (op : BarOp) (a b : Word) : BarMsg :=
  { src := ⟨1, .tc0⟩, place := .loc 0 0x200, op := op, ref := 0x80#32, rd := 5#4, a := a, b := b, wait := 0, group := 1 }

/-- The state in which it is performed. -/
def barCome (r : Rec) (e : Event) : State := partE e (barred r)

theorem witness_BarrierEvents : (let s := barCome (barRec 1#32 0#32 1#32) (.barrierOperation (barMsg .barr 6#32 0#32))
     let t := s.accept (barMsg .barr 6#32 0#32).group 1 0
     Performs s (.barrierOperation (barMsg .barr 6#32 0#32)) ∧ (0 : Nat) ≠ (barMsg .barr 6#32 0#32).src.core ∧ Initialised (barRec 1#32 0#32 1#32) ∧
       RecordAt t 1 0 0x200 (barRec 1#32 0#32 1#32) ∧ (barCredit 1 6 none (barRec 1#32 0#32 1#32)).isSome = true) ∧
    (barMsg .btest 0#32 0#32).op = .btest ∧ (barMsg .binit 1#32 0#32).op = .binit ∧ (barMsg .bwait 0#32 0#32).place = .loc 0 0x200 ∧
    (let a : Arrival := { from_ := .transfer 0 2, place := .loc 0 0x200, coreid := 0, sel := 6, chunk := some 31, poison := false, group := 1 }
     RecordAt (barCome (barRec 1#32 0#32 1#32) (.engineArrival a)) ((barCome (barRec 1#32 0#32 1#32) (.engineArrival a)).coreAt 0).group 0 0x200
       (barRec 1#32 0#32 1#32) ∧ (barCredit a.coreid a.sel a.chunk (barRec 1#32 0#32 1#32)).isSome = true ∧
       barCredit a.coreid a.sel a.chunk (barRec 1#32 0#32 0xFFFF0001#32) = none) ∧
    (let s := (barred (barRec 1#32 0#32 1#32)).modCore 0 fun c => { c with parkedBar := [barMsg .bwait 0#32 0#32] }
     ∃ m ∈ (s.coreAt 0).parkedBar, m.place = .loc 0 0x200 ∧ m.op = .bwait) := by decide +kernel

/-- Two bound cores, and a DBAR of core 0 that runs in context 0 of its dissemination. -/
def twice (running : Bool) (k : Nat) : State :=
  { part with
    cores := [(0, { core with gsize := 2, dissem := (core.dissem.set 0 { episode := 1#32, round := k, running := running, members := [.core 0, .core 1] }) }),
              (1, { core with rank := 1, gsize := 2 })]
    groups := [(1, { part.groupAt 1 with cores := [0, 1], shape := 0x00010002#32 })] }

/-- A notification of round k from core 1 to core 0, in context 0. -/
def note (s : Bool) (k : Nat) : Notify := { dst := 0, src := 1, ctx := 1, group := 1, c := 0, s := s, k := k, part := 0, there := none }

theorem witness_DisseminationBarriers : InTask part ∧ Ready part [5#4] ∧ (dis part 0 0#2).running = false ∧ Settled part ∧
    (part.participants 0 4).1.length ≤ 1 ∧
    (let s := twice false 0
     InTask s ∧ Ready s [5#4] ∧ (dis s 0 0#2).running = false ∧ Settled s ∧ 1 < (s.participants 0 0).1.length ∧
       (s.participants 0 0).1[((s.participants 0 0).2 + 1) % 2]? = some (.core 1) ∧
       (((dis s 0 0#2).episode + 1#32).getLsbD 0, 0) ∉ (dis s 0 0#2).held) ∧
    (let s := partE (.dbarNotification (note true 0)) (twice true 0)
     Performs s (.dbarNotification (note true 0)) ∧ s.notified (note true 0) = some (1, 0) ∧ (s.groupAt 1).state = .running ∧
       (s.coreAt 0).group = 1 ∧ (dis s 0 0#2).running = true ∧ (note true 0).s = (dis s 0 0#2).episode.getLsbD 0 ∧
       (note true 0).k = (dis s 0 0#2).round ∧ (dis s 0 0#2).members.length ≤ 2 ^ 1 ∧ ¬ (dis s 0 0#2).members.length ≤ 2 ^ 0 ∧
       (dis s 0 0#2).ctx ≠ .handler) ∧
    (dis (twice false 0) 0 0#2).running = false := by decide +kernel

/-! ### The clasp engine -/

/-- The part with a send descriptor at 0x200 of its core, named by x2: w1, the length and w5; x1 the destination word. -/
def sending (w1 len w5 : Word) (dst : Word := 1#32) : State :=
  (partC fun c => { c with lm := ((c.lm.setWord 0x204 w1).setWord 0x210 len).setWord 0x214 w5 }).modT (regs [dst, 0x200#32])

/-- The same with an earlier SEND of the channel in slot 2 whose header has been answered RNR. -/
def sendingHeld : State :=
  let s := sending 0x10#32 4096#32 0#32
  let t : Transfer := { state := .active, launched := true, kind := .send, order := 5, phase := .rnr, header := (sendHere s 2#4 5#4 1#4).header }
  { s.modCore 0 fun c => { c with slots := [(2, t)] } with launchCount := 6 }

theorem witness_SendIssues : (let s := sending 0x10#32 4096#32 0#32
     InTask s ∧ Ready s [1#4, 2#4, 5#4] ∧ SendGoes s 2#4 5#4 1#4 0 ∧ (sendHere s 2#4 5#4 1#4).sendLoc = true ∧ (s.x 1#4).toNat < 1024 ∧
       s.task.waiting = false ∧ s.channelHeld s.who.core (sendHere s 2#4 5#4 1#4) = false) ∧
    (let s := sendingHeld; InTask s ∧ Ready s [1#4, 2#4, 5#4] ∧ SendGoes s 2#4 5#4 1#4 0 ∧ (sendHere s 2#4 5#4 1#4).sendLoc = true ∧
       (s.x 1#4).toNat < 1024 ∧ s.task.waiting = false ∧ s.channelHeld s.who.core (sendHere s 2#4 5#4 1#4) = true) ∧
    2 ^ 23 ≤ ((sending 0#32 0#32 0#32 0x800000#32).x 1#4).toNat ∧
    (let s := partT (regs [1023#32, 0x7FE1#32]); (s.x 1#4).toNat < 1024 ∧ 0x7FE0 < (s.x 2#4).toNat) ∧
    (let s := partT (regs [1023#32, 0x7FDF#32]); (s.x 2#4).toNat ≤ 0x7FE0 ∧ (s.x 2#4).toNat % 32 ≠ 0) ∧
    (let s := sending 0x10#32 4#32 0x80#32
     (s.x 2#4).toNat % 32 = 0 ∧ (s.core.lm.word ((s.x 2#4).toNat + 20)).setWidth 8 ≠ 0#8 ∧
       (∀ i, i < 20 → s.core.lm.byte ((s.x 2#4).toNat + i) &&& (wordBytes sendReserved).getD i 0#8 = 0#8) ∧
       goodLen (s.core.lm.word ((s.x 2#4).toNat + 16)).toNat = true ∧
       ((sendHere s 2#4 5#4 1#4).sendLoc = true → bits ((sendHere s 2#4 5#4 1#4).w 1) 0 4 = 0)) := by decide +kernel

/-- A header of core 0 to its own context, of a length, with its payload when that is eager. -/
def header (len : Nat) : Header :=
  { spart := 0, sid := 0#20, sctx := 1, score := 0, slot := 5, dpart := 0, dctx := 1, tag := 9#32, len := len, trig := none,
    eager := if len ≤ 4096 then some (List.replicate len 1#8) else none, resend := false, ring := none }

/-- The part with a SEND of local memory in slot 2, launched as number 5. -/
def sent (ph : SendPhase) (len : Word) : State :=
  partC fun c => { c with slots := [(2, { state := .active, gen := 1#8, launched := true, kind := .send, order := 5, phase := ph, rd := 5#4,
                                          sh := [0#32, 0x10#32, 0#32, 0x200#32, len], header := some (header len.toNat) })] }

theorem witness_SendsGoOn : (let s := partE (.sendAnswer 0 5 false .admitted) (sent .asking 4097#32)
     Performs s (.sendAnswer 0 5 false .admitted) ∧ SendIs s 0 5 2 .asking ∧ 4096 < (slotOf s 0 2).sendLen ∧ (slotOf s 0 2).stopReq = false) ∧
    (SendIs (sent .asking 4096#32) 0 5 2 .asking ∧ (slotOf (sent .asking 4096#32) 0 2).sendLen ≤ 4096 ∧
       (slotOf (sent .asking 4096#32) 0 2).fault = none ∧ (slotOf (sent .asking 4096#32) 0 2).q = false) ∧
    ((sent .held 8#32).canSend 0 2 = true ∧ (slotOf (sent .held 8#32) 0 2).header = some (header 8)) ∧
    ((sent .rnr 8#32).canResend 0 2 = true ∧ (slotOf (sent .rnr 8#32) 0 2).header = some (header 8) ∧
       (header 8).dpart = (sent .rnr 8#32).partAddr ∧ (sent .rnr 8#32).headerFault (header 8) = none ∧ (slotOf (sent .rnr 8#32) 0 2).fault = none) ∧
    ((sent .admitted 8192#32).sendHome 0 5 = .here 2 ∧ (slotOf (sent .admitted 8192#32) 0 2).state ≠ .saved ∧
       (slotOf (sent .admitted 8192#32) 0 2).sendLoc = true) := by decide +kernel

/-- The part whose context has the posted receive r in entry 3 and room for n pages of unexpected messages. -/
def posting (r : Receive) (n : Nat := 0) : State :=
  { part with clasps := [(1, { list := [(3, r)] })], contexts := [(1, { part.contextAt 1 with ursize := n, rlcap := 4096 })] }

/-- A receive of any message of tag 9 into the mapped words. -/
def receive : Receive :=
  { posted := true, words := [9#32, 0xFFFFFFFF#32, 0#32, 0#32, 0#32, 0#32, 64#32, 0#32], map := some (mapOf 5 16 0), gsize := 1, poster := 0, addr := 0x240 }

theorem witness_HeadersAreAnswered : (let s := partE (.sendHeader (header 64)) (posting receive)
     Performs s (.sendHeader (header 64)) ∧ (header 64).spart = s.partAddr ∧ s.refuses (header 64) = false ∧
       (s.claspAt 1).matching (header 64) = some (3, receive)) ∧
    part.refuses { header 64 with dctx := 2 } = true ∧
    ((posting { receive with posted := false } 1).claspAt 1).matching (header 64) = none ∧
    (posting { receive with posted := false } 1).regionUsed 1 + (header 4032).space = ((posting receive 1).contextAt 1).ursize * 4096 ∧
    ((posting receive 0).contextAt 1).ursize * 4096 < (posting receive 0).regionUsed 1 + (header 64).space := by decide +kernel

/-- A landing of an eager message of 64 bytes, its page present. -/
def landing (l : Land) : State := { (posting { receive with posted := false }) with lands := [(7, l)], phys := (paged 0 0 3).phys }

/-- The landing itself. -/
def land : Land := { ctx := 1, entry := 3, recv := { receive with posted := false }, header := header 64 }

theorem witness_LandingsComplete : (landing land).lands.find 7 = some land ∧ land.fault = none ∧ land.stopped = false ∧
    (landing land).landHeld land = false ∧ land.recv.bar = false ∧ (land.writes 0 (List.replicate 64 1#8)).isSome = true ∧ land.header.eager ≠ none ∧
    0 ∉ land.done ∧
    (let r := (landing land).engineWrite (.landing 7 0) 1 ((land.recv.map.map mapReuse).getD 0) ((land.writes 0 (List.replicate 64 1#8)).getD [])
     r.1 = .done [] ∧ r.2.lands = (landing land).lands) ∧
    land.told = false ∧ ((landing land).coreAt land.recv.poster).group ≠ 0 ∧ ((landing land).coreAt land.recv.poster).ctxid = land.ctx ∧
    ((landing land).coreAt land.recv.poster).power = .bound ∧
    (landing { land with told := true }).lands.find 7 = some { land with told := true } ∧
    (landing { land with told := true }).tagWaits { land with told := true } = false ∧
    ((landing { land with told := true }).claspAt 1).rq.length < 8192 := by decide +kernel

/-- The part about to post the receive descriptor at 0x240, named by x1, its binding in slot 0; a queued message of tag t. -/
def posts (t : Word) : State :=
  ((bound (posting {} 1) (mapOf 5 16 0)).modCore 0 fun c =>
    { c with lm := ((c.lm.setWord 0x240 9#32).setWord 0x244 0xFFFFFFFF#32).setWord 0x258 64#32 }).modT (regs [0x240#32]) |>.modClasp 1 fun c =>
      { c with queue := [{ header 64 with tag := t }], list := [(0, { receive with gen := 2#4 })] }

theorem witness_ReceivesAndRecords : InTask (posts 9#32) ∧ Ready (posts 9#32) [1#4, 5#4] ∧ Settled (posts 9#32) ∧
    (posts 9#32).rpostTrap ((posts 9#32).x 1#4) (descriptorAt (posts 9#32) ((posts 9#32).x 1#4)) = none ∧ (posts 9#32).freeEntry 1 = some 1 ∧
    ((posts 9#32).claspAt 1).queue.find? (matchesWords (descriptorAt (posts 9#32) ((posts 9#32).x 1#4))) = some { header 64 with tag := 9#32 } ∧
    (∀ h ∈ ((posts 8#32).claspAt 1).queue, matchesWords (descriptorAt (posts 8#32) ((posts 8#32).x 1#4)) h = false) ∧
    ((posts 8#32).x 1#4).toNat % 64 = 0 ∧ ((posts 8#32).x 1#4).toNat < 0x8000 ∧
    65536 ≤ ((partT (regs [0x10000#32])).x 1#4).toNat ∧
    (let s := (posts 9#32).modT (regs [0x2000#32])
     let r : Receive := SMap.get {} (s.claspAt s.core.ctxid).list ((s.x 1#4).toNat % 4096)
     (r.words ≠ [] ∧ r.gen.toNat = (s.x 1#4).toNat / 4096 ∧ r.cancelled = false) ∧ r.posted = true) ∧
    (let s := (posting { receive with posted := false }).modT (regs [3#32])
     let r : Receive := SMap.get {} (s.claspAt s.core.ctxid).list ((s.x 1#4).toNat % 4096)
     (r.words ≠ [] ∧ r.gen.toNat = (s.x 1#4).toNat / 4096 ∧ r.cancelled = false) ∧ r.posted = false) ∧
    (SMap.get {} (part.claspAt 1).list 0 : Receive).words = [] ∧ Acts part 5#4 ∧ (part.claspAt 1).rq = [] ∧
    (({ part with clasps := [(1, { rq := [7#32] })] } : State).claspAt 1).rq = 7#32 :: [] ∧
    bezel 1 = false ∧ bezel part.who.core = true ∧
    (let s : State := { part with groups := [(1, { part.groupAt 1 with args := List.replicate 15 1#32 })] }
     (s.groupAt s.core.group).bq < ((s.groupAt s.core.group).args.getD 14 0#32).toNat) := by decide +kernel

/-! ### Answers, departures, the fabric -/

/-- A negative answer to the task context of core 0. -/
def nack (k : NackKind) : Nack := ⟨⟨0, .tc0⟩, k, .remoteUnreachable, 7#32, 1⟩

/-- A record delivered to core 0. -/
def delivery : Delivery := ⟨0, 1, taskRec, none, none, [], []⟩

theorem witness_AnswersAndDeliveries : Performs (partE (.remoteNack (nack .store))) (.remoteNack (nack .store)) ∧ AnswersCore part (nack .store) ∧
    (nack .store).to_.ctx ≠ .handler ∧ (nack (.load (.x 5#4) false true)).kind = .load (.x 5#4) false true ∧ (5#4 : BitVec 4) ≠ 0#4 ∧
    (nack .message).kind = .message ∧ (nack (.join 1)).kind = .join 1 ∧ (part.groupAt (nack (.join 1)).group).state ≠ .saved ∧
    (({ part with groups := [(1, { part.groupAt 1 with state := .saved })] } : State).groupAt (nack .store).group).state = .saved ∧
    (part.coreAt ({ nack .store with group := 2 } : Nack).to_.core).group ≠ ({ nack .store with group := 2 } : Nack).group ∧ Performs (partE (.feWake (.feLoad ⟨0, .tc1⟩ 5#4 1#32 3 1))) (.feWake (.feLoad ⟨0, .tc1⟩ 5#4 1#32 3 1)) ∧
    Performs (partE (.feWake (.feStore ⟨0, .tc0⟩ 3 1))) (.feWake (.feStore ⟨0, .tc0⟩ 3 1)) ∧ (part.coreAt delivery.dst).group = delivery.group ∧ delivery.group ≠ 0 ∧
    TakesNow part delivery.group ∧ part.deliverTo delivery = some 0 ∧ part.deliverTo { delivery with group := 2 } = none ∧
    ¬ TakesNow ({ part with groups := [(1, { part.groupAt 1 with state := .preempting })] } : State) delivery.group ∧
    (part.coreAt delivery.dst).power = .bound ∧
    (let c := (partC fun c => { c with dq := { bottom := 31#16 } }).coreAt delivery.dst; c.dq.held + c.dq.reserved.toNat < 32) ∧
    delivery.fail = none ∧ delivery.part = none ∧
    (let c := (partC fun c => { c with dq := { bottom := 31#16, reserved := true } }).coreAt delivery.dst; 32 ≤ c.dq.held + c.dq.reserved.toNat) := by
  decide +kernel
theorem witness_CoresAndTasksLeave : (let s := partC fun c => { c with tc0 := { run := .left }, tc1 := { run := .left } }
     (s.coreAt 0).power = .bound ∧ (s.coreAt 0).tc0.run = .left ∧ (s.coreAt 0).tc1.run = .left ∧ (s.coreAt 0).quiet = true ∧ (s.coreAt 0).succ = none) ∧
    (let s := partC fun c => { c with tc0 := { run := .left }, tc1 := { run := .left }, succ := some 0#2 }
     (s.coreAt 0).quiet = true ∧ (s.coreAt 0).succ ≠ none) ∧
    (let s := partC fun c => { c with power := .reserved, succ := some 1#2 }
     (s.coreAt 0).power = .reserved ∧ (s.groupAt (s.coreAt 0).group).state = .running ∧ (s.coreAt 0).succ = some 1#2) ∧
    (let s : State := { (partT fun t => { t with follow := some 3 }) with
                          contexts := [(1, { part.contextAt 1 with follow := [(3, (1, 1))] })], dims := #v[1, 1, 1, 4], feats := 8#128 }
     let t := s.taskAt ⟨0, .tc0⟩
     t.follow = some 3 ∧ t.run = .running ∧ t.ocnt.loads = 0 ∧ t.ocnt.stores = 0 ∧ t.ocnt.msgs = 0 ∧ t.ocnt.cmds = 0 ∧ (∀ tk ∈ t.tokens, tk.f = none) ∧
       s.mayMigrate ⟨0, .tc0⟩ 3 = true) := by decide +kernel
theorem witness_FabricEvents : handedTo (.am amMsg) = some (.mailboxArrival amMsg) ∧
    (let a : Access := { acc .read with elems := [(0, 0x10000)] }
     Performs (partE (.fabricRequest (.access 3 0 0 a))) (.fabricRequest (.access 3 0 0 a)) ∧ a.elems = [(0, 0x10000)] ∧ a.op = .read ∧
       part.movedTo 0x10000 = none ∧ part.framePoisoned 0x10000 = false ∧ part.servedHere 0x10000 a.size = true ∧ part.servedHere (2 ^ 47) a.size = false ∧
       part.frameLine 0x10000 = none) ∧
    (let s : State := { part with away := [(4, ⟨acc .read, [], some 3, false⟩)] }
     Performs (partE (.retryResend (.access 3 4 0 (acc .read))) s) (.retryResend (.access 3 4 0 (acc .read))) ∧ s.homeOf 4 = some 3) ∧
    2 ∉ part.portsDown ∧ part.outstandingTo 3 = false := by decide +kernel

/-! ### Queues and dispatch -/

/-- The part with queue 5 of its context as changed, bound in slot 0, its ring on the mapped page, the packet r at ri, and a trigger entry 16. -/
def queue (r : Rec) (f : Queue → Queue := id) (t : Trigger := {}) : State :=
  { paged 0 0 3 with
    queues := [(5, f { state := .bound, ctxid := 1#10, wi := 1#32 })]
    hwSlots := [(0, { v := true, queue := 5, ctxid := 1#10 })]
    contexts := [(1, { part.contextAt 1 with trigBase := 16, trigCnt := 16 })]
    triggers := [(16, t)]
    phys := Mem.setRec 0x10000 r (paged 0 0 3).phys }

/-- A packet of words; a word not given is 0. -/
def pkt (ws : List Word) : Rec := ws.zipIdx.foldl (fun r e => r.set! e.2 e.1) (Vector.replicate 16 0#32)

theorem witness_QueueCommands : ((queue (pkt []) fun u => { u with state := .disabled }).queueAt 5).state = .disabled ∧
    ((queue (pkt []) fun u => { u with prod := true }).queueAt 5).prod = true ∧
    (let u := (queue (pkt [])).queueAt 5
     u.state ≠ .disabled ∧ u.state ≠ .error ∧ u.prod = false ∧ 2 ^ (u.lsize.toNat + 4) < (17#32 - u.ri).toNat ∧
       (1#32 - u.ri).toNat ≤ (u.wi - u.ri).toNat ∧ (16#32 - u.ri).toNat ≤ 2 ^ (u.lsize.toNat + 4) ∧ (u.wi - u.ri).toNat < (2#32 - u.ri).toNat) ∧
    ((queue (pkt [])).queueAt 5).state = .bound ∧
    (let s := queue (pkt []) fun u => { u with state := .suspended }
     (s.queueAt 5).state = .suspended ∧ (s.queueAt 5).wi ≠ (s.queueAt 5).ri ∧ (∀ e ∈ s.triggers, e.2.state ≠ .waiting)) ∧
    (let s := queue (pkt []) fun u => { u with state := .disabled, lsize := 12#4 }
     (s.queueAt 5).lsize.toNat ≤ 12 ∧ (s.queueAt 5).base.toNat % 4096 = 0 ∧ (s.contextAt (s.queueAt 5).ctxid.toNat).state = .running) ∧
    (let s := queue (pkt []) fun u => { u with disabling := true }
     (s.queueAt 5).disabling = true ∧ (s.queueAt 5).inflight = 0 ∧ (s.queueAt 5).state ≠ .disabled) := by decide +kernel
theorem witness_Scheduling : (let s : State := { queue (pkt []) (fun u => { u with state := .pending }) with hwSlots := [] }
     s.firmware.role ≠ .importing ∧ (∀ e ∈ s.queues, e.2.state ≠ .bound ∧ e.2.reprio = false) ∧ s.hwSlots = [] ∧ (5, s.queueAt 5) ∈ s.queues ∧
       (s.queues.map (·.1)).Nodup ∧ (s.queueAt 5).state = .pending ∧ (∀ e ∈ s.queues, e.1 ≠ 5 → e.2.state ≠ .pending) ∧
       0 < (s.contextAt (s.queueAt 5).ctxid.toNat).quota) ∧
    (let s := queue (pkt []) fun u => { u with state := .pending }
     (s.queueAt 5).state = .pending ∧ (s.queueAt 5).wi ≠ (s.queueAt 5).ri ∧
       (s.engineRead (.hub 5 0) 1 0 [((s.queueAt 5).base.toNat, 4)]).1 = .done (List.replicate 4 0#8)) ∧
    (let s : State := { queue (pkt []) with hwSlots := [(0, { v := true, queue := 5, ctxid := 1#10, stopping := true })] }
     (SMap.get {} s.hwSlots 0 : HwSlot).v = true ∧ (SMap.get {} s.hwSlots 0 : HwSlot).stopping = true ∧ (s.queueAt (SMap.get {} s.hwSlots 0 : HwSlot).queue).acting = none) ∧
    ((queue (pkt [])).queueAt 5).state = .bound ∧ ((queue (pkt [])).queueAt 5).eligible = false := by decide +kernel

/-- An image of core 0's task context for queue 5. -/
def enqMsg (local_ : Bool) : EnqMsg :=
  { src := ⟨0, .tc0⟩, rd := 5#4, ref := 5#32, queue := 5, img := pkt [6#32], spart := if local_ then 0 else 3, sctx := 1, local_ := local_ }

/-- The part with queue 5 taking ENQ, holding n packets. -/
def prod (n : Word) : State := queue (pkt []) fun u => { u with prod := true, wi := n }

theorem witness_Enqueues : (let s := (prod 0#32).modT (regs [5#32, 0x7FC0#32])
     InTask s ∧ Ready s [1#4, 2#4, 5#4] ∧ Settled s ∧ (s.x 1#4).toNat < 4096 ∧ (s.x 2#4).toNat ≤ 0x7FC0 ∧ (s.x 2#4).toNat % 4 = 0 ∧
       (s.queueAt (s.x 1#4).toNat).ctxid.toNat = s.core.ctxid) ∧
    0x7FC0 < ((partT (regs [5#32, 0x7FC1#32])).x 2#4).toNat ∧ ((partT (regs [5#32, 0x7FBF#32])).x 2#4).toNat % 4 ≠ 0 ∧
    (part.queueAt (part.x 1#4).toNat).ctxid.toNat ≠ part.core.ctxid ∧ (enqMsg true).local_ = true ∧
    ((part.queueAt 5).state = .disabled) ∧ ((queue (pkt [])).queueAt 5).prod = false ∧
    (let u := (prod 16#32).queueAt 5; u.state ≠ .disabled ∧ u.prod = true ∧ (u.wi - u.ri).toNat = 2 ^ (u.lsize.toNat + 4)) ∧
    (let s := prod 15#32
     let u := s.queueAt 5
     u.state ≠ .disabled ∧ u.prod = true ∧ (u.wi - u.ri).toNat ≠ 2 ^ (u.lsize.toNat + 4) ∧ s.fetches = [] ∧
       (let r := s.engineWrite (.enq 0 0 .tc0) u.ctxid.toNat 0 [(u.base.toNat + 64 * (u.wi.toNat % 2 ^ (u.lsize.toNat + 4)),
          wordBytes ((enqMsg true).img.set 0 (BitVec.ofNat 32 (setBits (enqMsg true).img[0].toNat 8 16 u.wi.toNat))).toList)]
        r.1 = .done [] ∧ r.2.queues = s.queues)) ∧
    (enqMsg false).local_ = false ∧ ((prod 0#32).queueAt 5).admits (enqMsg false).spart (enqMsg false).sctx = false ∧
    ((partT fun t => { t with run := .stalled .answer }).taskAt ⟨0, .tc0⟩).run = .stalled .answer := by decide +kernel

/-- An armed entry that names queue 5 and waits for two arrivals, n of them counted. -/
def armed (n : Word) : Trigger := { state := .armed, count := n, thresh := 2#32, queue := 5#12, image := pkt [6#32] }

theorem witness_Triggers : (prod 0#32).triggerOwner 15 ≠ some 1 ∧ (prod 0#32).triggerOwner 16 = some 1 ∧
    (SMap.get {} (prod 0#32).triggers 16 : Trigger).state = .free ∧ (armed 0#32).count + 1#32 = 1#32 ∧ (1#32).toNat < (armed 0#32).thresh.toNat ∧
    (armed 1#32).state ≠ .free ∧ (armed 1#32).thresh.toNat ≤ ((armed 1#32).count + 1#32).toNat ∧
    (let u := (prod 16#32).queueAt (armed 1#32).queue.toNat; u.state ≠ .disabled ∧ u.prod = true ∧ (u.wi - u.ri).toNat = 2 ^ (u.lsize.toNat + 4)) ∧
    ((queue (pkt [])).queueAt (armed 1#32).queue.toNat).prod = false ∧
    (let s := queue (pkt []) (fun u => { u with prod := true, wi := 15#32 }) (armed 1#32)
     let u := s.queueAt 5
     s.fetches = [] ∧
       (let r := ({ s with triggers := s.triggers.put 16 { armed 1#32 with count := 2#32 } } : State).engineWrite (.inject 16) u.ctxid.toNat 0
          [(u.base.toNat + 64 * (u.wi.toNat % 2 ^ (u.lsize.toNat + 4)), wordBytes ((armed 1#32).image.set 0 (BitVec.ofNat 32
            (setBits (armed 1#32).image[0].toNat 8 16 u.wi.toNat))).toList)]
        r.1 = .done [] ∧ r.2.queues = s.queues ∧ r.2.triggers = s.triggers.put 16 { armed 1#32 with count := 2#32 })) := by decide +kernel
/-- The state after the ring of that queue has been read. -/
def seen (r : Rec) (f : Queue → Queue := id) : State := ((queue r f).examine 5).2

theorem witness_PacketsAreExamined : PacketIs (queue (pkt [7#32])) 5 (pkt [7#32]) (seen (pkt [7#32])) ∧ ((seen (pkt [7#32])).queueAt 5).state = .bound ∧
    6 < (pkt [7#32])[0].toNat % 256 ∧ (pkt [0#32])[0].toNat % 256 = 0 ∧
    PacketIs (queue (pkt [0x02000006#32])) 5 (pkt [0x02000006#32]) (seen (pkt [0x02000006#32])) ∧ (pkt [0x02000006#32])[0].toNat % 256 = 6 ∧
    (pkt [0x02000006#32])[0].getLsbD 25 = true ∧
    (queue (pkt [0x106#32])).examine 5 = (.stale 1, seen (pkt [0x106#32])) ∧ ((seen (pkt [0x106#32])).queueAt 5).stale = 0#32 ∧
    (let f (u : Queue) : Queue := { u with stale := 17#32 }
     (queue (pkt [0x106#32]) f).examine 5 = (.stale 1, seen (pkt [0x106#32]) f) ∧ ((seen (pkt [0x106#32]) f).queueAt 5).stale.toNat % 2 = 1 ∧
       ((seen (pkt [0x106#32]) f).queueAt 5).stale.toNat < 19) ∧
    (let f (u : Queue) : Queue := { u with stale := 19#32 }
     (queue (pkt [0x106#32]) f).examine 5 = (.stale 1, seen (pkt [0x106#32]) f) ∧ ((seen (pkt [0x106#32]) f).queueAt 5).stale = 19#32) ∧
    (let s := seen (pkt [6#32])
     let r := s.engineWrite (.hub 5 (s.queueAt 5).ri.toNat) (s.queueAt 5).ctxid.toNat 0 (stampWrite (s.queueAt 5))
     r.1 = .done [] ∧ r.2.queues = s.queues ∧ (∀ e ∈ r.2.triggers, e.2.state ≠ .waiting)) ∧
    packetB (pkt [0x01000006#32]) = true ∧ ((queue (pkt []) fun u => { u with inflight := 1 }).queueAt 5).inflight ≠ 0 := by decide +kernel

/-- Packets of each type: a SIGNAL that adds 2 at 0x100 and raises vector 3, a WAITDEP for that cell, an ARM of entry 16 with the image at 0x200, a COPY of 32
bytes, a LAUNCH of node 0 of binary 1. -/
def signalPkt : Rec := pkt [3#32, 0x00030005#32, 0x100#32, 0#32, 2#32]
def waitPkt (v : Word) : Rec := pkt [2#32, 0x1#32, 0x100#32, v <<< 16, v >>> 16]
def armPkt : Rec := pkt [4#32, 16#32, 2#32, 5#32, 0x200#32]
def copyPkt : Rec := pkt [5#32, 32#32, 0x100#32, 0#32, 0x140#32]
def launchPkt : Rec := pkt [1#32, 1#32, 0xFFFFFF00#32, 1#32]

/-- A copy under way: n bytes of 32 copied. -/
def hubCopying (n : Nat) : State := { queue copyPkt with hubCopies := [{ queue := 5, idx := 0, packet := copyPkt, copied := n }] }

theorem witness_PacketsAct_nop : PacketIs (queue (pkt [6#32])) 5 (pkt [6#32]) (seen (pkt [6#32])) ∧ HeaderGood (pkt [6#32]) ∧
    (pkt [6#32])[0].toNat % 256 = 6 ∧ (pkt [6#32])[0].getLsbD 25 = false ∧ Ungated (seen (pkt [6#32])) 5 (pkt [6#32]) := by decide +kernel
theorem witness_PacketsAct_signal : PacketIs (queue signalPkt) 5 signalPkt (seen signalPkt) ∧ ((queue signalPkt).queueAt 5).acting = none ∧
    (((queue signalPkt) |> State.modQueue 5 fun u => { u with acting := some (0#32, signalPkt) }).queueAt 5).acting = some (0#32, signalPkt) ∧ HeaderGood signalPkt ∧ signalPkt[0].toNat % 256 = 3 ∧
    signalPkt[0].getLsbD 25 = false ∧ Ungated (seen signalPkt) 5 signalPkt ∧ (∀ i, (h : i < 16) → 6 ≤ i → signalPkt[i] = 0#32) ∧
    signalPkt[3].toNat < 65536 ∧ signalPkt[1].toNat &&& 0xF800FFF8 = 0 ∧ signalPkt[1].toNat % 4 < 2 ∧ signalPkt[2].toNat % 8 = 0 ∧
    ((seen signalPkt).engineWrite (.hub 5 0) 1 0 (stampWrite ((seen signalPkt).queueAt 5))).1 = .done [] ∧
    (match ((seen signalPkt).signalWrite (.hub 5 0) 1 0x100 false 2#64).1 with | .done _ => true | _ => false) = true := by decide +kernel
theorem witness_PacketsAct_waitdep : (let f (u : Queue) : Queue := { u with waitW := true }
     PacketIs (queue (waitPkt 0#32) f) 5 (waitPkt 0#32) (seen (waitPkt 0#32) f) ∧ ((queue (waitPkt 0#32) f).queueAt 5).waitW = true ∧
       HeaderGood (waitPkt 0#32) ∧ Ungated (seen (waitPkt 0#32) f) 5 (waitPkt 0#32) ∧
       (waitPkt 0#32)[0].toNat % 256 = 2 ∧ (waitPkt 0#32)[0].getLsbD 25 = false ∧ (waitPkt 0#32)[1].toNat < 256 ∧ waitUnused (waitPkt 0#32) = [] ∧
       (waitPkt 0#32)[1].toNat % 16 = 1 ∧ (waitSignal (waitPkt 0#32) 0).1 % 8 = 0 ∧
       ((seen (waitPkt 0#32) f).engineRead (.hub 5 0) 1 0 [((waitSignal (waitPkt 0#32) 0).1, 8)]).1 = .done (List.replicate 8 0#8) ∧
       (waitSignal (waitPkt 0#32) 0).2.toNat ≤ leNat (List.replicate 8 0#8)) ∧
    ¬ (waitSignal (waitPkt 1#32) 0).2.toNat ≤ leNat (List.replicate 8 0#8) := by decide +kernel
theorem witness_PacketsAct_arm : PacketIs (queue armPkt) 5 armPkt (seen armPkt) ∧ HeaderGood armPkt ∧ armPkt[0].toNat % 256 = 4 ∧ armPkt[0].getLsbD 25 = false ∧
    lowestFailing armPkt.toList (0xF8000000#32 :: armReserved) [] = none ∧
    (∀ i, (h : i < 16) → 6 ≤ i → armPkt[i] = 0#32) ∧ (seen armPkt).triggerOwner (armPkt[1].toNat % 1024) = some ((seen armPkt).queueAt 5).ctxid.toNat ∧
    ((seen armPkt).queueAt (armPkt[3].toNat % 4096)).ctxid = ((seen armPkt).queueAt 5).ctxid ∧
    (SMap.get {} (seen armPkt).triggers (armPkt[1].toNat % 1024) : Trigger).state = .free ∧ armPkt[2] ≠ 0#32 ∧
    (let v := (seen armPkt).engineRead (.hub 5 0) 1 0 [(recVa armPkt 4 5, 64)]
     v.1 = .done (List.replicate 64 0#8) ∧ Ungated v.2 5 armPkt) ∧
    packetType (recOfBytes (List.replicate 64 0#8)) ≠ 4 := by decide +kernel
theorem witness_PacketsAct_copy : PacketIs (queue copyPkt) 5 copyPkt (seen copyPkt) ∧ HeaderGood copyPkt ∧ copyPkt[0].toNat % 256 = 5 ∧
    copyPkt[0].getLsbD 25 = false ∧
    Ungated (seen copyPkt) 5 copyPkt ∧ lowestFailing copyPkt.toList (0xF8000000#32 :: copyReserved) [] = none ∧ goodLen copyPkt[1].toNat = true ∧
    recVa copyPkt 2 3 % 4 = 0 ∧ recVa copyPkt 4 5 % 4 = 0 ∧ ((seen copyPkt).queueAt 5).inflight < ((seen copyPkt).queueAt 5).most ∧
    ((hubCopying 32).hubCopies.find? fun c => c.queue == 5 && c.idx == (0#32).toNat) = some { queue := 5, idx := 0, packet := copyPkt, copied := 32 } ∧
    r1 { queue := 5, idx := 0, packet := copyPkt, copied := 32 } ≤ 32 ∧ packetS copyPkt = false ∧
    (let r := (hubCopying 0).engineRead (.copy 5 0) 1 0 [(0x100, 32)]
     r.1 = .done (List.replicate 32 0#8) ∧
       (let w := r.2.engineWrite (.copy 5 0) 1 0 [(0x140, List.replicate 32 0#8)]
        w.1 = .done [] ∧ w.2.hubCopies = (hubCopying 0).hubCopies)) := by decide +kernel
theorem witness_PacketsAct_launch : PacketIs (queue launchPkt) 5 launchPkt (seen launchPkt) ∧ HeaderGood launchPkt ∧ launchPkt[0].toNat % 256 = 1 ∧
    lowestFailing launchPkt.toList (0xF8000000#32 :: launchReserved) [] = none ∧
    ((seen launchPkt).launchAccess 1 launchPkt).filterMap id = [] ∧
    (let v := (seen launchPkt).engineRead (.hub 5 0) 1 0 [(recVa launchPkt 5 6, launchPkt[4].toNat % 8192)]
     v.1 = .done [] ∧ Ungated v.2 5 launchPkt ∧ (v.2.queueAt 5).inflight < (v.2.queueAt 5).most ∧
       (v.2.launchChecks 1 launchPkt []).filterMap id = []) := by decide +kernel

/-! ### Groups -/

/-- The record that binds group 2 to core 1 of die 0. -/
def bindRec (rs : Word := 0#32) : Rec := pkt [0x201#32 ||| rs, 1#32, 1#32, 1#32, 0x2001#32, 1#32, 0xFFFFFF00#32]

/-- The part with a second group, of one core, as changed. -/
def grouped (f : Group → Group) (core1 : Core := {}) : State :=
  { part with
    groups := [(1, part.groupAt 1), (2, f { state := .requested, ctx := 1, handle := 1, nodes := 0xFFFFFF00#32, shape := 1#32 })]
    cores := [(0, core), (1, core1)] }

/-- A core of that group in a power state. -/
def core1 (p : Power) : Core := { core with power := p, group := 2, tc0 := {} }

theorem witness_GroupsBind : recordMalformed (pkt []) = true ∧
    (let s := grouped id
     recordMalformed bindRec = false ∧ s.firmware.role ≠ .importing ∧ s.ckpt = none ∧ s.recordFits 2 bindRec = true ∧ bindRec[0].getLsbD 1 = false ∧
       (s.groupAt 2).state = .requested ∧ (s.contextAt (s.groupAt 2).ctx).state = .running ∧ s.victims = []) ∧
    (let s := grouped (fun g => { g with state := .binding, cores := [1] }) (core1 .binding)
     (s.groupAt 2).state = .binding ∧ (s.groupAt 2).restoring = false ∧ s.piecesGone 2 = true ∧ (s.groupAt 2).preemptHeld = false ∧
       (s.groupAt 2).cores.Nodup ∧
       ((grouped fun g => { g with state := .resident, cores := [1] }).groupAt 2).state = .resident ∧
       (let r := s.engineWrite (.group 2) (s.groupAt 2).ctx 0 ((s.groupAt 2).dataPatches (s.binaryAt (s.groupAt 2).handle))
        r.1 = .done [] ∧ r.2.groups = s.groups ∧ r.2.binaries = s.binaries)) := by decide +kernel

/-- The part with a wave of its group under way, its core idle or not, the sums of the last one given. -/
def waving (sent : Word) : State :=
  { part with groups := [(1, { part.groupAt 1 with waveOn := true, answered := 1, sumSent := 2#32, sumRecv := 2#32, lastWave := some (true, sent, sent) })] }

/-- The part with its launch draining, and a signal at 0x100 or none. -/
def draining (signal : Option (Nat × BitVec 64)) (held : List Nat) : State :=
  { paged 0 0 3 with
    groups := [(1, { part.groupAt 1 with kernel := .draining, signal := signal })], cores := [(0, { core with tc0 := { run := .left, held := held } })] }

theorem witness_GroupsTerminate : (part.groupAt 1).state = .running ∧ (part.groupAt 1).kernel = .running ∧ (part.groupAt 1).waveOn = false ∧
    ((waving 2#32).groupAt 1).waveOn = true ∧ ((waving 2#32).groupAt 1).cores[0]? = some 0 ∧
    ((waving 2#32).groupAt 1).answered = ((waving 2#32).groupAt 1).cores.length ∧ ((waving 2#32).groupAt 1).sumWrap = false ∧
    ((waving 2#32).groupAt 1).sumIdle = true ∧ ((waving 2#32).groupAt 1).lastWave = some (true, ((waving 2#32).groupAt 1).sumSent, ((waving 2#32).groupAt 1).sumRecv) ∧
    ((waving 1#32).groupAt 1).lastWave ≠ some (true, ((waving 1#32).groupAt 1).sumSent, ((waving 1#32).groupAt 1).sumRecv) ∧
    (draining none [2]).drainDone 1 = true ∧ ((draining none [2]).oldestFault 1).isSome = true ∧
    (draining none []).drainDone 1 = true ∧ (draining none []).oldestFault 1 = none ∧ ((draining none []).groupAt 1).signal = none ∧
    (let s := draining (some (0x100, 5#64)) []
     s.drainDone 1 = true ∧ s.oldestFault 1 = none ∧ (s.groupAt 1).signal = some (0x100, 5#64) ∧
       (let r := (s.dissolve 1).engineWrite (.group 1) (s.groupAt 1).ctx 0 [(0x100, leBytes 8 (5#64).toNat)]
        r.1 = .done [] ∧ r.2.groups = (s.dissolve 1).groups)) ∧
    (let s : State := { part with groups := [(1, { part.groupAt 1 with state := .released, kernel := .draining })] }
     (s.groupAt 1).state = .released ∧ (s.groupAt 1).kernel = .draining ∧ (s.contextAt (s.groupAt 1).ctx).state ≠ .terminated ∧
       (s.contextAt (s.groupAt 1).ctx).state ≠ .free ∧ (({ s with contexts := [] } : State).contextAt (s.groupAt 1).ctx).state = .free) := by decide +kernel
theorem witness_GroupsAreReleased : (let s : State := { part with groups := [(1, { part.groupAt 1 with state := .faulted })] }
     s.releaseDue 1 = true ∧ s.stilled 1 = true ∧ (s.groupAt 1).image = [] ∧ GroupAtRest (((s.withdrawGroup 1).unparkGroup 1).stopTransfers 1) 1) ∧
    (let s : State := { part with groups := [(1, { part.groupAt 1 with state := .faulted })], away := [(4, ⟨acc .read, [], none, false⟩)] }
     s.releaseDue 1 = true ∧ ¬ GroupAtRest (((s.withdrawGroup 1).unparkGroup 1).stopTransfers 1) 1) ∧
    (let s : State := { part with contexts := [(1, { part.contextAt 1 with wdog := 1#16 })] }
     (s.groupAt 1).state = .running ∧ (s.contextAt (s.groupAt 1).ctx).wdog ≠ 0#16) := by decide +kernel

/-- The part with its group PREEMPTING, its core SAVING, or SAVED. -/
def preempting : State :=
  { part with groups := [(1, { part.groupAt 1 with state := .preempting })], cores := [(0, { core with power := .saving })] }
/-- The part with its group SAVED, its images in the save area or not. -/
def saved (spilled : Bool) : State :=
  { part with groups := [(1, { part.groupAt 1 with state := .saved, image := [(0, core)], spilled := spilled })], cores := [],
              contexts := [(1, { part.contextAt 1 with state := .saved, ssize := 2 })] }

theorem witness_GroupsArePreempted : (part.groupAt 1).state = .running ∧ part.canPreempt 1 (part.comingEntries 1 1) = true ∧ ((grouped id).groupAt 2).state = .requested ∧
    (let s : State := { preempting with pagerAsks := [(1, 0)] }; (s.groupAt 1).state = .preempting ∧ s.pageWaits 1 = true) ∧
    preempting.quiesced 1 = true ∧ preempting.mirrorHolders 1 = [] ∧ (preempting.boundTo 1).Nodup ∧
    ((saved false).savedOf 1).filter (fun g => !((saved false).groupAt g).spilled) ≠ [] ∧ (saved false).spillFits 1 = true ∧
    ((saved true).savedOf 1).filter (fun g => ((saved true).groupAt g).spilled) ≠ [] ∧
    (∀ g ∈ (saved true).savedOf 1, (saved true).mirrorHolders g = []) ∧ ((saved true).contextAt 1).state ≠ .spilled ∧
    (let s : State := { part with groups := [(1, { part.groupAt 1 with state := .binding, restoring := true, image := [(0, core)], version := 3#8 })],
                                  cores := [(0, { core with power := .binding })] }
     (s.groupAt 1).state = .binding ∧ (s.groupAt 1).restoring = true ∧ s.piecesGone 1 = true ∧ s.restoreFlaw 1 s.freeWord.1 = none ∧ ((s.groupAt 1).image.map (·.1)).Nodup ∧
       (∀ e ∈ (s.groupAt 1).image, e.1 ∈ (s.groupAt 1).cores ∧ e.2.tc0.run ≠ .left ∧ ∀ t ∈ e.2.slots, t.2.stopReq = false) ∧
       (s.groupAt 1).preemptHeld = false) := by decide +kernel

/-! ### The host's commands -/

/-- A state with a command in hand, its block's words given. -/
def asked (ws : List Word) (s : State := part) : State := { s with device := { s.device with busy := true, block := pkt ws, state := 2#4 } }

/-- The part with its context in a state. -/
def inState (c : CState) : State := { part with contexts := [(1, { part.contextAt 1 with state := c, aclcnt := 2, acl := [0#32, 0#32] })], groups := [] }

/-- A state with every feature accepted. -/
def featured (s : State) : State := { s with feats := 0xFFF#128 }

theorem witness_ContextCommands : (asked [0x0E#32]).commandReady = true ∧ 0x0D < (asked [0x0E#32]).cmdOp ∧ (asked [0#32]).cmdOp = 0 ∧
    (asked [0x102#32]).cmdOp = 2 ∧ bits ((asked [0x102#32]).cmdW 0) 8 24 ≠ 0 ∧
    ((asked [2#32, 5#32]).contextAt (asked [2#32, 5#32]).cmdCtx).state = .free ∧ bits ((asked [2#32, 5#32]).cmdW 0) 8 24 = 0 ∧
    CommandIs (asked [2#32, 1#32] (inState .loading)) 2 ∧
    ((asked [2#32, 1#32] (inState .loading)).contextAt (asked [2#32, 1#32] (inState .loading)).cmdCtx).state = .loading ∧
    CommandIs (asked [2#32, 1#32]) 2 ∧ ((asked [2#32, 1#32]).contextAt 1).state ≠ .loading ∧
    CommandIs (asked [3#32, 1#32] (inState .faulted)) 3 ∧ ((asked [3#32, 1#32] (inState .faulted)).contextAt 1).state = .faulted ∧
    CommandIs (asked [4#32, 1#32]) 4 ∧ (asked [4#32, 1#32]).device.begun = false ∧ ((asked [4#32, 1#32]).contextAt 1).state ≠ .terminated ∧
    ((inState .terminated).contextAt 1).state = .terminated ∧ (inState .terminated).groupsOf 1 = [] ∧
    (let s := asked [1#32, 0x10005#32, 0#32, 0#32, 0#32, 0#32, 0#32, 0#32, 0#32, 16#32] (featured part)
     s.commandReady = true ∧ s.cmdOp = 1 ∧ s.createWords = true ∧ (s.contextAt s.cmdCtx).state = .free ∧ s.residents < 64 ∧
       (s.createAreas s.cmdCtx s.createRecord).isSome = true) ∧
    (asked [1#32, 5#32]).createWords = false ∧
    (let s := asked [1#32, 0x10001#32] (featured part); s.createWords = true ∧ (s.contextAt s.cmdCtx).state ≠ .free) ∧
    CommandIs (asked [5#32, 1#32, 0x30001#32]) 5 ∧ bits ((asked [5#32, 1#32, 0x30001#32]).cmdW 2) 18 14 = 0 ∧
    (let s := asked [6#32, 1#32, 1#32, 3#32] (inState .ready)
     CommandIs s 6 ∧ bits (s.cmdW 2) 0 4 < (s.contextAt s.cmdCtx).aclcnt) ∧
    (let s := asked [6#32, 1#32, 2#32, 3#32] (inState .ready); (s.contextAt s.cmdCtx).aclcnt ≤ bits (s.cmdW 2) 0 4) := by decide +kernel

theorem witness_ContextCommands_query : CommandIs (asked [7#32, 1#32]) 7 ∧ CommandIs (asked [10#32, 1#32, 0x10FFF#32, 1023#32, 1#32]) 10 ∧
    bits ((asked [10#32, 1#32, 0x10FFF#32, 1023#32, 1#32]).cmdW 2) 16 1 = 1 ∧ bits ((asked [10#32, 1#32, 5#32]).cmdW 2) 16 1 = 0 := by decide +kernel

/-- A MAP or UNMAP of one page of LPDDR at VA 0x1000 in hand, on the part with a page at 0. -/
def mapping (op : Word) (n : Word := 0x1000#32) (va : Word := 0x1000#32) : State :=
  asked [op, 1#32, va, 0#32, n, 0#32, 0x20300#32, 0x20000#32] (paged 0 0 3)

/-- What writing the entries of that page leaves. -/
def mapped : Option State :=
  let s := mapping 12#32
  State.mapPages s.mapReq true (pagesOf s.mapReq.sizes (s.cmdRange.2 / 4096) s.cmdRange.1 0x20000 s.cmdRange.2) s

/-- The bytes of a well-formed binary of one node, a NOP: header and directory, node table, code, handler tables, templates, features, signature. -/
def byg : List Byte :=
  let w (ws : List Nat) : List Byte := ws.flatMap (leBytes 4)
  let zeros (n : Nat) : List Byte := List.replicate n 0#8
  w [0x47594D42, 0x10001, 0x1840, 0, 0x80, 32, 0xC0, 0, 0xC0, 4, 0x100, 192, 0x1C0, 1024, 0x5C0, 0, 0x5C0, 0, 0x5C0, 16, 0x600, 4672] ++ zeros 40 ++
    w [0x4241, 0, 0, 0, 4, 0, 0, 1] ++ zeros 32 ++ w [1] ++ zeros 60 ++ zeros 192 ++ zeros 1024 ++ zeros 64 ++ w [9, 4627] ++ zeros 4664

/-- A BIN_LOAD of it in hand. -/
def loading : State := asked [8#32, 1#32, 0#32, 0#32, 0x1840#32]

/-- The page of that part, as its tables give it. -/
def pageThere : Leaf := { entry := 0x5000, raw := 33560577, base := 0, size := 4096 }

theorem leaves_paged : (paged 0 0 3).leaves 1 = [pageThere] := by decide +kernel
theorem leaves_mapping (op n va : Word) : (mapping op n va).leaves 1 = [pageThere] := leaves_paged
theorem witness_MappingAndBinaryCommands : CommandIs (mapping 12#32) 12 ∧ (mapping 12#32).mapWords = true ∧
    ((mapping 12#32).contextAt (mapping 12#32).cmdCtx).state ≠ .terminated ∧
    CommandIs (mapping 12#32 0#32) 12 ∧ (mapping 12#32 0#32).mapWords = false ∧
    (mapping 12#32 0x1000#32 0#32).mapWords = true ∧
    CommandIs (mapping 13#32 0x1000#32 0#32) 13 ∧ rangeGood (mapping 13#32 0x1000#32 0#32).cmdRange = true ∧
    (mapping 13#32 0x1000#32 0#32).rangeBusy 1 0 0x1000 = false ∧
    ({ mapping 13#32 0x1000#32 0#32 with away := [(4, ⟨acc .read, [], none, false⟩)] } : State).rangeBusy 1 0 0x1000 = true := by decide +kernel
theorem witness_MappingAndBinaryCommands_maps : mapped.isSome = true := by decide +kernel
theorem witness_MappingAndBinaryCommands_pages :
    (mapping 12#32).leavesIn 1 (mapping 12#32).cmdRange.1 (mapping 12#32).cmdRange.2 = [] ∧
    (mapping 12#32 0x1000#32 0#32).leavesIn 1 0 0x1000 ≠ [] ∧
    (∀ l ∈ (mapping 13#32 0x1000#32 0#32).leavesIn 1 0 0x1000, 0 ≤ l.base ∧ l.base + l.size ≤ 0 + 0x1000) := by
  simp only [State.leavesIn, leaves_mapping]
  decide
theorem witness_BinaryCommands : CommandIs loading 8 ∧ loading.cmdW 2 % 64 = 0 ∧ bygGood byg (loading.cmdW 4) = true ∧ bygGood [] (loading.cmdW 4) = false ∧
    (loading.contextAt loading.cmdCtx).state ≠ .terminated ∧ planEntries (bygBytes byg 8) = [] ∧
    (bygBinary 1 byg).keyIndex.toNat ∉ loading.firmware.revoked ∧ loading.freeHandle = some 2 ∧ 9 = (bygBinary 1 byg).keyIndex.toNat ∧
    ((planEntries (bygBytes byg 8)).foldlM (State.mapRegion 1) loading).isSome = true := by decide +kernel
theorem witness_BinaryCommands_unload : (let s := asked [9#32, 1#32, 1#32]
     CommandIs s 9 ∧ s.cmdBinary s.cmdCtx = some (1, part.binaryAt 1) ∧ (part.binaryAt 1).unloading = false ∧ s.launchInFlight 1 = true) ∧
    (let s : State := { asked [9#32, 1#32, 1#32] with groups := [] }
     s.launchInFlight 1 = false ∧ (∀ r ∈ (part.binaryAt 1).regions, s.rangeBusy 1 r.1 r.2 = false)) ∧
    (asked [9#32, 1#32, 7#32]).cmdBinary 1 = none ∧ CommandIs (asked [9#32, 1#32, 7#32]) 9 ∧
    (let s := asked [11#32, 1#32, 0x10001#32]
     let bs := leBytes 4 0x1000 ++ leBytes 4 1
     CommandIs s 11 ∧ 1 ≤ bits (s.cmdW 2) 16 7 ∧ bits (s.cmdW 2) 16 7 ≤ 64 ∧ bs.length = 8 * bits (s.cmdW 2) 16 7 ∧ (dsetEntries bs).2 = true ∧
       (dsetEntries bs).1.countP (fun e => e.1 == s.partAddr) = 1 ∧ s.cmdBinary s.cmdCtx = some (1, part.binaryAt 1)) := by decide +kernel

/-! ### The device, checkpoints, firmware, power -/

theorem witness_DeviceRegisters : State.reset.device.state = 0#4 ∧ ({ State.reset with device := { state := 1#4 } } : State).device.state = 1#4 ∧
    (∃ e ∈ part.contexts, e.2.state ≠ .free) ∧ (∀ e ∈ State.reset.contexts, e.2.state = .free) ∧ (15 : Nat) < 16 ∧
    HostWrites (partE (.registerWrite (0x1100100 + 4 * 15) 7#32)) (0x1100100 + 4 * 15) 7#32 ∧ (asked []).device.busy = true ∧ part.device.busy = false ∧
    HostWrites (partE (.registerWrite (0x1000 * 4095) 7#32)) (0x1000 * 4095) 7#32 ∧
    HostWrites (partE (.registerWrite (0x1000000 + 0x100 * 4095 + 4 * 63) 7#32)) (0x1000000 + 0x100 * 4095 + 4 * 63) 7#32 ∧
    Performs (partE (.bar2Access true 0x100 [7#8])) (.bar2Access true 0x100 [7#8]) ∧ [7#8] ≠ [] ∧ 0x100 + [7#8].length ≤ 2 ^ 36 ∧
    part.barReaches (part.barBase.toNat + 0x100) 1 = true ∧ part.rangePoisoned (part.barBase.toNat + 0x100) 1 = false ∧ part.poison = [] ∧
    ({ part with barBase := 0x2000000000#64 } : State).barReaches (0x2000000000 + (2 ^ 36 - 1)) 1 = true ∧
    ({ part with barBase := 0x4000000000#64 } : State).barReaches (0x4000000000 + (2 ^ 36 - 1)) 1 = false := by decide +kernel

/-- A descriptor with one target beside port 6, part 1, of 4 KiB from 0. -/
def ckptDesc : List Word := [1#32, 64#32, 5#32, 0#32] ++ List.replicate 60 0#32 ++ [1#32, 0#32, 0#32, 0#32, 4096#32] ++ List.replicate 11 0#32

/-- The part in a torus of four, a checkpoint to that target running or not. -/
def pod (running : Bool) : State :=
  { part with
    dims := #v[1, 1, 1, 4], feats := 8#128
    ckpt := if running then some { full := true, tag := 5#64, ports := [{ port := 6, part := 1, base := 0, limit := 64 }] } else none }

theorem witness_Checkpoints : (pod false).ckptTargets [] = none ∧ (pod false).ckptTargets ckptDesc = some [{ port := 6, part := 1, base := 0, limit := 4096 }] ∧
    (pod false).ckpt = none ∧ (pod false).firmware.role = .standby ∧ ((pod false).groupAt 1).state = .running ∧ (1, (pod false).groupAt 1) ∈ (pod false).groups ∧
    (pod true).ckptReady = false ∧ (pod true).ckpt.any (!·.streamed) = true ∧
    (∃ ck, (pod true).ckpt.map (fun c => { c with streamed := true }) = some ck ∧ ck.streamed = true) ∧
    (let s : State := { pod true with groups := [], contexts := [(1, { part.contextAt 1 with state := .terminated })] }
     s.ckptReady = true ∧ (∀ e ∈ s.contexts, e.2.state = .free ∨ e.2.state = .terminated) ∧ s.linkFault 1 = none ∧ 0 + 64 ≤ 64) := by
  refine ⟨by decide +kernel, by decide +kernel, by decide +kernel, by decide +kernel, by decide +kernel, by decide +kernel, by decide +kernel,
    by decide +kernel, ⟨_, rfl, rfl⟩, by decide +kernel⟩

/-- An image that lists state table 0 and layout 0, its signature good or not. -/
def image (ok : Bool) (tables layouts : List Nat) : FwImage := { digest := 7#512, sigOk := ok, tables := tables, layouts := layouts }

/-- The part, a context of it SAVED, while an image is loaded or imported. -/
def updating (r : Role) (im : FwImage) : State := { inState .saved with firmware := { role := r, image := some im }, feats := 0xFFF#128 }

theorem witness_LiveUpdates : part.firmware.role = .standby ∧ part.feature 11 = false ∧ (featured part).feature 11 = true ∧ (featured part).ckpt = none ∧
    (let s := updating .loading (image false [0] [0]); s.firmware.role = .loading ∧ s.firmware.image = some (image false [0] [0])) ∧
    (image false [0] [0]).sigOk = false ∧ (updating .loading (image true [1] [0])).firmware.version ∉ (image true [1] [0]).tables ∧
    (∃ l ∈ (updating .loading (image true [0] [1])).savedLayouts, l ∉ (image true [0] [1]).layouts) ∧
    (let s := updating .importing (image true [0] [0])
     s.firmware.role = .importing ∧ s.atBoundaries = true ∧ s.firmware.version ∈ (image true [0] [0]).tables ∧
       (∀ l ∈ s.savedLayouts, l ∈ (image true [0] [0]).layouts)) := by decide +kernel
theorem witness_RecordsAndPower : Performs (partE (.powerLimit 7 true)) (.powerLimit 7 true) ∧ (7 : Nat) < 8 ∧ (part.victimGroups 0).head? = some 1 ∧
    Performs (partE (.powerLimit 0 false)) (.powerLimit 0 false) ∧ Performs (partE (.thermalLimit 0 true)) (.thermalLimit 0 true) := by decide +kernel

/-! ### The events of the opcode table and the forms of tasks and transfers complete -/

theorem witness_CoreEventsComplete : (let s := partT (holding false)
      CtxSel.tc0 ≠ .handler ∧ (s.taskAt ⟨0, .tc0⟩).traps = ⟨.debugHalt, true, 0#32⟩ :: [] ∧ (s.taskAt ⟨0, .tc0⟩).trapDue = true ∧
        (s.taskAt ⟨0, .tc0⟩).anyPending = false) ∧
    (let m := barMsg .btest 0#32 0#32
     let s := barCome (barRec 1#32 0#32 1#32) (.barrierOperation m)
     Performs s (.barrierOperation m) ∧ (match (s.accept m.group m.src.core 0).barPerform m with | (.value _, _) => true | _ => false) = true) ∧
    ({ barMsg .bwait 0#32 0#32 with place := .vault 1 0 } : BarMsg).place = .vault 1 0 ∧
    (let r := barRec 1#32 0#32 1#32
     let a : Arrival := { from_ := .transfer 0 2, place := .loc 0 0x200, coreid := 0, sel := 6, chunk := some 31, poison := false, group := 1 }
     let s := barCome r (.engineArrival a)
     (match s.barAt a.place (s.arrivalGroup a) .atomic with | .found q _ => q == r | _ => false) = true ∧ barRejects false r = false ∧
       (barCredit a.coreid a.sel a.chunk r).isSome = true) ∧
    (let s := (tiled fun b => { b with leases := [(⟨0, .tc0⟩, 3)] })
     s.canGrant 0 false = true ∧ ((s.clusterAt 0).bank false).leases = (⟨0, .tc0⟩, 3) :: []) ∧
    ((part.accept (part.coreAt 0).group 0 0).coreAt 0).dq.held = 0 ∧ (part.pushDelivery 0 delivery).isSome = true ∧
    (part.groupAt delivery.group).state ≠ .saved ∧ (part.groupAt delivery.group).state ≠ .preempting ∧
    (part.coreAt (frameOwner 0x40#32)).group = 1 ∧ part.handlerFree (frameOwner 0x40#32) = true := by decide +kernel

/-- The part with one of its cores, in HOLDING, keeping the first piece of a page of the victim tier. -/
def holdingTier : State := (tier 0 false).modCore 9 fun c => { c with power := .holding }

theorem witness_MemoryEventsComplete : (moving copying).chunkReady 0 2 0 = true ∧ ((moving copying).slotT 0 2).isCopy = true ∧
    (let s := moving { gathering .scatterAdd 4 0 0 9#32 with landed := [0] }; s.chunkReady 0 2 0 = true ∧ (s.slotT 0 2).isCopy = false) ∧
    ({ moving copying with groups := [(1, { part.groupAt 1 with state := .faulted })] } : State).stopsTransfers 0 = true ∧
    (moving { gathering .gather 5 0 0 0#32 with asked := [], issued := [], pieces := [] }).nextRow 0 2 = some 0 ∧
    ((holdingTier.victims.find? fun v => v.ctx == 1 && v.places.contains (9, 0)).isSome = true ∧ (holdingTier.coreAt 9).power = .holding) ∧
    (((tier 1 true).victims.find? fun v => v.recalling && v.places.contains (9, 0) && !v.recalled.contains (v.places.idxOf (9, 0))).map fun v =>
      decide (v.stored < v.places.length)) = some true ∧
    (paged 0 0 3).rangeBusy 1 0 (4095 + 1 - 0) = false ∧
    ({ paged 0 0 3 with away := [(4, ⟨acc .read, [], none, false⟩)] } : State).rangeBusy 1 0 (4095 + 1 - 0) = true ∧
    (away.away.find 4).map (·.home) = some none ∧ (∀ e ∈ part.away, e.2.home ≠ none) := by decide +kernel
theorem witness_FabricEventsComplete : (let a : Access := { acc .read with elems := [(0, 0x10000)] }
      ((a.elems.map (·.2)).head?.bind part.movedTo) = none) ∧ 2 ∉ part.portsDown ∧ part.away = [] ∧ part.lands = [] ∧ part.flight = [] ∧
    part.forwards = [] ∧ part.outstandingTo 3 = false ∧
    (posting receive).refuses (header 64) = false ∧ ((posting receive).claspAt (header 64).dctx).matching (header 64) = some (3, receive) ∧
    (sent .asking 4097#32).sendHome 0 5 = .here 2 ∧ ((sent .asking 4097#32).slotT 0 2).phase = .asking ∧
    ((sent .resending 4097#32).slotT 0 2).phase = .resending ∧
    ((sent .rnr 8#32).canResend 0 2 = true ∧ ((sent .rnr 8#32).slotT 0 2).header = some (header 8) ∧ (sent .rnr 8#32).headerFault (header 8) = none) ∧
    (let s := sent .admitted 8192#32
     (s.slotT 0 2).state ≠ .saved ∧ (match (s.readPayload (.pull 0 0 2 0) 0 (s.slotT 0 2) 0 512).1 with | .vals _ => true | _ => false) = true) ∧
    land.noPlace = false ∧
    (let s := prod 0#32
     (enqMsg true).local_ = true ∧ (s.queueAt 5).state ≠ .disabled ∧ (s.queueAt 5).prod = true ∧ (s.queueAt 5).full = false ∧
       (s.storeImage (.enq 0 0 .tc0) 5 (enqMsg true).img).1 = .done []) := by decide +kernel
theorem witness_QueueEventsComplete : (let u := (queue (pkt [])).queueAt 5
      (2#32 - u.ri).toNat ≤ u.size ∧ ¬ 2#32 - u.ri ≤ u.wi - u.ri) ∧
    ((queue (pkt []) fun u => { u with state := .pending }).queueAt 5).state = .pending ∧
    (let u := (queue (pkt []) fun u => { u with state := .error }).queueAt 5; u.halted = true ∧ u.wi ≠ u.ri) ∧
    (let s : State := { queue (pkt []) (fun u => { u with state := .disabled }) with contexts := [(1, { part.contextAt 1 with state := .ready })] }
     (s.contextAt (s.queueAt 5).ctxid.toNat).state = .ready) ∧
    (let s := queue (pkt []) fun u => { u with state := .pending, wi := 0#32 }; (s.queueAt 5).wi = (s.queueAt 5).ri) ∧
    6 < packetType (pkt [7#32]) ∧
    (({ part with hwSlots := [(0, { v := true, queue := 5, stopping := true })] } : State).queueAt 5).state ≠ .bound := by decide +kernel
theorem witness_GroupEventsComplete : (let s : State :=
        { part with
          groups := [(1, { part.groupAt 1 with state := .faulted })]
          contexts := [(1, { part.contextAt 1 with state := .terminated })] }
      s.releaseDue 1 = true ∧ (s.contextAt (s.groupAt 1).ctx).state = .terminated ∧ (((s.withdrawGroup 1).unparkGroup 1).stopTransfers 1).stopped 1 = true) ∧
    ((draining none []).groupAt 1).state ≠ .released ∧
    (let s : State := { saved true with contexts := [(1, { part.contextAt 1 with state := .spilled })] }
     ((s.savedOf 1).filter fun g => (s.groupAt g).spilled) ≠ [] ∧ (s.contextAt 1).state = .spilled ∧ s.residents < 64 ∧
       (((s.savedOf 1).filter fun g => (s.groupAt g).spilled).any fun g => !(s.mirrorHolders g).isEmpty) = false) := by decide +kernel
theorem witness_DeviceEventsComplete : (State.reset.contexts.any fun e => e.2.state != .free) = false ∧
    (let s := updating .loading (image true [0] [0])
     ∃ im, s.firmware.image = some im ∧ im.sigOk = true ∧ im.tables.contains s.firmware.version = true ∧
       s.savedLayouts.all im.layouts.contains = true) ∧
    (let s := updating .importing (image true [0] [0])
     ∃ im, s.firmware.image = some im ∧ s.atBoundaries = true ∧ im.tables.contains s.firmware.version = true ∧
       s.savedLayouts.all im.layouts.contains = true) ∧
    (∀ c, ¬ Performs (asked [4#32, 1#32]) (.firmwareKill c)) ∧ (0x1100000 ≤ 0x1100004 ∧ 0x1100004 ≠ 0x1100030) :=
  ⟨by decide +kernel, ⟨_, rfl, by decide +kernel, by decide +kernel, by decide +kernel⟩,
   ⟨_, rfl, by decide +kernel, by decide +kernel, by decide +kernel⟩, fun _ h => (by simp [Performs, asked, part] at h), by decide⟩
theorem witness_TaskAndTransferForms : Acts part 5#4 ∧ Settled part ∧ part.core.freeSlot = some 0 ∧ part.task.held = [] ∧
    (part.x 5#4).toNat < 65536 ∧ idStatus part.core (part.x 5#4) = 3#32 ∧
    (let s := (moving copying).modCore 0 fun c => { c with slots := [(2, { c.slotAt 2 with state := .ended })] }
     idStatus s.core (s.x 1#4) = 1#32 ∧ (s.core.slotAt ((s.x 1#4).toNat % 256)).tc = (s.who.ctx == .tc1)) ∧
    idStatus (moving copying).core ((moving copying).x 1#4) = 0#32 ∧
    (let s := framed 0#32
     Clear s [1#4] [] ∧ s.frameValid s.core.group (s.x 1#4) = true ∧ frameOwner (s.x 1#4) = s.who.core ∧ s.frameCount (s.x 1#4) = 0#32) ∧
    part.kernelOf part.core.group (0#2).toNat ≠ none ∧ (part.core.task (otherTask part.who.ctx)).run ≠ .left ∧
    (posting {} 1).freeEntry 1 = some 0 ∧ (part.claspAt part.core.ctxid).queue = [] := by decide +kernel

/-! ### Clauses at their edges: cores, waits, pages -/

/-- A message between cores of the group that waits for its turn at its owner. -/
def amo (old : Option Word) : AmoMsg :=
  { src := ⟨0, .tc0⟩, dst := 0, off := 16, op := .add, reg := 5#4, data := 1#32, data2 := 0#32, acq := false, old := old, group := 1 }

theorem witness_LoopBack_ends : (partT (looping 2#32 1#32)).task.lc[(1 : Fin 2)] = 1#32 ∧
    (partT (looping 2#32 1#32)).task.le[(1 : Fin 2)] = (partT (looping 2#32 1#32)).task.pc ∧
    (let s := partT fun t => { looping 2#32 3#32 t with le := #v[8#32, 12#32] }
     s.inHandler = false ∧ s.task.le[(1 : Fin 2)] ≠ s.task.pc ∧ s.task.lc[(0 : Fin 2)] ≠ 0#32 ∧ s.task.le[(0 : Fin 2)] = s.task.pc) := by
  decide +kernel
theorem witness_LocalAccesses_clear : OwnClear part (0x7FFC#16).toNat 4 ∧ OwnClear part 0x6FFE#32 2 ∧ OwnClear full 16#32 4 ∧
    (¬ InTask partH → HandlerSettled partH) := by decide +kernel
theorem witness_RemoteAccesses_handler : ¬ InTask partH ∧ Ready partH [1#4, 2#4, 3#4] ∧ RemoteAt (partH.x 2#4) ∧ Storable (partH.x 2#4) ∧
    HandlerSettled partH ∧ Performs (partE (.localAtomic (amo (some 4#32)))) (.localAtomic (amo (some 4#32))) ∧
    Performs (partE (.localAtomic (amo none))) (.localAtomic (amo none)) ∧ Reaches part 1 0 (.localAtomic (amo none)) ∧
    Performs (partE (.remoteStore (remOp 0))) (.remoteStore (remOp 0)) ∧ part.handlerFree parkedOp.dst = true := by decide +kernel
theorem witness_RepliesArrive_fromCore : (let r : Reply := { reply none with src := some (0, 1) }
      Performs (partE (.loadReply r)) (.loadReply r) ∧ r.src = some (0, 1) ∧ part.handlerFree r.dst.core = true) ∧
    (let s := partC fun c => { c with hd := { running := true, traps := [⟨.debugHalt, true, 0#32⟩] } }
     (s.coreAt 0).hd.traps = ⟨.debugHalt, true, 0#32⟩ :: []) := by decide +kernel
theorem witness_WaitsAndPops_stalls : InTask (moving copying) ∧ Clear (moving copying) [5#4] [] ∧ (moving copying).task.cq = [] ∧
    (moving { copying with sh := [0#32, 0#32, 0#32, 0#32, 0#32, 0x2000#32] }).core.awaitsRecord ((moving copying).who.ctx == .tc1) = true := by decide +kernel
theorem witness_CoreEvents_errors : Performs (partE (.softError (.trap ⟨0, .tc0⟩ .localEcc 0#32))) (.softError (.trap ⟨0, .tc0⟩ .localEcc 0#32)) ∧
    Cause.localEcc ∈ trapErrors ∧ Cause.localEcc ∉ [.codeEcc, .vunitResidue, .tokenEcc, .cqEcc] ∧ part.groupRuns 0 = true ∧
    (part.taskAt ⟨0, .tc0⟩).run = .running ∧ NonePending (part.taskAt ⟨0, .tc0⟩) ∧ (part.coreAt 0).group ≠ 0 ∧
    Performs (partE (.softError (.core 0 .pipeEcc 0#32))) (.softError (.core 0 .pipeEcc 0#32)) ∧ inLpddr 0x10000 = true ∧
    part.populated 0 0x10000 0x10001 = true ∧ part.pageOfFrame 0x10000 = none ∧ (1#8 : Byte) ≠ 0#8 := by decide +kernel

/-- A page whose leaf cannot be: its kind asks for a range that its frame is not in. -/
def unsound : State := paged 0 5 3

theorem witness_PageTrapsAtIssue : (paged 0 0 3).walk 1 (2 ^ 47) = .fault .pageFault ∧ unsound.walk 1 60 = .fault .pteMalformed ∧
    (let s := paged 0 0 3
     let at_ := (s.contextAt 1).root + 8 * (60 / 2 ^ 44)
     (s.contextAt 1).root + 0x80 ≤ s.lpddrEnd ∧ at_ / 32 ∉ s.poison ∧ at_ / 32 ∈ ({ s with poison := [at_ / 32] } : State).poison ∧
       part.phys.le at_ 8 % 2 = 0) ∧
    ({ part with contexts := [(1, { part.contextAt 1 with root := 2 ^ 40 })] } : State).lpddrEnd < 2 ^ 40 + 0x80 ∧
    (paged 0 0 2).walk 1 60 = .leaf (leafOf (paged 0 0 2)) ∧ (leafOf (paged 0 0 2)).r = false ∧ (leafOf (paged 0 0 1)).r = true ∧
    (leafOf (paged 0 0 1)).w = false ∧ (paged 0 0 1).walk 1 60 = .leaf (leafOf (paged 0 0 1)) ∧
    (leafOf (paged 0 3 3)).denies .atomic = none ∧ (leafOf (paged 0 3 3)).state = 0 ∧ (leafOf (paged 0 3 3)).kind = 3 ∧
    (paged 0 3 3).hostUp = true ∧ ({ paged 0 3 3 with hostUp := false } : State).hostUp = false ∧
    (leafOf (paged 4 4 3)).denies .write = none ∧ (paged 4 4 3).walk 1 60 = .leaf (leafOf (paged 4 4 3)) ∧
    (leafOf (paged 4 4 3)).state = 4 ∧ ¬((leafOf (paged 5 0 3)).state = 0 ∨ (leafOf (paged 5 0 3)).state = 4) := by decide +kernel
theorem witness_PageTraps_routes : (paged 4 4 3).routed (leafOf (paged 4 4 3)).home = false ∨ (paged 4 4 3).routed (leafOf (paged 4 4 3)).home = true := by
  decide +kernel

/-- The map's page without write permission, or wholly out of reach. -/
def denied : State := bound (paged 0 0 1) (mapOf 5 16 0)

theorem witness_GlobalAccessFaults_pages : GlobalAt denied 0#4 15#8 4#4 (mapOf 5 16 0) 60 ∧ gmemMeets denied 60 (.glw 0#4 15#8 5#4 4#4) ∧
    (denied.pageTrap denied.core.ctxid 60 .write).isSome = true ∧ Settled denied ∧ Ready denied [4#4, 5#4] := by
  simp only [gmemMeets]; decide +kernel
theorem witness_VectorGlobal_edges : (let es := (cached.vElems (mapOf 5 16 0) false 8).2
      (cached.l1Lanes 4 (validElems es)).isSome = true ∧ (∀ e ∈ validElems es, e.2 % 4 = 0)) ∧
    (let s := bound (paged 0 0 3) (mapOf 5 16 1)
     let es := (s.vElems (mapOf 5 16 1) false 16).2
     mapEdge (mapOf 5 16 1) = true ∧ (es.filter fun e => e.va.isNone).head?.isSome = true) ∧
    (let r := denied.vElems (mapOf 5 16 0) false 8
     VectorAt denied 0#4 8#9 4#4 false (mapOf 5 16 0) r.1 r.2 ∧ (denied.elemTrap r.1 .write r.2).isSome = true) ∧
    (∃ x, vgmemRow (.vstg 0#4 8#9 1#3 0#1 4#4) = some x) ∧ laneForm (.vext 5#4 2#3 3#5 6#3 0#2) = some ([5#4], [6#3]) ∧
    Clear part [5#4] [6#3] ∧ Settled global := by
  refine ⟨?_, ?_, ?_, ⟨_, rfl⟩, ?_⟩ <;> decide +kernel

theorem witness_PageMeetings_more : (leafOf (paged 2 0 3)).state = 2 ∧ (paged 2 0 3).walk 1 60 = .leaf (leafOf (paged 2 0 3)) ∧
    (paged 2 0 3).victimOf 1 0 = none ∧ ((tier 1 false).victimOf 1 0).isSome = true ∧ (paged 0 3 3).walk 1 60 = .leaf (leafOf (paged 0 3 3)) ∧
    (leafOf (paged 0 3 3)).kind = 3 := by decide +kernel
theorem witness_SliceRequests_more : part.atomicOpen 0 = false ∧ (part.groupAt (acc .read).group).stored = false ∧
    (let a : Access := { acc .read with op := .discard }
     Performs (partE (.sliceRequest a) global) (.sliceRequest a) ∧ a.elems = [(0, 60)] ∧ a.op = .discard ∧ a.park = none) ∧
    (paged 5 0 3).parksAt 1 (leafOf (paged 5 0 3)) = false ∧ away.away.find 4 = some ⟨acc .read, [], none, false⟩ ∧ (acc .read).park = none ∧
    (acc .read).op = .read ∧ (part.groupAt (acc .read).group).stored = false ∧
    (tier 2 true).victims.all (fun v => v.va % 512 == 0) = true := by decide +kernel

/-! ### Tasks, messages -/

/-- A group that is being restored: its cores are bound again and its image is still to be read. -/
def restored : State :=
  { part with groups := [(1, { part.groupAt 1 with state := .binding, restoring := true, image := [(0, core)], version := 3#8 })] }

theorem witness_TasksEnd_joins : (restored.groupAt 1).stored = true ∧
    (let s : State := { framed 2#32 with groups := [(1, { part.groupAt 1 with state := .preempting })] }
     (s.groupAt 1).state = .preempting ∧ s.drawn (.joinDecrement 0x40#32 ⟨0, .tc0⟩ 1) = false) ∧
    (part.coreAt (frameOwner 0x8040#32)).group ≠ 1 ∧ (part.groupAt 1).stored = false := by decide +kernel
theorem witness_DequeAndSteals_gives : (let s := (pair.modCore 0 fun c => { c with dq := { c.dq with thief := some false } }).accept 1 1 0
      (s.coreAt 0).dq.thief = some false) ∧ (pair.accept 1 0 1).groupRuns 1 = true := by decide +kernel
theorem witness_ActiveMessages_more : ¬ InTask partH ∧ (partH.x 4#4).toNat = 0 ∧ (part.coreAt 0).power ≠ .off ∧
    ((partC fun c => { c with hd := { running := true, unsent := 1 } }).coreAt 0).hd.unsent ≠ 0 ∧
    part.reach amMsg.dst amMsg.ctx (ownDrawn part amMsg) = .here ∧ savedPart.reach amMsg.dst amMsg.ctx (ownDrawn savedPart amMsg) = .hold 1 := by
  decide +kernel
theorem witness_AnswersAndDeliveries_more : ((nack .store).group = 1 ∧ AnswersCore part (nack .store)) ∧ partRun.handlerFree 0 = false ∧
    part.handlerFree 0 = true ∧ wakeEnds (.feStore ⟨0, .tc0⟩ 3 1) = some (3, 0) ∧
    (let d : Delivery := { delivery with fail := some (.pageFault, 0#32) }
     (markOf d).isSome = true ∧ part.deliverTo d = some 0) := by decide +kernel
theorem witness_CoresAndTasksLeave_more : (let s := partC fun c => { c with tc0 := { run := .left }, tc1 := { run := .left }, succ := some 0#2 }
      s.atomicOpen 0 = false ∧ (s.groupAt (s.coreAt 0).group).state = .running ∧
        (({ s with groups := [(1, { part.groupAt 1 with state := .preempting })] } : State).groupAt (s.coreAt 0).group).state ≠ .running) ∧
    part.task.faultIn (carriedWith 0#4) [] = none ∧ part.task.waitsFor (carriedWith 0#4) [] = false := by decide +kernel

/-! ### The array -/

/-- A tile move at the head of a map's view. -/
def move (i : Instr) (m : Rec) : ArrayCmd := { cmd i (some m) with index := 0#32 }

/-- The part with a bank of tiles a command moves: its registers' shapes and a map on a page of LPDDR. -/
def moved (i : Instr) (w : Word) (m : Rec) : State :=
  { part with
    clusters := [(0, { bank0 := { leased { owner := some 1, mcfg := (Vector.replicate 8 0#32).set 3 w } with stream := [move i m] },
                       pslot := (Vector.replicate 16 0#2).set 0 1#2 })]
    phys := (paged 0 0 3).phys }

theorem witness_TilesMove : (let i : Instr := .mld 0#4 5#4 3#3
      let m := mapOf 4 16 0
      let s := moved i 0x00000004#32 m
      let h := shapeOf ((s.clusterAt 0).bank false).mcfg[(3#3).toFin]
      Heads s 0 false (move i m) [] ∧ Moves (move i m) m h ∧ h.legal = true ∧ rangeFault m ((move i m).places m h) = none) ∧
    (let i : Instr := .mst 0#4 5#4 3#3
     let m := mapOf 4 1 1
     let s := moved i 0x00000014#32 m
     let h := shapeOf ((s.clusterAt 0).bank false).mcfg[(3#3).toFin]
     Heads s 0 false (move i m) [] ∧ Moves (move i m) m h ∧ (rangeFault m ((move i m).places m h)).isSome = true) := by
  decide +kernel

theorem witness_TilesMove_reads : (let i : Instr := .mld 0#4 5#4 3#3
      let m := mapOf 4 16 0
      let s := moved i 0x00000004#32 m
      let ps := (move i m).places m (shapeOf 4#32)
      (match (s.engineRead (.array 0 false) (s.groupAt 1).ctx (mapReuse m) (placeReads ps)).1 with | .done bs => bs == List.replicate 4 0#8 | _ => false) = true) ∧
    (let i : Instr := .mst 0#4 5#4 3#3
     let m := mapOf 4 16 0
     let s : State := { moved i 0x00000004#32 m with phys := (paged 0 0 1).phys }
     (match (s.engineWrite (.array 0 false) (s.groupAt 1).ctx (mapReuse m) [(0, List.replicate 4 0#8)]).1 with
      | .fault c _ => c == .permWrite | _ => false) = true) := by decide +kernel

/-- The part whose array is about to run a PRT of tiles of one row and one column, sent or not, with both of its own landed or none. -/
def rotating (step : Option Nat) (ls : List Landing) : State :=
  let c : ArrayCmd := { cmd (.prt 2#3 0#3 1#3) none with step := step }
  { part with
    clusters := [(0, { bank0 := { leased { owner := some 1, mcfg := ((Vector.replicate 8 0#32).set 0 4#32) } with stream := [c], landings := ls },
                       pslot := (Vector.replicate 16 0#2).set 0 1#2 })] }

theorem witness_ProductsStream : (let h := shapeOf 0x000071F4#32
      let a := shapeOf 0x000079F0#32
      StreamShapes h a 4 0) ∧ StreamShapes (shapeOf 0x000071F7#32) (shapeOf 0x000079F9#32) 7 9 ∧ mapEt (mapOf 8 16 0) = 8 ∧ (0#3 ≠ 1#3) ∧
    (let c : ArrayCmd := { cmd (.prt 2#3 0#3 1#3) none with step := none }
     let s := rotating none []
     let r := runPmt ((s.clusterAt 0).bank false) c 2#3 0#3 1#3
     Heads s 0 false c [] ∧ c.step = none ∧ (r.write.isSome = true ∨ r.fault = some (.prismOperand, none))) ∧
    (let c : ArrayCmd := { cmd (.prt 2#3 0#3 1#3) none with step := some 0 }
     let s := rotating (some 0) [⟨1, 0, true, []⟩, ⟨1, 0, false, []⟩]
     Heads s 0 false c [] ∧ ((s.clusterAt 0).bank false).landed c true = some [] ∧ ((s.clusterAt 0).bank false).landed c false = some []) ∧
    ((rotating none []).clusterAt 0).turnDue true = false := by decide +kernel
theorem witness_ArrayCommandsIssue_more : arrayRow (.mzero 3#3) = some (none, none) ∧ (part.clusterAt (part.who.core / 16)).bankOf part.core.ctxid = none ∧
    (bankAt (tiled id) false).held = none ∧ (∀ e ∈ (bankAt (tiled id) false).leases, e.1 ≠ (tiled id).who) ∧ Clear (tiled id) [5#4] [] ∧
    (shapeOf ((tiled id).x 5#4)).legal = true ∧ ((tiled id).x 5#4) >>> 20 = 0#32 ∧
    (let s := tiled fun b => { b with leases := [(⟨0, .tc0⟩, 3)] }
     (bankAt s false).held = none ∧ ∃ e ∈ (bankAt s false).leases, e.1 = s.who) := by decide +kernel

/-! ### Transfers, barriers, messages between contexts -/

theorem witness_ChunkEvents_more : (let t := moving { copying with writes := [(0, 0#4, [(.loc 0x200, [1#8])])] }
      t.chunkReady 0 2 0 = true ∧ (slotOf t 0 2).kind = .copy ∧ ∀ w ∈ [(Spot.loc 0x200, [1#8])], ∃ a, w.1 = .loc a) ∧
    (slotOf (moving { copying with lost := [0] }) 0 2).lost.contains 0 = true ∧ (slotOf (moving (gathering .gather 5 0 0 0#32)) 0 2).kind ≠ .copy ∧
    (let s := moving { gathering .gather 5 0 0 0#32 with begun := [(0, [1])] }
     (slotOf s 0 2).begun ≠ [] ∧ Performs (partE (.transferStop 0 2) s) (.transferStop 0 2)) ∧
    (slotOf (moving copying) 0 2).begun = [] := by
  refine ⟨⟨by decide +kernel, by decide +kernel, ?_⟩, by decide +kernel, by decide +kernel, by decide +kernel, by decide +kernel⟩
  simp
theorem witness_RowMessages_heard : (slotOf (moving { gathering .gather 5 0 0 0#32 with pieces := [(0, 0, 16, some 0)], heard := [0] }) 0 2).heard.contains 0 = true := by
  decide +kernel
theorem witness_Barriers_restored : (restored.groupAt (barMsg .barr 6#32 0#32).group).stored = true ∧ partRun.handlerFree 0 = false ∧
    (partRun.coreAt 0).group = (barMsg .barr 6#32 0#32).group ∧ (part.coreAt 3).group ≠ (barMsg .barr 6#32 0#32).group ∧
    (let s := partE (.dbarNotification (note true 0)) { twice true 0 with groups := [(1, { (twice true 0).groupAt 1 with state := .saved, image := [(0, core)] })] }
     s.notified (note true 0) = some (1, 0) ∧ (s.groupAt 1).stored = true) ∧
    (let n : Notify := { note true 0 with dst := 5, ctx := 9 }; part.notified n = none ∧ n.there = none ∧ n.part = part.partAddr) := by
  decide +kernel

/-- The part about to send a map's view, or to send to part 1 of a torus. -/
def sendingMap : State :=
  { bound (sending 0#32 4#32 0#32) (mapOf 5 1 0) with phys := (paged 0 0 3).phys }

theorem witness_SendIssues_more : (let s := sending 0x10#32 4#32 0#32
      (headerHere s 2#4 5#4 1#4).isSome = true ∧ ((headerHere s 2#4 5#4 1#4).bind s.headerFault) = none ∧
        (match (s.dropFetches (sendEngine s)).readPayload (sendEngine s) s.who.core (sendHere s 2#4 5#4 1#4) 0 4 with
         | (.vals vs, u) => vs.flatten == List.replicate 4 0#8 && u.cores == s.cores | _ => false) = true) ∧
    (let s := sendingMap
     (sendHere s 2#4 5#4 1#4).sendLoc = false ∧ SendGoes s 2#4 5#4 1#4 0 ∧
       (match (s.dropFetches (sendEngine s)).readPayload (sendEngine s) s.who.core (sendHere s 2#4 5#4 1#4) 0 4 with
        | (.vals vs, u) => vs.flatten == List.replicate 4 0#8 && u.cores == s.cores | _ => false) = true) ∧
    (let s : State := { sending 0x10#32 4#32 0#32 0x400401#32 with dims := #v[1, 1, 1, 4], feats := 8#128 }
     (s.x 1#4).getLsbD 22 = true ∧ ((headerHere s 2#4 5#4 1#4).map Header.dpart) = some 1 ∧ (headerHere s 2#4 5#4 1#4).bind s.headerFault = none) ∧
    (1024 ≤ ((sending 0x10#32 4#32 0#32 0x401#32).x 1#4).toNat ∧ ((sending 0x10#32 4#32 0#32 0x401#32).x 1#4).toNat < 2 ^ 22) := by
  decide +kernel
theorem witness_SendIssues_bytes : (let s := sending 0x10#32 6#32 0#32
    BadByte s 2#4 5#4 1#4 16 ∧ ∀ j, j < 16 → ¬ BadByte s 2#4 5#4 1#4 j) := by
  simp only [BadByte]; decide +kernel
theorem witness_SendsGoOn_more : (let s := partE (.sendAnswer 0 5 false .landing) (sent .asking 8#32)
      SendIs s 0 5 2 .asking ∧ (slotOf s 0 2).sendLen ≤ 4096) ∧
    (let s : State := { part with groups := [(1, { part.groupAt 1 with state := .saved, image := [(0, (sent .asking 8#32).coreAt 0)] })], cores := [] }
     s.sendHome 0 5 = .saved 1) ∧
    (let h := { header 8 with dpart := 3 }
     let s := (sent .held 8#32).modCore 0 (Core.modSlot 2 fun t => { t with header := some h })
     s.canSend 0 2 = true ∧ (slotOf s 0 2).header = some h ∧ (s.headerFault h).isSome = true) := by decide +kernel
theorem witness_LandingsComplete_order : (let s : State := { landing { land with endAt := 4, told := true } with
        lands := [(7, { land with endAt := 4, told := true }), (8, { land with ended := true, endAt := 3 })] }
      s.lands.find 7 = some { land with endAt := 4, told := true } ∧ s.endsAfter { land with endAt := 4, told := true } = true) ∧
    (let s : State := { landing land with groups := [(1, { part.groupAt 1 with state := .preempting })] }
     s.landHeld land = true ∨ land.recv.group ≠ 1) ∧ (landing land).endsAfter land = false := by decide +kernel

/-! ### The fabric, queues, groups -/

/-- An access of four bytes from part 3 at a frame of the mapped page. -/
def faraway (op : AccOp) : Access := { acc op with elems := [(0, 0x10000)] }

theorem witness_FabricEvents_frames : (paged 1 0 3).pageOfFrame 0x10000 = some (1, leafOf (paged 1 0 3)) ∧ (leafOf (paged 1 0 3)).state = 1 ∧
    (paged 1 0 3).migrating 1 (leafOf (paged 1 0 3)) = false ∧
    (paged 1 0 3).frameMeet (.remote 3 0) .read 0x10000 = .zero ∧ (paged 1 0 3).frameMeet (.remote 3 0) .write 0x10000 = .ask 1 0 ∧
    (paged 2 0 3).frameMeet (.remote 3 0) .read 0x10000 = .recall 1 0 ∧ (paged 3 0 3).frameMeet (.remote 3 0) .read 0x10000 = .wait ∧
    (paged 0 0 3).frameMeet (.remote 3 0) .write 0x10000 = .here ∧ (paged 0 0 3).servedHere 0x10000 4 = true ∧
    ({ paged 1 0 3 with pagerFailed := [(.remote 3 0, 1, 0)] } : State).frameMeet (.remote 3 0) .write 0x10000 = .failed 1 0 ∧
    (unitParts 0x10000 4).any (fun u => (paged 0 0 3).framePoisoned u.1) = false := by decide +kernel
theorem witness_FabricEvents_discards : (let a : Access := { acc .discard with elems := [(0, 0x10000), (1, 4096)] }
      a.op = .discard ∧ (paged 0 0 3).movedTo 0x10000 = none ∧ (paged 0 0 3).servedHere 0x10000 4096 = true ∧
        (leafOf (paged 0 0 3)).discards = true ∧ (leafOf (paged 0 0 1)).w = false ∧ (leafOf (paged 1 0 3)).discards = false) ∧
    (paged 0 0 3).pageOfFrame 0x10000 = some (1, leafOf (paged 0 0 3)) ∧ (leafOf (paged 0 0 3)).w = true := by decide +kernel

/-- The queue's packet stands past its boundary: its stamp write-back is out. -/
def midway : State :=
  { queue (pkt []) (fun u => { u with state := .suspended }) with
    fetches := [(0, { by_ := .hub 5 0, nth := 0, va := 0x2000, size := 4, op := .read, home := none })] }

theorem witness_QueueCommands_boundary : midway.midPacket 5 = true ∧ (midway.queueAt 5).halted = true ∧ (midway.queueAt 5).state ≠ .disabled ∧
    (queue (pkt []) fun u => { u with state := .suspended }).midPacket 5 = false ∧
    ((queue (pkt []) fun u => { u with state := .pending }).queueAt 5).state = .pending ∧
    Performs (partE (.ageMicro 5)) (.ageMicro 5) := by decide +kernel
theorem witness_PacketsAct_ends : (let c : HubCopy := { queue := 5, idx := 0, packet := (copyPkt.set 0 0x02000005#32).set 6 0x180#32, copied := 32 }
      let s : State := { queue copyPkt with hubCopies := [c] }
      (s.hubCopies.find? fun c => c.queue == 5 && c.idx == (0#32).toNat) = some c ∧ r1 c ≤ c.copied ∧ packetS c.packet = true ∧
        (s.engineWrite (.copy 5 0) (s.queueAt 5).ctxid.toNat 0 [(recVa c.packet 6 7, leBytes 8 0)]).1 = .done []) ∧
    (let f (u : Queue) : Queue := { u with inflight := u.most }
     PacketIs (queue copyPkt f) 5 copyPkt (seen copyPkt f) ∧ packetB copyPkt = false ∧
       ((seen copyPkt f).queueAt 5).most ≤ ((seen copyPkt f).queueAt 5).inflight ∧ packetB launchPkt = false) ∧
    (let i : Trigger := { armed 1#32 with image := pkt [6#32] }; i.state = .armed) ∧
    (let s : State := { prod 0#32 with triggers := [(16, { armed 2#32 with state := .armed }), (17, { armed 2#32 with state := .waiting })] }
     (s.triggers.filter fun t => t.2.state == .waiting && t.2.queue.toNat == 5).map (·.1) = [17]) := by decide +kernel
theorem witness_Groups_waves : (let s : State := { part with groups := [(1, { (waving 2#32).groupAt 1 with sumWrap := true })] }
      (s.groupAt 1).state = .running ∧ (s.groupAt 1).waveOn = true ∧ (s.groupAt 1).answered = (s.groupAt 1).cores.length ∧
        (s.groupAt 1).sumWrap = true ∧ (s.contextAt (s.groupAt 1).ctx).policy = 0#2) := by decide +kernel
theorem witness_GroupsArePreempted_more : (let s : State := { part with contexts := [(1, { part.contextAt 1 with ssize := 0 })] }
      (s.groupAt 1).state = .running ∧ s.canPreempt 1 (s.comingEntries 1 1) = false) ∧
    preempting.canPreempt 1 0 = true ∧
    (let s : State := { preempting with contexts := [(1, { part.contextAt 1 with ssize := 0 })] }
     s.quiesced 1 = true ∧ s.canPreempt 1 0 = false) ∧
    ((saved false).savedOf 1).filter (fun g => !((saved false).groupAt g).spilled && !((saved false).groupAt g).restoring) ≠ [] ∧
    (let s : State := { part with groups := [(1, { part.groupAt 1 with state := .binding, restoring := true, image := [(0, core)], version := 3#8, flaw := some (.spillEcc, 0#32) })],
                                  cores := [(0, { core with power := .binding })] }
     (s.groupAt 1).state = .binding ∧ (s.groupAt 1).restoring = true ∧ s.piecesGone 1 = true ∧ (s.restoreFlaw 1 s.freeWord.1).isSome = true) := by
  decide +kernel

/-- A part with nothing saved whose context's save area is one unit. -/
def bare : State := { part with groups := [] }

theorem witness_SaveAreasAreWritten : (bare.contextAt 1).save % 65536 = 0 ∧ bare.areaHolds 1 (bare.savedEntries 1) (bare.spilledOf 1).length = true ∧
    ((bare.savedOf 1).all fun g => (bare.groupAt g).entryBytes.length = 64 * bare.entryCount g) = true ∧ bare.spilledOf 1 = [] ∧
    (let s := saved true
     (s.savedOf 1) = [1] ∧ (s.spilledOf 1).length ≤ 1) := by decide +kernel

/-! ### The host and the device -/

theorem witness_HostWrites_more : HostWrites (partE (.registerWrite 0x1100030 1#32)) 0x1100030 1#32 ∧
    HostWrites (partE (.registerWrite 0x1100058 1#32)) 0x1100058 1#32 ∧
    HostWrites (partE (.registerWrite (0x120000C + 16 * 2047) 0#32)) (0x120000C + 16 * 2047) 0#32 ∧ (0#32).getLsbD 0 = false ∧
    part.device.msixMask.getLsbD 2047 = true ∧ ({ part with device := { part.device with msixMask := 0#2048 } } : State).device.msixMask.getLsbD 3 = false ∧
    NoneCompleting part 1 ∧ Performs (partE (.firmwareSetting (.partAddress 5))) (.firmwareSetting (.partAddress 5)) := by
  simp only [NoneCompleting]; decide +kernel
theorem witness_Checkpoints_streams : (let s : State := { pod true with device := { part.device with ckptReads := [4] } }
      s.device.ckptReads ≠ [] ∧ Performs (partE (.ckpt ckptDesc) s) (.ckpt ckptDesc)) ∧ part.device.ckptReads = [] ∧
    ({ pod true with feats := 8#128 } : State).portServes 6 = true ∧ ({ pod true with portsDown := [6] } : State).portServes 6 = false ∧
    (let ck : Ckpt := { full := true, tag := 5#64, ports := [{ port := 6, part := 1, base := 0, limit := 4096 }, { port := 5, part := 2, base := 0, limit := 4096 }] }
     let r : CkptRecord := { kind := 2, ctx := 1, where_ := 0, data := [7#8], leaf := none }
     ck.ports[3 % ck.ports.length]? = some { port := 5, part := 2, base := 0, limit := 4096 } ∧ r.kind ≠ 4 ∧ 0 + 64 + r.data.length ≤ 4096) ∧
    (leafOf (paged 1 0 3)).state = 1 ∧ (leafOf (paged 5 0 3)).state = 5 ∧ (leafOf (paged 0 0 3)).kind ≤ 1 ∧
    Performs (partE (.sensed [(2, 900)] [(3, 61)])) (.sensed [(2, 900)] [(3, 61)]) ∧
    Performs (partE (.minutePassed [(3, 61)] [(2, 9)])) (.minutePassed [(3, 61)] [(2, 9)]) := by decide +kernel

/-! ### Results of single instructions -/

/-- What a function of the next state gives, where an instruction completes. -/
def after {α : Type} (i : Instr) (s : State) (f : State → α) : Option α :=
  match exec i s with
  | .next t => some (f t)
  | _ => none

/-- x5 after an instruction on the part with x1, x2, … given. -/
def x5 (i : Instr) (l : List Word) : Option Word := after i (partT (regs l)) fun t => t.xAt ⟨0, .tc0⟩ 5#4

-- The example of R27.
theorem test_div_rounds_down : x5 (.div 2#4 5#4 1#4) [7#32, -2#32] = some (-3#32) := by decide +kernel
theorem test_rem_truncated_divisor : x5 (.rem 2#4 5#4 1#4) [7#32, -2#32] = some 1#32 := by decide +kernel
theorem test_div_negative_dividend : x5 (.div 2#4 5#4 1#4) [-7#32, 2#32] = some (-3#32) := by decide +kernel
theorem test_rem_negative_dividend : x5 (.rem 2#4 5#4 1#4) [-7#32, 2#32] = some (-1#32) := by decide +kernel
-- R78 to R81, by hand.
theorem test_add_wraps : x5 (.add 2#4 5#4 1#4) [0xFFFFFFFF#32, 2#32] = some 1#32 := by decide +kernel
theorem test_sub_order : x5 (.sub 2#4 5#4 1#4) [5#32, 7#32] = some (-2#32) := by decide +kernel
theorem test_sll_low_five_bits : x5 (.sll 2#4 5#4 1#4) [1#32, 33#32] = some 2#32 := by decide +kernel
theorem test_sra_sign : x5 (.sra 2#4 5#4 1#4) [0x80000000#32, 31#32] = some 0xFFFFFFFF#32 := by decide +kernel
theorem test_slt_signed : x5 (.slt 2#4 5#4 1#4) [-1#32, 0#32] = some 1#32 := by decide +kernel
theorem test_mulh_signed : x5 (.mulh 2#4 5#4 1#4) [-1#32, 2#32] = some 0xFFFFFFFF#32 := by decide +kernel
theorem test_clz_of_zero : x5 (.clz 5#4 1#4) [0#32] = some 32#32 := by decide +kernel
theorem test_addi_sign_extends : x5 (.addi 0xFFFF#16 5#4 1#4) [1#32] = some 0#32 := by decide +kernel
theorem test_x0_discards : after (.addi 7#16 0#4 0#4) part (fun t => t.xAt ⟨0, .tc0⟩ 0#4) = some 0#32 := by decide +kernel
theorem test_jal_links : after (.jal 0xFFFE#16 5#4 15#4) (partT fun t => { t with pc := 0x20#32 })
    (fun t => ((t.taskAt ⟨0, .tc0⟩).pc, t.xAt ⟨0, .tc0⟩ 5#4)) = some (0x1C#32, 0x24#32) := by decide +kernel
theorem test_beq_untaken : after (.beq 4#16 1#4 2#4) (partT (regs [1#32])) (fun t => (t.taskAt ⟨0, .tc0⟩).pc) = some 4#32 := by decide +kernel
-- R82 to R84, by hand.
theorem test_lb_sign_extends : after (.lb 2#16 5#4 1#4) ((partC fun c => { c with lm := c.lm.setWord 0x100 0x00800000#32 }).modT (regs [0x100#32]))
    (fun t => t.xAt ⟨0, .tc0⟩ 5#4) = some 0xFFFFFF80#32 := by decide +kernel
theorem test_sw_little_endian : after (.sw 0#16 2#4 1#4) (partT (regs [0x100#32, 0x11223344#32])) (fun t => (t.coreAt 0).lm.byte 0x100) = some 0x44#8 := by
  decide +kernel
theorem test_lw_misaligned_traps : after (.lw 2#16 5#4 1#4) part (fun t => ((t.taskAt ⟨0, .tc0⟩).trapMode, (t.taskAt ⟨0, .tc0⟩).tval)) = some (true, 2#32) := by
  decide +kernel

/-- The part with v2 given. -/
def withV2 (v : Vec) : State := partT fun t => { t with v := t.v.set 2 v }

/-- The low bits of v5 after an instruction. -/
def v5 (n : Nat) (i : Instr) (v : Vec) : Option Nat := after i (withV2 v) fun t => (t.taskAt ⟨0, .tc0⟩).v[5].toNat % 2 ^ n

-- The example of R117, and the table of R26 in lanes of s16.
theorem test_vrcp_of_three : v5 32 (.vrcp 7#3 5#3 2#3 0#2) 0x40400000#256 = some 0x3EAAAAAB := by decide +kernel
theorem test_vnarrow_rounds_to_even : v5 40 (.vnarrow 0#3 4#5 5#3 1#2 0#2) 0x0834FFD7FFD800380028#256 = some 0x7FFDFE0402 := by decide +kernel

-- R298: a byte of an unused signal of a WAITDEP that is not zero, by hand: byte 22 is the first of signal 1.
theorem test_waitdep_unused_signal : (let s := queue ((waitPkt 0#32).set 5 0x00010000#32)
    (after .waitdep { s with now := some (.waitdep 5) } fun t => ((t.queueAt 5).ecode, (t.queueAt 5).edetail)) = some (QErr.reserved.code, 22#32)) := by
  decide +kernel

end Sys2Proof.Tests
end

section
/-! SUPPORT. Division (R27): the model's quotients and remainders are those of two's complement, and they obey the law of
division. Settles O14. -/

namespace Sys2Proof.Proofs

open Sys2Proof.Machine Sys2Proof.Claims

/-! ## An instruction whose registers are free -/

/-- Where the named registers hold their values, an instruction goes on, in a task context and in the handler alike (R73, R94). -/
theorem withRegs_of_clear {s : State} {xs : List (BitVec 4)} {vs : List (BitVec 3)} (h : Clear s xs vs) (k : State → State) :
    s.withRegs xs vs k = k s := by
  rcases h with handler | ⟨noFault, noWait⟩
  · exact State.withRegs_handler s xs vs k handler
  · exact State.withRegs_task s xs vs k noFault noWait

/-- An instruction that writes a function of two free registers to a third completes with that value. -/
theorem opRR_of_clear {s : State} {a b d : BitVec 4} (h : Clear s [a, b, d] []) (n : Word) (f : Word → Word → Word) :
    opRR n d a b f s = .next ((s.setX d (f (s.x a) (s.x b))).retire n) := by
  rw [opRR, withRegs_of_clear h, ok]

/-! ## The quotient and the remainder -/

@[simp] theorem divS_zero (a : Word) : divS a 0#32 = 0xFFFFFFFF#32 := rfl
@[simp] theorem divU_zero (a : Word) : divU a 0#32 = 0xFFFFFFFF#32 := rfl
@[simp] theorem remS_zero (a : Word) : remS a 0#32 = a := rfl
@[simp] theorem remU_zero (a : Word) : remU a 0#32 = a := rfl

/-- The quotient towards zero, wrapped to 32 bits, is the two's-complement quotient. -/
theorem divS_eq_sdiv {a b : Word} (hb : b ≠ 0#32) : divS a b = a.sdiv b := by
  rw [divS, if_neg hb]
  exact BitVec.eq_of_toInt_eq (by rw [BitVec.toInt_ofInt, BitVec.toInt_sdiv])

/-- The remainder of the dividend's sign is the two's-complement remainder. -/
theorem remS_eq_srem {a b : Word} (hb : b ≠ 0#32) : remS a b = a.srem b := by
  rw [remS, if_neg hb, ← BitVec.toInt_srem, BitVec.ofInt_toInt]

theorem divS_min_neg_one : divS 0x80000000#32 0xFFFFFFFF#32 = 0x80000000#32 := by decide
theorem remS_min_neg_one : remS 0x80000000#32 0xFFFFFFFF#32 = 0#32 := by decide

/-- Only −2^31 ÷ −1 has a quotient that does not fit (R27). -/
theorem toInt_divS {a b : Word} (hb : b ≠ 0#32) (fits : ¬(a = 0x80000000#32 ∧ b = 0xFFFFFFFF#32)) :
    (divS a b).toInt = a.toInt.tdiv b.toInt := by
  rw [divS_eq_sdiv hb]
  exact BitVec.toInt_sdiv_of_ne_or_ne a b (not_and_or.1 fits)

theorem toInt_remS {a b : Word} (hb : b ≠ 0#32) : (remS a b).toInt = a.toInt.tmod b.toInt := by
  rw [remS_eq_srem hb, BitVec.toInt_srem]

/-- The signed law of division (R27). -/
theorem divS_mul_add_remS {a b : Word} (hb : b ≠ 0#32) (fits : ¬(a = 0x80000000#32 ∧ b = 0xFFFFFFFF#32)) :
    a.toInt = b.toInt * (divS a b).toInt + (remS a b).toInt := by
  rw [toInt_divS hb fits, toInt_remS hb, Int.mul_tdiv_add_tmod]

theorem remS_natAbs_lt {a b : Word} (hb : b ≠ 0#32) : (remS a b).toInt.natAbs < b.toInt.natAbs := by
  have divisor : b.toInt ≠ 0 := fun h => hb (BitVec.eq_of_toInt_eq (by simpa using h))
  rw [toInt_remS hb, Int.natAbs_tmod]
  exact Nat.mod_lt _ (Int.natAbs_pos.2 divisor)

/-- A remainder that is not zero has the dividend's sign (R27). -/
theorem remS_sign {a b : Word} (hb : b ≠ 0#32) : remS a b = 0#32 ∨ ((remS a b).toInt < 0 ↔ a.toInt < 0) := by
  have sign := Int.sign_tmod a.toInt b.toInt
  rw [← toInt_remS hb] at sign
  split at sign
  · exact .inl (BitVec.eq_of_toInt_eq (by simpa using Int.sign_eq_zero_iff_zero.1 sign))
  · exact .inr (by rw [← Int.sign_eq_neg_one_iff_neg, sign, Int.sign_eq_neg_one_iff_neg])

/-- The unsigned law of division (R27). -/
theorem divU_mul_add_remU {a b : Word} (hb : b ≠ 0#32) : a.toNat = b.toNat * (divU a b).toNat + (remU a b).toNat := by
  simp only [divU, remU, if_neg hb, BitVec.toNat_udiv, BitVec.toNat_umod, Nat.div_add_mod]

theorem remU_lt {a b : Word} (hb : b ≠ 0#32) : (remU a b).toNat < b.toNat := by
  have divisor : b.toNat ≠ 0 := fun h => hb (BitVec.eq_of_toNat_eq h)
  rw [remU, if_neg hb, BitVec.toNat_umod]
  exact Nat.mod_lt _ (Nat.pos_of_ne_zero divisor)

/-- Settles O14: the four results are divS, remS, divU and remU of the two registers. -/
theorem divisionLaw : Obligations.DivisionLaw := by
  unfold Obligations.DivisionLaw
  intro b d a s clear
  refine ⟨divS (s.x a) (s.x b), remS (s.x a) (s.x b), divU (s.x a) (s.x b), remU (s.x a) (s.x b),
    opRR_of_clear clear _ _, opRR_of_clear clear _ _, opRR_of_clear clear _ _, opRR_of_clear clear _ _, ?_, ?_, ?_, ?_⟩
  · intro hb
    simp [hb]
  · intro ha hb
    rw [ha, hb]
    exact ⟨divS_min_neg_one, remS_min_neg_one⟩
  · intro hb fits
    exact ⟨divS_mul_add_remS hb fits, remS_natAbs_lt hb, remS_sign hb⟩
  · intro hb
    exact ⟨divU_mul_add_remU hb, remU_lt hb⟩

end Sys2Proof.Proofs
end

section
/-! SUPPORT. Two's complement and t5 bytes (R5, R25, R28, R29), words written one behind another, and rectangles of values listed row
after row. -/

namespace Sys2Proof.Proofs

open Sys2Proof.Machine Sys2Proof.Claims

/-! ## Two's complement (R25) -/

/-- The two's-complement value of the low n bits is that of a word of n bits. -/
theorem sintOf_eq_toInt (n w : Nat) : sintOf n w = (BitVec.ofNat n w).toInt := by
  simp only [sintOf, BitVec.toInt_eq_toNat_cond, BitVec.toNat_ofNat]
  norm_cast

@[simp] theorem sintOf_toNat {n : Nat} (b : BitVec n) : sintOf n b.toNat = b.toInt := by
  rw [sintOf_eq_toInt, BitVec.ofNat_toNat, BitVec.setWidth_eq]

theorem wrapInt_lt (n : Nat) (i : Int) : wrapInt n i < 2 ^ n := by
  have upper := Int.emod_lt_of_pos i (b := 2 ^ n) (by positivity)
  have lower := Int.emod_nonneg i (b := 2 ^ n) (by positivity)
  rw [wrapInt, Int.toNat_lt lower]
  exact_mod_cast upper

@[simp] theorem ofNat_wrapInt (n : Nat) (i : Int) : BitVec.ofNat n (wrapInt n i) = BitVec.ofInt n i := by
  apply BitVec.eq_of_toNat_eq
  rw [BitVec.toNat_ofNat, Nat.mod_eq_of_lt (wrapInt_lt n i), BitVec.toNat_ofInt, wrapInt]
  norm_cast

/-- The value of a signed byte is the sum of the weights of its set bits (R158). -/
theorem sum_planes_eq_toInt (b : Byte) :
    ((List.range 8).map fun p => if b.getLsbD p then planeWeight p else 0).sum = b.toInt := by
  revert b
  decide

/-! ## Trits (R28, R29) -/

/-- The five trits of a byte, in the words of the statements. -/
theorem tritsOf_fst (b : Byte) : (tritsOf b.toNat).1 = (List.range 5).map (tritOf b) := by
  unfold tritsOf
  split
  · rename_i invalid
    have zeros : (List.range 5).map (tritOf b) = List.replicate 5 0 := List.map_eq_replicate_iff.2 fun k _ => if_pos invalid
    exact zeros.symm
  · rename_i valid
    exact List.map_congr_left fun k _ => (if_neg valid).symm

/-! ## Words one behind another (R5) -/

theorem setBytes_append (m : Mem) (a : Nat) (bs cs : List Byte) :
    m.setBytes a (bs ++ cs) = (m.setBytes a bs).setBytes (a + bs.length) cs := by
  induction bs generalizing m a with
  | nil => rfl
  | cons b bs ih =>
    rw [List.cons_append, Mem.setBytes, Mem.setBytes, ih, List.length_cons, Nat.add_right_comm, Nat.add_assoc]

/-- A word apart from the bytes written is as before. -/
theorem word_setBytes_out {m : Mem} {a w : Nat} {bs : List Byte} (apart : w + 4 ≤ a ∨ a + bs.length ≤ w) :
    (m.setBytes a bs).word w = m.word w := by
  have same : (m.setBytes a bs).bytes w 4 = m.bytes w 4 :=
    List.map_congr_left fun i hi => Mem.byte_setBytes_out _ _ _ _ (by have := List.mem_range.1 hi; omega)
  rw [Mem.word, Mem.le, same, Mem.word, Mem.le]

/-- A word written is read back in its low 32 bits. -/
theorem word_setBytes_leBytes (m : Mem) (a v : Nat) : (m.setBytes a (leBytes 4 v)).word a = BitVec.ofNat 32 v := by
  have read := Mem.bytes_setBytes (leBytes 4 v) m a
  rw [leBytes_length] at read
  rw [Mem.word, Mem.le, read, leNat_leBytes]
  exact BitVec.eq_of_toNat_eq (by simp)

theorem length_flatMap_leBytes (vs : List Nat) : (vs.flatMap (leBytes 4)).length = 4 * vs.length := by
  simp [List.length_flatMap, Nat.mul_comm]

/-- Of words written one behind another, each is read back at its place. -/
theorem word_setBytes_flatMap (vs : List Nat) (m : Mem) (a n : Nat) (h : n < vs.length) :
    (m.setBytes a (vs.flatMap (leBytes 4))).word (a + 4 * n) = BitVec.ofNat 32 vs[n] := by
  induction vs generalizing m a n with
  | nil => simp at h
  | cons v vs ih =>
    rw [List.flatMap_cons, setBytes_append, leBytes_length]
    cases n with
    | zero => rw [word_setBytes_out (by omega)]; exact word_setBytes_leBytes m a v
    | succ n =>
      rw [Nat.mul_succ, Nat.add_comm (4 * n), ← Nat.add_assoc, ih _ _ _ (by simpa using h)]
      rfl

/-! ## Rectangles of values, row after row -/

/-- The rows of a rectangle one behind another: number q stands at row q ÷ n and column q mod n. -/
theorem flatMap_range_map {α : Type} (g : Nat → Nat → α) (r n : Nat) :
    ((List.range r).flatMap fun i => (List.range n).map (g i)) = (List.range (r * n)).map fun q => g (q / n) (q % n) := by
  induction r with
  | zero => simp
  | succ r ih =>
    rw [List.range_succ, List.flatMap_append, ih, List.flatMap_singleton, Nat.succ_mul, List.range_add, List.map_append, List.map_map]
    congr 1
    refine List.map_congr_left fun j hj => ?_
    have column : j < n := List.mem_range.1 hj
    simp [Nat.mul_add_div (Nat.zero_lt_of_lt column), Nat.mul_comm r n, Nat.div_eq_of_lt column, Nat.mod_eq_of_lt column]

theorem zipIdx_map_range {α : Type} (f : Nat → α) (n : Nat) :
    ((List.range n).map f).zipIdx = (List.range n).map fun i => (f i, i) :=
  List.ext_getElem (by simp) fun i _ _ => by simp

theorem foldl_add_eq_sum {α : Type} (f : α → Int) (l : List α) (a : Int) :
    l.foldl (fun acc x => acc + f x) a = a + (l.map f).sum := by
  induction l generalizing a with
  | nil => simp
  | cons x l ih => simp [ih, Int.add_assoc]

/-- A rectangle's sum by rows is its sum by columns. -/
theorem sum_map_sum_comm {α β : Type} (f : α → β → Int) (as : List α) (bs : List β) :
    (as.map fun a => (bs.map (f a)).sum).sum = (bs.map fun b => (as.map fun a => f a b).sum).sum := by
  induction as with
  | nil => simp
  | cons a as ih => simp [ih, List.sum_map_add]

end Sys2Proof.Proofs
end

section
/-! SUPPORT. The products of the array (R43, R155, R157, R158): what the exact sums are, and what of a tile they replace. Settles O41. -/

namespace Sys2Proof.Proofs

open Sys2Proof.Machine Sys2Proof.Claims

/-! ## Elements of tiles (R139 to R141) -/

theorem tileS8_eq_toInt (t : Mem) (o : Nat) : tileS8 t o = (t.byte o).toInt := sintOf_toNat _

theorem tileS32_eq_toInt (t : Mem) (o : Nat) : tileS32 t o = (t.word o).toInt := sintOf_eq_toInt 32 _

/-- An element of a t5 tile is a byte (R140). -/
theorem at_of_t5 {h : Shape} (code : h.code = 8) (r c : Nat) : h.at_ r c = r * h.c + c := by
  simp [Shape.at_, Shape.eb, code]

/-! ## Sums written to a tile (R43) -/

theorem length_sumBytes (sums : List Int) : (sums.flatMap fun v => leBytes 4 (wrapInt 32 v)).length = 4 * sums.length := by
  simp [List.length_flatMap, Nat.mul_comm]

/-- Each s32 element written is its exact sum wrapped. -/
theorem s32At_writeSums (t : Mem) (g : Nat → Nat → Int) {r n i j : Nat} (hi : i < r) (hj : j < n) :
    s32At (writeSums t ((List.range r).flatMap fun i => (List.range n).map (g i))) n i j = (g i j).bmod (2 ^ 32) := by
  have inside : i * n + j < r * n := by
    have := Nat.mul_le_mul_right n (Nat.succ_le_of_lt hi)
    rw [Nat.succ_mul] at this
    omega
  have row : (i * n + j) / n = i := by
    rw [Nat.mul_comm, Nat.mul_add_div (Nat.zero_lt_of_lt hj), Nat.div_eq_of_lt hj, Nat.add_zero]
  have column : (i * n + j) % n = j := by rw [Nat.mul_comm, Nat.mul_add_mod, Nat.mod_eq_of_lt hj]
  have read := word_setBytes_flatMap ((List.range (r * n)).map fun q => wrapInt 32 (g (q / n) (q % n))) t 0 (i * n + j)
    (by simpa using inside)
  simp only [List.flatMap_map, Nat.zero_add, List.getElem_map, List.getElem_range, row, column, ofNat_wrapInt] at read
  rw [s32At, writeSums, flatMap_range_map, List.flatMap_map, read, BitVec.toInt_ofInt]

/-- The bytes behind the sums are as before. -/
theorem byte_writeSums_out (t : Mem) (g : Nat → Nat → Int) {r n k : Nat} (behind : 4 * r * n ≤ k) :
    (writeSums t ((List.range r).flatMap fun i => (List.range n).map (g i))).byte k = t.byte k := by
  apply Mem.byte_setBytes_out
  rw [length_sumBytes, flatMap_range_map, List.length_map, List.length_range, ← Nat.mul_assoc]
  omega

/-! ## Ternary products (R154, R155, R157) -/

/-- The trits of a row of weight bytes. -/
theorem rowTrits_eq {kw w : Nat} (enough : kw ≤ 5 * w) (byte : Nat → Byte) :
    rowTrits kw ((List.range w).map byte) = (List.range kw).map fun k => tritOf (byte (k / 5)) (k % 5) := by
  simp only [rowTrits, List.flatMap_map, tritsOf_fst]
  rw [flatMap_range_map (fun i k => tritOf (byte i) k), ← List.map_take, List.take_range, Nat.min_eq_left (by omega)]

/-- The weight rows of PMT are the trits of the weight tile. -/
theorem tileWeights_trits {hw : Shape} (code : hw.code = 8) (r kw : Nat) (w : Mem) :
    ((tileWeights hw r kw w).map fun row => rowTrits kw (row.map (·.2))) =
      (List.range r).map fun i => (List.range kw).map (tritIn w hw.c i) := by
  simp only [tileWeights, List.map_map, Function.comp_def, at_of_t5 code]
  exact List.map_congr_left fun i _ => rowTrits_eq (by omega) _

/-- The exact sum of one element of a ternary product: what stood there, and trits times elements. -/
def ternarySum (τ : Nat → Nat → Trit) (n kw : Nat) (md ma : Mem) (i j : Nat) : Int :=
  s32At md n i j + ((List.range kw).map fun k => τ i k * s8At ma n k j).sum

/-- The sums of a ternary product, row after row. -/
theorem ternarySums_eq (τ : Nat → Nat → Trit) (n r kw : Nat) (md ma : Mem) :
    ternarySums n ((List.range r).map fun i => (List.range kw).map (τ i)) md ma =
      (List.range r).flatMap fun i => (List.range n).map (ternarySum τ n kw md ma i) := by
  simp only [ternarySums, zipIdx_map_range, List.flatMap_map, List.foldl_map]
  refine List.flatMap_congr fun i _ => List.map_congr_left fun j _ => ?_
  rw [foldl_add_eq_sum, tileS32_eq_toInt]
  simp only [tileS8_eq_toInt]
  rfl

/-- PMT with the shapes of R157 and three tiles writes the sums of its trits. -/
theorem runPmt_write {b : Bank} (c : ArrayCmd) {w d a : BitVec 3} (da : d ≠ a) (dw : d ≠ w) (dCode : (b.shape d).code = 4)
    (dRows : (b.shape d).r ≤ 32) (dCols : (b.shape d).c ≤ 8) (aCode : (b.shape a).code = 0) (aRows : (b.shape a).r ≤ 160)
    (aCols : (b.shape a).c = (b.shape d).c) (wCode : (b.shape w).code = 8) (wRows : (b.shape d).r ≤ (b.shape w).r)
    (wCols : (b.shape a).r ≤ 5 * (b.shape w).c) :
    (runPmt b c w d a).write = some (d, writeSums (b.tile d) ((List.range (b.shape d).r).flatMap fun i => (List.range (b.shape d).c).map
      (ternarySum (tritIn (b.tile w) (b.shape w).c) (b.shape d).c (b.shape a).r (b.tile d) (b.tile a) i))) := by
  have bytes : ¬ (b.shape w).c < ((b.shape a).r + 4) / 5 := by omega
  have legal : (!streamShapes (b.shape d) (b.shape a) 4 0 || (b.shape w).code != 8 || (b.shape w).r < (b.shape d).r ||
      (b.shape w).c < ((b.shape a).r + 4) / 5 || d == a || d == w) = false := by
    simp [streamShapes, *]
  simp only [runPmt, legal, Bool.false_eq_true, if_false, ternaryDone]
  rw [tileWeights_trits wCode, ternarySums_eq]

/-! ## Plane products (R158) -/

/-- The exact sum of one element of a plane product: what stood there, and products of signed bytes. -/
def planeSum (k n : Nat) (md ma mb : Mem) (i j : Nat) : Int :=
  s32At md n i j + ((List.range k).map fun q => s8At ma k i q * s8At mb n q j).sum

/-- The sums of planes weighted are sums of products of signed bytes, row after row. -/
theorem planeSums_eq (r n k : Nat) (md ma mb : Mem) :
    planeSums r n k md ma mb = (List.range r).flatMap fun i => (List.range n).map (planeSum k n md ma mb i) := by
  refine List.flatMap_congr fun i _ => List.map_congr_left fun j _ => ?_
  have term (p q : Nat) (acc : Int) : (if (ma.byte (i * k + q)).getLsbD p then acc + planeWeight p * tileS8 mb (q * n + j) else acc) =
      acc + (if (ma.byte (i * k + q)).getLsbD p then planeWeight p else 0) * s8At mb n q j := by
    rw [tileS8_eq_toInt]
    split <;> simp [s8At]
  simp only [term, foldl_add_eq_sum, sum_map_sum_comm, List.sum_map_mul_right, sum_planes_eq_toInt, tileS32_eq_toInt]
  rfl

/-- PBP with the shapes of R158 and three tiles writes the sums of its products. -/
theorem runPbp_write {b : Bank} {w d a : BitVec 3} (da : d ≠ a) (dw : d ≠ w) (dCode : (b.shape d).code = 4)
    (dRows : (b.shape d).r ≤ 32) (dCols : (b.shape d).c ≤ 8) (aCode : (b.shape a).code = 0) (aRows : (b.shape a).r = (b.shape d).r)
    (aCols : (b.shape a).c ≤ 64) (wCode : (b.shape w).code = 0) (wRows : (b.shape w).r = (b.shape a).c)
    (wCols : (b.shape w).c = (b.shape d).c) :
    (runPbp b w d a).write = some (d, writeSums (b.tile d) ((List.range (b.shape d).r).flatMap fun i => (List.range (b.shape d).c).map
      (planeSum (b.shape a).c (b.shape d).c (b.tile d) (b.tile a) (b.tile w) i))) := by
  have legal : ((b.shape d).code != 4 || 32 < (b.shape d).r || 8 < (b.shape d).c || (b.shape a).code != 0 ||
      (b.shape a).r != (b.shape d).r || 64 < (b.shape a).c || (b.shape w).code != 0 || (b.shape w).r != (b.shape a).c ||
      (b.shape w).c != (b.shape d).c || d == a || d == w) = false := by
    simp [*]
  simp only [runPbp, legal, Bool.false_eq_true, if_false]
  rw [planeSums_eq]

/-- Settles O41: both products write sums to the rectangle of the destination, row after row. -/
theorem arrayProducts : Obligations.ArrayProducts := by
  unfold Obligations.ArrayProducts
  intro b w d a hd ha hw
  constructor
  · intro c da dw dCode dRows dCols aCode aRows aCols wCode wRows wCols
    refine ⟨_, runPmt_write c da dw dCode dRows dCols aCode aRows aCols wCode wRows wCols, ?_,
      fun k behind => byte_writeSums_out _ _ behind⟩
    intro i j hi hj
    rw [aCols]
    exact s32At_writeSums _ (ternarySum _ _ _ _ _) hi hj
  · intro da dw dCode dRows dCols aCode aRows aCols wCode wRows wCols
    refine ⟨_, runPbp_write da dw dCode dRows dCols aCode aRows aCols wCode wRows wCols, ?_,
      fun k behind => byte_writeSums_out _ _ behind⟩
    intro i j hi hj
    exact s32At_writeSums _ (planeSum _ _ _ _ _) hi hj

end Sys2Proof.Proofs
end

section
/-! SUPPORT. Vector instructions of a task context whose registers are free, and their lanes in the words of the statements
(R60, R112, R113). -/

namespace Sys2Proof.Proofs

open Sys2Proof.Machine Sys2Proof.Claims

/-! ## Completion -/

/-- A change of the issuing task context puts in its place what the change makes of it. -/
theorem modT_eq_const (s : State) (f : TaskCtx → TaskCtx) : s.modT f = s.modT fun _ => f s.task := by
  unfold State.modT State.modTask State.modCore Core.modTask State.task State.taskAt Core.task
  cases s.who.ctx <;> rfl

/-- A vector instruction of a task context whose registers are free puts its result in the context's place and retires. -/
theorem vector_of_clear {s : State} {xs : List (BitVec 4)} {vs : List (BitVec 3)} (task : InTask s) (clear : Clear s xs vs)
    (f : TaskCtx → TaskCtx) : s.vector xs vs f = (s.modT fun _ => f s.task).retire 4#32 := by
  rw [State.vector, State.inTask_task _ _ task, withRegs_of_clear clear, modT_eq_const]

/-- A vector instruction on the whole state does what it does and retires. -/
theorem vectorX_of_clear {s : State} {xs : List (BitVec 4)} {vs : List (BitVec 3)} (task : InTask s) (clear : Clear s xs vs)
    (f : State → State) : s.vectorX xs vs f = (f s).retire 4#32 := by
  rw [State.vectorX, State.inTask_task _ _ task, withRegs_of_clear clear]

/-! ## Lanes and predicates -/

theorem laneAt_eq_laneOf (v : Vec) (w k : Nat) : laneAt v w k = laneOf v w k := (laneOf_extract v w k).symm

theorem lane_eq_laneAt (s : State) (r : BitVec 3) (et k : Nat) : s.task.lane r et k = laneAt (vr s r) (etBits et) k :=
  (laneAt_eq_laneOf _ _ _).symm

theorem laneF_eq_fpAt (s : State) (r : BitVec 3) (et k : Nat) : s.task.laneF r et k = fpAt s r et k := by
  rw [TaskCtx.laneF, lane_eq_laneAt, fpAt]

theorem laneAt_lt (v : Vec) (w k : Nat) : laneAt v w k < 2 ^ w := BitVec.isLt _

theorem active_iff (s : State) (p : BitVec 2) (k : Nat) : s.task.active p k = true ↔ Active s p k := by
  simp [TaskCtx.active, Active]

@[simp] theorem setV_get_same (t : TaskCtx) (d : BitVec 3) (v : Vec) : (t.setV d v).v[d.toFin] = v := by simp

theorem setV_get_other (t : TaskCtx) {d e : BitVec 3} (h : e ≠ d) (v : Vec) : (t.setV d v).v[e.toFin] = t.v[e.toFin] := by
  simp only [TaskCtx.setV_v, Fin.getElem_fin]
  exact Vector.getElem_set_ne _ _ fun same => h (BitVec.eq_of_toNat_eq same).symm

@[simp] theorem flag_v (t : TaskCtx) (f : BitVec 4) : (t.flag f).v = t.v := rfl

/-- A lane of a register put together from a list of no more lanes than it has. -/
theorem laneAt_ofLanes_map {w n k : Nat} (f : Nat → Nat) (room : w * n ≤ 256) (inside : k < n) :
    laneAt (ofLanes w ((List.range n).map f)) w k = f k % 2 ^ w := by
  rw [laneAt_eq_laneOf, laneOf_ofLanes _ (by simpa using room)]
  simp [List.getD, inside]

/-- The lanes behind those of the list are zero. -/
theorem laneAt_ofLanes_map_out {w n k : Nat} (f : Nat → Nat) (room : w * n ≤ 256) (behind : n ≤ k) :
    laneAt (ofLanes w ((List.range n).map f)) w k = 0 := by
  rw [laneAt_eq_laneOf, laneOf_ofLanes _ (by simpa using room)]
  simp [List.getD, behind]

end Sys2Proof.Proofs
end

section
/-! SUPPORT. Conversions of lanes (R36, R118) and trit packing (R28, R29, R120). -/

namespace Sys2Proof.Proofs

open Sys2Proof.Machine Sys2Proof.Claims

/-! ## VCVT (R118) -/

/-- What one lane of a VCVT that makes no draws becomes. -/
def convAt (st dt : Nat) (rm : Rm) (a d : Nat → Nat) (act : Nat → Bool) (i : Nat) : Res :=
  if min (lanes st) (lanes dt) ≤ i then ⟨0, 0#4⟩ else if act i then convLane st dt rm 0 (a i) else ⟨d i, 0#4⟩

/-- Without stochastic rounding the lanes convert one by one and the generator stays (R34). -/
theorem convLanes_of_no_draws (st dt : Nat) {rm : Rm} (noDraws : rm ≠ .sr) (a d : Nat → Nat) (act : Nat → Bool) (l : List Nat) (g : Word) :
    convLanes st dt rm a d act l g = (l.map (convAt st dt rm a d act), g) := by
  induction l with
  | nil => rfl
  | cons i l ih => simp only [convLanes, convAt, List.map_cons, ih, noDraws, false_and, if_false]; split_ifs <;> rfl

/-- Only the field value 2 asks for stochastic rounding (R33). -/
theorem rmOfField_ne_sr {r : BitVec 2} (h : r ≠ 2#2) : rmOfField r.toNat ≠ .sr := by
  revert r
  decide

/-- The task context after VCVT. -/
def convTask (so e : BitVec 3) (r : BitVec 2) (d a : BitVec 3) (p : BitVec 2) (t : TaskCtx) : TaskCtx :=
  let c := convLanes so.toNat e.toNat (rmOfField r.toNat) (t.lane a so.toNat) (t.lane d e.toNat) (t.active p)
    (List.range (lanes e.toNat)) t.lfsr
  { (t.setV d (ofLanes (etBits e.toNat) (c.1.map (·.val)))).flag (flagsOf c.1) with lfsr := c.2 }

theorem convTask_sameButVectors (so e : BitVec 3) (r : BitVec 2) (d a : BitVec 3) (p : BitVec 2) (t : TaskCtx) :
    SameButVectors t (convTask so e r d a p t) := rfl

theorem exec_vcvt {s : State} {d a : BitVec 3} (task : InTask s) (clear : Clear s [] [a, d]) (so e : BitVec 3) (r p : BitVec 2) :
    exec (.vcvt so e r d a p) s = .next ((s.modT fun _ => convTask so e r d a p s.task).retire 4#32) := by
  show execVcvt so e r d a p s = _
  rw [execVcvt, vector_of_clear task clear]
  rfl

theorem convTask_lfsr {so e : BitVec 3} {r : BitVec 2} (noDraws : r ≠ 2#2) (d a : BitVec 3) (p : BitVec 2) (t : TaskCtx) :
    (convTask so e r d a p t).lfsr = t.lfsr := by
  rw [convTask, convLanes_of_no_draws _ _ (rmOfField_ne_sr noDraws)]

/-- Each lane of VCVT's destination. -/
theorem convTask_lane {so e : BitVec 3} {r : BitVec 2} (noDraws : r ≠ 2#2) (d a : BitVec 3) (p : BitVec 2) (t : TaskCtx) {k : Nat}
    (inside : k < lanes e.toNat) : laneAt (convTask so e r d a p t).v[d.toFin] (etBits e.toNat) k =
      (convAt so.toNat e.toNat (rmOfField r.toNat) (t.lane a so.toNat) (t.lane d e.toNat) (t.active p) k).val % 2 ^ etBits e.toNat := by
  have room : etBits e.toNat * lanes e.toNat ≤ 256 := (lanes_bits _ e.isLt).le
  rw [convTask, convLanes_of_no_draws _ _ (rmOfField_ne_sr noDraws)]
  simp only [flag_v, setV_get_same, List.map_map]
  exact laneAt_ofLanes_map _ room inside

/-- A lane that the source lacks is zero, an active one is converted, an inactive one stays (R113, R118). -/
theorem convTask_lanes {so e : BitVec 3} {r : BitVec 2} (noDraws : r ≠ 2#2) (d a : BitVec 3) (p : BitVec 2) (s : State) {k : Nat}
    (inside : k < lanes e.toNat) :
    (lanes so.toNat ≤ k → laneAt (convTask so e r d a p s.task).v[d.toFin] (etBits e.toNat) k = 0) ∧
    (k < lanes so.toNat → Active s p k → laneAt (convTask so e r d a p s.task).v[d.toFin] (etBits e.toNat) k =
      (convLane so.toNat e.toNat (rmOfField r.toNat) 0 (laneAt (vr s a) (etBits so.toNat) k)).val % 2 ^ etBits e.toNat) ∧
    (k < lanes so.toNat → ¬ Active s p k →
      laneAt (convTask so e r d a p s.task).v[d.toFin] (etBits e.toNat) k = laneAt (vr s d) (etBits e.toNat) k) := by
  rw [convTask_lane noDraws d a p s.task inside, convAt]
  refine ⟨fun lacks => ?_, fun has act => ?_, fun has inactive => ?_⟩
  · rw [if_pos (min_le_of_left_le lacks), Nat.zero_mod]
  · rw [if_neg (by omega), if_pos ((active_iff s p k).2 act), lane_eq_laneAt]
  · rw [if_neg (by omega), if_neg (mt (active_iff s p k).1 inactive), lane_eq_laneAt]
    exact Nat.mod_eq_of_lt (laneAt_lt _ _ _)

/-! ## VTRIT (R120) -/

/-- The task context after VTRIT. -/
def unpackTask (d a : BitVec 3) (p : BitVec 2) (t : TaskCtx) : TaskCtx :=
  (t.lanewise 0 d p fun i => plain (if i < 30 then wrapInt 8 (tritAt (t.lane a 0) i) else 0)).flag
    (if (List.range 6).any fun j => 242 < t.lane a 0 j then 1#4 else 0#4)

theorem exec_vtrit {s : State} {d a : BitVec 3} (task : InTask s) (clear : Clear s [] [a, d]) (p : BitVec 2) :
    exec (.vtrit d a p) s = .next ((s.modT fun _ => unpackTask d a p s.task).retire 4#32) := by
  show execVtrit d a p s = _
  rw [execVtrit, vector_of_clear task clear]
  rfl

theorem unpackTask_sameButVectors (d a : BitVec 3) (p : BitVec 2) (t : TaskCtx) : SameButVectors t (unpackTask d a p t) := rfl

/-- Each active byte of VTRIT's destination is a trit of its source. -/
theorem unpackTask_lane (d a : BitVec 3) (p : BitVec 2) (s : State) {k : Nat} (inside : k < 32) :
    laneAt (unpackTask d a p s.task).v[d.toFin] 8 k =
      if Active s p k then (if k < 30 then wrap 8 (tritAt (laneAt (vr s a) 8) k) else 0) else laneAt (vr s d) 8 k := by
  obtain ⟨lane, -⟩ := TaskCtx.lanewise_spec 0 (by decide) d p
    (fun i => plain (if i < 30 then wrapInt 8 (tritAt (s.task.lane a 0) i) else 0)) s.task
  have byte : s.task.lane a 0 = laneAt (vr s a) 8 := funext (lane_eq_laneAt s a 0)
  have fits : (if k < 30 then wrapInt 8 (tritAt (laneAt (vr s a) 8) k) else 0) < 2 ^ 8 := by
    split
    · exact wrapInt_lt 8 _
    · decide
  rw [laneAt_eq_laneOf, unpackTask, flag_v]
  refine (lane k inside).trans ?_
  simp only [active_iff, plain, byte]
  rw [laneAt_eq_laneOf (vr s d)]
  exact if_congr Iff.rfl (Nat.mod_eq_of_lt fits) rfl

/-! ## VPACKT (R28, R120) -/

/-- A code in its digits. -/
theorem t5Byte_digits (f : Nat → Int) : t5Byte ((List.range 5).map f) = (f 0 + 1).toNat + ((f 1 + 1).toNat * 3 +
    ((f 2 + 1).toNat * 9 + ((f 3 + 1).toNat * 27 + (f 4 + 1).toNat * 81))) := by
  simp [t5Byte, List.range_succ]

/-- Five trits make a code. -/
theorem t5Byte_le {f : Nat → Int} (trits : ∀ k, -1 ≤ f k ∧ f k ≤ 1) : t5Byte ((List.range 5).map f) ≤ 242 := by
  have := trits 0; have := trits 1; have := trits 2; have := trits 3; have := trits 4
  rw [t5Byte_digits]
  omega

/-- The digits of a code are its trits. -/
theorem t5Byte_digit {f : Nat → Int} (trits : ∀ k, -1 ≤ f k ∧ f k ≤ 1) {k : Nat} (hk : k < 5) :
    ((t5Byte ((List.range 5).map f) / 3 ^ k % 3 : Nat) : Int) - 1 = f k := by
  have := trits 0; have := trits 1; have := trits 2; have := trits 3; have := trits 4
  rw [t5Byte_digits]
  interval_cases k <;> omega

/-- What is packed unpacks again (R28, R29). -/
theorem tritsOf_t5Byte {f : Nat → Int} (trits : ∀ k, -1 ≤ f k ∧ f k ≤ 1) {k : Nat} (hk : k < 5) :
    (tritsOf (t5Byte ((List.range 5).map f))).1.getD k 0 = f k := by
  rw [tritsOf, if_neg (Nat.not_lt.2 (t5Byte_le trits)), List.getD_eq_getElem _ _ (by simpa using hk)]
  simpa using t5Byte_digit trits hk

/-- Thirty trits in six bytes unpack again. -/
theorem tritAt_packed {f : Nat → Int} (trits : ∀ k, -1 ≤ f k ∧ f k ≤ 1) {byte : Nat → Nat}
    (packed : ∀ j, j < 6 → byte j = t5Byte ((List.range 5).map fun m => f (5 * j + m))) {k : Nat} (hk : k < 30) :
    tritAt byte k = f k := by
  rw [tritAt, packed _ (by omega), tritsOf_t5Byte (fun m => trits (5 * (k / 5) + m)) (Nat.mod_lt k (by decide)), Nat.div_add_mod]

/-- What VPACKT takes of a lane: the sign of an active one, with its SAT. -/
def packedLane (a : BitVec 3) (p : BitVec 2) (t : TaskCtx) (k : Nat) : Int × BitVec 4 :=
  if t.active p k then signTrit (t.laneInt a 0 k) else (0, 0#4)

theorem packedLane_fst (a : BitVec 3) (p : BitVec 2) (t : TaskCtx) (k : Nat) :
    (packedLane a p t k).1 = if t.active p k then (t.laneInt a 0 k).sign else 0 := by
  unfold packedLane
  split <;> rfl

theorem packedLane_bounds (a : BitVec 3) (p : BitVec 2) (t : TaskCtx) (k : Nat) :
    -1 ≤ (packedLane a p t k).1 ∧ (packedLane a p t k).1 ≤ 1 := by
  rw [packedLane_fst]
  split
  · rcases Int.sign_trichotomy (t.laneInt a 0 k) with h | h | h <;> simp [h]
  · decide

/-- Byte j of VPACKT's result. -/
def packedByte (a : BitVec 3) (p : BitVec 2) (t : TaskCtx) (j : Nat) : Nat :=
  t5Byte ((List.range 5).map fun m => (packedLane a p t (5 * j + m)).1)

/-- The model's bytes, taken from the list of thirty lanes, are these. -/
theorem packedBytes_eq (a : BitVec 3) (p : BitVec 2) (t : TaskCtx) :
    ((List.range 6).map fun j => t5Byte ((List.range 5).map fun k =>
      (((List.range 30).map (packedLane a p t)).getD (5 * j + k) (0, 0#4)).1)) = (List.range 6).map (packedByte a p t) := by
  refine List.map_congr_left fun j hj => congrArg t5Byte (List.map_congr_left fun k hk => ?_)
  have inside : 5 * j + k < 30 := by simp only [List.mem_range] at hj hk; omega
  simp [List.getD, inside]

/-- VPACKT writes the six bytes of its trits, zeros behind them, and sets flags. -/
theorem exec_vpackt {s : State} {d a : BitVec 3} (task : InTask s) (clear : Clear s [] [a, d]) (p : BitVec 2) :
    ∃ fl, exec (.vpackt d a p) s =
      .next ((s.modT fun _ => (s.task.setV d (ofLanes 8 ((List.range 6).map (packedByte a p s.task)))).flag fl).retire 4#32) := by
  refine ⟨((List.range 30).map (packedLane a p s.task)).foldr (fun x f => x.2 ||| f) 0#4, ?_⟩
  show execVpackt d a p s = _
  rw [execVpackt, vector_of_clear task clear, ← packedBytes_eq]
  rfl

/-- The bytes of VPACKT's result, read as trits. -/
theorem tritAt_packedRegister (a : BitVec 3) (p : BitVec 2) (s : State) {k : Nat} (hk : k < 30) :
    tritAt (laneAt (ofLanes 8 ((List.range 6).map (packedByte a p s.task))) 8) k =
      if Active s p k then (sintOf 8 (laneAt (vr s a) 8 k)).sign else 0 := by
  have packed (j : Nat) (hj : j < 6) : laneAt (ofLanes 8 ((List.range 6).map (packedByte a p s.task))) 8 j = packedByte a p s.task j := by
    have := t5Byte_le fun m => packedLane_bounds a p s.task (5 * j + m)
    rw [laneAt_ofLanes_map _ (by decide) hj]
    exact Nat.mod_eq_of_lt (by unfold packedByte; omega)
  rw [tritAt_packed (packedLane_bounds a p s.task) packed hk, packedLane_fst]
  exact if_congr (active_iff s p k) (by rw [TaskCtx.laneInt, lane_eq_laneAt]; rfl) rfl

end Sys2Proof.Proofs
end

section
/-! SUPPORT. Microscaled blocks (R39, R125, R126): the scale of a block, dequantised quads, and VCLEAR (R127). Settles O29. -/

namespace Sys2Proof.Proofs

open Sys2Proof.Machine Sys2Proof.Claims

/-! ## Rounded values fit their format (R30, R31) -/

theorem ffmt_zero_le (f : FFmt) (neg : Bool) : f.zero neg ≤ 256 * 2 ^ f.frac := by cases neg <;> simp [FFmt.zero]

theorem ffmt_infinity_lt (f : FFmt) (neg : Bool) : f.infinity neg < 512 * 2 ^ f.frac := by cases neg <;> simp [FFmt.infinity]

theorem ffmt_maxFinite_lt (f : FFmt) (neg : Bool) : f.maxFinite neg < 512 * 2 ^ f.frac :=
  (Nat.sub_le _ _).trans_lt (ffmt_infinity_lt f neg)

/-- Either overflow value fits (R33). -/
theorem ffmt_overflow_lt (f : FFmt) (neg keep : Bool) : (if keep then f.maxFinite neg else f.infinity neg) < 512 * 2 ^ f.frac := by
  split
  · exact ffmt_maxFinite_lt f neg
  · exact ffmt_infinity_lt f neg

theorem ffmt_qnan_lt (f : FFmt) : f.qnan < 512 * 2 ^ f.frac := by
  have : 2 ^ (f.frac - 1) ≤ 2 ^ f.frac := Nat.pow_le_pow_right (by decide) (Nat.sub_le _ _)
  have := Nat.two_pow_pos f.frac
  unfold FFmt.qnan
  omega

/-- A packed value has its sign, eight exponent bits and its fraction. -/
theorem ffmt_pack_lt (f : FFmt) (rm : Rm) (neg : Bool) (q : Nat) (e : Int) : (f.pack rm neg q e).val < 512 * 2 ^ f.frac := by
  have pos := Nat.two_pow_pos f.frac
  have zero := ffmt_zero_le f neg
  unfold FFmt.pack
  dsimp only
  split
  · exact zero.trans_lt (by omega)
  · split
    · exact zero.trans_lt (by omega)
    · split
      · exact ffmt_overflow_lt f neg _
      · rename_i notSmall notLarge
        have exponent : (e + q.log2 + 127).toNat * 2 ^ f.frac ≤ 254 * 2 ^ f.frac := Nat.mul_le_mul_right _ (by omega)
        have fraction := Nat.mod_lt (q * 2 ^ f.prec / 2 ^ (q.log2 + 1)) pos
        dsimp only
        omega

theorem ffmt_round_lt (f : FFmt) (rm : Rm) (r : Nat) (x : FVal) : (f.round rm r x).val < 512 * 2 ^ f.frac := by
  cases x with
  | nan => exact ffmt_qnan_lt f
  | inf neg => exact ffmt_infinity_lt f neg
  | fin neg m e =>
    rw [FFmt.round]
    split
    · exact (ffmt_zero_le f neg).trans_lt (by have := Nat.two_pow_pos f.frac; omega)
    · exact ffmt_pack_lt f rm neg _ _

theorem fmt32_rne_lt (x : FVal) : (fmt32.rne x).val < 2 ^ 32 := ffmt_round_lt fmt32 .rne 0 x

/-! ## The scale of a block (R125) -/

/-- A value rounded to units of a scale lies in −127 to 127. -/
def FitsUnits (e : Nat) (f : FVal) : Prop := ∃ y, inUnits e f = some y ∧ y.natAbs ≤ 127

/-- The first of the numbers 0 to n that passes a test, or n when none does: no number before it passes. -/
theorem find_range_getD (p : Nat → Bool) (n : Nat) :
    let e := ((List.range (n + 1)).find? p).getD n
    e ≤ n ∧ (e = n ∨ p e = true) ∧ ∀ i, i < e → p i = false := by
  cases found : (List.range (n + 1)).find? p with
  | none =>
    have fails := List.find?_range_eq_none.1 found
    exact ⟨le_rfl, .inl rfl, fun i below => by simpa using fails i (Nat.lt_succ_of_lt below)⟩
  | some e =>
    obtain ⟨passes, inside, before⟩ := List.find?_range_eq_some.1 found
    exact ⟨Nat.le_of_lt_succ (List.mem_range.1 inside), .inr passes, fun i below => by simpa using before i below⟩

/-- A block's scale is the least under which every element fits, or 254 (R125). -/
theorem blockScale_least (fs : List FVal) :
    blockScale fs ≤ 254 ∧ (blockScale fs = 254 ∨ ∀ f ∈ fs, FitsUnits (blockScale fs) f) ∧
      ∀ e, e < blockScale fs → ∃ f ∈ fs, ¬ FitsUnits e f := by
  obtain ⟨p, test, scale⟩ : ∃ p : Nat → Bool, (∀ e, p e = true ↔ ∀ f ∈ fs, FitsUnits e f) ∧
      blockScale fs = ((List.range (254 + 1)).find? p).getD 254 := by
    refine ⟨_, fun e => ?_, rfl⟩
    rw [List.all_eq_true]
    refine forall₂_congr fun f _ => ?_
    cases units : inUnits e f <;> simp [FitsUnits, units]
  obtain ⟨bound, least, below⟩ := find_range_getD p 254
  rw [scale]
  refine ⟨bound, least.imp_right (test _).1, fun e he => ?_⟩
  have fails : ¬ ∀ f ∈ fs, FitsUnits e f := fun fits => by simpa [below e he] using (test e).2 fits
  simpa using fails

/-- A block without a NaN is quantised under its scale. -/
theorem quantise_fst {fs : List FVal} (numbers : ∀ f ∈ fs, f ≠ .nan) : (quantise fs).1 = blockScale fs := by
  have noNan : fs.any FVal.isNan = false := by simpa [FVal.isNan] using numbers
  simp [quantise, noNan]

/-! ## VMXQ and BADQ (R125, R126) -/

theorem exec_vmxq {s : State} {x : BitVec 4} {d : BitVec 3} {q : BitVec 1} (task : InTask s) (clear : Clear s [x] (d :: quadRegs q))
    (p : BitVec 2) : exec (.vmxq x d q p) s = .next ((s.writeBlock d x ((List.range 32).map fun k =>
      if s.task.active p k then fpAt s (quadReg q (k / 8)) 7 (k % 8) else .fin false 0 0)).retire 4#32) := by
  show execVmxq x d q p s = _
  rw [execVmxq, vectorX_of_clear task clear]
  simp only [TaskCtx.quadElem, laneF_eq_fpAt]
  rfl

theorem exec_badq {s : State} {x : BitVec 4} {d a : BitVec 3} (task : InTask s) (clear : Clear s [x] [d, a]) (p : BitVec 2)
    (numberD : (s.x x).toNat % 256 ≠ 255) (numberA : (s.x x).toNat / 256 % 256 ≠ 255) :
    exec (.badq x d a p) s = .next ((s.writeBlock d x ((List.range 32).map fun k =>
      if s.task.active p k then (mx8Val (laneAt (vr s d) 8 k) ((s.x x).toNat % 256)).add
        (mx8Val (laneAt (vr s a) 8 k) ((s.x x).toNat / 256 % 256)) else .fin false 0 0)).retire 4#32) := by
  show execBadq x d a p s = _
  rw [execBadq, vectorX_of_clear task clear]
  simp only [numberD, numberA, or_self, if_false, lane_eq_laneAt]
  rfl

/-! ## VMXD (R125) -/

/-- The four registers of a quad are different ones. -/
theorem quadReg_injective : ∀ (q : BitVec 1) (i j : Nat), i < 4 → j < 4 → quadReg q i = quadReg q j → i = j := by
  have small : ∀ (q : BitVec 1) (i j : Fin 4), quadReg q i = quadReg q j → i = j := by decide
  exact fun q i j hi hj same => congrArg Fin.val (small q ⟨i, hi⟩ ⟨j, hj⟩ same)

/-- What element k of a dequantised quad becomes. -/
def dequantised (e : Nat) (a : BitVec 3) (q : BitVec 1) (p : BitVec 2) (j : Nat) (src : TaskCtx) (i : Nat) : Res :=
  if src.active p (8 * j + i) then fmt32.rne (mx8Val (src.lane a 0 (8 * j + i)) e) else ⟨src.lane (quadReg q j) 7 i, 0#4⟩

/-- The first n registers of a quad dequantised. -/
def dequantiseQuad (e : Nat) (a : BitVec 3) (q : BitVec 1) (p : BitVec 2) (n : Nat) (src : TaskCtx) : TaskCtx :=
  (List.range n).foldl (fun u j => TaskCtx.dequantise e a q p j src u) src

theorem dequantiseQuad_succ (e : Nat) (a : BitVec 3) (q : BitVec 1) (p : BitVec 2) (n : Nat) (src : TaskCtx) :
    dequantiseQuad e a q p (n + 1) src = TaskCtx.dequantise e a q p n src (dequantiseQuad e a q p n src) := by
  rw [dequantiseQuad, List.range_succ, List.foldl_append]
  rfl

theorem dequantise_v (e : Nat) (a : BitVec 3) (q : BitVec 1) (p : BitVec 2) (j : Nat) (src t : TaskCtx) :
    (TaskCtx.dequantise e a q p j src t).v =
      (t.setV (quadReg q j) (ofLanes 32 ((List.range 8).map fun i => (dequantised e a q p j src i).val))).v := by
  simp only [TaskCtx.dequantise, flag_v, List.map_map]
  rfl

theorem dequantiseQuad_sameButVectors (e : Nat) (a : BitVec 3) (q : BitVec 1) (p : BitVec 2) (n : Nat) (src : TaskCtx) :
    SameButVectors src (dequantiseQuad e a q p n src) := by
  induction n with
  | zero => rfl
  | succ n ih => rw [dequantiseQuad_succ]; exact ih

/-- A register once dequantised stays so while the others are. -/
theorem dequantiseQuad_v (e : Nat) (a : BitVec 3) (q : BitVec 1) (p : BitVec 2) (src : TaskCtx) {n j : Nat} (hn : n ≤ 4) (hj : j < n) :
    (dequantiseQuad e a q p n src).v[(quadReg q j).toFin] =
      ofLanes 32 ((List.range 8).map fun i => (dequantised e a q p j src i).val) := by
  induction n with
  | zero => omega
  | succ n ih =>
    rw [dequantiseQuad_succ]
    simp only [dequantise_v]
    by_cases last : j = n
    · rw [last, setV_get_same]
    · rw [setV_get_other _ fun same => last (quadReg_injective q j n (by omega) (by omega) same), ih (by omega) (by omega)]

theorem exec_vmxd {s : State} {x : BitVec 4} {a : BitVec 3} {q : BitVec 1} (task : InTask s) (clear : Clear s [x] (a :: quadRegs q))
    (p : BitVec 2) : exec (.vmxd x q a p) s =
      .next ((s.modT fun _ => dequantiseQuad ((s.x x).toNat % 256) a q p 4 s.task).retire 4#32) := by
  show execVmxd x q a p s = _
  rw [execVmxd, vectorX_of_clear task clear]
  dsimp only
  rw [modT_eq_const]
  rfl

/-- Each active element of a dequantised quad is its mx8 value rounded to f32. -/
theorem dequantiseQuad_lane (e : Nat) (a : BitVec 3) (q : BitVec 1) (p : BitVec 2) (s : State) {k : Nat} (inside : k < 32)
    (act : s.task.active p k = true) : laneAt (dequantiseQuad e a q p 4 s.task).v[(quadReg q (k / 8)).toFin] 32 (k % 8) =
      (fmt32.rne (mx8Val (laneAt (vr s a) 8 k) e)).val := by
  rw [dequantiseQuad_v _ _ _ _ _ le_rfl (by omega), laneAt_ofLanes_map _ (by decide) (Nat.mod_lt k (by decide)), dequantised,
    Nat.div_add_mod, if_pos act, lane_eq_laneAt]
  exact Nat.mod_eq_of_lt (fmt32_rne_lt _)

/-! ## VCLEAR (R127) -/

theorem vclear_of_clear {s : State} (task : InTask s) (clear : Clear s [] allVregs) (n : Word) :
    s.vclear n = (s.modT TaskCtx.clearVectors).retire n := by
  rw [State.vclear, State.inTask_task _ _ task, withRegs_of_clear clear]

/-! ## The statement -/

/-- Settles O29, clause by clause: each instruction puts one task context, or one quantised block, in place. -/
theorem conversionsAndBlocks : Obligations.ConversionsAndBlocks := by
  unfold Obligations.ConversionsAndBlocks
  refine ⟨?vcvt, ?stochastic, ?vtrit, ?vpackt, ?vmxq, ?vmxd, ?badq, ?quantise, ?vclear⟩
  case vcvt =>
    intro so e r d a p s task clear noDraws
    exact ⟨_, exec_vcvt task clear so e r p, convTask_lfsr noDraws d a p _, convTask_sameButVectors so e r d a p _,
      fun k inside => convTask_lanes noDraws d a p s inside⟩
  case stochastic =>
    intro so e d a p s task clear
    exact ⟨_, exec_vcvt task clear so e 2#2 p, convTask_sameButVectors so e 2#2 d a p _⟩
  case vtrit =>
    intro d a p s task clear
    exact ⟨_, exec_vtrit task clear p, unpackTask_sameButVectors d a p _, fun k inside => unpackTask_lane d a p s inside⟩
  case vpackt =>
    intro d a p s task clear
    obtain ⟨fl, completes⟩ := exec_vpackt task clear p
    refine ⟨_, completes, rfl, fun k inside => ?_, fun k behind _ => ?_⟩
    · rw [flag_v, setV_get_same]
      exact tritAt_packedRegister a p s inside
    · rw [flag_v, setV_get_same]
      exact laneAt_ofLanes_map_out _ (by decide) behind
  case vmxq =>
    intro x d q p s task clear
    exact exec_vmxq task clear p
  case vmxd =>
    intro x q a p s task clear
    exact ⟨_, exec_vmxd task clear p, dequantiseQuad_sameButVectors _ a q p 4 _,
      fun k inside act => dequantiseQuad_lane _ a q p s inside act⟩
  case badq =>
    intro x d a p s task clear numberD numberA
    exact exec_badq task clear p numberD numberA
  case quantise =>
    intro fs numbers
    dsimp only
    rw [quantise_fst numbers]
    exact blockScale_least fs
  case vclear =>
    intro s task clear
    exact ⟨congrArg _ (vclear_of_clear task clear 4#32), congrArg _ (vclear_of_clear task clear 2#32)⟩

end Sys2Proof.Proofs
end

section
/-! SUPPORT. The event being performed is changed by nothing that a step does after its instruction: parking, replaying and the slices
leave it alone, so the turn that State.after chooses is a legal one. Settles O10. -/

namespace Sys2Proof.Proofs

open Sys2Proof.Machine Sys2Proof.Claims

/-! ## Slices keep the event being performed -/

@[simp] theorem setPhysBytes_now (s : State) (a : Nat) (bs : List Byte) : (s.setPhysBytes a bs).now = s.now := by
  unfold State.setPhysBytes; split <;> simp

@[simp] theorem writeLeaf_now (s : State) (l : Leaf) (raw : Nat) : (s.writeLeaf l raw).now = s.now := rfl

@[simp] theorem setPageState_now (s : State) (l : Leaf) (st : Nat) : (s.setPageState l st).now = s.now := rfl

@[simp] theorem touch_now (s : State) (l : Leaf) (w : Bool) : (s.touch l w).now = s.now := by
  unfold State.touch; split <;> simp

@[simp] theorem modSlice_now (s : State) (k : Nat) (f : Slice → Slice) : (s.modSlice k f).now = s.now := rfl

@[simp] theorem writeSectors_now (s : State) (l : SLine) (is : List Nat) : (s.writeSectors l is).now = s.now := by
  unfold State.writeSectors; exact foldl_keeps State.now _ (fun _ _ => by rfl) is s

@[simp] theorem writeBack_now (s : State) (l : SLine) : (s.writeBack l).now = s.now := by
  unfold State.writeBack; dsimp only; split <;> simp

@[simp] theorem dropLine_now (s : State) (k : Nat) (l : SLine) : (s.dropLine k l).now = s.now := by
  simp [State.dropLine]

@[simp] theorem fetchGranule_now (s : State) (c v : Nat) (l : Leaf) : (s.fetchGranule c v l).now = s.now := by
  unfold State.fetchGranule; exact foldl_keeps State.now _ (fun _ _ => by rfl) _ s

@[simp] theorem memRead_now (s : State) (c v r : Nat) (l : Leaf) : (s.memRead c v r l).now = s.now := by
  unfold State.memRead; split <;> simp

@[simp] theorem memWrite_now (s : State) (c v r : Nat) (l : Leaf) (bs : List Byte) : (s.memWrite c v r l bs).now = s.now := by
  unfold State.memWrite; dsimp only
  split
  · simp
  · split
    · simp
    · split
      · rw [modSlice_now]; split <;> simp
      · split <;> simp

@[simp] theorem elemWrite_now (s : State) (c v r : Nat) (l : Leaf) (bs : List Byte) : (s.elemWrite c v r l bs).now = s.now :=
  foldl_keeps State.now _ (fun t _ => memWrite_now t ..) _ s

@[simp] theorem clearPoison_now (s : State) (c v : Nat) (l : Leaf) : (s.clearPoison c v l).now = s.now := by
  unfold State.clearPoison; split
  · rfl
  · exact foldl_keeps State.now _ (fun t a => by split <;> simp) _ s

@[simp] theorem cleansePieces_now (s : State) (c : Nat) (ps : List (Nat × Nat × Leaf)) : (s.cleansePieces c ps).now = s.now :=
  foldl_keeps State.now _ (fun t x => by dsimp only; split <;> simp) ps s

@[simp] theorem makeRoom_now {α : Type} (s : State) (n : Nat) (xs : List α) : (s.makeRoom n xs).2.now = s.now := by
  unfold State.makeRoom; split <;> rfl

@[simp] theorem holdPointer_now (s : State) (k : Nat) (p : Nat × Nat × Nat) : (s.holdPointer k p).now = s.now := by
  unfold State.holdPointer; split <;> simp

@[simp] theorem countAccess_now (s : State) (k c p v : Nat) : (s.countAccess k c p v).now = s.now := by
  unfold State.countAccess; dsimp only; split
  · simp
  · simp [foldl_keeps State.now (State.holdPointer k) (fun t x => holdPointer_now t k x)]

@[simp] theorem unpin_now (s : State) (k c n : Nat) : (s.unpin k c n).now = s.now := by
  unfold State.unpin; dsimp only; split
  · split <;> simp
  · rfl

@[simp] theorem noteRequest_now (s : State) (c v r : Nat) (l : Leaf) : (s.noteRequest c v r l).now = s.now := by
  unfold State.noteRequest; dsimp only; split
  · rw [modSlice_now]; split <;> simp
  · simp

@[simp] theorem dropPage_now (s : State) (c : Nat) (l : Leaf) (k : Bool) : (s.dropPage c l k).now = s.now := by
  unfold State.dropPage; dsimp only; split
  · exact foldl_keeps State.now (fun (t : State) (e : Nat × SLine) => t.writeBack e.2) (fun t e => writeBack_now t e.2) _ s
  · rfl

@[simp] theorem victimise_now (s : State) (c : Nat) (l : Leaf) : (s.victimise c l).now = s.now := by
  unfold State.victimise; dsimp only; split
  · rfl
  · split
    · rw [State.postAll_now, dropPage_now, setPageState_now]
    · rfl

@[simp] theorem sweep_now (s : State) (k : Nat) : (s.sweep k).2.now = s.now := by unfold State.sweep; rfl

@[simp] theorem evict_now (s : State) (k : Nat) : (s.evict k).now = s.now := by
  unfold State.evict; dsimp only; split
  · split
    · rw [victimise_now, sweep_now, dropLine_now]
    · rw [sweep_now, dropLine_now]
  · rfl

@[simp] theorem flip_now (s : State) : s.flip.2.now = s.now := rfl

@[simp] theorem evictOver_now (s : State) (k : Nat) : (s.evictOver k).now = s.now := by
  have h := foldl_keeps State.now (fun (t : State) (_ : Nat) => t.evict k) (fun t _ => evict_now t k)
    (List.range ((s.sliceAt k).general.length - generalLines)) s
  unfold State.evictOver; dsimp only; split
  · rw [evict_now, flip_now]; exact h
  · rw [flip_now]; exact h

@[simp] theorem evictFor_now (s : State) (c : Nat) (vas : List Nat) : (s.evictFor c vas).now = s.now :=
  foldl_keeps State.now (fun (t : State) (k : Nat) => t.evictOver k) (fun t k => evictOver_now t k) _ s

@[simp] theorem noteLines_now (s : State) (c r : Nat) (ps : List (Nat × Leaf)) (counted : List Nat) :
    (s.noteLines c r ps counted).now = s.now := by
  have h := foldl_keeps (fun acc : List Nat × State => acc.2.now)
    (fun (acc : List Nat × State) (p : Nat × Leaf) =>
      if acc.1.contains (p.1 / 128) then acc else (p.1 / 128 :: acc.1, acc.2.noteRequest c p.1 r p.2))
    (fun acc x => by split <;> simp) ps (counted, s)
  unfold State.noteLines; dsimp only; split
  · rw [evictFor_now]; exact h
  · exact h

/-! ## The pager, the victim tier and messages keep it -/

@[simp] theorem askPager_now (s : State) (c p : Nat) : (s.askPager c p).now = s.now := by
  unfold State.askPager; split <;> rfl

@[simp] theorem recall_now (s : State) (c p : Nat) : (s.recall c p).now = s.now := by
  unfold State.recall; split
  · split <;> rfl
  · rfl

@[simp] theorem powerDown_now (s : State) (k : Nat) : (s.powerDown k).now = s.now := by
  unfold State.powerDown; split <;> simp

@[simp] theorem freeVictim_now (s : State) (c p : Nat) : (s.freeVictim c p).now = s.now := by
  unfold State.freeVictim; split
  · exact foldl_keeps State.now (fun (t : State) k => t.powerDown k) (fun t k => powerDown_now t k) _ _
  · rfl

@[simp] theorem hold_now (s : State) (g : Nat) (e : Event) : (s.hold g e).now = s.now := rfl

@[simp] theorem postTo_now (s : State) (g : Nat) (e : Event) : (s.postTo g e).now = s.now := by
  unfold State.postTo; split <;> simp

@[simp] theorem toPart_now (s : State) (p : Nat) (r : FabReq) : (s.toPart p r).now = s.now := rfl

@[simp] theorem dropL1_now (s : State) (k : Nat) : (s.dropL1 k).now = s.now := rfl

@[simp] theorem dropLease_now (s : State) (i : Issuer) : (s.dropLease i).now = s.now := rfl

/-! ## An access at its slice keeps it -/

@[simp] theorem parkDone_now (s : State) (id : Nat) : (s.parkDone id).now = s.now := by
  unfold State.parkDone; split <;> simp

@[simp] theorem parkFail_now (s : State) (id seq : Nat) (c : Cause) (va : Nat) : (s.parkFail id seq c va).now = s.now := by
  simp [State.parkFail]

@[simp] theorem finish_now (s : State) (a : Access) : (s.finish a).now = s.now := by
  unfold State.finish; split
  · simp
  · split <;> simp

@[simp] theorem answerFault_now (s : State) (a : Access) (c : Cause) (va : Nat) : (s.answerFault a c va).now = s.now := by
  unfold State.answerFault; dsimp only; split
  · simp
  · split <;> simp

@[simp] theorem fillLine_now (s : State) (a : Access) (u : Nat) (bs : List Byte) : (s.fillLine a u bs).now = s.now := by
  unfold State.fillLine; split <;> simp

@[simp] theorem performAt_now (e : Nat × Nat) (l : Leaf) (as : State × Access) : (State.performAt e l as).1.now = as.1.now := by
  unfold State.performAt; dsimp only; split <;> simp

@[simp] theorem performElem_now (x : (Nat × Nat) × Meet) (as : State × Access) : (State.performElem x as).1.now = as.1.now := by
  unfold State.performElem; dsimp only
  split
  · split <;> simp
  · dsimp only; split <;> simp
  · rfl

@[simp] theorem cleanse_now (s : State) (a : Access) (ms : List ((Nat × Nat) × Meet)) : (s.cleanse a ms).now = s.now := by
  unfold State.cleanse; split <;> simp

@[simp] theorem touched_now (s : State) (m : Meet) (w : Bool) : (m.touched w s).now = s.now := by
  unfold Meet.touched; split <;> simp

@[simp] theorem expectFills_now (s : State) (a : Access) (id : Nat) (ms : List ((Nat × Nat) × Meet)) :
    (s.expectFills a id ms).now = s.now := by
  unfold State.expectFills; split <;> simp

@[simp] theorem sendAway_now (s : State) (a : Access) (tgt : Option Nat) (mine : List ((Nat × Nat) × Meet)) (later : List (Nat × Nat)) :
    (s.sendAway a tgt mine later).now = s.now := by
  have h : (mine.foldl (fun s x => x.2.touched (a.need != .read) s) s).now = s.now :=
    foldl_keeps State.now _ (fun t x => touched_now t ..) mine s
  unfold State.sendAway; split
  · simp
  · dsimp only; split <;> simp [State.newWait, State.freeAge, State.freeWord, h]

@[simp] theorem discardPage_now (s : State) (c : Nat) (l : Leaf) : (s.discardPage c l).now = s.now := by
  simp [State.discardPage]

@[simp] theorem discardAll_now (c : Nat) (es : List (Nat × Nat)) (s : State) : (State.discardAll c es s).2.now = s.now := by
  induction es generalizing s with
  | nil => rfl
  | cons e es ih =>
    unfold State.discardAll; split
    · split
      · rfl
      · split
        · exact ih s
        · split
          · rfl
          · rw [ih, discardPage_now]
    · exact ih s

@[simp] theorem sendDiscard_now (s : State) (a : Access) (e : Nat × Nat) (l : Leaf) (rest : List (Nat × Nat)) :
    (s.sendDiscard a e l rest).now = s.now := by
  unfold State.sendDiscard; split <;> simp [State.newWait, State.freeAge, State.freeWord]

@[simp] theorem sliceDiscard_now (s : State) (a : Access) : (s.sliceDiscard a).now = s.now := by
  have h := discardAll_now a.ctx a.elems s
  unfold State.sliceDiscard; split
  · rename_i t e; rw [e] at h; simpa using h
  · rename_i t e
    rw [e] at h
    split
    · split <;> simpa using h
    · exact h

@[simp] theorem slice_now (s : State) (a : Access) : (s.slice a).now = s.now := by
  unfold State.slice; split
  · simp
  · dsimp only; split
    · simp
    · split
      · exact foldl_keeps State.now (fun (t : State) p => t.askPager a.ctx p) (fun t p => askPager_now t ..) _ _
      · split
        · rw [State.post_now]
          exact foldl_keeps State.now (fun (t : State) p => t.recall a.ctx p) (fun t p => recall_now t ..) _ _
        · split
          · simp
          · split
            · simp
            · have h (l : List ((Nat × Nat) × Meet)) :=
                foldl_keeps (fun as : State × Access => as.1.now) (fun as x => State.performElem x as) (fun as x => performElem_now x as) l (s, a)
              split <;> simpa using h _

/-! ## Escalations keep it -/

@[simp] theorem unbind_now (s : State) (q : Nat) : (s.unbind q).now = s.now := by
  unfold State.unbind; split <;> rfl

@[simp] theorem requestPass_now (s : State) : s.requestPass.now = s.now := by
  unfold State.requestPass; split <;> rfl

@[simp] theorem queueError_now (s : State) (q : Nat) (e : QErr) (i d : Word) : (s.queueError q e i d).now = s.now := by
  unfold State.queueError; dsimp only; split
  · rfl
  · split <;> simp [State.freeWord]

@[simp] theorem writeFault_now (s : State) (c g : Nat) (r : FaultRec) : (s.writeFault c g r).now = s.now := rfl

@[simp] theorem failGroup_now (s : State) (g : Nat) : (s.failGroup g).now = s.now := by
  unfold State.failGroup; dsimp only; split
  · split <;> simp
  · rfl

@[simp] theorem abortReleased_now (s : State) (c : Nat) : (s.abortReleased c).now = s.now := by
  unfold State.abortReleased; dsimp only
  rw [foldl_keeps State.now _ fun t e => ?_]
  rw [queueError_now]; split <;> simp

@[simp] theorem terminate_now (s : State) (c : Nat) : (s.terminate c).now = s.now := by
  simp [State.terminate]

@[simp] theorem escalate_now (s : State) (g : Nat) (c : Cause) (r : FaultRec) : (s.escalate g c r).now = s.now := by
  unfold State.escalate; dsimp only; split
  · rfl
  · split
    · simp
    · split
      · split <;> simp
      · rw [foldl_keeps State.now (fun (t : State) g => t.failGroup g) (fun t g => failGroup_now t g)]
        split <;> simp

@[simp] theorem escalateAt_now (s : State) (i : Issuer) (c : Cause) (v e : Word) : (s.escalateAt i c v e).now = s.now := by
  unfold State.escalateAt; dsimp only; split <;> simp

/-! ## Parking, replaying and the next turn -/

@[simp] theorem handOver_now (s : State) (i : Issuer) : (s.handOver i).now = s.now := by
  unfold State.handOver; dsimp only; split
  · simp
  · split <;> simp [State.newWait]

@[simp] theorem replay_now (s : State) : s.replay.now = s.now := by
  refine foldl_keeps State.now _ (fun t a => ?_) _ s
  split <;> simp

@[simp] theorem settleParks_now (s : State) : s.settleParks.now = s.now := by
  unfold State.settleParks; split
  · rfl
  · rw [replay_now, foldl_keeps State.now _ fun t a => ?_]
    split <;> simp

/-- The part of a legal turn that State.turns lists: a context that issues next, or a message with none before it (R72, R95). -/
def Allowed (s : State) (c : Turn × Issuer) : Prop :=
  match c.1 with
  | .context => c.2.ctx ∈ s.issuers c.2.core
  | .event _ => True
  | .pending k => s.deliverable k = true

theorem allowed_of_mem_turns {s : State} {c : Turn × Issuer} (h : c ∈ s.turns) : Allowed s c := by
  simp only [State.turns, List.mem_append, List.mem_flatMap, List.mem_map, List.mem_filter] at h
  obtain (⟨e, -, x, hx, rfl⟩ | ⟨e, -, rfl⟩) | ⟨k, ⟨-, hk⟩, rfl⟩ := h
  · exact hx
  · trivial
  · exact hk

/-- Whatever is chosen, one of the listed turns or a cycle of the core clock, is allowed. -/
theorem allowed_chosen (s : State) (n : Nat) (i : Issuer) : Allowed s (s.turns.getD n (.event .coreClockCycle, i)) := by
  rcases h : s.turns[n]? with _ | c
  · simp [List.getD, h, Allowed]
  · simpa [List.getD, h] using allowed_of_mem_turns (List.mem_of_getElem? h)

/-- A turn that is allowed stays so when it is recorded: who may issue, and which message may be performed, read neither the turn nor
what counts the choices. -/
theorem turnLegal_of_allowed {s : State} {c : Turn × Issuer} (n : Nat) (hn : s.now = none) (h : Allowed s c) :
    TurnLegal { s with turn := c.1, who := c.2, freeCount := n } := by
  refine ⟨hn, ?_⟩
  rcases c with ⟨_ | e | k, w⟩
  · exact h
  · trivial
  · exact h

theorem after_turnLegal (s : State) : TurnLegal s.after :=
  turnLegal_of_allowed _ (by simp) (allowed_chosen _ _ _)

theorem step_eq_after {s t : State} (h : step s = .next t) : ∃ u, t = State.after u := by
  unfold step at h
  split at h
  · rename_i u _
    exact ⟨_, (Host.Outcome.next.inj h).symm⟩
  all_goals cases h

/-- Settles O10: a step ends by choosing among the turns that the order allows, and what it does last performs no event. -/
theorem everyStepLeavesLegalTurn : Obligations.EveryStepLeavesLegalTurn := by
  intro s t _ h
  obtain ⟨u, rfl⟩ := step_eq_after h
  exact after_turnLegal u

end Sys2Proof.Proofs
end

section
/-! SUPPORT. Scalar arithmetic (R27, R62, R78 to R81): the values that the instructions form are those of the statements. -/

namespace Sys2Proof.Proofs

open Sys2Proof.Machine Sys2Proof.Claims

/-! ## Values -/

theorem boolWord_slt (a b : Word) : boolWord (a.slt b) = flag (a.toInt < b.toInt) := by
  simp [boolWord, flag, BitVec.slt]

theorem boolWord_ult (a b : Word) : boolWord (a.ult b) = flag (a.toNat < b.toNat) := by
  simp [boolWord, flag, BitVec.ult]

theorem toInt_sext {n : Nat} (i : BitVec n) (h : n ≤ 32) : (sext i).toInt = i.toInt := BitVec.toInt_signExtend_of_le h

theorem toNat_zext {n : Nat} (i : BitVec n) (h : n ≤ 32) : (zext i).toNat = i.toNat := by
  rw [zext, BitVec.toNat_setWidth, Nat.mod_eq_of_lt (Nat.lt_of_lt_of_le i.isLt (Nat.pow_le_pow_right (by decide) h))]

theorem smin_eq (a b : Word) : smin a b = BitVec.ofInt 32 (Min.min a.toInt b.toInt) := by
  unfold smin; split
  · rw [min_eq_left ‹_›, BitVec.ofInt_toInt]
  · rw [min_eq_right (by omega), BitVec.ofInt_toInt]

theorem smax_eq (a b : Word) : smax a b = BitVec.ofInt 32 (Max.max a.toInt b.toInt) := by
  unfold smax; split
  · rw [max_eq_right ‹_›, BitVec.ofInt_toInt]
  · rw [max_eq_left (by omega), BitVec.ofInt_toInt]

theorem umin_eq (a b : Word) : umin a b = BitVec.ofNat 32 (Min.min a.toNat b.toNat) := by
  unfold umin; split
  · rw [min_eq_left ‹_›, BitVec.ofNat_toNat, BitVec.setWidth_eq]
  · rw [min_eq_right (by omega), BitVec.ofNat_toNat, BitVec.setWidth_eq]

theorem umax_eq (a b : Word) : umax a b = BitVec.ofNat 32 (Max.max a.toNat b.toNat) := by
  unfold umax; split
  · rw [max_eq_right ‹_›, BitVec.ofNat_toNat, BitVec.setWidth_eq]
  · rw [max_eq_left (by omega), BitVec.ofNat_toNat, BitVec.setWidth_eq]

theorem mul_eq_ofInt (a b : Word) : a * b = BitVec.ofInt 32 (a.toInt * b.toInt) := by
  rw [BitVec.ofInt_mul, BitVec.ofInt_toInt, BitVec.ofInt_toInt]

/-- The signed product of 64 bits is exact, so its upper word is the product divided by 2^32 (R80). -/
theorem mulHigh_eq (a b : Word) : mulHigh a b = BitVec.ofInt 32 (a.toInt * b.toInt / 2 ^ 32) := by
  have wide : a.signExtend 64 * b.signExtend 64 = BitVec.ofInt 64 (a.toInt * b.toInt) := by
    rw [BitVec.ofInt_mul]; rfl
  apply BitVec.eq_of_toNat_eq
  rw [mulHigh, wide]
  simp only [BitVec.toNat_setWidth, BitVec.toNat_ushiftRight, BitVec.toNat_ofInt, Nat.shiftRight_eq_div_pow]
  generalize a.toInt * b.toInt = p
  norm_num
  omega

theorem mulHighU_eq (a b : Word) : mulHighU a b = BitVec.ofNat 32 (a.toNat * b.toNat / 2 ^ 32) := by
  have small : a.toNat * b.toNat < 2 ^ 64 := by
    have := Nat.mul_lt_mul'' a.isLt b.isLt
    simpa using this
  apply BitVec.eq_of_toNat_eq
  simp only [mulHighU, BitVec.toNat_setWidth, BitVec.toNat_ushiftRight, BitVec.toNat_mul, Nat.shiftRight_eq_div_pow, BitVec.toNat_ofNat]
  rw [Nat.mod_eq_of_lt (a := a.toNat) (by omega), Nat.mod_eq_of_lt (a := b.toNat) (by omega), Nat.mod_eq_of_lt small]

theorem divU_eq (a b : Word) : divU a b = if b = 0#32 then 0xFFFFFFFF#32 else BitVec.ofNat 32 (a.toNat / b.toNat) := by
  unfold divU; split
  · rfl
  · exact BitVec.eq_of_toNat_eq (by
      rw [BitVec.toNat_udiv, BitVec.toNat_ofNat, Nat.mod_eq_of_lt (Nat.lt_of_le_of_lt (Nat.div_le_self _ _) a.isLt)])

theorem remU_eq (a b : Word) : remU a b = if b = 0#32 then a else BitVec.ofNat 32 (a.toNat % b.toNat) := by
  unfold remU; split
  · rfl
  · exact BitVec.eq_of_toNat_eq (by
      rw [BitVec.toNat_umod, BitVec.toNat_ofNat, Nat.mod_eq_of_lt (Nat.lt_of_le_of_lt (Nat.mod_le _ _) a.isLt)])

theorem zext_low_half (a : Word) : zext (a.setWidth 16) = a &&& 0xFFFF#32 := by
  apply BitVec.eq_of_toNat_eq
  simp only [zext, BitVec.toNat_setWidth, BitVec.toNat_and, BitVec.toNat_ofNat]
  rw [show 0xFFFF % 2 ^ 32 = 2 ^ 16 - 1 from rfl, Nat.and_two_pow_sub_one_eq_mod, Nat.mod_eq_of_lt (by omega)]

/-! ## Instructions whose registers are free -/

/-- An instruction that writes a function of two free registers to a third completes with that value, by any name of it. -/
theorem opRR_gives {s : State} {a b d : BitVec 4} {n v : Word} {f : Word → Word → Word} (h : Clear s [a, b, d] [])
    (value : f (s.x a) (s.x b) = v) : opRR n d a b f s = .next ((s.setX d v).retire n) := by
  rw [opRR_of_clear h, value]

/-- An instruction that writes a function of one free register to another completes with that value, by any name of it. -/
theorem opR_gives {s : State} {a d : BitVec 4} {n v : Word} {f : Word → Word} (h : Clear s [a, d] []) (value : f (s.x a) = v) :
    opR n d a f s = .next ((s.setX d v).retire n) := by
  rw [opR, withRegs_of_clear h, ok, value]

theorem opConst_of_clear {s : State} {d : BitVec 4} (h : Clear s [d] []) (n w : Word) :
    opConst n d w s = .next ((s.setX d w).retire n) := by
  rw [opConst, withRegs_of_clear h, ok]

theorem scalarResults : ScalarResults := by
  intro i r s row ready
  unfold scalarRow at row
  split at row <;> cases row
  -- R78 and R80: the function of two registers is the model's own, or one of those above.
  case h_1 => exact opRR_gives (f := (· + ·)) ready rfl
  case h_2 => exact opRR_gives (f := (· - ·)) ready rfl
  case h_3 => exact opRR_gives (f := (· &&& ·)) ready rfl
  case h_4 => exact opRR_gives (f := (· ||| ·)) ready rfl
  case h_5 => exact opRR_gives (f := (· ^^^ ·)) ready rfl
  case h_6 => exact opRR_gives (f := fun x y => x &&& ~~~y) ready rfl
  case h_7 => exact opRR_gives (f := fun x y => x <<< shamt y) ready rfl
  case h_8 => exact opRR_gives (f := fun x y => x >>> shamt y) ready rfl
  case h_9 => exact opRR_gives (f := fun x y => x.sshiftRight (shamt y)) ready rfl
  case h_10 => exact opRR_gives (f := rol) ready rfl
  case h_11 => exact opRR_gives (f := fun x y => boolWord (x.slt y)) ready (boolWord_slt _ _)
  case h_12 => exact opRR_gives (f := fun x y => boolWord (x.ult y)) ready (boolWord_ult _ _)
  case h_13 => exact opRR_gives (f := smin) ready (smin_eq _ _)
  case h_14 => exact opRR_gives (f := smax) ready (smax_eq _ _)
  case h_15 => exact opRR_gives (f := umin) ready (umin_eq _ _)
  case h_16 => exact opRR_gives (f := umax) ready (umax_eq _ _)
  case h_17 => exact opRR_gives (f := (· * ·)) ready (mul_eq_ofInt _ _)
  case h_18 => exact opRR_gives (f := mulHigh) ready (mulHigh_eq _ _)
  case h_19 => exact opRR_gives (f := mulHighU) ready (mulHighU_eq _ _)
  case h_20 => exact opRR_gives (f := divS) ready rfl
  case h_21 => exact opRR_gives (f := divU) ready (divU_eq _ _)
  case h_22 => exact opRR_gives (f := remS) ready rfl
  case h_23 => exact opRR_gives (f := remU) ready (remU_eq _ _)
  -- R79 and R81: functions of one register.
  case h_24 => exact opR_gives (f := bitReverse) ready rfl
  case h_25 => exact opR_gives (f := fun x => sext (x.setWidth 8)) ready rfl
  case h_26 => exact opR_gives (f := fun x => sext (x.setWidth 16)) ready rfl
  case h_27 => exact opR_gives (f := fun x => zext (x.setWidth 16)) ready (zext_low_half _)
  case h_28 i d a => exact opR_gives (f := (· + sext i)) ready rfl
  case h_29 i d a => exact opR_gives (f := (· &&& zext i)) ready rfl
  case h_30 i d a => exact opR_gives (f := (· ||| zext i)) ready rfl
  case h_31 i d a => exact opR_gives (f := (· ^^^ zext i)) ready rfl
  case h_32 i d a =>
    exact opR_gives (f := fun x => boolWord (x.slt (sext i))) ready (by rw [boolWord_slt, toInt_sext i (by decide)])
  case h_33 i d a =>
    exact opR_gives (f := fun x => boolWord (x.ult (zext i))) ready (by rw [boolWord_ult, toNat_zext i (by decide)])
  case h_34 n d a => exact opR_gives (f := (· <<< n.toNat)) ready rfl
  case h_35 n d a => exact opR_gives (f := (· >>> n.toNat)) ready rfl
  case h_36 n d a => exact opR_gives (f := (·.sshiftRight n.toNat)) ready rfl
  case h_37 n d a => exact opR_gives (f := (·.rotateRight n.toNat)) ready rfl
  case h_38 i d => exact opConst_of_clear ready 4#32 (zext i <<< 16)
  -- R62: the 16-bit forms; C.MOV and C.LI add x0, which reads zero.
  case h_39 => exact opRR_gives (f := (· + ·)) ready (by rw [State.x_zero, BitVec.add_zero])
  case h_40 => exact opRR_gives (f := (· + ·)) ready rfl
  case h_41 => exact opRR_gives (f := (· - ·)) ready rfl
  case h_42 => exact opRR_gives (f := (· &&& ·)) ready rfl
  case h_43 => exact opRR_gives (f := (· ||| ·)) ready rfl
  case h_44 => exact opRR_gives (f := (· ^^^ ·)) ready rfl
  case h_45 => exact opRR_gives (f := fun x y => x <<< shamt y) ready rfl
  case h_46 => exact opRR_gives (f := fun x y => x >>> shamt y) ready rfl
  case h_47 => exact opRR_gives (f := fun x y => x.sshiftRight (shamt y)) ready rfl
  case h_48 => exact opRR_gives (f := fun x y => boolWord (x.slt y)) ready (boolWord_slt _ _)
  case h_49 d i => exact opR_gives (f := (· + sext i)) ready rfl
  case h_50 d i => exact opR_gives (f := (· + sext i)) ready (by rw [State.x_zero, BitVec.zero_add]; rfl)
  case h_51 d n => exact opR_gives (f := (· <<< n.toNat)) ready rfl
  case h_52 d n => exact opR_gives (f := (· >>> n.toNat)) ready rfl
  case h_53 d n => exact opR_gives (f := (·.sshiftRight n.toNat)) ready rfl
  case h_54 d i => exact opR_gives (f := (· &&& zext i)) ready rfl
  case h_55 d i => exact opConst_of_clear ready 2#32 (zext (i.signExtend 16) <<< 16)

/-! ## Counts of bits, and bytes reversed (R81) -/

theorem leadingZeros_spec (n : Nat) (a : Word) :
    leadingZeros n a ≤ n ∧ (∀ k, n - leadingZeros n a ≤ k → k < n → ¬ bitOf a k) ∧
      (leadingZeros n a < n → bitOf a (n - 1 - leadingZeros n a)) := by
  induction n with
  | zero => simp [leadingZeros]
  | succ n ih =>
    obtain ⟨le, clear, set⟩ := ih
    unfold leadingZeros; split
    · rename_i top
      exact ⟨Nat.zero_le _, fun k h h' => by omega, fun _ => by simpa [bitOf] using top⟩
    · rename_i top
      refine ⟨by omega, fun k h h' => ?_, fun h => ?_⟩
      · rcases Nat.lt_succ_iff_lt_or_eq.1 h' with lt | rfl
        · exact clear k (by omega) lt
        · simpa [bitOf] using top
      · rw [show n + 1 - 1 - (1 + leadingZeros n a) = n - 1 - leadingZeros n a by omega]
        exact set (by omega)

theorem trailingZeros_spec (n i : Nat) (a : Word) :
    trailingZeros n i a ≤ n ∧ (∀ k, i ≤ k → k < i + trailingZeros n i a → ¬ bitOf a k) ∧
      (trailingZeros n i a < n → bitOf a (i + trailingZeros n i a)) := by
  induction n generalizing i with
  | zero => exact ⟨Nat.le_refl _, fun k h h' => absurd (Nat.lt_of_le_of_lt h h') (Nat.lt_irrefl _), fun h => absurd h (Nat.lt_irrefl _)⟩
  | succ n ih =>
    obtain ⟨le, clear, set⟩ := ih (i + 1)
    unfold trailingZeros; split
    · rename_i low
      exact ⟨Nat.zero_le _, fun k h h' => by omega, fun _ => low⟩
    · rename_i low
      refine ⟨by omega, fun k h h' => ?_, fun h => ?_⟩
      · rcases Nat.eq_or_lt_of_le h with rfl | lt
        · exact low
        · exact clear k lt (by omega)
      · rw [← Nat.add_assoc]
        exact set (by omega)

theorem popCount_eq_countP (n a : Nat) : popCount n a = (List.range n).countP fun k => a.testBit k := by
  induction n generalizing a with
  | zero => rfl
  | succ n ih =>
    rw [popCount, ih, List.range_succ_eq_map, List.countP_cons, List.countP_map, Nat.add_comm]
    congr 1
    · exact List.countP_congr fun k _ => by rw [Function.comp_apply, Nat.testBit_succ]
    · rcases Nat.mod_two_eq_zero_or_one a with h | h <;> simp [h]

theorem byteOf_byteSwap (a : Word) {k : Nat} (h : k < 4) : byteOf (byteSwap a) k = byteOf a (3 - k) := by
  unfold byteOf byteSwap
  interval_cases k <;>
  · apply BitVec.eq_of_getLsbD_eq
    intro i hi
    simp only [BitVec.getLsbD_setWidth, BitVec.getLsbD_ushiftRight, BitVec.getLsbD_append, BitVec.getLsbD_extractLsb']
    interval_cases i <;> simp

theorem bitCounts : BitCounts := by
  intro d a s clear
  obtain ⟨lzLe, lzClear, lzSet⟩ := leadingZeros_spec 32 (s.x a)
  obtain ⟨tzLe, tzClear, tzSet⟩ := trailingZeros_spec 32 0 (s.x a)
  refine ⟨⟨leadingZeros 32 (s.x a), ?_, lzLe, lzClear, lzSet⟩, ⟨trailingZeros 32 0 (s.x a), ?_, tzLe, ?_, ?_⟩, ?_,
    ⟨byteSwap (s.x a), ?_, fun k h => byteOf_byteSwap _ h⟩⟩
  · exact opR_gives (f := fun x => BitVec.ofNat 32 (leadingZeros 32 x)) clear rfl
  · exact opR_gives (f := fun x => BitVec.ofNat 32 (trailingZeros 32 0 x)) clear rfl
  · exact fun k h => tzClear k (Nat.zero_le k) (by omega)
  · exact fun h => by simpa using tzSet h
  · exact opR_gives (f := fun x => BitVec.ofNat 32 (popCount 32 x.toNat)) clear (by rw [popCount_eq_countP]; rfl)
  · exact opR_gives (f := byteSwap) clear rfl

end Sys2Proof.Proofs
end

section
/-! SUPPORT. The words of the scalar arithmetic instructions (R78 to R81): they decode to them, and nothing else does. Settles O12. -/

namespace Sys2Proof.Proofs

open Sys2Proof.Machine Sys2Proof.Claims

/-! ## The fields of the words -/

section
variable {major func imm : Nat} (b d a : BitVec 4)

theorem rrWord_fields (hm : major < 64) (hf : func < 256) :
    bits (rrWord major func b d a) 14 2 = 3 ∧ bits (rrWord major func b d a) 8 6 = major ∧ bits (rrWord major func b d a) 16 8 = func ∧
      bits (rrWord major func b d a) 24 4 = 0 ∧ bits (rrWord major func b d a) 24 8 = 16 * b.toNat := by
  have := b.isLt; have := d.isLt; have := a.isLt
  simp only [bits, rrWord]
  norm_num at *
  omega

theorem rrWord_registers (hm : major < 64) (hf : func < 256) :
    fld 4 (rrWord major func b d a) 28 = b ∧ fld 4 (rrWord major func b d a) 4 = d ∧ fld 4 (rrWord major func b d a) 0 = a := by
  have := b.isLt; have := d.isLt; have := a.isLt
  refine ⟨BitVec.eq_of_toNat_eq ?_, BitVec.eq_of_toNat_eq ?_, BitVec.eq_of_toNat_eq ?_⟩ <;>
  · simp only [fld, rrWord, BitVec.toNat_ofNat]
    norm_num at *
    omega

theorem riWord_fields (hm : major < 64) (_ : imm < 65536) :
    bits (riWord major imm d a) 14 2 = 3 ∧ bits (riWord major imm d a) 8 6 = major ∧ bits (riWord major imm d a) 30 2 = imm / 16384 ∧
      bits (riWord major imm d a) 21 9 = imm / 32 % 512 ∧ bits (riWord major imm d a) 0 4 = a.toNat := by
  have := d.isLt; have := a.isLt
  simp only [bits, riWord]
  norm_num at *
  omega

theorem riWord_registers (hm : major < 64) (_ : imm < 65536) :
    fld 16 (riWord major imm d a) 16 = BitVec.ofNat 16 imm ∧ fld 5 (riWord major imm d a) 16 = BitVec.ofNat 5 imm ∧
      fld 4 (riWord major imm d a) 4 = d ∧ fld 4 (riWord major imm d a) 0 = a := by
  have := d.isLt; have := a.isLt
  refine ⟨BitVec.eq_of_toNat_eq ?_, BitVec.eq_of_toNat_eq ?_, BitVec.eq_of_toNat_eq ?_, BitVec.eq_of_toNat_eq ?_⟩ <;>
  · simp only [fld, riWord, BitVec.toNat_ofNat]
    norm_num at *
    omega

end

/-! ## The words decode -/

/-- A word of a 32-bit form is decoded by its major (R53, R57). -/
theorem decode_of_form {w : Nat} {i : Instr} (h : bits w 14 2 = 3) (e : decode32 w = .ok i) (wf : i.illFormed = none) : decode w = .ok i := by
  have raw : decodeRaw w = .ok i := by rw [decodeRaw, h]; exact e
  rw [decode, raw]
  show checkFields i = .ok i
  rw [checkFields, wf]

theorem guardBits_true {p : Prop} [Decidable p] (h : p) (i : Instr) : guardBits p i = .ok i := if_pos h

theorem decode_rrWord {major func : Nat} {b d a : BitVec 4} {i : Instr} (hm : major < 64) (hf : func < 256) (wf : i.illFormed = none)
    (e : ∀ w, bits w 8 6 = major → bits w 16 8 = func → bits w 24 4 = 0 → bits w 24 8 = 16 * b.toNat → fld 4 w 28 = b → fld 4 w 4 = d →
      fld 4 w 0 = a → decode32 w = .ok i) : decode (rrWord major func b d a) = .ok i := by
  obtain ⟨form, maj, fun8, zero, top⟩ := rrWord_fields b d a hm hf
  obtain ⟨rs2, rd, rs1⟩ := rrWord_registers b d a hm hf
  exact decode_of_form form (e _ maj fun8 zero top rs2 rd rs1) wf

theorem decode_riWord {major imm : Nat} {d a : BitVec 4} {i : Instr} (hm : major < 64) (hi : imm < 65536) (wf : i.illFormed = none)
    (e : ∀ w, bits w 8 6 = major → bits w 30 2 = imm / 16384 → bits w 21 9 = imm / 32 % 512 → bits w 0 4 = a.toNat →
      fld 16 w 16 = BitVec.ofNat 16 imm → fld 5 w 16 = BitVec.ofNat 5 imm → fld 4 w 4 = d → fld 4 w 0 = a → decode32 w = .ok i) :
    decode (riWord major imm d a) = .ok i := by
  obtain ⟨form, maj, sel, zero, low⟩ := riWord_fields d a hm hi
  obtain ⟨imm16, imm5, rd, rs1⟩ := riWord_registers d a hm hi
  exact decode_of_form form (e _ maj sel zero low imm16 imm5 rd rs1) wf

/-- The shifts by an immediate, told apart by bits [31:30] (R79). -/
theorem decode_shiftWord {imm : Nat} {n : BitVec 5} {d a : BitVec 4} {i : Instr} (sel : Nat) (hs : sel < 4)
    (hi : imm = 0x4000 * sel + n.toNat) (wf : i.illFormed = none)
    (e : ∀ w, bits w 30 2 = sel → bits w 21 9 = 0 → fld 5 w 16 = n → fld 4 w 4 = d → fld 4 w 0 = a → decodeShiftI w = .ok i) :
    decode (riWord 9 imm d a) = .ok i := by
  have := n.isLt
  refine decode_riWord (by decide) (by omega) wf fun w maj selects zero _ _ imm5 rd rs1 => ?_
  rw [decode32, maj]
  refine e w (by omega) (by omega) (imm5.trans (BitVec.eq_of_toNat_eq ?_)) rd rs1
  rw [BitVec.toNat_ofNat]
  omega

theorem decode_aluWord : ∀ i w, aluWord i = some w → decode w = .ok i := by
  intro i w h
  unfold aluWord at h
  split at h <;> cases h
  case h_1 | h_2 | h_3 | h_4 | h_5 | h_6 | h_7 | h_8 | h_9 | h_10 | h_11 | h_12 | h_13 | h_14 | h_15 | h_16 =>
    refine decode_rrWord (by decide) (by decide) rfl fun w maj fun8 zero _ rs2 rd rs1 => ?_
    simp only [decode32, maj, decodeAlu, fun8, rs2, rd, rs1, guardBits_true zero]
  case h_17 | h_18 | h_19 | h_20 | h_21 | h_22 | h_23 =>
    refine decode_rrWord (by decide) (by decide) rfl fun w maj fun8 zero _ rs2 rd rs1 => ?_
    simp only [decode32, maj, decodeMulDiv, fun8, rs2, rd, rs1, guardBits_true zero]
  case h_24 | h_25 | h_26 | h_27 | h_28 | h_29 | h_30 | h_31 =>
    refine decode_rrWord (by decide) (by decide) rfl fun w maj fun8 _ top _ rd rs1 => ?_
    have zero : bits w 24 8 = 0 := top
    simp only [decode32, maj, decodeBits, fun8, rd, rs1, guardBits_true zero]
  case h_32 i d a | h_33 i d a | h_34 i d a | h_35 i d a | h_36 i d a | h_37 i d a =>
    refine decode_riWord (by decide) i.isLt rfl fun w maj _ _ _ imm16 _ rd rs1 => ?_
    simp only [decode32, maj, imm16, rd, rs1, BitVec.ofNat_toNat, BitVec.setWidth_eq]
  case h_38 n d a =>
    refine decode_shiftWord (n := n) 0 (by decide) (by omega) rfl fun w sel zero imm5 rd rs1 => ?_
    simp only [decodeShiftI, sel, imm5, rd, rs1, guardBits_true zero]
  case h_39 n d a =>
    refine decode_shiftWord (n := n) 1 (by decide) (by omega) rfl fun w sel zero imm5 rd rs1 => ?_
    simp only [decodeShiftI, sel, imm5, rd, rs1, guardBits_true zero]
  case h_40 n d a =>
    refine decode_shiftWord (n := n) 2 (by decide) (by omega) rfl fun w sel zero imm5 rd rs1 => ?_
    simp only [decodeShiftI, sel, imm5, rd, rs1, guardBits_true zero]
  case h_41 n d a =>
    refine decode_shiftWord (n := n) 3 (by decide) (by omega) rfl fun w sel zero imm5 rd rs1 => ?_
    simp only [decodeShiftI, sel, imm5, rd, rs1, guardBits_true zero]
  case h_42 i d =>
    refine decode_riWord (by decide) i.isLt rfl fun w maj _ _ low imm16 _ rd _ => ?_
    have zero : bits w 0 4 = 0 := low
    simp only [decode32, maj, imm16, rd, BitVec.ofNat_toNat, BitVec.setWidth_eq, guardBits_true zero]

/-! ## Nothing else decodes to them -/

/-- What a decoder gives, if anything, has a property. -/
def Gives (P : Instr → Prop) (r : Except Reject Instr) : Prop := ∀ i, r = .ok i → P i

theorem gives_ok {P : Instr → Prop} {i : Instr} : Gives P (.ok i) ↔ P i :=
  ⟨fun h => h i rfl, fun h j e => by cases e; exact h⟩

theorem gives_error {P : Instr → Prop} {r : Reject} : Gives P (.error r) ↔ True := ⟨fun _ => trivial, fun _ j e => by cases e⟩

theorem gives_guardBits {P : Instr → Prop} {p : Prop} [Decidable p] {i : Instr} : Gives P (guardBits p i) ↔ (p → P i) := by
  unfold guardBits; split
  · simp [gives_ok, *]
  · simp [gives_error, *]

/-- An instruction has no word of R78 to R81 but one. -/
abbrev OnlyWord (v : Nat) (i : Instr) : Prop := ∀ w, aluWord i = some w → v = w

theorem onlyWord_of_none {v : Nat} {i : Instr} (h : aluWord i = none) : OnlyWord v i := fun w e => by rw [h] at e; cases e

theorem Gives.mono {P Q : Instr → Prop} {r : Except Reject Instr} (h : Gives P r) (imp : ∀ i, P i → Q i) : Gives Q r :=
  fun i e => imp i (h i e)

/-- The decoders of the other majors and of the 16-bit forms give no instruction of R78 to R81. -/
theorem others_give_no_aluWord (v : Nat) :
    ∀ r ∈ [decodeLset v, decodeFeld v, decodeFest v, decodeRemote v, decodeAmo v, decodeGmem v, decodeSr v, decodeSys v, decodeTask v,
        decodeTmap v, decodePage v, decodeBar v, decodeMsg v, decodeCpy v, decodePcfg v, decodePmem v, decodePop v, decodeVint v,
        decodeVfp v, decodeVcvt v, decodeVperm v, decodeVbm v, decodeVls v, decodeVlsg v, decodeVx v, decodeQ0 v, decodeQ1 v, decodeQ2 v],
      Gives (fun i => aluWord i = none) r := by
  simp only [List.forall_mem_cons, decodeLset, decodeFeld, decodeFest, decodeRemote, decodeAmo, decodeGmem, decodeSr,
    decodeSys, decodeTask, decodeTmap, decodePage, decodeBar, decodeMsg, decodeCpy, decodePcfg, decodePmem, decodePop, decodeVint,
    decodeVfp, decodeVcvt, decodeVperm, decodeVbm, decodeVls, decodeVlsg, decodeVx, decodeQ0, decodeQ1, decodeQ2,
    List.not_mem_nil, IsEmpty.forall_iff, implies_true, and_true]
  and_intros
  all_goals
    repeat' split
    all_goals simp only [gives_ok, gives_error, gives_guardBits] <;> intros <;> rfl

/-- A word of a 32-bit form with zeros at [27:24] is put together from its fields. -/
theorem eq_rrWord {v major func : Nat} (small : v < 2 ^ 32) (form : bits v 14 2 = 3) (maj : bits v 8 6 = major)
    (fun8 : bits v 16 8 = func) (zero : bits v 24 4 = 0) : v = rrWord major func (fld 4 v 28) (fld 4 v 4) (fld 4 v 0) := by
  simp only [bits, fld, rrWord, BitVec.toNat_ofNat] at *
  norm_num at *
  omega

/-- One with zeros at [31:24] names no second register. -/
theorem eq_rrWord_zero {v major func : Nat} (small : v < 2 ^ 32) (form : bits v 14 2 = 3) (maj : bits v 8 6 = major)
    (fun8 : bits v 16 8 = func) (zero : bits v 24 8 = 0) : v = rrWord major func 0#4 (fld 4 v 4) (fld 4 v 0) := by
  simp only [bits, fld, rrWord, BitVec.toNat_ofNat] at *
  norm_num at *
  omega

/-- A word of a 32-bit form is put together from its major, its upper half and its registers. -/
theorem eq_riWord {v major : Nat} (small : v < 2 ^ 32) (form : bits v 14 2 = 3) (maj : bits v 8 6 = major) :
    v = riWord major (v / 2 ^ 16) (fld 4 v 4) (fld 4 v 0) := by
  simp only [bits, fld, riWord, BitVec.toNat_ofNat] at *
  norm_num at *
  omega

theorem upper_half {v : Nat} (small : v < 2 ^ 32) : v / 2 ^ 16 = (fld 16 v 16).toNat := by
  rw [fld, BitVec.toNat_ofNat, Nat.mod_eq_of_lt (by omega)]

theorem upper_half_shift {v sel : Nat} (small : v < 2 ^ 32) (selects : bits v 30 2 = sel) (zero : bits v 21 9 = 0) :
    v / 2 ^ 16 = 0x4000 * sel + (fld 5 v 16).toNat := by
  simp only [bits, fld, BitVec.toNat_ofNat] at *
  norm_num at *
  omega

section
variable {v : Nat} (small : v < 2 ^ 32) (form : bits v 14 2 = 3)
include small form

theorem decodeAlu_onlyWord (maj : bits v 8 6 = 0) : Gives (OnlyWord v) (decodeAlu v) := by
  unfold decodeAlu; split
  case h_17 => exact gives_error.2 trivial
  all_goals exact gives_guardBits.2 fun zero w e => (eq_rrWord small form maj ‹_› zero).trans (Option.some.inj e)

theorem decodeMulDiv_onlyWord (maj : bits v 8 6 = 1) : Gives (OnlyWord v) (decodeMulDiv v) := by
  unfold decodeMulDiv; split
  case h_8 => exact gives_error.2 trivial
  all_goals exact gives_guardBits.2 fun zero w e => (eq_rrWord small form maj ‹_› zero).trans (Option.some.inj e)

theorem decodeBits_onlyWord (maj : bits v 8 6 = 2) : Gives (OnlyWord v) (decodeBits v) := by
  unfold decodeBits; split
  case h_9 => exact gives_error.2 trivial
  all_goals exact gives_guardBits.2 fun zero w e => (eq_rrWord_zero small form maj ‹_› zero).trans (Option.some.inj e)

theorem decodeShiftI_onlyWord (maj : bits v 8 6 = 9) : Gives (OnlyWord v) (decodeShiftI v) := by
  have whole := eq_riWord small form maj
  have rori (h0 : bits v 30 2 ≠ 0) (h1 : bits v 30 2 ≠ 1) (h2 : bits v 30 2 ≠ 2) : bits v 30 2 = 3 := by
    have : bits v 30 2 < 4 := Nat.mod_lt _ (by decide)
    omega
  unfold decodeShiftI; split
  case h_1 sel =>
    refine gives_guardBits.2 fun zero w e => whole.trans ?_
    rw [upper_half_shift small sel zero, Nat.mul_zero, Nat.zero_add]
    exact Option.some.inj e
  case h_2 sel =>
    refine gives_guardBits.2 fun zero w e => whole.trans ?_
    rw [upper_half_shift small sel zero]
    exact Option.some.inj e
  case h_3 sel =>
    refine gives_guardBits.2 fun zero w e => whole.trans ?_
    rw [upper_half_shift small sel zero]
    exact Option.some.inj e
  case h_4 =>
    refine gives_guardBits.2 fun zero w e => whole.trans ?_
    rw [upper_half_shift small (rori ‹_› ‹_› ‹_›) zero]
    exact Option.some.inj e

theorem decode32_onlyWord : Gives (OnlyWord v) (decode32 v) := by
  have others := others_give_no_aluWord v
  have imm {major : Nat} (maj : bits v 8 6 = major) : v = riWord major (fld 16 v 16).toNat (fld 4 v 4) (fld 4 v 0) :=
    (eq_riWord small form maj).trans (by rw [upper_half small])
  unfold decode32; split
  case h_1 maj => exact decodeAlu_onlyWord small form maj
  case h_2 maj => exact decodeMulDiv_onlyWord small form maj
  case h_3 maj => exact decodeBits_onlyWord small form maj
  case h_4 maj | h_5 maj | h_6 maj | h_7 maj | h_8 maj | h_9 maj => exact gives_ok.2 fun w e => (imm maj).trans (Option.some.inj e)
  case h_10 maj => exact decodeShiftI_onlyWord small form maj
  case h_11 maj =>
    refine gives_guardBits.2 fun zero w e => (imm maj).trans ?_
    rw [show fld 4 v 0 = 0#4 from BitVec.eq_of_toNat_eq zero]
    exact Option.some.inj e
  case h_12 | h_13 | h_14 | h_15 | h_16 | h_17 | h_18 | h_19 | h_21 | h_22 | h_23 | h_24 | h_25 | h_26 | h_27 | h_28 =>
    exact gives_ok.2 (onlyWord_of_none rfl)
  case h_34 | h_36 | h_39 | h_43 => exact gives_guardBits.2 fun _ => onlyWord_of_none rfl
  case h_57 => exact gives_error.2 trivial
  all_goals exact (others _ (by simp)).mono fun _ => onlyWord_of_none

end

theorem decodeRaw_onlyWord {v : Nat} (small : v < 2 ^ 32) : Gives (OnlyWord v) (decodeRaw v) := by
  have others := others_give_no_aluWord v
  have long (h0 : bits v 14 2 ≠ 0) (h1 : bits v 14 2 ≠ 1) (h2 : bits v 14 2 ≠ 2) : bits v 14 2 = 3 := by
    have : bits v 14 2 < 4 := Nat.mod_lt _ (by decide)
    omega
  unfold decodeRaw; split
  case h_4 => exact decode32_onlyWord small (long ‹_› ‹_› ‹_›)
  all_goals exact (others _ (by simp)).mono fun _ => onlyWord_of_none

theorem decodeRaw_of_decode {v : Nat} {i : Instr} (h : decode v = .ok i) : decodeRaw v = .ok i := by
  unfold decode at h
  rcases raw : decodeRaw v with r | j
  · rw [raw] at h; cases h
  · rw [raw] at h
    change checkFields j = .ok i at h
    unfold checkFields at h
    split at h
    · exact h
    · cases h

/-- func8 0x03 of major 0x01 is illegal (R80). -/
theorem decode_mulDiv_reserved (b d a : BitVec 4) : decode (rrWord 1 0x03 b d a) = .error .reservedFunc := by
  obtain ⟨form, maj, fun8, -, -⟩ := rrWord_fields (major := 1) (func := 3) b d a (by decide) (by decide)
  have raw : decodeRaw (rrWord 1 0x03 b d a) = .error .reservedFunc := by
    simp only [decodeRaw, form, decode32, maj, decodeMulDiv, fun8]
  rw [decode, raw]; rfl

theorem scalarWords : ScalarWords :=
  ⟨decode_aluWord, fun i w v e small h => decodeRaw_onlyWord small i (decodeRaw_of_decode h) w e,
    fun b d a => ⟨_, decode_mulDiv_reserved b d a⟩⟩

/-- Settles O12: words and decoder agree field by field, and each result is the row's value. -/
theorem scalarResultsAndWords : Obligations.ScalarResultsAndWords := ⟨scalarWords, scalarResults, bitCounts⟩

end Sys2Proof.Proofs
end

section
/-! SUPPORT. What writing a register and retiring do to each core, and so what a scalar instruction leaves alone (R78 to R81, R85).
Settles O13. -/

namespace Sys2Proof.Proofs

open Sys2Proof.Machine Sys2Proof.Claims

/-! ## A core after a register write and after a retirement -/

/-- The core of an issuer with one of the issuer's registers written. -/
def writeReg (x : CtxSel) (r : BitVec 4) (w : Word) (c : Core) : Core :=
  match x with
  | .handler => { c with hd := { c.hd with x := c.hd.x.set r.toFin w } }
  | _ => c.modTask x fun t => { t with x := t.x.set r.toFin w }

/-- The core of an issuer whose instruction of n bytes completes. -/
def retireCore (x : CtxSel) (n : Word) (c : Core) : Core :=
  match x with
  | .tc0 => { c with tc0 := c.tc0.complete n, pref := false }
  | .tc1 => { c with tc1 := c.tc1.complete n, pref := true }
  | .handler => { c with hd := c.hd.complete (c.hd.pc + n) }

theorem coreAt_setX (s : State) {r : BitVec 4} (hr : r ≠ 0#4) (w : Word) (k : Nat) :
    (s.setX r w).coreAt k = if s.who.core = k then writeReg s.who.ctx r w (s.coreAt k) else s.coreAt k := by
  unfold State.setX State.setXAt writeReg
  rw [if_neg hr]
  rcases hx : s.who.ctx with _ | _ | _ <;> by_cases hk : s.who.core = k <;>
    simp [hx, hk, State.modTask, State.coreAt_modCore]

theorem coreAt_retire (s : State) (n : Word) (k : Nat) :
    (s.retire n).coreAt k = if s.who.core = k then retireCore s.who.ctx n (s.coreAt k) else s.coreAt k := by
  unfold State.retire State.prefer State.retireAt retireCore
  rcases hx : s.who.ctx with _ | _ | _ <;> by_cases hk : s.who.core = k <;>
    simp [hx, hk, State.modTask, State.coreAt_modCore, Core.modTask]

/-! ## What completing keeps of a task context -/

theorem loopOne_same (t : TaskCtx) (i : Fin 2) (a : Word) : SameTask t (t.loopOne i a).1 ∧ (t.loopOne i a).1.x = t.x := by
  unfold TaskCtx.loopOne; split <;> exact ⟨rfl, rfl⟩

theorem sameTask_trans {t u v : TaskCtx} (h : SameTask t u) (h' : SameTask u v) : SameTask t v := by
  unfold SameTask at *
  rw [← h, ← h']

theorem loopBack_same (t : TaskCtx) (a next : Word) : SameTask t (t.loopBack a next).1 ∧ (t.loopBack a next).1.x = t.x := by
  obtain ⟨h, hx⟩ := loopOne_same t 1 a
  unfold TaskCtx.loopBack; split
  · rename_i u w e
    rw [e] at h hx; exact ⟨h, hx⟩
  · rename_i u e
    rw [e] at h hx
    obtain ⟨h', hx'⟩ := loopOne_same u 0 a
    split
    all_goals
      rename_i v _ e'
      rw [e'] at h' hx'
      exact ⟨sameTask_trans h h', hx'.trans hx⟩

theorem complete_same (t : TaskCtx) (n : Word) : SameTask t (t.complete n) := (loopBack_same t t.pc (t.pc + n)).1

@[simp] theorem complete_x (t : TaskCtx) (n : Word) : (t.complete n).x = t.x := (loopBack_same t t.pc (t.pc + n)).2

/-! ## What a retirement leaves alone -/

@[simp] theorem retireCore_lm (x : CtxSel) (n : Word) (c : Core) : (retireCore x n c).lm = c.lm := by cases x <;> rfl

@[simp] theorem retireCore_hd_x (x : CtxSel) (n : Word) (c : Core) : (retireCore x n c).hd.x = c.hd.x := by cases x <;> rfl

theorem retireCore_task (x y : CtxSel) (n : Word) (c : Core) :
    SameTask (c.task y) ((retireCore x n c).task y) ∧ ((retireCore x n c).task y).x = (c.task y).x := by
  cases x <;> cases y
  case tc0.tc0 | tc0.handler | tc1.tc1 => exact ⟨complete_same _ _, complete_x _ _⟩
  all_goals exact ⟨rfl, rfl⟩

@[simp] theorem writeReg_lm (x : CtxSel) (r : BitVec 4) (w : Word) (c : Core) : (writeReg x r w c).lm = c.lm := by cases x <;> rfl

theorem writeReg_task (x y : CtxSel) (r : BitVec 4) (w : Word) (c : Core) : SameTask (c.task y) ((writeReg x r w c).task y) := by
  cases x <;> cases y <;> rfl

/-- The registers of a context of a core, the handler's among them. -/
def regsOf (c : Core) : CtxSel → Vector Word 16
  | .handler => c.hd.x
  | y => (c.task y).x

theorem xAt_eq_regsOf (s : State) (i : Issuer) (r : BitVec 4) :
    s.xAt i r = if r = 0#4 then 0#32 else (regsOf (s.coreAt i.core) i.ctx)[r.toFin] := by
  rcases i with ⟨k, _ | _ | _⟩ <;> rfl

@[simp] theorem regsOf_retireCore (x y : CtxSel) (n : Word) (c : Core) : regsOf (retireCore x n c) y = regsOf c y := by
  cases y
  case handler => exact retireCore_hd_x x n c
  all_goals exact (retireCore_task x _ n c).2

theorem regsOf_writeReg (x y : CtxSel) (r q : BitVec 4) (w : Word) (c : Core) (h : x ≠ y ∨ q ≠ r) :
    (regsOf (writeReg x r w c) y)[q.toFin] = (regsOf c y)[q.toFin] := by
  have other (hq : q ≠ r) (v : Vector Word 16) : (v.set r.toFin w)[q.toFin] = v[q.toFin] :=
    Vector.getElem_set_ne _ _ fun e => hq (BitVec.eq_of_toNat_eq e.symm)
  rcases h with h | h <;> cases x <;> cases y
  case inl.tc0.tc0 | inl.tc1.tc1 | inl.handler.handler => exact absurd rfl h
  case inr.tc0.tc0 | inr.tc1.tc1 | inr.handler.handler => exact other h _
  all_goals rfl

@[simp] theorem xAt_retire (s : State) (n : Word) (i : Issuer) (r : BitVec 4) : (s.retire n).xAt i r = s.xAt i r := by
  simp only [xAt_eq_regsOf, coreAt_retire]
  split
  · rfl
  · split <;> simp

theorem xAt_setX_other (s : State) (d r : BitVec 4) (w : Word) (i : Issuer) (h : i ≠ s.who ∨ r ≠ d) :
    (s.setX d w).xAt i r = s.xAt i r := by
  by_cases hd : d = 0#4
  · simp [hd]
  · simp only [xAt_eq_regsOf, coreAt_setX s hd]
    split
    · rfl
    · split
      · rename_i hk
        refine regsOf_writeReg _ _ _ _ _ _ (h.imp_left fun hi hx => hi ?_)
        cases i; cases hk; cases hx; rfl
      · rfl

@[simp] theorem retire_phys (s : State) (n : Word) : (s.retire n).phys = s.phys := by
  have h := congrArg State.phys (State.retire_outside s n); exact h

@[simp] theorem setX_phys (s : State) (d : BitVec 4) (w : Word) : (s.setX d w).phys = s.phys := by
  have h := congrArg State.phys (State.setXAt_outside s s.who d w); exact h

@[simp] theorem retire_lm (s : State) (n : Word) (k : Nat) : ((s.retire n).coreAt k).lm = (s.coreAt k).lm := by
  rw [coreAt_retire]; split <;> simp

@[simp] theorem setX_lm (s : State) (d : BitVec 4) (w : Word) (k : Nat) : ((s.setX d w).coreAt k).lm = (s.coreAt k).lm := by
  by_cases hd : d = 0#4
  · simp [hd]
  · rw [coreAt_setX s hd]; split <;> simp

theorem retire_sameTask (s : State) (n : Word) (j : Issuer) : SameTask (s.taskAt j) ((s.retire n).taskAt j) := by
  unfold State.taskAt; rw [coreAt_retire]; split
  · exact (retireCore_task _ _ _ _).1
  · rfl

theorem setX_sameTask (s : State) (d : BitVec 4) (w : Word) (j : Issuer) : SameTask (s.taskAt j) ((s.setX d w).taskAt j) := by
  by_cases hd : d = 0#4
  · rw [hd, State.setX_zero]; rfl
  · unfold State.taskAt; rw [coreAt_setX s hd]; split
    · exact writeReg_task _ _ _ _ _
    · rfl

theorem retire_setX_outside (s : State) (d : BitVec 4) (w n : Word) : SameOutside s ((s.setX d w).retire n) := by
  have h := State.retire_outside (s.setX d w) n
  have h' := State.setXAt_outside s s.who d w
  unfold SameOutside
  calc { (s.setX d w).retire n with cores := s.cores }
      = { { (s.setX d w).retire n with cores := (s.setX d w).cores } with cores := s.cores } := rfl
    _ = { s.setX d w with cores := s.cores } := by rw [h]
    _ = s := h'

/-- All that an instruction which writes one register and retires leaves alone. -/
theorem setX_retire_frame (s : State) (d : BitVec 4) (w n : Word) :
    OtherRegs d s ((s.setX d w).retire n) ∧ ((s.setX d w).retire n).xAt s.who 0#4 = 0#32 ∧ SameMemory s ((s.setX d w).retire n) ∧
      SameOutside s ((s.setX d w).retire n) ∧ ∀ j, SameTask (s.taskAt j) (((s.setX d w).retire n).taskAt j) := by
  refine ⟨fun i r h => ?_, by simp, ⟨fun a => by simp, fun k a => by simp⟩, retire_setX_outside s d w n, fun j => ?_⟩
  · rw [xAt_retire, xAt_setX_other s d r w i h]
  · exact sameTask_trans (setX_sameTask s d w j) (retire_sameTask _ n j)

theorem scalarFrame : ScalarFrame := by
  intro i r s t row ready run
  rw [scalarResults i r s row ready] at run
  cases run
  exact setX_retire_frame s r.dest (r.value s) r.bytes

theorem retireAdvances : RetireAdvances := by
  intro s n task free
  have complete := TaskCtx.complete_pc s.task n free
  have same : (s.retire n).task = s.task.complete n := by
    unfold State.task State.taskAt
    rw [State.retire_who, coreAt_retire, if_pos rfl]
    rcases hx : s.who.ctx with _ | _ | _
    case handler => simp [State.inHandler, hx] at task
    all_goals rfl
  rw [same, complete]

/-- Settles O13: the instruction writes its register and retires, and these two leave the rest alone. -/
theorem scalarFrameAndRetirement : Obligations.ScalarFrameAndRetirement := ⟨scalarFrame, retireAdvances⟩

end Sys2Proof.Proofs
end

section
/-! SUPPORT. The state after power is applied: its one message has none before it. Settles O11. -/

namespace Sys2Proof.Proofs

open Sys2Proof.Machine Sys2Proof.Claims

/-- The power-on waits for nothing: it is alone, and no access is on its way (R95, R236, R370). -/
theorem reset_deliverable : State.reset.deliverable 0 = true := by decide

theorem reset_turnLegal : TurnLegal State.reset := ⟨rfl, reset_deliverable⟩

/-- Settles O11: the reset state lists no record, and each record that is not listed reads as OFF, FREE, DISABLED or none. -/
theorem resetState : Obligations.ResetState := by
  refine ⟨reset_turnLegal, fun k => ?_, fun c => ?_, fun q => ?_, fun g => ?_, rfl, rfl, rfl, rfl, rfl, rfl, fun e h => ?_⟩
  case refine_5 => exact absurd h List.not_mem_nil
  all_goals rfl

end Sys2Proof.Proofs
end

section
/-! SUPPORT. Accesses of local memory whose checks pass, and full/empty operations at their word (R73, R88 to R92, R97, R236). Settles
O18. -/

namespace Sys2Proof.Proofs

open Sys2Proof.Machine Sys2Proof.Claims

/-! ## Accesses that go on -/

theorem faultIn_eq_none {t : TaskCtx} {xs : List (BitVec 4)} {vs : List (BitVec 3)} :
    t.faultIn xs vs = none ↔ (∀ r ∈ xs, t.faultX.find r.toNat = none) ∧ ∀ r ∈ vs, t.faultV.find r.toNat = none := by
  simp [TaskCtx.faultIn]

theorem waitsFor_eq_false {t : TaskCtx} {xs : List (BitVec 4)} {vs : List (BitVec 3)} :
    t.waitsFor xs vs = false ↔
      (∀ r ∈ xs, (r != 0#4 && t.pendX.getLsbD r.toNat) = false) ∧ ∀ r ∈ vs, t.pendV.getLsbD r.toNat = false := by
  simp only [TaskCtx.waitsFor, Bool.or_eq_false_iff, List.any_eq_false, Bool.not_eq_true]

/-- Registers are free together with more of them. -/
theorem clear_mono {s : State} {xs ys : List (BitVec 4)} {vs : List (BitVec 3)} (h : Clear s xs vs) (sub : ∀ r ∈ ys, r ∈ xs) :
    Clear s ys vs := by
  refine h.imp_right fun ⟨fault, wait⟩ => ?_
  obtain ⟨faultX, faultV⟩ := faultIn_eq_none.1 fault
  obtain ⟨waitX, waitV⟩ := waitsFor_eq_false.1 wait
  exact ⟨faultIn_eq_none.2 ⟨fun r hr => faultX r (sub r hr), faultV⟩, waitsFor_eq_false.2 ⟨fun r hr => waitX r (sub r hr), waitV⟩⟩

/-- An aligned local address passes its checks; a store's lies outside the protected regions too (R88, R89). -/
theorem localFault_none {a : Word} {n : Nat} {store : Bool} (at_ : LocalAt a n) (free : store = true → Storable a) :
    localFault a n store = none := by
  obtain ⟨range, aligned⟩ := at_
  have protect : (store && protectedAddr a.toNat) = false := by
    cases store
    · rfl
    · simpa [protectedAddr] using free rfl
  rw [localFault, if_neg (by omega), if_neg (by omega), protect]; rfl

/-- An access of local memory whose checks pass, and which waits for no access of its own (R236), goes on. -/
theorem localAccess_passes {s : State} {a : Word} {n : Nat} {store : Bool} (k : State → State) (at_ : LocalAt a n)
    (free : store = true → Storable a) (clear : OwnClear s a n) : s.localAccess a n store k = k s := by
  rw [State.localAccess, State.checked_none _ _ _ (localFault_none at_ free), State.await_true _ _ _ clear]

theorem withRegs_access {s : State} {xs : List (BitVec 4)} (ready : Ready s xs) (k : State → State) :
    (s.withRegs xs [] fun s => s.access k) = k s := by
  rw [withRegs_of_clear ready.1, State.access_free _ _ ready.2]

theorem settled_of_task {s : State} (task : InTask s) (done : Settled s) : s.settled = true := by
  obtain ⟨loads, stores, msgs⟩ := done
  simp [State.settled, show s.inHandler = false from task, loads, stores, msgs]

theorem settled_of_handler {s : State} (handler : ¬ InTask s) (done : HandlerSettled s) : s.settled = true := by
  obtain ⟨unacked, unsent⟩ := done
  simp [State.settled, show s.inHandler = true by simpa using handler, unacked, unsent]

/-! ## Full/empty operations at their word -/

@[simp] theorem full_eq_true {c : Core} {n : Nat} : c.full n = true ↔ n ∈ c.fe := by simp [Core.full]

theorem full_eq_decide (c : Core) (n : Nat) : c.full n = decide (n ∈ c.fe) := by simp [Core.full]

/-- An operation whose condition holds is performed, and those parked at its word are examined (R90, R91). -/
theorem feReach_holds {s : State} {m : FeMsg} (h : feHolds m.op ((s.coreAt m.dst).full m.off) = true) :
    s.feReach m = some ((s.fePerform false m).feWakeWord m.dst m.off) := if_pos h

theorem feReach_fails {s : State} {m : FeMsg} (h : feHolds m.op ((s.coreAt m.dst).full m.off) = false) : s.feReach m = none :=
  if_neg (by simp [h])

/-- A local operation whose condition holds is performed, and its context has issued most recently. -/
theorem feLocal_holds {s : State} {op : FeOp} {d : BitVec 4} {a : Word} (h : feHolds op (s.core.full a.toNat) = true) :
    s.feLocal op d a = ((s.fePerform false (s.localFe op d a)).feWakeWord s.who.core a.toNat).prefer := by
  rw [State.feLocal, feReach_holds (m := s.localFe op d a) h]; rfl

/-- One whose condition does not hold parks, or times out at once (R91, R92). -/
theorem feLocal_fails {s : State} {op : FeOp} {d : BitVec 4} {a : Word} (h : feHolds op (s.core.full a.toNat) = false) :
    s.feLocal op d a = if s.task.fetmo = 0#32 then s.trap .feTimeout a
      else (({ s with waitCount := s.waitCount + 1 } : State).fePark (feParked s op d a)).stall (.parked s.waitCount) := by
  rw [State.feLocal, feReach_fails (m := s.localFe op d a) h]; rfl

/-- A full/empty load or store whose checks pass reaches its word; a store is a release (R238). -/
theorem feIssue_reaches {s : State} {op : FeOp} {o : BitVec 14} {d a : BitVec 4} (ready : Ready s [a, d]) (at_ : LocalAt (feAddr s o a) 4)
    (clear : OwnClear s (feAddr s o a) 4) (free : feIsLoad op = false → Storable (feAddr s o a) ∧ s.settled = true) :
    State.feIssue op o d a s = s.feLocal op d (feAddr s o a) := by
  rw [State.feIssue, withRegs_access ready]
  have store : (!feIsLoad op) = true → Storable (feAddr s o a) := fun h => (free (by simpa using h)).1
  have release : (feIsLoad op || s.settled) = true := by
    cases h : feIsLoad op
    · exact (free h).2
    · rfl
  exact (localAccess_passes _ at_ store clear).trans (State.await_true _ _ _ release)

theorem fullEmptyCompletes : FullEmptyCompletes := by
  intro o d a s ready at_ clear
  have base : Ready s [a] := ⟨clear_mono ready.1 (by simp), ready.2⟩
  have load (op : FeOp) (h : feIsLoad op = true) : State.feIssue op o d a s = s.feLocal op d (feAddr s o a) :=
    feIssue_reaches ready at_ clear (by simp [h])
  have store (op : FeOp) (free : Storable (feAddr s o a)) (done : s.settled = true) :
      State.feIssue op o d a s = s.feLocal op d (feAddr s o a) := feIssue_reaches ready at_ clear fun _ => ⟨free, done⟩
  have write (v : Bool) (free : Storable (feAddr s o a)) : feWrite v o a s =
      .next (((s.writeFe s.who.core (feAddr s o a).toNat v).retire 4#32).feWakeWord s.who.core (feAddr s o a).toNat) := by
    rw [feWrite, withRegs_access base]
    exact congrArg Host.Outcome.next (localAccess_passes _ at_ (fun _ => free) clear)
  refine ⟨fun task full => ?lwf, fun task full => ?lwfe, fun task free done empty => ?swe, fun free done hdone => ?swf, ?fetest,
    write true, write false⟩
  case lwf =>
    show Host.Outcome.next (s.inTask (State.feIssue .lwf o d a)) = _
    rw [State.inTask_task _ _ task, load .lwf rfl, feLocal_holds (op := .lwf) (full_eq_true.2 full)]; rfl
  case lwfe =>
    show Host.Outcome.next (s.inTask (State.feIssue .lwfe o d a)) = _
    rw [State.inTask_task _ _ task, load .lwfe rfl, feLocal_holds (op := .lwfe) (full_eq_true.2 full)]; rfl
  case swe =>
    show Host.Outcome.next (s.inTask (State.feIssue .swe o d a)) = _
    rw [State.inTask_task _ _ task, store .swe free (settled_of_task task done),
      feLocal_holds (by simpa [feHolds, full_eq_decide] using empty)]
    rfl
  case swf =>
    have settled : s.settled = true := by
      by_cases task : InTask s
      · exact settled_of_task task (done task)
      · exact settled_of_handler task (hdone task)
    show Host.Outcome.next (State.feIssue .swf o d a s) = _
    rw [store .swf free settled, feLocal_holds rfl]; rfl
  case fetest =>
    show Host.Outcome.next (s.withRegs [a, d] [] _) = _
    rw [withRegs_access ready]
    refine congrArg Host.Outcome.next ((localAccess_passes _ at_ (by simp) clear).trans ?_)
    simp [flag, State.addr14, feAddr, sext]

/-! ## Waits -/

theorem coreAt_modTask (s : State) (i : Issuer) (f : TaskCtx → TaskCtx) (k : Nat) :
    (s.modTask i f).coreAt k = if i.core = k then (s.coreAt k).modTask i.ctx f else s.coreAt k := by
  rw [State.modTask, State.coreAt_modCore]; split
  · rename_i h; rw [h]
  · rfl

@[simp] theorem modTask_lm (s : State) (i : Issuer) (f : TaskCtx → TaskCtx) (k : Nat) :
    ((s.modTask i f).coreAt k).lm = (s.coreAt k).lm := by
  rw [coreAt_modTask]; split
  · exact Core.modTask_lm ..
  · rfl

@[simp] theorem modTask_fe (s : State) (i : Issuer) (f : TaskCtx → TaskCtx) (k : Nat) :
    ((s.modTask i f).coreAt k).fe = (s.coreAt k).fe := by
  rw [coreAt_modTask]; split
  · cases i.ctx <;> rfl
  · rfl

@[simp] theorem modTask_parkedFe (s : State) (i : Issuer) (f : TaskCtx → TaskCtx) (k : Nat) :
    ((s.modTask i f).coreAt k).parkedFe = (s.coreAt k).parkedFe := by
  rw [coreAt_modTask]; split
  · cases i.ctx <;> rfl
  · rfl

/-- A wait withdrawn changes the list of parked operations of its core, and nothing else. -/
theorem coreAt_withdrawFe (s : State) (k w j : Nat) : (s.withdrawFe k w).coreAt j =
    { s.coreAt j with parkedFe := if k = j then (s.coreAt j).parkedFe.filter (fun m => m.wait != w) else (s.coreAt j).parkedFe } := by
  rw [State.withdrawFe, State.coreAt_modCore]; split
  · rename_i h; rw [h]
  · rfl

theorem execFeTimeout_local {s : State} {k w : Nat} {m : FeMsg} (now : Performs s (.feTimeout k w))
    (parked : (s.coreAt k).parkedFe.find? (fun m => m.wait == w) = some m) (here : m.remote = false) :
    exec .feTimeout s = .next ((s.withdrawFe k w).trapWaiting m.src ⟨.feTimeout, false, BitVec.ofNat 32 m.off⟩) := by
  show execFeTimeout s = _
  rw [execFeTimeout, now]
  simp only [parked, State.feTimedOut, State.feFailed, here]; rfl

theorem fullEmptyWaits : FullEmptyWaits := by
  refine ⟨fun o d a s task ready at_ clear => ?_, fun s k w m now parked here => ?_⟩
  · have load (op : FeOp) (h : feIsLoad op = true) : State.feIssue op o d a s = s.feLocal op d (feAddr s o a) :=
      feIssue_reaches ready at_ clear (by simp [h])
    refine ⟨fun empty => ?lwf, fun empty => ?lwfe, fun free done full => ?swe⟩
    case lwf =>
      show Host.Outcome.next (s.inTask (State.feIssue .lwf o d a)) = _
      rw [State.inTask_task _ _ task, load .lwf rfl, feLocal_fails (by simpa [feHolds, full_eq_decide] using empty)]
    case lwfe =>
      show Host.Outcome.next (s.inTask (State.feIssue .lwfe o d a)) = _
      rw [State.inTask_task _ _ task, load .lwfe rfl, feLocal_fails (by simpa [feHolds, full_eq_decide] using empty)]
    case swe =>
      show Host.Outcome.next (s.inTask (State.feIssue .swe o d a)) = _
      rw [State.inTask_task _ _ task, feIssue_reaches ready at_ clear fun _ => ⟨free, settled_of_task task done⟩,
        feLocal_fails (by simpa [feHolds, full_eq_decide] using full)]
  · refine ⟨_, execFeTimeout_local now parked here, fun j => ?memory, fun p => ?waits, fun task => ?trap⟩
    case memory => simp [State.trapWaiting, coreAt_withdrawFe]
    case waits => simp [State.trapWaiting, coreAt_withdrawFe]
    case trap =>
      rw [State.trapWaiting, State.taskAt_modTask_same _ _ _ task]
      refine ⟨rfl, ?_⟩
      show _ :: ((s.withdrawFe k w).taskAt m.src).traps = _
      unfold State.taskAt
      rw [coreAt_withdrawFe]; rfl

/-- Settles O18: each form reaches its word, where its condition decides whether it is performed or parks. -/
theorem fullEmptyLocal : Obligations.FullEmptyLocal := ⟨fullEmptyCompletes, fullEmptyWaits⟩

end Sys2Proof.Proofs
end

section
/-! SUPPORT. Remote accesses and atomics whose checks pass, as they are issued (R73, R74, R93, R96, R97, R185, R238). Settles O19. -/

namespace Sys2Proof.Proofs

open Sys2Proof.Machine Sys2Proof.Claims

/-! ## Room for one more -/

theorem roomForLoad_of_task {s : State} (room : s.task.ocnt.loads < 63) : s.roomForLoad = true := by simp [State.roomForLoad, room]

theorem roomForStore_of_task {s : State} (room : s.task.ocnt.stores < 63) : s.roomForStore = true := by simp [State.roomForStore, room]

theorem roomForStore_of_handler {s : State} (handler : s.inHandler = true) : s.roomForStore = true := by simp [State.roomForStore, handler]

theorem inHandler_of_not_task {s : State} (h : ¬ InTask s) : s.inHandler = true := by simpa using h

/-- A good remote offset passes its checks (R93). -/
theorem remoteFault_none {a : Word} {store : Bool} (at_ : RemoteAt a) (free : store = true → Storable a) : remoteFault a store = none :=
  localFault_none at_ free

/-! ## Issue -/

/-- A remote load whose checks pass sends its message and marks its destination (R73, R93). -/
theorem remoteLoadOp_issues {s : State} {acq : Bool} {d a b : BitVec 4} (e : State → Event) (ready : Ready s [a, b, d])
    (at_ : RemoteAt (s.x b)) (room : s.task.ocnt.loads < 63) :
    State.remoteLoadOp acq d a b e s =
      (((waited s).modT (TaskCtx.beginLoad d acq false)).send s.core.group s.who.core (s.x a).toNat (e s)).retire 4#32 := by
  rw [State.remoteLoadOp, withRegs_access ready, State.checked_none _ _ _ (remoteFault_none at_ (by simp)),
    State.await_true _ _ _ (roomForLoad_of_task room)]
  rfl

/-- A remote store whose checks pass is counted and sends its message; a release waits until all that is earlier is done (R93, R238). -/
theorem remoteStoreOp_issues {s : State} {rel : Bool} {d a b : BitVec 4} (e : State → Event) (ready : Ready s [a, b, d])
    (at_ : RemoteAt (s.x b)) (free : Storable (s.x b)) (room : s.roomForStore = true) (release : rel = true → s.settled = true) :
    State.remoteStoreOp rel d a b e s =
      ((waited s).countStore.send s.core.group s.who.core (s.x a).toNat (e s)).retire 4#32 := by
  have waits : (s.roomForStore && (!rel || s.settled)) = true := by
    cases rel
    · simp [room]
    · simp [room, release rfl]
  rw [State.remoteStoreOp, withRegs_access ready, State.checked_none _ _ _ (remoteFault_none at_ fun _ => free),
    State.await_true _ _ _ waits]
  rfl

theorem countStore_of_task {s : State} (task : InTask s) :
    s.countStore = s.modT fun t => { t with ocnt := { t.ocnt with stores := t.ocnt.stores + 1 } } := by
  rw [State.countStore, if_neg (by simp [show s.inHandler = false from task])]; rfl

theorem countStore_of_handler {s : State} (handler : s.inHandler = true) :
    s.countStore = (s.modCore s.who.core fun c =>
      { c with hd := { c.hd with unsent := c.hd.unsent + 1, unacked := c.hd.unacked + 1 } }).post (.messageAccept s.who) := by
  rw [State.countStore, if_pos handler]

theorem inTask_runs {s : State} (task : InTask s) (k : State → State) : ok (s.inTask k) = .next (k s) := by
  rw [State.inTask_task _ _ task]; rfl

theorem remoteAccessesIssue : RemoteAccessesIssue := by
  refine ⟨fun b d a s task ready at_ room => ?loads, fun b d a s task ready at_ free room => ?stores,
    fun b d a s handler at_ free => ?handler⟩
  case loads =>
    refine ⟨rfl, rfl, (inTask_runs task _).trans ?_, (inTask_runs task _).trans ?_, (inTask_runs task _).trans ?_⟩
    all_goals rw [remoteLoadOp_issues _ ready at_ room]; rfl
  case stores =>
    have issues {rel : Bool} (e : State → Event) (release : rel = true → s.settled = true) :=
      remoteStoreOp_issues (rel := rel) e ready at_ free (roomForStore_of_task room) release
    have counted : (waited s).countStore = _ := countStore_of_task task
    rw [counted] at issues
    exact ⟨congrArg Host.Outcome.next (issues _ (by simp)),
      fun done => (inTask_runs task _).trans (congrArg Host.Outcome.next (issues _ fun _ => settled_of_task task done)),
      fun done => congrArg Host.Outcome.next (issues _ fun _ => settled_of_task task done)⟩
  case handler =>
    have handler := inHandler_of_not_task handler
    have issues {rel : Bool} (e : State → Event) (release : rel = true → s.settled = true) :=
      remoteStoreOp_issues (rel := rel) (d := d) (a := a) e ⟨.inl handler, .inl handler⟩ at_ free (roomForStore_of_handler handler) release
    have counted : (waited s).countStore = _ := countStore_of_handler handler
    rw [counted] at issues
    exact ⟨congrArg Host.Outcome.next (issues _ (by simp)),
      fun done => congrArg Host.Outcome.next (issues _ fun _ => settled_of_handler (by simp [handler]) done)⟩

/-- An atomic whose checks pass sends its operands to the word's owner (R96); with the release bit it waits for all that is earlier
(R97). -/
theorem amo_issues {s : State} {op : AmoOp} {o : BitVec 2} {d a b : BitVec 4} {rs : List (BitVec 4)} (data2 : State → Word)
    (task : InTask s) (ready : Ready s (a :: b :: d :: rs)) (at_ : RemoteAt (s.x b)) (free : Storable (s.x b))
    (room : s.task.ocnt.loads < 63) (release : o.getLsbD 1 = true → Settled s) :
    State.amo op o d a b data2 rs s = amoIssued s (atomic s op o d a b (data2 s)) := by
  have waits : (s.roomForLoad && (!o.getLsbD 1 || s.settled)) = true := by
    cases h : o.getLsbD 1
    · simp [roomForLoad_of_task room]
    · simp [roomForLoad_of_task room, settled_of_task task (release h)]
  rw [State.amo, withRegs_access ready, State.checked_none _ _ _ (remoteFault_none at_ fun _ => free), State.await_true _ _ _ waits]
  rfl

/-- The AMOs of one destination register are issues of their operations. -/
theorem exec_amoRow {i : Instr} {op : AmoOp} {o : BitVec 2} {d a b : BitVec 4} (row : amoRow i = some (op, o, d, a, b)) (s : State) :
    exec i s = ok (s.inTask (State.amo op o d a b (fun _ => 0#32) [])) := by
  unfold amoRow at row
  split at row <;> cases row <;> rfl

theorem atomicsIssue : AtomicsIssue := by
  refine ⟨fun i op o d a b s row task ready at_ free room release => ?_, fun b o d a s task ready at_ free room release => ?_⟩
  · rw [exec_amoRow row, inTask_runs task, amo_issues _ task ready at_ free room release]
  · refine (inTask_runs task (State.amo .cas o (pairLow d) a b (fun s => s.x (pairHigh d)) [pairHigh d])).trans ?_
    exact congrArg Host.Outcome.next (amo_issues (fun s => s.x (pairHigh d)) task ready at_ free room release)

/-- Settles O19: with its checks passed, each form counts itself and sends its message. -/
theorem remoteIssue : Obligations.RemoteIssue := ⟨remoteAccessesIssue, atomicsIssue⟩

end Sys2Proof.Proofs
end

section
/-! SUPPORT. Remote messages at the core that they address: performed, held, waiting or answered NACK (R91 to R96, R182, R285). Settles
O20. -/

namespace Sys2Proof.Proofs

open Sys2Proof.Machine Sys2Proof.Claims

/-! ## A message meets its core -/

section
variable {s : State} {cls : Nat} {src : Issuer} {g dst : Nat} {e : Event} {kind : NackKind}

/-- A message for a bound core whose handler context is free passes through the mailbox and is performed (R94, R182). -/
theorem atOwner_reaches (h : Reaches s g dst e) (k : State → State) :
    s.atOwner cls src g dst e kind k = k (arrived s cls g src.core dst e) := by
  obtain ⟨here, free⟩ := h
  simp only [State.atOwner, State.deliver, here, State.builtin, free]; rfl

/-- It waits while the handler context is not free (R187). -/
theorem atOwner_waits (here : meets s g dst e = .here) (busy : s.handlerFree dst = false) (k : State → State) :
    s.atOwner cls src g dst e kind k = s.repost e := by
  simp only [State.atOwner, State.deliver, here, State.builtin, busy]; rfl

theorem atOwner_nack (nack : meets s g dst e = .nack) (k : State → State) :
    s.atOwner cls src g dst e kind k =
      ((s.takeSeq e).2.accept g src.core dst).post (.remoteNack ⟨src, kind, .remoteUnreachable, BitVec.ofNat 32 dst, g⟩) := by
  simp only [State.atOwner, State.deliver, nack]

theorem atOwner_hold {h : Nat} (hold : meets s g dst e = .hold h) (k : State → State) :
    s.atOwner cls src g dst e kind k = s.hold h e := by
  simp only [State.atOwner, State.deliver, hold]

end

/-! ## What passing through the mailbox leaves alone -/

@[simp] theorem takeSeq_cores (s : State) (e : Event) : (s.takeSeq e).2.cores = s.cores := by unfold State.takeSeq; split <;> rfl

@[simp] theorem accept_cores (s : State) (g a b : Nat) : (s.accept g a b).cores = s.cores := by unfold State.accept; split <;> rfl

theorem coreAt_congr {s t : State} (h : t.cores = s.cores) (k : Nat) : t.coreAt k = s.coreAt k := by
  unfold State.coreAt; rw [h]

theorem arrived_core (s : State) (cls g src dst : Nat) (e : Event) (k : Nat) :
    ((arrived s cls g src dst e).coreAt k).fe = (s.coreAt k).fe ∧
      ((arrived s cls g src dst e).coreAt k).parkedFe = (s.coreAt k).parkedFe := by
  have seq : (s.takeSeq e).2.coreAt k = s.coreAt k := coreAt_congr (takeSeq_cores s e) k
  rw [arrived, coreAt_congr (accept_cores _ _ _ _), State.passMailbox]
  dsimp only
  rw [State.coreAt_modCore]
  split
  · rename_i h
    subst h
    rw [← seq]
    split <;> exact ⟨rfl, rfl⟩
  · rw [← seq]; exact ⟨rfl, rfl⟩

/-! ## Remote loads, stores and atomics -/

theorem amoValue_eq (op : AmoOp) (w a b : Word) : amoValue op w a b = atomicResult op w a b := by
  cases op
  case min => exact smin_eq w a
  case max => exact smax_eq w a
  all_goals rfl

theorem amoWrite_eq (s : State) (m : AmoMsg) (w : Word) : s.amoWrite m w = amoDone s m w := by
  rw [State.amoWrite, amoValue_eq]; rfl

/-- A load that no loop-back store of its context precedes reads the word at its offset (R93). -/
theorem loopRead_plain {s : State} {m : RemMsg} (h : m.src.core ≠ m.dst ∨ (s.coreAt m.dst).agedAt m.src.ctx m.off = none) :
    s.loopRead m = (s.localWord m.dst m.off, s) := by
  unfold State.loopRead
  rcases h with other | young
  · rw [if_neg other]
  · simp only [young, ite_self]

/-- One that follows such a store reads the older value or the newer one, and changes no memory (R245). -/
theorem loopRead_aged {s : State} {m : RemMsg} {old : Word} (own : m.src.core = m.dst)
    (aged : (s.coreAt m.dst).agedAt m.src.ctx m.off = some old) :
    ((s.loopRead m).1 = old ∨ (s.loopRead m).1 = s.localWord m.dst m.off) ∧ ∀ k, ((s.loopRead m).2.coreAt k).lm = (s.coreAt k).lm := by
  simp only [State.loopRead, if_pos own, aged]
  split
  · exact ⟨.inl rfl, fun k => rfl⟩
  · refine ⟨.inr rfl, fun k => ?_⟩
    rw [State.coreAt_modCore]; split
    · rename_i h; subst h; rfl
    · rfl

theorem execRemoteLoad_eq {s : State} {m : RemMsg} (now : Performs s (.remoteLoad m)) : exec .remoteLoad s =
    .next (s.atOwner 1 m.src m.group m.dst (.remoteLoad m) (.load (.x m.reg) false false) fun s =>
      (s.loopRead m).2.answer m.group m.dst m.src.core (remoteReply m (s.loopRead m).1)) := by
  show execRemoteLoad s = _
  rw [execRemoteLoad, now]; rfl

theorem execRemoteStore_eq {s : State} {m : RemMsg} (now : Performs s (.remoteStore m)) : exec .remoteStore s =
    .next (s.atOwner 2 m.src m.group m.dst (.remoteStore m) .store fun s =>
      (s.setLocalWord m.dst m.off m.data).postTo m.group (.storeAck m.src)) := by
  show execRemoteStore s = _
  rw [execRemoteStore, now]; rfl

theorem remoteAccessesPerform : RemoteAccessesPerform := by
  refine ⟨fun s m now reach => ⟨fun plain => ?load, fun old own aged => ?loopBack⟩, fun s m now reach => ?store,
    fun s m now first reach => ?atomic, fun s m w now second => ?written, fun s m busy => ⟨fun now here => ?waits, fun now here => ?waits'⟩,
    fun s m now nack => ?nack, fun s m g now hold => ?hold⟩
  case load =>
    rw [execRemoteLoad_eq now, atOwner_reaches reach, loopRead_plain plain]; rfl
  case loopBack =>
    rw [execRemoteLoad_eq now, atOwner_reaches reach]
    obtain ⟨value, memory⟩ := loopRead_aged own aged
    exact ⟨_, _, rfl, value, memory⟩
  case store => rw [execRemoteStore_eq now, atOwner_reaches reach]
  case atomic =>
    show execLocalAtomic s = _
    rw [execLocalAtomic, now]
    simp only [first, atOwner_reaches reach, amoWrite_eq]
    rfl
  case written =>
    show execLocalAtomic s = _
    rw [execLocalAtomic, now]
    simp only [second, amoWrite_eq]; rfl
  case waits => rw [execRemoteLoad_eq now, atOwner_waits here busy]
  case waits' => rw [execRemoteStore_eq now, atOwner_waits here busy]
  case nack => rw [execRemoteLoad_eq now, atOwner_nack nack]
  case hold => rw [execRemoteStore_eq now, atOwner_hold hold]

/-! ## Remote full/empty operations -/

/-- A full/empty message at a bound core whose handler context is free is performed there (R93). -/
theorem exec_fe_arrives {s : State} {m : FeMsg} (free : s.handlerFree m.dst = true) {f : State → State}
    (f_eq : ∀ cls e, State.feRemote m (arrived s cls m.group m.src.core m.dst e) = f (arrived s cls m.group m.src.core m.dst e)) :
    (Performs s (.feLoad m) → meets s m.group m.dst (.feLoad m) = .here →
      exec .feLoad s = .next (f (arrived s 3 m.group m.src.core m.dst (.feLoad m)))) ∧
    (Performs s (.feStore m) → meets s m.group m.dst (.feStore m) = .here →
      exec .feStore s = .next (f (arrived s 4 m.group m.src.core m.dst (.feStore m)))) := by
  refine ⟨fun now here => ?_, fun now here => ?_⟩
  · show execFeLoad s = _
    rw [execFeLoad, now]
    simp only [atOwner_reaches ⟨here, free⟩, f_eq]; rfl
  · show execFeStore s = _
    rw [execFeStore, now]
    simp only [atOwner_reaches ⟨here, free⟩, f_eq]; rfl

theorem remoteFullEmpty : RemoteFullEmpty := by
  refine ⟨fun s m free => ?_, fun s m now => ?again, fun s m now => ?late⟩
  case again =>
    show execRemoteBusyResend s = _
    rw [execRemoteBusyResend, now]; rfl
  case late =>
    show execRemoteBusyResend s = _
    rw [execRemoteBusyResend, now]
    by_cases h : feIsLoad m.op <;> simp [h, ok]
  have full (cls : Nat) (e : Event) :
      ((arrived s cls m.group m.src.core m.dst e).coreAt m.dst).full m.off = decide (m.off ∈ (s.coreAt m.dst).fe) := by
    rw [full_eq_decide, (arrived_core s cls m.group m.src.core m.dst e m.dst).1]
  have parked (cls : Nat) (e : Event) :
      ((arrived s cls m.group m.src.core m.dst e).coreAt m.dst).parkedIn m.off = (s.coreAt m.dst).parkedIn m.off := by
    rw [Core.parkedIn, (arrived_core s cls m.group m.src.core m.dst e m.dst).2]; rfl
  refine ⟨fun holds => exec_fe_arrives (f := fun t => (t.fePerform false m).feWakeWord m.dst m.off) free fun cls e => ?_,
    fun fails zero => exec_fe_arrives (f := State.feTimedOut m) free fun cls e => ?_,
    fun fails limit room => exec_fe_arrives (f := State.fePark m) free fun cls e => ?_,
    fun fails limit busy => exec_fe_arrives (f := fun t => t.flip.2.post (.remoteBusyResend m t.flip.1)) free fun cls e => ?_⟩
  · rw [State.feRemote, feReach_holds (by rw [full]; exact holds)]
  · rw [State.feRemote, feReach_fails (by rw [full]; exact fails)]
    exact if_pos zero
  · rw [State.feRemote, feReach_fails (by rw [full]; exact fails)]
    exact (if_neg limit).trans (if_neg (by rw [parked]; omega))
  · rw [State.feRemote, feReach_fails (by rw [full]; exact fails)]
    exact (if_neg limit).trans (if_pos (by rw [parked]; exact busy))

/-- Settles O20: a message reaches its core through the mailbox, or waits, is held or is refused there. -/
theorem remotePerform : Obligations.RemotePerform := ⟨remoteAccessesPerform, remoteFullEmpty⟩

end Sys2Proof.Proofs
end

section
/-! SUPPORT. Replies and acknowledgements at their issuer (R73, R74, R93, R97, R104, R107). Settles O21. -/

namespace Sys2Proof.Proofs

open Sys2Proof.Machine Sys2Proof.Claims

/-! ## Registers of a task context, and the L1 -/

theorem xAt_of_task (s : State) {i : Issuer} (task : i.ctx ≠ .handler) (r : BitVec 4) :
    s.xAt i r = if r = 0#4 then 0#32 else (s.taskAt i).x[r.toFin] := by
  rcases i with ⟨k, _ | _ | _⟩
  case handler => exact absurd rfl task
  all_goals rfl

@[simp] theorem taskAt_dropL1 (s : State) (k : Nat) (i : Issuer) : (s.dropL1 k).taskAt i = s.taskAt i := by
  unfold State.taskAt State.dropL1; rw [State.coreAt_modCore]; split
  · rename_i h; subst h; cases i.ctx <;> rfl
  · rfl

@[simp] theorem dropL1_lm (s : State) (k j : Nat) : ((s.dropL1 k).coreAt j).lm = (s.coreAt j).lm := by
  unfold State.dropL1; rw [State.coreAt_modCore]; split
  · rename_i h; subst h; rfl
  · rfl

@[simp] theorem modTask_l1 (s : State) (i : Issuer) (f : TaskCtx → TaskCtx) (k : Nat) :
    ((s.modTask i f).coreAt k).l1 = (s.coreAt k).l1 := by
  rw [coreAt_modTask]; split
  · cases i.ctx <;> rfl
  · rfl

/-! ## A reply at its task context -/

theorem taskAt_takeReply (s : State) {r : Reply} (task : r.dst.ctx ≠ .handler) :
    (s.takeReply r).taskAt r.dst = (s.taskAt r.dst).takeReply r := by
  unfold State.takeReply; dsimp only; split
  · rw [taskAt_dropL1, State.taskAt_modTask_same _ _ _ task]
  · exact State.taskAt_modTask_same _ _ _ task

theorem takeReply_l1 (s : State) (r : Reply) :
    ((s.takeReply r).coreAt r.dst.core).l1 = if r.acq then [] else (s.coreAt r.dst.core).l1 := by
  unfold State.takeReply; dsimp only; split
  · rw [State.dropL1, State.coreAt_modCore_same]
  · exact modTask_l1 ..

theorem takeReply_memory (s : State) (r : Reply) : SameMemory s (s.takeReply r) := by
  unfold State.takeReply; dsimp only; split
  · exact ⟨fun a => rfl, fun k a => by rw [dropL1_lm, modTask_lm]⟩
  · exact ⟨fun a => rfl, fun k a => by rw [modTask_lm]⟩

section
variable {t : TaskCtx} {r : Reply} {d : BitVec 4} (dest : r.dest = .x d) (named : d ≠ 0#4)
include dest named

/-- A value is written to its register, and the load is over (R73). -/
theorem takeReply_value (good : r.trap = none) : t.takeReply r =
    { (t.endLoad r.acq r.atomic).clearPending (.x d) with x := t.x.set d.toFin (r.value.setWidth 32) } := by
  unfold TaskCtx.takeReply
  simp only [good, dest, TaskCtx.deliverValue, if_neg named]; rfl

/-- A fault is kept at its register, and nothing is written (R94). -/
theorem takeReply_fault {tr : Trap} (bad : r.trap = some tr) : t.takeReply r =
    { (t.endLoad r.acq r.atomic).clearPending (.x d) with faultX := t.faultX.put d.toNat tr } := by
  unfold TaskCtx.takeReply
  simp only [bad, dest, TaskCtx.keepFault, if_neg named]; rfl

theorem takeReply_counts :
    (t.takeReply r).ocnt.loads = t.ocnt.loads - 1 ∧ (t.takeReply r).pendX = t.pendX &&& ~~~(1#16 <<< d.toNat) := by
  rcases h : r.trap with _ | tr
  · rw [takeReply_value dest named h]; exact ⟨rfl, rfl⟩
  · rw [takeReply_fault dest named h]; exact ⟨rfl, rfl⟩

theorem takeReply_other {e : BitVec 4} (other : e ≠ d) : (t.takeReply r).x[e.toFin] = t.x[e.toFin] := by
  rcases h : r.trap with _ | tr
  · rw [takeReply_value dest named h]
    exact Vector.getElem_set_ne d.toFin.isLt e.toFin.isLt fun same => other (BitVec.eq_of_toNat_eq same.symm)
  · rw [takeReply_fault dest named h]; rfl

end

theorem repliesArrive : RepliesArrive := by
  refine ⟨fun s r k g now src free => ?mailbox, fun s r d now src task dest named => ?global⟩
  case mailbox =>
    show execLoadReply s = _
    rw [execLoadReply, now]
    simp only [src, State.builtin, free]; rfl
  case global =>
    have run : exec .loadReply s = .next (s.takeReply r) := by
      show execLoadReply s = _
      rw [execLoadReply, now]
      simp only [src]; rfl
    have context := taskAt_takeReply s task
    obtain ⟨loads, marks⟩ := takeReply_counts (t := s.taskAt r.dst) dest named
    refine ⟨_, run, context ▸ loads, context ▸ marks, fun good => ?_, fun tr bad => ?_, fun e other => ?_, takeReply_l1 s r,
      takeReply_memory s r⟩
    · simp [xAt_of_task _ task, context, takeReply_value dest named good, named, TaskCtx.clearPending, TaskCtx.endLoad]
    · simp [xAt_of_task _ task, context, takeReply_fault dest named bad, TaskCtx.clearPending, TaskCtx.endLoad]
    · rw [xAt_of_task _ task, xAt_of_task _ task, context, takeReply_other dest named other]

/-! ## Acknowledgements -/

theorem acknowledgementsArrive : AcknowledgementsArrive := by
  refine ⟨fun s i now task => ?store, fun s i now task => ?message, fun s i now handler => ?handler⟩
  case store =>
    show execStoreAck s = _
    rw [execStoreAck, now]
    obtain ⟨k, _ | _ | _⟩ := i
    case handler => exact absurd rfl task
    all_goals rfl
  case message =>
    show execMessageAccept s = _
    rw [execMessageAccept, now]
    obtain ⟨k, _ | _ | _⟩ := i
    case handler => exact absurd rfl task
    all_goals rfl
  case handler =>
    show execMessageAccept s = _
    rw [execMessageAccept, now]
    simp only [handler]; rfl

/-- Settles O21: what arrives ends what was counted at its issue. -/
theorem remoteReplies : Obligations.RemoteReplies := ⟨repliesArrive, acknowledgementsArrive⟩

end Sys2Proof.Proofs
end

section
/-! SUPPORT. Hints, fences and the tensor map slots of a task context (R72, R98, R100, R105, R108, R110). Settles O23. -/

namespace Sys2Proof.Proofs

open Sys2Proof.Machine Sys2Proof.Claims

/-! ## Stalls and delivered faults -/

/-- An instruction whose condition does not hold is left unissued, to be issued again (R72). -/
theorem await_false {s : State} {p : Bool} (h : p = false) (k : State → State) :
    s.await p k = s.modT fun t => { t with run := .stalled .retry } := by
  rw [State.await, h]; rfl

theorem anyPending_false {t : TaskCtx} (h : NonePending t) : t.anyPending = false := by
  simp [TaskCtx.anyPending, h]

/-- A fault that no pending register holds back is delivered: its change is made, and the trap taken (R73, R278, R279). -/
theorem deliverFault_takes {s : State} {tr : Trap} {f : State → State} (here : NonePending s.task) (there : NonePending (f s).task)
    (who : (f s).who = s.who) : s.deliverFault tr f = ((f s).trapAt s.who tr).prefer := by
  have waits : (!(f s).inHandler && (f s).task.anyPending) = false := by rw [anyPending_false there, Bool.and_false]
  rw [State.deliverFault, anyPending_false here, State.trapWith, waits, who]; rfl

theorem ctx_of_task {s : State} (task : InTask s) : s.who.ctx ≠ .handler := fun h =>
  Bool.false_ne_true (task.symm.trans (by simp [State.inHandler, h]))

/-! ## Fences -/

theorem loopBusy_false {s : State} (way : ∀ e ∈ s.pending, loopsBack s.who e = false)
    (parked : ∀ m ∈ s.core.parkedFe, ¬(m.remote = true ∧ m.src = s.who)) : s.loopBusy = false := by
  simp only [State.loopBusy, Bool.or_eq_false_iff, List.any_eq_false, Bool.and_eq_true, beq_iff_eq]
  exact ⟨fun e h => by simp [way e h], parked⟩

/-- What a fence does once nothing that it orders is outstanding (R105, R244, R245). -/
theorem fence_completes {y : BitVec 2} {l : BitVec 1} {sc : BitVec 3} {s : State}
    (writes : y ≠ 1#2 → s.writesDone = true ∧ s.messagesDone = true) (reads : y ≠ 2#2 → s.loadsDone = true)
    (loops : l = 1#1 → s.loopBusy = false) :
    let u := if l = 1#1 then s.modCore s.who.core (Core.orderAliases s.who.ctx) else s
    exec (.fence y l sc) s = .next ((if y ≠ 2#2 ∧ 1 ≤ sc.toNat then u.dropL1 u.who.core else u).retire 4#32) := by
  have ordered : ((y = 1#2 || (s.writesDone && s.messagesDone)) && (y = 2#2 || s.loadsDone) && (l = 0#1 || !s.loopBusy)) = true := by
    have hw : (decide (y = 1#2) || (s.writesDone && s.messagesDone)) = true := by
      by_cases h : y = 1#2
      · simp [h]
      · simp [writes h]
    have hr : (decide (y = 2#2) || s.loadsDone) = true := by
      by_cases h : y = 2#2
      · simp [h]
      · simp [reads h]
    have hl : (decide (l = 0#1) || !s.loopBusy) = true := by
      by_cases h : l = 1#1
      · simp [loops h]
      · simp [show l = 0#1 by bv_omega]
    rw [hw, hr, hl]; rfl
  show execFence y l sc s = _
  rw [execFence, State.await_true _ _ _ ordered]; rfl

theorem writesDone_of_task {s : State} (task : InTask s) (stores : s.task.ocnt.stores = 0) (atomics : s.task.ocnt.atomics = 0) :
    s.writesDone = true := by
  simp [State.writesDone, State.drained, show s.inHandler = false from task, stores, atomics]

theorem messagesDone_of_task {s : State} (task : InTask s) (msgs : s.task.ocnt.msgs = 0) : s.messagesDone = true := by
  simp [State.messagesDone, show s.inHandler = false from task, msgs]

theorem hintsAndFences : HintsAndFences := by
  refine ⟨fun s => ⟨rfl, rfl⟩, fun s task => ⟨inTask_runs task _, inTask_runs task _⟩, fun s k x now task idle => ?idle,
    fun y l sc s task writes reads loops => ?fence, fun y sc s handler writes => ?handler, fun y l sc s task writes stores => ?stall⟩
  case idle =>
    refine ⟨s.modTask ⟨k, x⟩ TaskCtx.endIdle, ?_, ?_⟩
    · show execIdleTimeout s = _
      rw [execIdleTimeout, now]; rfl
    · rw [State.taskAt_modTask_same _ _ _ task, TaskCtx.endIdle, if_pos idle]
  case fence =>
    refine (fence_completes (fun h => ?_) (fun h => ?_) fun h => ?_).trans ?_
    · obtain ⟨stores, atomics, msgs⟩ := writes h
      exact ⟨writesDone_of_task task stores atomics, messagesDone_of_task task msgs⟩
    · simp [State.loadsDone, reads h]
    · exact loopBusy_false (loops h).1 (loops h).2
    · by_cases h : l = 1#1
      · simp only [if_pos h]; rfl
      · simp only [if_neg h]; rfl
  case handler =>
    refine (fence_completes (l := 0#1) (fun h => ?_) (fun _ => ?_) fun h => by simp at h).trans ?_
    · obtain ⟨unacked, unsent⟩ := writes h
      simp [State.writesDone, State.messagesDone, handler, unacked, unsent]
    · simp [State.loadsDone, handler]
    · split <;> rfl
  case stall =>
    have waits : s.writesDone = false := by simp [State.writesDone, State.drained, show s.inHandler = false from task, stores]
    have order : ((y = 1#2 || (s.writesDone && s.messagesDone)) && (y = 2#2 || s.loadsDone) && (l = 0#1 || !s.loopBusy)) = false := by
      simp [waits, writes]
    exact congrArg Host.Outcome.next (await_false order _)

/-! ## Tensor map slots -/

theorem tmset_passes {n : BitVec 4} {s : State} (task : InTask s) (free : NoAcquire s) : exec (.tmset n) s =
    .next (if mapMalformed (s.core.lm.rec (tmapAddr n)) || bmvMalformed (s.core.lm.rec (tmapAddr n)) then
      s.deliverFault ⟨.tmapUnbound, false, BitVec.ofNat 32 (tmapAddr n)⟩ (State.modT fun t => { t with tm := t.tm.set n.toFin none })
    else (s.modT fun t => { t with tm := t.tm.set n.toFin (some (s.core.lm.rec (tmapAddr n))) }).retire 4#32) :=
  (inTask_runs task _).trans (congrArg Host.Outcome.next (State.access_free _ _ free))

theorem task_modT {s : State} (task : InTask s) (f : TaskCtx → TaskCtx) : (s.modT f).task = f s.task :=
  State.taskAt_modTask_same s s.who f (ctx_of_task task)

theorem tensorMapSlots : TensorMapSlots := by
  refine ⟨fun n s task free good good' => ?bound, fun n s task free clear bad => ?malformed, fun n s task => inTask_runs task _⟩
  case bound =>
    rw [tmset_passes task free, show tmapAddr n = 0x7C00 + 64 * n.toNat from rfl, good, good']; rfl
  case malformed =>
    rw [tmset_passes task free, show tmapAddr n = 0x7C00 + 64 * n.toNat from rfl, bad]
    exact congrArg Host.Outcome.next (deliverFault_takes clear (by rw [task_modT task]; exact clear) rfl)

/-- Settles O23: each form completes once what it waits for is done. -/
theorem hintsFencesAndMaps : Obligations.HintsFencesAndMaps := ⟨hintsAndFences, tensorMapSlots⟩

end Sys2Proof.Proofs
end

section
/-! SUPPORT. WAITO, and the pops of pq and cq: what they wait for, what they deliver, and what they read (R107, R144, R146, R200, R202). -/

namespace Sys2Proof.Proofs

open Sys2Proof.Machine Sys2Proof.Claims

/-! ## WAITO -/

theorem waitoLimit_eq : ∀ c : BitVec 4, waitoLimit c = waitLimits[c.toNat]? := by decide

theorem withinLimit_iff {c : BitVec 4} {n : Nat} : withinLimit c n = true ↔ Within c n := by
  unfold withinLimit; rw [waitoLimit_eq]
  split
  · rename_i l named
    exact ⟨fun h k hk => Option.some.inj (named.symm.trans hk) ▸ of_decide_eq_true h, fun h => decide_eq_true (h l named)⟩
  · rename_i none
    exact ⟨fun _ k hk => absurd (none.symm.trans hk) (by simp), fun _ => rfl⟩

/-- Whether every field of ocnt is within the limit that WAITO names for it (R107). -/
abbrev WithinAll (l st c t m : BitVec 4) (o : Ocnt) : Prop :=
  Within l o.loads ∧ Within st o.stores ∧ Within c o.copies ∧ Within t o.cmds ∧ Within m o.msgs

theorem withinAll_iff {l st c t m : BitVec 4} {o : Ocnt} :
    (withinLimit l o.loads && withinLimit st o.stores && withinLimit c o.copies && withinLimit t o.cmds && withinLimit m o.msgs) = true ↔
      WithinAll l st c t m o := by
  simp only [Bool.and_eq_true, withinLimit_iff, and_assoc]

theorem waito_passes {l st c t m : BitVec 4} {s : State} (task : InTask s) (within : WithinAll l st c t m s.task.ocnt) :
    exec (.waito l st c t m) s = .next (if c = 15#4 then s.retire 4#32 else s.heldFirst fun s => s.retire 4#32) :=
  (inTask_runs task _).trans (congrArg Host.Outcome.next (State.await_true _ _ _ (withinAll_iff.2 within)))

theorem waito_waits {l st c t m : BitVec 4} {s : State} (task : InTask s) (beyond : ¬ WithinAll l st c t m s.task.ocnt) :
    exec (.waito l st c t m) s = .next (s.modT fun t => { t with run := .stalled .retry }) :=
  (inTask_runs task _).trans (congrArg Host.Outcome.next (await_false (Bool.eq_false_iff.2 fun h => beyond (withinAll_iff.1 h)) _))

/-! ## What a delivery leaves pending -/

theorem taskAt_modSlot (s : State) (k slot : Nat) (f : Transfer → Transfer) (i : Issuer) :
    (s.modCore k (Core.modSlot slot f)).taskAt i = s.taskAt i := by
  unfold State.taskAt; rw [State.coreAt_modCore]; split
  · rename_i h; subst h; cases i.ctx <;> rfl
  · rfl

section
variable {s : State} {slot : Nat} (task : InTask s)
include task

theorem dropHeld_nonePending (h : NonePending s.task) : NonePending ((s.dropHeld s.who slot).task) := by
  show NonePending ((s.dropHeld s.who slot).taskAt s.who)
  rw [State.dropHeld, taskAt_modSlot, State.taskAt_modTask_same _ _ _ (ctx_of_task task)]
  exact h

theorem popCq_nonePending (h : NonePending s.task) : NonePending ((s.popCq s.who slot).task) := by
  show NonePending ((s.popCq s.who slot).taskAt s.who)
  rw [State.popCq, taskAt_modSlot, State.taskAt_modTask_same _ _ _ (ctx_of_task task)]
  exact h

end

theorem dropL1_nonePending {s : State} {k : Nat} (h : NonePending s.task) : NonePending (s.dropL1 k).task := by
  show NonePending ((s.dropL1 k).taskAt s.who)
  rw [taskAt_dropL1]; exact h

theorem recordOf_eq (s : State) (slot : Nat) : s.recordOf slot = recordWord slot (s.core.slotAt slot) := rfl

/-! ## Acting reads -/

/-- A read that acts goes on in a task context whose destination is free (R49). -/
theorem actingRead_passes {s : State} {n : Nat} {d : BitVec 4} (task : InTask s) (clear : Clear s [d] []) (k : State → State) :
    s.actingRead n d k = k s := by
  rw [State.actingRead, withRegs_of_clear clear, show s.inHandler = false from task]; rfl

/-- A token without a fault reads as its sequence number (R144). -/
theorem tokenWord_good {tk : Token} (h : tk.f = none) : tokenWord tk = tk.seq.setWidth 32 := by
  rw [tokenWord, h]; exact BitVec.eq_of_toNat_eq (by simp)

/-- A stall until there is something to pop, or all ones when nothing is to come (R144, R200). -/
theorem retry_or_ones {s : State} {d : BitVec 4} {p q : Prop} [Decidable p] [Decidable q] (h : p ↔ ¬ q) :
    (if p then s.stall .retry else (s.setX d 0xFFFFFFFF#32).retire 4#32) =
      if q then (s.setX d 0xFFFFFFFF#32).retire 4#32 else s.modT fun t => { t with run := .stalled .retry } := by
  by_cases hq : q
  · rw [if_pos hq, if_neg fun hp => h.1 hp hq]
  · rw [if_neg hq, if_pos (h.2 hq)]; rfl

theorem popCq_who (s : State) (i : Issuer) (slot : Nat) : (s.popCq i slot).who = s.who := rfl

theorem dropHeld_who (s : State) (i : Issuer) (slot : Nat) : (s.dropHeld i slot).who = s.who := rfl

theorem dropL1_who (s : State) (k : Nat) : (s.dropL1 k).who = s.who := rfl

section
variable {d : BitVec 4} {s : State} (task : InTask s) (clear : Clear s [d] [])
include task clear

theorem mfsPq_good {tk : Token} {rest : List Token} (tokens : s.task.tokens = tk :: rest) (good : tk.f = none) : exec (.mfsPq d) s =
    .next ((((s.modT fun c => { c with tokens := rest }).dropL1 s.who.core).setX d (tk.seq.setWidth 32)).retire 4#32) := by
  refine congrArg Host.Outcome.next ((actingRead_passes task clear _).trans ?_)
  simp only [tokens, good, tokenWord_good good]

theorem mfsPq_fault {tk : Token} {rest : List Token} {c : Cause} (none : NonePending s.task) (tokens : s.task.tokens = tk :: rest)
    (bad : tk.f = some c) : exec (.mfsPq d) s =
      .next (((s.modT fun c => { c with tokens := rest }).dropL1 s.who.core).trapAt s.who ⟨c, true, tk.tval⟩).prefer := by
  refine congrArg Host.Outcome.next ((actingRead_passes task clear _).trans ?_)
  simp only [tokens, bad]
  exact deliverFault_takes none (dropL1_nonePending (by rw [task_modT task]; exact none)) rfl

theorem mfsPq_empty (tokens : s.task.tokens = []) : exec (.mfsPq d) s = .next (if s.task.ocnt.cmds = 0
    then (s.setX d 0xFFFFFFFF#32).retire 4#32 else s.modT fun t => { t with run := .stalled .retry }) := by
  refine congrArg Host.Outcome.next ((actingRead_passes task clear _).trans ?_)
  simp only [tokens]
  exact retry_or_ones Iff.rfl

theorem mfsCq_good {slot : Nat} {rest : List Nat} (cq : s.task.cq = slot :: rest) (good : (s.core.slotAt slot).undelivered = false) :
    exec (.mfsCq d) s =
      .next ((((s.popCq s.who slot).dropL1 s.who.core).setX d (recordWord slot (s.core.slotAt slot))).retire 4#32) := by
  refine congrArg Host.Outcome.next ((actingRead_passes task clear _).trans ?_)
  simp only [cq, good, recordOf_eq, Bool.false_eq_true, if_false]

theorem mfsCq_fault {slot : Nat} {rest : List Nat} (none : NonePending s.task) (cq : s.task.cq = slot :: rest)
    (bad : (s.core.slotAt slot).undelivered = true) : exec (.mfsCq d) s = .next ((((s.popCq s.who slot).dropHeld s.who slot).dropL1
      s.who.core).trapAt s.who ⟨.copyFault, true, recordWord slot (s.core.slotAt slot)⟩).prefer := by
  refine congrArg Host.Outcome.next ((actingRead_passes task clear _).trans ?_)
  simp only [cq, bad, recordOf_eq, if_true]
  have popped := popCq_nonePending (slot := slot) task none
  have pops : (s.popCq s.who slot).who = s.who := popCq_who s _ _
  have inTask : InTask (s.popCq s.who slot) := by
    show (s.popCq s.who slot).inHandler = false
    rw [State.inHandler, pops]; exact task
  have dropped := dropHeld_nonePending (slot := slot) inTask popped
  rw [pops] at dropped
  exact deliverFault_takes none (dropL1_nonePending dropped) (by rw [dropL1_who, dropHeld_who, popCq_who])

theorem mfsCq_empty (cq : s.task.cq = []) : exec (.mfsCq d) s = .next (if s.core.awaitsRecord (s.who.ctx == .tc1) = false
    then (s.setX d 0xFFFFFFFF#32).retire 4#32 else s.modT fun t => { t with run := .stalled .retry }) := by
  refine congrArg Host.Outcome.next ((actingRead_passes task clear _).trans ?_)
  simp only [cq]
  exact retry_or_ones (by simp)

end

theorem waitsAndPops : WaitsAndPops := by
  refine ⟨fun l st c t m s task hl hst hc ht hm held => ?waito, fun l st c t m s slot rest task hl hst hc ht hm code held clear => ?delivers,
    fun l st c t m s task beyond => waito_waits task beyond, fun d s tk rest task clear tokens good => mfsPq_good task clear tokens good,
    fun d s tk rest c task clear none tokens bad => mfsPq_fault task clear none tokens bad,
    fun d s task clear tokens => mfsPq_empty task clear tokens,
    fun d s slot rest task clear cq good => mfsCq_good task clear cq good,
    fun d s slot rest task clear none cq bad => mfsCq_fault task clear none cq bad, fun d s task clear cq => mfsCq_empty task clear cq⟩
  case waito =>
    rw [waito_passes task ⟨hl, hst, hc, ht, hm⟩]
    split
    · rfl
    · rename_i code
      rw [State.heldFirst, held.resolve_left code]
  case delivers =>
    rw [waito_passes task ⟨hl, hst, hc, ht, hm⟩, if_neg code, State.heldFirst, held]
    exact congrArg Host.Outcome.next (deliverFault_takes clear (dropL1_nonePending (dropHeld_nonePending task clear)) rfl)

end Sys2Proof.Proofs
end

section
/-! SUPPORT. The events of a core and of the part's storage: escalations, errors of structures and of memory, and the clock (R264, R266,
R280 to R282). Settles O25. -/

namespace Sys2Proof.Proofs

open Sys2Proof.Machine Sys2Proof.Claims

/-! ## Escalation -/

theorem wordBytes_eq (ws : List Word) : wordBytes ws = (ws.map BitVec.toNat).flatMap (leBytes 4) := by
  rw [wordBytes, List.flatMap_map]

theorem faultWords_length (r : FaultRec) (c g : Nat) (n : BitVec 64) : (r.words c g n).length = 8 := rfl

/-- Words written one behind another are read back, and the bytes around them stand (R5). -/
theorem word_setBytes_wordBytes {ws : List Word} (m : Mem) (a : Nat) {k : Nat} (h : k < ws.length) :
    (m.setBytes a (wordBytes ws)).word (a + 4 * k) = ws.getD k 0#32 := by
  rw [wordBytes_eq, word_setBytes_flatMap _ _ _ _ (by simpa using h)]
  simp [h]

theorem length_wordBytes (ws : List Word) : (wordBytes ws).length = 4 * ws.length := by
  rw [wordBytes_eq, length_flatMap_leBytes, List.length_map]

/-- The groups and the cores of the part. -/
def staff (s : State) := (s.groups, s.cores)

theorem unbind_staff (s : State) (q : Nat) : staff (s.unbind q) = staff s := by
  unfold State.unbind; split <;> rfl

theorem requestPass_staff (s : State) : staff s.requestPass = staff s := by
  unfold State.requestPass; split <;> rfl

theorem count_staff (s : State) (c : Cause) : staff (s.count c) = staff s := rfl

theorem raiseMsix_staff (s : State) (n : Nat) : staff (s.raiseMsix n) = staff s := rfl

theorem modQueue_staff (s : State) (q : Nat) (f : Queue → Queue) : staff (s.modQueue q f) = staff s := rfl

theorem freeWord_staff (s : State) : staff s.freeWord.2 = staff s := rfl

theorem queueError_staff (s : State) (q : Nat) (e : QErr) (i d : Word) : staff (s.queueError q e i d) = staff s := by
  unfold State.queueError; dsimp only; split
  · rfl
  · rw [requestPass_staff, raiseMsix_staff]
    split
    · rw [count_staff, count_staff, unbind_staff, modQueue_staff, freeWord_staff]
    · rw [count_staff, unbind_staff, modQueue_staff, freeWord_staff]

theorem groupAt_modGroup (s : State) (g h : Nat) (f : Group → Group) :
    (s.modGroup g f).groupAt h = if g = h then f (s.groupAt g) else s.groupAt h := SMap.get_put _ _ _ _ _

/-- A live group that fails is FAULTED; the other groups and every core are as before (R335). -/
theorem failGroup_live {s : State} {g : Nat} (live : (s.groupAt g).state.live = true) :
    ((s.failGroup g).groupAt g).state = .faulted ∧ (∀ h, h ≠ g → (s.failGroup g).groupAt h = s.groupAt h) ∧
      (s.failGroup g).cores = s.cores := by
  have groupsOf {t u : State} (h : staff t = staff u) (k : Nat) : t.groupAt k = u.groupAt k := by
    unfold State.groupAt; rw [show t.groups = u.groups from congrArg Prod.fst h]
  unfold State.failGroup; dsimp only
  rw [if_pos (by simp [live])]
  split
  · refine ⟨?_, fun h ne => ?_, (congrArg Prod.snd (queueError_staff _ _ _ _ _)).trans rfl⟩
    · rw [groupsOf (queueError_staff _ _ _ _ _)]; simp
    · rw [groupsOf (queueError_staff _ _ _ _ _)]; simp [groupAt_modGroup, ne.symm]
  · exact ⟨by simp, fun h ne => by simp [groupAt_modGroup, ne.symm], rfl⟩

/-- Under policy 00 an escalation fails its group, whose release follows (R277, R280). -/
theorem escalate_policy_zero {s : State} {g : Nat} {cause : Cause} {r : FaultRec} (policy : (s.contextAt (s.groupAt g).ctx).policy = 0#2)
    (live : (s.groupAt g).state.live = true) : s.escalate g cause r =
      ((((s.writeFault (s.groupAt g).ctx g { r with cause := cause.code }).count cause).failGroup g).post (.groupRelease g)) := by
  unfold State.escalate; dsimp only
  rw [if_neg (by simp [live])]
  exact if_pos policy

/-! ## Errors of memory (R264) -/

theorem gfMulLow_zero (n : Nat) (a : Byte) : gfMulLow n a 0#8 = 0#8 := by
  induction n generalizing a with
  | zero => rfl
  | succ n ih => simp [gfMulLow, ih]

theorem gfMul_one (a : Byte) : gfMul a 1#8 = a := by
  show (if (1#8 : Byte).getLsbD 0 then a else 0#8) ^^^ gfMulLow 7 (gfDouble a) (1#8 >>> 1) = a
  rw [show (1#8 : Byte) >>> 1 = 0#8 from rfl, gfMulLow_zero]
  simp

/-- The errors of a G32 codeword with one symbol in error, symbol by symbol. -/
theorem errorWord_single {q b : Nat} {x : Byte} (hp : 3 * q + b < 36) :
    errorWord 36 0 [(0, q, b, x)] = List.replicate (3 * q + b) 0#8 ++ x :: List.replicate (35 - (3 * q + b)) 0#8 := by
  refine List.ext_getElem (by simp [errorWord]; omega) fun p _ _ => ?_
  simp only [errorWord, List.getElem_map, List.getElem_range, SymbolError.position, List.getElem_append, List.length_replicate,
    List.getElem_replicate, List.getElem_cons]
  by_cases h : 3 * q + b = p
  · subst h; simp
  · have : ¬ (0 + 3 * q + b = p) := by omega
    simp [h]
    omega

/-- The word's value at power 1 is the sum of its symbols. -/
theorem syndrome_zero (word : List Byte) : syndrome word 0 = word.foldl (· ^^^ ·) 0#8 := by
  unfold syndrome
  congr 1
  funext a c
  show gfMul a 1#8 ^^^ c = _
  rw [gfMul_one]

theorem foldl_xor_zeros (n : Nat) (a : Byte) : (List.replicate n 0#8).foldl (· ^^^ ·) a = a := by
  induction n generalizing a with
  | zero => rfl
  | succ n ih => simp [List.replicate_succ, ih]

/-- One symbol in error is within what the code of a G32 granule corrects (R264). -/
theorem eccVerdict_single {q b : Nat} {x : Byte} (ecc : Bool) (hp : 3 * q + b < 36) (hx : x ≠ 0#8) :
    eccVerdict ecc 0 (errorWord 36 0 [(0, q, b, x)]) = .corrected := by
  rw [errorWord_single hp]
  have outside : inCode (codeShape 0).2 (List.replicate (3 * q + b) 0#8 ++ x :: List.replicate (35 - (3 * q + b)) 0#8) = false := by
    refine List.all_eq_false.2 ⟨0, List.mem_range.2 (by decide), ?_⟩
    rw [syndrome_zero, List.foldl_append, foldl_xor_zeros, List.foldl_cons, foldl_xor_zeros]
    simpa using hx
  have one : (List.replicate (3 * q + b) 0#8 ++ x :: List.replicate (35 - (3 * q + b)) 0#8).countP (· != 0#8) = 1 := by
    rw [List.countP_append, List.countP_cons, List.countP_replicate, List.countP_replicate]
    simp [hx]
  have few : 1 ≤ corrects ecc 0 := by cases ecc <;> decide
  unfold eccVerdict
  rw [outside, one]
  exact (if_neg Bool.false_ne_true).trans (if_pos few)

/-- A granule of a frame of no page is a G32 granule of one codeword (R263). -/
theorem granuleError_single {s : State} {pa q b : Nat} {x : Byte} (lpddr : inLpddr pa = true) (exists_ : s.populated 0 pa (pa + 1) = true)
    (free : s.pageOfFrame pa = none) (hp : 3 * q + b < 36) (hx : x ≠ 0#8) :
    s.granuleError pa [(0, q, b, x)] = s.countCorrected 0 (errorChannels 0 (pa / 32 * 32) 0 [(0, q, b, x)]) := by
  unfold State.granuleError
  rw [if_neg (by simp [lpddr, exists_]), free]
  show State.codewordError 0 (pa / 32 * 32) [(0, q, b, x)] s 0 = _
  have verdict := eccVerdict_single s.ecc32c hp hx
  unfold State.codewordError
  simp only [codeShape, Nat.reduceAdd, verdict]

theorem uncorrectable_g32 (s : State) (pa : Nat) : s.uncorrectable 0 pa =
    (({ s with records := { s.records with
      uncorrectable := (((placement 0 pa).map (·.1)).dedup).foldl (fun m c => m.tally c) s.records.uncorrectable } } : State).markFrame
    (pa / 32 * 32) true) := by
  have one : granuleSectors 0 pa = [pa / 32 * 32] := by simp [granuleSectors, granuleBytes]
  rw [State.uncorrectable, one]; rfl

/-! ## Errors of structures, and the clock -/

/-- The tval of most traps by a storage error is what the error names (R282). -/
theorem errorTval_named {c : Cause} {pc v : Word} (h : c ∉ [Cause.codeEcc, .vunitResidue, .tokenEcc, .cqEcc]) : errorTval c pc v = v := by
  unfold errorTval
  split
  case h_5 => rfl
  all_goals exact absurd (by decide) h

theorem find_map {α : Type} (f : α → α) (k : Nat) (m : SMap α) : SMap.find k (m.map fun e => (e.1, f e.2)) = (SMap.find k m).map f := by
  induction m with
  | nil => rfl
  | cons e m ih =>
    obtain ⟨j, v⟩ := e
    simp only [List.map_cons, SMap.find]
    split
    · rfl
    · exact ih

/-- One more cycle of a core's clock, if it runs (R50, R287). -/
def tick (c : Core) : Core :=
  if c.power = .bound ∨ c.power = .saving then { c with cycle := c.cycle + 1#64, divider := c.divider - 1 } else c

theorem coreAt_tick (s : State) (k : Nat) :
    ({ s with cores := s.cores.map fun e => (e.1, tick e.2) } : State).coreAt k = tick (s.coreAt k) := by
  unfold State.coreAt SMap.get
  rw [find_map]
  rcases SMap.find k s.cores with _ | c <;> rfl

theorem execScrubber_soft {s : State} {e : SoftError} (now : Performs s (.softError e)) : execScrubber s = ok (s.storageError e) := by
  rw [execScrubber, now]

theorem coreEvents : CoreEvents := by
  refine ⟨fun s c g r => ?record, fun s g cause r policy live => ?policy, fun s k x now running => ?hang, fun s k now reserved => ?retention,
    fun s k now running budget => ?budget, fun s k now off => ?scrub, fun s k die now => ?soft,
    fun s k x c v now error named runs task running none => ?trap, fun s k v now bound => ?pipe,
    fun s pa q b x now lpddr exists_ free hq hb hx => ?memory, uncorrectable_g32, fun s => ⟨_, rfl, rfl, coreAt_tick s⟩⟩
  case record =>
    refine ⟨rfl, fun k hk => word_setBytes_wordBytes _ _ hk, fun b hb => Mem.byte_setBytes_out _ _ _ _ ?_⟩
    rw [length_wordBytes, faultWords_length]; exact hb
  case policy =>
    rw [escalate_policy_zero policy live]
    obtain ⟨state, others, cores⟩ :=
      failGroup_live (s := (s.writeFault (s.groupAt g).ctx g { r with cause := cause.code }).count cause) (g := g) live
    exact ⟨state, others, cores, by simp [State.post]⟩
  case hang =>
    show execCoreHang s = _
    rw [execCoreHang, now]; exact if_pos running
  case retention =>
    show execRetentionLoss s = _
    rw [execRetentionLoss, now]; exact if_pos reserved
  case budget =>
    show execHandlerBudget s = _
    rw [execHandlerBudget, now]; exact if_pos ⟨running, budget⟩
  case scrub =>
    show execScrubber s = _
    rw [execScrubber, now]; exact if_pos (.inl off)
  case soft => exact execScrubber_soft now
  case trap =>
    show execScrubber s = _
    rw [execScrubber, now]
    refine congrArg Host.Outcome.next ?_
    show State.trapError ⟨k, x⟩ c v s = _
    unfold State.trapError
    rw [if_neg (by simp [error, runs]), if_neg task]
    dsimp only
    rw [if_neg (by simp [running]), anyPending_false none, errorTval_named named]; rfl
  case pipe =>
    show execScrubber s = _
    rw [execScrubber, now]; exact congrArg Host.Outcome.next (if_pos ⟨by decide, bound⟩)
  case memory =>
    show execScrubber s = _
    rw [execScrubber, now]
    exact congrArg Host.Outcome.next (granuleError_single lpddr exists_ free (by omega) hx)

/-- Settles O25: WAITO and the pops by what their context holds, the events of a core by their checks. -/
theorem waitsPopsAndCoreEvents : Obligations.WaitsPopsAndCoreEvents := ⟨waitsAndPops, coreEvents⟩

end Sys2Proof.Proofs
end

section
/-! SUPPORT. Global loads, stores and atomics of one element whose checks pass, as they are issued (R99, R102 to R104, R406). Settles
O31. -/

namespace Sys2Proof.Proofs

open Sys2Proof.Machine Sys2Proof.Claims

/-! ## The checks before translation -/

/-- The element codes of scalar global instructions (R102). -/
abbrev ScalarCode (m : Rec) : Prop := mapEt m = 4 ∨ mapEt m = 5 ∨ mapEt m = 7

theorem not_otherCode {m : Rec} (code : ScalarCode m) : ¬(mapEt m ≠ 4 ∧ mapEt m ≠ 5 ∧ mapEt m ≠ 7) := by
  rcases code with h | h | h <;> simp [h]

section
variable {t : BitVec 4} {i : BitVec 8} {x : BitVec 4} {xs : List (BitVec 4)} {s : State} (task : InTask s) (ready : Ready s (x :: xs))
  (k : Rec → Option Nat → State → State)
include task ready

/-- The linear index is formed once the registers are free (R99). -/
theorem gmem_checks : s.gmem t i x xs k = match s.task.tm[t.toFin] with
    | none => s.trap .tmapUnbound (t.setWidth 32)
    | some m =>
      if mapEt m ≠ 4 ∧ mapEt m ≠ 5 ∧ mapEt m ≠ 7 then s.trap .tmapRange (s.x x + i.setWidth 32)
      else match viewVa m s.core.gsize s.core.rank (s.x x + i.setWidth 32).toNat with
        | none => if mapEdge m then s.trap .tmapRange (s.x x + i.setWidth 32) else k m none s
        | some va => if va % 4 ≠ 0 then s.trap .misaligned (BitVec.ofNat 32 va) else k m (some va) s := by
  rw [State.gmem, State.inTask_task _ _ task, withRegs_access ready]; rfl

theorem gmem_element {m : Rec} {va : Nat} (at_ : GlobalAt s t i x m va) : s.gmem t i x xs k = k m (some va) s := by
  obtain ⟨bound, code, valid, aligned⟩ := at_
  rw [gmem_checks task ready]
  simp only [bound, valid, if_neg (not_otherCode code), if_neg (not_not.2 aligned)]

theorem gmem_invalid {m : Rec} (bound : s.task.tm[t.toFin] = some m) (code : ScalarCode m)
    (invalid : viewVa m s.core.gsize s.core.rank (s.x x + i.setWidth 32).toNat = none) (edge : mapEdge m = false) :
    s.gmem t i x xs k = k m none s := by
  rw [gmem_checks task ready]
  simp only [bound, invalid, edge, if_neg (not_otherCode code), Bool.false_eq_true, if_false]

end

/-! ## Issue -/

theorem issue_eq_sent (s : State) (a : Access) : s.issue a = sent s { a with seq := s.waitCount } := rfl

theorem paged_passes {s : State} {va : Nat} {n : Need} (free : PageFree s va n) (k : State → State) : s.paged va n k = k s :=
  State.checked_none _ _ _ free

/-- A load whose page and count have room goes on. -/
theorem load_passes {s : State} {va : Nat} {n : Need} (free : PageFree s va n) (room : s.task.ocnt.loads < 63) (k : State → State) :
    (s.paged va n fun s => s.await s.roomForLoad k) = k s := by
  rw [paged_passes free, State.await_true _ _ _ (roomForLoad_of_task room)]

theorem store_passes {s : State} {va : Nat} (free : PageFree s va .write) (room : s.task.ocnt.stores < 63) (k : State → State) :
    (s.paged va .write fun s => s.await s.roomForStore k) = k s := by
  rw [paged_passes free, State.await_true _ _ _ (roomForStore_of_task room)]

theorem release_passes {s : State} {rel : Bool} (task : InTask s) (done : rel = true → Settled s) (k : State → State) :
    s.await (!rel || s.settled) k = k s := by
  refine State.await_true _ _ _ ?_
  cases rel
  · rfl
  · exact settled_of_task task (done rfl)

section
variable {t : BitVec 4} {i : BitVec 8} {d x : BitVec 4} {s : State} {m : Rec} {va : Nat} (task : InTask s)
include task

section
variable (ready : Ready s [x, d]) (at_ : GlobalAt s t i x m va)
include ready at_

theorem glw_misses (miss : s.core.l1Find s.core.ctxid (va / 32) = none) (free : PageFree s va .read) (room : s.task.ocnt.loads < 63) :
    exec (.glw t i d x) s = .next ((sent (s.modT (TaskCtx.beginLoad d false false))
      (scalarAccess s m va .read (.x d) true false)).retire 4#32) := by
  refine congrArg Host.Outcome.next ((gmem_element task ready _ at_).trans ?_)
  simp only [miss]
  exact load_passes free room _

theorem glw_hits {l : L1Line} {bs : List Byte} (hit : s.core.l1Find s.core.ctxid (va / 32) = some l)
    (bytes : s.core.l1Read s.core.ctxid va 4 = some bs) : exec (.glw t i d x) s =
      .next ((((s.seeL1 [(va, 4)]).modCore s.who.core (Core.l1Put l)).setX d (BitVec.ofNat 32 (leNat bs))).retire 4#32) := by
  refine congrArg Host.Outcome.next ((gmem_element task ready _ at_).trans ?_)
  simp only [hit, bytes]

theorem glwa_issues (free : PageFree s va .read) (room : s.task.ocnt.loads < 63) : exec (.glwa t i d x) s =
    .next ((sent (s.modT (TaskCtx.beginLoad d true false)) (scalarAccess s m va .read (.x d) false true)).retire 4#32) :=
  congrArg Host.Outcome.next ((gmem_element task ready _ at_).trans (load_passes free room _))

theorem gstore_issues {rel : Bool} (free : PageFree s va .write) (room : s.task.ocnt.stores < 63) (done : rel = true → Settled s) :
    s.gstore rel t i d x =
      (sent ((s.modCore s.who.core (Core.l1Write s.core.ctxid va (leBytes 4 (s.x d).toNat))).modT TaskCtx.beginStore)
        (scalarAccess s m va (.write ((s.x d).setWidth 256)) .none false false)).retire 4#32 := by
  refine (gmem_element task ready _ at_).trans ((release_passes task done _).trans ?_)
  exact store_passes free room _

end

/-- An atomic of one element sends its operands (R102, R103). -/
theorem gatomic_issues {k : Rec → GAtomic} {second : Option (BitVec 4)} (ready : Ready s (x :: d :: second.toList))
    (at_ : GlobalAt s t i x m va) (free : PageFree s va .atomic) (room : s.task.ocnt.loads < 63) :
    s.gatomic k t i d x second = (sent (s.modT (TaskCtx.beginLoad d false true))
      (scalarAccess s m va (.atomic (k m) (s.x d) ((second.map s.x).getD 0#32)) (.x d) false false)).retire 4#32 := by
  refine (gmem_element task ready _ at_).trans ((load_passes free room _).trans ?_)
  cases second <;> rfl

end

theorem globalLoadsAndStores : GlobalLoadsAndStores := by
  refine ⟨fun t i d x s m va task ready at_ => ⟨glw_misses task ready at_, fun l bs => glw_hits task ready at_, glwa_issues task ready at_,
    fun free room => ⟨?_, fun done => ?_⟩⟩, fun t i d x s m task ready bound code invalid edge => ⟨?_, ?_⟩⟩
  · exact congrArg Host.Outcome.next (gstore_issues task ready at_ free room (by simp))
  · exact congrArg Host.Outcome.next (gstore_issues task ready at_ free room fun _ => done)
  · exact congrArg Host.Outcome.next (gmem_invalid task ready _ bound code invalid edge)
  · refine congrArg Host.Outcome.next ((gmem_invalid task ready _ bound code invalid edge).trans ?_)
    exact release_passes task (by simp) _

/-- The global atomics of one operand register are issues of their operations. -/
theorem exec_gaRow {i : Instr} {k : Rec → GAtomic} {t : BitVec 4} {n : BitVec 8} {d x : BitVec 4} (row : gaRow i = some (k, t, n, d, x))
    (s : State) : exec i s = ok (s.gatomic k t n d x none) := by
  unfold gaRow at row
  split at row <;> cases row <;> rfl

theorem globalAtomics : GlobalAtomics := by
  refine ⟨fun i k t n d x s m va row task ready at_ free room => ?_, fun t n d x s m va task ready at_ free room => ?_⟩
  · rw [exec_gaRow row]
    exact congrArg Host.Outcome.next (gatomic_issues (second := none) task ready at_ free room)
  · exact congrArg Host.Outcome.next
      (gatomic_issues (k := fun _ => .cas) (d := pairLow d) (second := some (pairHigh d)) task ready at_ free room)

/-- Settles O31: each form passes its checks, then issues or hits. -/
theorem globalAccesses : Obligations.GlobalAccesses := ⟨globalLoadsAndStores, globalAtomics⟩

end Sys2Proof.Proofs
end

section
/-! SUPPORT. The traps of scalar global accesses, and what a page does to an access at its issue (R99 to R102, R260, R262, R267, R338). -/

namespace Sys2Proof.Proofs

open Sys2Proof.Machine Sys2Proof.Claims

/-! ## The traps of scalar global accesses -/

theorem paged_traps {s : State} {va : Nat} {n : Need} {tr : Trap} (refused : s.pageTrap s.core.ctxid va n = some tr) (k : State → State) :
    s.paged va n k = s.trapWith tr := by
  rw [State.paged, refused]; rfl

/-- Every scalar global instruction checks its slot, its code, its index and its alignment alike; then it meets its page. -/
theorem exec_gmemRow {i : Instr} {t : BitVec 4} {n : BitVec 8} {x : BitVec 4} {rs : List (BitVec 4)} {s : State}
    (row : gmemRow i = some (t, n, x, rs)) (task : InTask s) (ready : Ready s rs) :
    ∃ xs k, rs = x :: xs ∧ exec i s = .next (s.gmem t n x xs k) ∧
      ∀ m va tr, gmemMeets s va i → s.pageTrap s.core.ctxid va (gmemNeed i) = some tr → k m (some va) s = s.trapWith tr := by
  unfold gmemRow at row
  split at row <;> cases row
  case h_1 =>
    refine ⟨_, _, rfl, rfl, fun m va tr miss refused => ?_⟩
    simp only [show s.core.l1Find s.core.ctxid (va / 32) = none from miss]
    exact paged_traps refused _
  case h_3 => exact ⟨_, _, rfl, rfl, fun m va tr _ refused => (release_passes task (by simp) _).trans (paged_traps refused _)⟩
  case h_4 => exact ⟨_, _, rfl, rfl, fun m va tr done refused => (release_passes task (fun _ => done) _).trans (paged_traps refused _)⟩
  all_goals exact ⟨_, _, rfl, rfl, fun m va tr _ refused => paged_traps refused _⟩

theorem globalAccessFaults : GlobalAccessFaults := by
  intro i t n x rs s row task ready
  obtain ⟨xs, k, rfl, runs, meets⟩ := exec_gmemRow row task ready
  rw [runs]
  have checks := gmem_checks (t := t) (i := n) task ready k
  refine ⟨fun unbound => ?_, fun m bound four five seven => ?_, fun m bound code invalid edge => ?_, fun m va bound code valid odd => ?_,
    fun m va tr at_ meet refused => ?_⟩
  · rw [checks]; simp only [unbound]
  · rw [checks]; simp only [bound, if_pos (⟨four, five, seven⟩ : mapEt m ≠ 4 ∧ mapEt m ≠ 5 ∧ mapEt m ≠ 7)]
  · rw [checks]; simp only [bound, if_neg (not_otherCode code), invalid, edge, if_true]
  · rw [checks]; simp only [bound, if_neg (not_otherCode code), valid, if_pos odd]
  · rw [gmem_element task ready k at_, meets m va tr meet refused]

/-! ## What a page does to an access at its issue -/

/-- The causes of a walk that finds no leaf (R260, R266). -/
abbrev WalkCause (c : Cause) : Prop := c = .pageFault ∨ c = .pteMalformed ∨ c = .memUncorrectable

theorem leafAt_cause {m : Mem} {poison : List Nat} {follow : Bool} {va k tbl idx e : Nat} {c : Cause}
    (h : leafAt m poison follow va k tbl idx e = .fault c) : WalkCause c := by
  unfold leafAt at h; dsimp only at h
  split at h
  · cases h; exact .inr (.inr rfl)
  · split at h <;> cases h
    exact .inr (.inl rfl)

theorem walkFrom_cause {m : Mem} {poison : List Nat} {follow : Bool} {top va : Nat} {c : Cause} :
    ∀ k tbl, walkFrom m poison follow top va k tbl = .fault c → WalkCause c := by
  intro k
  induction k with
  | zero =>
    intro tbl h
    unfold walkFrom at h; dsimp only at h
    split at h
    · cases h; exact .inr (.inl rfl)
    split at h
    · cases h; exact .inr (.inr rfl)
    split at h
    · cases h; exact .inl rfl
    · exact leafAt_cause h
  | succ k ih =>
    intro tbl h
    unfold walkFrom at h; dsimp only at h
    generalize (if k = 3 then 0x80 else 0x800) = bytes at h
    split at h
    · cases h; exact .inr (.inl rfl)
    split at h
    · cases h; exact .inr (.inr rfl)
    split at h
    · cases h; exact .inl rfl
    split at h
    · split at h
      · exact ih _ h
      · cases h; exact .inr (.inl rfl)
    · exact leafAt_cause h

theorem walk_cause {s : State} {ctx va : Nat} {c : Cause} (h : s.walk ctx va = .fault c) : WalkCause c := by
  unfold State.walk at h
  split at h
  · split at h <;> cases h
    exact .inr (.inl rfl)
  · rename_i fault
    cases h
    exact walkFrom_cause _ _ fault

/-- A walk of the root table that stops there (R257, R266, R369). -/
theorem walk_root {s : State} {ctx va : Nat} {c : Cause}
    (h : walkFrom s.phys s.poison (s.feature 9) s.lpddrEnd (va % 2 ^ 48) 4 (s.contextAt ctx).root = .fault c) :
    s.walk ctx va = .fault c := by
  unfold State.walk; rw [h]

section
variable {s : State} {ctx va : Nat} {n : Need}

theorem walk_mod : s.walk ctx (va % 2 ^ 48) = s.walk ctx va := by
  unfold State.walk; rw [Nat.mod_mod]

/-- A leaf that lets the access pass gives what its state gives (R262). -/
theorem meet_leaf {l : Leaf} (leaf : s.walk ctx va = .leaf l) (free : l.denies n = none) : s.meet ctx va n =
    match l.state with
    | 0 => s.meetResident ctx (va % 2 ^ 48) l
    | 1 => if n = .read then .zero l else .pager l
    | 2 =>
      match s.victimOf ctx l.base with
      | some v => if v.stored < v.places.length then .wait else .recall l
      | none => .recall l
    | 3 => .wait
    | 4 => .away l.home (l.pa (va % 2 ^ 48)) l
    | _ => .pager l := by
  unfold State.meet
  simp only [walk_mod, leaf, free] <;> rfl

theorem meet_fault {c : Cause} (fault : s.walk ctx va = .fault c) : s.meet ctx va n = .fault c := by
  unfold State.meet
  simp only [walk_mod, fault]

theorem meet_denied {l : Leaf} {c : Cause} (leaf : s.walk ctx va = .leaf l) (denied : l.denies n = some c) : s.meet ctx va n = .fault c := by
  unfold State.meet
  simp only [walk_mod, leaf, denied]

theorem pageTrap_fault {c : Cause} (fault : s.meet ctx va n = .fault c) : s.pageTrap ctx va n = some ⟨c, false, BitVec.ofNat 32 va⟩ := by
  rw [State.pageTrap, fault]

theorem pageTrap_away {home pa : Nat} {l : Leaf} (away : s.meet ctx va n = .away home pa l) :
    s.pageTrap ctx va n = if s.routed home then none else some ⟨.routeUnreachable, false, BitVec.ofNat 32 home⟩ := by
  rw [State.pageTrap, away]

/-- Only a fault and another part's page can trap at issue. -/
theorem pageTrap_none (calm : ∀ c, s.meet ctx va n ≠ .fault c) (here : ∀ h pa l, s.meet ctx va n ≠ .away h pa l) :
    s.pageTrap ctx va n = none := by
  unfold State.pageTrap
  split
  case h_1 c h => exact absurd h (calm c)
  case h_2 h => exact absurd h (here _ _ _)
  case h_3 => rfl

theorem denies_read {l : Leaf} (reads : n ≠ .write) (h : l.r = false) : l.denies n = some .permRead := by
  rw [Leaf.denies, if_pos ⟨reads, by simp [h]⟩]

theorem denies_write {l : Leaf} (readable : n = .write ∨ l.r = true) (writes : n ≠ .read) (h : l.w = false) :
    l.denies n = some .permWrite := by
  rw [Leaf.denies, if_neg (by rintro ⟨ne, nr⟩; rcases readable with rfl | r <;> simp_all), if_pos ⟨writes, by simp [h]⟩]

/-- A page beside RESIDENT and REMOTE traps nothing at issue (R262). -/
theorem pageTrap_quiet {l : Leaf} (leaf : s.walk ctx va = .leaf l) (free : l.denies n = none) (resident : l.state ≠ 0)
    (remote : l.state ≠ 4) : s.pageTrap ctx va n = none := by
  have quiet : (∀ c, s.meet ctx va n ≠ .fault c) ∧ ∀ h pa l, s.meet ctx va n ≠ .away h pa l := by
    rw [meet_leaf leaf free]
    split
    case h_1 h => exact absurd h resident
    case h_2 => split <;> simp
    case h_3 =>
      split
      · split <;> simp
      · simp
    case h_4 => simp
    case h_5 h => exact absurd h remote
    case h_6 => simp
  exact pageTrap_none quiet.1 quiet.2

end

theorem levelIndex_root {va : Nat} (h : va < 2 ^ 48) : levelIndex va 4 = va / 2 ^ 44 := by
  simp only [levelIndex, if_true, bits]; omega

theorem pageTrapsAtIssue : PageTrapsAtIssue := by
  intro s ctx va n low
  refine ⟨fun c fault => ⟨pageTrap_fault (meet_fault fault), walk_cause fault⟩, ⟨fun short => walk_root ?_, fun long bad => walk_root ?_,
    fun long good absent => walk_root ?_⟩, fun l leaf => ⟨fun reads h => pageTrap_fault (meet_denied leaf (denies_read reads h)),
    fun readable writes h => pageTrap_fault (meet_denied leaf (denies_write readable writes h)), fun free => ?states⟩⟩
  · rw [Nat.mod_eq_of_lt low]; unfold walkFrom; dsimp only
    rw [if_pos (by simpa using short)]
  · rw [Nat.mod_eq_of_lt low]; unfold walkFrom; dsimp only
    rw [levelIndex_root low, if_neg (by simpa using long), if_pos (by simpa using bad)]
  · rw [Nat.mod_eq_of_lt low]; unfold walkFrom; dsimp only
    rw [levelIndex_root low, if_neg (by simpa using long), if_neg (by simpa using good), if_pos (by simpa [bits] using absent)]
  case states =>
    have meets := meet_leaf leaf free
    have resident (state : l.state = 0) : s.meet ctx va n = s.meetResident ctx (va % 2 ^ 48) l := by simp only [meets, state]
    have remote (state : l.state = 4) : s.meet ctx va n = .away l.home (l.pa (va % 2 ^ 48)) l := by simp only [meets, state]
    refine ⟨fun state kind down => pageTrap_fault ?_, fun state kind up => ?_, fun state kind => ?_, fun state cut => ?_,
      fun state reached => ?_, pageTrap_quiet leaf free⟩
    · rw [resident state]; unfold State.meetResident; dsimp only; rw [kind]; simp [down]
    · have host : s.meet ctx va n = .host (s.hostAddr (l.pa (va % 2 ^ 48))) l := by
        rw [resident state]; unfold State.meetResident; dsimp only; rw [kind]; simp [up]
      exact pageTrap_none (by simp [host]) (by simp [host])
    · have here : s.meet ctx va n = .here (l.pa (va % 2 ^ 48)) l := by
        rw [resident state]; unfold State.meetResident; dsimp only
        split
        · omega
        · omega
        · rfl
      exact pageTrap_none (by simp [here]) (by simp [here])
    · rw [pageTrap_away (remote state), cut]; rfl
    · rw [pageTrap_away (remote state), reached]; rfl

/-- No page makes an access misaligned (R262). -/
theorem pageTrap_not_misaligned {s : State} {ctx va : Nat} {n : Need} {tr : Trap} (h : s.pageTrap ctx va n = some tr) :
    tr.cause ≠ .misaligned := by
  have faults {c : Cause} (fault : s.meet ctx va n = .fault c) : c ≠ .misaligned := by
    rcases walked : s.walk ctx va with w | l
    · rw [meet_fault walked] at fault
      cases fault
      rcases walk_cause walked with rfl | rfl | rfl <;> decide
    · rcases denied : l.denies n with _ | d
      · rw [meet_leaf walked denied] at fault
        unfold State.meetResident at fault
        split at fault
        · dsimp only at fault
          split at fault
          · split at fault <;> cases fault
            decide
          · split at fault <;> cases fault
            decide
          · cases fault
        · split at fault <;> cases fault
        · split at fault
          · split at fault <;> cases fault
          · cases fault
        all_goals cases fault
      · rw [meet_denied walked denied] at fault
        cases fault
        unfold Leaf.denies at denied
        split at denied
        · cases denied; decide
        · split at denied <;> cases denied
          decide
  unfold State.pageTrap at h
  split at h
  · rename_i fault
    cases h
    exact faults fault
  · split at h <;> cases h
    exact Cause.noConfusion
  · cases h

end Sys2Proof.Proofs
end

section
/-! SUPPORT. Vector global accesses: their checks, the lanes that the L1 gives, and the lines that a store updates (R99, R104, R134 to R136,
R406). Settles O32. -/

namespace Sys2Proof.Proofs

open Sys2Proof.Machine Sys2Proof.Claims

/-! ## The checks of the slot, the index and the elements -/

section
variable {t : BitVec 4} {i : BitVec 9} {v : BitVec 3} {x : BitVec 4} {walk : Bool} {s : State} (task : InTask s) (clear : Clear s [x] [v])
  (free : NoAcquire s) (k : Rec → Nat → List VElem → State → State)
include task clear free

theorem vglobal_checks : s.vglobal t i v x walk k = match s.task.tm[t.toFin] with
    | none => s.trap .tmapUnbound (t.setWidth 32)
    | some m =>
      let (n, es) := s.vElems m walk (s.x x + i.setWidth 32).toNat
      s.checked (edgeTrap m es) (k m n es) := by
  rw [State.vglobal, State.inTask_task _ _ task, withRegs_of_clear clear, State.access_free _ _ free]; rfl

theorem vglobal_unbound (unbound : s.task.tm[t.toFin] = none) : s.vglobal t i v x walk k = s.trap .tmapUnbound (t.setWidth 32) := by
  rw [vglobal_checks task clear free]; simp only [unbound]

theorem vglobal_edge {m : Rec} {n : Nat} {es : List VElem} {e : VElem} (bound : s.task.tm[t.toFin] = some m)
    (elems : s.vElems m walk (s.x x + i.setWidth 32).toNat = (n, es)) (edge : mapEdge m = true)
    (first : (es.filter fun e => e.va.isNone).head? = some e) :
    s.vglobal t i v x walk k = s.trap .tmapRange (BitVec.ofNat 32 e.index) := by
  rw [vglobal_checks task clear free]
  simp only [bound, elems, edgeTrap, edge, if_true, first]
  rfl

theorem vglobal_elements {m : Rec} {n : Nat} {es : List VElem} (at_ : VectorAt s t i x walk m n es) :
    s.vglobal t i v x walk k = k m n es s := by
  obtain ⟨bound, elems, valid⟩ := at_
  have noTrap : edgeTrap m es = none := by
    unfold edgeTrap; split
    · rename_i edge
      have none : es.filter (fun e => e.va.isNone) = [] :=
        List.filter_eq_nil_iff.2 fun e he => by simpa using valid edge e he
      rw [none]; rfl
    · rfl
  rw [vglobal_checks task clear free]
  simp only [bound, elems]
  exact State.checked_none _ _ _ noTrap

end

/-- The trap of an element by itself: its alignment before its page (R134). -/
def oneTrap (s : State) (z : Nat) (need : Need) (e : VElem) : Option Trap :=
  match e.va with
  | some va => if va % z ≠ 0 then some ⟨.misaligned, false, BitVec.ofNat 32 va⟩ else s.pageTrap s.core.ctxid va need
  | none => none

theorem elemTrap_eq (s : State) (z : Nat) (need : Need) (es : List VElem) : s.elemTrap z need es = (es.filterMap (oneTrap s z need)).head? := rfl

theorem oneTrap_none {s : State} {z : Nat} {need : Need} {e : VElem}
    (h : ∀ a, e.va = some a → a % z = 0 ∧ s.pageTrap s.core.ctxid a need = none) : oneTrap s z need e = none := by
  unfold oneTrap; split
  · rename_i va some
    obtain ⟨aligned, free⟩ := h va some
    rw [if_neg (not_not.2 aligned), free]
  · rfl

/-- Elements without a trap are passed over. -/
theorem elemTrap_first {s : State} {z : Nat} {need : Need} {before after : List VElem} {e : VElem} {tr : Trap}
    (calm : ∀ b ∈ before, oneTrap s z need b = none) (traps : oneTrap s z need e = some tr) :
    s.elemTrap z need (before ++ e :: after) = some tr := by
  rw [elemTrap_eq, List.filterMap_append, List.filterMap_eq_nil_iff.2 calm, List.nil_append, List.filterMap_cons_some traps]
  rfl

theorem elemTrap_valid {s : State} {z : Nat} {need : Need} {es : List VElem} {tr : Trap} (h : s.elemTrap z need es = some tr) :
    validElems es ≠ [] := by
  intro none
  have quiet : es.filterMap (oneTrap s z need) = [] := by
    refine List.filterMap_eq_nil_iff.2 fun e he => ?_
    have invalid := List.filterMap_eq_nil_iff.1 none e he
    unfold oneTrap
    split
    · rename_i va some
      simp [some] at invalid
    · rfl
  rw [elemTrap_eq, quiet] at h
  cases h

/-- A trap by misalignment is that of an element (R262). -/
theorem elemTrap_misaligned {s : State} {z : Nat} {need : Need} {es : List VElem} {tr : Trap} (h : s.elemTrap z need es = some tr)
    (cause : tr.cause = .misaligned) : (es.any fun e => e.va.any fun va => va % z != 0) = true := by
  obtain ⟨e, he, traps⟩ := List.mem_filterMap.1 (List.mem_of_mem_head? (elemTrap_eq s z need es ▸ h))
  refine List.any_eq_true.2 ⟨e, he, ?_⟩
  unfold oneTrap at traps
  split at traps
  · rename_i va some
    split at traps
    · rename_i odd
      simpa [some] using odd
    · exact absurd cause (pageTrap_not_misaligned traps)
  · cases traps

/-! ## Vector loads and stores behind their checks -/

/-- What the L1 gives a vector load: nothing to an acquire, nor to a misaligned element (R134, R136). -/
def vloadGets (s : State) (n : Nat) (es : List VElem) (o : BitVec 1) : Option (List (Nat × Nat)) :=
  if o = 1#1 ∨ (es.any fun e => e.va.any fun va => va % n != 0) then none else s.l1Lanes n (validElems es)

section
variable {t : BitVec 4} {i : BitVec 9} {v : BitVec 3} {o : BitVec 1} {x : BitVec 4} {walk : Bool} {s : State} {m : Rec} {n : Nat}
  {es : List VElem} (task : InTask s) (clear : Clear s [x] [v]) (free : NoAcquire s)
include task clear free

section
variable (at_ : VectorAt s t i x walk m n es)
include at_

theorem vload_empty (empty : validElems es = []) : s.vload walk t i v o x =
    (if o = 1#1 then (s.modT (TaskCtx.setV v 0#256)).dropL1 s.who.core else s.modT (TaskCtx.setV v 0#256)).retire 4#32 := by
  refine (vglobal_elements task clear free _ at_).trans ?_
  simp only [empty, State.dropIf, decide_eq_true_eq]
  rfl

theorem vload_hits {got : List (Nat × Nat)} (nonempty : validElems es ≠ []) (gets : vloadGets s n es o = some got) : s.vload walk t i v o x =
    (((s.seeL1 ((validElems es).map fun e => (e.2, n))).l1Use (validElems es)).modT (TaskCtx.setV v
      ({ vectorAccess s m n es .read (.v v) (o != 1#1) (o == 1#1) with got := got } : Access).value)).retire 4#32 := by
  refine (vglobal_elements task clear free _ at_).trans ?_
  unfold vloadGets at gets
  obtain ⟨e, el, valid⟩ := List.exists_cons_of_ne_nil nonempty
  simp only [gets]
  rw [valid]
  rfl

theorem vload_misses (nonempty : validElems es ≠ []) (gets : vloadGets s n es o = none) : s.vload walk t i v o x =
    s.checked (s.elemTrap n .read es) fun s => s.await s.roomForLoad fun s =>
      ((s.modT (TaskCtx.beginVLoad v (o = 1#1))).issue (s.newAccess m n (validElems es) .read (.v v) (!decide (o = 1#1)) (o = 1#1))).retire
        4#32 := by
  refine (vglobal_elements task clear free _ at_).trans ?_
  unfold vloadGets at gets
  obtain ⟨e, el, valid⟩ := List.exists_cons_of_ne_nil nonempty
  simp only [gets]
  rw [valid]
  rfl

end

/-- What a vector store sends behind its checks (R134, R136). -/
theorem vstg_passes (at_ : VectorAt s t i x false m n es) : exec (.vstg t i v o x) s =
    .next (s.checked (s.elemTrap n .write es) fun s => s.await (o = 0#1 || s.settled) fun s =>
      match validElems es with
      | [] => s.retire 4#32
      | el => s.await s.roomForStore fun s =>
          (((vstgLines s s.task.v[v.toFin] n el).modT TaskCtx.beginStore).issue
            (s.newAccess m n el (.write (s.task.vreg v)) .none false false)).retire 4#32) :=
  congrArg Host.Outcome.next (vglobal_elements task clear free _ at_)

end

/-- A release bit waits for all that is earlier (R104). -/
theorem releaseBit_passes {s : State} {o : BitVec 1} (task : InTask s) (done : o = 1#1 → Settled s) (k : State → State) :
    s.await (o = 0#1 || s.settled) k = k s := by
  refine State.await_true _ _ _ ?_
  rcases (by decide : ∀ o : BitVec 1, o = 0#1 ∨ o = 1#1) o with rfl | rfl
  · rfl
  · rw [settled_of_task task (done rfl)]; rfl

theorem vstgLines_waitCount (s : State) (w : Vec) (n : Nat) (el : List (Nat × Nat)) : (vstgLines s w n el).waitCount = s.waitCount :=
  foldl_keeps State.waitCount
    (fun s (e : Nat × Nat) => s.modCore s.who.core (Core.l1Write s.core.ctxid e.2 (leBytes n (laneOf w (8 * n) e.1)))) (fun _ _ => rfl) el s

/-! ## The lanes that the L1 gives -/

/-- A multiple of the next place leaves a digit as it is. -/
theorem digit_add_mul {w k l a r : Nat} (small : a < 2 ^ w) : (a * 2 ^ (w * l) + 2 ^ (w * (l + 1)) * r) / 2 ^ (w * k) % 2 ^ w =
    if k = l then a else (2 ^ (w * (l + 1)) * r) / 2 ^ (w * k) % 2 ^ w := by
  have pos := Nat.two_pow_pos w
  have place : 2 ^ (w * (l + 1)) = 2 ^ (w * l) * 2 ^ w := by rw [Nat.mul_add, Nat.mul_one, Nat.pow_add]
  rcases Nat.lt_trichotomy k l with h | rfl | h
  · obtain ⟨j, rfl⟩ := Nat.exists_eq_add_of_lt h
    have split_ : 2 ^ (w * (k + j + 1)) = 2 ^ (w * k) * (2 ^ w * 2 ^ (w * j)) := by
      rw [← Nat.pow_add, ← Nat.pow_add]; congr 1; ring
    rw [if_neg (by omega), place, split_,
      show a * (2 ^ (w * k) * (2 ^ w * 2 ^ (w * j))) + 2 ^ (w * k) * (2 ^ w * 2 ^ (w * j)) * 2 ^ w * r =
        2 ^ (w * k) * (2 ^ w * (2 ^ (w * j) * (a + 2 ^ w * r))) by ring,
      show 2 ^ (w * k) * (2 ^ w * 2 ^ (w * j)) * 2 ^ w * r = 2 ^ (w * k) * (2 ^ w * (2 ^ (w * j) * 2 ^ w * r)) by ring,
      Nat.mul_div_cancel_left _ (Nat.two_pow_pos _), Nat.mul_div_cancel_left _ (Nat.two_pow_pos _), Nat.mul_mod_right, Nat.mul_mod_right]
  · rw [if_pos rfl, place, show a * 2 ^ (w * k) + 2 ^ (w * k) * 2 ^ w * r = 2 ^ (w * k) * (a + 2 ^ w * r) by ring,
      Nat.mul_div_cancel_left _ (Nat.two_pow_pos _), Nat.add_mul_mod_self_left, Nat.mod_eq_of_lt small]
  · obtain ⟨j, rfl⟩ := Nat.exists_eq_add_of_lt h
    have below : a * 2 ^ (w * l) < 2 ^ (w * (l + 1)) := by
      rw [place, Nat.mul_comm]; exact Nat.mul_lt_mul_of_pos_left small (Nat.two_pow_pos _)
    have split_ : 2 ^ (w * (l + j + 1)) = 2 ^ (w * (l + 1)) * 2 ^ (w * j) := by
      rw [← Nat.pow_add]; congr 1; ring
    rw [if_neg (by omega), split_, ← Nat.div_div_eq_div_mul, ← Nat.div_div_eq_div_mul, Nat.add_mul_div_left _ _ (Nat.two_pow_pos _),
      Nat.div_eq_of_lt below, Nat.zero_add, Nat.mul_div_cancel_left _ (Nat.two_pow_pos _)]

/-- The sum of values at their places (R134). -/
def laneSum (w : Nat) (got : List (Nat × Nat)) : Nat := (got.map fun e => e.2 % 2 ^ w * 2 ^ (w * e.1)).sum

theorem laneSum_dvd {w l : Nat} {got : List (Nat × Nat)} (above : ∀ e ∈ got, l ≤ e.1) : 2 ^ (w * l) ∣ laneSum w got := by
  refine List.dvd_sum fun x hx => ?_
  obtain ⟨e, he, rfl⟩ := List.mem_map.1 hx
  exact Dvd.dvd.mul_left (Nat.pow_dvd_pow 2 (Nat.mul_le_mul_left w (above e he))) _

/-- A digit of the sum is the value at its place, when the places ascend. -/
theorem laneSum_digit {w : Nat} (k : Nat) {got : List (Nat × Nat)} (ascends : got.Pairwise fun e f => e.1 < f.1) :
    laneSum w got / 2 ^ (w * k) % 2 ^ w = ((got.find? fun g => g.1 == k).map (·.2)).getD 0 % 2 ^ w := by
  induction got with
  | nil => simp [laneSum]
  | cons e rest ih =>
    obtain ⟨first, ascends⟩ := List.pairwise_cons.1 ascends
    obtain ⟨r, behind⟩ := laneSum_dvd (w := w) (l := e.1 + 1) fun f hf => first f hf
    have sum : laneSum w (e :: rest) = e.2 % 2 ^ w * 2 ^ (w * e.1) + 2 ^ (w * (e.1 + 1)) * r := by rw [← behind]; rfl
    rw [sum, digit_add_mul (Nat.mod_lt _ (Nat.two_pow_pos w)), ← behind, ih ascends]
    by_cases h : k = e.1
    · rw [if_pos h, List.find?_cons_of_pos (by simp [h])]; rfl
    · rw [if_neg h, List.find?_cons_of_neg (by simpa using Ne.symm h)]

theorem leNat_lt (bs : List Byte) : leNat bs < 256 ^ bs.length := by
  induction bs with
  | nil => exact Nat.one_pos
  | cons b bs ih =>
    have := b.isLt
    simp only [leNat, List.length_cons, Nat.pow_succ]
    omega

theorem l1Read_length {c : Core} {ctx va n : Nat} {bs : List Byte} (h : c.l1Read ctx va n = some bs) : bs.length ≤ n := by
  unfold Core.l1Read at h
  split at h
  · split at h <;> cases h
    simp
  · cases h

/-- The L1 gives each element's lane its bytes (R406). -/
theorem l1Lanes_spec {s : State} {n : Nat} : ∀ {el got : List (Nat × Nat)}, s.l1Lanes n el = some got →
    got.map (·.1) = el.map (·.1) ∧ ∀ g ∈ got, g.2 < 2 ^ (8 * n)
  | [], got, h => by cases h; simp
  | (lane, va) :: el, got, h => by
    unfold State.l1Lanes at h
    rw [List.mapM_cons] at h
    obtain ⟨g, hg, h⟩ := Option.bind_eq_some_iff.1 h
    obtain ⟨rest, hrest, h⟩ := Option.bind_eq_some_iff.1 h
    obtain ⟨bs, hbs, rfl⟩ := Option.map_eq_some_iff.1 hg
    cases h
    obtain ⟨lanes, small⟩ := l1Lanes_spec (el := el) hrest
    have head : leNat bs < 2 ^ (8 * n) :=
      calc leNat bs < 256 ^ bs.length := leNat_lt bs
        _ ≤ 256 ^ n := Nat.pow_le_pow_right (by decide) (l1Read_length hbs)
        _ = 2 ^ (8 * n) := by rw [Nat.pow_mul]
    refine ⟨by rw [List.map_cons, List.map_cons, lanes], fun g hg => ?_⟩
    rcases List.mem_cons.1 hg with rfl | hg
    · exact head
    · exact small g hg

theorem validElems_sublist (es : List VElem) : ((validElems es).map (·.1)).Sublist (es.map (·.lane)) := by
  induction es with
  | nil => exact .slnil
  | cons e es ih =>
    unfold validElems at ih ⊢
    rcases h : e.va with _ | va
    · rw [List.filterMap_cons_none (by simp [h])]; exact .cons _ ih
    · rw [List.filterMap_cons_some (b := (e.lane, va)) (by simp [h])]; exact .cons_cons _ ih

theorem vElems_lanes (s : State) (m : Rec) (walk : Bool) (l : Nat) : ∃ k, (s.vElems m walk l).2.map (·.lane) = List.range k := by
  unfold State.vElems; dsimp only
  split
  · split
    · exact ⟨8, by rw [List.map_map]; exact List.map_id _⟩
    · exact ⟨32, by rw [List.map_map]; exact List.map_id _⟩
  · exact ⟨_, by rw [List.map_map]; exact List.map_id _⟩

/-- The lanes of the elements ascend (R134, R135). -/
theorem validElems_ascend {s : State} {m : Rec} {walk : Bool} {l n : Nat} {es : List VElem} (elems : s.vElems m walk l = (n, es)) :
    ((validElems es).map (·.1)).Pairwise (· < ·) := by
  obtain ⟨k, lanes⟩ := vElems_lanes s m walk l
  rw [elems] at lanes
  have sub := validElems_sublist es
  rw [show es.map (·.lane) = List.range k from lanes] at sub
  exact List.pairwise_lt_range.sublist sub

theorem laneAt_value {a : Access} {k : Nat} (inside : k < 32 / a.size) (ascends : a.got.Pairwise fun e f => e.1 < f.1)
    (small : ∀ g ∈ a.got, g.2 < 2 ^ (8 * a.size)) :
    laneAt a.value (8 * a.size) k = ((a.got.find? fun g => g.1 == k).map (·.2)).getD 0 := by
  have room : 8 * a.size * k + 8 * a.size ≤ 256 := by
    have := Nat.mul_le_of_le_div _ _ _ (show k + 1 ≤ 32 / a.size from inside)
    nlinarith
  have digit : laneAt a.value (8 * a.size) k = laneSum (8 * a.size) a.got / 2 ^ (8 * a.size * k) % 2 ^ (8 * a.size) := by
    rw [laneAt_eq_laneOf]
    show BitVec.toNat (BitVec.ofNat 256 (laneSum (8 * a.size) a.got)) / _ % _ = _
    rw [BitVec.toNat_ofNat, ← Nat.shiftRight_eq_div_pow, ← Nat.shiftRight_eq_div_pow]
    refine Nat.eq_of_testBit_eq fun j => ?_
    simp only [Nat.testBit_mod_two_pow, Nat.testBit_shiftRight]
    by_cases h : j < 8 * a.size
    · rw [show decide (8 * a.size * k + j < 256) = true from decide_eq_true (by omega), Bool.true_and]
    · simp [h]
  rw [digit, laneSum_digit k ascends, Nat.mod_eq_of_lt]
  cases h : a.got.find? fun g => g.1 == k with
  | none => exact Nat.two_pow_pos _
  | some g => exact small g (List.mem_of_find?_eq_some h)

/-! ## The L1's own lines -/

/-- Only what a core keeps beside its task contexts and its memory has changed. -/
abbrev Quiet (s u : State) : Prop := (∀ j, u.taskAt j = s.taskAt j) ∧ SameOutside s u ∧ SameMemory s u

theorem quiet_trans {s t u : State} (h : Quiet s t) (k : Quiet t u) : Quiet s u := by
  obtain ⟨tasks, outside, phys, lm⟩ := h
  obtain ⟨tasks', outside', phys', lm'⟩ := k
  refine ⟨fun j => (tasks' j).trans (tasks j), ?_, fun a => (phys' a).trans (phys a), fun k a => (lm' k a).trans (lm k a)⟩
  have chain := congrArg (fun t : State => ({ t with cores := s.cores } : State)) outside'
  exact chain.trans outside

theorem quiet_modCore {s : State} {k : Nat} {f : Core → Core} (task : ∀ c x, (f c).task x = c.task x) (lm : ∀ c, (f c).lm = c.lm) :
    Quiet s (s.modCore k f) := by
  refine ⟨fun j => ?_, rfl, fun a => rfl, fun j a => ?_⟩
  · unfold State.taskAt; rw [State.coreAt_modCore]; split
    · rename_i h; rw [task, h]
    · rfl
  · rw [State.coreAt_modCore]; split
    · rename_i h; rw [lm, h]
    · rfl

theorem seeL1_quiet (s : State) (reads : List (Nat × Nat)) : Quiet s (s.seeL1 reads) := by
  unfold State.seeL1; dsimp only; split
  · exact ⟨fun _ => rfl, rfl, fun _ => rfl, fun _ _ => rfl⟩
  · exact quiet_modCore (fun c x => by cases x <;> rfl) fun c => rfl

theorem l1Use_quiet (s : State) (el : List (Nat × Nat)) : Quiet s (s.l1Use el) := by
  unfold State.l1Use
  generalize (el.map fun e => e.2 / 32).eraseDups = units
  induction units generalizing s with
  | nil => exact ⟨fun _ => rfl, rfl, fun _ => rfl, fun _ _ => rfl⟩
  | cons unit units ih =>
    rw [List.foldl_cons]
    split
    · exact quiet_trans (quiet_modCore (f := Core.l1Put _) (fun c x => by cases x <;> rfl) fun c => rfl) (ih _)
    · exact ih _

/-- A line of the L1 with the bytes written at a virtual address of its context (R104). -/
def lineWrite (ctx va : Nat) (bs : List Byte) (l : L1Line) : L1Line :=
  if l.ctx == ctx then
    { l with bytes := l.bytes.zipIdx.map fun (b, i) =>
        let a := 32 * l.line + i
        if va ≤ a ∧ a < va + bs.length then bs.getD (a - va) b else b }
  else l

theorem l1Write_l1 (c : Core) (ctx va : Nat) (bs : List Byte) : (c.l1Write ctx va bs).l1 = c.l1.map (lineWrite ctx va bs) := rfl

/-- A write leaves which lines are held. -/
theorem l1Find_l1Write (c : Core) (ctx va unit : Nat) (bs : List Byte) :
    (c.l1Write ctx va bs).l1Find ctx unit = (c.l1Find ctx unit).map (lineWrite ctx va bs) := by
  have same : (fun l : L1Line => l.ctx == ctx && l.line == unit) ∘ lineWrite ctx va bs = fun l => l.ctx == ctx && l.line == unit := by
    funext l
    simp only [Function.comp_apply, lineWrite]
    split <;> rfl
  rw [Core.l1Find, l1Write_l1, List.find?_map, same]; rfl

/-- A held line takes over the bytes written (R104). -/
theorem l1Byte_l1Write (c : Core) (ctx va a : Nat) (bs : List Byte) : l1Byte (c.l1Write ctx va bs) ctx a =
    (l1Byte c ctx a).map fun b => if va ≤ a ∧ a < va + bs.length then bs.getD (a - va) b else b := by
  unfold l1Byte
  rw [l1Find_l1Write]
  cases found : c.l1Find ctx (a / 32) with
  | none => rfl
  | some l =>
    obtain ⟨own, line⟩ : l.ctx = ctx ∧ l.line = a / 32 := by simpa using List.find?_some found
    have at_ : 32 * l.line + a % 32 = a := by omega
    simp only [Option.map_some, Option.bind_some, lineWrite, own, beq_self_eq_true, if_true, List.getElem?_map, List.getElem?_zipIdx]
    cases l.bytes[a % 32]? with
    | none => rfl
    | some b => simp only [Option.map_some, Nat.zero_add, at_]

/-! ## The claims -/

/-- VLDG and VLDGS are vector loads; VLDGS walks (R134, R135). -/
theorem exec_vload (t : BitVec 4) (i : BitVec 9) (v : BitVec 3) (o : BitVec 1) (x : BitVec 4) (s : State) (walk : Bool) :
    exec (if walk then .vldgs t i v o x else .vldg t i v o x) s = .next (s.vload walk t i v o x) := by
  cases walk <;> rfl

theorem vectorGlobalAccesses : VectorGlobalAccesses := by
  refine ⟨fun t i v o x s walk m n es task clear free at_ calm room valid miss => ?sends,
    fun t i v x s walk m n es got task clear free at_ valid aligned gets => ?hits,
    fun t i v o x s walk m n es task clear free at_ empty => ?empty,
    fun t i v o x s m n es task clear free at_ calm done => ?stores, l1Byte_l1Write⟩
  case sends =>
    have gets : vloadGets s n es o = none := by
      unfold vloadGets; split
      · rfl
      · rename_i h
        exact miss.resolve_left fun acq => h (.inl acq)
    rw [exec_vload, vload_misses task clear free at_ valid gets, State.checked_none _ _ _ calm, State.await_true _ _ _ (roomForLoad_of_task room)]
    rfl
  case hits =>
    have whole : vloadGets s n es 0#1 = some got := by
      refine (if_neg ?_).trans gets
      rintro (acq | odd)
      · cases acq
      · obtain ⟨e, he, h⟩ := List.any_eq_true.1 odd
        obtain ⟨va, hva, h⟩ := (Option.any_eq_true _ _).1 h
        exact absurd (aligned (e.lane, va) (List.mem_filterMap.2 ⟨e, he, by simp [hva]⟩)) (by simpa using h)
    obtain ⟨tasks, outside, memory⟩ := quiet_trans (seeL1_quiet s ((validElems es).map fun e => (e.2, n))) (l1Use_quiet _ (validElems es))
    refine ⟨_, _, by rw [exec_vload, vload_hits task clear free at_ valid whole], tasks, outside, memory, fun k inside => ?_⟩
    obtain ⟨lanes, small⟩ := l1Lanes_spec gets
    exact laneAt_value inside (List.pairwise_map.1 (lanes ▸ validElems_ascend at_.2.1)) small
  case empty => exact (exec_vload ..).trans (congrArg Host.Outcome.next (vload_empty task clear free at_ empty))
  case stores =>
    rw [vstg_passes task clear free at_, State.checked_none _ _ _ calm, releaseBit_passes task done]
    refine ⟨fun empty => by rw [empty], fun valid room => ?_⟩
    obtain ⟨e, el, valid⟩ := List.exists_cons_of_ne_nil valid
    simp only [valid]
    rw [State.await_true _ _ _ (roomForStore_of_task room), issue_eq_sent,
      show ((vstgLines s s.task.v[v.toFin] n (e :: el)).modT TaskCtx.beginStore).waitCount = s.waitCount from vstgLines_waitCount ..,
      vectorAccess, show (es.filterMap fun e => e.va.map fun va => (e.lane, va)) = e :: el from valid]
    rfl

theorem checked_traps {s : State} {f : Option Trap} {tr : Trap} (h : f = some tr) (k : State → State) : s.checked f k = s.trapWith tr := by
  rw [h]; rfl

/-- The trap of an element comes before a load that the L1 does not serve. -/
theorem vload_traps {t : BitVec 4} {i : BitVec 9} {v : BitVec 3} {o : BitVec 1} {x : BitVec 4} {walk : Bool} {s : State} {m : Rec} {n : Nat}
    {es : List VElem} {tr : Trap} (task : InTask s) (clear : Clear s [x] [v]) (free : NoAcquire s) (at_ : VectorAt s t i x walk m n es)
    (traps : s.elemTrap n .read es = some tr) (first : o = 1#1 ∨ tr.cause = .misaligned ∨ s.l1Lanes n (validElems es) = none) :
    s.vload walk t i v o x = s.trapWith tr := by
  have gets : vloadGets s n es o = none := by
    unfold vloadGets; split
    · rfl
    · rename_i h
      rcases first with acq | cause | miss
      · exact absurd (.inl acq) h
      · exact absurd (.inr (elemTrap_misaligned traps cause)) h
      · exact miss
  rw [vload_misses task clear free at_ (elemTrap_valid traps) gets, checked_traps traps]

/-- Every vector global instruction checks its slot and its indices alike. -/
theorem exec_vgmemRow {i : Instr} {t : BitVec 4} {n : BitVec 9} {v : BitVec 3} {o : BitVec 1} {x : BitVec 4} {walk : Bool} {need : Need}
    (row : vgmemRow i = some (t, n, v, o, x, walk, need)) (s : State) : ∃ k, exec i s = .next (s.vglobal t n v x walk k) := by
  unfold vgmemRow at row
  split at row <;> cases row <;> exact ⟨_, rfl⟩

theorem vgmemRow_traps {i : Instr} {t : BitVec 4} {n : BitVec 9} {v : BitVec 3} {o : BitVec 1} {x : BitVec 4} {walk : Bool} {need : Need}
    {s : State} {m : Rec} {z : Nat} {es : List VElem} {tr : Trap} (row : vgmemRow i = some (t, n, v, o, x, walk, need)) (task : InTask s)
    (clear : Clear s [x] [v]) (free : NoAcquire s) (at_ : VectorAt s t n x walk m z es) (traps : s.elemTrap z need es = some tr)
    (first : need = .write ∨ o = 1#1 ∨ tr.cause = .misaligned ∨ s.l1Lanes z (validElems es) = none) :
    exec i s = .next (s.trapWith tr) := by
  unfold vgmemRow at row
  split at row <;> cases row
  case h_1 | h_2 =>
    exact congrArg Host.Outcome.next (vload_traps task clear free at_ traps (first.resolve_left Need.noConfusion))
  case h_3 => rw [vstg_passes task clear free at_, checked_traps traps]

theorem vectorGlobalFaults : VectorGlobalFaults := by
  refine ⟨fun i t n v o x walk need s row task clear free => ?_, fun s z need before after e va at_ calm => ?_⟩
  · obtain ⟨k, runs⟩ := exec_vgmemRow row s
    refine ⟨fun unbound => ?_, fun m z es e bound elems edge first => ?_, fun m z es tr at_ traps first =>
      vgmemRow_traps row task clear free at_ traps first⟩
    · rw [runs, vglobal_unbound task clear free _ unbound]
    · rw [runs, vglobal_edge task clear free _ bound elems edge first]
  · have quiet : ∀ b ∈ before, oneTrap s z need b = none := fun b hb => oneTrap_none (calm b hb)
    refine ⟨fun odd => elemTrap_first quiet ?_, fun tr aligned refused => elemTrap_first quiet ?_⟩
    · simp only [oneTrap, at_, if_pos odd]
    · simp only [oneTrap, at_, aligned, ne_eq, not_true_eq_false, if_false, refused]

/-- Settles O32: each check of a scalar or vector access in its order, and the accesses that pass them. -/
theorem globalFaultsAndVectors : Obligations.GlobalFaultsAndVectors :=
  ⟨globalAccessFaults, pageTrapsAtIssue, vectorGlobalAccesses, vectorGlobalFaults⟩

end Sys2Proof.Proofs
end

section
/-! SUPPORT. A PGDISC at its slice takes the pieces of its page out of the victim tier with the page itself (R269, R273), and a HOLDING core that
keeps no other piece goes OFF (R75): its core changes, which O35's clause about an access served by its frame denies of every access.
Refutes O35. -/

namespace Sys2Proof.Proofs

open Sys2Proof.Machine Sys2Proof.Claims

/-- The access of a PGDISC of context 1 to its page at address 0. -/
def pieceDiscard : Access := ⟨⟨0, .tc0⟩, 1, 4, [(0, 0)], .discard, .none, false, false, 0, 0, [], none, 0⟩

/-- The leaf of that page: RESIDENT, of LPDDR, readable and writable, its frame at 0x10000. -/
def pieceLeaf : Leaf := { entry := 0x5000, raw := 1 + 3 * 2 ^ 11 + 0x10 * 2 ^ 21, base := 0, size := 4096 }

/-- The tables that map the page, each below the one before it. -/
def pieceTables : Mem :=
  [(0x1000, 0x2), (0x2000, 0x3), (0x3000, 0x4), (0x4000, 0x5)].foldl (fun m e => Mem.setLe e.1 8 (1 + e.2 * 2 ^ 21) m)
    (Mem.setLe 0x5000 8 pieceLeaf.raw [])

/-- A part that performs the access while core 2 holds a piece of the page, and nothing else. -/
def pieceHeld : State :=
  { now := some (.sliceRequest pieceDiscard), cores := [(2, { power := .holding })], contexts := [(1, { root := 0x1000 })],
    phys := pieceTables, victims := [{ ctx := 1, va := 0, places := [(2, 0)] }] }

theorem pieceHeld_meets : pieceHeld.meet 1 0 .write = .here 0x10000 pieceLeaf := by decide +kernel

theorem pieceHeld_sectorHit : pieceHeld.sectorHit 1 0 = none := by decide +kernel

theorem pieceHeld_power : (pieceHeld.coreAt 2).power = .holding := by decide +kernel

/-- The page is discarded with its piece, and its core goes OFF. -/
theorem pieceDiscarded_power : ((pieceHeld.slice pieceDiscard).coreAt 2).power = .off := by decide +kernel

/-- Refutes O35: a PGDISC of a RESIDENT page meets its frame as every access of the second clause does, but core 2, which holds a piece of the
page, goes OFF, so the cores are not as before. -/
theorem not_sliceRequests : ¬ Obligations.SliceRequests := by
  intro h
  obtain ⟨-, frame, -⟩ := h
  obtain ⟨t, runs, cores, -⟩ := frame pieceHeld pieceDiscard 0 0 0x10000 pieceLeaf rfl rfl rfl rfl rfl (by decide) (by decide) pieceHeld_meets
    (by simp [Access.reads, pieceDiscard]) (by simp [Access.isAtomic, pieceDiscard])
    (.inr ⟨by decide, pieceHeld_sectorHit, by decide, by decide⟩) (by decide) rfl
  have slice : exec .sliceRequest pieceHeld = .next (pieceHeld.slice pieceDiscard) := rfl
  cases Host.Outcome.next.inj (slice.symm.trans runs)
  have same : (pieceHeld.slice pieceDiscard).coreAt 2 = pieceHeld.coreAt 2 := by unfold State.coreAt; rw [cores]
  have off := pieceDiscarded_power
  rw [same, pieceHeld_power] at off
  cases off

end Sys2Proof.Proofs
end

section
/-! SUPPORT. Active messages: sent, landed, and their handler runs (R107, R181 to R187). Settles O38. -/

namespace Sys2Proof.Proofs

open Sys2Proof.Machine Sys2Proof.Claims

/-! ## Sending -/

theorem modTask_group (s : State) (i : Issuer) (f : TaskCtx → TaskCtx) (k : Nat) : ((s.modTask i f).coreAt k).group = (s.coreAt k).group := by
  rw [coreAt_modTask]; split
  · cases i.ctx <;> rfl
  · rfl

theorem countMsg_of_task {s : State} (task : InTask s) :
    s.countMsg = (s.modT fun t => { t with ocnt := { t.ocnt with msgs := t.ocnt.msgs + 1 } }).post (.messageAccept s.who) := by
  rw [State.countMsg, if_neg (by simp [show s.inHandler = false from task])]; rfl

theorem countMsg_of_handler {s : State} (handler : s.inHandler = true) : s.countMsg =
    (s.modCore s.who.core fun c => { c with hd := { c.hd with unsent := c.hd.unsent + 1 } }).post (.messageAccept s.who) := by
  rw [State.countMsg, if_pos handler]

theorem coreAt_post (s : State) (e : Event) (k : Nat) : (s.post e).coreAt k = s.coreAt k := rfl

theorem countMsg_who (s : State) : s.countMsg.who = s.who := by
  unfold State.countMsg; split <;> rfl

/-- A message counted leaves its core's group. -/
theorem countMsg_group (s : State) : s.countMsg.core.group = s.core.group := by
  rw [State.core, countMsg_who]
  show _ = (s.coreAt s.who.core).group
  by_cases handler : s.inHandler = true
  · rw [countMsg_of_handler handler]
    rw [coreAt_post, State.coreAt_modCore_same]
  · rw [countMsg_of_task (by simpa using handler)]
    exact modTask_group ..

theorem amMsg_dst {c d : Word} (s : State) (names : NamesCore d) : (s.amMsg c d).dst = d.toNat := by
  show bits d.toNat 0 18 = _
  simp only [bits]; omega

section
variable {c d : BitVec 4} {s : State} (ready : Ready s [d, c, 4#4, 5#4, 6#4, 7#4])
include ready

/-- The class is checked first (R186). -/
theorem sendam_class (other : (s.x c).toNat < 16 ∨ 63 < (s.x c).toNat) : exec (.sendam c d) s = .next (s.trap .mailboxClass (s.x c)) := by
  refine congrArg Host.Outcome.next ((withRegs_access ready _).trans ?_)
  exact if_pos other

/-- A message of a software class to a core of this part is counted and sent (R186). -/
theorem sendam_sends (low : 16 ≤ (s.x c).toNat) (high : (s.x c).toNat < 64) (names : NamesCore (s.x d))
    (room : InTask s → s.task.ocnt.msgs < 63) : exec (.sendam c d) s =
      .next ((s.countMsg.send s.core.group s.who.core (s.x d).toNat (.mailboxArrival (s.amMsg (s.x c) (s.x d)))).retire 4#32) := by
  have noPart : bits (s.x d).toNat 18 12 = 0 := by simp only [bits]; omega
  have own : bits (s.x d).toNat 30 1 = 0 := by simp only [bits]; omega
  have plain : bits (s.x d).toNat 31 1 = 0 := by simp only [bits]; omega
  have waits : (s.inHandler || decide (s.task.ocnt.msgs < 63)) = true := by
    cases h : s.inHandler
    · simpa using room h
    · rfl
  refine congrArg Host.Outcome.next ((withRegs_access ready _).trans ?_)
  dsimp only
  rw [if_neg (by omega), noPart, own, plain, if_neg (by simp), if_pos (.inl rfl), State.checked_none _ _ _ rfl, State.await_true _ _ _ waits,
    State.sendAm, if_pos (by simp), countMsg_group, countMsg_who, amMsg_dst s names]

end

theorem number_msgSeq (s : State) (src : Nat) (e : Event) (power : (s.coreAt src).power ≠ .off) :
    ((s.number src e).coreAt src).msgSeq = (s.coreAt src).msgSeq + 1#20 := by
  have takes {t : State} (same : t.coreAt src = s.coreAt src) : ((if (t.coreAt src).power = .off then t
      else t.modCore src fun c => { c with msgSeq := (s.coreAt src).msgSeq + 1#20 }).coreAt src).msgSeq = (s.coreAt src).msgSeq + 1#20 := by
    rw [same, if_neg power, State.coreAt_modCore_same]
  exact takes (t := if passesMailbox e then { s with seqs := s.seqs ++ [(e, (s.coreAt src).msgSeq)] } else s) (by split <;> rfl)

/-- A message takes its core's number, which goes on by one (R181). -/
theorem send_msgSeq (s : State) (g src dst : Nat) (e : Event) (power : (s.coreAt src).power ≠ .off) :
    ((s.send g src dst e).coreAt src).msgSeq = (s.coreAt src).msgSeq + 1#20 := by
  have counted : (if s.ofGroup g src dst then s.modGroup g (Group.countSent src) else s).coreAt src = s.coreAt src := by split <;> rfl
  show ((State.number src e (if s.ofGroup g src dst then s.modGroup g (Group.countSent src) else s)).coreAt src).msgSeq = _
  rw [number_msgSeq _ _ _ (by rw [counted]; exact power), counted]

/-! ## Landing -/

section
variable {s : State} {m : AmMsg} (now : Performs s (.mailboxArrival m)) (mine : m.part = s.partAddr)
include now mine

/-- A message of this part meets its core's network interface (R186, R285). -/
theorem execMailboxArrival_mine : ∃ nack, exec .mailboxArrival s = .next (s.deliver m.dst m.ctx (ownDrawn s m) (.mailboxArrival m) nack fun s =>
    if (s.coreAt m.dst).mbCount < 32 then (s.accept m.group m.src.core m.dst).modCore m.dst (Core.land m)
    else s.repost (.mailboxArrival m)) := by
  refine ⟨fun s => (s.accept m.group m.src.core m.dst).post (.remoteNack ⟨m.src, .message, .remoteUnreachable, m.dword, m.group⟩), ?_⟩
  show execMailboxArrival s = _
  rw [execMailboxArrival, now]
  simp only [mine, decide_true, Bool.not_true, Bool.false_and, Bool.false_eq_true, if_false, if_true, Bool.true_and]
  rfl

theorem mailboxArrival_lands (here : s.reach m.dst m.ctx (ownDrawn s m) = .here) (room : (s.coreAt m.dst).mbCount < 32) :
    exec .mailboxArrival s = .next ((s.accept m.group m.src.core m.dst).modCore m.dst (Core.land m)) := by
  obtain ⟨nack, runs⟩ := execMailboxArrival_mine now mine
  rw [runs, State.deliver, here]
  exact congrArg Host.Outcome.next (if_pos room)

theorem mailboxArrival_waits (here : s.reach m.dst m.ctx (ownDrawn s m) = .here) (full : 32 ≤ (s.coreAt m.dst).mbCount) :
    exec .mailboxArrival s = .next { s with pending := .mailboxArrival m :: s.pending } := by
  obtain ⟨nack, runs⟩ := execMailboxArrival_mine now mine
  rw [runs, State.deliver, here]
  exact congrArg Host.Outcome.next (if_neg (by omega))

theorem mailboxArrival_held {g : Nat} (hold : s.reach m.dst m.ctx (ownDrawn s m) = .hold g) :
    exec .mailboxArrival s = .next (s.hold g (.mailboxArrival m)) := by
  obtain ⟨nack, runs⟩ := execMailboxArrival_mine now mine
  rw [runs, State.deliver, hold]

end

/-! ## Handler runs -/

theorem getLsbD_31_iff (h : Word) : h.getLsbD 31 = true ↔ bits h.toNat 31 1 = 1 := by
  rw [← BitVec.testBit_toNat, Nat.testBit_eq_decide_div_mod_eq, decide_eq_true_eq]; rfl

section
variable {s : State} {k : Nat} (now : Performs s (.activeMessage k)) (handles : s.canHandle k = true)
include now handles

/-- The entry of the message's class decides (R184). -/
theorem execActiveMessage_runs : exec .activeMessage s =
    let entry := 0x7800 + 32 * ((s.coreAt k).mbHead % 32)
    let cls := ((s.coreAt k).lm.word entry).toNat % 64
    let h := (s.coreAt k).lm.word ((s.coreAt k).hbase.toNat + 4 * cls)
    .next (if bits h.toNat 31 1 = 0 ∨ (s.kernelOf (s.coreAt k).group (h.toNat / 2 ^ 28 % 4)).isNone then
        s.escalateAt ⟨k, .handler⟩ .mailboxClass (BitVec.ofNat 32 cls) 0#32
      else (s.dropL1 k).modCore k (Core.beginRun entry cls h)) := by
  show execActiveMessage s = _
  rw [execActiveMessage, now]
  simp only [handles, if_true]
  split
  · rename_i none
    exact congrArg Host.Outcome.next (if_pos none).symm
  · rename_i some
    exact congrArg Host.Outcome.next (if_neg some).symm

end

/-- The registers, the offset and the budget of a run that begins (R184). -/
theorem beginRun_hd (entry cls : Nat) (h : Word) (c : Core) :
    (c.beginRun entry cls h).hd.running = true ∧ (c.beginRun entry cls h).hd.pc = BitVec.ofNat 32 (h.toNat % 2 ^ 25) ∧
      (c.beginRun entry cls h).hd.x[15] = BitVec.ofNat 32 entry ∧
      (∀ j (hj : j < 6), (c.beginRun entry cls h).hd.x[j + 2] = c.lm.word (entry + 4 * j)) ∧
      (c.beginRun entry cls h).hd.budget = if c.hbudget = 0#16 then 65536 else c.hbudget.toNat := by
  refine ⟨rfl, by simp [Core.beginRun, bits], by simp [Core.beginRun], fun j hj => ?_, rfl⟩
  interval_cases j <;> simp [Core.beginRun]

/-- A run that ends frees its entry and counts once (R185). -/
theorem endRun_core (s : State) (k : Nat) : ((s.endRun k).coreAt k).hd.running = false ∧
    ((s.endRun k).coreAt k).mbHead = ((s.coreAt k).mbHead + 1) % 32 ∧ ((s.endRun k).coreAt k).mbCount = (s.coreAt k).mbCount - 1 ∧
    ((s.endRun k).coreAt k).hd.instret = (s.coreAt k).hd.instret + 1#32 := by
  rw [State.endRun, State.wakeIdle, State.coreAt_modCore_same, State.coreAt_modCore_same]
  exact ⟨rfl, rfl, rfl, rfl⟩

theorem hret_ends {s : State} (handler : s.inHandler = true) (sent : s.core.hd.unsent = 0) (w : Word) : s.hret w = s.endRun s.who.core := by
  rw [State.hret, if_pos handler, if_pos sent]

theorem hret_waits {s : State} (handler : s.inHandler = true) (unsent : s.core.hd.unsent ≠ 0) (w : Word) : s.hret w = s := by
  rw [State.hret, if_pos handler, if_neg unsent]

theorem hret_traps {s : State} (task : InTask s) (w : Word) : s.hret w = s.trap .illegalOp w := by
  rw [State.hret, if_neg (by simp [show s.inHandler = false from task])]

/-- Settles O38: SENDAM by its checks, an arrival by what it meets, a run by its class's entry. -/
theorem activeMessages : Obligations.ActiveMessages := by
  refine ⟨fun c d s task ready low high names room => ?task, fun s g src dst m power => ?number,
    fun c d s handler ready low high names => ?handler, fun c d s ready other => sendam_class ready other,
    fun s m now mine here => ⟨mailboxArrival_lands now mine here, mailboxArrival_waits now mine here⟩,
    fun s m g now mine hold => mailboxArrival_held now mine hold, fun s k now handles => ?run, fun s handler sent => ?ends,
    fun s handler unsent => ?waits, fun s task => ?illegal⟩
  case task =>
    have to_ : (s.amMsg (s.x c) (s.x d)).dst = (s.x d).toNat := amMsg_dst s names
    refine ⟨s.amMsg (s.x c) (s.x d), rfl, to_, rfl, rfl, ?_, rfl, rfl, rfl, rfl, rfl, ?_⟩
    · show BitVec.ofNat 32 (s.who.core * 64 + (s.x c).toNat % 64) = _
      rw [Nat.mod_eq_of_lt high]
    · rw [sendam_sends ready low high names fun _ => room, countMsg_of_task task, to_]
  case number => exact send_msgSeq s g src dst (.mailboxArrival m) power
  case handler =>
    have handler := inHandler_of_not_task handler
    have to_ : (s.amMsg (s.x c) (s.x d)).dst = (s.x d).toNat := amMsg_dst s names
    refine ⟨s.amMsg (s.x c) (s.x d), rfl, to_, ?_⟩
    rw [sendam_sends ready low high names fun task => absurd (task.symm.trans handler) Bool.false_ne_true, countMsg_of_handler handler, to_]
  case run =>
    rw [execActiveMessage_runs now handles]
    refine ⟨fun valid node => ⟨_, congrArg Host.Outcome.next (if_neg ?_), ?_⟩, fun bad => congrArg Host.Outcome.next (if_pos ?_)⟩
    · rw [getLsbD_31_iff] at valid
      rintro (invalid | none)
      · rw [valid] at invalid; cases invalid
      · exact node (Option.isNone_iff_eq_none.1 none)
    · rw [State.coreAt_modCore_same, State.dropL1, State.coreAt_modCore_same]
      exact beginRun_hd ..
    · refine bad.imp (fun h => ?_) Option.isNone_iff_eq_none.2
      have := (not_congr (getLsbD_31_iff _)).1 (Bool.not_eq_true _ ▸ h)
      simp only [bits] at this ⊢; omega
  case ends =>
    obtain ⟨running, head, count, instret⟩ := endRun_core s s.who.core
    exact ⟨_, congrArg Host.Outcome.next (hret_ends handler sent _), congrArg Host.Outcome.next (hret_ends handler sent _), running, head, count,
      instret⟩
  case waits => exact ⟨congrArg Host.Outcome.next (hret_waits handler unsent _), congrArg Host.Outcome.next (hret_waits handler unsent _)⟩
  case illegal => exact ⟨congrArg Host.Outcome.next (hret_traps task _), congrArg Host.Outcome.next (hret_traps task _)⟩

end Sys2Proof.Proofs
end

section
/-! SUPPORT. Negative answers, wakes and deliveries where they arrive (R91, R94, R176, R182, R186, R268, R282). -/

namespace Sys2Proof.Proofs

open Sys2Proof.Machine Sys2Proof.Claims

/-! ## Negative answers -/

section
variable {s : State} {n : Nack} (now : Performs s (.remoteNack n))
include now

theorem remoteNack_held (stored : (s.groupAt n.group).stored = true) : exec .remoteNack s = .next (s.hold n.group (.remoteNack n)) := by
  show execRemoteNack s = _
  rw [execRemoteNack, now]
  exact if_pos stored

/-- An answer for a group, or for a core that is still of its group, is taken (R94, R176). -/
theorem remoteNack_takes (awake : (s.groupAt n.group).stored = false)
    (mine : nackOfGroup n.kind = true ∨ (s.coreAt n.to_.core).group = n.group) : exec .remoteNack s = .next (s.nacked n) := by
  show execRemoteNack s = _
  rw [execRemoteNack, now]
  refine (if_neg (by simp [awake])).trans (if_pos ?_)
  rcases mine with join | core
  · rw [join]; rfl
  · simp [core]

theorem remoteNack_ends (awake : (s.groupAt n.group).stored = false) (left : (s.coreAt n.to_.core).group ≠ n.group)
    (core : ∀ g, n.kind ≠ .join g) : exec .remoteNack s = .next s := by
  have notGroup : nackOfGroup n.kind = false := by
    unfold nackOfGroup; split
    · rename_i g join; exact absurd join (core g)
    · rfl
  show execRemoteNack s = _
  rw [execRemoteNack, now]
  exact (if_neg (by simp [awake])).trans (if_neg (by simp [notGroup, left]))

end

theorem asyncTrap_of_task {i : Issuer} (task : i.ctx ≠ .handler) (s : State) (tr : Trap) :
    s.asyncTrap i tr = s.modTask i fun t => { t with traps := t.traps ++ [tr] } := by
  unfold State.asyncTrap; split
  · rename_i h; exact absurd h task
  · rfl

theorem asyncTrap_of_handler {i : Issuer} (handler : i.ctx = .handler) (s : State) (tr : Trap) : s.asyncTrap i tr =
    s.modCore i.core fun c => { c with hd := { c.hd with traps := c.hd.traps ++ [tr] } } := by
  unfold State.asyncTrap; rw [handler]

theorem endStoreAt_of_task {i : Issuer} (task : i.ctx ≠ .handler) (s : State) : s.endStoreAt i = s.modTask i TaskCtx.endStore := by
  unfold State.endStoreAt; split
  · rename_i h; exact absurd h task
  · rfl

/-- A load's register keeps the trap, and nothing is written (R94). -/
theorem nacked_load {s : State} {n : Nack} {d : BitVec 4} {acq atomic : Bool} (task : n.to_.ctx ≠ .handler) (kind : n.kind = .load (.x d) acq atomic)
    (named : d ≠ 0#4) : (s.nacked n).xAt n.to_ d = s.xAt n.to_ d ∧
      ((s.nacked n).taskAt n.to_).faultX = SMap.put d.toNat ⟨n.cause, false, n.tval⟩ (s.taskAt n.to_).faultX ∧
      ((s.nacked n).taskAt n.to_).ocnt.loads = (s.taskAt n.to_).ocnt.loads - 1 := by
  have runs : s.nacked n = s.takeReply ⟨n.to_, .x d, 0#256, acq, atomic, some ⟨n.cause, false, n.tval⟩, none⟩ := by
    unfold State.nacked; rw [kind]
  have context := taskAt_takeReply s (r := ⟨n.to_, .x d, 0#256, acq, atomic, some ⟨n.cause, false, n.tval⟩, none⟩) task
  rw [takeReply_fault rfl named rfl] at context
  rw [runs, xAt_of_task _ task, xAt_of_task _ task, context]
  exact ⟨rfl, rfl, rfl⟩

theorem nacked_store {s : State} {n : Nack} (task : n.to_.ctx ≠ .handler) (kind : n.kind = .store) :
    ((s.nacked n).taskAt n.to_).ocnt.stores = (s.taskAt n.to_).ocnt.stores - 1 ∧ ⟨n.cause, true, n.tval⟩ ∈ ((s.nacked n).taskAt n.to_).traps := by
  unfold State.nacked
  rw [kind]; dsimp only
  rw [endStoreAt_of_task task, asyncTrap_of_task task, State.taskAt_modTask_same _ _ _ task, State.taskAt_modTask_same _ _ _ task]
  exact ⟨rfl, by simp⟩

theorem nacked_message {s : State} {n : Nack} (task : n.to_.ctx ≠ .handler) (kind : n.kind = .message) :
    ⟨n.cause, true, n.tval⟩ ∈ ((s.nacked n).taskAt n.to_).traps := by
  unfold State.nacked
  rw [kind]; dsimp only
  rw [asyncTrap_of_task task, State.taskAt_modTask_same _ _ _ task]
  simp

/-! ## Wakes -/

theorem arrived_taskAt (s : State) (cls g src dst : Nat) (e : Event) (i : Issuer) : (arrived s cls g src dst e).taskAt i = s.taskAt i := by
  have seq (k : Nat) : (s.takeSeq e).2.coreAt k = s.coreAt k := coreAt_congr (takeSeq_cores s e) k
  rw [arrived, State.taskAt, coreAt_congr (accept_cores _ _ _ _), State.passMailbox]
  dsimp only
  rw [State.coreAt_modCore]
  show _ = (s.coreAt i.core).task i.ctx
  split
  · rename_i h
    rw [← h, ← seq]
    split <;> cases i.ctx <;> rfl
  · rw [← seq]; rfl

theorem endIdle_same (t : TaskCtx) : SameTask t t.endIdle ∧ t.endIdle.x = t.x := by
  unfold TaskCtx.endIdle; split
  · exact ⟨complete_same _ _, complete_x _ _⟩
  · exact ⟨rfl, rfl⟩

/-- An IDLE that ends leaves what its context counts. -/
theorem endIdle_ocnt (t : TaskCtx) : t.endIdle.ocnt = t.ocnt := by
  have same := congrArg TaskCtx.ocnt (endIdle_same t).1
  exact same

theorem taskAt_wakeIdle (s : State) (k : Nat) (i : Issuer) :
    (s.wakeIdle k).taskAt i = if k = i.core then (s.taskAt i).endIdle else s.taskAt i := by
  unfold State.taskAt State.wakeIdle; rw [State.coreAt_modCore]
  split
  · rename_i h; subst h; cases i.ctx <;> rfl
  · rfl

theorem wakeIdle_l1 (s : State) (k : Nat) : ((s.wakeIdle k).coreAt k).l1 = (s.coreAt k).l1 := by
  rw [State.wakeIdle, State.coreAt_modCore_same]

theorem execFeWake_ends {s : State} {w : Wake} {k j : Nat} (now : Performs s (.feWake w)) (ends : wakeEnds w = some (k, j)) :
    exec .feWake s = .next (s.builtin 12 k j (.feWake w) (State.wake w)) := by
  show execFeWake s = _
  rw [execFeWake, now]
  simp only [ends]; rfl

/-- A core's wake waits for the handler of its core (R182). -/
theorem feWake_waits {s : State} {w : Wake} {k j : Nat} (now : Performs s (.feWake w)) (ends : wakeEnds w = some (k, j))
    (busy : s.handlerFree j = false) : exec .feWake s = .next { s with pending := .feWake w :: s.pending } := by
  rw [execFeWake_ends now ends, State.builtin, busy]; rfl

theorem feWake_performs {s : State} {w : Wake} {k j : Nat} (now : Performs s (.feWake w)) (ends : wakeEnds w = some (k, j))
    (free : s.handlerFree j = true) : exec .feWake s = .next ((s.passMailbox 12 k j (.feWake w)).wake w) := by
  rw [execFeWake_ends now ends, State.builtin, free]; rfl

theorem barResult_eq (r : BarReply) (s : State) : s.barResult r = replyEnds r s := rfl

/-- A load's wake gives its register the value, and acquires (R91, R238). -/
theorem feLoad_wake {s t : State} {i : Issuer} {r : BitVec 4} {v : Word} {k g : Nat} (task : i.ctx ≠ .handler) (named : r ≠ 0#4)
    (same : (t.accept g k i.core).taskAt i = s.taskAt i) : (t.wake (.feLoad i r v k g)).xAt i r = v ∧
      ((t.wake (.feLoad i r v k g)).taskAt i).ocnt.loads = (s.taskAt i).ocnt.loads - 1 ∧
      ((t.wake (.feLoad i r v k g)).coreAt i.core).l1 = [] := by
  have runs : t.wake (.feLoad i r v k g) =
    ((t.accept g k i.core).takeReply ⟨i, .x r, v.setWidth 256, true, false, none, none⟩).wakeIdle i.core := rfl
  have context := taskAt_takeReply (t.accept g k i.core) (r := ⟨i, .x r, v.setWidth 256, true, false, none, none⟩) task
  rw [takeReply_value rfl named rfl, same] at context
  rw [runs, xAt_of_task _ task, if_neg named, taskAt_wakeIdle, if_pos rfl, wakeIdle_l1]
  refine ⟨?_, ?_, takeReply_l1 _ _⟩
  · rw [(endIdle_same _).2, context]
    simp
  · rw [endIdle_ocnt, context]; rfl

theorem feStore_wake {s t : State} {i : Issuer} {k g : Nat} (task : i.ctx ≠ .handler) (same : (t.accept g k i.core).taskAt i = s.taskAt i) :
    ((t.wake (.feStore i k g)).taskAt i).ocnt.stores = (s.taskAt i).ocnt.stores - 1 := by
  have runs : t.wake (.feStore i k g) = ((t.accept g k i.core).endStoreAt i).wakeIdle i.core := rfl
  rw [runs, taskAt_wakeIdle, if_pos rfl, endIdle_ocnt, endStoreAt_of_task task, State.taskAt_modTask_same _ _ _ task, same]
  rfl

/-! ## Deliveries -/

section
variable {s : State} {d : Delivery} (now : Performs s (.continuationDelivery d))
include now

theorem delivery_held (away : ¬ TakesNow s d.group) :
    exec .continuationDelivery s = .next (s.hold d.group (.continuationDelivery d)) := by
  show execContinuationDelivery s = _
  rw [execContinuationDelivery, now]
  refine if_pos ?_
  by_contra h
  simp only [not_or, Bool.not_eq_true] at h
  exact away h

theorem delivery_meets (takes : TakesNow s d.group) : exec .continuationDelivery s = match s.deliverTo d with
    | none => .next s
    | some k => match s.pushDelivery k d with
      | some s => .next s
      | none => .next (s.flip.2.post (if s.flip.1 then .deliveryBusy d else .deliveryResend d)) := by
  obtain ⟨awake, here⟩ := takes
  show execContinuationDelivery s = _
  rw [execContinuationDelivery, now]
  exact if_neg (by simp [awake, here])

end

/-- A record with room stands at the bottom of the deque, with what its delivery gave it (R182, R268). -/
theorem pushDelivery_room {s : State} {k : Nat} {d : Delivery} (room : (s.coreAt k).dq.held + (s.coreAt k).dq.reserved.toNat < 32) :
    s.pushDelivery k d = some (s.modCore k fun c => match markOf d with
      | none => pushed d.rec_ c
      | some m => { pushed d.rec_ c with marks := c.marks.put (0x7000 + 64 * (c.dq.bottom.toNat % 32)) m }) := by
  have marked : (if d.fail.isNone ∧ d.part.isNone ∧ d.traps = [] ∧ d.faults = [] then none else some ⟨d.fail, d.part, d.traps, d.faults⟩) =
      markOf d := by simp only [markOf, Option.isNone_iff_eq_none]
  unfold State.pushDelivery
  rw [if_neg (by unfold Deque.room; omega)]
  dsimp only
  rw [marked]
  cases markOf d <;> rfl

theorem pushDelivery_full {s : State} {k : Nat} {d : Delivery} (full : 32 ≤ (s.coreAt k).dq.held + (s.coreAt k).dq.reserved.toNat) :
    s.pushDelivery k d = none := if_pos (by unfold Deque.room; omega)

theorem delivery_pushes {s : State} {d : Delivery} {k : Nat} (now : Performs s (.continuationDelivery d)) (takes : TakesNow s d.group)
    (to_ : s.deliverTo d = some k) (room : (s.coreAt k).dq.held + (s.coreAt k).dq.reserved.toNat < 32) :
    exec .continuationDelivery s = .next (s.modCore k fun c => match markOf d with
      | none => pushed d.rec_ c
      | some m => { pushed d.rec_ c with marks := c.marks.put (0x7000 + 64 * (c.dq.bottom.toNat % 32)) m }) := by
  rw [delivery_meets now takes, to_]
  simp only [pushDelivery_room room]

theorem answersAndDeliveries : AnswersAndDeliveries := by
  refine ⟨fun s n now => ⟨remoteNack_held now, remoteNack_ends now, fun mine task d acq atomic kind named => ?load, fun mine task kind => ?store,
      fun mine task kind => ?message, fun mine handler kind => ?handler, fun g awake kind => ?join⟩,
    fun s w k j now ends busy => feWake_waits now ends busy, fun s r now => ⟨fun port => ?port, fun k g core free => ?barrier⟩,
    fun s i r v k g now task named free => ?feLoad, fun s i k g now task free => ?feStore,
    fun s d now => ⟨delivery_held now, fun takes nobody => ?nobody, fun k takes to_ => ⟨fun room => ?room, fun full => ?full⟩⟩,
    fun s d named group power => ?to_, fun s d now => ?resend, fun s d now => ?busy⟩
  case load =>
    obtain ⟨awake, core⟩ := mine
    exact ⟨_, remoteNack_takes now awake (.inr core), nacked_load task kind named⟩
  case store =>
    obtain ⟨awake, core⟩ := mine
    exact ⟨_, remoteNack_takes now awake (.inr core), nacked_store task kind⟩
  case message =>
    obtain ⟨awake, core⟩ := mine
    exact ⟨_, remoteNack_takes now awake (.inr core), nacked_message task kind⟩
  case handler =>
    obtain ⟨awake, core⟩ := mine
    rw [remoteNack_takes now awake (.inr core), State.nacked, kind]
    exact congrArg Host.Outcome.next (asyncTrap_of_handler handler _ _)
  case join =>
    rw [remoteNack_takes now awake (.inl (by rw [kind]; rfl)), State.nacked, kind]
  case port =>
    show execFeWake s = _
    rw [execFeWake, now]
    have nobody : wakeEnds (.barrier r) = none := by rw [wakeEnds, port]; rfl
    simp only [nobody]
    show Host.Outcome.next (s.wake (.barrier r)) = _
    rw [State.wake]; simp only [port]; rfl
  case barrier =>
    have ends : wakeEnds (.barrier r) = some (k, r.dst.core) := by rw [wakeEnds, core]; rfl
    rw [feWake_performs now ends free, State.wake]
    simp only [core]; rfl
  case feLoad => exact ⟨_, feWake_performs now rfl free, feLoad_wake task named (arrived_taskAt s 12 g k i.core _ i)⟩
  case feStore => exact ⟨_, feWake_performs now rfl free, feStore_wake task (arrived_taskAt s 12 g k i.core _ i)⟩
  case nobody => rw [delivery_meets now takes, nobody]
  case room => exact delivery_pushes now takes to_ room
  case full =>
    rw [delivery_meets now takes, to_]
    simp only [pushDelivery_full full]
    refine ⟨_, _, rfl, rfl, ?_, rfl⟩
    split
    · exact .inr rfl
    · exact .inl rfl
  case to_ => exact if_pos (by simp [group, power])
  case resend =>
    show execDeliveryResend s = _
    rw [execDeliveryResend, now]; rfl
  case busy =>
    show execDeliveryBusy s = _
    rw [execDeliveryBusy, now]; rfl

end Sys2Proof.Proofs
end

section
/-! SUPPORT. Cores that leave their group, and tasks that follow their pages (R75, R188, R271, R318). Settles O50. -/

namespace Sys2Proof.Proofs

open Sys2Proof.Machine Sys2Proof.Claims

/-! ## A core turned off -/

/-- What turning away a core's waiters leaves: the other cores and the memory. -/
def apart (k : Nat) (s : State) := (fun j => if j = k then none else some (s.coreAt j), s.phys)

theorem apart_modCore (s : State) (k : Nat) (f : Core → Core) : apart k (s.modCore k f) = apart k s := by
  refine Prod.ext (funext fun j => ?_) rfl
  show (if j = k then none else some ((s.modCore k f).coreAt j)) = _
  split
  · rename_i h; exact (if_pos h).symm
  · rename_i h
    rw [State.coreAt_modCore, if_neg (Ne.symm h)]; exact (if_neg h).symm

theorem apart_postTo (s : State) (k g : Nat) (e : Event) : apart k (s.postTo g e) = apart k s := by
  unfold State.postTo; split <;> rfl

theorem apart_number (s : State) (k : Nat) (e : Event) : apart k (s.number k e) = apart k s := by
  have takes {t : State} (same : apart k t = apart k s) : apart k (if (s.coreAt k).power = .off then t
      else t.modCore k fun c => { c with msgSeq := (s.coreAt k).msgSeq + 1#20 }) = apart k s := by
    split
    · exact same
    · exact (apart_modCore ..).trans same
  unfold State.number; dsimp only
  split
  · exact takes rfl
  · exact takes rfl

theorem apart_answer (s : State) (k g dst : Nat) (e : Event) : apart k (s.answer g k dst e) = apart k s := by
  rw [State.answer, apart_postTo, State.depart, apart_number]
  split <;> rfl

theorem apart_turnAway (s : State) (k : Nat) : apart k (s.turnAway k) = apart k s := by
  unfold State.turnAway; dsimp only
  rw [apart_modCore]
  refine (foldl_keeps (apart k) _ (fun t m => ?_) _ _).trans (foldl_keeps (apart k) _ (fun t m => ?_) _ _)
  · split
    · rfl
    · exact apart_answer ..
  · split
    · rfl
    · exact apart_postTo ..

theorem apart_powerOff (s : State) (k : Nat) : apart k (s.powerOff k) = apart k s := apart_modCore s k fun _ => {}

/-! ## A RESERVED core's next task -/

/-- The first word of a record written is read back (R167). -/
theorem rec_setRec_zero (m : Mem) (a : Nat) (r : Rec) : ((m.setRec a r).rec a)[0] = r[0] := by
  have first := word_setBytes_wordBytes m a (ws := r.toList) (k := 0) (by simp)
  rw [Mem.rec, Vector.getElem_ofFn]
  exact first.trans (by simp [List.getD_eq_getElem?_getD])

/-- The kernel slot and the entry that an entry record names (R317, R318). -/
theorem entryRec_zero (g : Group) {slot : Nat} (small : slot < 4) (entry : Nat) :
    (g.entryRec slot entry)[0].toNat / 2 ^ 28 = slot ∧ (g.entryRec slot entry)[0].toNat % 2 ^ 24 = entry / 2 % 2 ^ 24 := by
  have word : (g.entryRec slot entry)[0] = BitVec.ofNat 32 (slot * 2 ^ 28 + 2 ^ 24 + entry / 2 % 2 ^ 24) := by
    rw [Group.entryRec, Vector.getElem_ofFn]; rfl
  rw [word, BitVec.toNat_ofNat]
  omega

/-- A core that takes up its successor slot's task is BOUND, with the task at the bottom of its deque (R75, R318). -/
theorem takeUpReserved_takesUp {s : State} {k : Nat} {slot : BitVec 2} (succ : (s.coreAt k).succ = some slot) :
    TakesUp s (s.takeUpReserved k) k slot := by
  have runs : (s.takeUpReserved k).coreAt k = { s.coreAt k with
      power := .bound, succ := none, tc0 := { (s.coreAt k).tc0 with run := .free }, tc1 := { (s.coreAt k).tc1 with run := .free }
      marks := (s.coreAt k).marks.del (dequeEntry (s.coreAt k).dq.bottom)
      lm := (s.coreAt k).lm.setRec (dequeEntry (s.coreAt k).dq.bottom) ((s.groupAt (s.coreAt k).group).entryRec slot.toNat
        ((s.kernelOf (s.coreAt k).group slot.toNat).getD {}).entry)
      dq := { (s.coreAt k).dq with bottom := (s.coreAt k).dq.bottom + 1#16, backoff := false, round := none } } := by
    unfold State.takeUpReserved
    simp only [succ]
    rw [State.dequePush, State.dequePushMarked, State.coreAt_modCore_same, State.coreAt_modCore_same]
    rfl
  have small : slot.toNat < 4 := slot.isLt
  obtain ⟨names, entry⟩ := entryRec_zero (s.groupAt (s.coreAt k).group) small ((s.kernelOf (s.coreAt k).group slot.toNat).getD {}).entry
  unfold TakesUp
  rw [runs]
  dsimp only
  rw [show 0x7000 + 64 * ((s.coreAt k).dq.bottom.toNat % 32) = dequeEntry (s.coreAt k).dq.bottom from rfl, rec_setRec_zero]
  exact ⟨rfl, rfl, rfl, rfl, names, entry⟩

/-- Becoming RESERVED changes nothing that the next task depends on. -/
theorem takesUp_reserved {s t : State} {k : Nat} {slot : BitVec 2} (h : TakesUp (s.modCore k fun c => { c with power := .reserved }) t k slot) :
    TakesUp s t k slot := by
  unfold TakesUp at h ⊢
  rw [State.coreAt_modCore_same] at h
  exact h

section
variable {s : State} {k : Nat} (now : Performs s (.coreLeaveGroup k))
include now

theorem coreLeave_reserved (reserved : (s.coreAt k).power = .reserved)
    (running : (s.groupAt (s.coreAt k).group).state = .running) : exec .coreLeaveGroup s = .next (s.takeUpReserved k) := by
  show execCoreLeaveGroup s = _
  rw [execCoreLeaveGroup, now]
  exact (if_pos reserved).trans (congrArg Host.Outcome.next (if_pos running))

/-- Both contexts of the core have left, and nothing of it is outstanding (R75, R188). -/
abbrev HasLeft (s : State) (k : Nat) : Prop := (s.coreAt k).power = .bound ∧ (s.coreAt k).tc0.run = .left ∧ (s.coreAt k).tc1.run = .left ∧
  (s.coreAt k).quiet = true ∧ s.atomicOpen k = false

theorem coreLeave_left (left : HasLeft s k) : exec .coreLeaveGroup s =
    .next (if (s.coreAt k).succ.isSome then
        (if (s.groupAt (s.coreAt k).group).state = .running then (s.modCore k fun c => { c with power := .reserved }).takeUpReserved k
          else s.modCore k fun c => { c with power := .reserved })
      else (s.turnAway k).powerOff k) := by
  obtain ⟨bound, tc0, tc1, quiet, shut⟩ := left
  show execCoreLeaveGroup s = _
  rw [execCoreLeaveGroup, now]
  refine (if_neg (by simp [bound])).trans ((if_pos ⟨bound, tc0, tc1, quiet, by simp [shut]⟩).trans ?_)
  split <;> rfl

end

/-! ## A task that follows its page -/

/-- The end-of-task steps have nothing to wait for and meet no fault: the tokens left are discarded (R145, R169). -/
theorem endSteps_passes {s : State} (done : s.task.ocnt.loads = 0 ∧ s.task.ocnt.stores = 0 ∧ s.task.ocnt.msgs = 0 ∧ s.task.ocnt.cmds = 0)
    (good : ∀ k ∈ s.task.tokens, k.f = none) (k : State → State) : s.endSteps k = k s.discardTokens := by
  obtain ⟨loads, stores, msgs, cmds⟩ := done
  have none : s.task.tokens.find? (fun t => t.f.isSome) = none := List.find?_eq_none.2 fun t ht => by simp [good t ht]
  unfold State.endSteps
  dsimp only
  rw [State.await_true _ _ _ (by simp [loads, stores, msgs, cmds])]
  simp only [none]

theorem discardTokens_beside (s : State) : s.discardTokens.fabricOut = s.fabricOut ∧ s.discardTokens.detours = s.detours ∧
    s.discardTokens.flight = s.flight ∧ s.discardTokens.partAddr = s.partAddr ∧ s.discardTokens.phys = s.phys := by
  unfold State.discardTokens; split <;> exact ⟨rfl, rfl, rfl, rfl, rfl⟩

/-- What a change of one core leaves of it, it leaves of every core. -/
theorem coreAt_modCore_keeps {α : Type} (p : Core → α) {f : Core → Core} (keeps : ∀ c, p (f c) = p c) (s : State) (k j : Nat) :
    p ((s.modCore k f).coreAt j) = p (s.coreAt j) := by
  rw [State.coreAt_modCore]; split
  · rename_i h; rw [keeps, h]
  · rfl

/-- The place of a core in its group, and its memory. -/
def seat (c : Core) := (c.rank, c.group, c.lm)

theorem modTask_seat (s : State) (i : Issuer) (f : TaskCtx → TaskCtx) (k : Nat) : seat ((s.modTask i f).coreAt k) = seat (s.coreAt k) :=
  coreAt_modCore_keeps seat (fun c => by cases i.ctx <;> rfl) s i.core k

theorem discardTokens_seat (s : State) (k : Nat) : seat (s.discardTokens.coreAt k) = seat (s.coreAt k) := by
  unfold State.discardTokens; split
  · rfl
  · exact (coreAt_modCore_keeps seat (fun c => by rfl) _ _ _).trans (modTask_seat ..)

/-- Discarding tokens changes nothing else of their context. -/
theorem discardTokens_task {s : State} (task : s.who.ctx ≠ .handler) : s.discardTokens.taskAt s.who = { s.task with tokens := [] } := by
  unfold State.discardTokens; split
  · rename_i none
    show s.task = _
    rw [← List.isEmpty_iff.1 none]
  · rw [taskAt_dropL1, State.modT, State.taskAt_modTask_same _ _ _ task]; rfl

/-- The delivery of a task that follows its page (R271). -/
def migrant (t : TaskCtx) : Delivery :=
  { dst := 0, group := 0, rec_ := t.toRec 1 false t.pc, fail := none, part := t.origin, traps := t.traps }

/-- The message that carries it to the page's part. -/
def migrantReq (s : State) (i : Issuer) (p : Nat) : FabReq :=
  let t := s.taskAt i
  let c := s.coreAt i.core
  let to_ : Nat × Nat := SMap.get (0, 0) (s.contextAt c.ctxid).follow p
  .delivery s.partAddr p to_.1 to_.2 c.rank (((s.groupAt c.group).nodeOf t.kslot.toNat).getD 255) (i.core, c.group) (migrant t)

/-- The task's record on its way, and its context FREE (R271). -/
def migrated (s : State) (i : Issuer) (p : Nat) : State :=
  ((s.toPartAway p (migrantReq s i p)).modTask i fun t => { t with run := .free, follow := none, traps := [] }).dropLease i

theorem migrantReq_eq (s : State) (i : Issuer) (p : Nat) : ∃ cx h node, migrantReq s i p =
    .delivery s.partAddr p cx h (s.coreAt i.core).rank node (i.core, (s.coreAt i.core).group) (migrant (s.taskAt i)) :=
  ⟨_, _, _, rfl⟩

theorem taskMigrate_leaves {s : State} {i : Issuer} {p : Nat} (now : Performs s (.taskMigrate i.core i.ctx p)) (task : i.ctx ≠ .handler)
    (follow : (s.taskAt i).follow = some p) (running : (s.taskAt i).run = .running) (may : s.mayMigrate i p = true)
    (done : (s.taskAt i).ocnt.loads = 0 ∧ (s.taskAt i).ocnt.stores = 0 ∧ (s.taskAt i).ocnt.msgs = 0 ∧ (s.taskAt i).ocnt.cmds = 0)
    (good : ∀ k ∈ (s.taskAt i).tokens, k.f = none) (clear : Clear { s with who := i } carriedRegs []) :
    exec .taskMigrate s = .next (migrated ({ s with who := i } : State).discardTokens i p) := by
  have inTask : InTask { s with who := i } := by
    show (i.ctx == CtxSel.handler) = false
    simpa using task
  have settled : ({ s with who := i } : State).settled = true := settled_of_task inTask ⟨done.1, done.2.1, done.2.2.1⟩
  show execTaskMigrate s = _
  unfold execTaskMigrate
  split
  case h_2 other => exact absurd now (other _ _ _)
  rename_i same
  cases now.symm.trans same
  refine (if_neg (by rintro (h | h); exacts [h follow, h running])).trans ((if_neg ?_).trans (congrArg Host.Outcome.next ?_))
  · show ¬ (!s.mayMigrate i p) = true
    simp [may]
  · refine (State.await_true _ _ _ settled).trans ?_
    rw [withRegs_of_clear clear, endSteps_passes (s := { s with who := i }) done good]
    rfl

theorem migrated_task {s : State} {i : Issuer} (task : i.ctx ≠ .handler) (p : Nat) :
    ((migrated s i p).taskAt i).run = .free ∧ ((migrated s i p).taskAt i).follow = none := by
  have context : (migrated s i p).taskAt i = { s.taskAt i with run := .free, follow := none, traps := [] } :=
    State.taskAt_modTask_same _ _ _ task
  rw [context]; exact ⟨rfl, rfl⟩

theorem migrated_fabricOut (s : State) (i : Issuer) (p : Nat) :
    (migrated s i p).fabricOut = s.fabricOut ++ [(p, s.detours.contains p, migrantReq s i p)] := rfl

theorem migrated_flight (s : State) (i : Issuer) (p : Nat) : (migrated s i p).flight = s.flight ++ [(p, migrantReq s i p)] := rfl

theorem migrated_phys (s : State) (i : Issuer) (p : Nat) : (migrated s i p).phys = s.phys := rfl

theorem migrated_lm (s : State) (i : Issuer) (p k : Nat) : ((migrated s i p).coreAt k).lm = (s.coreAt k).lm := modTask_lm ..

/-- Each part is by what the core's state asks of it. -/
theorem coresAndTasksLeave : CoresAndTasksLeave := by
  refine ⟨fun s k now bound tc0 tc1 quiet shut => ⟨fun last => ?off, fun slot succ => ⟨fun stopped => ?waits, fun running => ?next⟩⟩,
    fun s k slot now reserved running succ => ⟨_, coreLeave_reserved now reserved running, takeUpReserved_takesUp succ⟩,
    fun s k x p now task => fun follow running may loads stores msgs cmds good fault wait => ?follows⟩
  case off =>
    have kept := (apart_powerOff (s.turnAway k) k).trans (apart_turnAway s k)
    refine ⟨(s.turnAway k).powerOff k, (coreLeave_left now ⟨bound, tc0, tc1, quiet, shut⟩).trans (by rw [last]; exact congrArg Host.Outcome.next (if_neg (by simp))), ?_⟩
    have off : ((s.turnAway k).powerOff k).coreAt k = {} := State.coreAt_modCore_same _ _ fun _ => {}
    rw [off]
    refine ⟨rfl, rfl, rfl, fun j other => ?_, congrArg Prod.snd kept⟩
    have same := congrFun (congrArg Prod.fst kept) j
    simpa [apart, other] using same
  case waits =>
    rw [coreLeave_left now ⟨bound, tc0, tc1, quiet, shut⟩, succ]
    exact congrArg Host.Outcome.next (if_neg stopped)
  case next =>
    have named : ((s.modCore k fun c => { c with power := .reserved }).coreAt k).succ = some slot := by
      rw [State.coreAt_modCore_same]; exact succ
    refine ⟨_, (coreLeave_left now ⟨bound, tc0, tc1, quiet, shut⟩).trans ?_, takesUp_reserved (takeUpReserved_takesUp named)⟩
    rw [succ]
    exact congrArg Host.Outcome.next (if_pos running)
  case follows =>
    have clear : Clear { s with who := ⟨k, x⟩ } (carriedWith 0#4) [] := .inr ⟨fault, wait⟩
    have runs := taskMigrate_leaves (i := ⟨k, x⟩) now task follow running may ⟨loads, stores, msgs, cmds⟩ good
      (clear_mono clear (by decide))
    obtain ⟨fabricOut, detours, flight, partAddr, phys⟩ := discardTokens_beside { s with who := ⟨k, x⟩ }
    have context : ({ s with who := ⟨k, x⟩ } : State).discardTokens.taskAt ⟨k, x⟩ = { s.taskAt ⟨k, x⟩ with tokens := [] } :=
      discardTokens_task (s := { s with who := ⟨k, x⟩ }) task
    obtain ⟨free, stays⟩ := migrated_task (s := ({ s with who := ⟨k, x⟩ } : State).discardTokens) (i := ⟨k, x⟩) task p
    have seats (j : Nat) := discardTokens_seat { s with who := ⟨k, x⟩ } j
    have place := seats k
    simp only [seat, Prod.mk.injEq] at place
    obtain ⟨rank, group, -⟩ := place
    obtain ⟨cx, h, node, request⟩ := migrantReq_eq ({ s with who := ⟨k, x⟩ } : State).discardTokens ⟨k, x⟩ p
    rw [partAddr, context, rank, group] at request
    refine ⟨_, migrantReq ({ s with who := ⟨k, x⟩ } : State).discardTokens ⟨k, x⟩ p, runs, free, stays, ?_, ?_,
      ⟨cx, h, node, _, request, rfl, rfl⟩, ?_⟩
    · exact (migrated_fabricOut ..).trans (by rw [fabricOut, detours])
    · exact (migrated_flight ..).trans (by rw [flight])
    · refine ⟨fun a => by rw [migrated_phys, phys], fun j a => ?_⟩
      have memory := seats j
      simp only [seat, Prod.mk.injEq] at memory
      obtain ⟨-, -, lm⟩ := memory
      rw [migrated_lm, lm]; rfl

/-- Settles O50: answers, wakes and deliveries by what they meet, and cores and tasks by what they leave behind. -/
theorem messagesAndTasksLeave : Obligations.MessagesAndTasksLeave := ⟨answersAndDeliveries, coresAndTasksLeave⟩

end Sys2Proof.Proofs
end

section
/-! SUPPORT. Groups: their bind records, the cores that a bind takes, the end of the bind and the root task (R75, R317, R326 to R329, R335).
Settles O55. -/

namespace Sys2Proof.Proofs

open Sys2Proof.Machine Sys2Proof.Claims

/-! ## Bits of a record -/

theorem recW_eq (r : Rec) {i : Nat} (h : i < 16) : Rec.w r i = r[i].toNat := by
  rw [Rec.w, List.getD_eq_getElem?_getD, List.getElem?_eq_getElem (by simpa using h)]
  simp

theorem bits_one_eq (w : Word) (i : Nat) : (bits w.toNat i 1 == 1) = w.getLsbD i := by
  rw [← BitVec.testBit_toNat, Nat.testBit_eq_decide_div_mod_eq]
  simp [bits, Bool.beq_eq_decide_eq]

/-! ## The bind record -/

section
variable {s : State} {g : Nat} {r : Rec}

theorem bind_malformed (malformed : recordMalformed r = true) : s.bind g r = s.count .firmwareError := by
  unfold State.bind; dsimp only
  rw [if_pos malformed]

/-- A record that fits a REQUESTED group binds it (R327, R335). -/
theorem bind_fits (formed : recordMalformed r = false) (role : s.firmware.role ≠ .importing) (ckpt : s.ckpt = none)
    (fits : s.recordFits g r = true) (first : r[0].getLsbD 1 = false) (requested : (s.groupAt g).state = .requested)
    (context : (s.contextAt (s.groupAt g).ctx).state = .ready ∨ (s.contextAt (s.groupAt g).ctx).state = .running) :
    s.bind g r = (s.beginBind g r).modGroup g fun gr => { gr with kernel := .placed } := by
  have restore : (bits (Rec.w r 0) 1 1 == 1) = false := by rw [recW_eq r (by decide), bits_one_eq]; exact first
  have role' : (s.firmware.role == .importing) = false := by simpa using role
  unfold State.bind; dsimp only
  rw [formed, role', ckpt, fits, restore, if_neg (by simp), if_neg (by simp), if_neg (by simp), if_pos ⟨by simp, requested, context⟩]

end

theorem execBindRecord_runs {s : State} {g : Nat} {r : Rec} (now : Performs s (.bindRecord g r)) :
    exec .bindRecord s = .next (s.bind g r) := by
  show execBindRecord s = _
  rw [execBindRecord, now]; rfl

/-! ## Cores given their places -/

/-- Cores that are listed with their ranks are changed one behind another. -/
def ranked (f : Nat → Nat → Core → Core) (es : List (Nat × Nat)) (s : State) : State :=
  es.foldl (fun s e => s.modCore e.1 (f e.1 e.2)) s

theorem ranked_kept (f : Nat → Nat → Core → Core) (es : List (Nat × Nat)) (s : State) :
    (ranked f es s).groups = s.groups ∧ (ranked f es s).phys = s.phys ∧ (ranked f es s).victims = s.victims := by
  have kept := foldl_keeps (fun s : State => (s.groups, s.phys, s.victims)) (fun s (e : Nat × Nat) => s.modCore e.1 (f e.1 e.2))
    (fun _ _ => rfl) es s
  simp only [Prod.mk.injEq] at kept
  exact kept

/-- A listed core is changed with the rank that it has in the list, the last of them; no other core is. -/
theorem ranked_cores {f : Nat → Nat → Core → Core} (same : ∀ k i j c, f k i (f k j c) = f k i c) :
    ∀ (ks : List Nat) (n : Nat) (s : State),
      (∀ k ∈ ks, ∃ i, ks[i]? = some k ∧ (ranked f (ks.zipIdx n) s).coreAt k = f k (n + i) (s.coreAt k)) ∧
        ∀ k, k ∉ ks → (ranked f (ks.zipIdx n) s).coreAt k = s.coreAt k := by
  intro ks
  induction ks with
  | nil => intro n s; exact ⟨fun k hk => absurd hk (by simp), fun k _ => rfl⟩
  | cons j ks ih =>
    intro n s
    obtain ⟨inside, outside⟩ := ih (n + 1) (s.modCore j (f j n))
    rw [List.zipIdx_cons]
    refine ⟨fun k hk => ?_, fun k hk => ?_⟩
    · by_cases later : k ∈ ks
      · obtain ⟨i, place, value⟩ := inside k later
        refine ⟨i + 1, by simpa using place, value.trans ?_⟩
        rw [State.coreAt_modCore, Nat.add_assoc, Nat.add_comm 1 i]
        split
        · rename_i h; subst h; rw [same]
        · rfl
      · have first : k = j := (List.mem_cons.1 hk).resolve_right later
        subst first
        exact ⟨0, rfl, (outside k later).trans (State.coreAt_modCore_same ..)⟩
    · obtain ⟨ne, notLater⟩ := not_or.1 (fun h => hk (List.mem_cons.2 h))
      exact (outside k notLater).trans ((State.coreAt_modCore ..).trans (if_neg (Ne.symm ne)))

/-! ## The bind begins -/

/-- A core that a bind record takes (R326, R327). -/
def taken (g ctx size : Nat) (_ rank : Nat) (c : Core) : Core := { c with power := .binding, group := g, ctxid := ctx, rank := rank, gsize := size }

/-- The group of a bind record, and its cores, as the record places them (R326, R327). -/
def placed (g : Nat) (r : Rec) (s : State) : State :=
  ranked (taken g (s.groupAt g).ctx (recordCores r).length) (recordCores r).zipIdx (s.modGroup g fun gr =>
    { gr with state := .binding, cores := recordCores r, bank := recordBank r, origin := bits (Rec.w r 3) 0 18, slots := bits (Rec.w r 4) 9 5 })

/-- The cores, the groups and the memory. -/
def muster (s : State) := (s.cores, s.groups, s.phys)

/-- The banks of the record's clusters assigned to its context, and their slot tables rewritten (R329, R330). -/
def banked (ctx g : Nat) (r : Rec) (s : State) : State :=
  (clustersOf (recordCores r)).foldl (fun s k =>
    (s.modCluster k (Cluster.modBank (recordBank r) (Bank.assign ctx (s.bankHeld k (recordBank r) g)))).rewriteSlots k) s

theorem banked_kept (ctx g : Nat) (r : Rec) (s : State) :
    muster (banked ctx g r s) = muster s ∧ (banked ctx g r s).victims = s.victims := by
  have kept := foldl_keeps (fun s : State => (muster s, s.victims)) (fun s k =>
    (s.modCluster k (Cluster.modBank (recordBank r) (Bank.assign ctx (s.bankHeld k (recordBank r) g)))).rewriteSlots k)
    (fun _ _ => rfl) (clustersOf (recordCores r)) s
  exact ⟨congrArg Prod.fst kept, congrArg Prod.snd kept⟩

theorem beginBind_eq (s : State) (g : Nat) (r : Rec) : s.beginBind g r =
    let t := banked (s.groupAt g).ctx g r (placed g r s)
    let u := (t.victims.filter fun v => v.places.any fun p => (recordCores r).contains p.1).foldl (fun s v => s.recall v.ctx v.va) t
    if (u.contextAt (s.groupAt g).ctx).state = .ready ∨ (u.contextAt (s.groupAt g).ctx).state = .saved then
      u.modContext (s.groupAt g).ctx fun c => { c with state := .running }
    else u := rfl

/-- Without a piece of the victim tier a bind changes cores and groups as its record places them (R326). -/
theorem beginBind_muster {s : State} (g : Nat) (r : Rec) (none : s.victims = []) : muster (s.beginBind g r) = muster (placed g r s) := by
  obtain ⟨kept, victims⟩ := banked_kept (s.groupAt g).ctx g r (placed g r s)
  have empty : (banked (s.groupAt g).ctx g r (placed g r s)).victims = [] :=
    victims.trans ((ranked_kept ..).2.2.trans none)
  rw [beginBind_eq]
  dsimp only
  rw [empty, List.filter_nil, List.foldl_nil, ← kept]
  split <;> rfl

theorem placed_group (s : State) (g : Nat) (r : Rec) : (placed g r s).groupAt g = { s.groupAt g with
    state := .binding, cores := recordCores r, bank := recordBank r, origin := bits (Rec.w r 3) 0 18, slots := bits (Rec.w r 4) 9 5 } := by
  have groups := (ranked_kept (taken g (s.groupAt g).ctx (recordCores r).length) (recordCores r).zipIdx (s.modGroup g fun gr =>
    { gr with state := .binding, cores := recordCores r, bank := recordBank r, origin := bits (Rec.w r 3) 0 18, slots := bits (Rec.w r 4) 9 5 })).1
  rw [State.groupAt, placed, groups]
  exact State.groupAt_modGroup_same ..

theorem recordBank_eq (r : Rec) : recordBank r = r[4].getLsbD 8 := by rw [recordBank, recW_eq r (by decide), bits_one_eq]

theorem coreAt_modGroup (s : State) (g k : Nat) (f : Group → Group) : (s.modGroup g f).coreAt k = s.coreAt k := rfl

/-! ## The end of the bind -/

/-- What the end of a bind writes into a group's cores (R75, R317). -/
def bound_ (gr : Group) (g : Nat) (b : Binary) (pipes : List (Nat × Nat)) (k rank : Nat) (_ : Core) : Core := gr.boundCore g b pipes k rank

theorem bound_held (gr : Group) (g : Nat) (b : Binary) (pipes : List (Nat × Nat)) (k rank : Nat) (c : Core) :
    (bound_ gr g b pipes k rank c).dq.held = 0 := by
  show (0#16 - 0#16).toNat = 0
  decide

theorem bindComplete_ends {s w : State} {g : Nat} (now : Performs s (.bindComplete g)) (binding : (s.groupAt g).state = .binding)
    (fresh : (s.groupAt g).restoring = false) (gone : s.piecesGone g = true)
    (write : s.engineWrite (.group g) (s.groupAt g).ctx 0 ((s.groupAt g).dataPatches (s.binaryAt (s.groupAt g).handle)) = (.done [], w)) :
    let gr := s.groupAt g
    let b := s.binaryAt gr.handle
    let pipes := layPipes ((b.pipes (nodesOf gr.nodes)).map fun e => e.2.depth) 0x6EE0
    exec .bindComplete s = .next ((ranked (bound_ gr g b pipes) gr.cores.zipIdx (w.dropFetches (.group g))).modGroup g fun gr =>
      { gr with state := .resident, pipes := pipes }) := by
  dsimp only
  show execBindComplete s = _
  rw [execBindComplete, now]
  refine (if_neg (by simp [binding])).trans ((if_neg (by simp [binding, fresh, gone])).trans ?_)
  simp only [write]
  rfl

/-- The root task is placed on rank 0 (R317, R321, R335). -/
theorem placeRoot_runs {s : State} {g : Nat} (free : (s.groupAt g).preemptHeld = false) : s.placeRoot g =
    ((s.dequePush ((s.groupAt g).cores.headD 0) ((s.groupAt g).entryRec 0 ((s.kernelOf g 0).getD {}).entry)).modGroup g
      fun gr => { gr with state := .running, kernel := .running }).post (.terminationWave g) := by
  unfold State.placeRoot; dsimp only
  rw [free]; rfl

/-- Settles O55: a record by its checks, the cores by their places in it, and the two ends of a bind. -/
theorem groupsBind : Obligations.GroupsBind := by
  refine ⟨fun s g r now malformed => ?malformed, fun s g r now formed role ckpt fits first requested context => ?fits,
    fun s g r formed fits none => ?begins, fun s g w now binding fresh gone distinct write groups => ?ends,
    fun s g now resident free => ?root⟩
  case malformed => rw [execBindRecord_runs now, bind_malformed malformed]
  case fits => rw [execBindRecord_runs now, bind_fits formed role ckpt fits first requested context]
  case begins =>
    have kept := beginBind_muster g r none
    simp only [muster, Prod.mk.injEq] at kept
    obtain ⟨cores, groups, phys⟩ := kept
    have group : (s.beginBind g r).groupAt g = _ := (by rw [State.groupAt, groups]; rfl : _ = (placed g r s).groupAt g).trans (placed_group s g r)
    have core (k : Nat) : (s.beginBind g r).coreAt k = (placed g r s).coreAt k := coreAt_congr cores k
    obtain ⟨inside, outside⟩ := ranked_cores (f := taken g (s.groupAt g).ctx (recordCores r).length) (fun _ _ _ _ => rfl) (recordCores r) 0
      (s.modGroup g fun gr =>
        { gr with state := .binding, cores := recordCores r, bank := recordBank r, origin := bits (Rec.w r 3) 0 18, slots := bits (Rec.w r 4) 9 5 })
    refine ⟨by rw [group], by rw [group], by rw [group]; exact recordBank_eq r, fun k hk => ?_, fun k hk => ?_, ?_⟩
    · obtain ⟨i, place, value⟩ := inside k hk
      rw [core, placed, value]
      exact ⟨rfl, rfl, rfl, rfl, by rw [← place]; exact congrArg (fun n => (recordCores r)[n]?) (Nat.zero_add i)⟩
    · rw [core, placed, outside k hk]; rfl
    · rw [phys]; exact (ranked_kept ..).2.1
  case ends =>
    obtain ⟨sameGroups, phys, -⟩ := ranked_kept (bound_ (s.groupAt g) g (s.binaryAt (s.groupAt g).handle)
      (layPipes (((s.binaryAt (s.groupAt g).handle).pipes (nodesOf (s.groupAt g).nodes)).map fun e => e.2.depth) 0x6EE0))
      (s.groupAt g).cores.zipIdx (w.dropFetches (.group g))
    obtain ⟨inside, -⟩ := ranked_cores (f := bound_ (s.groupAt g) g (s.binaryAt (s.groupAt g).handle)
      (layPipes (((s.binaryAt (s.groupAt g).handle).pipes (nodesOf (s.groupAt g).nodes)).map fun e => e.2.depth) 0x6EE0))
      (fun _ _ _ _ => rfl) (s.groupAt g).cores 0 (w.dropFetches (.group g))
    refine ⟨_, bindComplete_ends now binding fresh gone write, ?_, ?_, phys, fun j k place => ?_⟩
    · rw [State.groupAt_modGroup_same]
    · rw [State.groupAt_modGroup_same]
      show (SMap.get {} (ranked _ _ _).groups g).kernel = _
      rw [sameGroups]
      exact congrArg (fun m => (SMap.get {} m g : Group).kernel) groups
    · obtain ⟨i, again, value⟩ := inside k (List.mem_of_getElem? place)
      have rank : 0 + i = j := by
        rw [Nat.zero_add]
        obtain ⟨hi, atI⟩ := List.getElem?_eq_some_iff.1 again
        obtain ⟨hj, atJ⟩ := List.getElem?_eq_some_iff.1 place
        exact distinct.getElem_inj_iff.1 (atI.trans atJ.symm)
      rw [rank] at value
      rw [coreAt_modGroup, value]
      exact ⟨rfl, rfl, rfl, rfl, rfl, rfl, rfl, rfl, rfl, bound_held .., rfl⟩
  case root =>
    show execBindComplete s = _
    rw [execBindComplete, now]
    exact (if_pos resident).trans (congrArg Host.Outcome.next (placeRoot_runs free))

end Sys2Proof.Proofs
end

section
/-! SUPPORT. Lane-by-lane vector instructions (R112 to R117, R119, R121, R122, R124, R129): each writes the lanes of its row. Settles
O26. -/

namespace Sys2Proof.Proofs

open Sys2Proof.Machine Sys2Proof.Claims

/-! ## A lane-by-lane write -/

/-- A lane result is the one that a statement names: its value in the lane's width, and its flags. -/
def SameLane (w : Nat) (r : Res) (x : Nat × BitVec 4) : Prop := r.val % 2 ^ w = x.1 % 2 ^ w ∧ r.fl = x.2

/-- An instruction completes as a lane-by-lane write of its row: each lane's result is the row's (R113). -/
def RunsLanewise (i : Instr) (r : LaneRow) (s : State) : Prop :=
  ∃ f : Nat → Res, exec i s = .next ((s.modT fun _ => s.task.lanewise r.et r.dest r.pm f).retire 4#32) ∧
    r.et < 8 ∧ ∀ k, SameLane (etBits r.et) (f k) (r.lane s k)

/-- A plain lane result has the value that its lane keeps of it, and no flags. -/
theorem sameLane_plain {w v v' : Nat} (same : v % 2 ^ w = v' % 2 ^ w) : SameLane w (plain v) (v', 0#4) := ⟨same, rfl⟩

theorem laneInt_eq_intAt (s : State) (r : BitVec 3) (et k : Nat) : s.task.laneInt r et k = intAt s r et k := by
  rw [TaskCtx.laneInt, lane_eq_laneAt, intAt]

section
variable {i : Instr} {r : LaneRow} {s : State} {b e d a : BitVec 3} {p : BitVec 2} {vs : List (BitVec 3)} {et : Nat}
  {lane : State → Nat → Nat × BitVec 4}

/-- A vector instruction of free registers that writes lanes by their values runs lanewise. -/
theorem runsLanewise_vector {f : TaskCtx → Nat → Res} (row : some ⟨et, d, p, [], vs, lane⟩ = some r)
    (meaning : exec i s = ok (s.vector [] vs fun t => t.lanewise et d p (f t))) (small : et < 8) (task : InTask s)
    (clear : Clear s r.xs r.vs) (same : ∀ k, SameLane (etBits et) (f s.task k) (lane s k)) : RunsLanewise i r s := by
  cases row
  exact ⟨f s.task, by rw [meaning, vector_of_clear task clear]; rfl, small, same⟩

/-- So does one that reads a scalar register. -/
theorem runsLanewise_vectorX {x : BitVec 4} {f : State → TaskCtx → Nat → Res} (row : some ⟨et, d, p, [x], vs, lane⟩ = some r)
    (meaning : exec i s = ok (s.vectorX [x] vs fun s => s.modT fun t => t.lanewise et d p (f s t))) (small : et < 8) (task : InTask s)
    (clear : Clear s r.xs r.vs) (same : ∀ k, SameLane (etBits et) (f s s.task k) (lane s k)) : RunsLanewise i r s := by
  cases row
  exact ⟨f s s.task, by rw [meaning, vectorX_of_clear task clear, modT_eq_const]; rfl, small, same⟩

/-- Two integer sources (R115). -/
theorem intRow_runsLanewise {f : Nat → Int → Int → Res} {g : Nat → Int → Int → Nat × BitVec 4} (op : Out)
    (row : intRow b e d a p g = some r) (arm : exec i s = op) (meaning : op = vintOp f b e d a p s) (task : InTask s)
    (clear : Clear s r.xs r.vs) (same : ∀ x y, SameLane (etBits e.toNat) (f e.toNat x y) (g e.toNat x y)) : RunsLanewise i r s := by
  refine runsLanewise_vector row (arm.trans meaning) e.isLt task clear fun k => ?_
  rw [laneInt_eq_intAt, laneInt_eq_intAt]
  exact same _ _

/-- Two sources taken as bits (R115). -/
theorem bitRow_runsLanewise {f g : Nat → Nat → Nat → Nat} (op : Out) (row : bitRow b e d a p g = some r)
    (arm : exec i s = op) (meaning : op = vbitOp f b e d a p s) (task : InTask s) (clear : Clear s r.xs r.vs)
    (same : ∀ x y, x < 2 ^ etBits e.toNat → y < 2 ^ etBits e.toNat → f (etBits e.toNat) x y = g (etBits e.toNat) x y) :
    RunsLanewise i r s := by
  refine runsLanewise_vector row (arm.trans meaning) e.isLt task clear fun k => ?_
  rw [lane_eq_laneAt, lane_eq_laneAt, same _ _ (laneAt_lt _ _ _) (laneAt_lt _ _ _)]
  exact ⟨rfl, rfl⟩

/-- Two floating sources, rounded once (R116). -/
theorem vfpOp_runsLanewise (f : FVal → FVal → FVal) (row : some ⟨e.toNat, d, p, [], [a, b, d], fun s k =>
      rounded e.toNat (f (fpAt s a e.toNat k) (fpAt s b e.toNat k))⟩ = some r)
    (meaning : exec i s = vfpOp f b e d a p s) (task : InTask s) (clear : Clear s r.xs r.vs) : RunsLanewise i r s := by
  refine runsLanewise_vector row meaning e.isLt task clear fun k => ?_
  rw [laneF_eq_fpAt, laneF_eq_fpAt]
  exact ⟨rfl, rfl⟩

/-- One floating source, rounded once (R116, R117). -/
theorem vfpOne_runsLanewise (f : FVal → FVal) (row : oneRow e d a p (fun s k => rounded e.toNat (f (fpAt s a e.toNat k))) = some r)
    (meaning : exec i s = vfpOne f e d a p s) (task : InTask s) (clear : Clear s r.xs r.vs) : RunsLanewise i r s := by
  refine runsLanewise_vector row meaning e.isLt task clear fun k => ?_
  rw [laneF_eq_fpAt]
  exact ⟨rfl, rfl⟩

end

/-! ## Lane values -/

theorem etBits_pos (et : Nat) : 0 < etBits et := by
  unfold etBits etBytes
  split <;> decide

theorem etMin_le_etMax (et : Nat) : etMin et ≤ etMax et := by
  have half : (1 : Int) ≤ 2 ^ (etBits et - 1) := one_le_pow₀ (by decide)
  have whole : (1 : Int) ≤ 2 ^ etBits et := one_le_pow₀ (by decide)
  unfold etMin etMax
  split <;> omega

/-- Saturation clamps to the type's bounds and says so when it changes the value (R25). -/
theorem satTo_sameLane (et w : Nat) (x : Int) : SameLane w (satTo et x) (clamp et x) := by
  have bounds := etMin_le_etMax et
  simp only [satTo, clamp]
  by_cases low : x < etMin et
  · rw [if_pos low, min_eq_right (by omega), max_eq_left (by omega), if_neg (by omega)]
    exact ⟨rfl, rfl⟩
  · rw [if_neg low]
    by_cases high : etMax et < x
    · rw [if_pos high, min_eq_left (by omega), max_eq_right (by omega), if_neg (by omega)]
      exact ⟨rfl, rfl⟩
    · rw [if_neg high, min_eq_right (by omega), max_eq_right (by omega), if_pos rfl]
      exact ⟨rfl, rfl⟩

/-- The complement in a lane of w bits. -/
theorem xor_ones_eq_sub {w y : Nat} (h : y < 2 ^ w) : y ^^^ (2 ^ w - 1) = 2 ^ w - 1 - y := by
  have complement := congrArg BitVec.toNat (BitVec.xor_allOnes (x := BitVec.ofNat w y))
  rwa [BitVec.toNat_xor, BitVec.toNat_not, BitVec.toNat_allOnes, BitVec.toNat_ofNat, Nat.mod_eq_of_lt h] at complement

theorem wrapInt_neg_one (w : Nat) : wrapInt w (-1) = 2 ^ w - 1 := by
  have positive := Nat.two_pow_pos w
  rw [wrapInt, ← Int.add_emod_right, Int.emod_eq_of_lt (by norm_cast; omega) (by omega)]
  norm_cast
  omega

/-- A shift by the width leaves copies of the sign. -/
theorem sintOf_ediv_width {w x : Nat} (h : x < 2 ^ w) : sintOf w x / 2 ^ w = if 2 * x < 2 ^ w then 0 else -1 := by
  have below : (x : Int) / 2 ^ w = 0 := Int.ediv_eq_zero_of_lt (by omega) (by exact_mod_cast h)
  rw [sintOf, Nat.mod_eq_of_lt h]
  split
  · exact below
  · rw [Int.sub_ediv_of_dvd _ dvd_rfl, below, Int.ediv_self (by positivity)]; rfl

/-- An arithmetic shift by the width or more is one by the width (R115). -/
theorem shiftRight_sign {w x : Nat} (h : x < 2 ^ w) (positive : 0 < w) (y : Nat) : wrapInt w (sintOf w x / 2 ^ min y w) =
    if w ≤ y then (if x < 2 ^ (w - 1) then 0 else 2 ^ w - 1) else wrap w (sintOf w x / 2 ^ y) := by
  have half := Nat.two_pow_pred_mul_two positive
  split
  · rw [min_eq_right ‹_›, sintOf_ediv_width h]
    split
    · rw [if_pos (by omega)]; rfl
    · rw [if_neg (by omega), wrapInt_neg_one]
  · rw [min_eq_left (by omega)]; rfl

/-- The quotient and the remainder of a negated number. -/
theorem neg_ediv_emod (m n : Nat) (hn : 0 < n) : (-(m : Int)) / n = -(m / n : Nat) - (if m % n = 0 then 0 else 1) ∧
    (-(m : Int)) % n = if m % n = 0 then 0 else (n : Int) - (m % n : Nat) := by
  have rest := Nat.mod_lt m hn
  have whole : (n : Int) * (m / n : Nat) + (m % n : Nat) = m := by exact_mod_cast Nat.div_add_mod m n
  refine (Int.ediv_emod_unique (by omega)).2 ?_
  split
  · rename_i divides
    rw [divides] at whole
    exact ⟨by push_cast at whole ⊢; linarith, le_rfl, by omega⟩
  · exact ⟨by linarith, by omega, by omega⟩

/-- Rounding the magnitude to nearest, ties to even, rounds the number so (R26). -/
theorem rneShift_eq_nearest (x : Int) (n : Nat) : rneShift x n = nearest x n := by
  have positive : 0 < 2 ^ n := by positivity
  have power : (2 : Int) ^ n = (2 ^ n : Nat) := by push_cast; rfl
  unfold rneShift nearest roundShift signed
  rw [power]
  clear power
  generalize 2 ^ n = P at *
  obtain ⟨m, rfl | rfl⟩ := Int.eq_nat_or_neg x
  · have rest := Nat.mod_lt m positive
    rw [← Int.natCast_ediv, ← Int.natCast_emod]
    simp only [Int.natAbs_natCast, decide_eq_true_eq]
    generalize m / P = q at *
    generalize m % P = r at *
    split_ifs <;> omega
  · have rest := Nat.mod_lt m positive
    obtain ⟨quotient, remainder⟩ := neg_ediv_emod m P positive
    rw [quotient, remainder]
    simp only [Int.natAbs_neg, Int.natAbs_natCast, decide_eq_true_eq]
    have : m = 0 → m / P = 0 ∧ m % P = 0 := by rintro rfl; simp
    generalize m / P = q at *
    generalize m % P = r at *
    split_ifs <;> omega

/-! ## The rows -/

/-- Every lane-by-lane instruction runs lanewise with the lanes of its row. -/
theorem laneRow_runsLanewise {i : Instr} {r : LaneRow} {s : State} (row : laneRow i = some r) (task : InTask s)
    (clear : Clear s r.xs r.vs) : RunsLanewise i r s := by
  unfold laneRow at row
  split at row
  case h_1 b e d a p => exact intRow_runsLanewise (execVadd b e d a p s) row rfl rfl task clear fun _ _ => ⟨rfl, rfl⟩
  case h_2 b e d a p => exact intRow_runsLanewise (execVsub b e d a p s) row rfl rfl task clear fun _ _ => ⟨rfl, rfl⟩
  case h_3 b e d a p => exact intRow_runsLanewise (execVadds b e d a p s) row rfl rfl task clear fun _ _ => satTo_sameLane _ _ _
  case h_4 b e d a p => exact intRow_runsLanewise (execVsubs b e d a p s) row rfl rfl task clear fun _ _ => satTo_sameLane _ _ _
  case h_5 b e d a p => exact intRow_runsLanewise (execVmul b e d a p s) row rfl rfl task clear fun _ _ => ⟨rfl, rfl⟩
  case h_6 b e d a p => exact intRow_runsLanewise (execVmulh b e d a p s) row rfl rfl task clear fun _ _ => ⟨rfl, rfl⟩
  case h_7 b e d a p => exact intRow_runsLanewise (execVmin b e d a p s) row rfl rfl task clear fun _ _ => ⟨rfl, rfl⟩
  case h_8 b e d a p => exact intRow_runsLanewise (execVmax b e d a p s) row rfl rfl task clear fun _ _ => ⟨rfl, rfl⟩
  -- VMAC
  case h_9 b e d a p => exact runsLanewise_vector row rfl e.isLt task clear fun k => sameLane_plain (by simp only [laneInt_eq_intAt]; rfl)
  case h_10 b e d a p => exact bitRow_runsLanewise (execVand b e d a p s) row rfl rfl task clear fun _ _ _ _ => rfl
  case h_11 b e d a p => exact bitRow_runsLanewise (execVor b e d a p s) row rfl rfl task clear fun _ _ _ _ => rfl
  case h_12 b e d a p => exact bitRow_runsLanewise (execVxor b e d a p s) row rfl rfl task clear fun _ _ _ _ => rfl
  case h_13 b e d a p =>
    exact bitRow_runsLanewise (execVandn b e d a p s) row rfl rfl task clear fun x _ _ inside => congrArg (x &&& ·) (xor_ones_eq_sub inside)
  case h_14 b e d a p => exact bitRow_runsLanewise (execVshl b e d a p s) row rfl rfl task clear fun _ _ _ _ => rfl
  case h_15 b e d a p => exact bitRow_runsLanewise (execVshr b e d a p s) row rfl rfl task clear fun _ _ _ _ => rfl
  case h_16 b e d a p =>
    exact bitRow_runsLanewise (execVsra b e d a p s) row rfl rfl task clear fun _ y inside _ => shiftRight_sign inside (etBits_pos _) y
  -- VABS and VNEG
  case h_17 e d a p => exact runsLanewise_vector row rfl e.isLt task clear fun k => sameLane_plain (by rw [laneInt_eq_intAt, Int.natCast_natAbs]; rfl)
  case h_18 e d a p => exact runsLanewise_vector row rfl e.isLt task clear fun k => sameLane_plain (by rw [laneInt_eq_intAt]; rfl)
  -- The floating lanes
  case h_19 b e d a p => exact vfpOp_runsLanewise FVal.add row rfl task clear
  case h_20 b e d a p => exact vfpOp_runsLanewise (fun x y => x.add y.neg) row rfl task clear
  case h_21 b e d a p => exact vfpOp_runsLanewise FVal.mul row rfl task clear
  case h_22 b e d a p =>
    refine runsLanewise_vector row rfl e.isLt task clear fun k => ?_
    simp only [laneF_eq_fpAt]
    exact ⟨rfl, rfl⟩
  case h_23 b e d a p => exact vfpOp_runsLanewise FVal.least row rfl task clear
  case h_24 b e d a p => exact vfpOp_runsLanewise FVal.greatest row rfl task clear
  case h_25 e d a p => exact vfpOne_runsLanewise FVal.abs row rfl task clear
  case h_26 e d a p => exact vfpOne_runsLanewise FVal.neg row rfl task clear
  case h_27 e d a p => exact vfpOne_runsLanewise FVal.recip row rfl task clear
  case h_28 e d a p => exact vfpOne_runsLanewise FVal.rsqrt row rfl task clear
  case h_29 e d a p => exact vfpOne_runsLanewise FVal.exp2 row rfl task clear
  -- VSCL
  case h_30 b d a p =>
    refine runsLanewise_vector row rfl (by decide) task clear fun k => ?_
    simp only [laneF_eq_fpAt, laneInt_eq_intAt]
    exact ⟨rfl, rfl⟩
  -- VMOV and the permutes
  case h_31 e d a p => exact runsLanewise_vector row rfl e.isLt task clear fun k => sameLane_plain (by rw [lane_eq_laneAt])
  case h_32 b e d a p => exact runsLanewise_vector row rfl e.isLt task clear fun k => sameLane_plain (by simp only [lane_eq_laneAt])
  case h_33 b e d a p => exact runsLanewise_vector row rfl e.isLt task clear fun k => sameLane_plain (by rw [lane_eq_laneAt, Nat.zero_mul, Nat.zero_add])
  case h_34 b e d a p => exact runsLanewise_vector row rfl e.isLt task clear fun k => sameLane_plain (by rw [lane_eq_laneAt, Nat.one_mul])
  case h_35 e d a p => exact runsLanewise_vector row rfl e.isLt task clear fun k => sameLane_plain (by rw [lane_eq_laneAt])
  -- VBCAST, VINS and VSLIDE: the scalar's low bits
  case h_36 x e d p => exact runsLanewise_vectorX row rfl e.isLt task clear fun k => sameLane_plain (Nat.mod_mod _ _).symm
  case h_37 x e l d p =>
    refine runsLanewise_vectorX row rfl e.isLt task clear fun k => sameLane_plain ?_
    rw [lane_eq_laneAt]
    split
    · exact (Nat.mod_mod _ _).symm
    · rfl
  case h_38 x e n d a p =>
    refine runsLanewise_vectorX row rfl e.isLt task clear fun k => sameLane_plain ?_
    rw [lane_eq_laneAt]
    split
    · rfl
    · exact (Nat.mod_mod _ _).symm
  -- VNARROW and VWIDEN
  case h_39 e sh d a p =>
    refine runsLanewise_vector row rfl e.isLt task clear fun k => ?_
    simp only [narrowTo, rneShift_eq_nearest, laneInt_eq_intAt]
    exact satTo_sameLane _ _ _
  case h_40 e h d a p => exact runsLanewise_vector row rfl e.isLt task clear fun k => sameLane_plain (by rw [laneInt_eq_intAt]; rfl)
  -- VPOPP
  case h_41 d a p => exact runsLanewise_vector row rfl (by decide) task clear fun k => sameLane_plain rfl
  -- no other instruction has a row
  case h_42 => cases row

/-- Settles O26: each instruction of the table runs lanewise, and a lane-by-lane write does all that is said. -/
theorem lanewiseResults : Obligations.LanewiseResults := by
  unfold Obligations.LanewiseResults
  intro i r s row task clear
  obtain ⟨f, completes, small, same⟩ := laneRow_runsLanewise row task clear
  obtain ⟨lane, others, vl, flags, -⟩ := TaskCtx.lanewise_spec r.et small r.dest r.pm f s.task
  refine ⟨_, completes, fun k inside => ?_, others, vl, fun j => ?_, rfl, rfl, rfl, rfl, rfl⟩
  · simp only [laneAt_eq_laneOf, lane k inside, active_iff, (same k).1]
    rfl
  · rw [flags]
    refine or_congr_right (exists_congr fun k => ?_)
    rw [active_iff, (same k).2]

end Sys2Proof.Proofs
end

section
/-! SUPPORT. Selects, compressions and expansions (R115, R121): the lanes that are gathered and spread. -/

namespace Sys2Proof.Proofs

open Sys2Proof.Machine Sys2Proof.Claims

/-! ## One register written -/

theorem setV_onlyRegister (t : TaskCtx) (d : BitVec 3) (v : Vec) : OnlyRegister d t (t.setV d v) :=
  ⟨rfl, fun _ other => setV_get_other t other v, rfl⟩

/-- A lane-by-lane write without flags changes one register and VL. -/
theorem lanewise_onlyRegister {et : Nat} (small : et < 8) (d : BitVec 3) (pm : BitVec 2) {f : Nat → Res} (noFlags : ∀ k, (f k).fl = 0#4)
    (t : TaskCtx) : OnlyRegister d t (t.lanewise et d pm f) := by
  obtain ⟨-, others, vl, flags, kept⟩ := TaskCtx.lanewise_spec et small d pm f t
  have sameFlags : (t.lanewise et d pm f).vstat = t.vstat := BitVec.eq_of_getLsbD_eq fun j _ => by
    rw [Bool.eq_iff_iff, flags]
    simp [noFlags]
  refine ⟨?_, others, vl⟩
  rw [← sameFlags] at kept
  exact kept

/-- Lane k of a register put together from a list that fits. -/
theorem laneAt_ofLanes {w : Nat} {ls : List Nat} (fits : w * ls.length ≤ 256) (k : Nat) :
    laneAt (ofLanes w ls) w k = ls.getD k 0 % 2 ^ w := by
  rw [laneAt_eq_laneOf, laneOf_ofLanes _ fits]

/-! ## Lanes gathered and spread (R121) -/

/-- The k-th of the gathered lanes stands in lane k, zero behind them. -/
theorem laneAt_gathered {et : Nat} (small : et < 8) (s : State) (a : BitVec 3) (sel : Nat → Bool) (k : Nat) :
    laneAt (ofLanes (etBits et) (((List.range (lanes et)).filter sel).map (s.task.lane a et))) (etBits et) k =
      (((List.range (lanes et)).filter sel)[k]?.map (laneAt (vr s a) (etBits et))).getD 0 := by
  have fits : etBits et * (((List.range (lanes et)).filter sel).map (s.task.lane a et)).length ≤ 256 := by
    rw [List.length_map, ← lanes_bits et small]
    exact Nat.mul_le_mul_left _ ((List.length_filter_le _ _).trans_eq List.length_range)
  rw [laneAt_ofLanes fits, List.getD_eq_getElem?_getD, List.getElem?_map]
  cases ((List.range (lanes et)).filter sel)[k]? with
  | none => exact Nat.zero_mod _
  | some j =>
    rw [Option.map_some, Option.getD_some, lane_eq_laneAt]
    exact Nat.mod_eq_of_lt (laneAt_lt _ _ _)

/-- A selected position is given the next lane of the source, after those given to the positions before it. -/
theorem getElem?_expandLanes (src : Nat → Nat) (sel : Nat → Bool) (l : List Nat) (n k : Nat) :
    (expandLanes src sel l n)[k]? = l[k]?.map fun i => if sel i then src (n + (l.take k).countP sel) else 0 := by
  induction l generalizing n k with
  | nil => rfl
  | cons i l ih =>
    cases k with
    | zero => by_cases h : sel i <;> simp [expandLanes, h]
    | succ k => by_cases h : sel i <;> simp [expandLanes, h, ih, Nat.add_assoc, Nat.add_comm 1]

/-- The selected positions below k, counted among all that are selected. -/
theorem countP_filter_range {n k : Nat} (inside : k ≤ n) (sel : Nat → Bool) :
    (((List.range n).filter sel).countP fun j => j < k) = (List.range k).countP sel := by
  obtain ⟨m, rfl⟩ := Nat.exists_eq_add_of_le inside
  rw [List.countP_filter, List.range_add, List.countP_append, List.countP_map]
  have behind : (List.range m).countP ((fun j => decide (j < k) && sel j) ∘ (k + ·)) = 0 := by simp
  rw [behind, Nat.add_zero]
  exact List.countP_congr fun j hj => by simp [List.mem_range.1 hj]

theorem length_expandLanes (src : Nat → Nat) (sel : Nat → Bool) (l : List Nat) (n : Nat) : (expandLanes src sel l n).length = l.length := by
  induction l generalizing n with
  | nil => rfl
  | cons i l ih => by_cases h : sel i <;> simp [expandLanes, h, ih]

/-- The low lanes of a register, spread over the selected ones, zero elsewhere. -/
theorem laneAt_spread {et : Nat} (small : et < 8) (s : State) (a : BitVec 3) (sel : Nat → Bool) {k : Nat} (inside : k < lanes et) :
    laneAt (ofLanes (etBits et) (expandLanes (s.task.lane a et) sel (List.range (lanes et)) 0)) (etBits et) k =
      if sel k then laneAt (vr s a) (etBits et) (((List.range (lanes et)).filter sel).countP fun j => j < k) else 0 := by
  have fits : etBits et * (expandLanes (s.task.lane a et) sel (List.range (lanes et)) 0).length ≤ 256 := by
    rw [length_expandLanes, List.length_range, lanes_bits et small]
  rw [laneAt_ofLanes fits, List.getD_eq_getElem?_getD, getElem?_expandLanes, List.getElem?_range inside, List.take_range,
    min_eq_left inside.le, ← countP_filter_range inside.le, Nat.zero_add, Option.map_some, Option.getD_some, lane_eq_laneAt]
  split
  · exact Nat.mod_eq_of_lt (laneAt_lt _ _ _)
  · exact Nat.zero_mod _

/-! ## The instructions -/

/-- What VSEL takes for a lane. -/
def selectedLane (b a : BitVec 3) (et : Nat) (p : BitVec 2) (t : TaskCtx) (k : Nat) : Res :=
  plain (if t.active p k then t.lane a et k else t.lane b et k)

theorem exec_vsel {s : State} {b d a : BitVec 3} (task : InTask s) (clear : Clear s [] [a, b, d]) (e : BitVec 3) (p : BitVec 2) :
    exec (.vsel b e d a p) s =
      .next ((s.modT fun _ => s.task.lanewise e.toNat d 0#2 (selectedLane b a e.toNat p s.task)).retire 4#32) := by
  show execVsel b e d a p s = _
  rw [execVsel, vector_of_clear task clear]
  rfl

theorem exec_vcompr {s : State} {d a : BitVec 3} (task : InTask s) (clear : Clear s [] [a, d]) (e : BitVec 3) (p : BitVec 2) :
    exec (.vcompr e d a p) s = .next ((s.modT fun _ => s.task.setV d (ofLanes (etBits e.toNat)
      (((List.range (lanes e.toNat)).filter (s.task.active p)).map (s.task.lane a e.toNat)))).retire 4#32) := by
  show execVcompr e d a p s = _
  rw [execVcompr, vector_of_clear task clear]
  rfl

theorem exec_vexpnd {s : State} {d a : BitVec 3} (task : InTask s) (clear : Clear s [] [a, d]) (e : BitVec 3) (p : BitVec 2) :
    exec (.vexpnd e d a p) s = .next ((s.modT fun _ => s.task.setV d (ofLanes (etBits e.toNat)
      (expandLanes (s.task.lane a e.toNat) (s.task.active p) (List.range (lanes e.toNat)) 0))).retire 4#32) := by
  show execVexpnd e d a p s = _
  rw [execVexpnd, vector_of_clear task clear]
  rfl

/-- Every lane of VSEL's destination is one of its sources'. -/
theorem laneAt_selected {e : BitVec 3} (d b a : BitVec 3) (p : BitVec 2) (s : State) {k : Nat} (inside : k < lanes e.toNat) :
    laneAt (s.task.lanewise e.toNat d 0#2 (selectedLane b a e.toNat p s.task)).v[d.toFin] (etBits e.toNat) k =
      if s.task.active p k then laneAt (vr s a) (etBits e.toNat) k else laneAt (vr s b) (etBits e.toNat) k := by
  obtain ⟨lane, -⟩ := TaskCtx.lanewise_spec e.toNat e.isLt d 0#2 (selectedLane b a e.toNat p s.task) s.task
  have all : s.task.active 0#2 k = true := rfl
  rw [laneAt_eq_laneOf, lane k inside, if_pos all, selectedLane, lane_eq_laneAt, lane_eq_laneAt, plain]
  split <;> exact Nat.mod_eq_of_lt (laneAt_lt _ _ _)

theorem selectsAndCompressions : Claims.SelectsAndCompressions := by
  unfold Claims.SelectsAndCompressions
  refine ⟨fun b e d a p s task clear => ?select, fun e d a p s task clear => ⟨?gather, ?spread⟩⟩
  case select =>
    refine ⟨_, exec_vsel task clear e p, lanewise_onlyRegister e.isLt d 0#2 (fun _ => rfl) _, fun k inside => ?_⟩
    rw [laneAt_selected d b a p s inside, ← active_iff]
    exact ⟨fun on => if_pos on, fun off => if_neg off⟩
  case gather =>
    refine ⟨_, exec_vcompr task clear e p, setV_onlyRegister _ d _, fun k _ => ?_⟩
    rw [setV_get_same, laneAt_gathered e.isLt]
    cases ((List.range (lanes e.toNat)).filter (s.task.active p))[k]? <;> rfl
  case spread =>
    refine ⟨_, exec_vexpnd task clear e p, setV_onlyRegister _ d _, fun k inside => ?_⟩
    rw [setV_get_same, laneAt_spread e.isLt s a _ inside, ← active_iff]
    exact ⟨fun on => if_pos on, fun off => if_neg off⟩

end Sys2Proof.Proofs
end

section
/-! SUPPORT. Lane reductions (R44, R122, R123): the fixed tree over the lanes, its sum and its maximum. Settles O28. -/

namespace Sys2Proof.Proofs

open Sys2Proof.Machine Sys2Proof.Claims

/-! ## The fixed tree (R44) -/

/-- A node of the fixed tree as a lane result. -/
def nodeRes (f : Nat → Nat → Res) (entry : Nat → Nat) (l j : Nat) : Res := ⟨(treeNode f entry l j).1, (treeNode f entry l j).2⟩

/-- One level of the tree combines the neighbours of a list of even length. -/
theorem pairUp_map_range (f : Nat → Nat → Res) (g : Nat → Res) (n : Nat) :
    pairUp f ((List.range (n * 2)).map g) = (List.range n).map fun j =>
      ⟨(f (g (2 * j)).val (g (2 * j + 1)).val).val,
        (g (2 * j)).fl ||| (g (2 * j + 1)).fl ||| (f (g (2 * j)).val (g (2 * j + 1)).val).fl⟩ := by
  induction n generalizing g with
  | zero => rfl
  | succ n ih =>
    rw [Nat.succ_mul, List.range_succ_eq_map, List.range_succ_eq_map, List.range_succ_eq_map]
    simp only [List.map_cons, List.map_map, pairUp]
    exact congrArg (_ :: ·) (ih (g ∘ Nat.succ ∘ Nat.succ))

/-- The nodes of one level make those of the next. -/
theorem pairUp_level (f : Nat → Nat → Res) (entry : Nat → Nat) (l m : Nat) :
    pairUp f ((List.range (2 ^ (m + 1))).map (nodeRes f entry l)) = (List.range (2 ^ m)).map (nodeRes f entry (l + 1)) := by
  rw [pow_succ, pairUp_map_range]
  rfl

/-- After l levels 2^m nodes are left of 2^(l+m) entries. -/
theorem iterate_pairUp (f : Nat → Nat → Res) (entry : Nat → Nat) (l m : Nat) :
    (pairUp f)^[l] ((List.range (2 ^ (l + m))).map (nodeRes f entry 0)) = (List.range (2 ^ m)).map (nodeRes f entry l) := by
  induction l generalizing m with
  | zero => rw [Nat.zero_add]; rfl
  | succ l ih => rw [Function.iterate_succ_apply', Nat.add_assoc, Nat.add_comm 1, ih, pairUp_level]

/-- The model's five levels over 2^n lanes come to the node of level n: a level leaves a single value as it is. -/
theorem treeOf_eq_node (f : Nat → Nat → Res) (entry : Nat → Nat) {n : Nat} (levels : n ≤ 5) :
    treeOf f ((List.range (2 ^ n)).map fun k => plain (entry k)) = nodeRes f entry n 0 := by
  have single : pairUp f [nodeRes f entry n 0] = [nodeRes f entry n 0] := rfl
  have all : (pairUp f)^[5] ((List.range (2 ^ n)).map (nodeRes f entry 0)) = [nodeRes f entry n 0] := by
    rw [← Nat.sub_add_cancel levels, Function.iterate_add_apply]
    exact (congrArg _ (iterate_pairUp f entry n 0)).trans (Function.iterate_fixed single _)
  exact congrArg (fun l => l.headD ⟨0, 0#4⟩) all

/-- The lanes of a type are a power of two, and five levels are enough for them. -/
theorem lanes_eq_two_pow {et : Nat} (small : et < 8) : lanes et = 2 ^ (lanes et).log2 ∧ (lanes et).log2 ≤ 5 := by
  interval_cases et <;> decide

/-- Combinations without flags make a tree without flags. -/
theorem treeNode_flags {f : Nat → Nat → Res} (noFlags : ∀ x y, (f x y).fl = 0#4) (entry : Nat → Nat) (l j : Nat) :
    (treeNode f entry l j).2 = 0#4 := by
  induction l generalizing j with
  | zero => rfl
  | succ l ih => simp only [treeNode, ih, noFlags]; rfl

theorem treeNode_succ (f : Nat → Nat → Res) (entry : Nat → Nat) (l j : Nat) : (treeNode f entry (l + 1) j).1 =
    (f (treeNode f entry l (2 * j)).1 (treeNode f entry l (2 * j + 1)).1).val := rfl

/-- The sum of two lanes of w bits. -/
def sumIn (w u v : Nat) : Res := plain ((u + v) % 2 ^ w)

/-- A tree of sums in w bits is the sum of its entries in w bits. -/
theorem treeNode_sum (w : Nat) {entry : Nat → Nat} (small : ∀ k, entry k < 2 ^ w) (l j : Nat) :
    (treeNode (sumIn w) entry l j).1 = (∑ i ∈ Finset.range (2 ^ l), entry (2 ^ l * j + i)) % 2 ^ w := by
  induction l generalizing j with
  | zero => simp [treeNode, Nat.mod_eq_of_lt (small j)]
  | succ l ih =>
    have left : 2 ^ l * (2 * j) = 2 ^ (l + 1) * j := by ring
    have right : 2 ^ l * (2 * j + 1) = 2 ^ (l + 1) * j + 2 ^ l := by ring
    rw [pow_succ 2 l, mul_two, Finset.sum_range_add, ← mul_two, ← pow_succ, treeNode_succ, ih, ih, left, right]
    simp only [sumIn, plain, ← Nat.add_mod, Nat.add_assoc]

/-- The greater of two entries by the values that they stand for; the first of two equal ones. -/
def pickGreater (value : Nat → Int) (u v : Nat) : Res := plain (if value u < value v then v else u)

/-- A tree of maxima is one of its entries, and none has a greater value. -/
theorem treeNode_max (value : Nat → Int) (entry : Nat → Nat) (l j : Nat) :
    (∀ k, k / 2 ^ l = j → value (entry k) ≤ value (treeNode (pickGreater value) entry l j).1) ∧
      ∃ k, k / 2 ^ l = j ∧ (treeNode (pickGreater value) entry l j).1 = entry k := by
  induction l generalizing j with
  | zero => exact ⟨fun k same => by rw [← same, pow_zero, Nat.div_one]; exact le_rfl, j, by simp, rfl⟩
  | succ l ih =>
    obtain ⟨boundA, kA, placeA, isA⟩ := ih (2 * j)
    obtain ⟨boundB, kB, placeB, isB⟩ := ih (2 * j + 1)
    have half (k : Nat) : k / 2 ^ (l + 1) = k / 2 ^ l / 2 := by rw [pow_succ, Nat.div_div_eq_div_mul]
    have either (k : Nat) (place : k / 2 ^ (l + 1) = j) : k / 2 ^ l = 2 * j ∨ k / 2 ^ l = 2 * j + 1 := by
      rw [half] at place
      omega
    simp only [treeNode_succ, pickGreater, plain]
    split
    · refine ⟨fun k place => ?_, kB, by rw [half]; omega, isB⟩
      rcases either k place with inA | inB
      · exact (boundA k inA).trans (le_of_lt ‹_›)
      · exact boundB k inB
    · refine ⟨fun k place => ?_, kA, by rw [half]; omega, isA⟩
      rcases either k place with inA | inB
      · exact boundA k inA
      · exact (boundB k inB).trans (not_lt.1 ‹_›)

/-! ## Integers of a type (R24, R25) -/

/-- An element's integer has the element's bits (R24). -/
theorem etInt_emod (et v : Nat) : etInt et v % 2 ^ etBits et = (v : Int) % 2 ^ etBits et := by
  unfold etInt sintOf
  push_cast
  split
  · split
    · exact Int.emod_emod _ _
    · rw [Int.sub_emod_right]
      exact Int.emod_emod _ _
  · exact Int.emod_emod _ _

theorem wrap_natCast (w v : Nat) : wrap w v = v % 2 ^ w := by
  rw [wrap]
  norm_cast

/-- The bits of an element's integer are the element. -/
theorem wrap_etInt {et v : Nat} (small : v < 2 ^ etBits et) : wrap (etBits et) (etInt et v) = v := by
  rw [wrap, etInt_emod, ← wrap, wrap_natCast, Nat.mod_eq_of_lt small]

/-- The bits of a type's least value stand for it. -/
theorem etInt_wrap_etMin {et : Nat} (small : et < 8) : etInt et (wrapInt (etBits et) (etMin et)) = etMin et := by
  interval_cases et <;> decide

/-- Numbers that agree modulo m have sums over the selected positions that do. -/
theorem sum_selected_emod (m : Int) (sel : Nat → Bool) {v : Nat → Nat} {x : Nat → Int} (same : ∀ k, (v k : Int) % m = x k % m) (n : Nat) :
    ((∑ k ∈ Finset.range n, if sel k then v k else 0 : Nat) : Int) % m = (((List.range n).filter sel).map x).sum % m := by
  induction n with
  | zero => rfl
  | succ n ih =>
    rw [Finset.sum_range_succ, List.range_succ, List.filter_append, List.map_append, List.sum_append, Nat.cast_add]
    refine Int.ModEq.add ih ?_
    by_cases on : sel n = true
    · simpa [on, Int.ModEq] using same n
    · simp [on]

/-! ## States written twice -/

theorem smap_put_put {α : Type} (k : Nat) (v w : α) (m : SMap α) : (m.put k v).put k w = m.put k w := by
  induction m with
  | nil => simp [SMap.put]
  | cons e m ih =>
    obtain ⟨k', v'⟩ := e
    simp only [SMap.put]
    split_ifs <;> simp_all [SMap.put]

/-- A core changed by a change that changes nothing, and then by another, is changed by the other. -/
theorem modCore_after_none {f : Core → Core} (none : ∀ c, f c = c) (s : State) (k : Nat) (g : Core → Core) :
    (s.modCore k f).modCore k g = s.modCore k g := by
  have core : (s.modCore k f).coreAt k = s.coreAt k := by rw [State.coreAt_modCore_same, none]
  rw [State.modCore, core]
  simp only [State.modCore, State.setCore, smap_put_put]

/-- No flags set, then a change of the context: the change. -/
theorem modTask_after_no_flags (s : State) (g : TaskCtx → TaskCtx) :
    (s.modT (TaskCtx.flag 0#4)).modTask s.who g = s.modTask s.who g := by
  have none (c : Core) : c.modTask s.who.ctx (TaskCtx.flag 0#4) = c := by
    have same (t : TaskCtx) : t.flag 0#4 = t := by simp [TaskCtx.flag]
    cases s.who.ctx <;> simp [Core.modTask, same]
  exact modCore_after_none none s s.who.core _

/-- An instruction of a task context that sets no flags only writes its register. -/
theorem retire_setX_no_flags {s : State} (task : InTask s) (x : BitVec 4) (w n : Word) :
    ((s.modT (TaskCtx.flag 0#4)).setX x w).retire n = (s.setX x w).retire n := by
  have context : s.who.ctx ≠ .handler := of_decide_eq_false task
  by_cases zero : x = 0#4
  · rw [zero, State.setX_zero, State.setX_zero]
    refine congrArg State.prefer ?_
    show State.retireAt s.who n _ = _
    unfold State.retireAt
    split
    · contradiction
    · exact modTask_after_no_flags s _
  · refine congrArg (State.retire n) ?_
    show State.setXAt s.who x w _ = State.setXAt s.who x w s
    unfold State.setXAt
    rw [if_neg zero, if_neg zero]
    split
    · contradiction
    · exact modTask_after_no_flags s _

/-! ## Reductions (R44, R122, R123) -/

/-- What a lane enters a reduction as: an inactive one as z (R123). -/
def entryLane (s : State) (a : BitVec 3) (et : Nat) (p : BitVec 2) (z k : Nat) : Nat :=
  if s.task.active p k then laneAt (vr s a) (etBits et) k else z

theorem entryLane_lt (s : State) (a : BitVec 3) (et : Nat) (p : BitVec 2) {z : Nat} (small : z < 2 ^ etBits et) (k : Nat) :
    entryLane s a et p z k < 2 ^ etBits et := by
  unfold entryLane
  split
  · exact laneAt_lt _ _ _
  · exact small

/-- The value and the flags of a reduction. -/
def reduction (s : State) (a : BitVec 3) (et : Nat) (p : BitVec 2) (z : Nat) (f : Nat → Nat → Res) : Nat × BitVec 4 :=
  treeNode f (entryLane s a et p z) (lanes et).log2 0

/-- A reduction writes the root of the fixed tree and sets the tree's flags. -/
theorem reduce_of_clear {s : State} {x : BitVec 4} {a : BitVec 3} (task : InTask s) (clear : Clear s [x] [a]) {et : Nat} (small : et < 8)
    (p : BitVec 2) (z : Nat) (f : Nat → Nat → Res) : s.reduce x et a p z f = reduced s x et (reduction s a et p z f) := by
  obtain ⟨power, levels⟩ := lanes_eq_two_pow small
  have tree : treeOf f ((List.range (lanes et)).map fun k => plain (if s.task.active p k then s.task.lane a et k else z)) =
      nodeRes f (entryLane s a et p z) (lanes et).log2 0 := by
    rw [← treeOf_eq_node f _ levels, ← power]
    simp only [entryLane, lane_eq_laneAt]
  rw [State.reduce, vectorX_of_clear task clear]
  dsimp only
  rw [tree]
  rfl

/-- A reduction whose combinations set no flags only writes its register. -/
theorem reduced_no_flags {s : State} (task : InTask s) (x : BitVec 4) (a : BitVec 3) (et : Nat) (p : BitVec 2) (z : Nat)
    {f : Nat → Nat → Res} (noFlags : ∀ u v, (f u v).fl = 0#4) :
    reduced s x et (reduction s a et p z f) = (s.setX x (extendLane et (reduction s a et p z f).1)).retire 4#32 := by
  have none : (reduction s a et p z f).2 = 0#4 := treeNode_flags noFlags _ _ _
  rw [reduced, none]
  exact retire_setX_no_flags task x _ _

/-- The sum of the active lanes in the lane's width (R123). -/
theorem reduction_sum (s : State) (a : BitVec 3) (p : BitVec 2) {et : Nat} (small : et < 8) :
    (reduction s a et p 0 (sumIn (etBits et))).1 =
      wrap (etBits et) (((List.range (lanes et)).filter fun k => s.task.active p k).map (intAt s a et)).sum := by
  obtain ⟨power, -⟩ := lanes_eq_two_pow small
  have sum := sum_selected_emod (2 ^ etBits et) (s.task.active p) (fun k => (etInt_emod et (laneAt (vr s a) (etBits et) k)).symm) (lanes et)
  rw [reduction, treeNode_sum _ (entryLane_lt s a et p (Nat.two_pow_pos _)), ← power, ← wrap_natCast, wrap, wrap]
  simp only [Nat.mul_zero, Nat.zero_add, entryLane]
  exact congrArg Int.toNat sum

/-- The greatest active lane, or the least value of the type when none is active (R123). -/
theorem reduction_max (s : State) (a : BitVec 3) (p : BitVec 2) {et : Nat} (small : et < 8) :
    let m := etInt et (reduction s a et p (wrapInt (etBits et) (etMin et)) (pickGreater (etInt et))).1
    (reduction s a et p (wrapInt (etBits et) (etMin et)) (pickGreater (etInt et))).1 = wrap (etBits et) m ∧
    (∀ k, k < lanes et → Active s p k → intAt s a et k ≤ m) ∧
      (m = etMin et ∨ ∃ k, k < lanes et ∧ Active s p k ∧ intAt s a et k = m) := by
  obtain ⟨power, -⟩ := lanes_eq_two_pow small
  obtain ⟨bound, k, place, is⟩ := treeNode_max (etInt et) (entryLane s a et p (wrapInt (etBits et) (etMin et))) (lanes et).log2 0
  rw [← power] at bound place
  have active (k : Nat) (act : Active s p k) : entryLane s a et p (wrapInt (etBits et) (etMin et)) k = laneAt (vr s a) (etBits et) k :=
    if_pos ((active_iff s p k).2 act)
  unfold reduction
  refine ⟨?_, fun k inside act => ?_, ?_⟩
  · rw [is, wrap_etInt (entryLane_lt s a et p (wrapInt_lt _ _) k)]
  · rw [intAt, ← active k act]
    exact bound k (Nat.div_eq_of_lt inside)
  · rw [is]
    by_cases act : Active s p k
    · have positive : 0 < lanes et := power ▸ Nat.two_pow_pos _
      exact .inr ⟨k, ((Nat.div_eq_zero_iff.1 place).resolve_left positive.ne'), act, by rw [active k act, intAt]⟩
    · left
      rw [entryLane, if_neg (mt (active_iff s p k).1 act), etInt_wrap_etMin small]

theorem exec_vsumr {s : State} {x : BitVec 4} {a : BitVec 3} (task : InTask s) (clear : Clear s [x] [a]) (e : BitVec 3) (p : BitVec 2) :
    exec (.vsumr x e a p) s = .next (reduced s x e.toNat (reduction s a e.toNat p 0
      (if etFloat e.toNat then combineF e.toNat FVal.add else sumIn (etBits e.toNat)))) :=
  congrArg Host.Outcome.next (reduce_of_clear task clear e.isLt p 0 _)

theorem exec_vmaxr {s : State} {x : BitVec 4} {a : BitVec 3} (task : InTask s) (clear : Clear s [x] [a]) (e : BitVec 3) (p : BitVec 2) :
    exec (.vmaxr x e a p) s = .next (reduced s x e.toNat (reduction s a e.toNat p
      (if etFloat e.toNat then (etFmt e.toNat).infinity true else wrapInt (etBits e.toNat) (etMin e.toNat))
      (if etFloat e.toNat then combineF e.toNat FVal.greatest else pickGreater (etInt e.toNat)))) :=
  congrArg Host.Outcome.next (reduce_of_clear task clear e.isLt p _ _)

theorem laneReductions : Claims.LaneReductions := by
  unfold Claims.LaneReductions
  intro x e a p s task clear
  refine ⟨fun l => ?extract, ?count, fun integer => ?sum, fun integer => ?max, fun float => ⟨?floatSum, ?floatMax⟩⟩
  case extract =>
    show execVext x e l a p s = _
    rw [execVext, vectorX_of_clear task clear, lane_eq_laneAt]
    rfl
  case count =>
    show execVnzc x e a p s = _
    rw [execVnzc, vectorX_of_clear task clear]
    simp only [lane_eq_laneAt]
    rfl
  case sum =>
    rw [exec_vsumr task clear, integer, if_neg Bool.false_ne_true, reduced_no_flags task x a _ p _ fun _ _ => rfl,
      reduction_sum s a p e.isLt]
  case max =>
    obtain ⟨bits, greatest, attained⟩ := reduction_max s a p e.isLt
    refine ⟨_, ?_, greatest, attained⟩
    rw [← bits, exec_vmaxr task clear, integer, if_neg Bool.false_ne_true, if_neg Bool.false_ne_true,
      reduced_no_flags task x a _ p _ fun _ _ => rfl]
  case floatSum =>
    rw [exec_vsumr task clear, if_pos float]
    rfl
  case floatMax =>
    rw [exec_vmaxr task clear, if_pos float, if_pos float]
    rfl

/-- Settles O28: what is gathered, spread and selected, and the root of the fixed tree. -/
theorem selectsAndReductions : Obligations.SelectsAndReductions := ⟨selectsAndCompressions, laneReductions⟩

end Sys2Proof.Proofs
end

section
/-! SUPPORT. The slots of an array and the leases of its banks (R138, R147, R149, R150). -/

namespace Sys2Proof.Proofs

open Sys2Proof.Machine Sys2Proof.Claims

/-! ## Clusters and their banks -/

@[simp] theorem clusterAt_modCluster_same (s : State) (k : Nat) (f : Cluster → Cluster) :
    (s.modCluster k f).clusterAt k = f (s.clusterAt k) := SMap.get_put_same ..

@[simp] theorem bank_modBank_same (c : Cluster) (b : Bool) (f : Bank → Bank) : (c.modBank b f).bank b = f (c.bank b) := by
  cases b <;> rfl

/-- Two changes of a bank that agree on the bank as it is make the same state. -/
theorem modCluster_modBank_congr {s : State} {k : Nat} {b : Bool} {f g : Bank → Bank}
    (agree : f ((s.clusterAt k).bank b) = g ((s.clusterAt k).bank b)) :
    s.modCluster k (Cluster.modBank b f) = s.modCluster k (Cluster.modBank b g) := by
  unfold State.modCluster
  cases b
  all_goals
    unfold Cluster.bank at agree
    simp only [Cluster.modBank, if_true, if_false, Bool.false_eq_true] at agree ⊢
    rw [agree]

/-! ## Leases given back, renewed, requested and withdrawn (R149) -/

@[simp] theorem returnLease_held (b : Bank) : b.returnLease.held = none := by
  unfold Bank.returnLease; split
  · rfl
  · assumption

@[simp] theorem returnLease_leases (b : Bank) : b.returnLease.leases = b.held.toList ++ b.leases := by
  unfold Bank.returnLease; split <;> simp [*]

@[simp] theorem bank_endSlot (c : Cluster) (b : Bool) : c.endSlot.bank b = (c.bank b).returnLease := by cases b <;> rfl

theorem lease_of_holder {b : Bank} {i : Issuer} {m : Nat} (n : Nat) (held : b.held = some (i, m)) :
    b.lease i n = { b with held := some (i, n) } := by
  rw [Bank.lease, held]; exact if_pos rfl

/-- An issuer that neither holds the lease nor waits for it enters the queue behind the others. -/
theorem lease_of_other {b : Bank} {i : Issuer} (n : Nat) (free : ∀ m, b.held ≠ some (i, m)) (new : ∀ e ∈ b.leases, e.1 ≠ i) :
    b.lease i n = { b with leases := b.leases ++ [(i, n)] } := by
  have enters : b.request i n = { b with leases := b.leases ++ [(i, n)] } := if_neg (by rw [Bool.not_eq_true, List.any_eq_false]; exact fun e he => by simpa using new e he)
  unfold Bank.lease; split
  · rename_i j m held
    rw [if_neg fun same => free m (by rw [held, same]), enters]
  · exact enters

theorem dropLease_held_ne (b : Bank) (i : Issuer) (n : Nat) : (b.dropLease i).held ≠ some (i, n) := by
  unfold Bank.dropLease; dsimp only; split
  · split <;> simp_all
  · exact nofun

theorem mem_dropLease {b : Bank} {i : Issuer} {e : Issuer × Nat} : e ∈ (b.dropLease i).leases ↔ e ∈ b.leases ∧ e.1 ≠ i := by
  simp [Bank.dropLease]

/-! ## The bank of the issuing context (R138) -/

theorem withBank_of_held {s : State} {b : Bool} (held : BankHeld s b) (k : Bool → State → State) : s.withBank k = k b s := by
  rw [State.withBank, show (s.clusterAt (clusterOf s.who.core)).bankOf s.core.ctxid = some b from held]

theorem withBank_of_none {s : State} (none_ : (s.clusterAt (s.who.core / 16)).bankOf s.core.ctxid = none) (k : Bool → State → State) :
    s.withBank k = s.trap .tileBank 0#32 := by
  rw [State.withBank, show (s.clusterAt (clusterOf s.who.core)).bankOf s.core.ctxid = none from none_]

/-- LEASE makes of its bank what the request or the renewal makes of it, sets VL and completes. -/
theorem exec_lease {s : State} {b : Bool} {n : BitVec 6} {f : Bank → Bank} (task : InTask s) (held : BankHeld s b)
    (makes : (bankAt s b).lease s.who (n.toNat + 1) = f (bankAt s b)) :
    exec (.lease n) s = .next (((s.modCluster (s.who.core / 16) (Cluster.modBank b f)).modT fun t => { t with vl := true }).retire 4#32) := by
  rw [← modCluster_modBank_congr (s := s) makes]
  exact (inTask_runs task _).trans (congrArg Host.Outcome.next (withBank_of_held held _))

/-! ## Slots (R147) and grants (R149) -/

theorem exec_slotEnd {s : State} {k : Nat} (now : Performs s (.slotEnd k)) :
    exec .slotEnd s = .next (s.modCluster k fun c => { c.endSlot with slot := (c.slot + 1) % 16 }) := by
  show execSlotEnd s = _
  rw [execSlotEnd, now]; rfl

theorem exec_slotTableWrite {s : State} {k : Nat} {reg : Option (BitVec 4)} {w : Word} (now : Performs s (.slotTableWrite k reg w)) :
    ∃ t, exec .slotTableWrite s = .next t ∧ (t.clusterAt k).slot = 0 ∧
      (t.clusterAt k).pslen = (if reg = none then w.setWidth 16 else (s.clusterAt k).pslen) ∧
      (t.clusterAt k).pslot = reg.elim (s.clusterAt k).pslot fun j => (s.clusterAt k).pslot.set j.toFin (w.setWidth 2) := by
  show ∃ t, execSlotTableWrite s = _ ∧ _
  rw [execSlotTableWrite, now]
  refine ⟨_, rfl, ?_⟩
  rw [clusterAt_modCluster_same]
  cases reg <;> exact ⟨rfl, rfl, rfl⟩

theorem canGrant_of_head {s : State} {k : Nat} {b : Bool} {i : Issuer} {n : Nat} {rest : List (Issuer × Nat)}
    (head : ((s.clusterAt k).bank b).leases = (i, n) :: rest) (free : ((s.clusterAt k).bank b).held = none)
    (owns : (s.clusterAt k).slotBank = some b) (runs : (s.groupAt (s.coreAt i.core).group).state = .running) :
    s.canGrant k b = true := by
  simp [State.canGrant, head, free, owns, runs]

theorem slotsAndLeases : SlotsAndLeases := by
  refine ⟨fun s k now => ?slotEnd, fun s k w now => ?length, fun s k j w now => ?slot,
    fun n s b task held free new => exec_lease task held (lease_of_other _ free new),
    fun n s b task held ⟨m, holds⟩ => exec_lease task held (lease_of_holder _ holds), fun s b task held => ?unlease,
    fun s k b i n rest now head free owns runs => ?grant, fun n s task none_ => ?noBank⟩
  case slotEnd =>
    refine ⟨_, exec_slotEnd now, ⟨fun _ => rfl, fun _ _ => rfl⟩, by rw [clusterAt_modCluster_same], fun b => ?_⟩
    rw [clusterAt_modCluster_same,
      show ∀ (c : Cluster) n, ({ c with slot := n } : Cluster).bank b = c.bank b from fun _ _ => rfl, bank_endSlot]
    exact ⟨returnLease_held _, returnLease_leases _⟩
  case length => exact exec_slotTableWrite now
  case slot => simpa using exec_slotTableWrite now
  case unlease =>
    refine ⟨(s.modBank b (Bank.dropLease s.who)).modT TaskCtx.live,
      (inTask_runs task _).trans (congrArg Host.Outcome.next (withBank_of_held held _)), ?_, ?_⟩
    · exact congrArg TaskCtx.vl (task_modT (s := s.modBank b (Bank.dropLease s.who)) task TaskCtx.live)
    · have bank : bankAt ((s.modBank b (Bank.dropLease s.who)).modT TaskCtx.live) b = (bankAt s b).dropLease s.who := by
        show ((s.modBank b (Bank.dropLease s.who)).clusterAt (s.who.core / 16)).bank b = _
        exact (congrArg (Cluster.bank · b) (clusterAt_modCluster_same ..)).trans (bank_modBank_same ..)
      rw [bank]
      exact ⟨dropLease_held_ne _ _, fun e => mem_dropLease⟩
  case grant =>
    show execLeaseGrant s = _
    rw [execLeaseGrant, now]
    dsimp only
    rw [if_pos (canGrant_of_head head free owns runs)]
    exact congrArg Host.Outcome.next (modCluster_modBank_congr (by simp only [head]))
  case noBank =>
    exact ⟨(inTask_runs task _).trans (congrArg Host.Outcome.next (withBank_of_none none_ _)),
      (inTask_runs task _).trans (congrArg Host.Outcome.next (withBank_of_none none_ _))⟩

end Sys2Proof.Proofs
end

section
/-! SUPPORT. Array commands as they issue: their bank, their own check, the lease, their map, and acceptance (R138, R142 to R145, R149).
Settles O39. -/

namespace Sys2Proof.Proofs

open Sys2Proof.Machine Sys2Proof.Claims

/-! ## The order of the checks at issue -/

theorem leaseHeld_iff {s : State} {b : Bool} : (bankAt s b).held.map (·.1) = some s.who ↔ LeaseHeld s b := by
  simp [LeaseHeld]

section

variable {s : State} {op : Instr} {t x : Option (BitVec 4)} {check : Word → Bool} (task : InTask s) (clear : Clear s x.toList [])
include task clear

theorem arrayIssue_of_noBank (none_ : (s.clusterAt (s.who.core / 16)).bankOf s.core.ctxid = none) :
    s.arrayIssue op t x check = s.trap .tileBank 0#32 := by
  rw [State.arrayIssue, State.inTask_task _ _ task, withRegs_of_clear clear, withBank_of_none none_]

variable {b : Bool} (held : BankHeld s b)
include held

theorem arrayIssue_of_illegal (illegal : check (x.elim 0#32 s.x) = false) :
    s.arrayIssue op t x check = s.trap .tileShape (x.elim 0#32 s.x) := by
  rw [State.arrayIssue, State.inTask_task _ _ task, withRegs_of_clear clear, withBank_of_held held]
  cases x <;> exact if_pos (by simpa using illegal)

variable (legal : check (x.elim 0#32 s.x) = true)
include legal

/-- A command that passes its own check meets the lease, its map and its bank's stream, in this order (R142, R143, R149). -/
theorem arrayIssue_of_legal : s.arrayIssue op t x check =
    let enter (m : Option Rec) : State := s.await (s.accepts b) (State.acceptCmd b op m (x.elim 0#32 s.x))
    if (bankAt s b).held.map (·.1) = some s.who then
      t.elim (enter none) fun n => s.task.tm[n.toFin].elim (s.trap .tmapUnbound (n.setWidth 32)) fun m => enter (some m)
    else if ∃ e ∈ (bankAt s b).leases, e.1 = s.who then s.stall .retry
    else s.trap .prismLease 0#32 := by
  rw [State.arrayIssue, State.inTask_task _ _ task, withRegs_of_clear clear, withBank_of_held held]
  have bank : (s.clusterAt (clusterOf s.who.core)).bank b = bankAt s b := rfl
  have asks_iff : ((bankAt s b).leases.any fun e => e.1 == s.who) = decide (∃ e ∈ (bankAt s b).leases, e.1 = s.who) := by
    rw [Bool.eq_iff_iff, List.any_eq_true, decide_eq_true_iff]
    simp only [beq_iff_eq]
  cases x
  all_goals
    refine (if_neg (by simpa using legal)).trans ?_
    simp only [bank, asks_iff, Option.elim_none, Option.elim_some]
    by_cases holds : (bankAt s b).held.map (·.1) = some s.who
    · rw [if_pos holds, beq_iff_eq.2 holds]
      cases t with
      | none => rfl
      | some n => cases map : s.task.tm[n.toFin] <;> simp only [map, Option.elim_none, Option.elim_some]
    · rw [if_neg holds, beq_eq_false_iff_ne.2 holds]
      by_cases asks : ∃ e ∈ (bankAt s b).leases, e.1 = s.who
      · simp only [decide_eq_true asks, if_pos asks]
      · simp only [decide_eq_false asks, if_neg asks]

theorem arrayIssue_of_bound (lease : LeaseHeld s b) (bound : ∀ n ∈ t, s.task.tm[n.toFin] ≠ none) : s.arrayIssue op t x check =
    s.await (s.accepts b) (State.acceptCmd b op (t.bind fun n => s.task.tm[n.toFin]) (x.elim 0#32 s.x)) := by
  refine (arrayIssue_of_legal task clear held legal).trans ((if_pos (leaseHeld_iff.2 lease)).trans ?_)
  cases t with
  | none => rfl
  | some n =>
    obtain ⟨m, map⟩ := Option.ne_none_iff_exists'.1 (bound n rfl)
    simp only [map, Option.elim_some, Option.bind_some]

theorem arrayIssue_of_unbound {n : BitVec 4} (lease : LeaseHeld s b) (named : t = some n) (unbound : s.task.tm[n.toFin] = none) :
    s.arrayIssue op t x check = s.trap .tmapUnbound (n.setWidth 32) := by
  refine (arrayIssue_of_legal task clear held legal).trans ((if_pos (leaseHeld_iff.2 lease)).trans ?_)
  rw [named, Option.elim_some, unbound, Option.elim_none]

variable (other : ¬ LeaseHeld s b)
include other

theorem arrayIssue_of_request (asks : ∃ e ∈ (bankAt s b).leases, e.1 = s.who) : s.arrayIssue op t x check = s.stall .retry :=
  (arrayIssue_of_legal task clear held legal).trans ((if_neg (leaseHeld_iff.not.2 other)).trans (if_pos asks))

theorem arrayIssue_of_noLease (none_ : ∀ e ∈ (bankAt s b).leases, e.1 ≠ s.who) : s.arrayIssue op t x check = s.trap .prismLease 0#32 :=
  (arrayIssue_of_legal task clear held legal).trans
    ((if_neg (leaseHeld_iff.not.2 other)).trans (if_neg fun ⟨e, he, same⟩ => none_ e he same))

end

/-! ## Acceptance (R143 to R145, R148) -/

theorem accepts_of_free {s : State} {b : Bool} (task : InTask s) (free : StreamFree s b) : s.accepts b = true := by
  obtain ⟨running, owns, place, token, settled⟩ := free
  rw [State.accepts, settled_of_task task settled]
  simp [show s.bankStopped (clusterOf s.who.core) b = false from running, show (s.clusterAt (clusterOf s.who.core)).slotBank = some b from owns,
    show ((s.clusterAt (clusterOf s.who.core)).bank b).stream.length < 3 from place, token]

/-- A command that its bank's stream takes is accepted into it with its operands (R143, R144, R149). -/
theorem await_accepted {s : State} {b : Bool} (task : InTask s) (free : StreamFree s b) (i : Instr) (m : Option Rec) (w : Word) :
    s.await (s.accepts b) (State.acceptCmd b i m w) = accepted s b (commandOf s i m w) :=
  State.await_true _ _ _ (accepts_of_free task free)

/-! ## The instructions -/

theorem exec_arrayRow {i : Instr} {t x : Option (BitVec 4)} (row : arrayRow i = some (t, x)) (s : State) :
    exec i s = .next (s.arrayIssue i t x fun _ => true) := by
  unfold arrayRow at row
  split at row <;> cases row <;> rfl

/-- The values that MCFG takes: legal shapes with nothing above them (R139, R142). -/
def mcfgTakes (w : Word) : Bool := bits w.toNat 20 12 == 0 && (shapeOf w).legal

theorem exec_mcfg (m : BitVec 3) (x : BitVec 4) (s : State) :
    exec (.mcfg m x) s = .next (s.arrayIssue (.mcfg m x) none (some x) mcfgTakes) := rfl

theorem mcfgTakes_iff {w : Word} : mcfgTakes w = true ↔ w >>> 20 = 0#32 ∧ (shapeOf w).legal = true := by
  have high : bits w.toNat 20 12 = 0 ↔ w >>> 20 = 0#32 := by
    have size := w.isLt
    rw [← BitVec.toNat_inj, BitVec.toNat_ushiftRight, Nat.shiftRight_eq_div_pow, bits, BitVec.toNat_zero]
    omega
  simp [mcfgTakes, high]

theorem arrayCommandsIssue : ArrayCommandsIssue := by
  refine ⟨fun s i t x task none_ clear row => ?noBank, fun s b task held => ⟨fun i t x row clear lease free bound => ?row, fun m x clear => ?mcfg,
    fun i t x row clear other none_ => ?noLease, fun i t x row clear other asks => ?request, fun i n x row clear lease unbound => ?unbound⟩⟩
  case noBank =>
    obtain row | ⟨m, r, rfl, rfl⟩ := row
    · rw [exec_arrayRow row, arrayIssue_of_noBank task clear none_]
    · rw [exec_mcfg, arrayIssue_of_noBank task clear none_]
  case row => rw [exec_arrayRow row, arrayIssue_of_bound task clear held rfl lease bound, await_accepted task free]
  case mcfg =>
    have takes (high : (s.x x) >>> 20 = 0#32) (legal : (shapeOf (s.x x)).legal = true) : mcfgTakes ((some x).elim 0#32 s.x) = true :=
      mcfgTakes_iff.2 ⟨high, legal⟩
    have clear : Clear s (some x).toList [] := clear
    rw [exec_mcfg]
    refine ⟨fun high legal lease free => ?_, fun illegal => ?_, fun high legal other none_ => ?_⟩
    · rw [arrayIssue_of_bound task clear held (takes high legal) lease (by simp), await_accepted task free]; rfl
    · have refused : mcfgTakes (s.x x) = false := by
        rw [← Bool.not_eq_true, mcfgTakes_iff, not_and_or, Bool.not_eq_true]; exact illegal
      rw [arrayIssue_of_illegal task clear held refused]; rfl
    · rw [arrayIssue_of_noLease task clear held (takes high legal) other none_]
  case noLease => rw [exec_arrayRow row, arrayIssue_of_noLease task clear held rfl other none_]
  case request => rw [exec_arrayRow row, arrayIssue_of_request task clear held rfl other asks]
  case unbound => rw [exec_arrayRow row, arrayIssue_of_unbound task clear held rfl lease rfl unbound]

/-- Settles O39: what slots and requests make of a lease, and each check of a command in its order. -/
theorem leasesAndArrayIssue : Obligations.LeasesAndArrayIssue := ⟨slotsAndLeases, arrayCommandsIssue⟩

end Sys2Proof.Proofs
end

section
/-! SUPPORT. What a group comes to and what of it stays: its state, its kernel, its context and its signal, through the stop of its
transfers and its release (R322, R335). -/

namespace Sys2Proof.Proofs

open Sys2Proof.Machine Sys2Proof.Claims

/-! ## What messages and transfers leave of every group -/

/-- What of a group neither messages nor transfers change. -/
def role (gr : Group) := (gr.state, gr.kernel, gr.ctx, gr.signal)

/-- The same of every group. -/
def standing (s : State) := fun g => role (s.groupAt g)

theorem standing_congr {s t : State} (h : t.groups = s.groups) : standing t = standing s := by
  unfold standing State.groupAt; rw [h]

theorem standing_modGroup {f : Group → Group} (keeps : ∀ gr, role (f gr) = role gr) (s : State) (g : Nat) :
    standing (s.modGroup g f) = standing s := by
  funext h
  show role ((s.modGroup g f).groupAt h) = _
  rw [groupAt_modGroup]
  split
  · rename_i same; subst same; exact keeps _
  · rfl

theorem standing_of_kept {s t : State} (h : t.kept = s.kept) : standing t = standing s :=
  standing_congr (congrArg (fun k => k.1.2.1) h)

theorem standing_of_parts {s t : State} (h : t.parts = s.parts) : standing t = standing s := standing_congr (congrArg (fun k => k.2.1) h)

theorem standing_of_staff {s t : State} (h : staff t = staff s) : standing t = standing s := standing_congr (congrArg Prod.fst h)

theorem standing_modCore (s : State) (k : Nat) (f : Core → Core) : standing (s.modCore k f) = standing s := rfl

theorem standing_accept (s : State) (g a b : Nat) : standing (s.accept g a b) = standing s := by
  unfold State.accept; split
  · exact standing_modGroup (f := Group.countReceived b) (fun _ => rfl) ..
  · rfl

theorem standing_number (s : State) (k : Nat) (e : Event) : standing (s.number k e) = standing s := by
  unfold State.number; dsimp only; split <;> split <;> rfl

theorem standing_postTo (s : State) (g : Nat) (e : Event) : standing (s.postTo g e) = standing s := by
  unfold State.postTo; split
  · exact standing_modGroup (f := fun gr => { gr with heldMsgs := gr.heldMsgs ++ [e] }) (fun _ => rfl) ..
  · rfl

theorem standing_answer (s : State) (g a b : Nat) (e : Event) : standing (s.answer g a b e) = standing s := by
  rw [State.answer, standing_postTo, State.depart, standing_number]
  split
  · exact standing_modGroup (f := Group.countSent a) (fun _ => rfl) ..
  · rfl

theorem standing_tellCancel (s : State) (h : Header) : standing (s.tellCancel h) = standing s := by
  unfold State.tellCancel State.toReceiver; split <;> rfl

theorem standing_turnAway (s : State) (k : Nat) : standing (s.turnAway k) = standing s := by
  unfold State.turnAway; dsimp only
  refine (foldl_keeps standing _ (fun t m => ?_) _ _).trans (foldl_keeps standing _ (fun t m => ?_) _ _)
  · split
    · rfl
    · exact standing_answer ..
  · split
    · rfl
    · exact standing_postTo ..

/-! ## A transfer that is asked to stop (R201, R203) -/

theorem standing_dropSlotEvents (s : State) (k slot : Nat) : standing (s.dropSlotEvents k slot) = standing s := by
  unfold State.dropSlotEvents; dsimp only
  refine (standing_congr rfl).trans (foldl_keeps standing _ (fun t m => ?_) _ s)
  split
  · exact standing_accept ..
  · rfl

theorem standing_endTransfer (s : State) (k slot : Nat) : standing (s.endTransfer k slot) = standing s :=
  standing_dropSlotEvents s k slot

theorem standing_of_snd {α : Type} {p : α × State} {a : α} {s t : State} (is : p = (a, t)) (kept : standing p.2 = standing s) :
    standing t = standing s := by rw [← kept, is]

theorem standing_readSpots (s : State) (e : Engine) (k r code : Nat) (edge : Option Cause) (ps : List Spot) :
    standing (s.readSpots e k r code edge ps).2 = standing s := by
  unfold State.readSpots; dsimp only
  split
  · rfl
  · have read := standing_of_kept (State.engineRead_kept s e (s.coreAt k).ctxid r (ps.filterMap fun p =>
      match p with
      | .va a => some (a, codeSize code)
      | _ => none))
    split <;> rename_i got <;> exact standing_of_snd got read

theorem standing_writeSpots (s : State) (e : Engine) (k r : Nat) (ws : List (Spot × List Byte)) (counted : List Nat) :
    standing (s.writeSpots e k r ws counted).2 = standing s := by
  have write := standing_of_parts (State.engineWrite_parts s e (s.coreAt k).ctxid r (ws.filterMap fun (p, bs) =>
      match p with
      | .va a => some (a, bs)
      | _ => none) counted)
  unfold State.writeSpots; dsimp only
  split
  · rename_i done
    refine (foldl_keeps standing _ (fun t w => ?_) ws _).trans (standing_of_snd done write)
    split <;> rfl
  · exact write

theorem standing_strayUnit (k slot n : Nat) (s : State) (es : List Nat) : standing (s.strayUnit k slot n es) = standing s := by
  unfold State.strayUnit
  generalize flips : s.flip = p
  have flipped : standing p.2 = standing s := by rw [← flips]; rfl
  rw [← flipped]
  obtain ⟨new, t⟩ := p
  dsimp only
  split
  · rfl
  · split
    · rename_i vs u read
      have kept : standing u = standing t := standing_of_snd read (standing_readSpots ..)
      split
      · rename_i write
        exact (standing_of_snd write (standing_writeSpots ..)).trans kept
      · rfl
    · rfl

theorem standing_stray (s : State) (k slot : Nat) (first : Option Nat) : standing (s.stray k slot first) = standing s := by
  unfold State.stray; dsimp only
  split
  · rfl
  · exact foldl_keeps standing _ (fun t n => foldl_keeps standing _ (standing_strayUnit k slot n) _ t) _ s

theorem standing_poisonBar (s : State) (k slot : Nat) : standing (s.poisonBar k slot) = standing s := by
  unfold State.poisonBar; dsimp only; split <;> rfl

theorem standing_tryEnd (s : State) (k slot : Nat) : standing (s.tryEnd k slot) = standing s := by
  unfold State.tryEnd; dsimp only; split
  · exact standing_endTransfer ..
  · rfl

theorem standing_stopSend (s : State) (k slot : Nat) : standing (s.stopSend k slot) = standing s := by
  unfold State.stopSend; dsimp only
  rw [standing_endTransfer]
  split
  · exact standing_tellCancel ..
  · rfl

theorem standing_requestStop (s : State) (k slot : Nat) : standing (s.requestStop k slot) = standing s := by
  unfold State.requestStop; dsimp only
  split
  · rfl
  · split
    · split
      · exact standing_endTransfer ..
      · split
        · exact standing_endTransfer ..
        · exact standing_stopSend ..
      all_goals rfl
    · rw [standing_tryEnd, standing_poisonBar, standing_stray]; rfl

theorem standing_stopTransfers (s : State) (g : Nat) : standing (s.stopTransfers g) = standing s := by
  unfold State.stopTransfers
  refine foldl_keeps standing _ (fun t e => ?_) _ s
  obtain ⟨k, slot⟩ := e
  exact (standing_requestStop ..).trans (standing_modCore ..)

theorem standing_stopSaved (s : State) (g : Nat) : standing (s.stopSaved g) = standing s := by
  unfold State.stopSaved
  refine foldl_keeps standing _ (fun t e => ?_) _ s
  dsimp only
  split
  · split
    · split
      · exact standing_tellCancel ..
      · rfl
    · rfl
  · split <;> rfl

theorem standing_withdrawGroup (s : State) (g : Nat) : standing (s.withdrawGroup g) = standing s := by
  unfold State.withdrawGroup; dsimp only
  refine (foldl_keeps standing _ (fun t k => ?_) _ _).trans ((foldl_keeps standing _ (fun t i => ?_) _ _).trans ?_)
  · exact (standing_modCore ..).trans rfl
  · exact standing_modCore ..
  · rfl

/-! ## A group dissolved (R94, R335) -/

/-- The cores of a group turned off, and what it had parked elsewhere withdrawn (R335). -/
def emptied (g : Nat) (s : State) : State := (s.boundTo g).foldl (fun s k => (s.turnAway k).powerOff k) (s.unparkGroup g)

/-- A group's record once it is RELEASED (R335). -/
def laidDown (gr : Group) : Group :=
  { gr with state := .released, image := [], banks := [], heldMsgs := [], waveOn := false, spilled := false, restoring := false }

theorem noImage_staff (s : State) (ctx : Nat) : staff (s.noImage ctx) = staff s := by unfold State.noImage; split <;> rfl

theorem settleContext_staff (s : State) (ctx : Nat) : staff (s.settleContext ctx) = staff s := by
  unfold State.settleContext; dsimp only
  split
  · split <;> rfl
  · split
    · rfl
    · split <;> rfl
  · rfl

theorem staff_modGroup {s t : State} (h : staff t = staff s) (g : Nat) (f : Group → Group) :
    staff (t.modGroup g f) = staff (s.modGroup g f) := by
  obtain ⟨groups, cores⟩ := Prod.mk.inj h
  unfold staff State.modGroup State.groupAt
  rw [groups, cores]

/-- A release turns the group's cores off and lays its record down; nothing else of it touches a core or a group. -/
theorem dissolve_staff (s : State) (g : Nat) : staff (s.dissolve g) = staff ((emptied g s).modGroup g laidDown) := by
  unfold State.dissolve
  rw [settleContext_staff, noImage_staff]
  refine (foldl_keeps staff State.rewriteSlots (fun _ _ => rfl) _ _).trans ?_
  exact staff_modGroup (foldl_keeps staff (fun t k => t.modCluster k (Cluster.modBank (s.groupAt g).bank (Bank.forget g (s.boundTo g))))
    (fun _ _ => rfl) _ _) g laidDown

theorem standing_emptied (s : State) (g : Nat) : standing (emptied g s) = standing s :=
  foldl_keeps standing _ (fun t k => (standing_modCore _ k fun _ => {}).trans (standing_turnAway t k)) _ _

/-- A group dissolved is RELEASED, its kernel, context and signal as they were. -/
theorem role_dissolve (s : State) (g : Nat) :
    role ((s.dissolve g).groupAt g) = (.released, (s.groupAt g).kernel, (s.groupAt g).ctx, (s.groupAt g).signal) := by
  have laid : role ((s.dissolve g).groupAt g) = role (laidDown ((emptied g s).groupAt g)) := by
    refine (congrFun (standing_of_staff (dissolve_staff s g)) g).trans ?_
    exact congrArg role (State.groupAt_modGroup_same ..)
  have same : role ((emptied g s).groupAt g) = role (s.groupAt g) := congrFun (standing_emptied s g) g
  rw [laid]
  simp only [role, Prod.mk.injEq] at same
  obtain ⟨-, kernel, ctx, signal⟩ := same
  simp only [role, laidDown, kernel, ctx, signal]

/-- Turning cores off one behind another leaves each of them empty. -/
theorem coreAt_turnedOff {ks : List Nat} {k : Nat} (s : State) (mine : k ∈ ks ∨ s.coreAt k = {}) :
    (ks.foldl (fun s k => (s.turnAway k).powerOff k) s).coreAt k = {} := by
  induction ks generalizing s with
  | nil => exact mine.resolve_left (by simp)
  | cons j ks ih =>
    refine ih _ ?_
    by_cases same : j = k
    · subst same
      exact .inr (State.coreAt_setCore_same ..)
    · refine mine.imp (fun h => (List.mem_cons.1 h).resolve_left (Ne.symm same)) fun empty => ?_
      have kept := congrFun (congrArg Prod.fst ((apart_powerOff (s.turnAway j) j).trans (apart_turnAway s j))) k
      simpa [apart, Ne.symm same, empty] using kept

theorem coreAt_dissolve {s : State} {g k : Nat} (mine : k ∈ s.boundTo g) : (s.dissolve g).coreAt k = {} :=
  (coreAt_congr (congrArg Prod.snd (dissolve_staff s g)) k).trans (coreAt_turnedOff _ (.inl mine))

/-! ## The end of a launch (R301, R322) -/

theorem endInflight_staff (s : State) (q : Nat) : staff (s.endInflight q) = staff s := by
  unfold State.endInflight; dsimp only; split
  · exact requestPass_staff _
  · rfl

theorem requestPass_phys (s : State) : s.requestPass.phys = s.phys := by unfold State.requestPass; split <;> rfl

theorem unbind_phys (s : State) (q : Nat) : (s.unbind q).phys = s.phys := by unfold State.unbind; split <;> rfl

theorem freeWord_phys (s : State) : s.freeWord.2.phys = s.phys := rfl

theorem queueError_phys (s : State) (q : Nat) (e : QErr) (i d : Word) : (s.queueError q e i d).phys = s.phys := by
  unfold State.queueError; dsimp only; split
  · rfl
  · rw [requestPass_phys, State.raiseMsix_phys]
    split
    · rw [State.count_phys, State.count_phys, unbind_phys, State.modQueue_phys, freeWord_phys]
    · rw [State.count_phys, unbind_phys, State.modQueue_phys, freeWord_phys]

theorem endInflight_phys (s : State) (q : Nat) : (s.endInflight q).phys = s.phys := by
  unfold State.endInflight; dsimp only; split
  · exact requestPass_phys _
  · rfl

theorem standing_endLaunch (s : State) (g : Nat) : standing (s.endLaunch g) = standing s := by
  unfold State.endLaunch; dsimp only; split
  · refine (standing_of_staff (endInflight_staff ..)).trans ?_
    exact standing_modGroup (f := fun gr => { gr with counted := false }) (fun _ => rfl) ..
  · rfl

theorem endLaunch_phys (s : State) (g : Nat) : (s.endLaunch g).phys = s.phys := by
  unfold State.endLaunch; dsimp only; split
  · exact endInflight_phys ..
  · rfl

/-- A launch that is aborted: its kernel is ABORTED unless it had ended, and its group is as it was. -/
theorem role_abortKernel (s : State) (g : Nat) : role ((s.abortKernel g).groupAt g) = ((s.groupAt g).state,
    (if (s.groupAt g).kernel.live then KState.aborted else (s.groupAt g).kernel), (s.groupAt g).ctx, (s.groupAt g).signal) := by
  unfold State.abortKernel; dsimp only; split
  · refine (congrFun (standing_of_staff (queueError_staff ..)) g).trans ?_
    exact congrArg role (State.groupAt_modGroup_same ..)
  · rfl

theorem abortKernel_phys (s : State) (g : Nat) : (s.abortKernel g).phys = s.phys := by
  unfold State.abortKernel; dsimp only; split
  · exact queueError_phys ..
  · rfl

/-- A launch that is COMPLETE and counts no more (R322). -/
def completed (g : Nat) (s : State) : State := ((s.modGroup g fun gr => { gr with kernel := .complete }).endLaunch g).dropFetches (.group g)

theorem role_completed (s : State) (g : Nat) :
    role ((completed g s).groupAt g) = ((s.groupAt g).state, .complete, (s.groupAt g).ctx, (s.groupAt g).signal) :=
  (congrFun (standing_endLaunch ..) g).trans (congrArg role (State.groupAt_modGroup_same ..))

theorem completed_phys (s : State) (g : Nat) : (completed g s).phys = s.phys := endLaunch_phys ..

theorem completeLaunch_silent {s : State} {g : Nat} (silent : (s.groupAt g).signal = none) : s.completeLaunch g = completed g s := by
  unfold State.completeLaunch
  simp only [silent]
  rfl

theorem completeLaunch_signals {s w : State} {g va : Nat} {v : BitVec 64} (signal : (s.groupAt g).signal = some (va, v))
    (write : s.engineWrite (.group g) (s.groupAt g).ctx 0 [(va, leBytes 8 v.toNat)] = (.done [], w)) :
    s.completeLaunch g = completed g w := by
  have writes : s.signalWrite (.group g) (s.groupAt g).ctx va false v = (.done [], w) := write
  unfold State.completeLaunch
  simp only [signal, writes]
  rfl

end Sys2Proof.Proofs
end

section
/-! SUPPORT. Termination waves, the drain of a launch, the release of a group, and its watchdog (R94, R189, R320 to R322, R335). Settles
O56. -/

namespace Sys2Proof.Proofs

open Sys2Proof.Machine Sys2Proof.Claims

/-! ## Termination waves (R189, R321) -/

/-- A group's record as a wave starts (R321). -/
def waveBegun (gr : Group) : Group :=
  { gr with wave := gr.wave + 1, waveOn := true, answered := 0, sumIdle := true, sumSent := 0#32, sumRecv := 0#32, sumWrap := false }

/-- A core's answer in the sums of a wave (R321). -/
def waveAnswered (k : Nat) (n : Counts) (idle : Bool) (gr : Group) : Group :=
  { gr with answered := gr.answered + 1, sumIdle := gr.sumIdle && idle, sumSent := gr.sumSent + n.sent,
            sumRecv := gr.sumRecv + n.received, sumWrap := gr.sumWrap || n.wrapped, counts := gr.counts.put k { n with wrapped := false } }

/-- A group's record as a wave ends: its sums are those of the last wave (R321). -/
def waveEnded (gr : Group) : Group := { gr with waveOn := false, lastWave := some (gr.sumIdle, gr.sumSent, gr.sumRecv) }

theorem groupAt_modGroup_postAll (s : State) (g : Nat) (f : Group → Group) (es : List Event) :
    ((s.modGroup g f).postAll es).groupAt g = f (s.groupAt g) := State.groupAt_modGroup_same ..

theorem groupAt_modGroup_post (s : State) (g : Nat) (f : Group → Group) (e : Event) :
    ((s.modGroup g f).post e).groupAt g = f (s.groupAt g) := State.groupAt_modGroup_same ..

theorem terminationWave_begins {s : State} {g : Nat} (now : Performs s (.terminationWave g)) (running : (s.groupAt g).state = .running)
    (kernel : (s.groupAt g).kernel = .running) (off : (s.groupAt g).waveOn = false) : exec .terminationWave s =
      .next ((s.modGroup g waveBegun).postAll ((List.range (s.groupAt g).cores.length).map (.terminationProbe g))) := by
  show execTerminationWave s = _
  rw [execTerminationWave, now]
  exact if_neg (by simp [running, kernel, off])

theorem terminationProbe_answers {s : State} {g rank k : Nat} (now : Performs s (.terminationProbe g rank))
    (on : (s.groupAt g).waveOn = true) (core : (s.groupAt g).cores[rank]? = some k) :
    let t := s.modGroup g (waveAnswered k (SMap.get {} (s.groupAt g).counts k) (s.coreIdle g k))
    exec .terminationProbe s =
      .next (if (s.groupAt g).answered + 1 = (s.groupAt g).cores.length then t.post (.terminationWaveEnd g) else t) := by
  have counted : ((s.modGroup g (waveAnswered k (SMap.get {} (s.groupAt g).counts k) (s.coreIdle g k))).groupAt g).answered =
      (s.groupAt g).answered + 1 := by rw [State.groupAt_modGroup_same]; rfl
  show execTerminationProbe s = _
  rw [execTerminationProbe, now, ← counted]
  simp only [on, core]
  rfl

/-- What two waves must have found for the tree to fire (R321). -/
def Fires (gr : Group) : Prop := gr.sumIdle = true ∧ gr.sumSent = gr.sumRecv ∧ gr.lastWave = some (true, gr.sumSent, gr.sumRecv)

section
variable {s : State} {g : Nat} (now : Performs s (.terminationWaveEnd g)) (running : (s.groupAt g).state = .running)
  (on : (s.groupAt g).waveOn = true) (all : (s.groupAt g).answered = (s.groupAt g).cores.length)
include now running on all

theorem waveEnd_wrapped (wrap : (s.groupAt g).sumWrap = true) : exec .terminationWaveEnd s =
    .next ((s.modGroup g waveEnded).escalate g .termImbalance ⟨0, 0#32, 0#32, 0, 0, false⟩) := by
  show execTerminationWaveEnd s = _
  rw [execTerminationWaveEnd, now]
  exact (if_neg (by simp [running, on, all])).trans (if_pos wrap)

theorem waveEnd_fires (plain : (s.groupAt g).sumWrap = false) (fires : Fires (s.groupAt g)) : exec .terminationWaveEnd s =
    .next ((s.modGroup g waveEnded).modGroup g fun gr => { gr with kernel := .draining }) := by
  show execTerminationWaveEnd s = _
  rw [execTerminationWaveEnd, now]
  exact (if_neg (by simp [running, on, all])).trans ((if_neg (by simp [plain])).trans (if_pos fires))

theorem waveEnd_goesOn (plain : (s.groupAt g).sumWrap = false) (misses : ¬ Fires (s.groupAt g)) : exec .terminationWaveEnd s =
    .next ((s.modGroup g waveEnded).post (.terminationWave g)) := by
  show execTerminationWaveEnd s = _
  rw [execTerminationWaveEnd, now]
  exact (if_neg (by simp [running, on, all])).trans ((if_neg (by simp [plain])).trans (if_neg misses))

end

/-- Under policy 00 an escalation leaves its group FAULTED (R277, R280). -/
theorem escalate_faulted {s : State} {g : Nat} {cause : Cause} {r : FaultRec} (policy : (s.contextAt (s.groupAt g).ctx).policy = 0#2)
    (live : (s.groupAt g).state.live = true) : ((s.escalate g cause r).groupAt g).state = .faulted := by
  rw [escalate_policy_zero policy live]
  exact (failGroup_live (s := (s.writeFault (s.groupAt g).ctx g { r with cause := cause.code }).count cause) live).1

/-! ## The drain (R299, R322) -/

theorem running_of_drainDone {s : State} {g : Nat} (done : s.drainDone g = true) : (s.groupAt g).state = .running := by
  simp only [State.drainDone, Bool.and_eq_true, beq_iff_eq] at done
  obtain ⟨⟨⟨-, running⟩, -⟩, -⟩ := done
  exact running

section
variable {s : State} {g : Nat} (now : Performs s (.drainEnd g))
include now

/-- The oldest fault that a drained launch holds escalates (R322). -/
theorem drainEnd_escalates (done : s.drainDone g = true) {i : Issuer} {w : Word} (held : s.oldestFault g = some (i, w)) :
    exec .drainEnd s = .next (s.escalateAt i .faultAtRelease w 0#32) := by
  show execDrainEnd s = _
  rw [execDrainEnd, now]
  refine (if_neg (by simp [running_of_drainDone done])).trans ((if_neg (by simp [done])).trans ?_)
  simp only [held]
  rfl

/-- Without a held fault a drained launch releases its group and completes (R322). -/
theorem drainEnd_dissolves (done : s.drainDone g = true) (none : s.oldestFault g = none) :
    exec .drainEnd s = .next ((s.dissolve g).completeLaunch g) := by
  show execDrainEnd s = _
  rw [execDrainEnd, now]
  refine (if_neg (by simp [running_of_drainDone done])).trans ((if_neg (by simp [done])).trans ?_)
  simp only [none]
  rfl

section
variable (released : (s.groupAt g).state = .released) (draining : (s.groupAt g).kernel = .draining)
include released draining

/-- The signal of a group already RELEASED is written in a further step (R299, R322). -/
theorem drainEnd_completes (lives : ¬((s.contextAt (s.groupAt g).ctx).state = .terminated ∨ (s.contextAt (s.groupAt g).ctx).state = .free)) :
    exec .drainEnd s = .next (s.completeLaunch g) := by
  show execDrainEnd s = _
  rw [execDrainEnd, now]
  exact (if_pos ⟨released, draining⟩).trans (if_neg lives)

theorem drainEnd_aborts (ended : (s.contextAt (s.groupAt g).ctx).state = .terminated ∨ (s.contextAt (s.groupAt g).ctx).state = .free) :
    exec .drainEnd s = .next (((s.dropFetches (.group g)).endLaunch g).abortKernel g) := by
  show execDrainEnd s = _
  rw [execDrainEnd, now]
  exact (if_pos ⟨released, draining⟩).trans (if_pos ended)

end

end

/-- The launch of a group whose context has ended is ABORTED, and memory is as it was (R322). -/
theorem aborted_draining {s : State} {g : Nat} (draining : (s.groupAt g).kernel = .draining) :
    ((((s.dropFetches (.group g)).endLaunch g).abortKernel g).groupAt g).kernel = .aborted ∧
      (((s.dropFetches (.group g)).endLaunch g).abortKernel g).phys = s.phys := by
  have ended : role (((s.dropFetches (.group g)).endLaunch g).groupAt g) = role (s.groupAt g) :=
    (congrFun (standing_endLaunch (s.dropFetches (.group g)) g) g).trans rfl
  have aborted := role_abortKernel ((s.dropFetches (.group g)).endLaunch g) g
  simp only [role, Prod.mk.injEq] at ended aborted
  obtain ⟨-, kernel, -, -⟩ := ended
  rw [kernel, draining] at aborted
  exact ⟨aborted.2.1, (abortKernel_phys ..).trans (endLaunch_phys ..)⟩

/-- A launch whose group has been dissolved is COMPLETE once what was left to write is written (R322). -/
theorem completed_dissolved {s w : State} {g : Nat} (groups : w.groups = (s.dissolve g).groups) :
    ((completed g w).groupAt g).state = .released ∧ ((completed g w).groupAt g).kernel = .complete := by
  have same : w.groupAt g = (s.dissolve g).groupAt g := by unfold State.groupAt; rw [groups]
  have released := role_dissolve s g
  have complete := role_completed w g
  simp only [role, Prod.mk.injEq] at released complete
  exact ⟨complete.1.trans ((congrArg Group.state same).trans released.1), complete.2.1⟩

/-- Each part is by the event's own equation and what it leaves of the group's record. -/
theorem groupsTerminate : Claims.GroupsTerminate := by
  refine ⟨fun s g now running kernel off => ?begins, fun s g rank k now on core => ?answers,
    fun s g now running on all plain => ⟨fun fires => ?fires, fun misses => ?goesOn⟩,
    fun s g now running on all wrap => ⟨?wraps, fun policy => ?faults⟩,
    fun s g now done => ⟨fun i w held => ?escalates, fun none silent => ?silent, fun va v w none signal write groups => ?signals⟩,
    fun s g now released draining => ⟨fun lives => ?completes, fun ended => ?aborts⟩⟩
  case begins =>
    refine ⟨_, terminationWave_begins now running kernel off, ?_, ?_, rfl, rfl⟩ <;> rw [groupAt_modGroup_postAll] <;> rfl
  case answers =>
    refine ⟨_, terminationProbe_answers now on core, ?_⟩
    split
    · rename_i last
      rw [groupAt_modGroup_post]
      exact ⟨rfl, rfl, rfl, rfl, rfl, iff_of_true last rfl⟩
    · rename_i more
      rw [State.groupAt_modGroup_same]
      exact ⟨rfl, rfl, rfl, rfl, rfl, iff_of_false more (by simp)⟩
  case fires =>
    refine ⟨_, waveEnd_fires now running on all plain fires, ?_, ?_, rfl⟩ <;> simp [waveEnded]
  case goesOn =>
    refine ⟨_, waveEnd_goesOn now running on all plain misses, ?_, ?_, rfl⟩ <;> rw [groupAt_modGroup_post] <;> rfl
  case wraps => exact waveEnd_wrapped now running on all wrap
  case faults =>
    refine escalate_faulted ?_ ?_
    · rw [State.groupAt_modGroup_same]; exact policy
    · rw [State.groupAt_modGroup_same, running]; rfl
  case escalates => exact drainEnd_escalates now done held
  case silent =>
    have released := role_dissolve s g
    simp only [role, Prod.mk.injEq] at released
    obtain ⟨-, -, -, signal⟩ := released
    refine ⟨completed g (s.dissolve g), (drainEnd_dissolves now done none).trans ?_, completed_dissolved rfl⟩
    rw [completeLaunch_silent (signal.trans silent)]
  case signals =>
    have released := role_dissolve s g
    simp only [role, Prod.mk.injEq] at released
    obtain ⟨-, -, ctx, still⟩ := released
    obtain ⟨state, kernel⟩ := completed_dissolved groups
    refine ⟨completed g w, (drainEnd_dissolves now done none).trans ?_, state, kernel, completed_phys ..⟩
    rw [completeLaunch_signals (still.trans signal) (by rw [ctx]; exact write)]
  case completes => exact drainEnd_completes now released draining (not_or.2 lives)
  case aborts => exact ⟨_, drainEnd_aborts now released draining ended, aborted_draining draining⟩

/-! ## Release (R94, R335) -/

/-- A group that still runs or is being bound becomes FAULTED as its release begins (R335). -/
def faulted (g : Nat) (s : State) : State := if (s.groupAt g).state.live then s.modGroup g fun gr => { gr with state := .faulted } else s

/-- A group whose release is due, with its waits withdrawn and its transfers stopped (R335). -/
def halted (g : Nat) (s : State) : State := (((faulted g s).withdrawGroup g).unparkGroup g).stopTransfers g

theorem halted_kernel (s : State) (g : Nat) : ((halted g s).groupAt g).kernel = (s.groupAt g).kernel := by
  have kept : standing (halted g s) = standing (faulted g s) :=
    (standing_stopTransfers ..).trans ((standing_congr rfl).trans (standing_withdrawGroup ..))
  refine (congrArg (fun r => r.2.1) (congrFun kept g)).trans ?_
  show ((faulted g s).groupAt g).kernel = _
  unfold faulted
  split
  · rw [State.groupAt_modGroup_same]
  · rfl

section
variable {s : State} {g : Nat} (now : Performs s (.groupRelease g)) (due : s.releaseDue g = true)
include now due

/-- The group's contexts first come to rest by steps 1 to 4 of R283 (R335). -/
theorem groupRelease_withdraws (lives : ¬ (s.contextAt (s.groupAt g).ctx).state = .terminated) (bare : (s.groupAt g).image = [])
    (busy : s.stilled g = false) : exec .groupRelease s = .next ((s.withdrawGroup g).postOnce (.groupRelease g)) := by
  show execGroupRelease s = _
  rw [execGroupRelease, now]
  exact (if_neg (by simp [due])).trans (if_pos (by simp [lives, bare, busy]))

section
variable (rests : (s.contextAt (s.groupAt g).ctx).state = .terminated ∨ (s.groupAt g).image ≠ [] ∨ s.stilled g = true)
include rests

/-- Then its transfers stop (R335). -/
theorem groupRelease_waits (moves : ¬ (halted g s).stopped g = true) :
    exec .groupRelease s = .next ((halted g s).postOnce (.groupRelease g)) := by
  show execGroupRelease s = _
  rw [execGroupRelease, now]
  refine (if_neg (by simp [due])).trans ((if_neg ?_).trans (if_pos ?_))
  · rcases rests with h | h | h <;> simp [h]
  · exact congrArg (!·) (Bool.eq_false_iff.2 moves)

/-- Once nothing of it is under way it is dissolved and its kernel ended (R322, R335). -/
theorem groupRelease_dissolves (stopped : (halted g s).stopped g = true) :
    exec .groupRelease s = .next (((((halted g s).stopSaved g).dissolve g).endLaunch g).abortKernel g) := by
  show execGroupRelease s = _
  rw [execGroupRelease, now]
  refine (if_neg (by simp [due])).trans ((if_neg ?_).trans (if_neg ?_))
  · rcases rests with h | h | h <;> simp [h]
  · exact fun h => Bool.false_ne_true ((congrArg (!·) stopped).symm.trans h)

end

end

/-- A group dissolved and its launch ended: RELEASED, its kernel ABORTED unless it had ended (R322, R335). -/
theorem released_aborted (s : State) (g : Nat) :
    let u := (((s.stopSaved g).dissolve g).endLaunch g).abortKernel g
    (u.groupAt g).state = .released ∧
      (u.groupAt g).kernel = (if (s.groupAt g).kernel.live then KState.aborted else (s.groupAt g).kernel) := by
  have kept : ((s.stopSaved g).groupAt g).kernel = (s.groupAt g).kernel := congrArg (fun r => r.2.1) (congrFun (standing_stopSaved s g) g)
  have ended : role ((((s.stopSaved g).dissolve g).endLaunch g).groupAt g) = role (((s.stopSaved g).dissolve g).groupAt g) :=
    congrFun (standing_endLaunch ..) g
  have aborted := role_abortKernel (((s.stopSaved g).dissolve g).endLaunch g) g
  rw [role_dissolve, kept] at ended
  simp only [role, Prod.mk.injEq] at ended aborted
  obtain ⟨released, kernel, -⟩ := ended
  obtain ⟨state, killed, -⟩ := aborted
  rw [kernel] at killed
  exact ⟨state.trans released, killed⟩

theorem groupsAreReleased : Claims.GroupsAreReleased := by
  refine ⟨fun s g now due => ⟨fun lives bare busy => groupRelease_withdraws now due lives bare busy,
    fun rests => ⟨fun rest => ?releases, fun moves => ?waits⟩⟩, fun s g => ⟨?state, fun k mine => ?cores⟩,
    fun s g now running limit => ?watchdog⟩
  case releases =>
    refine ⟨_, groupRelease_dissolves now due rests rest, ?_⟩
    rw [← halted_kernel s g]
    exact released_aborted (halted g s) g
  case waits => exact groupRelease_waits now due rests moves
  case state => exact congrArg Prod.fst (role_dissolve s g)
  case cores =>
    rw [coreAt_dissolve mine]
    exact ⟨rfl, rfl, rfl⟩
  case watchdog =>
    show execWatchdog s = _
    rw [execWatchdog, now]
    exact if_pos ⟨running, limit⟩

/-- Settles O56: waves, the drain and releases by their equations, and the group's record by what each of their parts leaves of it. -/
theorem groupsEnd : Obligations.GroupsEnd := ⟨groupsTerminate, groupsAreReleased⟩

end Sys2Proof.Proofs
end

section
/-! SUPPORT. The launch of a transfer, and what CPTEST and CPWAIT make of its ID (R191, R192, R199, R203, R207). Settles O42. -/

namespace Sys2Proof.Proofs

open Sys2Proof.Machine Sys2Proof.Claims

/-! ## Registers and transfer slots -/

@[simp] theorem modTask_slots (s : State) (i : Issuer) (f : TaskCtx → TaskCtx) (k : Nat) :
    ((s.modTask i f).coreAt k).slots = (s.coreAt k).slots := by
  rw [coreAt_modTask]; split
  · cases i.ctx <;> rfl
  · rfl

@[simp] theorem setX_slots (s : State) (d : BitVec 4) (w : Word) (k : Nat) : ((s.setX d w).coreAt k).slots = (s.coreAt k).slots := by
  by_cases hd : d = 0#4
  · rw [hd, State.setX_zero]
  · rw [coreAt_setX s hd]; split
    · cases s.who.ctx <;> rfl
    · rfl

theorem slotAt_congr {c c' : Core} (h : c'.slots = c.slots) (slot : Nat) : c'.slotAt slot = c.slotAt slot := by
  unfold Core.slotAt; rw [h]

theorem slotAt_modSlot (c : Core) (slot j : Nat) (f : Transfer → Transfer) :
    (c.modSlot slot f).slotAt j = if slot = j then f (c.slotAt slot) else c.slotAt j := SMap.get_put ..

/-- All of memory: physical memory and the local memory of every core. -/
def memory (s : State) := (s.phys, fun k => (s.coreAt k).lm)

theorem sameMemory_of_memory {s t : State} (h : memory t = memory s) : SameMemory s t := by
  obtain ⟨phys, lm⟩ := Prod.mk.inj h
  exact ⟨fun a => by rw [phys], fun k a => by rw [congrFun lm k]⟩

theorem memory_modCore {f : Core → Core} (keeps : ∀ c, (f c).lm = c.lm) (s : State) (k : Nat) : memory (s.modCore k f) = memory s :=
  Prod.ext rfl (funext fun j => coreAt_modCore_keeps Core.lm keeps s k j)

@[simp] theorem memory_modTask (s : State) (i : Issuer) (f : TaskCtx → TaskCtx) : memory (s.modTask i f) = memory s :=
  memory_modCore (fun _ => Core.modTask_lm ..) s _

@[simp] theorem memory_modSlot (s : State) (k slot : Nat) (f : Transfer → Transfer) : memory (s.modSlot k slot f) = memory s :=
  memory_modCore (f := Core.modSlot slot f) (fun _ => rfl) s k

@[simp] theorem memory_setX (s : State) (d : BitVec 4) (w : Word) : memory (s.setX d w) = memory s :=
  Prod.ext (setX_phys ..) (funext fun _ => setX_lm ..)

/-- A register of a task context reads as it was written; x0 reads zero (R46). -/
theorem x_setX_of_task {s : State} (task : InTask s) (d : BitVec 4) (w : Word) : (s.setX d w).x d = if d = 0#4 then 0#32 else w := by
  have ctx := ctx_of_task task
  by_cases hd : d = 0#4
  · rw [hd, State.x_zero, if_pos rfl]
  · rw [State.x, State.setX_who, xAt_of_task _ ctx, if_neg hd, if_neg hd, State.taskAt, coreAt_setX s hd, if_pos rfl]
    rcases hx : s.who.ctx with _ | _ | _
    case handler => exact absurd hx ctx
    all_goals simp [writeReg, Core.task, Core.modTask]

theorem task_setX_ocnt (s : State) (d : BitVec 4) (w : Word) : (s.setX d w).task.ocnt = s.task.ocnt := by
  rw [State.task, State.setX_who]
  have same := congrArg TaskCtx.ocnt (setX_sameTask s d w s.who)
  exact same

/-! ## Launch (R192, R199) -/

/-- The slot of a transfer that the issuing context launches (R192). -/
def launchedSlot (s : State) (slot : Nat) (x : Transfer) : Transfer :=
  { x with state := .active, gen := (s.core.slotAt slot).gen + 1#8, launched := true, tc := s.who.ctx == .tc1, order := s.launchCount }

/-- The slot taken, and the transfer counted at its issuer (R74, R192). -/
def seated (slot : Nat) (x : Transfer) (s : State) : State :=
  (({ s with launchCount := s.launchCount + 1 } : State).modSlot s.who.core slot fun _ => launchedSlot s slot x).modT fun t =>
    { t with ocnt := { t.ocnt with copies := t.ocnt.copies + 1 } }

/-- A launch but for the retirement of the read that makes it. -/
def launching (d : BitVec 4) (slot : Nat) (x : Transfer) (s : State) : State :=
  (seated slot x s).setX d (transferId slot ((s.core.slotAt slot).gen + 1#8))

theorem slotAt_launching (d : BitVec 4) (slot : Nat) (x : Transfer) (s : State) (j : Nat) :
    (launching d slot x s).core.slotAt j = if slot = j then launchedSlot s slot x else s.core.slotAt j := by
  have slots : (launching d slot x s).core.slots = (s.core.modSlot slot fun _ => launchedSlot s slot x).slots := by
    rw [State.core, launching, State.setX_who, setX_slots, seated, State.modT, modTask_slots, State.modSlot]
    exact congrArg Core.slots (State.coreAt_modCore_same ..)
  rw [slotAt_congr slots, slotAt_modSlot]

theorem seated_ocnt {slot : Nat} {s : State} (x : Transfer) (task : InTask s) :
    (seated slot x s).task.ocnt = { s.task.ocnt with copies := s.task.ocnt.copies + 1 } := by
  have counts := congrArg TaskCtx.ocnt (task_modT (s := ({ s with launchCount := s.launchCount + 1 } : State).modSlot s.who.core slot
    fun _ => launchedSlot s slot x) task fun t => { t with ocnt := { t.ocnt with copies := t.ocnt.copies + 1 } })
  refine counts.trans ?_
  dsimp only
  rw [show (({ s with launchCount := s.launchCount + 1 } : State).modSlot s.who.core slot fun _ => launchedSlot s slot x).task = s.task from
    taskAt_modSlot ..]

theorem launching_launched {d : BitVec 4} {slot : Nat} {s : State} (x : Transfer) (task : InTask s) :
    Launched s d slot (launching d slot x s) := by
  have own : (launching d slot x s).core.slotAt slot = launchedSlot s slot x := by rw [slotAt_launching, if_pos rfl]
  refine ⟨?state, ?gen, ?launched, ?tc, ?ocnt, ?id, fun j other => ?others, ?memory⟩
  case others => rw [slotAt_launching, if_neg other.symm]
  case id => rw [own]; exact x_setX_of_task (s := seated slot x s) task d _
  case ocnt => rw [launching, task_setX_ocnt, seated_ocnt x task]
  case memory => exact sameMemory_of_memory ((memory_setX ..).trans ((memory_modTask ..).trans (memory_modSlot ..)))
  all_goals rw [own]; rfl

theorem launchRead_launches {d : BitVec 4} {s : State} {slot : Nat} {tr : Option Trap} (x : Transfer) (good : tr = none)
    (settled : s.settled = true) (free : s.core.freeSlot = some slot) : s.launchRead d tr x = (launching d slot x s).retire 4#32 := by
  rw [State.launchRead, State.checked_none _ _ _ good, State.await_true _ _ _ settled, free]; rfl

theorem freeSlot_lowest {c : Core} {slot : Nat} (free : c.freeSlot = some slot) :
    slot < 256 ∧ (c.slotAt slot).state = .free ∧ ∀ j, j < slot → (c.slotAt j).state ≠ .free := by
  rw [Core.freeSlot, List.find?_range_eq_some] at free
  obtain ⟨isFree, small, below⟩ := free
  exact ⟨List.mem_range.1 small, by simpa using isFree, fun j lower => by simpa using below j lower⟩

/-! ## The reads of cp.go and gp.go -/

theorem mfsCpGo_reads {d : BitVec 4} {s : State} (acts : Acts s d) : exec (.mfsCpGo d) s = .next (s.launchRead d s.task.copyTrap
    { s.task.copyOf with chunks := chunksOf (s.task.copyOf.rows * s.task.copyOf.dcols * codeSize s.task.copyOf.dst.code) }) :=
  congrArg Host.Outcome.next (actingRead_passes acts.1 acts.2 _)

theorem mfsGpGo_reads {d : BitVec 4} {s : State} (acts : Acts s d) : exec (.mfsGpGo d) s = .next (s.launchRead d
    (s.task.gatherTrap s.core.gsize s.core.rank)
    { s.task.gatherOf with chunks := s.task.gatherOf.gatherChunks s.core.gsize s.core.rank }) :=
  congrArg Host.Outcome.next (actingRead_passes acts.1 acts.2 _)

/-- Bit 0 of the mode tells a scatter-add from a gather (R206). -/
theorem gatherOf_kind (t : TaskCtx) : t.gatherOf.kind = if (t.gp.toList.getD 5 0#32).getLsbD 0 then TKind.scatterAdd else .gather := by
  rw [← bits_one_eq]
  show (if bits _ 0 1 = 0 then TKind.gather else .scatterAdd) = _
  have binary : bits (t.gp.toList.getD 5 0#32).toNat 0 1 = 0 ∨ bits (t.gp.toList.getD 5 0#32).toNat 0 1 = 1 := by unfold bits; omega
  rcases binary with zero | one
  · rw [zero]; rfl
  · rw [one]; rfl

theorem launchRead_traps {d : BitVec 4} {s : State} {tr : Trap} {f : Option Trap} (bad : f = some tr) (x : Transfer) :
    s.launchRead d f x = s.trapWith tr := checked_traps bad _

theorem copyTrap_of_operation {t : TaskCtx} (bad : (t.cp.toList.getD 5 0#32).toNat % 4 = 3) :
    t.copyTrap = some ⟨.copyShape, false, 0x055#32⟩ := by
  have refused : (t.copyOf.op == 3) = true := by
    show (bits (t.cp.toList.getD 5 0#32).toNat 0 2 == 3) = true
    rw [beq_iff_eq]; unfold bits; omega
  rw [TaskCtx.copyTrap, refused]; rfl

theorem gatherTrap_of_empty {t : TaskCtx} (empty : (t.gp.toList.getD 2 0#32).toNat % 65536 = 0) (g k : Nat) :
    t.gatherTrap g k = some ⟨.copyShape, false, 0x072#32⟩ := by
  have refused : (t.gatherOf.n == 0) = true := by
    show (bits (t.gp.toList.getD 2 0#32).toNat 0 16 == 0) = true
    rw [beq_iff_eq]; unfold bits; omega
  rw [TaskCtx.gatherTrap, refused]; rfl

theorem actingRead_of_handler {s : State} (handler : s.inHandler = true) (n : Nat) (d : BitVec 4) (k : State → State) :
    s.actingRead n d k = s.trap .srIllegal (BitVec.ofNat 32 n) := by
  rw [State.actingRead, State.withRegs_handler _ _ _ _ handler, if_pos handler]

theorem transferLaunch : TransferLaunch := by
  refine ⟨fun d s slot acts done free => ⟨fun good => ?copy, fun good => ?gather⟩, fun s slot free => freeSlot_lowest free,
    fun d s acts bad => ?operation, fun d s tr acts => ⟨fun bad => ?copyTrap, fun bad => ?gatherTrap⟩, fun d s acts empty => ?empty,
    fun d s handler => ⟨?_, ?_⟩⟩
  case copy =>
    refine ⟨_, (mfsCpGo_reads acts).trans (congrArg _ (launchRead_launches _ good (settled_of_task acts.1 done) free)),
      launching_launched _ acts.1, ?_⟩
    rw [slotAt_launching, if_pos rfl]; exact ⟨rfl, rfl, rfl⟩
  case gather =>
    refine ⟨_, (mfsGpGo_reads acts).trans (congrArg _ (launchRead_launches _ good (settled_of_task acts.1 done) free)),
      launching_launched _ acts.1, ?_⟩
    rw [slotAt_launching, if_pos rfl]
    exact ⟨gatherOf_kind s.task, rfl⟩
  case operation => exact (mfsCpGo_reads acts).trans (congrArg _ (launchRead_traps (copyTrap_of_operation bad) _))
  case copyTrap => exact (mfsCpGo_reads acts).trans (congrArg _ (launchRead_traps bad _))
  case gatherTrap => exact (mfsGpGo_reads acts).trans (congrArg _ (launchRead_traps bad _))
  case empty => exact (mfsGpGo_reads acts).trans (congrArg _ (launchRead_traps (gatherTrap_of_empty empty _ _) _))
  all_goals exact congrArg Host.Outcome.next (actingRead_of_handler handler _ _ _)

/-! ## CPTEST and CPWAIT (R203) -/

theorem idCurrent_iff (c : Core) (id : Word) : c.idCurrent id = true ↔
    (c.slotAt (id.toNat % 256)).launched = true ∧ (c.slotAt (id.toNat % 256)).gen.toNat = id.toNat / 256 % 256 := by
  rw [Core.idCurrent, Bool.and_eq_true, beq_iff_eq]; rfl

theorem ofNat_status (c : Core) (id : Word) : BitVec.ofNat 32 (c.status id) = idStatus c id := by
  unfold Core.status idStatus
  by_cases current : c.idCurrent id = true
  · dsimp only
    rw [if_neg (by simp [current]), if_pos ((idCurrent_iff c id).1 current)]
    split
    · rfl
    · split <;> rfl
  · dsimp only
    rw [if_pos (by simpa using current), if_neg fun h => current ((idCurrent_iff c id).2 h)]

theorem status_le (c : Core) (id : Word) : c.status id ≤ 3 := by
  unfold Core.status; dsimp only; split
  · exact Nat.le_refl 3
  · split
    · omega
    · split <;> omega

/-- The status is the word that the transfer instructions give for the ID (R203). -/
theorem status_eq_iff (c : Core) (id : Word) {n : Nat} (small : n ≤ 3) : c.status id = n ↔ idStatus c id = BitVec.ofNat 32 n := by
  rw [← ofNat_status]
  refine ⟨fun h => by rw [h], fun h => ?_⟩
  have le := status_le c id
  have same := congrArg BitVec.toNat h
  rw [BitVec.toNat_ofNat, BitVec.toNat_ofNat, Nat.mod_eq_of_lt (by omega), Nat.mod_eq_of_lt (by omega)] at same
  exact same

theorem giveStatus_status (s : State) (d : BitVec 4) (c : Core) (id : Word) : s.giveStatus d (c.status id) =
    (((if idStatus c id = 1#32 ∨ idStatus c id = 2#32 then s.dropL1 s.who.core else s).modT fun t =>
      { t with waiting := false }).setX d (idStatus c id)).retire 4#32 := by
  have acquires : (c.status id = 1 ∨ c.status id = 2) ↔ (idStatus c id = 1#32 ∨ idStatus c id = 2#32) :=
    or_congr (status_eq_iff c id (by omega)) (status_eq_iff c id (by omega))
  rw [State.giveStatus, ofNat_status]
  simp only [acquires]

section
variable {s : State} {d a : BitVec 4} (task : InTask s) (clear : Clear s [a, d] []) (k : Word → State → State)
include task clear

/-- An ID in range goes on, where no held fault comes before it (R203). -/
theorem transferOp_goesOn (inRange : (s.x a).toNat < 65536) (free : s.task.waiting = true ∨ s.task.held = []) :
    s.transferOp d a k = k (s.x a) s := by
  rw [State.transferOp, State.inTask_task _ _ task, withRegs_of_clear clear]
  have small : bits (s.x a).toNat 16 16 = 0 := by unfold bits; omega
  dsimp only
  rw [if_neg (by rw [small]; exact fun h => h rfl)]
  split
  · rfl
  · rename_i fresh
    rw [State.heldFirst, free.resolve_left fresh]

theorem transferOp_traps (outOfRange : 65536 ≤ (s.x a).toNat) : s.transferOp d a k = s.trap .transferId (s.x a) := by
  rw [State.transferOp, State.inTask_task _ _ task, withRegs_of_clear clear]
  have word := (s.x a).isLt
  exact if_pos (by unfold bits; omega)

end

theorem transferStatus : TransferStatus := by
  intro d a s task clear
  refine ⟨fun inRange free => ⟨?test, fun ended => ?wait, fun runs => ?keeps⟩, fun outOfRange => ⟨?_, ?_⟩⟩
  case test => exact congrArg Host.Outcome.next ((transferOp_goesOn task clear _ inRange free).trans (giveStatus_status ..))
  case wait =>
    refine congrArg Host.Outcome.next ((transferOp_goesOn task clear _ inRange free).trans ?_)
    exact (if_neg fun h => ended ((status_eq_iff _ _ (by omega)).1 h)).trans (giveStatus_status ..)
  case keeps =>
    refine congrArg Host.Outcome.next ((transferOp_goesOn task clear _ inRange free).trans ?_)
    exact if_pos ((status_eq_iff _ _ (by omega)).2 runs)
  all_goals exact congrArg Host.Outcome.next (transferOp_traps task clear _ outOfRange)

/-- Settles O42: a launch by its checks, a status by the ID's slot. -/
theorem transferLaunchAndStatus : Obligations.TransferLaunchAndStatus := ⟨transferLaunch, transferStatus⟩

end Sys2Proof.Proofs
end

section
/-! SUPPORT. Barrier records at their place: what writing one and waking its waiters leave alone (R214 to R219, R226). -/

namespace Sys2Proof.Proofs

open Sys2Proof.Machine Sys2Proof.Claims

/-! ## Messages on their way -/

/-- A message that is numbered changes its sender's counter alone (R181). -/
theorem coreAt_number (s : State) (src : Nat) (e : Event) (k : Nat) :
    ∃ n, (s.number src e).coreAt k = { s.coreAt k with msgSeq := n } := by
  have counts (t : State) (same : t.coreAt k = s.coreAt k) : ∃ n, (if (s.coreAt src).power = .off then t else
      t.modCore src fun c => { c with msgSeq := (s.coreAt src).msgSeq + 1#20 }).coreAt k = { s.coreAt k with msgSeq := n } := by
    split
    · exact ⟨_, same⟩
    · rw [State.coreAt_modCore]; split
      · rename_i h; subst h; exact ⟨_, by rw [same]⟩
      · exact ⟨_, same⟩
  unfold State.number; dsimp only
  split <;> exact counts _ rfl

theorem coreAt_depart (s : State) (g src dst : Nat) (e : Event) (k : Nat) :
    ∃ n, (s.depart g src dst e).coreAt k = { s.coreAt k with msgSeq := n } := by
  unfold State.depart; split
  · exact coreAt_number (s.modGroup g (Group.countSent src)) src e k
  · exact coreAt_number s src e k

theorem coreAt_postTo (s : State) (g : Nat) (e : Event) (k : Nat) : (s.postTo g e).coreAt k = s.coreAt k := by
  unfold State.postTo; split <;> rfl

/-- What the owner of a record rests on: all of memory, and which groups stand in a saved image. -/
def ground (s : State) := (memory s, fun g => (s.groupAt g).stored)

theorem memory_of_ground {s t : State} (h : ground t = ground s) : memory t = memory s := congrArg Prod.fst h

theorem stored_of_ground {s t : State} (h : ground t = ground s) (g : Nat) : (t.groupAt g).stored = (s.groupAt g).stored :=
  congrFun (congrArg Prod.snd h) g

theorem ground_modCore {f : Core → Core} (keeps : ∀ c, (f c).lm = c.lm) (s : State) (k : Nat) : ground (s.modCore k f) = ground s :=
  Prod.ext (memory_modCore keeps s k) rfl

theorem ground_modGroup {f : Group → Group} (keeps : ∀ gr, (f gr).stored = gr.stored) (s : State) (g : Nat) :
    ground (s.modGroup g f) = ground s := by
  refine Prod.ext rfl (funext fun h => ?_)
  show ((s.modGroup g f).groupAt h).stored = _
  rw [groupAt_modGroup]; split
  · rename_i same; subst same; exact keeps _
  · rfl

theorem ground_number (s : State) (src : Nat) (e : Event) : ground (s.number src e) = ground s := by
  unfold State.number; dsimp only
  split <;> split
  · rfl
  · exact ground_modCore (f := fun c => { c with msgSeq := (s.coreAt src).msgSeq + 1#20 }) (fun _ => rfl) _ src
  · rfl
  · exact ground_modCore (f := fun c => { c with msgSeq := (s.coreAt src).msgSeq + 1#20 }) (fun _ => rfl) _ src

theorem ground_accept (s : State) (g a b : Nat) : ground (s.accept g a b) = ground s := by
  unfold State.accept; split
  · exact ground_modGroup (f := Group.countReceived b) (fun _ => rfl) s g
  · rfl

theorem ground_depart (s : State) (g src dst : Nat) (e : Event) : ground (s.depart g src dst e) = ground s := by
  rw [State.depart, ground_number]; split
  · exact ground_modGroup (f := Group.countSent src) (fun _ => rfl) s g
  · rfl

theorem ground_postTo (s : State) (g : Nat) (e : Event) : ground (s.postTo g e) = ground s := by
  unfold State.postTo; split
  · exact ground_modGroup (f := fun gr => { gr with heldMsgs := gr.heldMsgs ++ [e] }) (fun _ => rfl) s g
  · rfl

theorem ground_answer (s : State) (g src dst : Nat) (e : Event) : ground (s.answer g src dst e) = ground s :=
  (ground_postTo ..).trans (ground_depart ..)

/-- An answer to a group that stands in no saved image is on its way at once (R285). -/
theorem answer_awake {s : State} {g : Nat} (awake : (s.groupAt g).stored = false) (src dst : Nat) (e : Event) :
    s.answer g src dst e = s.send g src dst e := by
  rw [State.answer, State.postTo, stored_of_ground (ground_depart ..) g, awake]; rfl

/-! ## Records -/

theorem barPh_eq_phase (r : Rec) : barPh r = phase r := by rw [barPh, recField, recW_eq r (by decide)]; rfl

theorem barRejects_initialised {r : Rec} (formed : barMalformed r = false) (init : Initialised r) (binit : Bool) :
    barRejects binit r = false := by
  have state : recField r 0 0 2 = 1 := by rw [recField, recW_eq r (by decide), bits, Nat.pow_zero, Nat.div_one]; exact init
  rw [barRejects, formed, state]; cases binit <;> rfl

/-- Setting P of a record sets bit 3 of its first word (R214). -/
theorem setRecField_poison (r : Rec) : setRecField 0 3 1 1 r = r.set 0 (r[0] ||| 8#32) := by
  have word (w : Word) : BitVec.ofNat 32 (setBits w.toNat 3 1 1) = w ||| 8#32 := by
    have bit : bits w.toNat 3 1 = (w.getLsbD 3).toNat := by
      rw [← bits_one_eq]
      have binary : bits w.toNat 3 1 = 0 ∨ bits w.toNat 3 1 = 1 := by unfold bits; omega
      rcases binary with h | h <;> rw [h] <;> rfl
    have eight : (8#32 : Word) = BitVec.twoPow 32 3 := by decide
    rw [setBits, bit]
    cases h : w.getLsbD 3
    · have apart : w &&& 8#32 = 0#32 := by rw [eight, BitVec.and_twoPow, h]; rfl
      rw [← BitVec.add_eq_or_of_and_eq_zero _ _ apart]
      exact BitVec.eq_of_toNat_eq (by simp)
    · have within : w ||| 8#32 = w := by
        refine BitVec.eq_of_getLsbD_eq fun i hi => ?_
        rw [eight, BitVec.getLsbD_or, BitVec.getLsbD_twoPow]
        by_cases h3 : (3 : Nat) = i
        · subst h3; rw [h]; rfl
        · simp [h3]
      have size : 8 ≤ w.toNat := by
        have := Nat.ge_two_pow_of_testBit (BitVec.testBit_toNat w ▸ h : w.toNat.testBit 3 = true); exact this
      rw [within]
      refine BitVec.eq_of_toNat_eq ?_
      have lt := w.isLt
      simp; omega
  rw [setRecField]
  exact congrArg (r.set 0 ·) (word r[0])

theorem rec_setBytes_wordBytes (m : Mem) (a : Nat) (r : Rec) : (m.setBytes a (wordBytes r.toList)).rec a = r := by
  refine Vector.ext fun i hi => ?_
  rw [Mem.rec, Vector.getElem_ofFn, word_setBytes_wordBytes _ _ (by simpa using hi)]
  simp [hi]

theorem length_record (r : Rec) : (wordBytes r.toList).length = 64 := by rw [length_wordBytes]; simp

/-! ## A record written at its place -/

theorem coreAt_barPut (s : State) (k n pa j : Nat) (r : Rec) : ((s.barPut (.loc k n) pa r).coreAt j).lm =
    if k = j then (s.coreAt j).lm.setBytes n (wordBytes r.toList) else (s.coreAt j).lm := by
  show ((s.setLocalBytes k n (wordBytes r.toList)).coreAt j).lm = _
  rw [State.setLocalBytes, State.coreAt_modCore]; split
  · rename_i h; subst h; rfl
  · rfl

theorem writesRecord_barPut {s u : State} (same : memory u = memory s) (k n pa : Nat) (r : Rec) :
    WritesRecord s (u.barPut (.loc k n) pa r) k n r := by
  obtain ⟨phys, lm⟩ := Prod.mk.inj same
  have lm (j : Nat) : (u.coreAt j).lm = (s.coreAt j).lm := congrFun lm j
  refine ⟨?_, fun b outside => ?_, fun j other => ?_, phys⟩
  · rw [coreAt_barPut, if_pos rfl, rec_setBytes_wordBytes]
  · rw [coreAt_barPut, if_pos rfl, Mem.byte_setBytes_out _ _ _ _ (by rw [length_record]; exact outside), lm]
  · rw [coreAt_barPut, if_neg other.symm, lm]

theorem writesRecord_of_memory {s t u : State} {k n : Nat} {r : Rec} (h : WritesRecord s t k n r) (same : memory u = memory t) :
    WritesRecord s u k n r := by
  obtain ⟨phys, lm⟩ := Prod.mk.inj same
  have lm (j : Nat) : (u.coreAt j).lm = (t.coreAt j).lm := congrFun lm j
  obtain ⟨record, outside, others, physical⟩ := h
  exact ⟨lm k ▸ record, fun b hb => lm k ▸ outside b hb, fun j hj => (lm j).trans (others j hj), phys.trans physical⟩

/-! ## Waiters woken (R217 to R219, R226) -/

theorem ground_barUnpark (m : BarMsg) (s : State) : ground (s.barUnpark m) = ground s := by
  unfold State.barUnpark; split
  · exact ground_modCore (f := fun c => { c with parkedBar := c.parkedBar.filter fun b => b.wait != m.wait }) (fun _ => rfl) s _
  · rfl

theorem ground_barWake (w : Word) (s : State) (m : BarMsg) : ground (s.barWake w m) = ground s := by
  unfold State.barWake; dsimp only; split
  · split
    · exact ground_barUnpark m s
    · exact (ground_answer ..).trans (ground_barUnpark m s)
  · exact (ground_postTo ..).trans (ground_barUnpark m s)

theorem ground_wakeMasks (s : State) (p : BarPlace) (r : Rec) : ground (s.wakeMasks p r) = ground s :=
  foldl_keeps ground _ (ground_barWake 0#32) _ s

theorem ground_wakeAll (s : State) (p : BarPlace) (op : BarOp) (w : Word) : ground (s.wakeAll p op w) = ground s :=
  foldl_keeps ground _ (ground_barWake w) _ s

/-- An arrival leaves the record that its phase comes to, and all other memory as it was (R217). -/
theorem writesRecord_barTestPhase (s : State) (k n pa : Nat) (r : Rec) :
    WritesRecord s (s.barTestPhase (.loc k n) pa r) k n (if barSatisfied r then barFlip r else r) := by
  unfold State.barTestPhase; split
  · exact writesRecord_of_memory (writesRecord_barPut (memory_of_ground (ground_wakeMasks ..)) k n pa (barFlip r))
      (memory_of_ground ((ground_wakeAll ..).trans (ground_wakeAll ..)))
  · exact writesRecord_of_memory (writesRecord_barPut rfl k n pa r) (memory_of_ground (ground_wakeMasks ..))

theorem stored_barPut (s : State) (p : BarPlace) (pa : Nat) (r : Rec) (g : Nat) :
    ((s.barPut p pa r).groupAt g).stored = (s.groupAt g).stored := by
  cases p with
  | loc k n => rfl
  | vault c va =>
    show ((s.setPhysBytes pa (wordBytes r.toList)).groupAt g).stored = _
    unfold State.setPhysBytes; split <;> rfl

theorem stored_barTestPhase (s : State) (p : BarPlace) (pa : Nat) (r : Rec) (g : Nat) :
    ((s.barTestPhase p pa r).groupAt g).stored = (s.groupAt g).stored := by
  unfold State.barTestPhase; split
  · rw [stored_of_ground ((ground_wakeAll ..).trans (ground_wakeAll ..)), stored_barPut, stored_of_ground (ground_wakeMasks ..)]
  · rw [stored_of_ground (ground_wakeMasks ..), stored_barPut]

/-- A wait woken at a core's record is parked there no more (R226). -/
theorem parkedBar_barWake {m : BarMsg} {k n : Nat} (place : m.place = .loc k n) (w : Word) (s : State) :
    ((s.barWake w m).coreAt k).parkedBar = (s.coreAt k).parkedBar.filter fun b => b.wait != m.wait := by
  have unparked : ((s.barUnpark m).coreAt k).parkedBar = (s.coreAt k).parkedBar.filter fun b => b.wait != m.wait := by
    rw [State.barUnpark, place]
    exact congrArg Core.parkedBar (State.coreAt_modCore_same ..)
  unfold State.barWake; simp only [place]; split
  · exact unparked
  · rw [State.answer, coreAt_postTo]
    obtain ⟨c, same⟩ := coreAt_depart (s.barUnpark m) m.group k m.src.core (.feWake (.barrier (barReply m w none))) k
    rw [same]; exact unparked

theorem mem_parkedBar_wakes {k n : Nat} {ms : List BarMsg} (places : ∀ m ∈ ms, m.place = .loc k n) (w : Word) (s : State) {p : BarMsg}
    (left : p ∈ ((ms.foldl (State.barWake w) s).coreAt k).parkedBar) : p ∈ (s.coreAt k).parkedBar ∧ ∀ m ∈ ms, p.wait ≠ m.wait := by
  induction ms generalizing s with
  | nil => exact ⟨left, fun m hm => absurd hm (List.not_mem_nil)⟩
  | cons m ms ih =>
    obtain ⟨stays, others⟩ := ih (fun q hq => places q (List.mem_cons_of_mem _ hq)) _ left
    rw [parkedBar_barWake (places m List.mem_cons_self), List.mem_filter, bne_iff_ne] at stays
    exact ⟨stays.1, fun q hq => (List.mem_cons.1 hq).elim (fun h => h ▸ stays.2) (others q)⟩

theorem sameRecord_loc (s : State) (p : BarPlace) (k n : Nat) : s.sameRecord p (.loc k n) = true ↔ p = .loc k n := by
  cases p <;> simp [State.sameRecord]

/-- No wait of one kind at a record is left parked when all of that kind are woken (R219). -/
theorem wakeAll_unparks {s : State} {k n : Nat} {op : BarOp} {m p : BarMsg} (w : Word) (parked : m ∈ (s.coreAt k).parkedBar)
    (place : m.place = .loc k n) (kind : m.op = op) (left : p ∈ ((s.wakeAll (.loc k n) op w).coreAt k).parkedBar) : p.wait ≠ m.wait := by
  refine (mem_parkedBar_wakes (n := n) (fun q hq => ?_) w s left).2 m ?_
  · have same := (List.mem_filter.1 (List.mem_filter.1 hq).1).2
    exact (sameRecord_loc s q.place k n).1 same
  · exact List.mem_filter.2 ⟨List.mem_filter.2 ⟨parked, (sameRecord_loc s m.place k n).2 place⟩, by simp [kind]⟩

end Sys2Proof.Proofs
end

section
/-! SUPPORT. Barrier operations that come to the owner of their record, their replies, and the arrivals of engines (R201, R215, R218, R219,
R221, R226). -/

namespace Sys2Proof.Proofs

open Sys2Proof.Machine Sys2Proof.Claims

/-! ## At the owner (R215) -/

theorem barAt_found {s : State} {g k n : Nat} {r : Rec} (at_ : RecordAt s g k n r) (need : Need) :
    s.barAt (.loc k n) g need = .found r 0 := by
  obtain ⟨record, group, own, power, awake, -⟩ := at_
  unfold State.barAt; dsimp only
  rw [if_neg (by simp [awake]), if_pos ⟨group, own, .inl power⟩, record]

theorem barRejects_found {s : State} {g k n : Nat} {r : Rec} (at_ : RecordAt s g k n r) (init : Initialised r) (binit : Bool) :
    barRejects binit r = false := by
  obtain ⟨-, -, -, -, -, formed⟩ := at_
  exact barRejects_initialised formed init binit

/-- The record of a core that is no longer of the sender's group is not to be found (R216). -/
theorem barAt_left {s : State} {g k n : Nat} (awake : (s.groupAt g).stored = false) (left : (s.coreAt k).group ≠ g) (need : Need) :
    s.barAt (.loc k n) g need = .failed .barrierInvalid := by
  unfold State.barAt; dsimp only
  rw [if_neg (by simp [awake]), if_neg fun h => left h.2.1]

section
variable {s : State} {m : BarMsg} {k n : Nat} (now : Performs s (.barrierOperation m)) (place : m.place = .loc k n)
include now place

theorem barrierOperation_held (stored : (s.groupAt m.group).stored = true) :
    exec .barrierOperation s = .next (s.hold m.group (.barrierOperation m)) := by
  show execBarrierOperation s = _
  rw [execBarrierOperation, now]
  simp only [place]
  exact if_pos stored

theorem barrierOperation_left (awake : (s.groupAt m.group).stored = false) (left : (s.coreAt k).group ≠ m.group) :
    exec .barrierOperation s = .next (((s.takeSeq (.barrierOperation m)).2.accept m.group m.src.core k).barAct m) := by
  show execBarrierOperation s = _
  rw [execBarrierOperation, now]
  simp only [place]
  rw [if_neg (by simp [awake]), if_pos left]; rfl

theorem barrierOperation_arrives (awake : (s.groupAt m.group).stored = false) (own : (s.coreAt k).group = m.group) :
    exec .barrierOperation s = .next (s.builtin 5 m.src.core k (.barrierOperation m) fun s =>
      (s.accept m.group m.src.core k).barAct m) := by
  show execBarrierOperation s = _
  rw [execBarrierOperation, now]
  simp only [place]
  rw [if_neg (by simp [awake]), if_neg fun h => h own]; rfl

end

theorem takeSeq_stored (s : State) (e : Event) (g : Nat) : ((s.takeSeq e).2.groupAt g).stored = (s.groupAt g).stored := by
  unfold State.takeSeq; split <;> rfl

section
variable {t : State} {m : BarMsg} {k n : Nat} {r : Rec} (place : m.place = .loc k n)
include place

/-- An operation that cannot find its record is answered BARRIER_INVALID (R216). -/
theorem barAct_left (awake : (t.groupAt m.group).stored = false) (left : (t.coreAt k).group ≠ m.group) :
    t.barAct m = t.answer m.group k m.src.core (.barrierReply (barReply m 0#32 (some ⟨.barrierInvalid, false, m.ref⟩))) := by
  unfold State.barAct State.barPerform State.barAnswer
  simp only [place, barAt_left awake left]; rfl

/-- A message that is performed is answered with its value (R221). -/
theorem barAct_performs {v : Word} {u : State} (performs : t.barPerform m = (.value v, u)) (awake : (u.groupAt m.group).stored = false) :
    t.barAct m = u.send m.group k m.src.core (.barrierReply (barReply m v none)) := by
  unfold State.barAct
  simp only [performs]
  unfold State.barAnswer
  simp only [place]
  exact answer_awake awake _ _ _

variable (init : Initialised r) (at_ : RecordAt t m.group k n r)
include init at_

theorem barPerform_btest (op : m.op = .btest) : t.barPerform m = (.value (barTest m.a r), t) := by
  unfold State.barPerform
  simp only [place, barAt_found at_, barRejects_found at_ init, op]; rfl

theorem barPerform_binit (op : m.op = .binit) : t.barPerform m = (.value 0#32, t.barPut (.loc k n) 0 (barInit m.a m.b r)) := by
  unfold State.barPerform
  simp only [place, barAt_found at_, barRejects_found at_ init, op]; rfl

theorem barPerform_barr (op : m.op = .barr) {q : Rec} (credit : barCredit m.src.core m.a.toNat none r = some q) :
    t.barPerform m = (.value (BitVec.ofNat 32 (phase r)), t.barTestPhase (.loc k n) 0 q) := by
  unfold State.barPerform
  simp only [place, barAt_found at_, barRejects_found at_ init, op, credit, barPh_eq_phase]; rfl

end

/-- The reply to an operation of another core (R221). -/
theorem barReply_away {m : BarMsg} {k n : Nat} (place : m.place = .loc k n) (away : k ≠ m.src.core) (v : Word) :
    barReply m v none = ⟨m.src, if barWrites m.op then some m.rd else none, v, barAcquires m.op, none, some (k, m.group)⟩ := by
  unfold barReply
  simp only [place, if_neg away]

theorem barrierReply_arrives {s : State} {r : BarReply} {k g : Nat} (now : Performs s (.barrierReply r)) (src : r.src = some (k, g)) :
    exec .barrierReply s = .next (s.builtin 0 k r.dst.core (.barrierReply r) fun s => (s.accept g k r.dst.core).barResult r) := by
  show execBarrierReply s = _
  rw [execBarrierReply, now]
  simp only [src]; rfl

/-! ## Engine arrivals (R218, R219) -/

section
variable {s : State} {a : Arrival} {core slot k n : Nat} {r : Rec} (now : Performs s (.engineArrival a)) (from_ : a.from_ = .transfer core slot)
  (place : a.place = .loc k n) (at_ : RecordAt s a.group k n r) (init : Initialised r)
include now from_ place at_ init

/-- The arrival of a transfer at a record that is found is credited, rejected, or poisons it. -/
theorem engineArrival_found : exec .engineArrival s = .next (if a.poison then
      (s.barPut (.loc k n) 0 (setRecField 0 3 1 1 r)).wakeAll (.loc k n) .bwait 1#32
    else match barCredit a.coreid a.sel a.chunk r with
      | some q => (s.barTestPhase (.loc k n) 0 q).transferArrived core slot a.chunk none
      | none => s.transferArrived core slot a.chunk (some .barrierProducer)) := by
  have group : s.arrivalGroup a = a.group := by rw [State.arrivalGroup, from_]
  have tells (t : State) (err : Option Cause) : t.tellEngine a err = t.transferArrived core slot a.chunk err := by
    rw [State.tellEngine, from_]
  show execEngineArrival s = _
  rw [execEngineArrival, now]
  simp only [place, group, barAt_found at_, tells, State.barTouch, barRejects_found at_ init false]
  cases a.poison
  · cases barCredit a.coreid a.sel a.chunk r <;> rfl
  · rfl

end

theorem barrierEvents : BarrierEvents := by
  refine ⟨fun s m k n now place => ⟨fun stored => barrierOperation_held now place stored, fun awake own busy => ?waits,
      fun awake left => ?left⟩, fun s m k n r now place away init awake own free at_ => ?performs, fun s m k n now place => ?resend,
    fun s r now => ⟨fun own => ?ownReply, fun k g src free => ?reply, fun src busy => ?replyWaits⟩,
    fun s a core slot k n r now from_ place at_ init => ?arrival⟩
  case waits => rw [barrierOperation_arrives now place awake own, State.builtin, busy]; rfl
  case left =>
    have same : ((s.takeSeq (.barrierOperation m)).2.accept m.group m.src.core k).coreAt k = s.coreAt k :=
      coreAt_congr ((accept_cores ..).trans (takeSeq_cores ..)) k
    rw [barrierOperation_left now place awake left, barAct_left place ?_ (by rw [same]; exact left)]
    rw [stored_of_ground (ground_accept ..), takeSeq_stored, awake]
  case performs =>
    rw [barrierOperation_arrives now place awake own, State.builtin, free]
    obtain ⟨-, -, -, -, awake', -⟩ := id at_
    refine ⟨fun op => ?_, fun op => ⟨_, congrArg _ ((barAct_performs place (barPerform_binit place init at_ op) ?_).trans ?_),
        writesRecord_barPut rfl k n 0 _⟩, fun op q credit => ⟨_, congrArg _ ((barAct_performs place
          (barPerform_barr place init at_ op credit) ?_).trans ?_), writesRecord_barTestPhase _ k n 0 q⟩⟩
    · refine congrArg _ ((barAct_performs place (barPerform_btest place init at_ op) awake').trans ?_)
      rw [barReply_away place away, op]; rfl
    · rw [stored_barPut, awake']
    · rw [barReply_away place away, op]; rfl
    · rw [stored_barTestPhase, awake']
    · rw [barReply_away place away, op]; rfl
  case resend =>
    show execBarrierWaitResend s = _
    rw [execBarrierWaitResend, now]
    simp only [place]; rfl
  case ownReply =>
    show execBarrierReply s = _
    rw [execBarrierReply, now]
    simp only [own]; rfl
  case reply => rw [barrierReply_arrives now src, State.builtin, free]; rfl
  case replyWaits =>
    obtain ⟨⟨k, g⟩, sent⟩ := Option.ne_none_iff_exists'.1 src
    rw [barrierReply_arrives now sent, State.builtin, busy]; rfl
  case arrival =>
    rw [engineArrival_found now from_ place at_ init]
    refine ⟨fun q arrives credit => ?_, fun arrives rejected => ?_, fun poisons => ?_⟩
    · simp only [arrives, credit, place]; rfl
    · simp only [arrives, rejected]; rfl
    · rw [if_pos poisons]
      refine ⟨_, rfl, ?_, fun m parked at' op p left => ?_⟩
      · rw [← setRecField_poison]
        exact writesRecord_of_memory (writesRecord_barPut rfl k n 0 _) (memory_of_ground (ground_wakeAll ..))
      · have stays : ((s.barPut (.loc k n) 0 (setRecField 0 3 1 1 r)).coreAt k).parkedBar = (s.coreAt k).parkedBar := by
          show ((s.setLocalBytes k n _).coreAt k).parkedBar = _
          rw [State.setLocalBytes, State.coreAt_modCore_same]; rfl
        exact wakeAll_unparks 1#32 (by rw [stays]; exact parked) at' op left

end Sys2Proof.Proofs
end

section
/-! SUPPORT. Dissemination barriers: DBAR, its rounds and its notifications (R229 to R231). Settles O46. -/

namespace Sys2Proof.Proofs

open Sys2Proof.Machine Sys2Proof.Claims

/-! ## What a core keeps for its barriers -/

/-- The dissemination contexts of a core, and whose it is. -/
def station (c : Core) := (c.dissem, c.ctxid, c.group)

theorem station_modTask (s : State) (i : Issuer) (f : TaskCtx → TaskCtx) (k : Nat) :
    station ((s.modTask i f).coreAt k) = station (s.coreAt k) :=
  coreAt_modCore_keeps station (fun c => by cases i.ctx <;> rfl) s i.core k

theorem coreAt_prefer_keeps {α : Type} (p : Core → α) (keeps : ∀ c b, p { c with pref := b } = p c) (s : State) (k : Nat) :
    p (s.prefer.coreAt k) = p (s.coreAt k) := by
  unfold State.prefer; split
  · exact coreAt_modCore_keeps p (fun c => keeps c false) s _ k
  · exact coreAt_modCore_keeps p (fun c => keeps c true) s _ k
  · rfl

theorem taskAt_prefer (s : State) (i : Issuer) : s.prefer.taskAt i = s.taskAt i :=
  coreAt_prefer_keeps (fun c => c.task i.ctx) (fun c b => by cases i.ctx <;> rfl) s i.core

theorem prefer_pending (s : State) : s.prefer.pending = s.pending := by unfold State.prefer; split <;> rfl

theorem prefer_partAddr (s : State) : s.prefer.partAddr = s.partAddr := by unfold State.prefer; split <;> rfl

theorem memory_prefer (s : State) : memory s.prefer = memory s := by
  unfold State.prefer; split
  · exact memory_modCore (f := fun c => { c with pref := false }) (fun _ => rfl) s _
  · exact memory_modCore (f := fun c => { c with pref := true }) (fun _ => rfl) s _
  · rfl

section
variable (s : State) (k : Nat) (n : BitVec 2) (f : Dissem → Dissem)

theorem dis_modDis : dis (s.modDis k n f) k n = f (dis s k n) := by
  rw [dis, State.modDis, State.coreAt_modCore_same]
  exact Vector.getElem_set_self _

theorem memory_modDis : memory (s.modDis k n f) = memory s :=
  memory_modCore (f := fun c => { c with dissem := c.dissem.set n.toFin (f (c.dis n)) }) (fun _ => rfl) s k

theorem taskAt_modDis (i : Issuer) : (s.modDis k n f).taskAt i = s.taskAt i :=
  coreAt_modCore_keeps (f := fun c => { c with dissem := c.dissem.set n.toFin (f (c.dis n)) }) (fun c => c.task i.ctx)
    (fun c => by cases i.ctx <;> rfl) s k i.core

end

theorem dis_of_station {s t : State} {k : Nat} (h : station (t.coreAt k) = station (s.coreAt k)) (n : BitVec 2) : dis t k n = dis s k n := by
  have contexts : (t.coreAt k).dissem = (s.coreAt k).dissem := congrArg Prod.fst h
  rw [dis, contexts]; rfl

/-! ## The rounds of an episode (R230) -/

/-- An episode that has ended: its DBAR completes with the episode, an acquire (R230). -/
def disEnded (k : Nat) (n : BitVec 2) (s : State) : State :=
  (((s.modDis k n fun d => { d with running := false }).dropL1 k).setXAt ⟨k, (dis s k n).ctx⟩ (dis s k n).rd (dis s k n).episode).retireAt
    ⟨k, (dis s k n).ctx⟩ 4#32

section
variable {s : State} {k : Nat} {n : BitVec 2} (fuel : Nat)

theorem disAdvance_idle (idle : (dis s k n).running = false) : s.disAdvance k n (fuel + 1) = s := by
  rw [State.disAdvance]
  exact if_pos (by rw [show (s.coreAt k).dis n = dis s k n from rfl, idle]; rfl)

variable (runs : (dis s k n).running = true)
include runs

theorem disAdvance_ends (few : (dis s k n).members.length ≤ 2 ^ (dis s k n).round) : s.disAdvance k n (fuel + 1) = disEnded k n s := by
  rw [State.disAdvance]
  refine (if_neg (by rw [show (s.coreAt k).dis n = dis s k n from rfl, runs]; simp)).trans ?_
  exact if_pos few

variable (more : ¬ (dis s k n).members.length ≤ 2 ^ (dis s k n).round)
include more

theorem disAdvance_waits (none : ((dis s k n).s, (dis s k n).round) ∉ (dis s k n).held) : s.disAdvance k n (fuel + 1) = s := by
  rw [State.disAdvance]
  refine (if_neg (by rw [show (s.coreAt k).dis n = dis s k n from rfl, runs]; simp)).trans ?_
  exact (if_neg more).trans (if_neg none)

/-- A round whose notification has come is over (R230). -/
def Dissem.next (d : Dissem) : Dissem := { d with held := d.held.erase (d.s, d.round), round := d.round + 1 }

/-- The notification of the last round ends the episode (R230). -/
theorem disAdvance_lastRound (come : ((dis s k n).s, (dis s k n).round) ∈ (dis s k n).held)
    (last : (dis s k n).members.length ≤ 2 ^ ((dis s k n).round + 1)) :
    s.disAdvance k n (fuel + 2) = disEnded k n (s.modDis k n Dissem.next) := by
  rw [State.disAdvance]
  refine (if_neg (by rw [show (s.coreAt k).dis n = dis s k n from rfl, runs]; simp)).trans ((if_neg more).trans ((if_pos come).trans ?_))
  have next := dis_modDis s k n Dissem.next
  refine (congrArg (State.disAdvance k n (fuel + 1)) (if_neg (Nat.not_lt.2 last))).trans ?_
  have few : (dis (s.modDis k n Dissem.next) k n).members.length ≤ 2 ^ (dis (s.modDis k n Dissem.next) k n).round := by
    rw [next]; exact last
  exact disAdvance_ends fuel ((congrArg Dissem.running next).trans runs) few

end

/-! ## The end of an episode -/

theorem setXAt_of_task {i : Issuer} (ctx : i.ctx ≠ .handler) (s : State) (r : BitVec 4) (w : Word) :
    s.setXAt i r w = if r = 0#4 then s else s.modTask i fun t => { t with x := t.x.set r.toFin w } := by
  unfold State.setXAt
  rcases i with ⟨j, _ | _ | _⟩
  case handler => exact absurd rfl ctx
  all_goals rfl

theorem retireAt_of_task {i : Issuer} (ctx : i.ctx ≠ .handler) (s : State) (n : Word) :
    s.retireAt i n = s.modTask i (TaskCtx.complete n) := by
  unfold State.retireAt
  rcases i with ⟨j, _ | _ | _⟩
  case handler => exact absurd rfl ctx
  all_goals rfl

theorem taskAt_setXAt {i : Issuer} (ctx : i.ctx ≠ .handler) (s : State) (r : BitVec 4) (w : Word) : (s.setXAt i r w).taskAt i =
    if r = 0#4 then s.taskAt i else { s.taskAt i with x := (s.taskAt i).x.set r.toFin w } := by
  rw [setXAt_of_task ctx]; split
  · rfl
  · exact State.taskAt_modTask_same _ _ _ ctx

theorem station_dropL1 (s : State) (k j : Nat) : station ((s.dropL1 k).coreAt j) = station (s.coreAt j) :=
  coreAt_modCore_keeps (f := fun c => { c with l1 := [], l1Fills := [] }) station (fun _ => rfl) s k j

theorem memory_dropL1 (s : State) (k : Nat) : memory (s.dropL1 k) = memory s :=
  memory_modCore (f := fun c => { c with l1 := [], l1Fills := [] }) (fun _ => rfl) s k

section
variable {s : State} {k : Nat} {n : BitVec 2} (task : (dis s k n).ctx ≠ .handler)
include task

/-- The DBAR that ends retires with the episode in its register (R230). -/
theorem disEnded_eq : disEnded k n s = (((s.modDis k n fun d => { d with running := false }).dropL1 k).setXAt ⟨k, (dis s k n).ctx⟩
    (dis s k n).rd (dis s k n).episode).modTask ⟨k, (dis s k n).ctx⟩ (TaskCtx.complete 4#32) := retireAt_of_task task _ _

theorem disEnded_dis : dis (disEnded k n s) k n = { dis s k n with running := false } := by
  rw [disEnded_eq task, dis_of_station (station_modTask ..), setXAt_of_task task]
  have ended : dis ((s.modDis k n fun d => { d with running := false }).dropL1 k) k n = { dis s k n with running := false } := by
    rw [dis_of_station (station_dropL1 ..), dis_modDis]
  split
  · exact ended
  · exact (dis_of_station (station_modTask ..) n).trans ended

theorem disEnded_memory : memory (disEnded k n s) = memory s := by
  have ended : memory ((s.modDis k n fun d => { d with running := false }).dropL1 k) = memory s :=
    (memory_dropL1 ..).trans (memory_modDis ..)
  rw [disEnded_eq task, memory_modTask, setXAt_of_task task]; split
  · exact ended
  · exact (memory_modTask ..).trans ended

theorem disEnded_task : (disEnded k n s).taskAt ⟨k, (dis s k n).ctx⟩ = TaskCtx.complete 4#32 (if (dis s k n).rd = 0#4
    then s.taskAt ⟨k, (dis s k n).ctx⟩ else { s.taskAt ⟨k, (dis s k n).ctx⟩ with
      x := (s.taskAt ⟨k, (dis s k n).ctx⟩).x.set (dis s k n).rd.toFin (dis s k n).episode }) := by
  rw [disEnded_eq task, State.taskAt_modTask_same _ _ _ task, taskAt_setXAt task, taskAt_dropL1, taskAt_modDis]

theorem disEnded_x : (disEnded k n s).xAt ⟨k, (dis s k n).ctx⟩ (dis s k n).rd =
    if (dis s k n).rd = 0#4 then 0#32 else (dis s k n).episode := by
  rw [xAt_of_task _ task, disEnded_task task, complete_x]
  split
  · rfl
  · exact Vector.getElem_set_self _

theorem disEnded_run : ((disEnded k n s).taskAt ⟨k, (dis s k n).ctx⟩).run = .running := by rw [disEnded_task task]; rfl

theorem disEnded_instret : ((disEnded k n s).taskAt ⟨k, (dis s k n).ctx⟩).instret = (s.taskAt ⟨k, (dis s k n).ctx⟩).instret + 1#32 := by
  rw [disEnded_task task]; split <;> rfl

end

/-! ## DBAR (R230) -/

/-- The dissemination context of a DBAR that has begun. -/
def dissemOf (sp : BitVec 3) (d : BitVec 4) (s : State) (x : Dissem) : Dissem :=
  { x with episode := x.episode + 1#32, round := 0, running := true, span := sp.toNat,
           members := (s.participants s.who.core sp.toNat).1, index := (s.participants s.who.core sp.toNat).2, ctx := s.who.ctx, rd := d }

/-- A DBAR that has found its participants, and waits. -/
def dbarBegun (sp : BitVec 3) (n : BitVec 2) (d : BitVec 4) (s : State) : State :=
  ((({ s with waitCount := s.waitCount + 1 } : State).modDis s.who.core n (dissemOf sp d s)).prefer).stall (.parked s.waitCount)

section
variable {sp : BitVec 3} {n : BitVec 2} {d : BitVec 4} {s : State}

theorem dbarBegun_eq : dbarBegun sp n d s = ((({ s with waitCount := s.waitCount + 1 } : State).modDis s.who.core n
    (dissemOf sp d s)).prefer.modTask s.who fun t => { t with run := .stalled (.parked s.waitCount) }).prefer := by
  rw [dbarBegun, State.stall, if_neg (by simp), State.modT, State.prefer_who]; rfl

theorem dbarBegun_station (k : Nat) : station ((dbarBegun sp n d s).coreAt k) =
    station ((({ s with waitCount := s.waitCount + 1 } : State).modDis s.who.core n (dissemOf sp d s)).coreAt k) := by
  rw [dbarBegun_eq, coreAt_prefer_keeps station (fun _ _ => rfl), station_modTask, coreAt_prefer_keeps station fun _ _ => rfl]

theorem dbarBegun_dis : dis (dbarBegun sp n d s) s.who.core n = dissemOf sp d s (dis s s.who.core n) := by
  rw [dis_of_station (dbarBegun_station _), dis_modDis]; rfl

theorem dbarBegun_memory : memory (dbarBegun sp n d s) = memory s := by
  rw [dbarBegun_eq, memory_prefer, memory_modTask, memory_prefer, memory_modDis]; rfl

theorem dbarBegun_task (task : InTask s) :
    (dbarBegun sp n d s).taskAt s.who = { s.task with run := .stalled (.parked s.waitCount) } := by
  rw [dbarBegun_eq, taskAt_prefer, State.taskAt_modTask_same _ _ _ (ctx_of_task task), taskAt_prefer, taskAt_modDis]; rfl

theorem dbarBegun_pending : (dbarBegun sp n d s).pending = s.pending := by rw [dbarBegun_eq, prefer_pending]; exact prefer_pending _

variable (task : InTask s) (ready : Ready s [d]) (idle : (dis s s.who.core n).running = false) (done : Settled s)
include task ready idle done

theorem dbar_begins : exec (.dbar sp n d) s = .next ((if 1 < (s.participants s.who.core sp.toNat).1.length
    then (dbarBegun sp n d s).disNotify s.who.core n else dbarBegun sp n d s).disAdvance s.who.core n 33) := by
  have free : (!(s.core.dis n).running && s.settled) = true := by
    rw [settled_of_task task done, show (s.core.dis n).running = false from idle]; rfl
  refine congrArg Host.Outcome.next ((State.inTask_task _ _ task).trans ((withRegs_access ready _).trans ?_))
  exact State.await_true _ _ _ free

end

/-! ## Notifications (R230, R231) -/

/-- The notification of the current round goes to a participant of this part (R230). -/
theorem disNotify_core {t : State} {k j : Nat} {n : BitVec 2} (to_ : (dis t k n).members[((dis t k n).index + 2 ^ (dis t k n).round) %
    (dis t k n).members.length]? = some (.core j)) : t.disNotify k n = t.post (.dbarNotification
      { dst := j, src := k, ctx := (t.coreAt k).ctxid, group := (t.coreAt k).group, c := n.toNat, s := (dis t k n).s,
        k := (dis t k n).round, part := t.partAddr, there := none }) := by
  unfold State.disNotify; dsimp only
  have found : ((t.coreAt k).dis n).members[(((t.coreAt k).dis n).index + 2 ^ ((t.coreAt k).dis n).round) %
      ((t.coreAt k).dis n).members.length]? = some (.core j) := to_
  rw [found]; rfl

theorem dbarBegun_partAddr {sp : BitVec 3} {n : BitVec 2} {d : BitVec 4} {s : State} : (dbarBegun sp n d s).partAddr = s.partAddr := by
  rw [dbarBegun_eq, prefer_partAddr]
  exact prefer_partAddr _

theorem dbarBegun_notifies {sp : BitVec 3} {n : BitVec 2} {d : BitVec 4} {s : State} {j : Nat}
    (first : (s.participants s.who.core sp.toNat).1[((s.participants s.who.core sp.toNat).2 + 1) %
      (s.participants s.who.core sp.toNat).1.length]? = some (.core j)) :
    (dbarBegun sp n d s).disNotify s.who.core n = (dbarBegun sp n d s).post (.dbarNotification
      { dst := j, src := s.who.core, ctx := s.core.ctxid, group := s.core.group, c := n.toNat,
        s := ((dis s s.who.core n).episode + 1#32).getLsbD 0, k := 0, part := s.partAddr, there := none }) := by
  have same : station ((dbarBegun sp n d s).coreAt s.who.core) =
      station ((({ s with waitCount := s.waitCount + 1 } : State).modDis s.who.core n (dissemOf sp d s)).coreAt s.who.core) :=
    dbarBegun_station _
  rw [State.modDis, State.coreAt_modCore_same] at same
  have ctx : ((dbarBegun sp n d s).coreAt s.who.core).ctxid = s.core.ctxid := congrArg (fun p => p.2.1) same
  have group : ((dbarBegun sp n d s).coreAt s.who.core).group = s.core.group := congrArg (fun p => p.2.2) same
  rw [disNotify_core (j := j) (by rw [dbarBegun_dis]; exact first), dbarBegun_dis, ctx, group, dbarBegun_partAddr]; rfl

section
variable {s : State} {nt : Notify} (now : Performs s (.dbarNotification nt))
include now

theorem notification_held {g k : Nat} (found : s.notified nt = some (g, k))
    (away : (s.groupAt g).stored = true ∨ (s.groupAt g).state = .preempting) :
    exec .dbarNotification s = .next (s.hold g (.dbarNotification nt)) := by
  show execDbarNotification s = _
  rw [execDbarNotification, now]
  simp only [found]
  exact if_pos away

theorem notification_lost (lost : s.notified nt = none) (here : nt.there = none) (part : nt.part = s.partAddr) :
    exec .dbarNotification s = .next (s.post (.remoteNack
      ⟨⟨nt.src, .tc0⟩, .notify (BitVec.ofNat 4 nt.c), .remoteUnreachable, BitVec.ofNat 32 nt.dst, nt.group⟩)) := by
  show execDbarNotification s = _
  rw [execDbarNotification, now]
  simp only [lost]
  refine congrArg Host.Outcome.next ?_
  simp only [State.disNack, here]
  exact if_pos part

theorem notification_arrives {g k : Nat} (found : s.notified nt = some (g, k)) (runs : (s.groupAt g).state = .running)
    (own : (s.coreAt k).group = g) : exec .dbarNotification s = .next (s.disArrive k nt) := by
  show execDbarNotification s = _
  rw [execDbarNotification, now]
  simp only [found]
  rw [if_neg (by simp [Group.stored, runs]), if_pos own]; rfl

end

/-- A notification is kept once for its round (R230). -/
def Dissem.keep (nt : Notify) (d : Dissem) : Dissem :=
  if (nt.s, nt.k) ∈ d.held then d else { d with held := d.held ++ [(nt.s, nt.k)] }

section
variable (nt : Notify) (d : Dissem)

theorem mem_keep : (nt.s, nt.k) ∈ (Dissem.keep nt d).held := by
  unfold Dissem.keep; split
  · assumption
  · exact List.mem_append_right _ (List.mem_singleton_self _)

/-- What is kept changes nothing else of the episode. -/
theorem keep_eq : ∃ held, Dissem.keep nt d = { d with held := held } := by
  unfold Dissem.keep; split
  · exact ⟨_, rfl⟩
  · exact ⟨_, rfl⟩

end

theorem disArrive_eq (k : Nat) (nt : Notify) (s : State) : s.disArrive k nt =
    (s.modDis k (BitVec.ofNat 2 nt.c) (Dissem.keep nt)).disAdvance k (BitVec.ofNat 2 nt.c) 33 := rfl

section
variable {s : State} {k : Nat} {nt : Notify}

/-- A notification that comes with no episode running waits for its round (R230). -/
theorem disArrive_idle (idle : (dis s k (BitVec.ofNat 2 nt.c)).running = false) :
    s.disArrive k nt = s.modDis k (BitVec.ofNat 2 nt.c) (Dissem.keep nt) := by
  obtain ⟨held, kept⟩ := keep_eq nt (dis s k (BitVec.ofNat 2 nt.c))
  rw [disArrive_eq, disAdvance_idle 32]
  rw [dis_modDis, kept]; exact idle

/-- The notification of an episode's last round ends it (R230). -/
theorem disArrive_lastRound {d : Dissem} (at_ : dis s k (BitVec.ofNat 2 nt.c) = d) (runs : d.running = true)
    (episode : nt.s = d.episode.getLsbD 0) (round : nt.k = d.round) (last : d.members.length ≤ 2 ^ (nt.k + 1))
    (more : ¬ d.members.length ≤ 2 ^ nt.k) :
    ∃ u, s.disArrive k nt = disEnded k (BitVec.ofNat 2 nt.c) u ∧
      ∃ held, dis u k (BitVec.ofNat 2 nt.c) = { d with held := held, round := d.round + 1 } := by
  obtain ⟨held, kept⟩ := keep_eq nt d
  have after : dis (s.modDis k (BitVec.ofNat 2 nt.c) (Dissem.keep nt)) k (BitVec.ofNat 2 nt.c) = { d with held := held } := by
    rw [dis_modDis, at_, kept]
  refine ⟨_, (disArrive_eq ..).trans (disAdvance_lastRound 31 ?_ ?_ ?_ ?_), held.erase (d.s, d.round), ?_⟩
  · rw [after]; exact runs
  · rw [after]; rw [round] at more; exact more
  · have mem := mem_keep nt d
    rw [kept, episode, round] at mem
    rw [after]; exact mem
  · rw [after]; rw [round] at last; exact last
  · rw [dis_modDis, after]; rfl

end

theorem disseminationBarriers : DisseminationBarriers := by
  refine ⟨fun sp n d s task ready idle done few => ?alone, fun sp n d s j task ready idle done => ?first, fun s nt now =>
    ⟨fun g k found away => notification_held now found away, fun lost here part => notification_lost now lost here part⟩,
    fun s nt g k now found runs own => ⟨fun idle => ?kept, fun run episode round last more ctx => ?last⟩⟩
  case alone =>
    have begun := dbarBegun_dis (sp := sp) (n := n) (d := d) (s := s)
    have ctx : (dis (dbarBegun sp n d s) s.who.core n).ctx ≠ .handler := by rw [begun]; exact ctx_of_task task
    refine ⟨disEnded s.who.core n (dbarBegun sp n d s),
      (dbar_begins task ready idle done).trans (congrArg Host.Outcome.next ?_), ?_⟩
    · rw [if_neg (Nat.not_lt.2 few)]
      exact disAdvance_ends 32 (by rw [begun]; rfl) (by rw [begun]; exact few)
    · have x := disEnded_x ctx
      have run := disEnded_run ctx
      have instret := disEnded_instret ctx
      rw [begun] at x run instret
      refine ⟨by rw [disEnded_dis ctx], by rw [disEnded_dis ctx, begun]; rfl, x, run, instret.trans ?_, ?_⟩
      · exact congrArg (fun t => t.instret + 1#32) (dbarBegun_task task)
      · exact sameMemory_of_memory ((disEnded_memory ctx).trans dbarBegun_memory)
  case first =>
    intro ps many first e none
    have begun := dbarBegun_dis (sp := sp) (n := n) (d := d) (s := s)
    refine ⟨(dbarBegun sp n d s).disNotify s.who.core n,
      (dbar_begins task ready idle done).trans (congrArg Host.Outcome.next ?_), ?_⟩
    · rw [if_pos many, dbarBegun_notifies first]
      refine disAdvance_waits 32 (congrArg Dissem.running begun) (fun few => Nat.not_le.2 many ?_) ?_
      · exact (congrArg (fun x => x.members.length ≤ 2 ^ x.round) begun).mp few
      · exact fun held => none ((congrArg (fun x => (x.s, x.round) ∈ x.held) begun).mp held)
    · rw [dbarBegun_notifies first]
      refine ⟨congrArg Dissem.running begun, congrArg Dissem.episode begun, ?_, congrArg Dissem.members begun, ?_, ?_⟩
      · exact congrArg (· ++ _) dbarBegun_pending
      · exact congrArg TaskCtx.run (dbarBegun_task task)
      · exact sameMemory_of_memory dbarBegun_memory
  case kept =>
    refine ⟨_, (notification_arrives now found runs own).trans (congrArg Host.Outcome.next (disArrive_idle idle)), ?_, ?_⟩
    · rw [dis_modDis]; exact mem_keep nt _
    · exact sameMemory_of_memory (memory_modDis ..)
  case last =>
    obtain ⟨u, ends, held, at_⟩ := disArrive_lastRound rfl run episode round last more
    have task : (dis u k (BitVec.ofNat 2 nt.c)).ctx ≠ .handler := by rw [at_]; exact ctx
    have x := disEnded_x task
    have run' := disEnded_run task
    rw [at_] at x run'
    exact ⟨_, (notification_arrives now found runs own).trans (congrArg Host.Outcome.next ends), by rw [disEnded_dis task], x, run'⟩

/-- Settles O46: the owner's operations and replies (`barrierEvents`), and the rounds of a dissemination barrier
(`disseminationBarriers`). -/
theorem barrierProgress : Obligations.BarrierProgress := ⟨barrierEvents, disseminationBarriers⟩

end Sys2Proof.Proofs
end

section
/-! SUPPORT. What the end of a transfer, and its stop between two chunks, leave of its slot, its issuer and memory (R192, R201, R213). -/

namespace Sys2Proof.Proofs

open Sys2Proof.Machine Sys2Proof.Claims

/-! ## What is on its way for a slot is dropped -/

section
variable (s : State) (k slot : Nat)

/-- Only groups are counted on while the events of a slot are dropped. -/
theorem dropSlotEvents_keeps {γ : Type} (p : State → γ) (groups : ∀ (t : State) g a b, p (t.accept g a b) = p t)
    (dropped : ∀ (t : State) q f e a, p { t with pending := q, fetches := f, engineAsks := e, pagerFailed := a } = p t) :
    p (s.dropSlotEvents k slot) = p s := by
  unfold State.dropSlotEvents; dsimp only
  refine (dropped ..).trans (foldl_keeps p _ (fun t e => ?_) _ s)
  split
  · exact groups ..
  · rfl

theorem dropSlotEvents_cores : (s.dropSlotEvents k slot).cores = s.cores :=
  dropSlotEvents_keeps s k slot State.cores (fun _ _ _ _ => accept_cores ..) fun _ _ _ _ _ => rfl

theorem dropSlotEvents_who : (s.dropSlotEvents k slot).who = s.who :=
  dropSlotEvents_keeps s k slot State.who (fun t g a b => by unfold State.accept; split <;> rfl) fun _ _ _ _ _ => rfl

theorem dropSlotEvents_phys : (s.dropSlotEvents k slot).phys = s.phys :=
  dropSlotEvents_keeps s k slot State.phys (fun t g a b => by unfold State.accept; split <;> rfl) fun _ _ _ _ _ => rfl

theorem memory_dropSlotEvents : memory (s.dropSlotEvents k slot) = memory s :=
  Prod.ext (dropSlotEvents_phys ..) (funext fun j => by
    show ((s.dropSlotEvents k slot).coreAt j).lm = (s.coreAt j).lm
    rw [coreAt_congr (dropSlotEvents_cores ..)])

theorem dropSlotEvents_pending (e : Event) (mem : e ∈ (s.dropSlotEvents k slot).pending) : slotEvent k slot e = false := by
  unfold State.dropSlotEvents at mem
  simpa using (List.mem_filter.1 mem).2

end

/-! ## Slots and tasks -/

theorem slotOf_modSlot (s : State) (k slot : Nat) (f : Transfer → Transfer) : slotOf (s.modSlot k slot f) k slot = f (slotOf s k slot) := by
  rw [slotOf, State.modSlot, State.coreAt_modCore_same, slotAt_modSlot, if_pos rfl]; rfl

theorem slotOf_modTask (s : State) (i : Issuer) (f : TaskCtx → TaskCtx) (k slot : Nat) :
    slotOf (s.modTask i f) k slot = slotOf s k slot := slotAt_congr (modTask_slots ..) slot

theorem slotOf_congr {s t : State} (h : t.cores = s.cores) (k slot : Nat) : slotOf t k slot = slotOf s k slot := by
  rw [slotOf, coreAt_congr h]; rfl

/-! ## The end of a transfer (R192) -/

/-- A transfer that has ended, its record or its fault left behind. -/
def endedAs (t : Transfer) : Transfer :=
  { t with state := .ended, cancelled := t.stopReq && !t.fault.isSome, undelivered := t.fault.isSome, inCq := t.q }.settle

/-- What the end of a transfer changes of its issuer. -/
def endsFor (t : Transfer) (slot : Nat) (c : TaskCtx) : TaskCtx :=
  let c := { c with ocnt := { c.ocnt with copies := c.ocnt.copies - 1 }, held := if t.fault.isSome then c.held ++ [slot] else c.held }
  if t.q then { c with cq := c.cq ++ [slot] }.endIdle else c

section
variable (s : State) (k slot : Nat)

theorem endTransfer_eq : s.endTransfer k slot = ((s.dropSlotEvents k slot).modSlot k slot fun _ => endedAs (slotOf s k slot)).modTask
    ((slotOf s k slot).issuer k) (endsFor (slotOf s k slot) slot) := rfl

theorem endTransfer_slot : slotOf (s.endTransfer k slot) k slot = endedAs (slotOf s k slot) := by
  rw [endTransfer_eq, slotOf_modTask, slotOf_modSlot]

theorem endTransfer_who : (s.endTransfer k slot).who = s.who := dropSlotEvents_who ..

theorem issuer_ctx (t : Transfer) (k : Nat) : (t.issuer k).ctx ≠ .handler := by
  unfold Transfer.issuer; split <;> exact fun h => nomatch h

theorem endTransfer_task : (s.endTransfer k slot).taskAt ((slotOf s k slot).issuer k) =
    endsFor (slotOf s k slot) slot (s.taskAt ((slotOf s k slot).issuer k)) := by
  rw [endTransfer_eq, State.taskAt_modTask_same _ _ _ (issuer_ctx _ _), State.modSlot, taskAt_modSlot, State.taskAt, coreAt_congr (dropSlotEvents_cores ..)]
  rfl

theorem memory_endTransfer : memory (s.endTransfer k slot) = memory s := by
  rw [endTransfer_eq, memory_modTask, memory_modSlot, memory_dropSlotEvents]

end

/-- A transfer that stops at its issuer's request, its record not asked for, leaves its slot FREE (R192, R203). -/
theorem endedAs_cancelled {t : Transfer} (stop : t.stopReq = true) (good : t.fault = none) (noRecord : t.q = false) :
    endedAs t = { t with state := .free, cancelled := true, undelivered := false, inCq := false } := by
  rw [endedAs, Transfer.settle, good, stop, noRecord]; rfl

/-! ## A transfer that stops between two chunks (R192, R213) -/

/-- A transfer SAVED between two chunks (R192). -/
def savedAs (t : Transfer) : Transfer := { t with state := .saved, issued := t.landedPieces, heard := t.landedPieces, writes := [] }

section
variable {s : State} {core slot : Nat} (now : Performs s (.transferStop core slot))
include now

theorem transferStop_saves (stops : (s.groupAt (s.coreAt core).group).state = .preempting ∨ (s.groupAt (s.coreAt core).group).state = .faulted)
    (whole : s.slotHalf core slot = false) (unbegun : (slotOf s core slot).begun = []) (active : (slotOf s core slot).state = .active)
    (unsent : (slotOf s core slot).sent = []) (good : (slotOf s core slot).fault = none)
    (phase : (slotOf s core slot).kind ≠ .send ∨ (slotOf s core slot).phase = .held ∨ (slotOf s core slot).phase = .rnr ∨
      (slotOf s core slot).phase = .admitted) :
    exec .transferStop s = .next ((s.dropSlotEvents core slot).modSlot core slot savedAs) := by
  show execTransferStop s = _
  rw [execTransferStop, now]
  have group : s.stopsTransfers core = true := by rcases stops with h | h <;> rw [State.stopsTransfers, h] <;> rfl
  exact if_pos ⟨group, active, unsent, good, unbegun, by rw [whole]; rfl, phase⟩

theorem transferStop_waits (begun : (slotOf s core slot).begun ≠ []) : exec .transferStop s = .next s := by
  show execTransferStop s = _
  rw [execTransferStop, now]
  exact if_neg fun ⟨_, _, _, _, unbegun, _⟩ => begun unbegun

end

theorem transferStops : TransferStops := by
  refine ⟨fun s core slot now stops whole unbegun active unsent good phase => ⟨_,
    transferStop_saves now stops whole unbegun active unsent good phase, ?_⟩, fun s core slot => transferStop_waits, fun s core slot now active => ?_⟩
  · have slotIs : slotOf ((s.dropSlotEvents core slot).modSlot core slot savedAs) core slot = savedAs (slotOf s core slot) := by
      rw [slotOf_modSlot, slotOf_congr (dropSlotEvents_cores ..)]
    rw [slotIs]
    exact ⟨rfl, rfl, rfl, rfl, rfl, rfl, fun e mem => dropSlotEvents_pending s core slot e mem,
      sameMemory_of_memory ((memory_modSlot ..).trans (memory_dropSlotEvents ..))⟩
  · show execTransferStall s = _
    rw [execTransferStall, now]
    exact if_pos active

end Sys2Proof.Proofs
end

section
/-! SUPPORT. What an engine's accesses leave of transfers and their issuers: no fault of a transfer comes on its way, and every transfer slot and
task context stays. -/

namespace Sys2Proof.Proofs

open Sys2Proof.Machine Sys2Proof.Claims

/-- What of the state an engine's accesses leave alone beside memory: whether a fault of a slot is on its way, the acting issuer, and every
core's transfers and tasks. -/
def calm (core slot : Nat) (s : State) :=
  (s.pending.any (faultEvent core slot), s.who, fun k => ((s.coreAt k).slots, (s.coreAt k).tc0, (s.coreAt k).tc1))

section
variable (core slot : Nat)

theorem calm_postAll (s : State) {es : List Event} (others : ∀ e ∈ es, faultEvent core slot e = false) :
    calm core slot (s.postAll es) = calm core slot s := by
  have same : (s.postAll es).pending.any (faultEvent core slot) = s.pending.any (faultEvent core slot) := by
    show (s.pending ++ es).any _ = _
    have none : es.any (faultEvent core slot) = false := List.any_eq_false.2 fun e mem => by simp [others e mem]
    rw [List.any_append, none, Bool.or_false]
  exact Prod.ext same rfl

theorem calm_post (s : State) {e : Event} (other : faultEvent core slot e = false) : calm core slot (s.post e) = calm core slot s :=
  calm_postAll core slot s (es := [e]) (by simpa using other)

/-! ## Slices -/

variable (s : State)

@[simp] theorem calm_setPageState (l : Leaf) (st : Nat) : calm core slot (s.setPageState l st) = calm core slot s := rfl

@[simp] theorem calm_modSlice (k : Nat) (f : Slice → Slice) : calm core slot (s.modSlice k f) = calm core slot s := rfl

@[simp] theorem calm_touch (l : Leaf) (w : Bool) : calm core slot (s.touch l w) = calm core slot s := by
  unfold State.touch; split <;> rfl

@[simp] theorem calm_writeSectors (l : SLine) (is : List Nat) : calm core slot (s.writeSectors l is) = calm core slot s :=
  foldl_keeps (calm core slot) _ (fun _ _ => by rfl) is s

@[simp] theorem calm_writeBack (l : SLine) : calm core slot (s.writeBack l) = calm core slot s := by
  unfold State.writeBack; dsimp only; split <;> simp

@[simp] theorem calm_dropLine (k : Nat) (l : SLine) : calm core slot (s.dropLine k l) = calm core slot s := by simp [State.dropLine]

@[simp] theorem calm_fetchGranule (c v : Nat) (l : Leaf) : calm core slot (s.fetchGranule c v l) = calm core slot s :=
  foldl_keeps (calm core slot) _ (fun _ _ => by rfl) _ s

@[simp] theorem calm_memRead (c v r : Nat) (l : Leaf) : calm core slot (s.memRead c v r l) = calm core slot s := by
  unfold State.memRead; split <;> simp

@[simp] theorem calm_clearPoison (c v : Nat) (l : Leaf) : calm core slot (s.clearPoison c v l) = calm core slot s := by
  unfold State.clearPoison; split
  · rfl
  · exact foldl_keeps (calm core slot) _ (fun t a => by split <;> rfl) _ s

@[simp] theorem calm_cleansePieces (c : Nat) (ps : List (Nat × Nat × Leaf)) : calm core slot (s.cleansePieces c ps) = calm core slot s :=
  foldl_keeps (calm core slot) _ (fun t x => by dsimp only; split <;> simp) ps s

@[simp] theorem calm_makeRoom {α : Type} (n : Nat) (xs : List α) : calm core slot (s.makeRoom n xs).2 = calm core slot s := by
  unfold State.makeRoom; split <;> rfl

@[simp] theorem calm_holdPointer (k : Nat) (p : Nat × Nat × Nat) : calm core slot (s.holdPointer k p) = calm core slot s := by
  unfold State.holdPointer; split <;> simp

@[simp] theorem calm_countAccess (k c p v : Nat) : calm core slot (s.countAccess k c p v) = calm core slot s := by
  unfold State.countAccess; dsimp only; split
  · simp
  · simp [foldl_keeps (calm core slot) (State.holdPointer k) (fun t x => calm_holdPointer core slot t k x)]

@[simp] theorem calm_unpin (k c n : Nat) : calm core slot (s.unpin k c n) = calm core slot s := by
  unfold State.unpin; dsimp only; split
  · split <;> simp
  · rfl

@[simp] theorem calm_noteRequest (c v r : Nat) (l : Leaf) : calm core slot (s.noteRequest c v r l) = calm core slot s := by
  unfold State.noteRequest; dsimp only; split
  · rw [calm_modSlice]; split <;> simp
  · simp

@[simp] theorem calm_dropPage (c : Nat) (l : Leaf) (keep : Bool) : calm core slot (s.dropPage c l keep) = calm core slot s := by
  unfold State.dropPage; dsimp only; split
  · exact foldl_keeps (calm core slot) (fun (t : State) (e : Nat × SLine) => t.writeBack e.2) (fun t e => calm_writeBack core slot t e.2) _ s
  · rfl

/-- A page that goes to the victim tier travels in pieces, none of which is a transfer's fault (R269). -/
@[simp] theorem calm_victimise (c : Nat) (l : Leaf) : calm core slot (s.victimise c l) = calm core slot s := by
  unfold State.victimise; dsimp only; split
  · rfl
  · split
    · rw [calm_postAll core slot _ ?_, calm_dropPage, calm_setPageState]
      · rfl
      · intro e mem
        obtain ⟨_, _, rfl⟩ := List.mem_map.1 mem
        rfl
    · rfl

@[simp] theorem calm_sweep (k : Nat) : calm core slot (s.sweep k).2 = calm core slot s := by unfold State.sweep; rfl

@[simp] theorem calm_flip : calm core slot s.flip.2 = calm core slot s := rfl

@[simp] theorem calm_evict (k : Nat) : calm core slot (s.evict k) = calm core slot s := by
  unfold State.evict; dsimp only; split
  · split
    · rw [calm_victimise, calm_sweep, calm_dropLine]; rfl
    · rw [calm_sweep, calm_dropLine]; rfl
  · rfl

@[simp] theorem calm_evictOver (k : Nat) : calm core slot (s.evictOver k) = calm core slot s := by
  have h := foldl_keeps (calm core slot) (fun (t : State) (_ : Nat) => t.evict k) (fun t _ => calm_evict core slot t k)
    (List.range ((s.sliceAt k).general.length - generalLines)) s
  unfold State.evictOver; dsimp only; split
  · rw [calm_evict, calm_flip]; exact h
  · rw [calm_flip]; exact h

@[simp] theorem calm_evictFor (c : Nat) (vas : List Nat) : calm core slot (s.evictFor c vas) = calm core slot s :=
  foldl_keeps (calm core slot) (fun (t : State) (k : Nat) => t.evictOver k) (fun t k => calm_evictOver core slot t k) _ s

@[simp] theorem calm_noteLines (c r : Nat) (ps : List (Nat × Leaf)) (counted : List Nat) :
    calm core slot (s.noteLines c r ps counted) = calm core slot s := by
  have h := foldl_keeps (fun acc : List Nat × State => calm core slot acc.2)
    (fun (acc : List Nat × State) (p : Nat × Leaf) =>
      if acc.1.contains (p.1 / 128) then acc else (p.1 / 128 :: acc.1, acc.2.noteRequest c p.1 r p.2))
    (fun acc x => by split <;> simp) ps (counted, s)
  unfold State.noteLines; dsimp only; split
  · rw [calm_evictFor]; exact h
  · exact h

/-! ## Engines -/

@[simp] theorem calm_setLocalBytes (k a : Nat) (bs : List Byte) : calm core slot (s.setLocalBytes k a bs) = calm core slot s := by
  refine Prod.ext rfl (Prod.ext rfl (funext fun j => ?_))
  exact coreAt_modCore_keeps (fun c => (c.slots, c.tc0, c.tc1)) (f := fun c =>
    { c.settle (fun w => a < w + 4 && w < a + bs.length) with lm := c.lm.setBytes a bs }) (fun _ => rfl) s k j

@[simp] theorem calm_setPhysBytes (a : Nat) (bs : List Byte) : calm core slot (s.setPhysBytes a bs) = calm core slot s := by
  unfold State.setPhysBytes; split
  · simp
  · rfl

@[simp] theorem calm_memWrite (c v r : Nat) (l : Leaf) (bs : List Byte) : calm core slot (s.memWrite c v r l bs) = calm core slot s := by
  unfold State.memWrite; dsimp only
  split
  · simp
  · split
    · simp
    · split
      · rw [calm_modSlice]; split <;> simp
      · split
        · exact calm_setPhysBytes core slot s (l.pa v) bs
        · simp

@[simp] theorem calm_elemWrite (c v r : Nat) (l : Leaf) (bs : List Byte) : calm core slot (s.elemWrite c v r l bs) = calm core slot s :=
  foldl_keeps (calm core slot) _ (fun t _ => calm_memWrite core slot t ..) _ s

@[simp] theorem calm_writePiece (c r : Nat) (p : Piece) (m : PieceMeet) : calm core slot (s.writePiece c r p m) = calm core slot s := by
  unfold State.writePiece; split <;> simp

@[simp] theorem calm_readPiece (c r : Nat) (p : Piece) (m : PieceMeet) : calm core slot (s.readPiece c r p m).2 = calm core slot s := by
  cases m with
  | here l => exact (calm_memRead ..).trans (calm_touch ..)
  | zero l => exact calm_touch ..
  | _ => rfl

variable {s} {e : Engine} {c r : Nat}

/-- A read of an engine that is complete. -/
theorem calm_engineRead {rs : List (Nat × Nat)} {bs : List Byte} {t : State} (done : s.engineRead e c r rs = (.done bs, t)) :
    calm core slot t = calm core slot s := by
  unfold State.engineRead at done; dsimp only at done
  split at done
  · cases done
  · cases done
  · obtain ⟨-, rfl⟩ := Prod.mk.inj done
    rw [calm_noteLines]
    refine foldl_keeps (fun acc : List Byte × State => calm core slot acc.2) _ (fun acc x => ?_) _ ([], s)
    exact calm_readPiece ..

/-- Writes of an engine that are complete. -/
theorem calm_engineDo {list : List Piece} {counted : List Nat} {bs : List Byte} {t : State}
    (done : s.engineDo e c r list counted = (.done bs, t)) : calm core slot t = calm core slot s := by
  unfold State.engineDo at done; dsimp only at done
  split at done
  · cases done
  · cases done
  · obtain ⟨-, rfl⟩ := Prod.mk.inj done
    rw [calm_noteLines, calm_cleansePieces]
    exact foldl_keeps (calm core slot) _ (fun t x => calm_writePiece ..) _ s

theorem calm_readSpots {k code : Nat} {edge : Option Cause} {ps : List Spot} {vs : List (List Byte)} {t : State}
    (read : s.readSpots e k r code edge ps = (.vals vs, t)) : calm core slot t = calm core slot s := by
  unfold State.readSpots at read; dsimp only at read
  split at read
  · cases read
  · split at read
    · cases read
    · cases read
    · rename_i done
      obtain ⟨-, rfl⟩ := Prod.mk.inj read
      exact calm_engineRead core slot done

theorem calm_writeSpots {k : Nat} {ws : List (Spot × List Byte)} {counted : List Nat} {bs : List Byte} {t : State}
    (written : s.writeSpots e k r ws counted = (.done bs, t)) : calm core slot t = calm core slot s := by
  unfold State.writeSpots at written; dsimp only at written
  split at written
  · rename_i done
    obtain ⟨-, rfl⟩ := Prod.mk.inj written
    refine (foldl_keeps (calm core slot) _ (fun t w => ?_) ws _).trans (calm_engineDo core slot done)
    split <;> simp
  · rename_i other
    exact absurd written (other bs t)

/-! ## The units of a copy that stops (R201) -/

variable (s)

@[simp] theorem calm_strayUnit (k j n : Nat) (es : List Nat) : calm core slot (s.strayUnit k j n es) = calm core slot s := by
  unfold State.strayUnit; dsimp only
  split
  · rfl
  · split
    · rename_i read
      split
      · rename_i written
        exact (calm_writeSpots core slot written).trans ((calm_readSpots core slot read).trans (calm_flip ..))
      · rfl
    · rfl

@[simp] theorem calm_stray (k j : Nat) (first : Option Nat) : calm core slot (s.stray k j first) = calm core slot s := by
  unfold State.stray; dsimp only
  split
  · rfl
  · exact foldl_keeps (calm core slot) _ (fun t n => foldl_keeps (calm core slot) _ (fun u es => calm_strayUnit core slot u k j n es) _ t) _ s

@[simp] theorem calm_poisonBar (k j : Nat) : calm core slot (s.poisonBar k j) = calm core slot s := by
  unfold State.poisonBar; dsimp only; split
  · exact calm_post core slot s rfl
  · rfl

end

end Sys2Proof.Proofs
end

section
/-! SUPPORT. CPCANCEL: the transfer that it asks to stop, and the status that it gives (R201, R203). Settles O44. -/

namespace Sys2Proof.Proofs

open Sys2Proof.Machine Sys2Proof.Claims

/-! ## A running chunk transfer that is asked to stop (R201, R203) -/

/-- A transfer that can stop at once: running, of chunks, unfaulted, none of its arrivals on its way, nothing read that is still to be
delivered, and not complete. -/
structure Stoppable (s : State) (core slot : Nat) : Prop where
  active : (slotOf s core slot).state = .active
  chunks : (slotOf s core slot).kind ≠ .send
  noGather : (slotOf s core slot).kind ≠ .gather
  unasked : (slotOf s core slot).stopReq = false
  good : (slotOf s core slot).fault = none
  unsent : (slotOf s core slot).sent = []
  partial_ : (slotOf s core slot).done.length ≠ (slotOf s core slot).chunks
  unread : (slotOf s core slot).ordered = true ∨ (slotOf s core slot).writes = []
  noFault : ∀ e ∈ s.pending, faultEvent core slot e = false

/-- A transfer that is asked to stop. -/
def askedToStop (t : Transfer) : Transfer := { t with stopReq := true }

/-- A transfer that is asked to stop, the units of its chunks in flight settled and its barrier poisoned. -/
def stopping (core slot : Nat) (s : State) : State := ((s.modSlot core slot askedToStop).stray core slot none).poisonBar core slot

section
variable {s : State} {core slot : Nat}

theorem calm_stopping : calm core slot (stopping core slot s) = calm core slot (s.modSlot core slot askedToStop) :=
  (calm_poisonBar ..).trans (calm_stray ..)

theorem slotOf_of_calm {t u : State} (h : calm core slot t = calm core slot u) : slotOf t core slot = slotOf u core slot :=
  slotAt_congr (congrArg Prod.fst (congrFun (congrArg (fun p => p.2.2) h) core)) slot

theorem taskAt_of_calm {t u : State} (h : calm core slot t = calm core slot u) {i : Issuer} (ctx : i.ctx ≠ .handler) :
    t.taskAt i = u.taskAt i := by
  have tasks := congrArg Prod.snd (congrFun (congrArg (fun p => p.2.2) h) i.core)
  have tc0 : (t.coreAt i.core).tc0 = (u.coreAt i.core).tc0 := congrArg Prod.fst tasks
  have tc1 : (t.coreAt i.core).tc1 = (u.coreAt i.core).tc1 := congrArg Prod.snd tasks
  rcases i with ⟨k, _ | _ | _⟩
  · exact tc0
  · exact tc1
  · exact absurd rfl ctx

theorem slotOf_stopping : slotOf (stopping core slot s) core slot = askedToStop (slotOf s core slot) := by
  rw [slotOf_of_calm calm_stopping, slotOf_modSlot]

theorem stopping_who : (stopping core slot s).who = s.who := congrArg (fun p => p.2.1) (calm_stopping (core := core) (slot := slot) (s := s))

theorem taskAt_stopping {i : Issuer} (ctx : i.ctx ≠ .handler) : (stopping core slot s).taskAt i = s.taskAt i :=
  (taskAt_of_calm calm_stopping ctx).trans (taskAt_modSlot ..)

/-- A copy that is not in order has nothing in flight that is not credited (R199). -/
theorem memory_stopping (free : (slotOf s core slot).ordered = false) : memory (stopping core slot s) = memory s := by
  have strays : (askedToStop (slotOf s core slot)).strays none = [] := by
    unfold Transfer.strays; split
    · rfl
    · exact if_neg (by rw [show (askedToStop (slotOf s core slot)).ordered = false from free]; exact Bool.false_ne_true)
  have slotIs : ((s.modSlot core slot askedToStop).coreAt core).slotAt slot = askedToStop (slotOf s core slot) := slotOf_modSlot ..
  have still : (s.modSlot core slot askedToStop).stray core slot none = s.modSlot core slot askedToStop := by
    unfold State.stray; dsimp only
    rw [slotIs, strays]; split <;> rfl
  unfold stopping State.poisonBar; dsimp only
  rw [still]; split
  · exact memory_modSlot s core slot askedToStop
  · exact memory_modSlot s core slot askedToStop

variable (can : Stoppable s core slot)
include can

/-- A transfer that can stop ends at once (R192, R203). -/
theorem requestStop_ends : s.requestStop core slot = (stopping core slot s).endTransfer core slot := by
  obtain ⟨active, chunks, noGather, unasked, good, unsent, partial_, unread, noFault⟩ := can
  have slotIs := slotOf_stopping (s := s) (core := core) (slot := slot)
  have none_ : (stopping core slot s).pending.any (faultEvent core slot) = false := by
    have same := congrArg Prod.fst (calm_stopping (core := core) (slot := slot) (s := s))
    exact same.trans (List.any_eq_false.2 fun e mem => by simp [noFault e mem])
  have ends : (stopping core slot s).tryEnd core slot = (stopping core slot s).endTransfer core slot := by
    unfold State.tryEnd; dsimp only
    rw [show (stopping core slot s).slotT core slot = askedToStop (slotOf s core slot) from slotIs, none_]
    have read : ((askedToStop (slotOf s core slot)).ordered || (askedToStop (slotOf s core slot)).writes.isEmpty) = true :=
      Bool.or_eq_true_iff.2 (unread.imp id List.isEmpty_iff.2)
    have asked : (askedToStop (slotOf s core slot)).stopReq = true := rfl
    have runs : (askedToStop (slotOf s core slot)).state = .active := active
    have none_ : (askedToStop (slotOf s core slot)).sent = [] := unsent
    have other : (askedToStop (slotOf s core slot)).kind ≠ .gather := noGather
    exact if_pos (by simp [runs, none_, asked, read, other])
  have goes : ((slotOf s core slot).stopReq || (slotOf s core slot).fault.isSome || ((slotOf s core slot).kind != .send &&
      (slotOf s core slot).done.length + (slotOf s core slot).sent.length == (slotOf s core slot).chunks)) = false := by
    simp [unasked, good, unsent, partial_]
  unfold State.requestStop; dsimp only
  refine (if_neg (by rw [show s.slotT core slot = slotOf s core slot from rfl, goes]; exact Bool.false_ne_true)).trans ?_
  rw [show s.slotT core slot = slotOf s core slot from rfl]
  split
  · rename_i send; exact absurd send chunks
  · exact ends

variable (noRecord : (slotOf s core slot).q = false)
include noRecord

theorem slotOf_requestStop : slotOf (s.requestStop core slot) core slot =
    { slotOf s core slot with state := .free, stopReq := true, cancelled := true, undelivered := false, inCq := false } := by
  rw [requestStop_ends can, endTransfer_slot, slotOf_stopping]
  exact endedAs_cancelled rfl can.good noRecord

theorem task_requestStop : (s.requestStop core slot).taskAt ((slotOf s core slot).issuer core) =
    { s.taskAt ((slotOf s core slot).issuer core) with
      ocnt := { (s.taskAt ((slotOf s core slot).issuer core)).ocnt with
        copies := (s.taskAt ((slotOf s core slot).issuer core)).ocnt.copies - 1 } } := by
  have ended := endTransfer_task (stopping core slot s) core slot
  rw [slotOf_stopping] at ended
  rw [requestStop_ends can]
  refine ended.trans ?_
  rw [taskAt_stopping (issuer_ctx _ _), endsFor]
  have good : (askedToStop (slotOf s core slot)).fault = none := can.good
  have quiet : (askedToStop (slotOf s core slot)).q = false := noRecord
  rw [good, quiet]; rfl

end

/-- The issuer of a transfer of the acting task context (R192). -/
theorem issuer_eq_who {s : State} (task : InTask s) {t : Transfer} (mine : t.tc = (s.who.ctx == .tc1)) : t.issuer s.who.core = s.who := by
  have ctx := ctx_of_task task
  rw [Transfer.issuer, mine]
  rcases hw : s.who with ⟨k, _ | _ | _⟩
  · rfl
  · rfl
  · exact absurd (congrArg Issuer.ctx hw) ctx

/-! ## CPCANCEL (R203) -/

section
variable {s : State} {d a : BitVec 4} (task : InTask s) (clear : Clear s [a, d] []) (inRange : (s.x a).toNat < 65536)
  (free : s.task.waiting = true ∨ s.task.held = [])
include task clear inRange free

theorem cpcancel_goesOn : exec (.cpcancel d a) s = .next (
    if s.core.idCurrent (s.x a) ∧ !((s.core.slotAt ((s.x a).toNat % 256)).tc == (s.who.ctx == .tc1)) then s.trap .transferId (s.x a)
    else
      let s' := if s.core.status (s.x a) = 0 then s.requestStop s.who.core ((s.x a).toNat % 256) else s
      if s'.core.status (s.x a) = 0 then s'.keepWaiting else s'.giveStatus d (s'.core.status (s.x a))) :=
  congrArg Host.Outcome.next (transferOp_goesOn task clear _ inRange free)

theorem cpcancel_foreign (current : s.core.idCurrent (s.x a) = true)
    (other : (s.core.slotAt ((s.x a).toNat % 256)).tc ≠ (s.who.ctx == .tc1)) : exec (.cpcancel d a) s = .next (s.trap .transferId (s.x a)) := by
  rw [cpcancel_goesOn task clear inRange free, if_pos ⟨current, by simpa using other⟩]

variable (mine : s.core.idCurrent (s.x a) = false ∨ (s.core.slotAt ((s.x a).toNat % 256)).tc = (s.who.ctx == .tc1))
include mine

theorem cpcancel_ended (ended : s.core.status (s.x a) ≠ 0) :
    exec (.cpcancel d a) s = .next (s.giveStatus d (s.core.status (s.x a))) := by
  rw [cpcancel_goesOn task clear inRange free, if_neg (by rcases mine with h | h <;> simp [h])]
  dsimp only
  rw [if_neg ended, if_neg ended]

theorem cpcancel_stops {u : State} (runs : s.core.status (s.x a) = 0) (stops : s.requestStop s.who.core ((s.x a).toNat % 256) = u)
    (ended : u.core.status (s.x a) ≠ 0) : exec (.cpcancel d a) s = .next (u.giveStatus d (u.core.status (s.x a))) := by
  rw [cpcancel_goesOn task clear inRange free, if_neg (by rcases mine with h | h <;> simp [h])]
  dsimp only
  rw [if_pos runs, stops, if_neg ended]

end

/-- An ID that is not current has status 3, and no other has it (R203). -/
theorem idStatus_eq_three (c : Core) (id : Word) : idStatus c id = 3#32 ↔ c.idCurrent id = false := by
  rw [← Bool.not_eq_true, idCurrent_iff]
  unfold idStatus; dsimp only
  split
  · rename_i current
    refine ⟨fun h => absurd h ?_, fun h => absurd current h⟩
    split
    · decide
    · split <;> decide
  · rename_i gone
    exact ⟨fun _ => gone, fun _ => rfl⟩

/-- A transfer that has been cancelled has status 2 (R203). -/
theorem idStatus_eq_two {c : Core} {id : Word} (current : c.idCurrent id = true)
    (ended : (c.slotAt (id.toNat % 256)).state = .free) (cancelled : (c.slotAt (id.toNat % 256)).cancelled = true) : idStatus c id = 2#32 := by
  unfold idStatus
  rw [if_pos ((idCurrent_iff c id).1 current), ended, cancelled]; rfl

theorem giveStatus_ended {s : State} {c : Core} {id : Word} (d : BitVec 4) (ended : idStatus c id = 1#32 ∨ idStatus c id = 2#32) :
    s.giveStatus d (c.status id) =
      (((s.dropL1 s.who.core).modT fun t => { t with waiting := false }).setX d (idStatus c id)).retire 4#32 := by
  rw [giveStatus_status, if_pos ended]

/-- An instruction that waits no more has acquired what a transfer delivered (R203). -/
def acquiredBy (u : State) : State := (u.dropL1 u.who.core).modT fun t => { t with waiting := false }

theorem acquiredBy_slotAt (u : State) (slot : Nat) : (acquiredBy u).core.slotAt slot = u.core.slotAt slot :=
  slotAt_congr ((modTask_slots ..).trans (coreAt_modCore_keeps Core.slots (f := fun c => { c with l1 := [], l1Fills := [] })
    (fun _ => rfl) u u.who.core u.who.core)) slot

theorem acquiredBy_ocnt {u : State} (ctx : u.who.ctx ≠ .handler) : (acquiredBy u).task.ocnt = u.task.ocnt := by
  have task : (acquiredBy u).task = { (u.dropL1 u.who.core).taskAt u.who with waiting := false } := State.taskAt_modTask_same _ _ _ ctx
  rw [task, taskAt_dropL1]; rfl

theorem memory_acquiredBy (u : State) : memory (acquiredBy u) = memory u := (memory_modTask ..).trans (memory_dropL1 ..)

theorem cancelledTransfers : CancelledTransfers := by
  intro d a s task clear inRange free
  dsimp only
  have zero : s.core.status (s.x a) = 0 ↔ idStatus s.core (s.x a) = 0#32 := status_eq_iff _ _ (by omega)
  have current (h : idStatus s.core (s.x a) ≠ 3#32) : s.core.idCurrent (s.x a) = true := by
    rw [← Bool.not_eq_false, ← idStatus_eq_three]; exact h
  refine ⟨fun gone => ?gone, fun ended mine => ?ended, fun live other => cpcancel_foreign task clear inRange free (current live) other,
    fun runs mine active chunks noGather unasked good unsent noRecord partial_ unread noFault => ?stops⟩
  case gone =>
    have ended : s.core.status (s.x a) ≠ 0 := fun h => by
      rw [zero.1 h] at gone; exact absurd gone (by decide)
    rw [cpcancel_ended task clear inRange free (.inl ((idStatus_eq_three _ _).1 gone)) ended, giveStatus_status, gone, if_neg (by decide)]
  case ended =>
    have done : s.core.status (s.x a) ≠ 0 := fun h => by
      rw [zero.1 h] at ended; exact absurd ended (by decide)
    rw [cpcancel_ended task clear inRange free (.inr mine) done, giveStatus_ended d ended]
  case stops =>
    have can : Stoppable s s.who.core ((s.x a).toNat % 256) :=
      ⟨active, chunks, noGather, unasked, good, unsent, partial_, unread, noFault⟩
    have issuer : (slotOf s s.who.core ((s.x a).toNat % 256)).issuer s.who.core = s.who := issuer_eq_who task mine
    generalize stops : s.requestStop s.who.core ((s.x a).toNat % 256) = u
    have slotIs := slotOf_requestStop can noRecord
    have taskIs := task_requestStop can noRecord
    have who : u.who = s.who := by rw [← stops, requestStop_ends can, endTransfer_who, stopping_who]
    rw [issuer, stops] at taskIs
    rw [stops] at slotIs
    have own : u.core.slotAt ((s.x a).toNat % 256) = slotOf u s.who.core ((s.x a).toNat % 256) := by rw [State.core, who]; rfl
    have live : s.core.idCurrent (s.x a) = true := current (by rw [runs]; decide)
    have two : idStatus u.core (s.x a) = 2#32 :=
      idStatus_eq_two (by unfold Core.idCurrent; rw [own, slotIs]; exact live) (by rw [own, slotIs]) (by rw [own, slotIs])
    have ended : u.core.status (s.x a) ≠ 0 := fun h => by
      rw [(status_eq_iff u.core (s.x a) (n := 0) (by omega)).1 h] at two; exact absurd two (by decide)
    have gives := cpcancel_stops task clear inRange free (.inr mine) (zero.2 runs) stops ended
    rw [giveStatus_ended d (.inr two), two] at gives
    have notHandler : u.who.ctx ≠ .handler := by rw [who]; exact ctx_of_task task
    refine ⟨acquiredBy u, gives, ?state, ?cancelled, ?copies, fun unordered => ?memory⟩
    case copies => rw [acquiredBy_ocnt notHandler, State.task, who, taskIs]; rfl
    case memory =>
      refine sameMemory_of_memory ((memory_acquiredBy u).trans ?_)
      rw [← stops, requestStop_ends can, memory_endTransfer, memory_stopping unordered]
    all_goals rw [acquiredBy_slotAt, own, slotIs]

/-- Settles O44: what a stop leaves (`transferStops`), and what CPCANCEL gives (`cancelledTransfers`). -/
theorem transferEnds : Obligations.TransferEnds := ⟨transferStops, cancelledTransfers⟩

end Sys2Proof.Proofs
end

section
/-! SUPPORT. Writes of a transfer to local memory, in order and perhaps only some of them at a time (R198, R201). -/

namespace Sys2Proof.Proofs

open Sys2Proof.Machine Sys2Proof.Claims

/-! ## Accesses of nothing -/

theorem noteLines_nil (s : State) (c r : Nat) (counted : List Nat) : s.noteLines c r [] counted = s := by
  unfold State.noteLines; dsimp only
  split <;> rfl

theorem engineWrite_nil (s : State) (e : Engine) (c r : Nat) (counted : List Nat) : s.engineWrite e c r [] counted = (.done [], s) :=
  congrArg (Prod.mk _) (noteLines_nil s c r counted)

theorem engineRead_nil (s : State) (e : Engine) (c r : Nat) : s.engineRead e c r [] = (.done [], s) :=
  congrArg (Prod.mk _) (noteLines_nil s c r [])

/-! ## Local places -/

/-- Writes that all go to local memory. -/
abbrev AllLocal (ws : List (Spot × List Byte)) : Prop := ∀ w ∈ ws, ∃ a, w.1 = .loc a

theorem farWrites_of_local {ws : List (Spot × List Byte)} (places : AllLocal ws) : farWrites ws = [] := by
  refine List.filterMap_eq_nil_iff.2 fun w mem => ?_
  obtain ⟨a, place⟩ := places w mem
  obtain ⟨p, bs⟩ := w
  subst place; rfl

/-- A write of a core to its local memory, where its place is there. -/
def landOne (core : Nat) (s : State) (w : Spot × List Byte) : State :=
  match w.1 with
  | .loc a => s.setLocalBytes core a w.2
  | _ => s

theorem writeSpots_local {ws : List (Spot × List Byte)} (places : AllLocal ws) (s : State) (e : Engine) (core r : Nat) (counted : List Nat) :
    s.writeSpots e core r ws counted = (.done [], ws.foldl (landOne core) s) := by
  have none_ : s.engineWrite e (s.coreAt core).ctxid r (farWrites ws) counted = (.done [], s) := by
    rw [farWrites_of_local places, engineWrite_nil]
  unfold State.writeSpots; dsimp only
  split
  · rename_i done
    obtain ⟨-, rfl⟩ := Prod.mk.inj (done.symm.trans none_)
    rfl
  · rename_i other
    exact absurd none_ (other _ _)

/-- Memory after writes of a core to its local memory. -/
def landedMemory (s : State) (core : Nat) (ws : List (Spot × List Byte)) :=
  (s.phys, fun k => if k = core then localWrites ws (s.coreAt k).lm else (s.coreAt k).lm)

theorem memory_landOne (core : Nat) (s : State) (w : Spot × List Byte) : memory (landOne core s w) = landedMemory s core [w] := by
  obtain ⟨p, bs⟩ := w
  cases p with
  | loc a =>
    refine Prod.ext rfl (funext fun k => ?_)
    show ((s.setLocalBytes core a bs).coreAt k).lm = _
    rw [State.setLocalBytes, State.coreAt_modCore]
    simp only [landedMemory, localWrites, List.foldl_cons, List.foldl_nil]
    by_cases h : k = core
    · subst h; rw [if_pos rfl, if_pos rfl]
    · rw [if_neg (Ne.symm h), if_neg h]
  | va a => exact Prod.ext rfl (funext fun k => (ite_self _).symm)
  | none => exact Prod.ext rfl (funext fun k => (ite_self _).symm)

theorem memory_landAll (core : Nat) (ws : List (Spot × List Byte)) (s : State) :
    memory (ws.foldl (landOne core) s) = landedMemory s core ws := by
  induction ws generalizing s with
  | nil => exact Prod.ext rfl (funext fun k => (ite_self _).symm)
  | cons w ws ih =>
    have one := memory_landOne core s w
    rw [List.foldl_cons, ih]
    have phys : (landOne core s w).phys = s.phys := congrArg Prod.fst one
    have lm (k : Nat) : ((landOne core s w).coreAt k).lm = if k = core then localWrites [w] (s.coreAt k).lm else (s.coreAt k).lm :=
      congrFun (congrArg Prod.snd one) k
    refine Prod.ext phys (funext fun k => ?_)
    simp only [landedMemory, lm, localWrites, List.foldl_cons, List.foldl_nil]
    split <;> rfl

/-! ## What has been read is written on (R198, R201) -/

theorem acrossPages_copy (w : Spot × List Byte) : acrossPages none w = false := by
  unfold acrossPages; split <;> rfl

theorem takeWhile_isTake {α : Type} (p : α → Bool) (l : List α) : ∃ n, n ≤ l.length ∧ l.takeWhile p = l.take n :=
  ⟨(l.takeWhile p).length, (l.takeWhile_prefix p).length_le, List.prefix_iff_eq_take.1 (l.takeWhile_prefix p)⟩

section
variable {ws : List (Spot × List Byte)} (places : AllLocal ws) (s : State) (e : Engine) (core r : Nat) (counted : List Nat)
include places

/-- Local writes of a copy land in order, some of them or all. -/
theorem landWrites_local : ∃ n, n ≤ ws.length ∧ s.landWrites e core r none counted ws =
    ((.done [], ws.drop n), ((ws.take n).foldl (landOne core) { s with freeCount := s.freeCount + 1 }).dropFetches e) := by
  have some_ : ∃ n, n ≤ ws.length ∧ (if Config.choice s.freeCount 2 % 2 == 1 && !(s.fetches.any fun f => f.2.by_ == e) then
      ws.takeWhile fun w => (ws.head?.map (·.1.unit)) == some w.1.unit else ws) = ws.take n := by
    split
    · exact takeWhile_isTake ..
    · exact ⟨ws.length, le_rfl, (List.take_length).symm⟩
  obtain ⟨n, le, now⟩ := some_
  refine ⟨n, le, ?_⟩
  have whole : (ws.takeWhile fun w => !acrossPages none w) = ws := by
    refine List.takeWhile_eq_self_iff.2 fun w _ => ?_
    rw [acrossPages_copy]; rfl
  have single : ws.head?.any (acrossPages none) = false := by cases ws.head? <;> simp [acrossPages_copy]
  have firstLocal : AllLocal (ws.take n) := fun w mem => places w (List.mem_of_mem_take mem)
  unfold State.landWrites State.flip; dsimp only
  rw [single, if_neg Bool.false_ne_true, whole, now, writeSpots_local firstLocal, List.length_take, Nat.min_eq_left le]

end

/-- What local writes of a transfer come to, some of them or all: those that are left stand with it (R198, R201). -/
theorem landOn_local {ws : List (Spot × List Byte)} (places : AllLocal ws) (s : State) (e : Engine) (core slot chunk id : Nat)
    (fl : BitVec 4) {again k : State → State} (done : ∀ t, memory (k t) = memory t) (waits : ∀ t, memory (again t) = memory t)
    (stays : ∀ t, slotOf (again t) core slot = slotOf t core slot) :
    ∃ n, n ≤ ws.length ∧ memory (s.landOn e core slot chunk id none again fl ws k) = landedMemory s core (ws.take n) ∧
      (n < ws.length → (slotOf (s.landOn e core slot chunk id none again fl ws k) core slot).writes.find id = some (fl, ws.drop n)) := by
  obtain ⟨n, le, landed⟩ := landWrites_local places s e core (s.slotT core slot).reuse (SMap.get [] (s.slotT core slot).begun id)
  have mem : memory ((((ws.take n).foldl (landOne core) { s with freeCount := s.freeCount + 1 }).dropFetches e)) =
      landedMemory s core (ws.take n) := memory_landAll core (ws.take n) { s with freeCount := s.freeCount + 1 }
  refine ⟨n, le, ?_⟩
  unfold State.landOn; dsimp only
  rw [landed]
  cases rest : ws.drop n with
  | nil =>
    refine ⟨(done _).trans ((memory_modSlot ..).trans mem), fun lt => ?_⟩
    rw [List.drop_eq_nil_iff] at rest
    omega
  | cons w rest' =>
    refine ⟨(waits _).trans ((memory_modSlot ..).trans mem), fun _ => ?_⟩
    rw [stays, slotOf_modSlot]
    exact SMap.find_put_same ..

/-! ## Places one behind another -/

/-- Bytes at places one behind another, size bytes at each. -/
def inRow (at_ size c : Nat) (new : Nat → Byte) : List (Spot × List Byte) :=
  (List.range c).map fun i => (.loc (at_ + i * size), (List.range size).map fun j => new (i * size + j))

section
variable (at_ size : Nat) (new : Nat → Byte)

theorem length_inRow (c : Nat) : (inRow at_ size c new).length = c := by rw [inRow, List.length_map, List.length_range]

theorem allLocal_inRow (c : Nat) : AllLocal (inRow at_ size c new) := fun w mem => by
  obtain ⟨i, -, rfl⟩ := List.mem_map.1 mem
  exact ⟨_, rfl⟩

theorem take_inRow {n c : Nat} (le : n ≤ c) : (inRow at_ size c new).take n = inRow at_ size n new := by
  rw [inRow, ← List.map_take, List.take_range, Nat.min_eq_left le]; rfl

theorem localWrites_inRow (c : Nat) (m : Mem) : localWrites (inRow at_ size c new) m = m.setBytes at_ ((List.range (c * size)).map new) := by
  induction c with
  | zero => rw [Nat.zero_mul]; rfl
  | succ c ih =>
    have split : inRow at_ size (c + 1) new = inRow at_ size c new ++ [(.loc (at_ + c * size), (List.range size).map fun j => new (c * size + j))] := by
      rw [inRow, List.range_succ, List.map_append]; rfl
    have bytes : (List.range ((c + 1) * size)).map new =
        (List.range (c * size)).map new ++ (List.range size).map fun j => new (c * size + j) := by
      rw [Nat.succ_mul, List.range_add, List.map_append, List.map_map]; rfl
    rw [split, bytes, setBytes_append, List.length_map, List.length_range, ← ih]
    exact List.foldl_append

/-- Writes at places one behind another land there, some of them or all. -/
theorem landsAt_inRow {s u : State} {core slot id n c : Nat} (le : n ≤ c)
    (mem : (memory u).2 = (landedMemory s core ((inRow at_ size c new).take n)).2) (left : n < c → (slotOf u core slot).writes.find id ≠ none) :
    LandsAt s u core slot id at_ (c * size) new := by
  rw [take_inRow at_ size new le] at mem
  have lm (k : Nat) : (u.coreAt k).lm = if k = core then (s.coreAt k).lm.setBytes at_ ((List.range (n * size)).map new) else (s.coreAt k).lm := by
    refine (congrFun mem k).trans ?_
    rw [← localWrites_inRow]; rfl
  have own := lm core
  rw [if_pos rfl] at own
  have part : n * size ≤ c * size := Nat.mul_le_mul_right size le
  have inside (j : Nat) (lt : j < n * size) : (u.coreAt core).lm.byte (at_ + j) = new j := by
    rw [own, Mem.byte_setBytes_in _ _ _ _ (by simpa using lt)]; simp
  have outside (j : Nat) (apart : j < at_ ∨ at_ + n * size ≤ j) : (u.coreAt core).lm.byte j = (s.coreAt core).lm.byte j := by
    rw [own]; exact Mem.byte_setBytes_out _ _ _ _ (by simpa using apart)
  refine ⟨fun j _ => ?_, ?_, fun j apart => outside j (by omega), fun i other => by rw [lm, if_neg other]⟩
  · rcases Nat.lt_or_ge j (n * size) with lt | ge
    · exact .inl (inside j lt)
    · exact .inr (outside _ (by omega))
  · rcases Nat.lt_or_ge n c with lt | ge
    · exact .inr (left lt)
    · have whole : n = c := by omega
      subst whole
      exact .inl inside

end

end Sys2Proof.Proofs
end

section
/-! SUPPORT. The chunks of a transfer: what reading and writing one changes, what is credited, and what a fault leaves (R196, R198, R201, R204). -/

namespace Sys2Proof.Proofs

open Sys2Proof.Machine Sys2Proof.Claims

/-! ## What crediting leaves of memory -/

section
variable (s : State) (core slot k : Nat)

theorem memory_tryEnd : memory (s.tryEnd core slot) = memory s := by
  unfold State.tryEnd; dsimp only; split
  · exact memory_endTransfer ..
  · rfl

theorem memory_advancePointer : memory (s.advancePointer core slot k) = memory s := by
  unfold State.advancePointer; dsimp only; split
  · apply memory_modCore; exact fun _ => rfl
  · rfl

theorem memory_chunkDone : memory (s.chunkDone core slot k) = memory s := by
  rw [State.chunkDone, memory_tryEnd, memory_modSlot, memory_advancePointer]

theorem memory_credit : memory (s.credit core slot k) = memory s := by
  unfold State.credit; dsimp only; split
  · exact memory_modSlot s core slot fun t => { t with sent := t.sent ++ [k] }
  · exact memory_chunkDone ..

end

/-! ## Reading places (R196) -/

/-- The addresses in memory of a list of places, of size bytes each. -/
def farReads (size : Nat) (ps : List Spot) : List (Nat × Nat) :=
  ps.filterMap fun p =>
    match p with
    | .va a => some (a, size)
    | _ => none

section
variable {s u : State} {e : Engine} {k r code : Nat} {ps : List Spot}

theorem readSpots_done {bs : List Byte} {edge : Option Cause} (valid : edge = none ∨ ps.contains .none = false)
    (read : s.engineRead e (s.coreAt k).ctxid r (farReads (codeSize code) ps) = (.done bs, u)) :
    s.readSpots e k r code edge ps = (.vals (share (u.coreAt k).lm (fillBytes code) (codeSize code) ps bs), u) := by
  unfold State.readSpots
  split
  · rename_i contains
    rcases valid with h | h
    · cases h
    · exact absurd (h.symm.trans contains) Bool.false_ne_true
  · dsimp only
    split
    · rename_i waits; cases waits.symm.trans read
    · rename_i fault; cases fault.symm.trans read
    · rename_i done
      obtain ⟨h, rfl⟩ := Prod.mk.inj (done.symm.trans read)
      cases h; rfl

/-- A place that the map of an edge-1 endpoint refuses is its fault (R196). -/
theorem readSpots_refused {c : Cause} (refused : ps.contains .none = true) :
    s.readSpots e k r code (some c) ps = (.fault c 0, s) := by
  unfold State.readSpots
  rw [refused]

theorem share_loc {α : Type} (lm : Mem) (fill : List Byte) (size : Nat) (f : α → Nat) (is : List α) (bs : List Byte) :
    share lm fill size (is.map fun i => .loc (f i)) bs = is.map fun i => lm.bytes (f i) size := by
  induction is with
  | nil => rfl
  | cons i is ih => exact congrArg (_ :: ·) ih

theorem farReads_loc {α : Type} (size : Nat) (f : α → Nat) (is : List α) : farReads size (is.map fun i => .loc (f i)) = [] :=
  List.filterMap_eq_nil_iff.2 fun p mem => by
    obtain ⟨i, -, rfl⟩ := List.mem_map.1 mem
    rfl

theorem readSpots_loc {α : Type} (s : State) (e : Engine) (k r code : Nat) (f : α → Nat) (is : List α) :
    s.readSpots e k r code none (is.map fun i => .loc (f i)) = (.vals (is.map fun i => (s.coreAt k).lm.bytes (f i) (codeSize code)), s) := by
  rw [readSpots_done (.inl rfl) (by rw [farReads_loc, engineRead_nil]), share_loc]

end

/-! ## A chunk of a plain copy between local memories (R196, R198) -/

theorem codeSize_cases {code : Nat} (legal : code ≤ 10) : codeSize code = 1 ∨ codeSize code = 2 ∨ codeSize code = 4 := by
  interval_cases code <;> decide

/-- Element i of a destination in local memory, by its row and column. -/
theorem spot_elem (code b gs r cols i : Nat) : (EndPt.loc code b).spot gs r (i / cols) (i % cols) cols = .loc (b + i * codeSize code) := by
  rw [EndPt.spot, Nat.div_add_mod']

section
variable {t : Transfer} {sc a dc b : Nat} (plain : t.op = 0) (src : t.src = .loc sc a) (dst : t.dst = .loc dc b)

/-- How many elements a chunk has. -/
def chunkCount (t : Transfer) (k : Nat) : Nat := min (512 / codeSize t.dst.code) (t.rows * t.dcols - k * (512 / codeSize t.dst.code))

theorem chunkElems_eq (t : Transfer) (k : Nat) : t.chunkElems k = (List.range (chunkCount t k)).map (k * (512 / codeSize t.dst.code) + ·) := rfl

include plain src in
theorem chunkSpots_plain (gs r : Nat) (es : List Nat) : t.chunkSpots gs r es = es.map fun i => .loc (a + i * codeSize sc) := by
  have noThreshold : ¬ t.op = 2 := by omega
  have noTrits : ¬ (t.op = 1 ∧ t.src.code = 8) := by omega
  have same : t.scols = t.dcols := by rw [Transfer.scols, Transfer.dcols, if_neg noThreshold, if_neg noTrits]
  have cols : t.scols = t.cols := by rw [Transfer.scols, if_neg noTrits]
  rw [Transfer.chunkSpots, if_neg noThreshold, src]
  refine List.map_congr_left fun i _ => ?_
  dsimp only
  rw [if_pos cols, same, spot_elem]

include plain dst in
theorem chunkWrites_plain (gs r : Nat) (f : Nat → List Byte) (es : List Nat) :
    (t.chunkWrites gs r es (es.map f)).1 = es.map fun i => (.loc (b + i * codeSize dc), f i) := by
  have noThreshold : ¬ t.op = 2 := by omega
  have unchanged (i : Nat) : (t.convert i (f i)).1 = f i := by
    rw [Transfer.convert]; dsimp only
    rw [if_pos (by omega)]
  rw [Transfer.chunkWrites, if_neg noThreshold, ← List.map_prod_left_eq_zip, dst]
  dsimp only
  rw [List.map_map, List.map_map]
  refine List.map_congr_left fun i _ => ?_
  show ((EndPt.loc dc b).spot gs r (i / t.dcols) (i % t.dcols) t.dcols, (t.convert i (f i)).1) = _
  rw [spot_elem, unchanged]

/-- The bytes of a chunk lie one behind another (R198). -/
theorem chunkBytes {k size : Nat} (same : codeSize t.dst.code = size) (sizes : size = 1 ∨ size = 2 ∨ size = 4) :
    chunkCount t k * size = Nat.min 512 (t.rows * t.dcols * size - 512 * k) ∧ 512 / size * size = 512 := by
  rw [chunkCount, same]
  generalize t.rows * t.dcols = n
  show _ = min _ _ ∧ _
  rcases sizes with rfl | rfl | rfl <;> omega

include plain dst in
/-- What is written of a chunk of a plain copy between local memories. -/
theorem chunkWrites_inRow {k gs r : Nat} (lm : Mem) (legal : dc ≤ 10) (same : codeSize sc = codeSize dc) :
    (t.chunkWrites gs r (t.chunkElems k) ((t.chunkElems k).map fun i => lm.bytes (a + i * codeSize sc) (codeSize sc))).1 =
      inRow (b + 512 * k) (codeSize dc) (chunkCount t k) fun j => lm.byte (a + 512 * k + j) := by
  have code : codeSize t.dst.code = codeSize dc := by rw [dst]; rfl
  have whole := (chunkBytes (t := t) (k := k) code (codeSize_cases legal)).2
  rw [chunkWrites_plain plain dst, chunkElems_eq, List.map_map, inRow, same]
  refine List.map_congr_left fun i _ => ?_
  have place : (k * (512 / codeSize t.dst.code) + i) * codeSize dc = 512 * k + i * codeSize dc := by
    rw [code, Nat.add_mul, Nat.mul_assoc, whole, Nat.mul_comm]
  refine Prod.ext (congrArg Spot.loc ?_) ?_
  · show b + (k * (512 / codeSize t.dst.code) + i) * codeSize dc = _
    rw [place, Nat.add_assoc]
  · show lm.bytes (a + (k * (512 / codeSize t.dst.code) + i) * codeSize dc) (codeSize dc) = _
    rw [place, Mem.bytes]
    refine List.map_congr_left fun j _ => ?_
    rw [Nat.add_assoc, Nat.add_assoc, Nat.add_assoc]

end

/-! ## CHUNK_DELIVERED (R198, R204) -/

section
variable {s : State} {core slot k : Nat} (now : Performs s (.chunkDelivered core slot k))
include now

theorem chunkDelivered_copies (ready : s.chunkReady core slot k = true) (kind : (slotOf s core slot).kind = .copy) :
    exec .chunkDelivered s = .next (s.copyChunk core slot k) := by
  have copy : (s.slotT core slot).isCopy = true := by
    rw [Transfer.isCopy, show s.slotT core slot = slotOf s core slot from rfl, kind]; rfl
  show execChunkDelivered s = _
  rw [execChunkDelivered, now]
  exact (if_pos ready).trans (if_pos copy)

theorem chunkDelivered_credits (ready : s.chunkReady core slot k = true) (kind : (slotOf s core slot).kind ≠ .copy) :
    exec .chunkDelivered s = .next (s.credit core slot k) := by
  have other : ¬ (s.slotT core slot).isCopy = true := by
    rw [Transfer.isCopy, show s.slotT core slot = slotOf s core slot from rfl]; simpa using kind
  show execChunkDelivered s = _
  rw [execChunkDelivered, now]
  exact (if_pos ready).trans (if_neg other)

theorem chunkDelivered_not (busy : s.chunkReady core slot k = false) : exec .chunkDelivered s = .next s := by
  show execChunkDelivered s = _
  rw [execChunkDelivered, now]
  exact if_neg (by rw [busy]; exact Bool.false_ne_true)

end

/-- What was read of a chunk lands now, or more of it (R198). -/
theorem copyChunk_stored {s : State} {core slot k : Nat} {fl : BitVec 4} {ws : List (Spot × List Byte)}
    (stored : (slotOf s core slot).writes.find k = some (fl, ws)) :
    s.copyChunk core slot k = s.landOn (.chunk core slot k) core slot k k none id fl ws (State.credit core slot k) := by
  unfold State.copyChunk; dsimp only
  rw [show ((s.coreAt core).slotAt slot).writes.find k = some (fl, ws) from stored]

section
variable {s : State} {core slot k : Nat} {t : Transfer} (at_ : slotOf s core slot = t) {sc a dc b : Nat} (plain : t.op = 0) (src : t.src = .loc sc a)
  (dst : t.dst = .loc dc b)
include at_ plain src dst

/-- A chunk of a plain copy between local memories is read; what was read stands with the transfer, or begins to land (R196, R198). -/
theorem copyChunk_plain (unread : t.writes.find k = none) (legal : dc ≤ 10) (same : codeSize sc = codeSize dc) : ∃ fl,
    let v : State := (s.dropFetches (.chunk core slot k)).flip.2
    let ws := inRow (b + 512 * k) (codeSize dc) (chunkCount t k) fun j => (s.coreAt core).lm.byte (a + 512 * k + j)
    s.copyChunk core slot k = (v.modSlot core slot fun t => { t with writes := t.writes.put k (fl, ws) }) ∨
    s.copyChunk core slot k = v.landOn (.chunk core slot k) core slot k k none id fl ws (State.credit core slot k) := by
  change (s.coreAt core).slotAt slot = t at at_
  have noThreshold : (t.op != 2) = true := by rw [plain]; rfl
  have range (gs r : Nat) : (t.dstRange gs r (t.chunkElems k) || !t.aligned3 gs r) = false := by
    rw [Transfer.dstRange, Transfer.aligned3, dst, noThreshold]; rfl
  have ws := chunkWrites_inRow (a := a) plain dst (gs := (s.coreAt core).gsize) (r := (s.coreAt core).rank) (k := k) (s.coreAt core).lm legal same
  refine ⟨(t.chunkWrites (s.coreAt core).gsize (s.coreAt core).rank (t.chunkElems k)
    ((t.chunkElems k).map fun i => (s.coreAt core).lm.bytes (a + i * codeSize sc) (codeSize sc))).2, ?_⟩
  unfold State.copyChunk; dsimp only
  rw [at_, unread]
  dsimp only
  rw [range, if_neg Bool.false_ne_true, chunkSpots_plain plain src, src]
  have edge : (if (EndPt.loc sc a).edge = true then some Cause.tmapRange else none) = none := rfl
  rw [edge, show (EndPt.loc sc a).code = sc from rfl, readSpots_loc]
  dsimp only
  rw [ws]
  split
  · exact .inl rfl
  · exact .inr rfl

end

/-! ## CHUNK_FAULT (R201) -/

/-- A transfer that fails at a chunk keeps its first fault, and what it has read of the chunk is dropped (R201). -/
def failedAt (k : Nat) (c : Cause) (w : Word) (t : Transfer) : Transfer :=
  let t := { t with fault := some (t.fault.getD (c, w)), lost := if t.lost.contains k then t.lost else t.lost ++ [k] }
  if t.kind = .copy then { t with writes := t.writes.del k, begun := t.begun.del k } else t

theorem fail_drops (k : Nat) (c : Cause) (w : Word) :
    (fun t : Transfer => let t := t.fail k c w; if t.isCopy then t.drop k else t) = failedAt k c w := by
  funext t
  have first : t.fail k c w = { t with fault := some (t.fault.getD (c, w)), lost := if t.lost.contains k then t.lost else t.lost ++ [k] } := by
    unfold Transfer.fail
    cases t.fault <;> rfl
  dsimp only
  rw [first, failedAt]
  exact if_congr beq_iff_eq rfl rfl

theorem chunkFault_stops {s : State} {core slot k : Nat} {c : Cause} {w : Word} (now : Performs s (.chunkFault core slot k c w))
    (active : (slotOf s core slot).state = .active) : exec .chunkFault s =
      let u := (s.stray core slot (some k)).modSlot core slot (failedAt k c w)
      .next ((({ u with pending := u.pending.filter fun e => !faultEvent core slot e } : State).poisonBar core slot).tryEnd core slot) := by
  show execChunkFault s = _
  rw [execChunkFault, now]
  refine (if_pos active).trans ?_
  rw [fail_drops]; rfl

/-- No chunk but one of a copy is in doubt when its transfer stops (R201). -/
theorem stray_of_other {s : State} {core slot : Nat} (kind : (slotOf s core slot).kind ≠ .copy) (first : Option Nat) :
    s.stray core slot first = s := by
  have none_ : ((s.coreAt core).slotAt slot).strays first = [] := if_pos kind
  unfold State.stray; dsimp only
  rw [none_]; split <;> rfl

/-! ## What is lost, and what has ended -/

theorem chunkReady_lost {s : State} {core slot k : Nat} (lost : (slotOf s core slot).lost.contains k = true) :
    s.chunkReady core slot k = false := by
  unfold State.chunkReady; dsimp only
  rw [show ((s.coreAt core).slotAt slot).lost.contains k = true from lost]
  simp

theorem endIdle_counts (t : TaskCtx) : t.endIdle.ocnt = t.ocnt ∧ t.endIdle.held = t.held ∧ t.endIdle.cq = t.cq := by
  unfold TaskCtx.endIdle; split
  · have ocnt := congrArg TaskCtx.ocnt (complete_same t 4#32)
    have held := congrArg TaskCtx.held (complete_same t 4#32)
    have cq := congrArg TaskCtx.cq (complete_same t 4#32)
    exact ⟨ocnt, held, cq⟩
  · exact ⟨rfl, rfl, rfl⟩

theorem endsFor_counts (t : Transfer) (slot : Nat) (c : TaskCtx) :
    (endsFor t slot c).ocnt = { c.ocnt with copies := c.ocnt.copies - 1 } ∧
    (endsFor t slot c).held = (if t.fault.isSome then c.held ++ [slot] else c.held) ∧
    (endsFor t slot c).cq = (if t.q then c.cq ++ [slot] else c.cq) := by
  unfold endsFor; dsimp only
  cases t.q
  · exact ⟨rfl, rfl, rfl⟩
  · exact endIdle_counts _

theorem endedAs_free (t : Transfer) : (endedAs t).state = .free ↔ t.fault = none ∧ t.q = false := by
  unfold endedAs Transfer.settle; dsimp only
  cases t.fault <;> cases t.q <;> simp

/-! ## The events of a chunk -/

theorem dcols_plain {t : Transfer} (plain : t.op = 0) : t.dcols = t.cols := by
  rw [Transfer.dcols, if_neg (by omega)]

theorem chunkEvents : ChunkEvents := by
  refine ⟨fun s core slot k now ready => ?plain, fun s core slot k fl ws now ready kind stored places => ?stored,
    fun s core slot k now ready kind => chunkDelivered_credits now ready kind,
    fun s core slot k c w now active => ⟨chunkFault_stops now active, fun kind => stray_of_other kind _⟩,
    fun s core slot k lost => ⟨chunkReady_lost lost, fun now => chunkDelivered_not now (chunkReady_lost lost)⟩,
    fun s core slot active => ?ends⟩
  case plain =>
    intro t sc a dc b kind plain unread src dst _ legal same n
    have bytes : chunkCount t k * codeSize dc = n := by
      have whole := (chunkBytes (t := t) (k := k) (by rw [dst]; rfl) (codeSize_cases legal)).1
      rw [dcols_plain plain, ← same] at whole
      rw [← same]; exact whole
    obtain ⟨fl, reads | lands⟩ := copyChunk_plain (s := s) (k := k) rfl plain src dst unread legal same
    all_goals
      refine ⟨_, chunkDelivered_copies now ready kind, ?_⟩
      rw [← bytes]
    · rw [reads]
      refine ⟨rfl, landsAt_inRow (n := 0) _ _ _ (Nat.zero_le _) ?_ fun _ => ?_⟩
      · refine (congrArg Prod.snd (memory_modSlot ..)).trans (funext fun j => ?_)
        exact (ite_self _).symm
      · rw [slotOf_modSlot, SMap.find_put_same]; exact Option.some_ne_none _
    · obtain ⟨n, le, mem, left⟩ := landOn_local (allLocal_inRow (b + 512 * k) (codeSize dc) (fun j => (s.coreAt core).lm.byte (a + 512 * k + j))
        (chunkCount t k)) (s.dropFetches (.chunk core slot k)).flip.2 (.chunk core slot k) core slot k k fl (again := id)
        (fun u => memory_credit u core slot k) (fun _ => rfl) fun _ => rfl
      rw [length_inRow] at le left
      rw [← lands] at mem left
      refine ⟨congrArg Prod.fst mem, landsAt_inRow _ _ _ le (congrArg Prod.snd mem) fun lt => ?_⟩
      rw [left lt]; exact Option.some_ne_none _
  case stored =>
    obtain ⟨n, le, mem, left⟩ := landOn_local places s (.chunk core slot k) core slot k k fl (again := id)
      (fun u => memory_credit u core slot k) (fun _ => rfl) fun _ => rfl
    rw [← copyChunk_stored stored] at mem left
    exact ⟨_, n, chunkDelivered_copies now ready kind, le, (congrFun (congrArg Prod.snd mem) core).trans (if_pos rfl), left, congrArg Prod.fst mem⟩
  case ends =>
    intro t i u
    have task : u.taskAt i = endsFor t slot (s.taskAt i) := endTransfer_task s core slot
    have slotIs : slotOf u core slot = endedAs t := endTransfer_slot s core slot
    obtain ⟨ocnt, held, cq⟩ := endsFor_counts t slot (s.taskAt i)
    rw [task, slotIs]
    exact ⟨ocnt, held, cq, endedAs_free t⟩

end Sys2Proof.Proofs
end

section
/-! SUPPORT. The rows of gathers and scatter-adds: their requests, what a request takes of its row, and where it lands (R207 to R209). -/

namespace Sys2Proof.Proofs

open Sys2Proof.Machine Sys2Proof.Claims

/-! ## A row's index and its requests (R208) -/

section
variable (s : State) (core slot m : Nat)

/-- Reading a row's index changes the transfer's slot alone. -/
theorem readIndex_eq : s.readIndex core slot m = s ∨ ∃ f, s.readIndex core slot m = s.modSlot core slot f := by
  unfold State.readIndex; dsimp only; split
  · exact .inl rfl
  · exact .inr ⟨_, rfl⟩

theorem memory_readIndex : memory (s.readIndex core slot m) = memory s := by
  obtain same | ⟨f, same⟩ := readIndex_eq s core slot m
  · rw [same]
  · rw [same, memory_modSlot]

theorem pending_readIndex : (s.readIndex core slot m).pending = s.pending := by
  obtain same | ⟨f, same⟩ := readIndex_eq s core slot m
  · rw [same]
  · rw [same]; rfl

/-- A row's index is read once (R208). -/
theorem readIndex_asked : (slotOf (s.readIndex core slot m) core slot).asked =
    (if ((slotOf s core slot).asked.find m).isSome then (slotOf s core slot).asked
    else (slotOf s core slot).asked.put m ((s.coreAt core).lm.word ((slotOf s core slot).w 1 + 4 * m)).toNat) := by
  unfold State.readIndex; dsimp only
  rw [show (s.coreAt core).slotAt slot = slotOf s core slot from rfl]
  split
  · rfl
  · rw [slotOf_modSlot]

theorem readIndex_issued : (slotOf (s.readIndex core slot m) core slot).issued = (slotOf s core slot).issued := by
  unfold State.readIndex; dsimp only
  split
  · rfl
  · rw [slotOf_modSlot]

end

/-- What an event on its way, alone or as a message of a core, leaves of a transfer and of memory. -/
structure OnItsWay (s u : State) (core slot : Nat) (e : Event) : Prop where
  pending : u.pending = s.pending ++ [e]
  slotIs : slotOf u core slot = slotOf s core slot
  mem : memory u = memory s

theorem post_onItsWay (s : State) (core slot : Nat) (e : Event) : OnItsWay s (s.post e) core slot e := ⟨rfl, rfl, rfl⟩

theorem number_pending (s : State) (k : Nat) (e : Event) : (s.number k e).pending = s.pending := by
  unfold State.number; dsimp only; split <;> split <;> rfl

theorem send_onItsWay (s : State) (core slot g a b : Nat) (e : Event) : OnItsWay s (s.send g a b e) core slot e := by
  refine ⟨congrArg (· ++ [e]) ?_, ?_, memory_of_ground (ground_depart ..)⟩
  · rw [State.depart, number_pending]; split <;> rfl
  · obtain ⟨n, same⟩ := coreAt_depart s g a b e core
    show ((s.depart g a b e).coreAt core).slotAt slot = _
    rw [same]; rfl

/-- A row request goes to its slice or port, or to its owner core (R208). -/
theorem rowRequest_goes {s : State} {core slot id : Nat} (now : Performs s (.rowRequest core slot id)) (next : s.nextRow core slot = some id) :
    ∃ u e, exec .rowRequest s = .next u ∧ slotEvent core slot e = true ∧
      OnItsWay ((s.readIndex core slot (rowOf id)).modSlot core slot fun t => { t with issued := t.issued ++ [id] }) u core slot e := by
  have mine : (core == core && slot == slot) = true := by simp
  have goes : exec .rowRequest s = execRowRequest s := rfl
  rw [goes, execRowRequest, now]
  dsimp only
  rw [if_pos next]
  split
  · refine ⟨_, _, rfl, ?_, send_onItsWay ..⟩; exact mine
  · refine ⟨_, _, rfl, ?_, post_onItsWay ..⟩; exact mine
  · refine ⟨_, _, rfl, ?_, send_onItsWay ..⟩; exact mine
  · refine ⟨_, _, rfl, ?_, post_onItsWay ..⟩; exact mine

theorem rowRequest_reads {s : State} {core slot id : Nat} (now : Performs s (.rowRequest core slot id)) (next : s.nextRow core slot = some id) :
    ∃ u e, exec .rowRequest s = .next u ∧ u.pending = s.pending ++ [e] ∧ slotEvent core slot e = true ∧
      (slotOf u core slot).asked = (if ((slotOf s core slot).asked.find (rowOf id)).isSome then (slotOf s core slot).asked
        else (slotOf s core slot).asked.put (rowOf id) ((s.coreAt core).lm.word ((slotOf s core slot).w 1 + 4 * rowOf id)).toNat) ∧
      (slotOf u core slot).issued = (slotOf s core slot).issued ++ [id] ∧ SameMemory s u := by
  obtain ⟨u, e, goes, mine, pending, slotIs, mem⟩ := rowRequest_goes now next
  refine ⟨u, e, goes, pending.trans (congrArg (· ++ [e]) (pending_readIndex ..)), mine, ?_, ?_, sameMemory_of_memory ?_⟩
  · rw [slotIs, slotOf_modSlot]; exact readIndex_asked ..
  · rw [slotIs, slotOf_modSlot]; exact congrArg (· ++ [id]) (readIndex_issued ..)
  · rw [mem, memory_modSlot, memory_readIndex]

/-! ## Row messages at their owner core (R182, R208) -/

/-- The row message of a class: 10 gathers, 11 scatter-adds (R182, R208). -/
def rowMessageOf (cls core slot id : Nat) : Event := if cls = 10 then .localGather core slot id else .localScatterAdd core slot id

section
variable {s : State} {core slot id owner : Nat} (owned : ((slotOf s core slot).pieces.find id).bind (·.2.2) = some owner)
  (cls : Nat) (k : State → State)
include owned

/-- A row message is performed by its owner core's handler context, which receives it once (R182, R184, R320). -/
theorem atRowOwner_free (free : s.handlerFree owner = true) :
    s.atRowOwner cls core slot id (rowMessageOf cls core slot id) k = k (rowHeard s cls core slot id owner) := by
  unfold State.atRowOwner rowHeard; dsimp only
  rw [show s.slotT core slot = slotOf s core slot from rfl, owned]
  cases (slotOf s core slot).heard.contains id
  · rw [if_neg Bool.false_ne_true]
    dsimp only
    rw [State.builtin, if_pos free]; rfl
  · rw [if_pos rfl]; exact if_pos free

theorem atRowOwner_busy (busy : s.handlerFree owner = false) : s.atRowOwner cls core slot id (rowMessageOf cls core slot id) k =
    { s with pending := rowMessageOf cls core slot id :: s.pending } := by
  unfold State.atRowOwner; dsimp only
  rw [show s.slotT core slot = slotOf s core slot from rfl, owned]
  cases (slotOf s core slot).heard.contains id
  · dsimp only
    rw [State.builtin, busy, if_neg Bool.false_ne_true]; rfl
  · dsimp only
    rw [busy, if_neg Bool.false_ne_true]; rfl

end

section
variable {s : State} {core slot id : Nat}

theorem localGather_comes (now : Performs s (.localGather core slot id)) : exec .localGather s =
    .next (s.atRowOwner 10 core slot id (rowMessageOf 10 core slot id) (State.gatherStep core slot id (State.post (.localGather core slot id)))) := by
  show execLocalGather s = _
  rw [execLocalGather, now]; rfl

theorem localScatterAdd_comes (now : Performs s (.localScatterAdd core slot id)) : exec .localScatterAdd s =
    .next (s.atRowOwner 11 core slot id (rowMessageOf 11 core slot id)
      (State.scatterStep core slot id (State.post (.localScatterAdd core slot id)))) := by
  show execLocalScatterAdd s = _
  rw [execLocalScatterAdd, now]; rfl

theorem gatherRow_comes (now : Performs s (.gatherRow core slot id)) :
    exec .gatherRow s = .next (s.gatherStep core slot id (State.post (.gatherRow core slot id))) := by
  show execGatherRow s = _
  rw [execGatherRow, now]; rfl

theorem scatterAddRow_comes (now : Performs s (.scatterAddRow core slot id)) :
    exec .scatterAddRow s = .next (s.scatterStep core slot id (State.post (.scatterAddRow core slot id))) := by
  show execScatterAddRow s = _
  rw [execScatterAddRow, now]; rfl

end

/-! ## The places of a request (R207, R208) -/

theorem columns_eq {t : Transfer} {id c0 cn : Nat} {owner : Option Nat} (piece : t.pieces.find id = some (c0, cn, owner)) :
    t.columns id = (List.range cn).map (c0 + ·) := by
  rw [Transfer.columns, piece]

/-- The places in a table row of a request's columns. -/
def rowSpots (row : List (Option Nat)) (cols : List Nat) : List Spot := cols.map fun col => ((row.getD col none).map Spot.va).getD .none

theorem rowSpots_valid {row : List (Option Nat)} {c0 cn : Nat} {vas : List Nat}
    (valid : (List.range cn).map (fun j => row.getD (c0 + j) none) = vas.map some) :
    rowSpots row ((List.range cn).map (c0 + ·)) = vas.map Spot.va := by
  have places := congrArg (List.map fun o : Option Nat => (o.map Spot.va).getD .none) valid
  rw [List.map_map, List.map_map] at places
  rw [rowSpots, List.map_map]
  exact places

theorem length_of_valid {row : List (Option Nat)} {c0 cn : Nat} {vas : List Nat}
    (valid : (List.range cn).map (fun j => row.getD (c0 + j) none) = vas.map some) : vas.length = cn := by
  have lengths := congrArg List.length valid
  simpa using lengths.symm

section
variable (size : Nat) (vas : List Nat)

theorem farReads_va : farReads size (vas.map Spot.va) = vas.map fun a => (a, size) := by
  rw [farReads, List.filterMap_map]
  exact congrFun (List.filterMap_eq_map (f := fun a => (a, size))) vas

theorem contains_none_va : (vas.map Spot.va).contains .none = false := by
  rw [← Bool.not_eq_true, List.contains_iff_mem, List.mem_map]
  rintro ⟨a, -, h⟩
  cases h

/-- The bytes read of places in memory, shared out one behind another. -/
theorem share_va (lm : Mem) (fill : List Byte) (bs : List Byte) (whole : bs.length = vas.length * size) :
    share lm fill size (vas.map Spot.va) bs =
      (List.range vas.length).map fun i => (List.range size).map fun j => bs.getD (i * size + j) 0#8 := by
  induction vas generalizing bs with
  | nil => rfl
  | cons a vas ih =>
    have rest : (bs.drop size).length = vas.length * size := by
      rw [List.length_drop, whole, List.length_cons, Nat.succ_mul]; omega
    rw [List.map_cons, share, ih _ rest, List.length_cons, List.range_succ_eq_map, List.map_cons, List.map_map]
    refine congrArg₂ List.cons (List.ext_getElem ?_ fun j lt _ => ?_) (List.map_congr_left fun i _ => List.map_congr_left fun j _ => ?_)
    · rw [List.length_take, List.length_map, List.length_range, whole, List.length_cons, Nat.succ_mul]; omega
    · rw [List.length_take] at lt
      rw [List.getElem_take, List.getElem_map, List.getElem_range, Nat.zero_mul, Nat.zero_add, List.getD_eq_getElem _ _ (by omega)]
    · rw [List.getD_eq_getElem?_getD, List.getElem?_drop, ← List.getD_eq_getElem?_getD, Nat.succ_mul]
      congr 1; omega

end

/-- Places beyond the table read as zero bytes (R196, R208). -/
theorem share_none (lm : Mem) (fill bs : List Byte) (size : Nat) {α : Type} (is : List α) :
    share lm fill size (is.map fun _ => .none) bs = is.map fun _ => fill := by
  induction is with
  | nil => rfl
  | cons i is ih => exact congrArg (fill :: ·) ih

theorem farReads_none (size : Nat) {α : Type} (is : List α) : farReads size (is.map fun _ => .none) = [] :=
  List.filterMap_eq_nil_iff.2 fun p mem => by
    obtain ⟨i, -, rfl⟩ := List.mem_map.1 mem
    rfl

/-- The places of a request's columns in a local row (R208). -/
def localRow (base row size c0 cn : Nat) : List Spot := (List.range cn).map fun j => .loc (base + (row + (c0 + j)) * size)

/-- Places of a local row, each with its bytes, lie one behind another (R208). -/
theorem zip_inRow (base row c0 cn size : Nat) (new : Nat → Byte) :
    (localRow base row size c0 cn).zip
      ((List.range cn).map fun i => (List.range size).map fun j => new (i * size + j)) = inRow (base + (row + c0) * size) size cn new := by
  rw [localRow, List.zip_map', inRow]
  refine List.map_congr_left fun i _ => ?_
  rw [Nat.add_assoc base, ← Nat.add_mul, Nat.add_assoc row]

/-! ## A request that is performed (R207 to R209) -/

theorem memory_rowDone (s : State) (core slot id : Nat) : memory (s.rowDone core slot id) = memory s := by
  rw [State.rowDone, memory_tryEnd, memory_modSlot]

section
variable {s : State} {core slot id : Nat} (unread : (slotOf s core slot).writes.find id = none) (chunk : Nat) (again : State → State)
  (fmt : Option Nat) {code : Nat} {edge : Option Cause} {src : List Spot} (dst : List Spot) {u : State}
include unread

theorem rowMove_lands {vs : List (List Byte)} (read : s.readSpots (.row core slot id) core (slotOf s core slot).reuse code edge src = (.vals vs, u)) :
    s.rowMove core slot id chunk again fmt code edge src dst = (u.dropFetches (.row core slot id)).landOn (.row core slot id) core slot chunk id
      fmt again 0#4 (dst.zip vs) (State.rowDone core slot id) := by
  unfold State.rowMove; dsimp only
  rw [show s.slotT core slot = slotOf s core slot from rfl, unread]
  dsimp only
  rw [read]

theorem rowMove_fails {f : Cause} {va : Nat}
    (read : s.readSpots (.row core slot id) core (slotOf s core slot).reuse code edge src = (.fault f va, u)) :
    s.rowMove core slot id chunk again fmt code edge src dst = (u.noteFault core slot chunk id f va).dropFetches (.row core slot id) := by
  unfold State.rowMove; dsimp only
  rw [show s.slotT core slot = slotOf s core slot from rfl, unread]
  dsimp only
  rw [read]

/-- What was read of a row lands at its places of local memory, or stands with the transfer (R208). -/
theorem rowMove_landsAt {vs : List (List Byte)} {at_ size cn : Nat} {new : Nat → Byte} (e : Event)
    (read : s.readSpots (.row core slot id) core (slotOf s core slot).reuse code edge src = (.vals vs, u)) (cores : u.cores = s.cores)
    (row : dst.zip vs = inRow at_ size cn new) :
    (s.rowMove core slot id chunk (State.post e) none code edge src dst).phys = u.phys ∧
      LandsAt s (s.rowMove core slot id chunk (State.post e) none code edge src dst) core slot id at_ (cn * size) new := by
  have lands := rowMove_lands unread chunk (State.post e) none dst read
  rw [row] at lands
  obtain ⟨n, le, mem, left⟩ := landOn_local (allLocal_inRow at_ size new cn) (u.dropFetches (.row core slot id)) (.row core slot id) core slot
    chunk id 0#4 (again := State.post e) (fun t => memory_rowDone t core slot id) (fun _ => rfl) fun _ => rfl
  rw [← lands] at mem left
  rw [length_inRow] at le left
  refine ⟨congrArg Prod.fst mem, landsAt_inRow _ _ _ le ((congrArg Prod.snd mem).trans (funext fun k => ?_)) fun lt => ?_⟩
  · show (if k = core then localWrites _ (u.coreAt k).lm else (u.coreAt k).lm) = _
    rw [coreAt_congr cores]; rfl
  · rw [left lt]; exact Option.some_ne_none _

end

/-! ## A gather's request (R207, R208) -/

/-- The index of a request's row, once it has been read. -/
abbrev indexOf (t : Transfer) (id : Nat) : Nat := SMap.get 0 t.asked (rowOf id)

section
variable {s : State} {core slot id : Nat} {map : Rec} {code b c0 cn : Nat} {owner : Option Nat} (isOpen : (slotOf s core slot).rowOpen id = true)
  (table : (slotOf s core slot).srcMap = some map) (place : (slotOf s core slot).dst = .loc code b)
  (piece : (slotOf s core slot).pieces.find id = some (c0, cn, owner)) (again : State → State)
include isOpen table place piece

theorem gatherStep_moves : s.gatherStep core slot id again =
    let c := s.coreAt core
    let e0 := viewExtent map c.gsize c.rank 0
    s.rowMove core slot id ((slotOf s core slot).rowChunk c.gsize c.rank id) again none (mapEt map)
      (if mapEdge map then some .gatherIndex else none)
      (if indexOf (slotOf s core slot) id < viewSize map c.gsize c.rank / e0 then
        rowSpots (tableRow map c.gsize c.rank (indexOf (slotOf s core slot) id)) ((List.range cn).map (c0 + ·))
      else (List.range cn).map fun _ => .none)
      (localRow b (rowOf id * e0) (codeSize code) c0 cn) := by
  unfold State.gatherStep; dsimp only
  rw [show (s.coreAt core).slotAt slot = slotOf s core slot from rfl, isOpen, table, place]
  dsimp only
  rw [show (EndPt.loc code b).edge = false from rfl, Bool.false_and, if_neg Bool.false_ne_true, columns_eq piece]
  congr 1
  · split
    · rfl
    · exact List.map_map ..
  · exact List.map_map ..

section
variable (e : Event) (unread : (slotOf s core slot).writes.find id = none) (size : codeSize code = codeSize (mapEt map))
include unread size

/-- What a gather's request takes of a row of the table lands at its place (R208). -/
theorem gatherStep_row {vas : List Nat} {bs : List Byte} {u : State}
    (inside : indexOf (slotOf s core slot) id < viewSize map (s.coreAt core).gsize (s.coreAt core).rank /
      viewExtent map (s.coreAt core).gsize (s.coreAt core).rank 0)
    (valid : (List.range cn).map (fun j => (tableRow map (s.coreAt core).gsize (s.coreAt core).rank (indexOf (slotOf s core slot) id)).getD
      (c0 + j) none) = vas.map some) (whole : bs.length = cn * codeSize code)
    (read : s.engineRead (.row core slot id) (s.coreAt core).ctxid (slotOf s core slot).reuse (vas.map fun a => (a, codeSize code)) =
      (.done bs, u)) (cores : u.cores = s.cores) :
    (s.gatherStep core slot id (State.post e)).phys = u.phys ∧ LandsAt s (s.gatherStep core slot id (State.post e)) core slot id
      (b + (rowOf id * viewExtent map (s.coreAt core).gsize (s.coreAt core).rank 0 + c0) * codeSize code) (cn * codeSize code)
      fun j => bs.getD j 0#8 := by
  have count := length_of_valid valid
  rw [gatherStep_moves isOpen table place piece]
  dsimp only
  rw [if_pos inside, rowSpots_valid valid]
  refine rowMove_landsAt unread _ _ e (readSpots_done (bs := bs) (.inr (contains_none_va vas)) ?_) cores ?_
  · rw [← size, farReads_va]; exact read
  · rw [← size, share_va _ _ _ _ _ (by rw [count, whole]), count]
    exact zip_inRow _ _ _ _ _ fun j => bs.getD j 0#8

/-- A gather's request of an index beyond the table lands zeros (R207, R208). -/
theorem gatherStep_beyond (beyond : viewSize map (s.coreAt core).gsize (s.coreAt core).rank /
      viewExtent map (s.coreAt core).gsize (s.coreAt core).rank 0 ≤ indexOf (slotOf s core slot) id) (edge : mapEdge map = false)
    (noTrits : mapEt map ≠ 8) :
    (s.gatherStep core slot id (State.post e)).phys = s.phys ∧ LandsAt s (s.gatherStep core slot id (State.post e)) core slot id
      (b + (rowOf id * viewExtent map (s.coreAt core).gsize (s.coreAt core).rank 0 + c0) * codeSize code) (cn * codeSize code)
      fun _ => 0#8 := by
  rw [gatherStep_moves isOpen table place piece]
  dsimp only
  rw [if_neg (Nat.not_lt.2 beyond), edge]
  refine rowMove_landsAt unread _ _ e (readSpots_done (bs := []) (.inl rfl) ?_) rfl ?_
  · rw [farReads_none, engineRead_nil]
  · have zeros : List.replicate (codeSize code) 0#8 = (List.range (codeSize code)).map fun _ => 0#8 := by
      rw [List.map_const', List.length_range]
    rw [share_none, fillBytes, if_neg noTrits, ← size, zeros]
    exact zip_inRow _ _ _ _ _ fun _ => 0#8

end

/-- A gather's request of an index beyond the table is a fault where the table's map says so (R207). -/
theorem gatherStep_refused (unread : (slotOf s core slot).writes.find id = none)
    (beyond : viewSize map (s.coreAt core).gsize (s.coreAt core).rank /
      viewExtent map (s.coreAt core).gsize (s.coreAt core).rank 0 ≤ indexOf (slotOf s core slot) id) (some_ : 0 < cn) (edge : mapEdge map = true) :
    s.gatherStep core slot id again =
      (s.noteFault core slot ((slotOf s core slot).rowChunk (s.coreAt core).gsize (s.coreAt core).rank id) id .gatherIndex 0).dropFetches
        (.row core slot id) := by
  have refused : ((List.range cn).map fun _ => Spot.none).contains .none = true := by
    rw [List.contains_iff_mem, List.mem_map]
    exact ⟨0, List.mem_range.2 some_, rfl⟩
  rw [gatherStep_moves isOpen table place piece]
  dsimp only
  rw [if_neg (Nat.not_lt.2 beyond), edge]
  exact rowMove_fails unread _ _ _ _ (readSpots_refused refused)

end

end Sys2Proof.Proofs
end

section
/-! SUPPORT. A scatter-add's requests: what is added of a row, and what is left of it (R207, R209). -/

namespace Sys2Proof.Proofs

open Sys2Proof.Machine Sys2Proof.Claims

/-! ## Additions that land some at a time (R209) -/

theorem head_takeWhile {α : Type} {p : α → Bool} {l : List α} (head : ∀ x, l.head? = some x → p x = true) (some_ : 0 < l.length) :
    0 < (l.takeWhile p).length := by
  cases l with
  | nil => exact absurd some_ (Nat.lt_irrefl 0)
  | cons x l => rw [List.takeWhile_cons_of_pos (head x rfl)]; exact Nat.succ_pos _

/-- The writes that land in a step: a first part of them, of one at least. -/
theorem landing_isTake (fmt : Option Nat) (ws : List (Spot × List Byte)) (few : Bool) : ∃ n, n ≤ ws.length ∧ (0 < ws.length → 0 < n) ∧
    (let run := if ws.head?.any (acrossPages fmt) then ws.take 1 else ws.takeWhile fun w => !acrossPages fmt w
    if few then run.takeWhile fun w => (ws.head?.map (·.1.unit)) == some w.1.unit else run) = ws.take n := by
  have run : ∃ n, n ≤ ws.length ∧ (0 < ws.length → 0 < n) ∧
      (if ws.head?.any (acrossPages fmt) then ws.take 1 else ws.takeWhile fun w => !acrossPages fmt w) = ws.take n := by
    split
    · rename_i across
      refine ⟨min 1 ws.length, Nat.min_le_right .., fun some_ => by omega, ?_⟩
      rw [← List.take_eq_take_min]
    · rename_i within
      obtain ⟨n, le, isTake⟩ := takeWhile_isTake (fun w => !acrossPages fmt w) ws
      refine ⟨n, le, fun some_ => ?_, isTake⟩
      have first := head_takeWhile (p := fun w => !acrossPages fmt w) (l := ws) (fun w h => by
        rw [h] at within; simpa using within) some_
      rw [isTake, List.length_take] at first
      omega
  obtain ⟨n, le, pos, isRun⟩ := run
  dsimp only
  rw [isRun]
  split
  · obtain ⟨m, le', isTake⟩ := takeWhile_isTake (fun w : Spot × List Byte => (ws.head?.map (·.1.unit)) == some w.1.unit) (ws.take n)
    rw [List.length_take] at le'
    refine ⟨m, by omega, fun some_ => ?_, ?_⟩
    · have first := head_takeWhile (p := fun w : Spot × List Byte => (ws.head?.map (·.1.unit)) == some w.1.unit) (l := ws.take n) (fun w h => by
        rw [List.head?_take, if_neg (by have := pos some_; omega)] at h
        rw [h]; simp) (by rw [List.length_take]; have := pos some_; omega)
      rw [isTake, List.length_take, List.length_take] at first
      omega
    · rw [isTake, List.take_take, Nat.min_eq_left (by omega)]
  · exact ⟨n, le, pos, rfl⟩

/-- Additions of a request that are complete: what is left of them stands with the transfer (R209). -/
theorem landOn_add (s : State) (e : Engine) (core slot chunk id f : Nat) (fl : BitVec 4) (ws : List (Spot × List Byte)) (again k : State → State) :
    ∃ n, n ≤ ws.length ∧ (0 < ws.length → 0 < n) ∧ ∀ v,
      s.flip.2.engineAdd e (s.coreAt core).ctxid (slotOf s core slot).reuse f (farWrites (ws.take n)) (SMap.get [] (slotOf s core slot).begun id) =
        (.done [], v) →
      s.landOn e core slot chunk id (some f) again fl ws k =
        if n = ws.length then k ((v.dropFetches e).modSlot core slot fun t => { t.drop id with flags := t.flags ||| fl })
        else again ((v.dropFetches e).modSlot core slot fun t =>
          { t with writes := t.writes.put id (fl, ws.drop n),
                   begun := t.begun.put id (SMap.get [] (slotOf s core slot).begun id ++
                     (farWrites (ws.take n)).map fun w : Nat × List Byte => w.1 % 2 ^ 48 / 128).eraseDups }) := by
  obtain ⟨n, le, pos, now⟩ := landing_isTake (some f) ws (s.flip.1 && !(s.flip.2.fetches.any fun g => g.2.by_ == e))
  refine ⟨n, le, pos, fun v added => ?_⟩
  have landed : s.landWrites e core (slotOf s core slot).reuse (some f) (SMap.get [] (slotOf s core slot).begun id) ws =
      ((.done [], ws.drop n), v.dropFetches e) := by
    unfold State.landWrites; dsimp only at now ⊢
    rw [now, show (s.flip.2.coreAt core).ctxid = (s.coreAt core).ctxid from rfl, added, List.length_take, Nat.min_eq_left le]
  unfold State.landOn; dsimp only
  rw [show s.slotT core slot = slotOf s core slot from rfl, landed]
  cases rest : ws.drop n with
  | nil =>
    rw [List.drop_eq_nil_iff] at rest
    rw [if_pos (by omega)]
  | cons w rest' =>
    have left : (w :: rest').length = ws.length - n := by rw [← rest, List.length_drop]
    have short : n ≠ ws.length := by rw [List.length_cons] at left; omega
    rw [if_neg short]
    dsimp only
    rw [left, Nat.sub_sub_self le]

/-! ## A scatter-add's request (R207, R209) -/

theorem farWrites_va (vas : List Nat) (values : List (List Byte)) (n : Nat) :
    farWrites (((vas.map Spot.va).zip values).take n) = (vas.zip values).take n := by
  rw [List.zip_map_left, ← List.map_take, farWrites, List.filterMap_map]
  exact (List.filterMap_congr fun _ _ => rfl).trans List.filterMap_some

section
variable {s : State} {core slot id : Nat} {map : Rec} {code b c0 cn : Nat} {owner : Option Nat} (isOpen : (slotOf s core slot).rowOpen id = true)
  (table : (slotOf s core slot).srcMap = some map) (free : (slotOf s core slot).indexBusy (rowOf id) (indexOf (slotOf s core slot) id) = false)
  (again : State → State)
include isOpen table free

theorem scatterStep_beyond (beyond : viewSize map (s.coreAt core).gsize (s.coreAt core).rank /
    viewExtent map (s.coreAt core).gsize (s.coreAt core).rank 0 ≤ indexOf (slotOf s core slot) id) : s.scatterStep core slot id again =
    if mapEdge map then s.noteFault core slot 0 id .gatherIndex 0 else s.rowDone core slot id := by
  unfold State.scatterStep; dsimp only
  rw [show (s.coreAt core).slotAt slot = slotOf s core slot from rfl, isOpen, table]
  dsimp only
  rw [free, if_neg Bool.false_ne_true, if_pos beyond]

variable (place : (slotOf s core slot).dst = .loc code b) (piece : (slotOf s core slot).pieces.find id = some (c0, cn, owner))
include place piece

theorem scatterStep_moves (inside : indexOf (slotOf s core slot) id < viewSize map (s.coreAt core).gsize (s.coreAt core).rank /
    viewExtent map (s.coreAt core).gsize (s.coreAt core).rank 0) : s.scatterStep core slot id again =
    s.rowMove core slot id 0 again (some (bits (slotOf s core slot).mode 1 3)) code none
      (localRow b (rowOf id * viewExtent map (s.coreAt core).gsize (s.coreAt core).rank 0) (codeSize code) c0 cn)
      (rowSpots (tableRow map (s.coreAt core).gsize (s.coreAt core).rank (indexOf (slotOf s core slot) id)) ((List.range cn).map (c0 + ·))) := by
  unfold State.scatterStep; dsimp only
  rw [show (s.coreAt core).slotAt slot = slotOf s core slot from rfl, isOpen, table]
  dsimp only
  rw [free, if_neg Bool.false_ne_true, if_neg (Nat.not_le.2 inside), place, columns_eq piece]
  have row : (((List.range cn).map (c0 + ·)).map fun col => (EndPt.loc code b).spot (s.coreAt core).gsize (s.coreAt core).rank (rowOf id) col
      (viewExtent map (s.coreAt core).gsize (s.coreAt core).rank 0)) =
      localRow b (rowOf id * viewExtent map (s.coreAt core).gsize (s.coreAt core).rank 0) (codeSize code) c0 cn := List.map_map ..
  rw [row]; rfl

/-- A scatter-added row adds some of its elements to the row in memory, or all; those that are left stand with the transfer (R209). -/
theorem scatterStep_adds (unread : (slotOf s core slot).writes.find id = none)
    (inside : indexOf (slotOf s core slot) id < viewSize map (s.coreAt core).gsize (s.coreAt core).rank /
      viewExtent map (s.coreAt core).gsize (s.coreAt core).rank 0) {vas : List Nat}
    (valid : (List.range cn).map (fun j => (tableRow map (s.coreAt core).gsize (s.coreAt core).rank (indexOf (slotOf s core slot) id)).getD
      (c0 + j) none) = vas.map some) (words : code = 4) (mode : bits (slotOf s core slot).mode 1 3 = 4) :
    let values := (List.range cn).map fun j => (s.coreAt core).lm.bytes
      (b + (rowOf id * viewExtent map (s.coreAt core).gsize (s.coreAt core).rank 0 + c0 + j) * 4) 4
    let u : State := { s.dropFetches (.row core slot id) with freeCount := s.freeCount + 1 }
    let counted := SMap.get [] (slotOf s core slot).begun id
    ∃ n, n ≤ cn ∧ (0 < cn → 0 < n) ∧ ∀ v, u.engineAdd (.row core slot id) (s.coreAt core).ctxid (slotOf s core slot).reuse 4
        ((vas.zip values).take n) counted = (.done [], v) →
      s.scatterStep core slot id again =
        if n = cn then
          ((v.dropFetches (.row core slot id)).modSlot core slot fun t => { t with writes := t.writes.del id, begun := t.begun.del id }).rowDone
            core slot id
        else again ((v.dropFetches (.row core slot id)).modSlot core slot fun t =>
          { t with writes := t.writes.put id (0#4, ((vas.map Spot.va).zip values).drop n),
                   begun := t.begun.put id (counted ++ (vas.take n).map fun a => a % 2 ^ 48 / 128).eraseDups }) := by
  subst words
  intro values u counted
  have count := length_of_valid valid
  have many : values.length = cn := by rw [List.length_map, List.length_range]
  have length : ((vas.map Spot.va).zip values).length = cn := by rw [List.length_zip, List.length_map, count, many, Nat.min_self]
  have read : s.readSpots (.row core slot id) core (slotOf s core slot).reuse 4 none
      (localRow b (rowOf id * viewExtent map (s.coreAt core).gsize (s.coreAt core).rank 0) (codeSize 4) c0 cn) = (.vals values, s) := by
    rw [localRow, readSpots_loc]
    refine congrArg (fun vs => (Got.vals vs, s)) (List.map_congr_left fun j _ => ?_)
    rw [← Nat.add_assoc (rowOf id * _)]; rfl
  obtain ⟨n, le, pos, lands⟩ := landOn_add (s.dropFetches (.row core slot id)) (.row core slot id) core slot 0 id 4 0#4
    ((vas.map Spot.va).zip values) again (State.rowDone core slot id)
  rw [length] at le pos
  refine ⟨n, le, pos, fun v added => ?_⟩
  have moves := lands v (by rw [farWrites_va]; exact added)
  rw [scatterStep_moves isOpen table free again place piece inside, rowSpots_valid valid, mode, rowMove_lands unread 0 again _ _ read, moves,
    length, farWrites_va]
  have quiet : (fun t : Transfer => { t.drop id with flags := t.flags ||| 0#4 }) =
      fun t => { t with writes := t.writes.del id, begun := t.begun.del id } := by
    funext t; rw [BitVec.or_zero]; rfl
  have lines : (((vas.zip values).take n).map fun w : Nat × List Byte => w.1 % 2 ^ 48 / 128) = (vas.take n).map fun a => a % 2 ^ 48 / 128 := by
    have firsts := congrArg (List.map fun a => a % 2 ^ 48 / 128) (congrArg (List.take n) (List.map_fst_zip (l₁ := vas) (l₂ := values) (by omega)))
    rw [← List.map_take, List.map_map] at firsts
    exact firsts
  rw [quiet, lines]; rfl

end

end Sys2Proof.Proofs
end

section
/-! SUPPORT. One addition of an engine to a word of a vault's memory (R209). Settles O43. -/

namespace Sys2Proof.Proofs

open Sys2Proof.Machine Sys2Proof.Claims

/-! ## Where a word of a page lies -/

theorem meetResident_pa {s : State} {ctx va pa : Nat} {l l' : Leaf} (here : s.meetResident ctx va l' = .here pa l) :
    l' = l ∧ pa = l.pa va := by
  unfold State.meetResident at here; dsimp only at here
  split at here
  · split at here
    · cases here; exact ⟨rfl, rfl⟩
    · cases here
    · cases here
  · split at here
    · cases here
    · cases here
  · cases here; exact ⟨rfl, rfl⟩

/-- A page that is met here is met at its frame (R260, R262). -/
theorem meet_here_pa {s : State} {ctx va pa : Nat} {n : Need} {l : Leaf} (small : va < 2 ^ 48) (here : s.meet ctx va n = .here pa l) :
    pa = l.pa va := by
  unfold State.meet at here; dsimp only at here
  rw [Nat.mod_eq_of_lt small] at here
  split at here
  · cases here
  · split at here
    · cases here
    · split at here
      · exact (meetResident_pa here).2
      · split at here <;> cases here
      · split at here
        · split at here <;> cases here
        · cases here
      · cases here
      · cases here
      · cases here

/-- An aligned word lies within one 32-byte unit. -/
theorem unitParts_word {va : Nat} (aligned : va % 4 = 0) : unitParts va 4 = [(va, 4)] := if_pos (by omega)

/-- The frames of the vaults lie below every core's window (R17). -/
theorem outside_localwin {pa k : Nat} (vault : pa + 4 ≤ 0x20800000000) (lt : k < 4) : inLocalwin (pa + k) = false := by
  unfold inLocalwin; simp; omega

section
variable {s : State} {ctx va pa : Nat} {l : Leaf} (kind : l.kind = 1) (frame : l.pa va = pa) (vault : pa + 4 ≤ 0x20800000000)
include kind frame vault

theorem memBytes_vault : s.memBytes ctx va 4 l = (List.range 4).map fun k => s.phys.byte (pa + k) := by
  unfold State.memBytes
  rw [if_neg (by omega), frame, State.physBytes]
  refine List.map_congr_left fun k lt => ?_
  rw [State.physByte, outside_localwin vault (List.mem_range.1 lt)]; rfl

theorem memWrite_vault (reuse : Nat) (bs : List Byte) : s.memWrite ctx va reuse l bs = { s with phys := s.phys.setBytes pa bs } := by
  unfold State.memWrite; dsimp only
  rw [if_pos (by omega), frame, State.setPhysBytes, show inLocalwin pa = false from outside_localwin (k := 0) vault (by decide)]; rfl

end

/-! ## Requests that are counted -/

theorem phys_modSlice (s : State) (k : Nat) (f : Slice → Slice) : (s.modSlice k f).phys = s.phys := rfl

theorem phys_makeRoom {α : Type} (s : State) (n : Nat) (xs : List α) : (s.makeRoom n xs).2.phys = s.phys := by
  unfold State.makeRoom; split <;> rfl

theorem phys_holdPointer (s : State) (k : Nat) (p : Nat × Nat × Nat) : (s.holdPointer k p).phys = s.phys := by
  unfold State.holdPointer; split
  · rfl
  · exact phys_makeRoom ..

theorem phys_countAccess (s : State) (k c p v : Nat) : (s.countAccess k c p v).phys = s.phys := by
  unfold State.countAccess; dsimp only; split
  · rfl
  · have held := foldl_keeps State.phys (State.holdPointer k) (fun t x => phys_holdPointer t k x) (walkPointers c v) s
    rw [phys_modSlice, phys_makeRoom, held]

/-- A request of a vault's line is counted, and evicts nothing (R210, R211). -/
theorem phys_noteLines_vault (s : State) (c r va : Nat) {l : Leaf} (kind : l.kind = 1) : (s.noteLines c r [(va, l)]).phys = s.phys := by
  have counted : (s.noteRequest c va r l).phys = s.phys := by
    unfold State.noteRequest; dsimp only
    rw [if_neg (by omega)]; exact phys_countAccess ..
  have lines : ([(va, l)].filter fun p : Nat × Leaf => p.2.kind == 0) = [] := by
    rw [List.filter_singleton, kind]; rfl
  unfold State.noteLines; dsimp only
  rw [lines]
  split <;> exact counted

/-! ## The addition -/

section
variable {s : State} {e : Engine} {ctx va pa : Nat} {l : Leaf} {v : List Byte} (aligned : va % 4 = 0)
  (new : s.fetchOf e ⟨0, va, 4, .add 4 v⟩ = none) (here : s.meet ctx va .write = .here pa l) (clean : s.poisonedAt ctx va l = false)
  (kind : l.kind = 1)
include aligned new here clean kind

theorem pieceMeet_add : s.pieceMeet e ctx ⟨0, va, 4, .add 4 v⟩ = .here l := by
  unfold State.pieceMeet
  rw [new]
  dsimp only [PieceOp.need]
  rw [here]
  dsimp only
  rw [unitParts_word aligned]
  simp [kind, clean]

/-- An addition that this part performs at once (R209). -/
theorem engineDo_add (reuse : Nat) : s.engineDo e ctx reuse [⟨0, va, 4, .add 4 v⟩] = (.done [], ((s.touch l true).elemWrite ctx va reuse l
    (addElem 4 (s.elemBytes ctx va 4 l) v)).noteLines ctx reuse [(va, l)]) := by
  have meets := pieceMeet_add aligned new here clean kind
  unfold State.engineDo
  rw [List.map_singleton, meets]
  rfl

/-- An element added to a word of a vault's memory (R209). -/
theorem engineAdd_word (small : va < 2 ^ 48) (word : v.length = 4) (vault : pa + 4 ≤ 0x20800000000) (reuse : Nat) :
    ∃ w, s.engineAdd e ctx reuse 4 [(va, v)] = (.done [], w) ∧ w.phys = (s.touch l true).phys.setBytes pa
      (leBytes 4 ((leNat ((List.range 4).map fun k => s.phys.byte (pa + k)) + leNat v) % 2 ^ 32)) := by
  have frame : l.pa va = pa := (meet_here_pa small here).symm
  have within : ([(va, v)].find? fun w : Nat × List Byte => crossesPage (w.1 % 2 ^ 48) w.2.length) = none := by
    rw [List.find?_singleton, if_neg]
    rw [word, Nat.mod_eq_of_lt small, crossesPage]
    simp; omega
  have adds : s.engineAdd e ctx reuse 4 [(va, v)] = s.engineDo e ctx reuse [⟨0, va, 4, .add 4 v⟩] := by
    unfold State.engineAdd
    rw [within]
    show s.engineDo e ctx reuse [⟨0, va % 2 ^ 48, v.length, .add 4 v⟩] = _
    rw [Nat.mod_eq_of_lt small, word]
  have old : s.elemBytes ctx va 4 l = (List.range 4).map fun k => s.phys.byte (pa + k) := by
    rw [State.elemBytes, unitParts_word aligned, List.flatMap_singleton, memBytes_vault kind frame vault]
  refine ⟨_, adds.trans (engineDo_add aligned new here clean kind reuse), ?_⟩
  rw [phys_noteLines_vault _ _ _ _ kind, old, addElem, State.elemWrite, leBytes_length, unitParts_word aligned, List.foldl_cons, List.foldl_nil,
    memWrite_vault kind frame vault]
  dsimp only
  rw [Nat.sub_self, List.drop_zero, List.take_of_length_le (by rw [leBytes_length])]

end

/-! ## The events of a row -/

theorem rowEvents : RowEvents := by
  refine ⟨fun s core slot id now next => rowRequest_reads now next, fun s core slot id c0 cn owner piece => ?messages,
    fun s core slot id => ⟨gatherRow_comes, scatterAddRow_comes⟩,
    fun s e core slot id isOpen map code b c0 cn owner table place size piece unread => ?gather,
    fun s e core slot id isOpen map code b c0 cn owner table place piece unread => ?scatter,
    fun s e ctx reuse va pa l v small aligned word new here clean kind vault =>
      engineAdd_word aligned new here clean kind small word vault reuse⟩
  case messages =>
    have owned : ((slotOf s core slot).pieces.find id).bind (·.2.2) = some owner := by rw [piece]; rfl
    refine ⟨fun now => ⟨fun free => ?_, fun busy => ?_⟩, fun now => ⟨fun free => ?_, fun busy => ?_⟩⟩
    · rw [localGather_comes now, atRowOwner_free owned _ _ free]
    · rw [localGather_comes now, atRowOwner_busy owned _ _ busy]; rfl
    · rw [localScatterAdd_comes now, atRowOwner_free owned _ _ free]
    · rw [localScatterAdd_comes now, atRowOwner_busy owned _ _ busy]; rfl
  case gather =>
    exact ⟨fun vas bs u inside valid whole read cores => gatherStep_row isOpen table place piece e unread size inside valid whole read cores,
      fun beyond edge noTrits => gatherStep_beyond isOpen table place piece e unread size beyond edge noTrits,
      fun beyond some_ edge => gatherStep_refused isOpen table place piece _ unread beyond some_ edge⟩
  case scatter =>
    intro t c e0 x w en free
    refine ⟨fun vas inside valid words mode => scatterStep_adds isOpen table free _ place piece unread inside valid words mode,
      fun beyond edge => ?_, fun beyond edge => ?_⟩
    · refine (scatterStep_beyond isOpen table free _ beyond).trans (if_neg ?_); rw [edge]; exact Bool.false_ne_true
    · exact (scatterStep_beyond isOpen table free _ beyond).trans (if_pos edge)

/-- Settles O43: the chunks of a transfer (`chunkEvents`), and the rows of a gather or scatter-add (`rowEvents`). -/
theorem transferProgress : Obligations.TransferProgress := ⟨chunkEvents, rowEvents⟩

end Sys2Proof.Proofs
end

section
/-! SUPPORT. The words of a barrier record (R214, R216 to R218, R222): satisfied and completed phases, arrivals, and what BINIT and BEXP
write. -/

namespace Sys2Proof.Proofs

open Sys2Proof.Machine Sys2Proof.Claims

/-! ## The counts of a word, and its phase bit (R214) -/

section
variable (w : Word)

/-- A word without its upper count keeps its lower half. -/
theorem setBits_high_zero : BitVec.ofNat 32 (setBits w.toNat 16 16 0) = w &&& 0xFFFF#32 := by
  have mask : w.toNat &&& 65535 = w.toNat % 65536 := Nat.and_two_pow_sub_one_eq_mod w.toNat 16
  have lt := w.isLt
  refine BitVec.eq_of_toNat_eq ?_
  simp [setBits, bits, mask]
  omega

/-- The upper count counted up is 2^16 added to the word. -/
theorem setBits_high_succ :
    BitVec.ofNat 32 (setBits w.toNat 16 16 (bits w.toNat 16 16 + 1)) = w + 0x10000#32 := by
  have lt := w.isLt
  refine BitVec.eq_of_toNat_eq ?_
  simp [setBits, bits]
  omega

/-- A new lower count stands below the old upper one. -/
theorem toNat_setBits_low {e : Nat} (small : e < 65536) :
    (BitVec.ofNat 32 (setBits w.toNat 0 16 e)).toNat = w.toNat / 65536 * 65536 + e := by
  have lt := w.isLt
  simp [setBits, bits]
  omega

theorem bits_high : bits w.toNat 16 16 = w.toNat / 65536 := by
  have lt := w.isLt
  unfold bits; omega

theorem bits_low : bits w.toNat 0 16 = w.toNat % 65536 := by simp [bits]

theorem xor_four_of_clear (clear : w.getLsbD 2 = false) : w ^^^ 4#32 = w + 4#32 := by
  have four : (4#32 : Word) = BitVec.twoPow 32 2 := by decide
  have apart : w &&& 4#32 = 0#32 := by rw [four, BitVec.and_twoPow, clear]; rfl
  rw [BitVec.add_eq_or_of_and_eq_zero _ _ apart]
  refine BitVec.eq_of_getLsbD_eq fun i hi => ?_
  have bit := congrArg (BitVec.getLsbD · i) apart
  simp only [BitVec.getLsbD_and, BitVec.getLsbD_xor, BitVec.getLsbD_or] at bit ⊢
  cases hw : w.getLsbD i <;> cases h4 : (4#32 : Word).getLsbD i <;> simp_all

/-- The other value of the phase bit is bit 2 flipped. -/
theorem setBits_phase : BitVec.ofNat 32 (setBits w.toNat 2 1 (1 - bits w.toNat 2 1)) = w ^^^ 4#32 := by
  have bit : (bits w.toNat 2 1 == 1) = w.getLsbD 2 := bits_one_eq w 2
  have lt := w.isLt
  cases h : w.getLsbD 2
  · have zero : bits w.toNat 2 1 = 0 := by rw [h] at bit; unfold bits at bit ⊢; simp at bit; omega
    rw [xor_four_of_clear w h, setBits, zero]
    exact BitVec.eq_of_toNat_eq (by simp)
  · have one : bits w.toNat 2 1 = 1 := by rw [h] at bit; exact eq_of_beq bit
    have size : 4 ≤ w.toNat := by unfold bits at one; omega
    have back : w = (w ^^^ 4#32) + 4#32 := by
      rw [← xor_four_of_clear _ (by rw [BitVec.getLsbD_xor, h]; rfl), BitVec.xor_assoc, BitVec.xor_self, BitVec.xor_zero]
    have less : w ^^^ 4#32 = w - 4#32 := by rw [← BitVec.add_sub_cancel (w ^^^ 4#32) 4#32, ← back]
    rw [less, setBits, one]
    refine BitVec.eq_of_toNat_eq ?_
    simp; omega

end

/-! ## The fields of a record (R214) -/

theorem recField_eq (r : Rec) {i : Nat} (h : i < 16) (lo n : Nat) : recField r i lo n = bits r[i].toNat lo n := by
  rw [recField, recW_eq r h]

theorem getElem_setRecField (r : Rec) (i : Fin 16) (lo n v : Nat) {j : Nat} (h : j < 16) :
    (setRecField i lo n v r)[j] = if i.val = j then BitVec.ofNat 32 (setBits r[j].toNat lo n v) else r[j] := by
  rw [setRecField, Vector.getElem_set]
  split
  · rename_i same; subst same; rfl
  · rfl

theorem slotWord_val {s : Nat} (h : s < 6) : (slotWord s).val = 5 + 2 * s := Nat.mod_eq_of_lt (by omega)

theorem barPoisoned_iff (r : Rec) : barPoisoned r = true ↔ poisoned r := by
  rw [barPoisoned, recField_eq r (by decide), bits_one_eq]

/-! ## Phases (R217) -/

theorem barSatisfied_iff (r : Rec) : barSatisfied r = true ↔ Satisfied r := by
  have slot (s : Nat) (h : s < 6) : recField r (5 + 2 * s) 0 16 ≤ recField r (5 + 2 * s) 16 16 ↔
      r[5 + 2 * s].toNat % 65536 ≤ r[5 + 2 * s].toNat / 65536 := by
    rw [recField_eq r (by omega), recField_eq r (by omega), bits_low, bits_high]
  simp only [barSatisfied, Bool.and_eq_true, Bool.not_eq_true', Bool.eq_false_iff, ne_eq, barPoisoned_iff, decide_eq_true_eq,
    List.all_eq_true, List.mem_range, beq_iff_eq, recField_eq r (show 3 < 16 by decide), bits_low, bits_high, and_assoc, Satisfied]
  exact and_congr_right fun _ => and_congr_right fun _ => and_congr_left fun _ => forall₂_congr slot

/-- The arrived counts of the first n producer slots cleared. -/
theorem getElem_clearSlots {n : Nat} (le : n ≤ 6) (r : Rec) {j : Nat} (h : j < 16) :
    ((List.range n).foldl (fun r s => setRecField (slotWord s) 16 16 0 r) r)[j] =
      if j % 2 = 1 ∧ 5 ≤ j ∧ j < 5 + 2 * n then r[j] &&& 0xFFFF#32 else r[j] := by
  induction n with
  | zero => rw [if_neg (by omega)]; rfl
  | succ n ih =>
    rw [List.range_succ, List.foldl_append, List.foldl_cons, List.foldl_nil, getElem_setRecField _ _ _ _ _ h, slotWord_val (by omega),
      ih (by omega), setBits_high_zero]
    by_cases this : 5 + 2 * n = j
    · rw [if_pos this, if_neg (by omega), if_pos (by omega)]
    · rw [if_neg this]
      exact if_congr (by omega) rfl rfl

/-- A completed phase word by word: the phase bit flipped, the bitmap and every arrived count cleared. -/
theorem getElem_barFlip (r : Rec) {j : Nat} (h : j < 16) : (barFlip r)[j] = if j = 0 then r[j] ^^^ 4#32 else if j = 1 then 0#32
    else if j % 2 = 1 then r[j] &&& 0xFFFF#32 else r[j] := by
  have flip : BitVec.ofNat 32 (setBits r[0].toNat 2 1 (1 - barPh r)) = r[0] ^^^ 4#32 := by
    rw [barPh, recField_eq r (by decide), setBits_phase]
  rw [barFlip, getElem_clearSlots le_rfl _ h]
  simp only [getElem_setRecField _ _ _ _ _ h, Vector.getElem_set, setBits_high_zero]
  by_cases zero : j = 0
  · subst zero; exact flip
  by_cases one : j = 1
  · subst one; rfl
  by_cases three : j = 3
  · subst three; rfl
  by_cases odd : j % 2 = 1
  · rw [if_pos ⟨odd, by omega, by omega⟩]
    simp [zero, one, odd, Ne.symm zero, Ne.symm one, Ne.symm three]
  · simp [zero, one, odd, Ne.symm zero, Ne.symm one, Ne.symm three]

theorem barFlip_flipped (r : Rec) : Flipped r (barFlip r) := by
  refine ⟨getElem_barFlip r (by decide), getElem_barFlip r (by decide), getElem_barFlip r (by decide), getElem_barFlip r (by decide),
    fun s h => ⟨?_, ?_⟩⟩
  · rw [getElem_barFlip r (by omega), if_neg (by omega), if_neg (by omega), if_neg (by omega)]
  · rw [getElem_barFlip r (by omega), if_neg (by omega), if_neg (by omega), if_pos (by omega)]

/-! ## Arrivals (R218) -/

/-- The bit of a chunk in the bitmap; none of an arrival without one. -/
def chunkBit (chunk : Option Nat) : Word := match chunk with
  | some k => 1#32 <<< k
  | none => 0#32

/-- A record whose arrived count in word i has grown by one, with the chunk's bit (R218). -/
def credited (i : Fin 16) (chunk : Option Nat) (r : Rec) : Rec :=
  let q := setRecField i 16 16 (recField r i 16 16 + 1) r
  q.set 1 (q[1] ||| chunkBit chunk)

theorem credited_none (i : Fin 16) (r : Rec) : credited i none r = setRecField i 16 16 (recField r i 16 16 + 1) r := by
  rw [credited, chunkBit, BitVec.or_zero, Vector.set_getElem_self]

/-- An arrival is rejected where its count is full, or its slot expects none or another core; else it is credited (R218). -/
theorem barCredit_generic (core : Nat) (chunk : Option Nat) (r : Rec) : barCredit core 6 chunk r =
    if recField r 3 16 16 = 0xFFFF then none else some (credited 3 chunk r) := by
  cases chunk
  · rw [credited_none]; rfl
  · rfl

theorem barCredit_slot (core : Nat) (chunk : Option Nat) (r : Rec) {s : Nat} (h : s < 6) : barCredit core s chunk r =
    if recField r (5 + 2 * s) 0 16 = 0 ∨ recField r (4 + 2 * s) 0 18 ≠ core ∨ recField r (5 + 2 * s) 16 16 = 0xFFFF then none
    else some (credited (slotWord s) chunk r) := by
  rw [barCredit, if_neg (by omega)]
  cases chunk
  · rw [credited_none, slotWord_val h]
  · rw [credited, slotWord_val h]; rfl

theorem credited_words {i : Fin 16} (other : i.val ≠ 1) (chunk : Option Nat) (r : Rec) :
    (credited i chunk r)[i] = r[i] + 0x10000#32 ∧ (credited i chunk r)[1] = r[1] ||| chunkBit chunk ∧
      ∀ j, (h : j < 16) → j ≠ 1 → j ≠ i.val → (credited i chunk r)[j] = r[j] := by
  refine ⟨?_, ?_, fun j h one ne => ?_⟩
  · show (credited i chunk r)[i.val] = _
    rw [credited, Vector.getElem_set_ne _ _ (Ne.symm other), getElem_setRecField _ _ _ _ _ i.isLt, if_pos rfl, recField_eq r i.isLt,
      setBits_high_succ]
    rfl
  · rw [credited, Vector.getElem_set_self, getElem_setRecField _ _ _ _ _ (by decide), if_neg other]
  · rw [credited, Vector.getElem_set_ne _ _ (Ne.symm one), getElem_setRecField _ _ _ _ _ h, if_neg (Ne.symm ne)]

/-! ## BINIT and BEXP (R222) -/

theorem barInit_words (m g : Word) (r : Rec) :
    (barInit m g r)[0].toNat = (r[0].toNat / 256 % 256 + 1) % 256 * 256 + 4 * phase r + 1 ∧ (barInit m g r)[1] = 0#32 ∧
      (barInit m g r)[2] = m ∧ (barInit m g r)[3] = g &&& 0xFFFF#32 ∧ ∀ j, (h : j < 16) → 4 ≤ j → (barInit m g r)[j] = 0#32 := by
  refine ⟨?_, rfl, rfl, rfl, fun j h from_ => ?_⟩
  · have phases : phase r < 2 := Nat.mod_lt _ (by decide)
    show (BitVec.ofNat 32 ((recField r 0 8 8 + 1) % 256 * 256 + 4 * barPh r + 1)).toNat = _
    rw [recField_eq r (by decide), barPh_eq_phase, BitVec.toNat_ofNat]
    unfold bits
    omega
  · rw [barInit, Vector.getElem_set_ne _ _ (by omega), Vector.getElem_set_ne _ _ (by omega), Vector.getElem_set_ne _ _ (by omega),
      Vector.getElem_replicate]

theorem barExpect_generic {v e : Word} {r : Rec} (small : e.toNat < 65536) (sel : v.toNat / 2 ^ 29 = 6) :
    (barExpect v e r)[3].toNat = r[3].toNat / 65536 * 65536 + e.toNat ∧ ∀ j, (h : j < 16) → j ≠ 3 → (barExpect v e r)[j] = r[j] := by
  have runs : barExpect v e r = setRecField 3 0 16 e.toNat r := if_pos (by rw [bits, sel]; decide)
  refine ⟨?_, fun j h ne => ?_⟩
  · rw [runs, getElem_setRecField _ _ _ _ _ (by decide), if_pos (by decide), toNat_setBits_low _ small]
  · rw [runs, getElem_setRecField _ _ _ _ _ h]
    exact if_neg (Ne.symm ne)

theorem barExpect_slot {v e : Word} {r : Rec} (small : e.toNat < 65536) {s : Nat} (h : s < 6) (sel : v.toNat / 2 ^ 29 = s) :
    (barExpect v e r)[4 + 2 * s] = v &&& 0x3FFFF#32 ∧ (barExpect v e r)[5 + 2 * s].toNat = r[5 + 2 * s].toNat / 65536 * 65536 + e.toNat ∧
      ∀ j, (h : j < 16) → j ≠ 4 + 2 * s → j ≠ 5 + 2 * s → (barExpect v e r)[j] = r[j] := by
  have field : bits v.toNat 29 3 = s := by rw [bits, sel]; omega
  have core : (Fin.ofNat 16 (4 + 2 * s)).val = 4 + 2 * s := Nat.mod_eq_of_lt (by omega)
  have runs : barExpect v e r = setRecField (slotWord s) 0 16 e.toNat (r.set (Fin.ofNat 16 (4 + 2 * s)) (v &&& 0x3FFFF#32)) := by
    unfold barExpect
    simp only [field]
    exact if_neg (by omega)
  rw [runs]
  refine ⟨?_, ?_, fun j hj ne ne' => ?_⟩
  · rw [getElem_setRecField _ _ _ _ _ (by omega), slotWord_val h, if_neg (by omega), Vector.getElem_set, if_pos core]
  · rw [getElem_setRecField _ _ _ _ _ (by omega), slotWord_val h, if_pos rfl, toNat_setBits_low _ small, Vector.getElem_set,
      if_neg (by omega)]
  · rw [getElem_setRecField _ _ _ _ _ hj, slotWord_val h, if_neg ne'.symm, Vector.getElem_set, if_neg (by omega)]

theorem barrierRecords : BarrierRecords := by
  refine ⟨barSatisfied_iff, barFlip_flipped, fun r core chunk _ => ⟨?_, ?_, fun s h => ⟨?_, ?_⟩⟩, barInit_words,
    fun v e r small => ⟨barExpect_generic small, fun s h => barExpect_slot small h⟩⟩
  · rw [barCredit_generic, recField_eq r (by decide), bits_high]; simp
  · intro q credit
    rw [barCredit_generic] at credit
    obtain ⟨-, same⟩ := Option.ite_none_left_eq_some.1 credit
    cases same
    exact credited_words (by decide) chunk r
  · rw [barCredit_slot core chunk r h, recField_eq r (by omega), recField_eq r (by omega), recField_eq r (by omega), bits_low, bits_high]
    simp only [ite_eq_left_iff, reduceCtorEq, imp_false, not_not, bits, Nat.pow_zero, Nat.div_one]
  · intro q credit
    rw [barCredit_slot core chunk r h] at credit
    obtain ⟨-, same⟩ := Option.ite_none_left_eq_some.1 credit
    cases same
    have words := credited_words (i := slotWord s) (by rw [slotWord_val h]; omega) chunk r
    simp only [Fin.getElem_fin, slotWord_val h] at words
    exact words

end Sys2Proof.Proofs
end

section
/-! SUPPORT. Barrier instructions at their issue: the checks of their reference and values, what the unit of the record's own core makes of
them, and operations that travel to another core (R195, R215, R221 to R227). Settles O45. -/

namespace Sys2Proof.Proofs

open Sys2Proof.Machine Sys2Proof.Claims

/-! ## References (R195, R221) -/

theorem barPlace_of_refersTo {w : Word} {k n : Nat} (ref : RefersTo w k n) (ctx : Nat) (m : Option Rec) :
    barPlace ctx w.toNat m = .loc k n := by
  obtain ⟨word, aligned, inside, small⟩ := ref
  have local_ : bits w.toNat 31 1 = 0 := by rw [word]; unfold bits; omega
  have core : bits w.toNat 13 18 = k := by rw [word]; unfold bits; omega
  have address : 4 * bits w.toNat 0 13 = n := by rw [word]; unfold bits; omega
  rw [barPlace, if_pos local_, core, address]

theorem barTrap_of_refersTo {w : Word} {k n : Nat} (ref : RefersTo w k n) (s : State) (op : BarOp) : s.barTrap op w = none := by
  obtain ⟨word, aligned, inside, small⟩ := ref
  unfold State.barTrap bits
  dsimp only
  rw [if_pos (by omega), if_neg (by omega)]

/-- A local reference that is misaligned, or whose record does not lie wholly below the deque, traps (R221). -/
theorem barTrap_of_misplaced {w : Word} (low : w.toNat < 2 ^ 31) (bad : w.toNat % 16 ≠ 0 ∨ 0x7000 < 4 * (w.toNat % 2 ^ 13) + 64)
    (s : State) (op : BarOp) : s.barTrap op w = some ⟨.barrierInvalid, false, w⟩ := by
  unfold State.barTrap bits
  dsimp only
  rw [if_pos low, if_pos (by omega)]

/-! ## Issue (R221, R227) -/

/-- The check of an instruction's values, x[d] and x[b] (R222, R223). -/
def valueTrap (op : BarOp) (ref v e : Word) : Option Trap :=
  match op with
  | .binit => failIf (0xFFFF < e.toNat) .barrierInvalid ref.toNat
  | .bexp => failIf (bits v.toNat 29 3 == 7 || bits v.toNat 18 11 != 0 || 0xFFFF < e.toNat ||
      (bits v.toNat 29 3 == 6 && bits v.toNat 0 18 != 0)) .barrierProducer v.toNat
  | .barr => failIf (6 < e.toNat) .barrierProducer e.toNat
  | .bwait | .bwaitm | .btest => none

/-- The barrier instructions that are releases (R227). -/
def barReleases (op : BarOp) : Bool := op == .binit || op == .barr

/-- The operation that an instruction issues. -/
def issuedOp (op : BarOp) (b d a : BitVec 4) (s : State) : BarMsg :=
  match op with
  | .binit | .bexp => s.barMsg op (s.x a) d (s.x d) (s.x b)
  | .barr | .bwait | .bwaitm | .btest => s.barMsg op (s.x a) d (s.x b) 0#32

theorem issuedOp_fields (op : BarOp) (b d a : BitVec 4) (s : State) : (issuedOp op b d a s).src = s.who ∧ (issuedOp op b d a s).op = op ∧
    (issuedOp op b d a s).rd = d ∧ (issuedOp op b d a s).group = s.core.group := by
  cases op <;> exact ⟨rfl, rfl, rfl, rfl⟩

theorem issuedOp_place {s : State} {a : BitVec 4} {k n : Nat} (ref : RefersTo (s.x a) k n) (op : BarOp) (b d : BitVec 4) :
    (issuedOp op b d a s).place = .loc k n := by
  cases op <;> exact barPlace_of_refersTo ref _ _

section
variable {i : Instr} {op : BarOp} {b d a : BitVec 4} {s : State} (row : barrierRow i = some (op, b, d, a))
include row

/-- A barrier instruction is its operation, with its own check and its own order. -/
theorem exec_barrierRow : exec i s = .next (State.barrier op b d a (valueTrap op (s.x a)) (barReleases op) s) := by
  unfold barrierRow at row
  split at row <;> cases row <;> rfl

variable (task : InTask s) (ready : Ready s [a, b, d])
include task ready

theorem barrier_issues {k n : Nat} (ref : RefersTo (s.x a) k n) (values : valueTrap op (s.x a) (s.x d) (s.x b) = none)
    (release : barReleases op = true → Settled s) : exec i s = .next (s.barIssue (issuedOp op b d a s)) := by
  have done : (!barReleases op || s.settled) = true := by
    cases h : barReleases op
    · rfl
    · exact settled_of_task task (release h)
  rw [exec_barrierRow row, State.barrier, State.inTask_task _ _ task, withRegs_access ready]
  dsimp only
  rw [State.checked_none _ _ _ (barTrap_of_refersTo ref s op), State.checked_none _ _ _ values, State.await_true _ _ _ done]
  rfl

theorem barrier_traps (low : (s.x a).toNat < 2 ^ 31) (bad : (s.x a).toNat % 16 ≠ 0 ∨ 0x7000 < 4 * ((s.x a).toNat % 2 ^ 13) + 64) :
    exec i s = .next (s.trapWith ⟨.barrierInvalid, false, s.x a⟩) := by
  rw [exec_barrierRow row, State.barrier, State.inTask_task _ _ task, withRegs_access ready]
  exact congrArg Host.Outcome.next (checked_traps (barTrap_of_misplaced low bad s op) _)

end

/-! ## Values that pass their checks (R222, R223) -/

theorem valueTrap_binit {ref v e : Word} (small : e.toNat < 65536) : valueTrap .binit ref v e = none :=
  if_neg (by simp; omega)

theorem valueTrap_bexp {ref v e : Word} (small : e.toNat < 65536) (zero : bits v.toNat 18 11 = 0)
    (sel : bits v.toNat 29 3 < 6 ∨ v = 0xC0000000#32) : valueTrap .bexp ref v e = none := by
  refine if_neg ?_
  rcases sel with slot | rfl
  · simp [zero, show bits v.toNat 29 3 ≠ 7 by omega, show bits v.toNat 29 3 ≠ 6 by omega]; omega
  · simp [bits]; omega

theorem valueTrap_barr {ref v e : Word} (slot : e.toNat ≤ 6) : valueTrap .barr ref v e = none :=
  if_neg (by simpa using slot)

/-- Selector 0 with a small count passes every check. -/
theorem valueTrap_none {ref e : Word} (slot : e.toNat ≤ 6) (op : BarOp) : valueTrap op ref 0#32 e = none := by
  cases op
  case binit => exact valueTrap_binit (by omega)
  case bexp => exact valueTrap_bexp (by omega) (by decide) (.inl (by decide))
  case barr => exact valueTrap_barr slot
  all_goals rfl

/-! ## Registers -/

/-- Who issues, and every scalar register of every context. -/
def registers (s : State) := (s.who, fun k => regsOf (s.coreAt k))

theorem who_of_registers {s t : State} (h : registers t = registers s) : t.who = s.who := congrArg Prod.fst h

theorem xAt_of_registers {s t : State} (h : registers t = registers s) (j : Issuer) (x : BitVec 4) : t.xAt j x = s.xAt j x := by
  have same : regsOf (t.coreAt j.core) = regsOf (s.coreAt j.core) := congrFun (congrArg Prod.snd h) j.core
  rw [xAt_eq_regsOf, xAt_eq_regsOf, same]

theorem registers_modCore {f : Core → Core} (keeps : ∀ c, regsOf (f c) = regsOf c) (s : State) (k : Nat) :
    registers (s.modCore k f) = registers s :=
  Prod.ext rfl (funext fun j => coreAt_modCore_keeps regsOf keeps s k j)

theorem number_who (s : State) (src : Nat) (e : Event) : (s.number src e).who = s.who := by
  unfold State.number; dsimp only; split <;> split <;> rfl

theorem depart_who (s : State) (g src dst : Nat) (e : Event) : (s.depart g src dst e).who = s.who := by
  rw [State.depart, number_who]; split <;> rfl

theorem registers_answer (s : State) (g src dst : Nat) (e : Event) : registers (s.answer g src dst e) = registers s := by
  have sent : registers (s.depart g src dst e) = registers s := by
    refine Prod.ext (depart_who ..) (funext fun k => ?_)
    obtain ⟨n, same⟩ := coreAt_depart s g src dst e k
    show regsOf ((s.depart g src dst e).coreAt k) = _
    rw [same]; rfl
  rw [State.answer, State.postTo, ← sent]; split <;> rfl

theorem registers_barUnpark (m : BarMsg) (s : State) : registers (s.barUnpark m) = registers s := by
  unfold State.barUnpark; split
  · exact registers_modCore (f := fun c => { c with parkedBar := c.parkedBar.filter fun b => b.wait != m.wait }) (fun _ => rfl) s _
  · rfl

theorem registers_barWake (w : Word) (s : State) (m : BarMsg) : registers (s.barWake w m) = registers s := by
  rw [← registers_barUnpark m s]
  unfold State.barWake; dsimp only; split
  · split
    · rfl
    · exact registers_answer ..
  · unfold State.postTo; split <;> rfl

theorem registers_wakeAll (s : State) (p : BarPlace) (op : BarOp) (w : Word) : registers (s.wakeAll p op w) = registers s :=
  foldl_keeps registers _ (registers_barWake w) _ s

theorem registers_wakeMasks (s : State) (p : BarPlace) (r : Rec) : registers (s.wakeMasks p r) = registers s :=
  foldl_keeps registers _ (registers_barWake 0#32) _ s

theorem registers_barPut (s : State) (k n pa : Nat) (r : Rec) : registers (s.barPut (.loc k n) pa r) = registers s :=
  registers_modCore (f := fun c => { c.settle (fun w => n < w + 4 && w < n + (wordBytes r.toList).length) with
    lm := c.lm.setBytes n (wordBytes r.toList) }) (fun _ => rfl) s k

/-- Waits that end change no register before their replies come (R217, R226). -/
theorem registers_barTestPhase (s : State) (k n pa : Nat) (r : Rec) : registers (s.barTestPhase (.loc k n) pa r) = registers s := by
  unfold State.barTestPhase; dsimp only; split
  · rw [registers_wakeAll, registers_wakeAll, registers_barPut, registers_wakeMasks]
  · rw [registers_wakeMasks, registers_barPut]

/-! ## What the value of an operation does (R221, R227) -/

/-- The issuer's L1 and register when an operation has its value. -/
def valued (op : BarOp) (d : BitVec 4) (v : Word) (u : State) : State :=
  let t := if barAcquires op then u.dropL1 u.who.core else u
  if barWrites op then t.setX d v else t

theorem barResult_value {m : BarMsg} {u : State} (src : m.src = u.who) (v : Word) :
    u.barResult (barReply m v none) = (valued m.op m.rd v u).retireAt u.who 4#32 := by
  unfold State.barResult barReply valued
  rw [src]
  cases m.op <;> rfl

section
variable {op : BarOp} (d : BitVec 4) (v : Word) (u : State)

theorem memory_valued : memory (valued op d v u) = memory u := by
  have acquired : memory (if barAcquires op then u.dropL1 u.who.core else u) = memory u := by
    split
    · exact memory_dropL1 ..
    · rfl
  unfold valued; dsimp only; split
  · rw [memory_setX, acquired]
  · exact acquired

theorem registers_acquired : registers (if barAcquires op then u.dropL1 u.who.core else u) = registers u := by
  split
  · exact registers_modCore (f := fun c => { c with l1 := [], l1Fills := [] }) (fun _ => rfl) u _
  · rfl

theorem xAt_valued_other {j : Issuer} {x : BitVec 4} (other : j ≠ u.who ∨ x ≠ d ∨ barWrites op = false) :
    (valued op d v u).xAt j x = u.xAt j x := by
  have acquired := registers_acquired (op := op) u
  rw [← xAt_of_registers acquired j x]
  unfold valued; dsimp only; split
  · rename_i writes
    refine xAt_setX_other _ _ _ _ _ ?_
    rw [who_of_registers acquired]
    exact other.imp_right fun h => h.resolve_right (by simp [writes])
  · rfl

theorem x_valued (task : InTask u) (writes : barWrites op = true) : (valued op d v u).x d = if d = 0#4 then 0#32 else v := by
  have issuer : InTask (if barAcquires op then u.dropL1 u.who.core else u) := by
    unfold InTask State.inHandler
    rw [who_of_registers (registers_acquired u)]; exact task
  unfold valued; dsimp only
  rw [if_pos writes]
  exact x_setX_of_task issuer d v

end

/-! ## On a record of the issuer's own core (R215, R221) -/

theorem writesRecord_same {s u : State} {k n : Nat} {r : Rec} (record : (s.coreAt k).lm.rec n = r) (same : memory u = memory s) :
    WritesRecord s u k n r :=
  writesRecord_of_memory ⟨record, fun _ _ => rfl, fun _ _ => rfl, rfl⟩ same

section
variable {s u : State} {m : BarMsg} {n : Nat} (place : m.place = .loc s.who.core n)
include place

theorem barIssue_value {v : Word} (performs : s.newWait.2.barPerform m = (.value v, u)) :
    s.barIssue m = (u.barResult (barReply m v none)).prefer := by
  unfold State.barIssue
  rw [place]
  refine (if_pos rfl).trans ?_
  rw [performs]

theorem barIssue_rejects {c : Cause} (performs : s.newWait.2.barPerform m = (.reject c, u)) : s.barIssue m = u.trap c m.ref := by
  unfold State.barIssue
  rw [place]
  refine (if_pos rfl).trans ?_
  rw [performs]

theorem barIssue_parks (performs : s.newWait.2.barPerform m = (.parked, u)) : s.barIssue m = u.prefer := by
  unfold State.barIssue
  rw [place]
  refine (if_pos rfl).trans ?_
  rw [performs]

end

/-- An instruction of the issuing context completes: the record at n of its core becomes r', and its register takes the value, if it has one. -/
def Completes (s : State) (n : Nat) (d : BitVec 4) (i : Instr) (value : Option Word) (r' : Rec) : Prop :=
  ∃ u : State, exec i s = .next ((u.retireAt s.who 4#32).prefer) ∧ WritesRecord s u s.who.core n r' ∧
    (∀ j x, (j ≠ s.who ∨ x ≠ d ∨ value = none) → u.xAt j x = s.xAt j x) ∧ ∀ w ∈ value, u.x d = if d = 0#4 then 0#32 else w

/-- An operation performed at once with a value completes its instruction. -/
theorem completes_of_value {s u : State} {i : Instr} {op : BarOp} {b d a : BitVec 4} {n : Nat} {v : Word} {r' : Rec} (task : InTask s)
    (issues : exec i s = .next (s.barIssue (issuedOp op b d a s))) (ref : RefersTo (s.x a) s.who.core n)
    (performs : s.newWait.2.barPerform (issuedOp op b d a s) = (.value v, u)) (same : registers u = registers s)
    (writes : WritesRecord s u s.who.core n r') : Completes s n d i (if barWrites op then some v else none) r' := by
  obtain ⟨src, kind, rd, -⟩ := issuedOp_fields op b d a s
  have who := who_of_registers same
  have issuer : InTask u := by unfold InTask State.inHandler; rw [who]; exact task
  refine ⟨valued op d v u, ?_, writesRecord_of_memory writes (memory_valued d v u), fun j x other => ?_, fun w mem => ?_⟩
  · rw [issues, barIssue_value (issuedOp_place ref op b d) performs, barResult_value (src.trans who.symm), kind, rd, who]
  · refine (xAt_valued_other d v u ?_).trans (xAt_of_registers same j x)
    rw [who]
    exact other.imp_right fun h => h.imp_right fun none => by simpa using none
  · cases hw : barWrites op
    · simp [hw] at mem
    · obtain rfl : v = w := by simpa [hw] using mem
      exact x_valued d v u issuer hw

/-- A wait of the issuing context parks at the record r at n of its core, which stands as it was (R226). -/
def Parks (s : State) (n : Nat) (r : Rec) (v : Word) (i : Instr) : Prop :=
  ∃ t, exec i s = .next t ∧ WritesRecord s t s.who.core n r ∧ (t.taskAt s.who).run = .stalled (.parked s.waitCount) ∧
    ∃ m ∈ (t.coreAt s.who.core).parkedBar, m.wait = s.waitCount ∧ m.src = s.who ∧ m.a = v

theorem barPark_parks {s : State} {m : BarMsg} {k n : Nat} (place : m.place = .loc k n) (task : m.src.ctx ≠ .handler) :
    memory (s.barPark m) = memory s ∧ ((s.barPark m).taskAt m.src).run = .stalled (.parked m.wait) ∧ m ∈ ((s.barPark m).coreAt k).parkedBar := by
  have runs : s.barPark m = (s.modCore k fun c => { c with parkedBar := c.parkedBar ++ [m] }).modTask m.src
      fun t => { t with run := .stalled (.parked m.wait) } := by
    unfold State.barPark
    simp only [place]
  rw [runs]
  refine ⟨?_, ?_, ?_⟩
  · rw [memory_modTask]
    exact memory_modCore (f := fun c => { c with parkedBar := c.parkedBar ++ [m] }) (fun _ => rfl) s k
  · rw [State.taskAt_modTask_same _ _ _ task]
  · have parked (c : Core) (f : TaskCtx → TaskCtx) : (c.modTask m.src.ctx f).parkedBar = c.parkedBar := by cases m.src.ctx <;> rfl
    rw [State.modTask, coreAt_modCore_keeps Core.parkedBar (fun c => parked c _), State.coreAt_modCore_same]
    simp

/-- An operation that parks leaves its instruction waiting. -/
theorem parks_of_parked {s : State} {i : Instr} {op : BarOp} {b d a : BitVec 4} {n : Nat} {r : Rec} (task : InTask s)
    (issues : exec i s = .next (s.barIssue (issuedOp op b d a s))) (ref : RefersTo (s.x a) s.who.core n)
    (record : (s.coreAt s.who.core).lm.rec n = r)
    (performs : s.newWait.2.barPerform (issuedOp op b d a s) = (.parked, s.newWait.2.barPark (issuedOp op b d a s))) :
    Parks s n r (issuedOp op b d a s).a i := by
  have place := issuedOp_place ref op b d
  obtain ⟨src, -, -, -⟩ := issuedOp_fields op b d a s
  have wait : (issuedOp op b d a s).wait = s.waitCount := by cases op <;> rfl
  obtain ⟨same, run, parked⟩ := barPark_parks (s := s.newWait.2) place (by rw [src]; exact ctx_of_task task)
  rw [src, wait] at run
  refine ⟨(s.newWait.2.barPark (issuedOp op b d a s)).prefer, ?_, ?_, ?_, issuedOp op b d a s, ?_, wait, src, rfl⟩
  · rw [issues, barIssue_parks place performs]
  · exact writesRecord_same record ((memory_prefer _).trans same)
  · rw [taskAt_prefer, run]
  · rw [coreAt_prefer_keeps Core.parkedBar (fun _ _ => rfl)]; exact parked

section
variable {t : State} {m : BarMsg} {k n : Nat} {r : Rec} (place : m.place = .loc k n) (at_ : RecordAt t m.group k n r)
include place at_

/-- BINIT initialises any well-formed record, whether or not it has been initialised before (R216, R222). -/
theorem barPerform_binit_formed (op : m.op = .binit) : t.barPerform m = (.value 0#32, t.barPut (.loc k n) 0 (barInit m.a m.b r)) := by
  obtain ⟨-, -, -, -, -, formed⟩ := id at_
  have accepted : barRejects true r = false := by rw [barRejects, formed]; rfl
  unfold State.barPerform
  simp only [place, barAt_found at_, op, beq_self_eq_true, accepted]; rfl

variable (init : Initialised r)
include init

theorem barPerform_bexp (op : m.op = .bexp) : t.barPerform m = (.value 0#32, t.barTestPhase (.loc k n) 0 (barExpect m.a m.b r)) := by
  unfold State.barPerform
  simp only [place, barAt_found at_, barRejects_found at_ init, op]; rfl

theorem barPerform_barr_rejects (op : m.op = .barr) (rejected : barCredit m.src.core m.a.toNat none r = none) :
    t.barPerform m = (.reject .barrierProducer, t) := by
  unfold State.barPerform
  simp only [place, barAt_found at_, barRejects_found at_ init, op, rejected]; rfl

/-- BWAIT by the phase and P of its record (R224). -/
theorem barPerform_bwait (op : m.op = .bwait) : t.barPerform m = if phase r ≠ m.a.toNat % 2 then (.value 0#32, t)
    else if poisoned r then (.value 1#32, t) else t.barWaits m := by
  unfold State.barPerform
  simp only [place, barAt_found at_, barRejects_found at_ init, op, barPh_eq_phase, barPoisoned_iff]; rfl

/-- BWAITM by the bitmap of its record (R224). -/
theorem barPerform_bwaitm (op : m.op = .bwaitm) : t.barPerform m = if r[1] &&& m.a = m.a then (.value 0#32, t) else t.barWaits m := by
  unfold State.barPerform
  simp only [place, barAt_found at_, barRejects_found at_ init, op]; rfl

end

/-- A wait at a record of its own core is never turned away (R226). -/
theorem barWaits_own {t : State} {m : BarMsg} {n : Nat} (place : m.place = .loc m.src.core n) : t.barWaits m = (.parked, t.barPark m) := by
  have own : barRemote m = false := by unfold barRemote; simp only [place, bne_self_eq_false]
  unfold State.barWaits
  rw [own]; rfl

/-- What BTEST returns, field by field (R225). -/
theorem barTest_eq (m : Word) (r : Rec) : barTest m r = BitVec.ofNat 32 (r[0].toNat / 256 % 256 * 65536 +
    (if r[1] &&& m = m then 4 else 0) + (if r[0].getLsbD 3 then 2 else 0) + phase r) := by
  have generation : recField r 0 8 8 = r[0].toNat / 256 % 256 := recField_eq r (by decide) 8 8
  have covers : (r[1] &&& m == m).toNat * 4 = if r[1] &&& m = m then 4 else 0 := by
    by_cases h : r[1] &&& m = m <;> simp [h]
  have poison : (barPoisoned r).toNat * 2 = if r[0].getLsbD 3 then 2 else 0 := by
    rw [barPoisoned, recField_eq r (by decide), bits_one_eq]
    cases r[0].getLsbD 3 <;> rfl
  rw [barTest, generation, covers, poison, barPh_eq_phase]
  rfl

/-! ## On a record of another core (R215, R221) -/

theorem barIssue_travels {s : State} {m : BarMsg} {k n : Nat} (place : m.place = .loc k n) (away : k ≠ s.who.core) :
    s.barIssue m = (((s.newWait.2).send m.group s.who.core k (.barrierOperation m)).prefer).stall .answer := by
  unfold State.barIssue
  rw [place]
  exact if_neg away

/-- A context that stalls until an answer comes has issued most recently (R72). -/
theorem stall_answer {s : State} (task : InTask s) : ((s.stall .answer).taskAt s.who).run = .stalled .answer ∧
    (s.stall .answer).pending = s.pending ∧ memory (s.stall .answer) = memory s := by
  have runs : s.stall .answer = (s.modT fun t => { t with run := .stalled .answer }).prefer := rfl
  rw [runs, taskAt_prefer, prefer_pending, memory_prefer, State.modT, State.taskAt_modTask_same _ _ _ (ctx_of_task task), memory_modTask]
  exact ⟨rfl, rfl, rfl⟩

theorem barIssue_away {s : State} {m : BarMsg} {k n : Nat} (task : InTask s) (place : m.place = .loc k n) (away : k ≠ s.who.core) :
    ((s.barIssue m).taskAt s.who).run = .stalled .answer ∧ .barrierOperation m ∈ (s.barIssue m).pending ∧ memory (s.barIssue m) = memory s := by
  have who : ((s.newWait.2).send m.group s.who.core k (.barrierOperation m)).prefer.who = s.who := by
    rw [State.prefer_who]; exact depart_who ..
  have stalls := stall_answer (s := ((s.newWait.2).send m.group s.who.core k (.barrierOperation m)).prefer)
    (by unfold InTask State.inHandler; rw [who]; exact task)
  rw [who, prefer_pending, memory_prefer] at stalls
  obtain ⟨run, pending, same⟩ := stalls
  rw [barIssue_travels place away]
  refine ⟨run, ?_, same.trans (memory_of_ground (ground_depart s.newWait.2 ..))⟩
  rw [pending]
  exact List.mem_append_right _ (List.mem_singleton_self _)

/-! ## The statement -/

section
variable {b d a : BitVec 4} {s : State} {n : Nat} {r : Rec} (task : InTask s) (ready : Ready s [a, b, d]) (ref : RefersTo (s.x a) s.who.core n)
  (at_ : RecordAt s s.core.group s.who.core n r)
include task ready ref at_

theorem binit_completes (done : Settled s) (small : (s.x b).toNat < 65536) :
    Completes s n d (.binit b d a) none (barInit (s.x d) (s.x b) r) :=
  completes_of_value (op := .binit) task (barrier_issues rfl task ready ref (valueTrap_binit small) fun _ => done) ref
    (barPerform_binit_formed (t := s.newWait.2) (issuedOp_place ref .binit b d) at_ rfl) (registers_barPut s.newWait.2 ..)
    (writesRecord_barPut (u := s.newWait.2) rfl ..)

variable (init : Initialised r)
include init

theorem bexp_completes (small : (s.x b).toNat < 65536) (zero : bits (s.x d).toNat 18 11 = 0)
    (sel : bits (s.x d).toNat 29 3 < 6 ∨ s.x d = 0xC0000000#32) : Completes s n d (.bexp b d a) none
      (if barSatisfied (barExpect (s.x d) (s.x b) r) then barFlip (barExpect (s.x d) (s.x b) r) else barExpect (s.x d) (s.x b) r) :=
  completes_of_value (op := .bexp) task (barrier_issues rfl task ready ref (valueTrap_bexp small zero sel) nofun) ref
    (barPerform_bexp (t := s.newWait.2) (issuedOp_place ref .bexp b d) at_ init rfl) (registers_barTestPhase s.newWait.2 ..)
    (writesRecord_barTestPhase s.newWait.2 ..)

theorem barr_completes (done : Settled s) (slot : (s.x b).toNat ≤ 6) {q : Rec}
    (credit : barCredit s.who.core (s.x b).toNat none r = some q) :
    Completes s n d (.barr b d a) (some (BitVec.ofNat 32 (phase r))) (if barSatisfied q then barFlip q else q) :=
  completes_of_value (op := .barr) task (barrier_issues rfl task ready ref (valueTrap_barr slot) fun _ => done) ref
    (barPerform_barr (t := s.newWait.2) (issuedOp_place ref .barr b d) init at_ rfl credit) (registers_barTestPhase s.newWait.2 ..)
    (writesRecord_barTestPhase s.newWait.2 ..)

theorem barr_traps (done : Settled s) (slot : (s.x b).toNat ≤ 6) (rejected : barCredit s.who.core (s.x b).toNat none r = none) :
    exec (.barr b d a) s = .next (s.newWait.2.trap .barrierProducer (s.x a)) := by
  rw [barrier_issues (op := .barr) rfl task ready ref (valueTrap_barr slot) fun _ => done, barIssue_rejects (issuedOp_place ref .barr b d)
    (barPerform_barr_rejects (t := s.newWait.2) (issuedOp_place ref .barr b d) at_ init rfl rejected)]
  rfl

end

section
variable {i : Instr} {op : BarOp} {b d a : BitVec 4} {s : State} {n : Nat} {r : Rec} (row : barrierRow i = some (op, b, d, a))
  (reads : barAcquires op = true) (task : InTask s) (ready : Ready s [a, b, d]) (ref : RefersTo (s.x a) s.who.core n)
include row reads task ready ref

/-- BTEST, BWAIT and BWAITM check no value, and are no releases (R224, R225, R227). -/
theorem reads_issue : exec i s = .next (s.barIssue (issuedOp op b d a s)) := by
  refine barrier_issues row task ready ref ?_ fun release => ?_
  · cases op <;> cases reads <;> rfl
  · cases op <;> cases reads <;> cases release

variable (record : (s.coreAt s.who.core).lm.rec n = r)
include record

theorem reads_complete {v : Word} (performs : s.newWait.2.barPerform (issuedOp op b d a s) = (.value v, s.newWait.2)) :
    Completes s n d i (some v) r := by
  have completes := completes_of_value task (reads_issue row reads task ready ref) ref performs rfl (writesRecord_same record rfl)
  have writes : barWrites op = true := by cases op <;> cases reads <;> rfl
  rwa [if_pos writes] at completes

theorem reads_park (performs : s.newWait.2.barPerform (issuedOp op b d a s) = s.newWait.2.barWaits (issuedOp op b d a s)) :
    Parks s n r (s.x b) i := by
  have operand : (issuedOp op b d a s).a = s.x b := by cases op <;> cases reads <;> rfl
  rw [← operand]
  refine parks_of_parked task (reads_issue row reads task ready ref) ref record (performs.trans (barWaits_own (n := n) ?_))
  obtain ⟨src, -, -, -⟩ := issuedOp_fields op b d a s
  rw [src]; exact issuedOp_place ref op b d

end

theorem barrierInstructions : BarrierInstructions := by
  refine ⟨fun b d a s n r task ready ref at_ => ?own, fun b d a s n k task ready ref away settled slot zero i op row => ?remote,
    fun i op b d a s row task ready low bad => barrier_traps row task ready low bad⟩
  case own =>
    obtain ⟨record, -⟩ := id at_
    have completes {i : Instr} {op : BarOp} {v : Word} (row : barrierRow i = some (op, b, d, a)) (reads : barAcquires op = true) :=
      reads_complete (v := v) row reads task ready ref record
    have parks {i : Instr} {op : BarOp} (row : barrierRow i = some (op, b, d, a)) (reads : barAcquires op = true) :=
      reads_park row reads task ready ref record
    have wait (init : Initialised r) := barPerform_bwait (t := s.newWait.2) (issuedOp_place ref .bwait b d) at_ init rfl
    have mask (init : Initialised r) := barPerform_bwaitm (t := s.newWait.2) (issuedOp_place ref .bwaitm b d) at_ init rfl
    refine ⟨binit_completes task ready ref at_, bexp_completes task ready ref at_, fun init settled slot q =>
      barr_completes task ready ref at_ init settled slot, fun init settled slot rejected =>
        ⟨_, barr_traps task ready ref at_ init settled slot rejected, sameMemory_of_memory rfl⟩,
      fun init => ?btest, fun init differs => ?differ, fun init same poison => ?poisoned, fun init same clean => ?waits,
      fun init covered => ?covered, fun init uncovered => ?uncovered⟩
    case btest =>
      rw [← barTest_eq]
      exact completes (op := .btest) rfl rfl (barPerform_btest (t := s.newWait.2) (issuedOp_place ref .btest b d) init at_ rfl)
    case differ => exact completes (op := .bwait) rfl rfl ((wait init).trans (if_pos differs))
    case poisoned => exact completes (op := .bwait) rfl rfl ((wait init).trans ((if_neg (not_not.2 same)).trans (if_pos poison)))
    case waits => exact parks (op := .bwait) rfl rfl ((wait init).trans ((if_neg (not_not.2 same)).trans (if_neg clean)))
    case covered => exact completes (op := .bwaitm) rfl rfl ((mask init).trans (if_pos covered))
    case uncovered => exact parks (op := .bwaitm) rfl rfl ((mask init).trans (if_neg uncovered))
  case remote =>
    have place := issuedOp_place ref op b d
    obtain ⟨src, kind, rd, -⟩ := issuedOp_fields op b d a s
    obtain ⟨run, pending, same⟩ := barIssue_away task place away
    exact ⟨_, issuedOp op b d a s, barrier_issues row task ready ref (zero ▸ valueTrap_none slot op) fun _ => settled, run, pending, src, kind,
      place, rd, sameMemory_of_memory same⟩

/-- Settles O45: the record word by word (`barrierRecords`), and the instructions on it (`barrierInstructions`). -/
theorem barriersAndTheirRecords : Obligations.BarriersAndTheirRecords := ⟨barrierRecords, barrierInstructions⟩

end Sys2Proof.Proofs
end

section
/-! SUPPORT. The leaf that a walk finds (R257 to R260): the rules that it meets, and the level at which it stands. Settles O34. -/

namespace Sys2Proof.Proofs

open Sys2Proof.Machine Sys2Proof.Claims

/-- The rules of R260 that a well-formed leaf meets. -/
theorem rules_of_wellFormed {l : Leaf} {follow : Bool} (h : l.wellFormed follow = true) :
    l.state ≤ 5 ∧ l.kind ≤ 4 ∧ l.frame % l.size = 0 ∧ kindHolds l.kind l.frame = true ∧ kindHolds l.kind (l.frame + l.size - 1) = true ∧
    (l.kind = 2 → l.frame % 0x8000 + l.size ≤ 0x7000) ∧ (l.state = 4 → l.kind = 4) ∧
    (l.kind = 4 → l.state = 4 ∨ l.state = 3 ∨ l.state = 5) ∧ (l.state = 1 ∨ l.state = 2 → l.kind = 0) ∧
    (l.f = true → follow = true → l.kind = 4) ∧ (l.granule = 0 ∨ l.kind = 0) ∧
    (l.kind ≤ 2 → l.home % 8 = frameDie l.kind l.frame ∧ l.home / 8 = 0) ∧ (l.kind = 3 → l.home = 0) := by
  simp only [Leaf.wellFormed, Bool.and_eq_true, Bool.or_eq_true, Bool.not_eq_true', decide_eq_true_eq, decide_eq_false_iff_not,
    beq_iff_eq, bne_iff_ne] at h
  obtain ⟨⟨⟨⟨⟨⟨⟨⟨⟨⟨⟨⟨state, kind⟩, aligned⟩, first⟩, last⟩, window⟩, remote⟩, away⟩, paged⟩, follows⟩, granule⟩, die⟩, host⟩ := h
  refine ⟨state, kind, aligned, first, last, fun is => ?_, fun is => ?_, fun is => ?_, fun is => ?_, fun f on => ?_, granule,
    fun low => die.resolve_left (not_not.2 low), fun is => host.resolve_left (not_not.2 is)⟩
  · exact window.resolve_left (not_not.2 is)
  · exact remote.resolve_left (not_not.2 is)
  · rcases away with ((no | is) | is) | is
    · contradiction
    · exact .inl is
    · exact .inr (.inl is)
    · exact .inr (.inr is)
  · exact paged.resolve_left fun ⟨no, no'⟩ => is.elim no no'
  · rcases follows with (no | is) | off
    · simp [f] at no
    · exact is
    · simp [on] at off

/-- The leaf of an entry is the page of its level's size and run that holds the address, and meets the rules (R259, R260). -/
theorem leaf_of_leafAt {m : Mem} {poison : List Nat} {follow : Bool} {va k tbl idx e : Nat} {l : Leaf}
    (h : leafAt m poison follow va k tbl idx e = .leaf l) :
    l.size = 4096 * 256 ^ k * 4 ^ bits e 4 2 ∧ l.base = va - va % l.size ∧ l.wellFormed follow = true := by
  unfold leafAt at h; dsimp only at h
  split at h
  · cases h
  · split at h
    · rename_i sound
      cases h
      exact ⟨rfl, rfl, (Bool.and_eq_true_iff.1 sound).1⟩
    · cases h

/-- A walk finds its leaf in an entry of L0, L1 or L2 (R257). -/
theorem leafAt_of_walkFrom {m : Mem} {poison : List Nat} {follow : Bool} {top va : Nat} {l : Leaf} :
    ∀ k tbl, walkFrom m poison follow top va k tbl = .leaf l → ∃ j tbl' idx e, j < 4 ∧ leafAt m poison follow va j tbl' idx e = .leaf l := by
  intro k
  induction k with
  | zero =>
    intro tbl h
    unfold walkFrom at h; dsimp only at h
    split at h
    · cases h
    split at h
    · cases h
    split at h
    · cases h
    exact ⟨_, _, _, _, by decide, h⟩
  | succ k ih =>
    intro tbl h
    unfold walkFrom at h; dsimp only at h
    generalize (if k = 3 then 0x80 else 0x800) = bytes at h
    split at h
    · cases h
    split at h
    · cases h
    split at h
    · cases h
    split at h
    · split at h
      · exact ih _ h
      · cases h
    · exact ⟨_, _, _, _, by omega, h⟩

theorem leaf_of_walk {s : State} {ctx va : Nat} {l : Leaf} (h : s.walk ctx va = .leaf l) :
    (∃ k j, k < 4 ∧ j < 4 ∧ l.size = 4096 * 256 ^ k * 4 ^ j) ∧ l.base = va % 2 ^ 48 - va % 2 ^ 48 % l.size ∧
      l.wellFormed (s.feature 9) = true ∧ s.populated l.kind l.frame (l.frame + l.size) = true := by
  unfold State.walk at h
  split at h
  · rename_i found
    split at h <;> cases h
    rename_i exists_
    obtain ⟨k, tbl, idx, e, low, at_⟩ := leafAt_of_walkFrom _ _ found
    obtain ⟨size, base, rules⟩ := leaf_of_leafAt at_
    exact ⟨⟨k, bits e 4 2, low, Nat.mod_lt _ (by decide), size⟩, base, rules, exists_⟩
  · cases h

/-- Settles O34: the entry's level and run give the page, the rules of R260 give the rest. -/
theorem walkFindsSoundLeaf : Obligations.WalkFindsSoundLeaf := by
  intro s ctx va l h
  obtain ⟨⟨k, j, level, run, size⟩, base, rules, populated⟩ := leaf_of_walk h
  obtain ⟨state, kind, aligned, first, last, window, remote, away, paged, follows, granule, die, host⟩ := rules_of_wellFormed rules
  have positive : 0 < l.size := by rw [size]; positivity
  have under := Nat.mod_lt (va % 2 ^ 48) positive
  have within := Nat.mod_le (va % 2 ^ 48) l.size
  have bound {lo hi : Nat} (in_ : lo ≤ l.frame ∧ l.frame + l.size - 1 < hi) : lo ≤ l.frame ∧ l.frame + l.size ≤ hi := by omega
  refine ⟨by omega, by omega, ?_, aligned, ⟨k, j, level, run, size⟩, state, kind, fun is => ?_, fun is => ?_, fun is => ?_, fun is => ?_, populated,
    remote, fun is => ?_, paged, granule, follows, fun low => ?_⟩
  · rw [base]; exact Nat.sub_mod_eq_zero_of_mod_eq (Nat.mod_mod _ _).symm
  · rw [is] at last; simp only [kindHolds, inLpddr, decide_eq_true_eq] at last
    omega
  · rw [is] at first last; simp only [kindHolds, inVault, Bool.and_eq_true, decide_eq_true_eq] at first last
    exact bound ⟨first.1, last.2⟩
  · rw [is] at first last; simp only [kindHolds, inLocalwin, Bool.and_eq_true, decide_eq_true_eq] at first last
    have := bound ⟨first.1, last.2⟩
    exact ⟨this.1, this.2, window is⟩
  · rw [is] at first last; simp only [kindHolds, inHost, Bool.and_eq_true, decide_eq_true_eq] at first last
    have := bound ⟨first.1, last.2⟩
    exact ⟨this.1, this.2, host is⟩
  · rcases away is with is | is | is
    · exact .inr (.inl is)
    · exact .inl is
    · exact .inr (.inr is)
  · obtain ⟨die, small⟩ := die low
    rw [← die]; omega

end Sys2Proof.Proofs
end

section
/-! SUPPORT. What an access meets at a page in each of its states (R262, R267), and PGPRE and PGDISC (R272 to R274). Settles O33. -/

namespace Sys2Proof.Proofs

open Sys2Proof.Machine Sys2Proof.Claims

/-! ## Meetings (R262, R267) -/

theorem denies_none {l : Leaf} {n : Need} (readable : n = .write ∨ l.r = true) (writable : n = .read ∨ l.w = true) : l.denies n = none := by
  have reads : ¬(n ≠ .write ∧ (!l.r) = true) := fun ⟨ne, no⟩ => by rcases readable with h | h <;> simp_all
  have writes : ¬(n ≠ .read ∧ (!l.w) = true) := fun ⟨ne, no⟩ => by rcases writable with h | h <;> simp_all
  rw [Leaf.denies, if_neg reads, if_neg writes]

/-- A RESIDENT page of LPDDR or VAULT has its frame here (R267). -/
theorem meetResident_frame (s : State) (ctx va : Nat) {l : Leaf} (kind : l.kind < 2) : s.meetResident ctx va l = .here (l.pa va) l := by
  unfold State.meetResident; dsimp only
  split
  · omega
  · omega
  · rfl

theorem meetResident_host (s : State) (ctx va : Nat) {l : Leaf} (kind : l.kind = 3) :
    s.meetResident ctx va l = if s.hostUp then .host (s.hostAddr (l.pa va)) l else .fault .remoteUnreachable := by
  unfold State.meetResident; simp only [kind]

theorem pageMeetings : PageMeetings := by
  intro s ctx va n l low leaf
  refine ⟨fun reads h => meet_denied leaf (denies_read reads h), fun readable writes h => meet_denied leaf (denies_write readable writes h),
    fun readable writable => ?_⟩
  have meets := meet_leaf leaf (denies_none readable writable)
  rw [Nat.mod_eq_of_lt low] at meets
  refine ⟨fun state kind => ?_, fun state => ?_, fun state => ?_, fun state => ?_, fun state => ?_, fun state gone => ?_, fun v state pieces => ?_,
    fun state kind => ?_⟩
  · simp only [meets, state, meetResident_frame s ctx va kind]; rfl
  · simp only [meets, state]
  · simp only [meets, state]
  · simp only [meets, state]
  · simp only [meets, state]; rfl
  · simp only [meets, state, gone]
  · simp only [meets, state, pieces]
  · simp only [meets, state, meetResident_host s ctx va kind]; rfl

/-! ## PGPRE (R274) -/

theorem cores_of_kept {s t : State} (h : t.kept = s.kept) : t.cores = s.cores := congrArg Prod.snd h

theorem askPager_kept (s : State) (c p : Nat) : (s.askPager c p).kept = s.kept := by
  unfold State.askPager; split <;> rfl

theorem prefetchLines_kept (s : State) (c lo hi : Nat) (l : Leaf) : (s.prefetchLines c lo hi l).kept = s.kept := by
  unfold State.prefetchLines; split
  · exact (State.noteLines_kept ..).trans (foldl_keeps State.kept _ (fun t va => State.fetchGranule_kept t c va l) _ s)
  · rfl

theorem prefetch_kept (s : State) (c lo hi : Nat) (w : Nat × Walk) : (s.prefetch c lo hi w).kept = s.kept := by
  unfold State.prefetch; split
  · rfl
  · split
    · split
      · exact prefetchLines_kept ..
      · rfl
    · exact askPager_kept ..
    · exact State.recall_kept ..
    · exact askPager_kept ..
    · rfl

/-- What PGPRE of k elements from l through a map does before it retires. -/
def prefetched (s : State) (m : Rec) (k l : Nat) : State :=
  match s.elemVa m l, s.elemVa m (l + k - 1) with
  | some lo, some top =>
    if k = 0 ∨ mapEt m = 11 then s
    else
      let hi := Min.min (top + mapEsize m - 1) (lo + 0xFFFFF)
      (s.pagesIn s.core.ctxid 257 lo hi).foldl (fun s w => s.prefetch s.core.ctxid lo hi w) s
  | _, _ => s

theorem prefetched_kept (s : State) (m : Rec) (k l : Nat) : (prefetched s m k l).kept = s.kept := by
  unfold prefetched; split
  · split
    · rfl
    · exact foldl_keeps State.kept _ (fun t w => prefetch_kept ..) _ s
  · rfl

section
variable {t n i : BitVec 4} {s : State} (task : InTask s)
include task

section
variable (clear : Clear s [n, i] [])
include clear

theorem pgpre_unbound (unbound : s.task.tm[t.toFin] = none) : exec (.pgpre t n i) s = .next (s.retire 4#32) := by
  refine (inTask_runs task _).trans (congrArg Host.Outcome.next ?_)
  rw [withRegs_of_clear clear, State.mapAt, unbound]

theorem pgpre_bound {m : Rec} (bound : s.task.tm[t.toFin] = some m) :
    exec (.pgpre t n i) s = .next ((prefetched s m (s.x n).toNat (s.x i).toNat).retire 4#32) := by
  refine (inTask_runs task _).trans (congrArg Host.Outcome.next ?_)
  rw [withRegs_of_clear clear, State.mapAt, bound]
  unfold prefetched; dsimp only
  rcases s.elemVa m (s.x i).toNat with _ | lo
  · rfl
  rcases s.elemVa m ((s.x i).toNat + (s.x n).toNat - 1) with _ | top
  · rfl
  · exact (apply_ite (State.retire 4#32) ..).symm

end

/-! ## PGDISC (R273) -/

/-- What PGDISC of k elements from l through a bound map does (R273). -/
def rangeDiscarded (s : State) (m : Rec) (k l : Nat) : State :=
  if k = 0 then s.retire 4#32 else
  match (if mapEt m = 11 then none else s.elemVa m l), (if mapEt m = 11 then none else s.elemVa m (l + k - 1)) with
  | none, _ => s.trap .tmapRange (BitVec.ofNat 32 l)
  | some _, none => s.trap .tmapRange (BitVec.ofNat 32 (Max.max l (viewSize m s.core.gsize s.core.rank)))
  | some lo, some top =>
    if top + mapEsize m - 1 < lo then s.trap .tmapRange (BitVec.ofNat 32 (l + k - 1))
    else s.await s.roomForStore fun s => State.discardLoop lo (top + mapEsize m - 1)
      (s.pagesIn s.core.ctxid ((top + mapEsize m - 1 - lo) / 4096 + 2) lo (top + mapEsize m - 1)) [] s

section
variable (ready : Ready s [n, i])
include ready

theorem pgdisc_unbound (unbound : s.task.tm[t.toFin] = none) : exec (.pgdisc t n i) s = .next (s.trap .tmapUnbound (t.setWidth 32)) := by
  refine (inTask_runs task _).trans (congrArg Host.Outcome.next ?_)
  rw [withRegs_access ready, State.mapAt, unbound]; rfl

theorem pgdisc_bound {m : Rec} (bound : s.task.tm[t.toFin] = some m) :
    exec (.pgdisc t n i) s = .next (rangeDiscarded s m (s.x n).toNat (s.x i).toNat) := by
  refine (inTask_runs task _).trans (congrArg Host.Outcome.next ?_)
  rw [withRegs_access ready, State.mapAt, bound]; rfl

end

end

/-- A range that ends with its first page is met by that page alone (R273). -/
theorem pagesIn_one {s : State} {ctx lo hi : Nat} {l : Leaf} (leaf : s.walk ctx lo = .leaf l) (some_ : lo ≤ hi) (ends : hi < l.base + l.size)
    (k : Nat) : s.pagesIn ctx (k + 1) lo hi = [(l.base, .leaf l)] := by
  have rest : s.pagesIn ctx k (l.base + l.size) hi = [] := by
    cases k with
    | zero => rfl
    | succ k => rw [State.pagesIn, if_pos ends]
  rw [State.pagesIn, if_neg (by omega)]
  simp only [leaf, rest]

/-- The discard of a page that is changed here, sent behind what its context has sent before (R236, R273). -/
theorem issueDiscard_one (s : State) (l : Leaf) :
    ((s.modCore s.who.core (Core.l1Forget s.core.ctxid l)).issueDiscard [l.base]) =
      sent ((s.modCore s.who.core (Core.l1Forget s.core.ctxid l)).modT TaskCtx.beginStore) (discardAccess s l.base) := by
  have core : (s.modCore s.who.core (Core.l1Forget s.core.ctxid l)).core = Core.l1Forget s.core.ctxid l s.core :=
    State.coreAt_modCore_same ..
  rw [State.issueDiscard, if_neg (by simp), issue_eq_sent, State.newAccess, core]; rfl

/-- The loop over one whole page that may be written and is changed here (R273). -/
theorem discardLoop_one {s : State} {lo hi : Nat} {l : Leaf} (first : lo ≤ l.base) (last : l.base + l.size - 1 ≤ hi) (w : l.w = true)
    (kind : l.kind ≠ 4) (changes : l.discards = true) : s.discardLoop lo hi [(l.base, .leaf l)] [] =
      (sent ((s.modCore s.who.core (Core.l1Forget s.core.ctxid l)).modT TaskCtx.beginStore) (discardAccess s l.base)).retire 4#32 := by
  rw [State.discardLoop, if_pos ⟨first, last⟩, if_neg (by simp [w])]
  simp only [if_neg kind, changes, or_true, if_true]
  rw [State.discardLoop, List.nil_append, issueDiscard_one]

theorem prefetchAndDiscard : PrefetchAndDiscard := by
  refine ⟨fun t n i s task clear => ?pre, fun t n i s m lo top task clear bound some_ code first last => ?fetches,
    fun t n i s m task ready bound none_ => ?empty, fun t n i s task ready => pgdisc_unbound task ready,
    fun t n i s m lo top l task ready bound some_ code first last nonempty room leaf starts ends w kind free state => ?page⟩
  case pre =>
    rcases bound : s.task.tm[t.toFin] with _ | m
    · exact ⟨s, pgpre_unbound task clear bound, rfl, fun _ => rfl⟩
    · exact ⟨_, pgpre_bound task clear bound, cores_of_kept (prefetched_kept ..), fun h => nomatch h⟩
  case fetches =>
    have count : (s.x n).toNat ≠ 0 := fun h => some_ (BitVec.eq_of_toNat_eq h)
    dsimp only
    rw [pgpre_bound task clear bound, prefetched]
    simp only [first, last, if_neg (not_or.2 ⟨count, code⟩)]
  case empty =>
    rw [pgdisc_bound task ready bound, none_]; rfl
  case page =>
    have count : (s.x n).toNat ≠ 0 := fun h => some_ (BitVec.eq_of_toNat_eq h)
    have changes : l.discards = true := by simp [Leaf.discards, kind, free, state]
    rw [pgdisc_bound task ready bound, rangeDiscarded, if_neg count]
    simp only [if_neg code, first, last, if_neg (show ¬ top + mapEsize m - 1 < lo by omega)]
    rw [State.await_true _ _ _ (roomForStore_of_task room), pagesIn_one leaf (by omega) (by omega),
      discardLoop_one (by omega) (by omega) w (by omega) changes]

/-- Settles O33: a page by its state (`pageMeetings`), and the two instructions by their maps and ranges (`prefetchAndDiscard`). -/
theorem pageMeetingsAndHints : Obligations.PageMeetingsAndHints := ⟨pageMeetings, prefetchAndDiscard⟩

end Sys2Proof.Proofs
end

section
/-! SUPPORT. Accesses of other parts at their frames (R258, R266, R267, R273, R342, R343). -/

namespace Sys2Proof.Proofs

open Sys2Proof.Machine Sys2Proof.Claims

/-! ## What a global atomic leaves (R102) -/

theorem gaValue_eq (k : GAtomic) (old a b : Word) : gaValue k old a b = globalResult k old a b := by
  cases k with
  | min => rw [gaValue, globalResult, min_def]; split <;> simp
  | max => rw [gaValue, globalResult, max_def]; split <;> simp
  | minn => rw [gaValue, globalResult, min_def]; split <;> simp
  | maxn => rw [gaValue, globalResult, max_def]; split <;> simp
  | add | swap | cas | fadd => rfl

/-! ## What is handed to its place (R343) -/

theorem fabricRequest_runs {s : State} {r : FabReq} (now : Performs s (.fabricRequest r)) {e : Event} (handed : handedTo r = some e) :
    exec .fabricRequest s = .next (s.post e) := by
  show execFabricRequest s = _
  rw [execFabricRequest, now]
  unfold handedTo at handed
  split at handed <;> cases handed <;> rfl

theorem fabricRequest_access {s : State} {part id age pa : Nat} {a : Access} (now : Performs s (.fabricRequest (.access part id age a)))
    (first : (a.elems.map (·.2)).head? = some pa) (home : s.movedTo pa = none) :
    exec .fabricRequest s = .next (s.serveAccess part id a (.access part id age a)) := by
  show execFabricRequest s = _
  rw [execFabricRequest, now]
  simp only [first, Option.bind_some, home]; rfl

/-! ## The page of a frame (R267) -/

section
variable {s : State} {e : Engine} {n : Need} {pa : Nat}

theorem frameMeet_unmapped (none_ : s.pageOfFrame pa = none) : s.frameMeet e n pa = .here := by
  rw [State.frameMeet, none_]

theorem frameMeet_page {c : Nat} {l : Leaf} (page : s.pageOfFrame pa = some (c, l)) : s.frameMeet e n pa =
    if s.migrating c l then .wait
    else if l.state = 2 then .recall c l.base
    else if l.state ≠ 1 then .here
    else if n = .read then .zero
    else if (e, c, l.base) ∈ s.pagerFailed then .failed c l.base
    else .ask c l.base := by
  rw [State.frameMeet, page]
  simp only [List.contains_iff_mem]

end

/-! ## The bytes of a frame -/

theorem unitParts_one {a n : Nat} (fits : a % 32 + n ≤ 32) : unitParts a n = [(a, n)] := if_pos fits

theorem frameElem_one (s : State) {pa n : Nat} (fits : pa % 32 + n ≤ 32) : s.frameElem pa n = s.frameBytes pa n := by
  rw [State.frameElem, unitParts_one fits]; simp

theorem frameElemWrite_one (s : State) {pa : Nat} {bs : List Byte} (fits : pa % 32 + bs.length ≤ 32) :
    s.frameElemWrite pa bs = s.frameWrite pa bs := by
  rw [State.frameElemWrite, unitParts_one fits]; simp

theorem not_inLocalwin {pa : Nat} (low : pa < 0x20800000000) : inLocalwin pa = false := by
  rw [inLocalwin, Bool.and_eq_false_iff]; left; simp; omega

/-- A frame that no line of a slice holds has its own bytes (R14, R267). -/
theorem frameBytes_unheld {s : State} {pa n : Nat} (unheld : s.frameLine pa = none) (low : pa + n ≤ 0x20800000000) :
    s.frameBytes pa n = (List.range n).map fun k => s.phys.byte (pa + k) := by
  rw [State.frameBytes, unheld]
  refine List.map_congr_left fun k mem => ?_
  have := List.mem_range.1 mem
  rw [State.physByte, not_inLocalwin (by omega)]; rfl

theorem frameWrite_unheld {s : State} {pa : Nat} (unheld : s.frameLine pa = none) (low : pa < 0x20800000000) (bs : List Byte) :
    (s.frameWrite pa bs).phys = s.phys.setBytes pa bs := by
  rw [State.frameWrite, unheld]
  show (s.setPhysBytes pa bs).phys = _
  rw [State.setPhysBytes, not_inLocalwin low]; rfl

/-! ## An access of one element at its frame (R267) -/

/-- Whether the pager has failed the page of a frame. -/
def meetFails : FrameMeet → Bool
  | .failed .. => true
  | _ => false

/-- No sector of a stretch of a frame is poisoned (R266). -/
abbrev Sound (s : State) (pa n : Nat) : Prop := (unitParts pa n).any (fun u => s.framePoisoned u.1) = false

theorem refuses_iff {m : FrameMeet} {n : Need} {served bad : Bool} :
    (meetFails m || !served || (n != .write && (m == .here && bad))) = true ↔
      served = false ∨ (∃ c p, m = .failed c p) ∨ (m = .here ∧ n ≠ .write ∧ ¬ bad = false) := by
  cases m <;> simp [meetFails]

section
variable {s : State} {part id lane pa : Nat} {a : Access} {req : FabReq} (elems : a.elems = [(lane, pa)]) (op : a.op ≠ .discard)
include elems op

theorem serveAccess_one : s.serveAccess part id a req =
    let e : Engine := .remote part id
    let m := s.frameMeet e a.need pa
    if meetFails m || !s.servedHere pa a.size ||
        (a.need != .write && (m == .here && (unitParts pa a.size).any fun u => s.framePoisoned u.1)) then
      (s.dropFetches e).toPart part (.accessAns id [] (some .remoteUnreachable))
    else if m == .here || m == .zero then
      let p := State.performFrame e (s, { a with got := [] }) (lane, pa)
      ((p.1.dropFetches e).cleanseFrames a).toPart part (.accessAns id p.2.got none)
    else (s.frameAsk e m).post (.fabricRequest req) := by
  unfold State.serveAccess
  split
  · exact absurd ‹_› op
  · obtain ⟨_, _, _, es, _, _, _, _, _, _, _, _, _⟩ := a
    cases elems
    simp only [List.map_cons, List.map_nil, List.any_cons, List.any_nil, List.all_cons, List.all_nil, List.foldl_cons, List.foldl_nil,
      Bool.or_false, Bool.and_true]
    rfl

variable (served : s.servedHere pa a.size = true)

/-- What a frame outside those served here, one that the pager has failed, and poison that is read come to (R266, R267). -/
theorem serveAccess_refused (refused : s.servedHere pa a.size = false ∨ (∃ c p, s.frameMeet (.remote part id) a.need pa = .failed c p) ∨
      (s.frameMeet (.remote part id) a.need pa = .here ∧ a.need ≠ .write ∧ ¬ Sound s pa a.size)) :
    s.serveAccess part id a req = (s.dropFetches (.remote part id)).toPart part (.accessAns id [] (some .remoteUnreachable)) := by
  rw [serveAccess_one elems op]
  exact if_pos (refuses_iff.2 refused)

include served

theorem serveAccess_performed (meets : s.frameMeet (.remote part id) a.need pa = .here ∨ s.frameMeet (.remote part id) a.need pa = .zero)
    (clean : s.frameMeet (.remote part id) a.need pa = .here → a.need = .write ∨ Sound s pa a.size) : s.serveAccess part id a req =
      (((State.performFrame (.remote part id) (s, { a with got := [] }) (lane, pa)).1.dropFetches (.remote part id)).cleanseFrames a).toPart part
        (.accessAns id (State.performFrame (.remote part id) (s, { a with got := [] }) (lane, pa)).2.got none) := by
  have taken : ¬(meetFails (s.frameMeet (.remote part id) a.need pa) || !s.servedHere pa a.size ||
      (a.need != .write && (s.frameMeet (.remote part id) a.need pa == .here && (unitParts pa a.size).any fun u => s.framePoisoned u.1))) = true := by
    rw [refuses_iff, served]
    rintro (no | ⟨c, p, fails⟩ | ⟨here, reads, bad⟩)
    · cases no
    · rcases meets with h | h <;> rw [h] at fails <;> cases fails
    · exact (clean here).elim reads bad
  rw [serveAccess_one elems op]
  exact (if_neg taken).trans (if_pos (by rcases meets with h | h <;> rw [h] <;> rfl))

theorem serveAccess_waits {m : FrameMeet} (meets : s.frameMeet (.remote part id) a.need pa = m) (here : m ≠ .here) (zero : m ≠ .zero)
    (fails : meetFails m = false) : s.serveAccess part id a req = (s.frameAsk (.remote part id) m).post (.fabricRequest req) := by
  have taken : ¬(meetFails m || !s.servedHere pa a.size ||
      (a.need != .write && (m == .here && (unitParts pa a.size).any fun u => s.framePoisoned u.1))) = true := by
    simp [fails, served, here]
  subst meets
  rw [serveAccess_one elems op]
  exact (if_neg taken).trans (if_neg (by simp [here, zero]))

end

/-! ## The claim about accesses -/

section
variable {s : State} {part id age lane pa : Nat} {a : Access} (now : Performs s (.fabricRequest (.access part id age a)))
  (elems : a.elems = [(lane, pa)]) (home : s.movedTo pa = none)
include now elems home

theorem frameAccess_runs : exec .fabricRequest s = .next (s.serveAccess part id a (.access part id age a)) :=
  fabricRequest_access now (by rw [elems]; rfl) home

section
variable (served : s.servedHere pa a.size = true)
include served

theorem frameRead_runs (op : a.op = .read) (meets : s.frameMeet (.remote part id) .read pa = .zero ∨
      (s.frameMeet (.remote part id) .read pa = .here ∧ Sound s pa a.size)) :
    exec .fabricRequest s = .next ((s.dropFetches (.remote part id)).toPart part (.accessAns id
      [(lane, leNat (if a.fill then s.servedBytes (.remote part id) (pa / 32 * 32) 32 else s.servedBytes (.remote part id) pa a.size))] none)) := by
  have need : a.need = .read := by rw [Access.need, op]
  have met : s.frameMeet (.remote part id) a.need pa = .here ∨ s.frameMeet (.remote part id) a.need pa = .zero := by
    rw [need]; exact meets.symm.imp_left And.left
  have clean (here : s.frameMeet (.remote part id) a.need pa = .here) : a.need = .write ∨ Sound s pa a.size := by
    rw [need] at here
    rcases meets with zero | ⟨-, sound⟩
    · rw [here] at zero; cases zero
    · exact .inr sound
  rw [frameAccess_runs now elems home, serveAccess_performed elems (by simp [op]) served met clean, State.performFrame]
  simp only [op, State.cleanseFrames]

theorem frameWrite_runs {v : Vec} (op : a.op = .write v) (meets : s.frameMeet (.remote part id) .write pa = .here) :
    exec .fabricRequest s = .next ((((s.frameElemWrite pa (leBytes a.size (laneOf v (8 * a.size) lane))).dropFetches
      (.remote part id)).cleanseFrames a).toPart part (.accessAns id [] none)) := by
  have need : a.need = .write := by rw [Access.need, op]
  rw [frameAccess_runs now elems home, serveAccess_performed elems (by simp [op]) served (.inl (by rw [need]; exact meets)) fun _ => .inl need,
    State.performFrame]
  simp only [op, Access.bytesAt]

theorem frameAtomic_runs {k : GAtomic} {x y : Word} (op : a.op = .atomic k x y) (meets : s.frameMeet (.remote part id) .atomic pa = .here)
    (sound : Sound s pa a.size) : exec .fabricRequest s = .next (((s.frameElemWrite pa (leBytes 4 (globalResult k
      (BitVec.ofNat 32 (leNat (s.servedBytes (.remote part id) pa a.size))) x y).toNat)).dropFetches (.remote part id)).toPart part
        (.accessAns id [(lane, leNat (s.servedBytes (.remote part id) pa a.size))] none)) := by
  have need : a.need = .atomic := by rw [Access.need, op]
  rw [frameAccess_runs now elems home, serveAccess_performed elems (by simp [op]) served (.inl (by rw [need]; exact meets)) fun _ => .inr sound,
    State.performFrame]
  simp only [op, State.cleanseFrames, gaValue_eq]

end

end

/-! ## A discard for another part (R273) -/

section
variable {s : State} {part id age lane pa l1 n c : Nat} {a : Access} {l : Leaf}
  (now : Performs s (.fabricRequest (.access part id age a))) (elems : a.elems = [(lane, pa), (l1, n)]) (op : a.op = .discard)
  (home : s.movedTo pa = none) (some_ : n ≠ 0) (served : s.servedHere pa n = true) (page : s.pageOfFrame pa = some (c, l))
include now elems op home some_ served page

theorem frameDiscard_runs : exec .fabricRequest s = .next (
    if !l.w then s.toPart part (.accessAns id [] (some .permWrite))
    else if !l.discards then s.toPart part (.accessAns id [] none)
    else if s.migrating c l then s.post (.fabricRequest (.access part id age a))
    else (s.discardPage c l).toPart part (.accessAns id [] none)) := by
  rw [fabricRequest_access now (by rw [elems]; rfl) home, State.serveAccess]
  simp only [op, elems, List.map_cons, List.headD_cons, List.drop_succ_cons, List.drop_zero]
  rw [State.serveDiscard, if_neg (by simp [some_, served])]
  simp only [page]

end

end Sys2Proof.Proofs
end

section
/-! SUPPORT. Ports that leave service, and what is lost with them (R338, R339). Settles O51. -/

namespace Sys2Proof.Proofs

open Sys2Proof.Machine Sys2Proof.Claims

/-! ## What a fault that ends an access leaves alone -/

theorem foldl_keeps_of_mem {α β γ : Type} (p : β → γ) (f : β → α → β) (l : List α) (h : ∀ b, ∀ x ∈ l, p (f b x) = p b) (b : β) :
    p (l.foldl f b) = p b := by
  induction l generalizing b with
  | nil => rfl
  | cons x l ih => rw [List.foldl_cons, ih fun b y mem => h b y (List.mem_cons_of_mem _ mem), h b x List.mem_cons_self]

section
variable {γ : Type} (p : State → γ) (held : ∀ (t : State) g e, p (t.hold g e) = p t)
  (queued : ∀ (t : State) pk pa pe aw, p { t with parks := pk, pagerAccs := pa, pending := pe, away := aw } = p t)
include queued

theorem parkDone_keeps (s : State) (id : Nat) : p (s.parkDone id) = p s := by
  unfold State.parkDone; split
  · rfl
  · exact queued s s.parks s.pagerAccs _ s.away

theorem parkFail_keeps (s : State) (id seq : Nat) (c : Cause) (va : Nat) : p (s.parkFail id seq c va) = p s := by
  unfold State.parkFail
  exact (parkDone_keeps p queued _ id).trans (queued ..)

include held

theorem postTo_keeps (s : State) (g : Nat) (e : Event) : p (s.postTo g e) = p s := by
  unfold State.postTo; split
  · exact held ..
  · exact queued s s.parks s.pagerAccs _ s.away

theorem answerFault_keeps (s : State) (a : Access) (c : Cause) (va : Nat) : p (s.answerFault a c va) = p s := by
  unfold State.answerFault; dsimp only
  split
  · exact parkFail_keeps p queued ..
  · split <;> exact postTo_keeps p held queued ..

/-- An access that fails ends in a reply, or with what its parked task still had to do (R94, R268). -/
theorem awayFail_keeps (s : State) (id : Nat) (c : Cause) (v : Option Nat) : p (s.awayFail id c v) = p s := by
  unfold State.awayFail; split
  · exact (answerFault_keeps p held queued ..).trans (queued s s.parks s.pagerAccs s.pending _)
  · rfl

end

/-! ## What a port that leaves service leaves alone -/

/-- Physical memory and the ports out of service. -/
def wires (s : State) := (s.phys, s.portsDown)

theorem portsDown_of_wires {s t : State} (h : wires t = wires s) : t.portsDown = s.portsDown := congrArg Prod.snd h

theorem phys_of_wires {s t : State} (h : wires t = wires s) : t.phys = s.phys := congrArg Prod.fst h

theorem wires_endTransfer (s : State) (core slot : Nat) : wires (s.endTransfer core slot) = wires s :=
  dropSlotEvents_keeps s core slot wires (fun t g a b => by unfold State.accept; split <;> rfl) fun _ _ _ _ _ => rfl

theorem wires_failSend (s : State) (core slot : Nat) (c : Cause) (v : Nat) : wires (s.failSend core slot c v) = wires s :=
  (wires_endTransfer ..).trans rfl

theorem wires_becomeTransfer (s : State) (core slot : Nat) : wires (s.becomeTransfer core slot) = wires s := by
  unfold State.becomeTransfer; dsimp only
  rw [retireAt_of_task (issuer_ctx _ _), setXAt_of_task (issuer_ctx _ _)]
  split <;> rfl

theorem wires_headerLost (s : State) (core slot : Nat) (c : Cause) (v : Nat) : wires (s.headerLost core slot c v) = wires s := by
  unfold State.headerLost; dsimp only
  rw [wires_failSend]
  split
  · exact wires_becomeTransfer ..
  · exact (wires_becomeTransfer ..).trans rfl
  · rfl

theorem wires_downSends (s : State) (port : Nat) : wires (s.downSends port) = wires s :=
  foldl_keeps wires _ (fun _ _ => wires_headerLost ..) _ s

theorem wires_modLand (s : State) (id : Nat) (f : Land → Land) : wires (s.modLand id f) = wires s := by
  unfold State.modLand; split <;> rfl

theorem wires_tryLanded (s : State) (id : Nat) : wires (s.tryLanded id) = wires s := by
  have ends (t : State) (h : Header) (e : Event) (r : FabReq) : wires (if h.spart = t.partAddr then t.post e else t.toPart h.spart r) = wires t := by
    split <;> rfl
  unfold State.tryLanded; split
  · split
    · dsimp only
      split
      · exact wires_modLand ..
      · exact (ends ..).trans (wires_modLand ..)
    · rfl
  · rfl

theorem wires_failLanding (s : State) (id : Nat) (c : Cause) : wires (s.failLanding id c) = wires s := by
  unfold State.failLanding; split
  · split
    · rfl
    · dsimp only
      rw [wires_tryLanded]
      split <;> exact wires_modLand ..
  · rfl

theorem wires_awayFail (s : State) (id : Nat) (c : Cause) (v : Option Nat) : wires (s.awayFail id c v) = wires s :=
  awayFail_keeps wires (fun _ _ _ => rfl) (fun _ _ _ _ _ => rfl) ..

theorem wires_endFlight (s : State) (r : FabReq) : wires (s.endFlight r) = wires s := by
  unfold State.endFlight; split <;> rfl

theorem wires_fetchAnswer (s : State) (id : Nat) (a : FetchAns) : wires (s.fetchAnswer id a) = wires s := by
  unfold State.fetchAnswer; split <;> rfl

/-- Only a notification that is lost escalates, which writes a fault record (R230, R280). -/
theorem wires_requestLost (s : State) (p : Nat) {r : FabReq} (c : Cause) (v : Nat) (other : ∀ n, r ≠ .notify n) :
    wires (s.requestLost p r c v) = wires s := by
  unfold State.requestLost; dsimp only
  rw [← wires_endFlight s r]
  generalize s.endFlight r = t
  split
  case h_3 n => exact absurd rfl (other n)
  case h_6 =>
    split
    · rfl
    · split
      · exact wires_awayFail ..
      · exact wires_fetchAnswer ..
  case h_7 =>
    split
    · exact wires_headerLost ..
    · rfl
    · rfl
  case h_8 => exact wires_failLanding ..
  all_goals rfl

/-! ## Escalations leave the ports alone -/

theorem unbind_portsDown (s : State) (q : Nat) : (s.unbind q).portsDown = s.portsDown := by
  unfold State.unbind; split <;> rfl

theorem requestPass_portsDown (s : State) : s.requestPass.portsDown = s.portsDown := by
  unfold State.requestPass; split <;> rfl

theorem queueError_portsDown (s : State) (q : Nat) (e : QErr) (i d : Word) : (s.queueError q e i d).portsDown = s.portsDown := by
  unfold State.queueError; dsimp only; split
  · rfl
  · rw [requestPass_portsDown, State.raiseMsix_portsDown]
    split
    · rw [State.count_portsDown, State.count_portsDown, unbind_portsDown]; rfl
    · rw [State.count_portsDown, unbind_portsDown]; rfl

theorem failGroup_portsDown (s : State) (g : Nat) : (s.failGroup g).portsDown = s.portsDown := by
  unfold State.failGroup; dsimp only; split
  · split
    · exact queueError_portsDown ..
    · rfl
  · rfl

theorem abortReleased_portsDown (s : State) (c : Nat) : (s.abortReleased c).portsDown = s.portsDown := by
  unfold State.abortReleased; dsimp only
  rw [foldl_keeps State.portsDown _ fun t e => ?_]
  rw [queueError_portsDown]; split <;> rfl

theorem terminate_portsDown (s : State) (c : Nat) : (s.terminate c).portsDown = s.portsDown :=
  (requestPass_portsDown _).trans (abortReleased_portsDown ..)

theorem escalate_portsDown (s : State) (g : Nat) (c : Cause) (r : FaultRec) : (s.escalate g c r).portsDown = s.portsDown := by
  unfold State.escalate; dsimp only; split
  · rfl
  · split
    · exact failGroup_portsDown ..
    · split
      · split
        · exact terminate_portsDown ..
        · rfl
      · rw [foldl_keeps State.portsDown (fun (t : State) g => t.failGroup g) (fun t g => failGroup_portsDown t g)]
        split <;> rfl

theorem requestLost_portsDown (s : State) (p : Nat) (r : FabReq) (c : Cause) (v : Nat) : (s.requestLost p r c v).portsDown = s.portsDown := by
  by_cases notifies : ∃ n, r = .notify n
  · obtain ⟨n, rfl⟩ := notifies
    exact (escalate_portsDown ..).trans (portsDown_of_wires (wires_endFlight ..))
  · exact portsDown_of_wires (wires_requestLost s p c v fun n is => notifies ⟨n, is⟩)

/-! ## The events of ports (R338, R339) -/

section
variable {s : State} {port : Nat} (now : Performs s (.linkDown port)) (up : port ∉ s.portsDown)
include now up

/-- What has been lost is told after the port has left service. -/
theorem linkDown_runs : ∃ (u : State) (passed : List (Nat × Forward)) (ids lands : List Nat),
    u.portsDown = s.portsDown ++ [port] ∧ u.phys = s.phys ∧ exec .linkDown s = .next (lands.foldl (fun s id => s.failLanding id .rendezvousFail)
      ((s.flight.filter fun e => s.usesPort port e.1).foldl (fun s e => s.requestLost e.1 e.2 .linkDown port)
        (ids.foldl (fun s id => s.awayFail id .linkDown (some port))
          (passed.foldl (fun s e => s.toPart e.2.part (.accessAns e.2.id [] (some .retryExhausted))) u)))) := by
  have sends := wires_downSends s port
  have runs : exec .linkDown s = execLinkDown s := rfl
  rw [execLinkDown, now] at runs
  dsimp only at runs
  rw [if_neg (by simpa using up)] at runs
  refine ⟨_, _, _, _, ?_, ?_, runs⟩
  · split <;> exact congrArg (· ++ [port]) (portsDown_of_wires sends)
  · split <;> exact congrArg Prod.fst sends

theorem linkDown_leaves : ∃ t, exec .linkDown s = .next t ∧ t.portsDown = s.portsDown ++ [port] ∧
    ((∀ e ∈ s.flight, ∀ n, e.2 ≠ .notify n) → t.phys = s.phys) := by
  obtain ⟨u, passed, ids, lands, ports, phys, runs⟩ := linkDown_runs now up
  have passes : wires (passed.foldl (fun s e => s.toPart e.2.part (.accessAns e.2.id [] (some .retryExhausted))) u) = wires u :=
    foldl_keeps wires _ (fun _ _ => by rfl) _ _
  have fails (t : State) : wires (ids.foldl (fun s id => s.awayFail id .linkDown (some port)) t) = wires t :=
    foldl_keeps wires _ (fun _ _ => wires_awayFail ..) _ _
  have landings (t : State) : wires (lands.foldl (fun s id => s.failLanding id .rendezvousFail) t) = wires t :=
    foldl_keeps wires _ (fun _ _ => wires_failLanding ..) _ _
  have before := (fails _).trans passes
  refine ⟨_, runs, ?_, fun quiet => ?_⟩
  · rw [portsDown_of_wires (landings _), foldl_keeps State.portsDown _ (fun _ _ => requestLost_portsDown ..), portsDown_of_wires before, ports]
  · have lost := foldl_keeps_of_mem wires (fun (s : State) (e : Nat × FabReq) => s.requestLost e.1 e.2 .linkDown port)
      (s.flight.filter fun e => s.usesPort port e.1) fun t e mem => wires_requestLost t e.1 _ _ (quiet e (List.mem_filter.1 mem).1)
    rw [phys_of_wires (landings _), phys_of_wires (lost _), phys_of_wires before, phys]

end

theorem linkRetrain_counts {s : State} {port : Nat} (now : Performs s (.linkRetrain port)) : exec .linkRetrain s =
    .next ({ s with records := { s.records with retrains := s.records.retrains.tally port } }.count .linkRetrain) := by
  show execLinkRetrain s = _
  rw [execLinkRetrain, now]; rfl

theorem flitUncorrectable_counts {s : State} {port : Nat} (now : Performs s (.flitUncorrectable port)) : exec .flitUncorrectable s =
    .next ({ s with records := { s.records with flits := s.records.flits.tally port } }.count .flitUncorrectable) := by
  show execFlitUncorrectable s = _
  rw [execFlitUncorrectable, now]; rfl

theorem get_tally (k : Nat) (m : SMap Nat) : SMap.get 0 (m.tally k) k = Min.min (2 ^ 64 - 1) (SMap.get 0 m k + 1) := SMap.get_put_same ..

/-- The detours after one has been set or cleared (R338). -/
theorem mem_detours (ds : List Nat) (p q : Nat) (b : Bool) :
    q ∈ (if b then ds.filter (· != p) ++ [p] else ds.filter (· != p)) ↔ if q = p then b = true else q ∈ ds := by
  by_cases is : q = p <;> cases b <;> simp [is]

theorem detourSet_sets {s : State} {p : Nat} {b : Bool} (now : Performs s (.detourSet p b)) (idle : s.outstandingTo p = false) :
    exec .detourSet s = .next { s with detours := if b then s.detours.filter (· != p) ++ [p] else s.detours.filter (· != p) } := by
  show execDetourSet s = _
  rw [execDetourSet, now]
  exact if_neg (by simp [idle])

theorem retryResend_runs {s : State} {part id age p : Nat} {a : Access} (now : Performs s (.retryResend (.access part id age a)))
    (home : s.homeOf id = some p) : exec .retryResend s = .next (s.toPart p (.access part id age a)) := by
  show execRetryResend s = _
  rw [execRetryResend, now]
  simp only [home]; rfl

/-- Settles O51: what is handed on, an access by what its frame's page gives, and the events of the ports. -/
theorem fabricEvents : Obligations.FabricEvents := by
  refine ⟨fun s r e now => fabricRequest_runs now, fun s part id age a lane pa now elems home => ?access,
    fun s part id age a lane pa l1 n c l now elems op home some_ served page => ?discard,
    fun s e n pa => ⟨frameMeet_unmapped, fun c l page => ?meets⟩, fun s e pa n => ⟨fun zero => if_pos zero, fun held fits => ?_, fun bs => frameElemWrite_one s⟩,
    fun s pa n unheld low => ⟨frameBytes_unheld unheld low, fun bs low => frameWrite_unheld unheld low bs⟩, fun s i rd v now => ?enq,
    fun s part id age a p now home => retryResend_runs now home, fun s port now up => linkDown_leaves now up,
    fun s port now => ⟨_, linkRetrain_counts now, sameMemory_of_memory rfl, rfl, get_tally ..⟩,
    fun s port now => ⟨_, flitUncorrectable_counts now, sameMemory_of_memory rfl, rfl, get_tally ..⟩,
    fun s p b now idle => ⟨_, detourSet_sets now idle, fun q => mem_detours ..⟩⟩
  case access =>
    intro e sound refused old
    have runs := frameAccess_runs now elems home
    refine ⟨fun no op => runs.trans (congrArg _ (serveAccess_refused elems op no)), fun served op meets => frameRead_runs now elems home served op meets,
      fun served meets v op => frameWrite_runs now elems home served op meets,
      fun served meets clean k x y op => frameAtomic_runs now elems home served op meets clean,
      fun served op => ⟨fun meets => ?_, fun c p meets => ?_, fun c p meets => ?_⟩⟩
    all_goals rw [runs, serveAccess_waits elems op served meets (by simp) (by simp) rfl]; rfl
  case discard =>
    have runs := frameDiscard_runs now elems op home some_ served page
    refine ⟨fun w => ?_, fun w no => ?_, fun w yes busy => ?_, fun w yes still => ?_⟩
    · rw [runs, w]; rfl
    · rw [runs, w, no]; rfl
    · rw [runs, w, yes, busy]; rfl
    · rw [runs, w, yes, still]; rfl
  case meets =>
    refine ⟨fun busy => ?_, fun still state => ?_, fun still state => ⟨?_, fun writes => ?_⟩, fun still one two => ?_⟩
    · rw [frameMeet_page page, if_pos busy]
    · rw [frameMeet_page page, if_neg (by simp [still]), if_pos state]
    · rw [frameMeet_page page, if_neg (by simp [still]), if_neg (by omega), if_neg (by omega), if_pos rfl]
    · rw [frameMeet_page page, if_neg (by simp [still]), if_neg (by omega), if_neg (by omega), if_neg writes]
    · rw [frameMeet_page page, if_neg (by simp [still]), if_neg two, if_pos one]
  case enq =>
    have runs : exec .fabricRequest s = execFabricRequest s := rfl
    rw [execFabricRequest, now] at runs
    exact ⟨_, runs, rfl, rfl, sameMemory_of_memory rfl⟩
  · exact (if_neg held).trans (frameElem_one s fits)

end Sys2Proof.Proofs
end

section
/-! SUPPORT. Events of the pager and of migration at the page that they name (R211, R268, R269, R282). -/

namespace Sys2Proof.Proofs
open Sys2Proof.Machine Sys2Proof.Claims

variable {s : State} {ctx va : Nat} {l : Leaf} {st : Nat}

/-- The action is taken at the leaf. -/
theorem atPage_of_mem {states : List Nat} {k : Leaf → State → State} (page : PageIs s ctx va l st) (mem : st ∈ states) :
    s.atPage ctx va states k = k l s := by
  obtain ⟨leaf, rfl⟩ := page
  simp [State.atPage, leaf, mem]

theorem atPage_of_not_mem {states : List Nat} {k : Leaf → State → State} (page : PageIs s ctx va l st) (mem : st ∉ states) :
    s.atPage ctx va states k = s := by
  obtain ⟨leaf, rfl⟩ := page
  simp [State.atPage, leaf, mem]

/-- What an event at a page in one of some states does is its action there (R269). -/
theorem next_atPage {states : List Nat} {k : Leaf → State → State} {t : State} (page : PageIs s ctx va l st) (mem : st ∈ states)
    (act : k l s = t) : ok (s.atPage ctx va states k) = .next t := by
  rw [atPage_of_mem page mem, act]; rfl

theorem pagerMap_absent {pa : Nat} {u : State} (now : Performs s (.pagerMap ctx va pa)) (page : PageIs s ctx va l 5)
    (given : s.giveFrame ctx l pa = some u) : exec .pagerMap s = .next (u.unask ctx l).replay := by
  show execPagerMap s = _
  rw [execPagerMap, now]
  exact next_atPage page (by simp) (by simp only [given])

theorem pagerFail_page (now : Performs s (.pagerFail ctx va)) (parked : s.parksAt ctx l = false) (page : PageIs s ctx va l st)
    (mem : st ∈ [1, 5]) : exec .pagerFail s = .next (s.failPage ctx l (if st = 1 then .discardWrite else .pageFault)) := by
  show execPagerFail s = _
  rw [execPagerFail, now]
  exact next_atPage page mem (by simp [parked, page.2])

theorem pagerRevive_discarded (now : Performs s (.pagerRevive ctx va)) (page : PageIs s ctx va l 1) (wanted : s.writeParked ctx l = true) :
    exec .pagerRevive s = .next ((((s.zeroFrame l.frame l.size).setPageState l 0).unask ctx l).replay) := by
  show execPagerRevive s = _
  rw [execPagerRevive, now]
  exact next_atPage page (by simp) (by simp only [wanted, if_true])

theorem pagerReclaim_unwanted (now : Performs s (.pagerReclaim ctx va none)) (page : PageIs s ctx va l 1)
    (unwanted : s.writeParked ctx l = false) :
    exec .pagerReclaim s = .next ((s.setPageState l 5).freeRange ctx l.frame l.size) := by
  show execPagerReclaim s = _
  rw [execPagerReclaim, now]
  exact next_atPage page (by simp) (by simp [unwanted])

theorem pagerReclaim_fresh {pa : Nat} {u : State} (now : Performs s (.pagerReclaim ctx va (some pa))) (page : PageIs s ctx va l 1)
    (wanted : s.writeParked ctx l = true) (given : (s.freeRange ctx l.frame l.size).giveFrame ctx l pa = some u) :
    exec .pagerReclaim s = .next ((u.zeroFrame pa l.size).unask ctx l).replay := by
  show execPagerReclaim s = _
  rw [execPagerReclaim, now]
  exact next_atPage page (by simp) (by simp only [wanted, if_true, given])

theorem pagerDiscard_resident (now : Performs s (.pagerDiscard ctx va)) (page : PageIs s ctx va l 0) (kind : l.kind = 0)
    (free : l.p = false) : exec .pagerDiscard s = .next (s.discardPage ctx l) := by
  show execPagerDiscard s = _
  rw [execPagerDiscard, now]
  exact next_atPage page (by simp) (by simp [kind, free])

theorem pagerDiscard_victim (now : Performs s (.pagerDiscard ctx va)) (page : PageIs s ctx va l 2) :
    exec .pagerDiscard s = .next s := by
  show execPagerDiscard s = _
  rw [execPagerDiscard, now]
  exact congrArg ok (atPage_of_not_mem page (by simp))

theorem pagerTimeout_absent (now : Performs s (.pagerTimeout ctx va)) (page : PageIs s ctx va l 5) (parked : s.parksAt ctx l = false)
    (after : PageIs (s.report .pagerTimeout (BitVec.ofNat 32 va) ctx 0 0) ctx va l 5) :
    exec .pagerTimeout s = .next ((s.report .pagerTimeout (BitVec.ofNat 32 va) ctx 0 0).failPage ctx l .pageFault) := by
  show execPagerTimeout s = _
  simp only [execPagerTimeout, now, page.1, parked, Bool.false_eq_true, and_false, if_false]
  exact next_atPage after (by simp) rfl

/-- A parked task's record goes to its own core while that is bound to its group, else to the group's rank 0 (R268). -/
theorem parkedDelivery_core {id : Nat} {p : Park} (now : Performs s (.parkedDelivery id)) (parked : s.parks.find id = some p) :
    let to_ (k : Nat) : State := { s with
      parks := s.parks.del id
      pending := s.pending ++ [.continuationDelivery ⟨k, p.group, p.record, p.fail, p.origin, p.traps, p.faults⟩] }
    ((s.coreAt p.core).group = p.group → (s.coreAt p.core).power = .bound → exec .parkedDelivery s = .next (to_ p.core)) ∧
    ((s.coreAt p.core).group ≠ p.group → (s.groupAt p.group).stored = false →
      exec .parkedDelivery s = .next (to_ ((s.groupAt p.group).cores.headD p.core))) := by
  refine ⟨fun same bound => ?_, fun other unsaved => ?_⟩ <;> show execParkedDelivery s = _
  · simp only [execParkedDelivery, now, parked, same, bound, true_or, and_self, decide_true, Bool.or_true, if_true]; rfl
  · simp only [execParkedDelivery, now, parked, unsaved, other, false_and, decide_false, Bool.or_false, Bool.false_eq_true, if_false]; rfl

/-- R268, R269, R282: the events of the pager, each at its page. -/
theorem pagerEvents : PagerEvents := by
  refine ⟨fun s ctx va pa l u now page given => pagerMap_absent now page given, fun s ctx va l now parked => ⟨fun page => ?_, fun page => ?_⟩,
    fun s ctx va l now page wanted => pagerRevive_discarded now page wanted,
    fun s ctx va l now page unwanted => pagerReclaim_unwanted now page unwanted,
    fun s ctx va pa l u now page wanted given => pagerReclaim_fresh now page wanted given,
    fun s ctx va l now => ⟨fun page kind free => pagerDiscard_resident now page kind free, fun page => pagerDiscard_victim now page⟩,
    fun s ctx va l now page parked => pagerTimeout_absent now page parked,
    fun s id p now parked => parkedDelivery_core now parked⟩
  · exact pagerFail_page now parked page (by simp)
  · exact pagerFail_page now parked page (by simp)

/-- Migration begins at a page once no access under its entry is on its way (R269). -/
theorem migrationBegin_page (now : Performs s (.migrationBegin ctx va)) (page : PageIs s ctx va l st) (mem : st = 0 ∨ st = 4) :
    exec .migrationBegin s = .next (if s.rangeBusy ctx l.base l.size then s.post (.migrationBegin ctx va)
      else (s.setPageState l 3).dropPage ctx l true) := by
  show execMigrationBegin s = _
  rw [execMigrationBegin, now]
  exact next_atPage page (by simp [mem]) rfl

theorem bits_bit_zero (raw : BitVec 64) (set : raw.getLsbD 0 = true) : bits raw.toNat 0 1 = 1 := by
  rw [BitVec.getLsbD, Nat.testBit_zero, decide_eq_true_eq] at set
  simpa [bits] using set

/-- Migration ends with a valid entry for the same page (R269). -/
theorem migrationEnd_page {raw : BitVec 64} (now : Performs s (.migrationEnd ctx va raw)) (page : PageIs s ctx va l 3)
    (formed : ({ l with raw := raw.toNat } : Leaf).wellFormed (s.feature 9) = true)
    (there : let l' : Leaf := { l with raw := raw.toNat }; s.populated l'.kind l'.frame (l'.frame + l'.size) = true)
    (state : ({ l with raw := raw.toNat } : Leaf).state = 0 ∨ ({ l with raw := raw.toNat } : Leaf).state = 4)
    (run : ({ l with raw := raw.toNat } : Leaf).run = l.run) (valid : raw.getLsbD 0 = true) :
    exec .migrationEnd s = .next (((((s.movePage ctx l { l with raw := raw.toNat }).writeLeaf l raw.toNat).noteMoved l
      { l with raw := raw.toNat }).unask ctx l).replay) := by
  show execMigrationEnd s = _
  rw [execMigrationEnd, now]
  exact next_atPage page (by simp) (if_pos ⟨formed, there, state, run, bits_bit_zero raw valid⟩)

end Sys2Proof.Proofs
end

section
/-! SUPPORT. What a shootdown drops: every line of its range leaves every slice, and no write-back brings one in (R261, R265). -/

namespace Sys2Proof.Proofs
open Sys2Proof.Machine Sys2Proof.Claims

/-! ## Lines of slices -/

theorem mem_of_smapFind {α : Type} {k : Nat} {v : α} {m : SMap α} (found : SMap.find k m = some v) : (k, v) ∈ m := by
  induction m with
  | nil => cases found
  | cons e m ih =>
    obtain ⟨j, w⟩ := e
    unfold SMap.find at found
    split at found
    next same => obtain rfl := same; cases found; exact List.mem_cons_self
    next other => exact List.mem_cons_of_mem _ (ih found)

theorem sliceAt_modSlice (s : State) (k j : Nat) (f : Slice → Slice) :
    (s.modSlice k f).sliceAt j = if k = j then f (s.sliceAt k) else s.sliceAt j := SMap.get_put ..

theorem sliceAt_map (s : State) (f : Slice → Slice) (none_ : f {} = {}) (k : Nat) :
    ({ s with slices := s.slices.map fun e => (e.1, f e.2) } : State).sliceAt k = f (s.sliceAt k) := by
  unfold State.sliceAt SMap.get
  rw [find_map]
  cases SMap.find k s.slices with
  | none => exact none_.symm
  | some sl => rfl

/-- A slice holds a line of a context. -/
def HoldsLine (s : State) (k ctx line : Nat) : Prop := ∃ m ∈ (s.sliceAt k).lines, m.ctx = ctx ∧ m.line = line

theorem mem_putLine {l m : SLine} {sl : Slice} (mem : m ∈ (sl.putLine l).lines) : m ∈ sl.lines ∨ m = l := by
  unfold Slice.putLine at mem; dsimp only at mem
  split at mem
  · exact .inl (List.mem_filter.1 mem).1
  · exact (List.mem_append.1 mem).imp (fun h => (List.mem_filter.1 h).1) List.mem_singleton.1

theorem lineOf_found {s : State} {ctx va : Nat} {m : SLine} (found : s.lineOf ctx va = some m) :
    m ∈ (s.sliceAt (sliceOf (s.contextAt ctx).dl ctx va)).lines ∧ m.ctx = ctx ∧ m.line = va / 128 := by
  refine ⟨List.mem_of_find?_eq_some found, ?_⟩
  simpa using List.find?_some found

/-- A line that its slice holds already brings in none when it is put again with other bits. -/
theorem holdsLine_of_putLine {s : State} {k ctx line : Nat} {m m' : SLine} {j : Nat} (held : m ∈ (s.sliceAt j).lines)
    (key : m'.ctx = m.ctx ∧ m'.line = m.line) (holds : HoldsLine (s.modSlice j (Slice.putLine m')) k ctx line) : HoldsLine s k ctx line := by
  obtain ⟨n, mem, same⟩ := holds
  rw [sliceAt_modSlice] at mem
  split at mem
  next here =>
    obtain rfl := here
    obtain old | rfl := mem_putLine mem
    · exact ⟨n, old, same⟩
    · exact ⟨m, held, key.1 ▸ same.1, key.2 ▸ same.2⟩
  next => exact ⟨n, mem, same⟩

/-! ## Writing lines back -/

/-- The slices, and what chooses among them for an address. -/
def slicing (s : State) := (s.slices, s.contexts)

theorem sliceAt_of_slicing {s t : State} (h : slicing t = slicing s) : t.sliceAt = s.sliceAt := by
  funext k; exact congrArg (fun p => SMap.get {} p.1 k) h

theorem lineOf_of_slicing {s t : State} (h : slicing t = slicing s) : t.lineOf = s.lineOf := by
  funext ctx va; exact congrArg (fun p => (SMap.get {} p.1 (sliceOf (SMap.get {} p.2 ctx).dl ctx va)).lineAt ctx (va / 128)) h

theorem contextAt_of_slicing {s t : State} (h : slicing t = slicing s) : t.contextAt = s.contextAt := by
  funext c; exact congrArg (fun p => SMap.get {} p.2 c) h

theorem writeSectors_slicing (s : State) (l : SLine) (is : List Nat) : slicing (s.writeSectors l is) = slicing s := by
  unfold State.writeSectors; exact foldl_keeps slicing _ (fun _ _ => by rfl) is s

/-- A write-back changes the slices in the other line of its granule alone, which is there already. -/
theorem writeBack_slices (s : State) (l : SLine) : slicing (s.writeBack l) = slicing s ∨ ∃ (u : State) (j : Nat) (m : SLine),
    slicing u = slicing s ∧ m ∈ (s.sliceAt j).lines ∧ s.writeBack l = u.modSlice j (Slice.putLine { m with dirty := 0#4 }) := by
  have kept := writeSectors_slicing s l l.backSectors
  unfold State.writeBack; dsimp only
  split
  case h_1 m mate =>
    right
    have kept' := (writeSectors_slicing (s.writeSectors l l.backSectors) m ((List.range 4).filter m.valid.getLsbD)).trans kept
    refine ⟨_, _, m, kept', ?_, rfl⟩
    split at mate
    · cases mate
    · unfold State.granuleMate at mate
      split at mate
      · rw [lineOf_of_slicing kept] at mate
        obtain ⟨held, ctx, line⟩ := lineOf_found mate
        rw [contextAt_of_slicing kept, ctx, line, Nat.mul_div_cancel_left _ (by decide)]
        exact held
      · cases mate
  case h_2 => exact .inl kept

theorem holdsLine_writeBack {s : State} {l : SLine} {k ctx line : Nat} (holds : HoldsLine (s.writeBack l) k ctx line) :
    HoldsLine s k ctx line := by
  obtain same | ⟨u, j, m, same, held, back⟩ := writeBack_slices s l
  · rwa [HoldsLine, sliceAt_of_slicing same] at holds
  · rw [back] at holds
    rw [← sliceAt_of_slicing same] at held
    have := holdsLine_of_putLine (m' := { m with dirty := 0#4 }) held ⟨rfl, rfl⟩ holds
    rwa [HoldsLine, sliceAt_of_slicing same] at this

theorem pins_writeBack (s : State) (l : SLine) (k : Nat) : ((s.writeBack l).sliceAt k).pins = (s.sliceAt k).pins := by
  obtain same | ⟨u, j, m, same, -, back⟩ := writeBack_slices s l
  · rw [sliceAt_of_slicing same]
  · rw [back, sliceAt_modSlice, ← sliceAt_of_slicing same]
    split
    next here => subst here; rfl
    next => rfl

/-! ## Lines that leave -/

/-- A line that leaves its slice is not there, and no other comes. -/
theorem holdsLine_dropLine {s : State} {j k ctx line : Nat} {l : SLine} (holds : HoldsLine (s.dropLine j l) k ctx line) :
    HoldsLine s k ctx line ∧ ¬(k = j ∧ l.ctx = ctx ∧ l.line = line) := by
  obtain ⟨m, mem, rfl, rfl⟩ := holdsLine_writeBack holds
  rw [sliceAt_modSlice] at mem
  split at mem
  next here =>
    subst here
    obtain ⟨old, differs⟩ := List.mem_filter.1 mem
    refine ⟨⟨m, old, rfl, rfl⟩, fun ⟨_, ctx, line⟩ => ?_⟩
    simp [ctx, line] at differs
  next other => exact ⟨⟨m, mem, rfl, rfl⟩, fun ⟨same, _⟩ => other same.symm⟩

theorem pins_dropLine (s : State) (j k : Nat) (l : SLine) : ((s.dropLine j l).sliceAt k).pins = (s.sliceAt k).pins := by
  unfold State.dropLine
  rw [pins_writeBack, sliceAt_modSlice]
  split
  next here => subst here; rfl
  next => rfl

/-- The lines named leave their slices, one after another. -/
def dropLines (es : List (Nat × SLine)) (s : State) : State := es.foldl (fun s e => s.dropLine e.1 e.2) s

theorem holdsLine_dropLines {es : List (Nat × SLine)} {s : State} {k ctx line : Nat} (holds : HoldsLine (dropLines es s) k ctx line) :
    HoldsLine s k ctx line ∧ ∀ e ∈ es, ¬(k = e.1 ∧ e.2.ctx = ctx ∧ e.2.line = line) := by
  induction es generalizing s with
  | nil => exact ⟨holds, fun _ mem => absurd mem List.not_mem_nil⟩
  | cons e es ih =>
    obtain ⟨before, rest⟩ := ih holds
    obtain ⟨first, gone⟩ := holdsLine_dropLine before
    exact ⟨first, List.forall_mem_cons.2 ⟨gone, rest⟩⟩

theorem pins_dropLines (es : List (Nat × SLine)) (s : State) (k : Nat) : ((dropLines es s).sliceAt k).pins = (s.sliceAt k).pins := by
  unfold dropLines; exact foldl_keeps (fun t : State => (t.sliceAt k).pins) _ (fun t e => pins_dropLine t e.1 k e.2) es s

theorem cores_dropLines (es : List (Nat × SLine)) (s : State) : (dropLines es s).cores = s.cores := by
  unfold dropLines; exact congrArg Prod.snd (foldl_keeps State.kept _ (fun t e => State.dropLine_kept t e.1 e.2) es s)

/-! ## The shootdown -/

/-- Whether a line lies in a range of addresses. -/
def inRange (lo hi line : Nat) : Bool := lo < 128 * line + 128 && 128 * line ≤ hi

theorem inRange_iff {lo hi line : Nat} : inRange lo hi line = true ↔ LineIn lo hi line := by simp [inRange, LineIn]

/-- The lines of a context's range, each with its slice. -/
def rangeLines (s : State) (ctx lo hi : Nat) : List (Nat × SLine) :=
  s.slices.flatMap fun (k, sl) => (sl.lines.filter fun m => m.ctx == ctx && inRange lo hi m.line).map fun m => (k, m)

/-- Whether a page that a slice's translation cache counts lies in a range. -/
def countHeld (s : State) (ctx lo hi page : Nat) : Bool :=
  match s.walk ctx page with
  | .leaf l => lo < l.base + l.size && l.base ≤ hi
  | .fault _ => lo < page + 4096 && page ≤ hi

/-- A slice without what it held for a range but for lines. -/
def shotSlice (s : State) (ctx lo hi : Nat) (sl : Slice) : Slice :=
  { sl with pins := sl.pins.filter (fun p => !(p.ctx == ctx && inRange lo hi p.line)), ptrs := sl.ptrs.filter (fun p => p.1 != ctx),
            counts := sl.counts.filter fun e => !(e.1 == ctx && countHeld s ctx lo hi e.2.1) }

/-- The state after a shootdown. -/
def shot (s : State) (ctx lo hi : Nat) : State :=
  let u := dropLines (rangeLines s ctx lo hi) s
  { u with slices := u.slices.map fun e => (e.1, shotSlice u ctx lo hi e.2) }

variable {s : State} {ctx lo hi : Nat}

theorem shootdown_waits (now : Performs s (.shootdown ctx lo hi)) (busy : s.rangeBusy ctx lo (hi + 1 - lo) = true) :
    exec .shootdown s = .next (s.post (.shootdown ctx lo hi)) := by
  show execShootdown s = _
  rw [execShootdown, now]
  exact if_pos busy

theorem shootdown_shot (now : Performs s (.shootdown ctx lo hi)) (idle : s.rangeBusy ctx lo (hi + 1 - lo) = false) :
    exec .shootdown s = .next (shot s ctx lo hi) := by
  show execShootdown s = _
  rw [execShootdown, now]
  exact if_neg (by simp [idle])

theorem sliceAt_shot (k : Nat) : (shot s ctx lo hi).sliceAt k =
    shotSlice (dropLines (rangeLines s ctx lo hi) s) ctx lo hi ((dropLines (rangeLines s ctx lo hi) s).sliceAt k) :=
  sliceAt_map _ _ rfl k

theorem mem_rangeLines {k : Nat} {m : SLine} (held : m ∈ (s.sliceAt k).lines) (key : m.ctx = ctx ∧ LineIn lo hi m.line) :
    (k, m) ∈ rangeLines s ctx lo hi := by
  have entry : (k, s.sliceAt k) ∈ s.slices := by
    unfold State.sliceAt SMap.get at held ⊢
    cases found : SMap.find k s.slices with
    | none => rw [found] at held; cases held
    | some sl => exact mem_of_smapFind found
  refine List.mem_flatMap.2 ⟨_, entry, List.mem_map.2 ⟨m, List.mem_filter.2 ⟨held, ?_⟩, rfl⟩⟩
  simpa using And.imp_right inRange_iff.2 key

/-- No slice keeps a line of the range. -/
theorem lines_shot (k : Nat) (m : SLine) (mem : m ∈ ((shot s ctx lo hi).sliceAt k).lines) : ¬(m.ctx = ctx ∧ LineIn lo hi m.line) := by
  intro key
  rw [sliceAt_shot] at mem
  obtain ⟨⟨m', held, sameCtx, sameLine⟩, gone⟩ := holdsLine_dropLines ⟨m, mem, rfl, rfl⟩
  have listed := mem_rangeLines held (show m'.ctx = ctx ∧ LineIn lo hi m'.line by rwa [sameCtx, sameLine])
  exact gone _ listed ⟨rfl, sameCtx, sameLine⟩

theorem pins_shot (k : Nat) (p : Pin) :
    p ∈ ((shot s ctx lo hi).sliceAt k).pins ↔ p ∈ (s.sliceAt k).pins ∧ ¬(p.ctx = ctx ∧ LineIn lo hi p.line) := by
  have pins : ((shot s ctx lo hi).sliceAt k).pins = (s.sliceAt k).pins.filter fun p => !(p.ctx == ctx && inRange lo hi p.line) := by
    rw [sliceAt_shot, shotSlice, pins_dropLines]
  rw [pins, List.mem_filter, ← inRange_iff]
  simp [imp_iff_not_or]

/-- A shootdown of a range without a line writes nothing. -/
theorem rangeLines_nil (none_ : ∀ e ∈ s.slices, ∀ m ∈ e.2.lines, ¬(m.ctx = ctx ∧ LineIn lo hi m.line)) : rangeLines s ctx lo hi = [] := by
  refine List.flatMap_eq_nil_iff.2 fun e mem => List.map_eq_nil_iff.2 (List.filter_eq_nil_iff.2 fun m held => ?_)
  have out := none_ e mem m held
  rw [← inRange_iff] at out
  simpa using out

theorem counts_shot (none_ : rangeLines s ctx lo hi = []) {k c page n : Nat} (mem : (c, page, n) ∈ ((shot s ctx lo hi).sliceAt k).counts) :
    (c, page, n) ∈ (s.sliceAt k).counts ∧ (c = ctx → ∀ l, s.walk ctx page = .leaf l → ¬(lo < l.base + l.size ∧ l.base ≤ hi)) := by
  rw [sliceAt_shot, none_] at mem
  obtain ⟨old, out⟩ := List.mem_filter.1 mem
  refine ⟨old, fun same l leaf within => ?_⟩
  have walk : (dropLines [] s).walk ctx page = .leaf l := leaf
  simp [same, countHeld, walk, within] at out

/-- A shootdown once its range is idle (R261). -/
theorem shootdown_drops (now : Performs s (.shootdown ctx lo hi)) (idle : s.rangeBusy ctx lo (hi + 1 - lo) = false) :
    ∃ t, exec .shootdown s = .next t ∧ t.cores = s.cores ∧
      (∀ k m, m ∈ (t.sliceAt k).lines → ¬(m.ctx = ctx ∧ LineIn lo hi m.line)) ∧
      (∀ k p, p ∈ (t.sliceAt k).pins ↔ p ∈ (s.sliceAt k).pins ∧ ¬(p.ctx = ctx ∧ LineIn lo hi p.line)) ∧
      ((∀ e ∈ s.slices, ∀ m ∈ e.2.lines, ¬(m.ctx = ctx ∧ LineIn lo hi m.line)) → t.phys = s.phys ∧
        ∀ k c page n, (c, page, n) ∈ (t.sliceAt k).counts → (c, page, n) ∈ (s.sliceAt k).counts ∧
          (c = ctx → ∀ l, s.walk ctx page = .leaf l → ¬(lo < l.base + l.size ∧ l.base ≤ hi))) := by
  refine ⟨_, shootdown_shot now idle, cores_dropLines .., lines_shot, pins_shot, fun none_ => ?_⟩
  have nil := rangeLines_nil none_
  refine ⟨?_, fun k c page n mem => counts_shot nil mem⟩
  unfold shot
  rw [nil]; rfl

end Sys2Proof.Proofs
end

section
/-! SUPPORT. The pieces of a page in the victim tier, where they stand and what the slices hold once they are back; sketches (R75, R211,
R270). -/

namespace Sys2Proof.Proofs
open Sys2Proof.Machine Sys2Proof.Claims

/-! ## Lines put for an address -/

theorem bits_of_line {a b : Nat} (same : a / 128 = b / 128) {lo : Nat} (above : 7 ≤ lo) (n : Nat) : bits a lo n = bits b lo n := by
  obtain ⟨k, rfl⟩ := Nat.exists_eq_add_of_le above
  unfold bits
  rw [pow_add, show 2 ^ 7 = 128 from rfl, ← Nat.div_div_eq_div_mul, ← Nat.div_div_eq_div_mul, same]

/-- The addresses of a line have one slice (R255). -/
theorem sliceOf_of_line {a b : Nat} (same : a / 128 = b / 128) (dl : Bool) (ctx : Nat) : sliceOf dl ctx a = sliceOf dl ctx b := by
  unfold sliceOf
  rw [bits_of_line same (lo := 12) (by decide), bits_of_line same (lo := 45) (by decide)]

theorem lineAt_putLine_same {m : SLine} (valid : m.valid ≠ 0#4) (sl : Slice) : (sl.putLine m).lineAt m.ctx m.line = some m := by
  have gone : (sl.lines.filter fun n => !(n.ctx == m.ctx && n.line == m.line)).find? (fun n => n.ctx == m.ctx && n.line == m.line) = none :=
    List.find?_eq_none.2 fun n mem => by simpa [imp_iff_not_or] using (List.mem_filter.1 mem).2
  unfold Slice.lineAt Slice.putLine; dsimp only
  rw [if_neg valid, List.find?_append, gone]
  simp

theorem lineAt_putLine_other {m : SLine} {ctx line : Nat} (other : m.line ≠ line) (sl : Slice) :
    (sl.putLine m).lineAt ctx line = sl.lineAt ctx line := by
  have rest : (sl.lines.filter fun n => !(n.ctx == m.ctx && n.line == m.line)).find? (fun n => n.ctx == ctx && n.line == line) =
      sl.lines.find? fun n => n.ctx == ctx && n.line == line := by
    rw [List.find?_filter]
    congr 1; funext n
    by_cases key : n.line = line
    · have differs : ¬line = m.line := fun same => other same.symm
      simp only [key, beq_eq_false_iff_ne.2 differs, Bool.and_false, Bool.not_false, true_and, Bool.decide_eq_true]
    · simp [key]
  unfold Slice.lineAt Slice.putLine; dsimp only
  split
  · exact rest
  · rw [List.find?_append, rest]; simp [other]

/-- A line put at the slice of its address is found there (R265). -/
theorem lineOf_putLine_same {s : State} {a b : Nat} {m : SLine} (line : m.line = b / 128) (valid : m.valid ≠ 0#4) (same : a / 128 = b / 128) :
    (s.modSlice (sliceOf (s.contextAt m.ctx).dl m.ctx b) (Slice.putLine m)).lineOf m.ctx a = some m := by
  unfold State.lineOf
  rw [sliceOf_of_line same, same, ← line, sliceAt_modSlice, if_pos (by rfl)]
  exact lineAt_putLine_same valid _

theorem lineOf_putLine_other {s : State} {ctx a j : Nat} {m : SLine} (other : m.line ≠ a / 128) :
    (s.modSlice j (Slice.putLine m)).lineOf ctx a = s.lineOf ctx a := by
  unfold State.lineOf
  rw [sliceAt_modSlice]
  split
  next here => rw [here, lineAt_putLine_other other]; rfl
  next => rfl

theorem lineFor_key (s : State) (ctx va : Nat) (l : Leaf) : (s.lineFor ctx va l).ctx = ctx ∧ (s.lineFor ctx va l).line = va / 128 := by
  unfold State.lineFor
  cases found : s.lineOf ctx va with
  | none => exact ⟨rfl, rfl⟩
  | some m => exact (lineOf_found found).2

/-! ## A piece that returns -/

section
variable (v : Victim) (va : Nat) (l : Leaf) (bs : List Byte)

/-- One line of a piece that returns. -/
def pieceLine (s : State) (j : Nat) : SLine :=
  let a := va + 128 * j
  let bad := (List.range 4).foldl (fun (b : BitVec 4) i => if v.poison.contains (a / 32 + i) then b ||| (1#4 <<< i) else b) 0#4
  { s.lineFor v.ctx a l with valid := 15#4, dirty := 15#4, poison := bad, bytes := (bs.drop (128 * j)).take 128 }

/-- The first lines of a piece that returns. -/
def pieceLines (n : Nat) (s : State) : State :=
  (List.range n).foldl (fun s j =>
    s.modSlice (sliceOf (s.contextAt v.ctx).dl v.ctx (va + 128 * j)) (Slice.putLine (pieceLine v va l bs s j))) s

theorem takePiece_lines (s : State) : s.takePiece v va l bs = pieceLines v va l bs 4 s := rfl

theorem pieceLines_succ (n : Nat) (s : State) : pieceLines v va l bs (n + 1) s =
    (pieceLines v va l bs n s).modSlice (sliceOf ((pieceLines v va l bs n s).contextAt v.ctx).dl v.ctx (va + 128 * n))
      (Slice.putLine (pieceLine v va l bs (pieceLines v va l bs n s) n)) := by
  unfold pieceLines
  rw [List.range_succ, List.foldl_append]; rfl

variable {v va l bs}

/-- Each line of a piece is at its slice with the piece's bytes (R270). -/
theorem lineOf_pieceLines {n j a : Nat} (lt : j < n) (line : a / 128 = va / 128 + j) (s : State) :
    ∃ m, (pieceLines v va l bs n s).lineOf v.ctx a = some m ∧ m.valid = 15#4 ∧ m.bytes = (bs.drop (128 * j)).take 128 := by
  induction n with
  | zero => cases lt
  | succ n ih =>
    have key := lineFor_key (pieceLines v va l bs n s) v.ctx (va + 128 * n) l
    have start : (va + 128 * n) / 128 = va / 128 + n := by omega
    rw [pieceLines_succ]
    obtain earlier | rfl := Nat.lt_succ_iff_lt_or_eq.1 lt
    · rw [lineOf_putLine_other]
      · exact ih earlier
      · exact ne_of_eq_of_ne key.2 (by omega)
    · refine ⟨pieceLine v va l bs (pieceLines v va l bs j s) j, ?_, rfl, rfl⟩
      have found := lineOf_putLine_same (s := pieceLines v va l bs j s) (a := a) (m := pieceLine v va l bs (pieceLines v va l bs j s) j)
        key.2 (show 15#4 ≠ 0#4 by decide) (by omega)
      rwa [show (pieceLine v va l bs (pieceLines v va l bs j s) j).ctx = v.ctx from key.1] at found

end

theorem sectorHit_of_slicing {s t : State} (h : slicing t = slicing s) (ctx va : Nat) : t.sectorHit ctx va = s.sectorHit ctx va := by
  unfold State.sectorHit; rw [lineOf_of_slicing h]

/-- A page's bytes where a piece has come back (R265, R270). -/
theorem memBytes_takePiece {v : Victim} {va : Nat} {l : Leaf} {bs : List Byte} {s t : State}
    (h : slicing t = slicing (s.takePiece v va l bs)) (kind : l.kind = 0) (aligned : va % 128 = 0) {j : Nat} (lt : j < 16) :
    t.memBytes v.ctx (va + 32 * j) 32 l = (((bs.drop (128 * (j / 4))).take 128).drop (32 * (j % 4))).take 32 := by
  obtain ⟨m, found, valid, bytes⟩ := lineOf_pieceLines (v := v) (l := l) (bs := bs) (n := 4) (j := j / 4) (va := va) (a := va + 32 * j)
    (by omega) (by omega) s
  have sector : (15#4).getLsbD (sectorOf (va + 32 * j)) = true := by
    have four : ∀ i < 4, (15#4).getLsbD i = true := by decide
    exact four _ (Nat.mod_lt _ (by decide))
  have hit : t.sectorHit v.ctx (va + 32 * j) = some m := by
    rw [sectorHit_of_slicing h]
    unfold State.sectorHit
    rw [takePiece_lines, found]
    exact if_pos (valid ▸ sector)
  unfold State.memBytes
  rw [if_pos kind, hit, ← bytes, show 32 * (j % 4) = (va + 32 * j) % 128 by omega]

theorem bytes_within (m : Mem) {a n k r : Nat} (le : k + r ≤ n) : ((m.bytes a n).drop k).take r = m.bytes (a + k) r := by
  refine List.ext_getElem (by simp [Mem.bytes]; omega) fun i _ _ => ?_
  simp [Mem.bytes, Nat.add_assoc]

/-! ## Pieces between slices and cores -/

theorem victims_slicing (s : State) (vs : List Victim) : slicing { s with victims := vs } = slicing s := rfl

theorem powerDown_slicing (s : State) (k : Nat) : slicing (s.powerDown k) = slicing s := by
  unfold State.powerDown; split <;> rfl

section
variable {s : State} {k p : Nat} {v : Victim} {l : Leaf}

/-- The slices after a piece's return are those with its lines. -/
theorem pieceBack_slicing : slicing (pieceBack s v k p l) =
    slicing (s.takePiece v (v.va + 512 * v.places.idxOf (k, p)) l ((s.coreAt k).lm.bytes (512 * p) 512)) := by
  rw [pieceBack, powerDown_slicing]
  exact victims_slicing ..

/-- A returned piece reads as it stood in its core (R270). -/
theorem memBytes_pieceBack (kind : l.kind = 0) (aligned : v.va % 512 = 0) {j : Nat} (lt : j < 16) :
    (pieceBack s v k p l).memBytes v.ctx (v.va + 512 * v.places.idxOf (k, p) + 32 * j) 32 l =
      (s.coreAt k).lm.bytes (512 * p + 32 * j) 32 := by
  rw [memBytes_takePiece pieceBack_slicing kind (by omega) lt, bytes_within _ (by omega), bytes_within _ (by omega)]
  congr 1; omega

/-- A piece that is not its page's last returns (R270). -/
theorem victimPieceRecall_returns (now : Performs s (.victimPieceRecall k p))
    (piece : (s.victims.find? fun v => v.recalling && v.places.contains (k, p) && !v.recalled.contains (v.places.idxOf (k, p))) = some v)
    (stored : v.places.length ≤ v.stored) (leaf : s.walk v.ctx v.va = .leaf l) :
    exec .victimPieceRecall s = .next (if v.recalled.length + 1 = v.places.length
      then ((pieceBack s v k p l).setPageState l 0).freeVictim v.ctx v.va else pieceBack s v k p l) := by
  show execVictimPieceRecall s = _
  simp only [execVictimPieceRecall, now, piece, if_neg (Nat.not_lt.2 stored), leaf]
  rw [apply_ite Host.Outcome.next]
  rfl

/-- A core of which only the banks are powered. -/
def banksAlone (c : Core) : Core := { c with power := .holding, lm := [], fe := [] }

/-- An OFF core powers its banks and takes a piece (R75, R270). -/
theorem victimPieceStore_holds {ctx va : Nat} {bs : List Byte} (now : Performs s (.victimPieceStore k p ctx va bs))
    (piece : (s.victims.find? fun v => v.ctx == ctx && v.places.contains (k, p)) = some v) (off : (s.coreAt k).power = .off) :
    ∃ t, exec .victimPieceStore s = .next t ∧ (t.coreAt k).power = .holding ∧ (t.coreAt k).lm = Mem.setBytes (512 * p) bs [] := by
  have powered : (s.modCore k banksAlone).coreAt k = banksAlone (s.coreAt k) := State.coreAt_modCore_same ..
  have stored : ((s.modCore k banksAlone).setLocalBytes k (512 * p) bs).coreAt k =
      { (banksAlone (s.coreAt k)).settle (fun w => 512 * p < w + 4 && w < 512 * p + bs.length) with lm := Mem.setBytes (512 * p) bs [] } := by
    rw [State.setLocalBytes, State.coreAt_modCore_same, powered]; rfl
  refine ⟨{ (s.modCore k banksAlone).setLocalBytes k (512 * p) bs with
    victims := s.victims.map fun w => if w == v then { w with stored := w.stored + 1 } else w }, ?_, ?_⟩
  · show execVictimPieceStore s = _
    simp only [execVictimPieceStore, now, piece, off, if_true]
    exact if_pos (.inl (congrArg Core.power powered))
  · show (((s.modCore k banksAlone).setLocalBytes k (512 * p) bs).coreAt k).power = _ ∧ _ = _
    exact ⟨congrArg Core.power stored, congrArg Core.lm stored⟩

theorem get_map (f : Nat → Nat) (zero : f 0 = 0) (m : SMap Nat) (i : Nat) :
    SMap.get 0 (m.map fun e => (e.1, f e.2)) i = f (SMap.get 0 m i) := by
  unfold SMap.get
  rw [find_map]
  cases SMap.find i m with
  | none => exact zero.symm
  | some n => rfl

/-- A slice with its sketch halved. -/
def halvedSketch (sl : Slice) : Slice := { sl with sketch := sl.sketch.map fun e => (e.1, e.2 / 2), class2 := sl.class2 - 2 ^ 20 }

theorem sketchHalve_halves (now : Performs s (.sketchHalve k)) (full : 2 ^ 20 ≤ (s.sliceAt k).class2) :
    ∃ t, exec .sketchHalve s = .next t ∧ (t.sliceAt k).class2 = (s.sliceAt k).class2 - 2 ^ 20 ∧
      (∀ i, SMap.get 0 (t.sliceAt k).sketch i = SMap.get 0 (s.sliceAt k).sketch i / 2) ∧ ∀ j, j ≠ k → t.sliceAt j = s.sliceAt j := by
  have here : (s.modSlice k halvedSketch).sliceAt k = halvedSketch (s.sliceAt k) := by rw [sliceAt_modSlice, if_pos rfl]
  refine ⟨s.modSlice k halvedSketch, ?_, by rw [here, halvedSketch], fun i => ?_, fun j other => ?_⟩
  · show execSketchHalve s = _
    simp only [execSketchHalve, now, if_pos full, State.modSlice, halvedSketch]
    rfl
  · rw [here]; exact get_map (· / 2) rfl _ i
  · rw [sliceAt_modSlice, if_neg other.symm]

end

end Sys2Proof.Proofs
end

section
/-! SUPPORT. The host's answers and the loss of its link: accesses that wait for the host fail, and so does every later one (R267). Settles
O36. -/

namespace Sys2Proof.Proofs
open Sys2Proof.Machine Sys2Proof.Claims

/-! ## The host's answers -/

section
variable {s : State} {id : Nat} {w : Away}

theorem hostCompletion_answers {good : Bool} {data : List Byte} (now : Performs s (.hostCompletion id good data))
    (away : s.away.find id = some w) (host : w.home = none) :
    exec .hostCompletion s = .next (if good then s.awayDone id (hostLanes w.acc data) else s.awayFail id .hostAbort none) := by
  show execHostCompletion s = _
  simp only [execHostCompletion, now, away, host, Option.isSome_none, Bool.false_eq_true, if_false]
  rw [apply_ite Host.Outcome.next]; rfl

theorem hostCompletionTimeout_fails (now : Performs s (.hostCompletionTimeout id)) (away : s.away.find id = some w) (host : w.home = none) :
    exec .hostCompletionTimeout s = .next (s.awayFail id .remoteUnreachable none) := by
  show execHostCompletionTimeout s = _
  simp only [execHostCompletionTimeout, now, away, host, Option.isSome_none, Bool.false_eq_true, if_false]
  rfl

end

theorem shootdownTimeout_reports {s : State} {ctx va : Nat} (now : Performs s (.shootdownTimeout ctx va)) :
    exec .shootdownTimeout s = .next (s.report .shootdownTimeout (BitVec.ofNat 32 va) ctx 0 0) := by
  show execShootdownTimeout s = _
  rw [execShootdownTimeout, now]; rfl

/-! ## What the failure of an access leaves of others -/

theorem find_filter {α : Type} {keep : Nat × α → Bool} {k : Nat} {v : α} {m : SMap α} (found : SMap.find k m = some v)
    (kept : keep (k, v) = true) : SMap.find k (m.filter keep) = some v := by
  induction m with
  | nil => cases found
  | cons e m ih =>
    obtain ⟨j, w⟩ := e
    unfold SMap.find at found
    split at found
    next same => subst same; cases found; rw [List.filter_cons_of_pos kept, SMap.find, if_pos rfl]
    next other =>
      by_cases here : keep (j, w) = true
      · rw [List.filter_cons_of_pos here, SMap.find, if_neg other]; exact ih found
      · rw [List.filter_cons_of_neg here]; exact ih found

/-- The answer that ends an access with a fault, when its task has not parked (R73, R94). -/
def faultAnswer (a : Access) (c : Cause) (va : Nat) : Event :=
  match a.op with
  | .read | .atomic .. => .loadReply ⟨a.src, a.dest, 0#256, a.acq, a.isAtomic, some ⟨c, false, BitVec.ofNat 32 va⟩, none⟩
  | .write _ | .discard | .add .. => .remoteNack ⟨a.src, .store, c, BitVec.ofNat 32 va, a.group⟩

theorem faultAnswer_load {a : Access} (loads : a.op = .read ∨ a.isAtomic = true) (c : Cause) (va : Nat) : faultAnswer a c va =
    .loadReply ⟨a.src, a.dest, 0#256, a.acq, a.isAtomic, some ⟨c, false, BitVec.ofNat 32 va⟩, none⟩ := by
  unfold Access.isAtomic at loads
  unfold faultAnswer
  cases op : a.op with
  | read | atomic => rfl
  | write | discard | add => simp [op] at loads

theorem faultAnswer_store {a : Access} {lanes : Vec} (stores : a.op = .write lanes) (c : Cause) (va : Nat) :
    faultAnswer a c va = .remoteNack ⟨a.src, .store, c, BitVec.ofNat 32 va, a.group⟩ := by
  rw [faultAnswer, stores]

theorem answerFault_unparked {a : Access} (unparked : a.park = none) (s : State) (c : Cause) (va : Nat) :
    s.answerFault a c va = s.postTo a.group (faultAnswer a c va) := by
  unfold State.answerFault faultAnswer
  rw [unparked]
  cases a.op <;> rfl

theorem answerFault_parked {a : Access} {n : Nat} (parked : a.park = some n) (s : State) (c : Cause) (va : Nat) :
    s.answerFault a c va = s.parkFail n a.seq c va := by
  unfold State.answerFault
  rw [parked]

theorem postTo_away (s : State) (g : Nat) (e : Event) : (s.postTo g e).away = s.away := by
  unfold State.postTo; split <;> rfl

theorem parkDone_away (s : State) (id : Nat) : (s.parkDone id).away = s.away := by
  unfold State.parkDone; split <;> rfl

theorem mem_postTo {e : Event} {s : State} (mem : e ∈ s.pending) (g : Nat) (d : Event) : e ∈ (s.postTo g d).pending := by
  unfold State.postTo; split
  · exact mem
  · exact List.mem_append_left _ mem

theorem mem_parkDone {e : Event} {s : State} (mem : e ∈ s.pending) (id : Nat) : e ∈ (s.parkDone id).pending := by
  unfold State.parkDone; split
  · exact mem
  · exact List.mem_append_left _ mem

/-- An event that is no access stays on its way when an access fails (R268). -/
theorem mem_parkFail {e : Event} {s : State} (mem : e ∈ s.pending) (plain : eventAccess e = none) (id seq : Nat) (c : Cause) (va : Nat) :
    e ∈ (s.parkFail id seq c va).pending :=
  mem_parkDone (List.mem_filter.2 ⟨mem, by rw [plain]⟩) id

theorem mem_awayFail {e : Event} {s : State} (mem : e ∈ s.pending) (plain : eventAccess e = none) (id : Nat) (c : Cause) (v : Option Nat) :
    e ∈ (s.awayFail id c v).pending := by
  have rest : e ∈ ({ s with away := s.away.del id } : State).pending := mem
  unfold State.awayFail; split
  next w _ =>
    cases park : w.acc.park with
    | none => rw [answerFault_unparked park]; exact mem_postTo rest ..
    | some n => rw [answerFault_parked park]; exact mem_parkFail rest plain ..
  · exact mem

/-- An access of a task that has not parked still waits when another fails. -/
theorem find_awayFail {s : State} {id j : Nat} {w : Away} (away : s.away.find id = some w) (unparked : w.acc.park = none) (other : j ≠ id)
    (c : Cause) (v : Option Nat) : (s.awayFail j c v).away.find id = some w := by
  have there : (s.away.del j).find id = some w := by rw [SMap.find_del_other other, away]
  unfold State.awayFail; split
  next x _ =>
    cases park : x.acc.park with
    | none => rw [answerFault_unparked park, postTo_away]; exact there
    | some n =>
      rw [answerFault_parked park, State.parkFail, parkDone_away]
      exact find_filter there (by simp [unparked])
  · exact away

/-- An access of a task that has not parked fails with its answer on its way. -/
theorem awayFail_answers {s : State} {id : Nat} {w : Away} (away : s.away.find id = some w) (unparked : w.acc.park = none)
    (awake : (s.groupAt w.acc.group).stored = false) (c : Cause) :
    faultAnswer w.acc c ((w.acc.elems.map (·.2)).headD 0) ∈ (s.awayFail id c none).pending := by
  unfold State.awayFail
  rw [away]; dsimp only
  have sent (e : Event) : ({ s with away := s.away.del id } : State).postTo w.acc.group e = State.post e { s with away := s.away.del id } :=
    if_neg (Bool.not_eq_true _ ▸ awake)
  rw [answerFault_unparked unparked, sent]
  exact List.mem_append_right _ List.mem_cons_self

theorem awayFail_stored (s : State) (id : Nat) (c : Cause) (v : Option Nat) : (fun g => ((s.awayFail id c v).groupAt g).stored) =
    fun g => (s.groupAt g).stored :=
  awayFail_keeps (fun t : State => fun g => (t.groupAt g).stored)
    (fun t g e => congrArg Prod.snd (ground_modGroup (f := fun gr => { gr with heldMsgs := gr.heldMsgs ++ [e] }) (fun _ => rfl) t g))
    (fun _ _ _ _ _ => rfl) s id c v

/-! ## Every access that waits for the host -/

/-- Accesses that fail, one after another. -/
def failAll (c : Cause) (ids : List Nat) (s : State) : State := ids.foldl (fun s id => s.awayFail id c none) s

theorem mem_failAll {e : Event} (plain : eventAccess e = none) (c : Cause) {ids : List Nat} {s : State} (mem : e ∈ s.pending) :
    e ∈ (failAll c ids s).pending := by
  induction ids generalizing s with
  | nil => exact mem
  | cons j ids ih => exact ih (mem_awayFail mem plain j c none)

theorem eventAccess_faultAnswer (a : Access) (c : Cause) (va : Nat) : eventAccess (faultAnswer a c va) = none := by
  unfold faultAnswer; split <;> rfl

/-- Each of them whose task has not parked is answered. -/
theorem failAll_answers {ids : List Nat} {id : Nat} {w : Away} (c : Cause) (listed : id ∈ ids) (unparked : w.acc.park = none) {s : State}
    (away : s.away.find id = some w) (awake : (s.groupAt w.acc.group).stored = false) :
    faultAnswer w.acc c ((w.acc.elems.map (·.2)).headD 0) ∈ (failAll c ids s).pending := by
  induction ids generalizing s with
  | nil => cases listed
  | cons j ids ih =>
    by_cases here : j = id
    · subst here
      exact mem_failAll (eventAccess_faultAnswer ..) c (s := s.awayFail j c none) (awayFail_answers away unparked awake c)
    · have rest : id ∈ ids := (List.mem_cons.1 listed).resolve_left (Ne.symm here)
      exact ih rest (find_awayFail away unparked here c none) ((congrFun (awayFail_stored s j c none) _).trans awake)

/-- What a walk goes by, the host's port, and the engines' reads. -/
def hostView (s : State) := (s.phys, s.poison, s.feats, s.contexts, s.hostUp, s.fetches)

theorem failAll_hostView (c : Cause) (ids : List Nat) (s : State) : hostView (failAll c ids s) = hostView s := by
  unfold failAll
  exact foldl_keeps hostView _ (fun t j => awayFail_keeps hostView (fun _ _ _ => rfl) (fun _ _ _ _ _ => rfl) t j c none) ids s

theorem walk_of_view {s t : State} (h : (t.phys, t.poison, t.feats, t.contexts) = (s.phys, s.poison, s.feats, s.contexts)) (ctx va : Nat) :
    t.walk ctx va = s.walk ctx va := by
  obtain ⟨phys, poison, feats, contexts⟩ : t.phys = s.phys ∧ t.poison = s.poison ∧ t.feats = s.feats ∧ t.contexts = s.contexts := by
    simpa only [Prod.mk.injEq] using h
  simp only [State.walk, State.feature, State.lpddrEnd, State.populated, State.dieRuns, State.contextAt, phys, poison, feats, contexts]
  rfl

/-! ## The link goes down -/

/-- An engine's read that waits for the host has failed. -/
def failedFetch (f : Fetch) : Fetch := if f.home.isNone ∧ f.ans = .none then { f with ans := .fail .remoteUnreachable none } else f

/-- The host's port out of use, and the reads of engines that wait for it failed. -/
def hostLost (s : State) : State := { s with hostUp := false, fetches := s.fetches.map fun e => (e.1, failedFetch e.2) }

/-- The numbers of the accesses that wait for the host. -/
def hostIds (s : State) : List Nat := (s.away.filter fun e => e.2.home.isNone).map (·.1)

theorem hostLinkDown_fails (s : State) : exec .hostLinkDown s = .next (failAll .remoteUnreachable (hostIds s) (hostLost s)) := rfl

theorem mem_hostIds {s : State} {id : Nat} {w : Away} (away : s.away.find id = some w) (host : w.home = none) : id ∈ hostIds s :=
  List.mem_map.2 ⟨(id, w), List.mem_filter.2 ⟨mem_of_smapFind away, by rw [host]; rfl⟩, rfl⟩

/-- The accesses and reads that wait for the host, and those to come, once its link is down (R267). -/
theorem hostLinkDown_loses (s : State) : ∃ t, exec .hostLinkDown s = .next t ∧ t.hostUp = false ∧ t.phys = s.phys ∧
    (∀ ctx va n l, s.walk ctx va = .leaf l → l.denies n = none → l.state = 0 → l.kind = 3 →
      t.meet ctx va n = .fault .remoteUnreachable) ∧
    (∀ id w, s.away.find id = some w → w.home = none → w.acc.park = none → (s.groupAt w.acc.group).stored = false →
      let v := BitVec.ofNat 32 ((w.acc.elems.map (·.2)).headD 0)
      (w.acc.op = .read ∨ w.acc.isAtomic = true → Event.loadReply ⟨w.acc.src, w.acc.dest, 0#256, w.acc.acq, w.acc.isAtomic,
        some ⟨.remoteUnreachable, false, v⟩, none⟩ ∈ t.pending) ∧
      (∀ b, w.acc.op = .write b → Event.remoteNack ⟨w.acc.src, .store, .remoteUnreachable, v, w.acc.group⟩ ∈ t.pending)) ∧
    (∀ id f, s.fetches.find id = some f → f.home = none → f.ans = .none →
      t.fetches.find id = some { f with ans := .fail .remoteUnreachable none }) := by
  have view := failAll_hostView .remoteUnreachable (hostIds s) (hostLost s)
  obtain ⟨phys, poison, feats, contexts, hostUp, fetches⟩ := by simpa only [hostView, Prod.mk.injEq] using view
  refine ⟨_, hostLinkDown_fails s, hostUp, phys, fun ctx va n l leaf free state kind => ?_, fun id w away host unparked awake => ?_,
    fun id f fetch host waits => ?_⟩
  · have walk : (failAll .remoteUnreachable (hostIds s) (hostLost s)).walk ctx va = s.walk ctx va :=
      walk_of_view (by rw [phys, poison, feats, contexts]; rfl) ctx va
    have meets := meet_leaf (n := n) (walk.trans leaf) free
    simp only [meets, state, meetResident_host _ _ _ kind, hostUp]
    rfl
  · have answered := failAll_answers .remoteUnreachable (s := hostLost s) (mem_hostIds away host) unparked away awake
    refine ⟨fun loads => ?_, fun b stores => ?_⟩
    · rwa [faultAnswer_load loads] at answered
    · rwa [faultAnswer_store stores] at answered
  · rw [fetches, hostLost]; dsimp only
    rw [find_map, fetch]
    simp [failedFetch, host, waits]

/-- R211, R261, R267, R269, R270, R282: migration, shootdowns, the host's answers, and the victim tier. -/
theorem migrationHostAndVictims : MigrationHostAndVictims := by
  refine ⟨fun s ctx va l st now page mem => migrationBegin_page now page mem,
    fun s ctx va raw l now page formed there state run valid => migrationEnd_page now page formed there state run valid,
    fun s ctx lo hi now => ⟨fun busy => shootdown_waits now busy, fun idle => shootdown_drops now idle⟩,
    fun s ctx va now => shootdownTimeout_reports now,
    fun s id data w now away host => hostCompletion_answers now away host,
    fun s id data w now away host => hostCompletion_answers now away host,
    fun s id w now away host => hostCompletionTimeout_fails now away host,
    hostLinkDown_loses, fun s k p ctx va bs v now piece off => victimPieceStore_holds now piece off,
    fun s k p v l now piece stored leaf => ?_, fun s k now full => sketchHalve_halves now full⟩
  have returns := victimPieceRecall_returns now piece stored leaf
  refine ⟨fun more => ⟨?_, fun kind aligned j lt => memBytes_pieceBack kind aligned lt⟩, fun last => ?_⟩
  · rwa [if_neg more] at returns
  · rwa [if_pos last] at returns

/-- Settles O36: each event by what it finds at its page, and what is lost with the host's link by each access that waits for it. -/
theorem pagerAndMigration : Obligations.PagerAndMigration := ⟨pagerEvents, migrationHostAndVictims⟩

end Sys2Proof.Proofs
end
